-- ==== Sys2Proof/Syntax.lean ====
section
/-! DEFINITION. The commands of the device: one constructor per row of spec/opcode_table.json, with its operands.

Rows that are command packets carry the request (`q`) and the payload bytes (`p`) that the packet holds, so that LENGTH and
the byte offsets of R35 mean what the spec says. Rows that are happenings carry what the outside world decides: pin levels,
measured times, received blocks and frames. A time operand `t` is the device time of the happening in ticks of 15.625 ps
(log entry 2). -/

namespace Sys2Proof

/-- A backbone port. -/
inductive Port where
  | A | B
  deriving DecidableEq, Repr

/-- An IP address: version and value. -/
structure Ip where
  v6 : Bool
  addr : Nat
  deriving DecidableEq, Repr

/-- How a command packet reaches the device: over HSPI, or over UDP on a port from a sender to a listening UDP port.
[DESIGN CHOICE, log 101] -/
inductive Via where
  | hspi
  | udp (port : Port) (src : Ip) (sport dport : Nat)
  deriving DecidableEq, Repr

/-- The header fields of a request that its reply echoes (R34, R36). [DESIGN CHOICE, log 98] -/
structure Req where
  via : Via
  tag : Nat
  key : Nat
  auth : Bool
  ctr : Nat
  ver : Nat := 1
  deriving DecidableEq, Repr

/-- An access path that reads and writes registers (R73). -/
inductive Path where
  | hspi | cmd
  | dma (c : Nat)
  deriving DecidableEq, Repr

/-- The state of a UDP checksum as received (R355). -/
inductive Cks where
  | good | zero | bad
  deriving DecidableEq, Repr

/-- A received or sent LLDPDU (R365, R366). -/
structure Lldp where
  chassis : List Byte
  portId : List Byte
  ttl : Nat
  sysName : List Byte
  mgmt : Ip
  oui : List Byte
  sub1 : Option (List Byte)
  deriving DecidableEq, Repr

/-- A DHCPv4 message as far as the client uses it (R352). -/
inductive Dhcp where
  | discover | request
  | ack (addr prefixLen gw t1 t2 lease : Nat)
  | offer (addr server : Nat)
  | nak
  deriving DecidableEq, Repr

/-- What an Ethernet frame carries, by protocol. -/
inductive Body where
  | udp (src dst : Ip) (sport dport : Nat) (cks : Cks) (frag : Bool) (payload : List Byte)
  | arp (reply : Bool) (sha spa tpa : Nat)
  | icmp (echoRequest : Bool) (src dst : Ip) (payload : List Byte)
  | ns (src : Ip) (target : Nat) (lladdr : Nat)
  | na (target : Nat) (lladdr : Nat)
  | dhcp (m : Dhcp)
  | lldp (l : Lldp)
  | ptp (msg : List Byte)
  | prpSup
  | pause
  | other
  deriving DecidableEq, Repr

/-- An Ethernet frame: addresses, VLAN tags as (VID, PCP), length with FCS, whether its FCS is right, its PRP trailer as
(LAN, sequence number), and its content. -/
structure Frame where
  dst : Nat
  src : Nat
  tags : List (Nat × Nat)
  len : Nat
  fcsOk : Bool
  prp : Option (Nat × Nat)
  body : Body
  deriving DecidableEq, Repr

/-- The commands: one constructor per row of the opcode table, in its order. [DESIGN CHOICE, log 2] -/
inductive Instr where
  /-- A command packet arrives over HSPI or UDP and passes or fails acceptance steps 1 to 5, then joins the command queue (R545). -/
  | commandPacketArrival (via : Via) (packet : List Byte)
  /-- Returns variant, revision, behaviour levels, serial, versions, boot slot and cascade index (R56). -/
  | getIdentity (q : Req) (p : List Byte)
  /-- Returns GLB_STATE, the emission-condition word and TBL (R56). -/
  | getState (q : Req) (p : List Byte)
  /-- Starts a capture of a complete device snapshot and replies ACCEPTED_DEFERRED (R74). -/
  | stateDumpCapture (q : Req) (p : List Byte)
  /-- The capture ends and EVT_DEFERRED reports the dump id, total length and CRC (R74). -/
  | stateDumpCaptureDone
  /-- Returns a chunk of the latest dump (R57). -/
  | stateDumpRead (q : Req) (p : List Byte)
  /-- Opens a new session on the transport with a fresh nonce and ends any earlier session (R43). -/
  | authSession (q : Req) (p : List Byte)
  /-- Replies, then within 1 ms resets the device into BOOT as a RESET_N pulse does (R490). -/
  | softReset (q : Req) (p : List Byte)
  /-- Leaves FAULT for IDLE by row 22 when the cause allows it and is gone, and otherwise is refused (R66). -/
  | faultClear (q : Req) (p : List Byte) (failed : Nat)
  /-- Loads the event mask, sets or removes the UDP event destination, and returns the previous mask (R58). -/
  | eventMask (q : Req) (p : List Byte)
  /-- Reads consecutive register words (R59). -/
  | regRead (q : Req) (p : List Byte)
  /-- Writes consecutive register words under the address and block rules (R59). -/
  | regWrite (q : Req) (p : List Byte)
  /-- Performs an indivisible masked read-modify-write of one register and returns the result (R53). -/
  | regModify (q : Req) (p : List Byte)
  /-- Reads bytes from a memory window (R60). -/
  | memRead (q : Req) (p : List Byte)
  /-- Writes bytes into a memory window under its rules (R60). -/
  | memWrite (q : Req) (p : List Byte)
  /-- Checks the staging warp table and copies it into the active copy at once, or defers the copy in SCANNING (R20). -/
  | warpCommit (q : Req) (p : List Byte)
  /-- In the frame gap, the pending commit's table is checked again and copied, and EVT_DEFERRED reports the outcome (R135). -/
  | deferredWarpCopy
  /-- Applies a profile and its overrides at once, or defers them in SCANNING (R211). -/
  | profileSelect (q : Req) (p : List Byte)
  /-- In the frame gap, a pending profile selection is checked together with any pending commit and applied (R213). -/
  | deferredProfileApply
  /-- Checks the preconditions and moves the device from IDLE to PRIMED (R67). -/
  | scanStart (q : Req) (p : List Byte)
  /-- Stops column starts and waits for the column in progress to finish firing (R70). -/
  | scanHold (q : Req) (p : List Byte)
  /-- Once the last FIRE pulse of the column in progress has ended, the device takes row 18 to HOLD and replies (R70). -/
  | holdEntry
  /-- Moves the device from HOLD to PRIMED (R66). -/
  | scanResume (q : Req) (p : List Byte)
  /-- Forces the FIRE outputs idle, abandons the column in progress and enters IDLE (R71). -/
  | scanStop (q : Req) (p : List Byte)
  /-- Sets the frame-start slot grid on TBA or TBB and arms the schedule (R152). -/
  | frameSchedule (q : Req) (p : List Byte)
  /-- Replaces or restores the shot key at once, or at the next frame start in SCANNING (R150). -/
  | keySet (q : Req) (p : List Byte)
  /-- Checks and accepts a calibration procedure, which then runs in the background (R458). -/
  | calRun (q : Req) (p : List Byte)
  /-- One 4 µs step of a non-emitting procedure runs in calibration time (R461). -/
  | calProcedureStep (counts : List (Nat × Nat))
  /-- A procedure ends, records Q0 and Q1, and writes its results at one instant or ends CAL_FAILED (R464). -/
  | calProcedureEnd (vals : List (Nat × List Int))
  /-- Returns the last outcome and quality figures of a procedure (R466). -/
  | calStatus (q : Req) (p : List Byte)
  /-- Marks the named stale domains as accepted (R470). -/
  | calAcceptStale (q : Req) (p : List Byte)
  /-- Returns the emission conditions, causes, trip, walk, diagnostics, exposure and zone words (R308). -/
  | safetyStatus (q : Req) (p : List Byte)
  /-- Clears every latched cause when all are clearable, and otherwise replies SAFETY_BLOCK (R307). -/
  | deadboltClear (q : Req) (p : List Byte)
  /-- Loads the three exposure limits within the fused ceilings (R323). -/
  | exposureLimits (q : Req) (p : List Byte)
  /-- Accepts the requested self-tests and runs them at once or in the next frame gap (R328). -/
  | safetySelfTest (q : Req) (p : List Byte)
  /-- The self-tests end and EVT_DEFERRED reports the failed tests (R328). -/
  | safetySelfTestDone (failed : Nat)
  /-- Checks the staging zone tables and copies them at once, or defers the copy in SCANNING (R330). -/
  | zoneCommit (q : Req) (p : List Byte)
  /-- In the frame gap, the pending zone commit is checked, copied, and reported (R330). -/
  | deferredZoneCopy
  /-- A checked safety-command copy enters its port's pending slot and executes when paired (R340). -/
  | safeCommand (q : Req) (p : List Byte)
  /-- A copy still alone 8 ms after arrival is dropped and answered SAFETY_BLOCK (R340). -/
  | safeCommandUnpaired
  /-- Checks and loads the recorder parameters, frees every segment and starts filling segment 0 (R282). -/
  | recArm (q : Req) (p : List Byte)
  /-- Ends or discards the capture in progress and puts the recorder in IDLE (R289). -/
  | recDisarm (q : Req) (p : List Byte)
  /-- Presents a source-0 trigger to the recorder (R290). -/
  | recTrigger (q : Req) (p : List Byte)
  /-- Returns the EVR registers, captured at one instant (R298). -/
  | recStatus (q : Req) (p : List Byte)
  /-- Returns bytes of a held segment in chronological order (R297). -/
  | recRead (q : Req) (p : List Byte)
  /-- Returns TBS, TBL, TBA and TBB captured at one instant (R372). -/
  | timeRead (q : Req) (p : List Byte)
  /-- Sets TBS, TBA or TBB to a value (R375). -/
  | timeSetValue (q : Req) (p : List Byte)
  /-- Steps TBS, TBA or TBB by a signed amount (R375). -/
  | timeSetStep (q : Req) (p : List Byte)
  /-- Adjusts the frequency of a time base (R375). -/
  | timeSetFrequency (q : Req) (p : List Byte)
  /-- Configures and restarts a port's PTP engine (R376). -/
  | ptpConfig (q : Req) (p : List Byte)
  /-- Loads a port's asymmetry correction and, in holdover for cause 3, resumes acquiring (R380). -/
  | asymSet (q : Req) (p : List Byte)
  /-- Returns and removes the oldest transmit time-stamp entries (R384). -/
  | txtsRead (q : Req) (p : List Byte)
  /-- Configures a timed-launch queue of a port (R385). -/
  | launchConfig (q : Req) (p : List Byte)
  /-- Returns the link state, the partner capabilities and the lane status (R428). -/
  | linkStatus (q : Req) (p : List Byte)
  /-- Enables the named links and restarts them at DETECT (R428). -/
  | linkTrain (q : Req) (p : List Byte)
  /-- Disables a link, which moves it to DOWN (R428). -/
  | linkRelease (q : Req) (p : List Byte)
  /-- Loads the cascade role, topology, members, flags and epoch, and resends CAPX pairs (R404). -/
  | cascadeConfig (q : Req) (p : List Byte)
  /-- Puts a link into TEST and sends and checks a PRBS sequence for the given duration (R423). -/
  | linkTestPrbs (q : Req) (p : List Byte)
  /-- Runs an eye-margin scan on each named lane (R424). -/
  | linkTestMargin (q : Req) (p : List Byte)
  /-- A link test ends, EVT_DEFERRED reports per-lane results and a PRBS link returns to DETECT (R422). -/
  | linkTestDone (l : Nat) (r : List (Nat × Nat × Nat))
  /-- Switches a power domain on after the dependency checks (R491). -/
  | pwrDomainOn (q : Req) (p : List Byte)
  /-- Switches a power domain off after the dependency, SCANNING, servo and DMA checks (R491). -/
  | pwrDomainOff (q : Req) (p : List Byte)
  /-- A domain's switch-on completes, its registers reset and its clears, reloads and stale marks follow (R492). -/
  | domainSwitchOnDone
  /-- A domain's outputs are isolated and its rails removed, with the loss of its state (R492). -/
  | domainSwitchOffDone
  /-- Returns the THM words captured at one instant (R483). -/
  | thermalStatus (q : Req) (p : List Byte)
  /-- Writes an ACK record for a SHUTDOWN record and clears HISTORY when none newer remains (R479). -/
  | ackThermalEvent (q : Req) (p : List Byte)
  /-- Returns NV log records from a given SEQ (R482). -/
  | nvlogRead (q : Req) (p : List Byte)
  /-- Loads the warning, throttle and shutdown thresholds (R474). -/
  | thermalLimits (q : Req) (p : List Byte)
  /-- Returns a slot's check codes and header bytes (R506). -/
  | imageInfo (q : Req) (p : List Byte)
  /-- Returns bytes of the configuration flash (R507). -/
  | flashRead (q : Req) (p : List Byte)
  /-- Starts erasing 64 KiB sectors of the flash (R507). -/
  | flashErase (q : Req) (p : List Byte)
  /-- Starts writing bytes into the flash (R507). -/
  | flashWrite (q : Req) (p : List Byte)
  /-- A flash erase or write completes and EVT_DEFERRED reports it (R507). -/
  | flashOperationDone
  /-- Starts a full check of a slot's image (R508). -/
  | imageVerify (q : Req) (p : List Byte)
  /-- The image check ends and EVT_DEFERRED reports its code (R508). -/
  | imageVerifyDone (readErr : Bool)
  /-- Stores the slot to try first at the next boot in the NV array (R509). -/
  | imageSelect (q : Req) (p : List Byte)
  /-- An HSPI transaction carries packet bytes into the receive FIFO within RXFREE (R47). -/
  | cmdWrite (bytes : List Byte) (midByte : Bool)
  /-- An HSPI transaction presents the head reply and consumes it once fully clocked out (R48). -/
  | replyRead (complete : Bool)
  /-- An HSPI transaction presents the head ALERT event and consumes it once fully clocked out (R48). -/
  | alertRead (complete : Bool)
  /-- An HSPI transaction presents the head NOTICE event and consumes it once fully clocked out (R48). -/
  | noticeRead (complete : Bool)
  /-- An HSPI direct register read returns data and a result byte (R49). -/
  | regRd (a : Nat)
  /-- An HSPI direct posted register write is applied or refused with WR_ERR (R50). -/
  | regWr (a : Nat) (w : Word)
  /-- An HSPI STATUS transaction returns CMD_HSPI_STATUS (R46). -/
  | hspiStatusRead
  /-- A write to a register field with no behaviour of its own, applied under its access code (R14). -/
  | registerWrite (path : Path) (a : Nat) (w : Word)
  /-- A read of an RS low word returns the live value and latches the high word into the path's shadow (R73). -/
  | rsLowWordRead (path : Path) (a : Nat)
  /-- A read of an RS high word returns the shadow, or the live word with PAIR_MISS (R73). -/
  | rsHighWordRead (path : Path) (a : Nat)
  /-- A host write of the behaviour level is applied in IDLE within the permitted range and otherwise ignored (R9). -/
  | glbBehaviourWrite (path : Path) (level : Nat)
  /-- A write of 1 to ESF_CTRL.TRIP latches the HOST cause (R304). -/
  | hostTrip (path : Path)
  /-- TDC_CNT_CLR.QUARTER clears the input counters and FIFO peaks of a quarter (R97). -/
  | tdcCounterClear (path : Path) (quarters : Nat)
  /-- TDC_CNT_CLR.FREF clears the MISS counts of the fire references (R97). -/
  | frefMissClear (path : Path)
  /-- A write of 1 to GO triggers a single injection of the test pulse injector (R104). -/
  | tpiGo (path : Path)
  /-- The injector's period expires and triggers an injection, or skips one still running (R104). -/
  | tpiPeriodicTrigger
  /-- An injection pulse is driven on the enabled inputs after its delay (R104). -/
  | testPulseInjection
  /-- TMB_CNT_CLR clears the Tumbler counters of a quarter (R128). -/
  | tmbCounterClear (path : Path) (quarters : Nat)
  /-- FIR_CNT_CLR.ALL clears FIR_CNT_A, FIR_CNT_B and every FIR_OUT_CNT (R132). -/
  | firCounterClear (path : Path)
  /-- HGE_CNT_CLR.QUARTER clears the histogram counters of a quarter (R182). -/
  | hgeCounterClear (path : Path) (quarters : Nat)
  /-- HGE_CNT_CLR.WAIT clears HGE_SET_WAIT (R182). -/
  | hgeWaitClear (path : Path)
  /-- A write of the bin setting is applied in IDLE within limits, and otherwise refused with a flag (R156). -/
  | hgeBinWrite (path : Path) (w : Word)
  /-- EXT_CNT_CLR.ALL clears the extraction counters (R209). -/
  | extCounterClear (path : Path)
  /-- A write of NM1 computes a new SCALE, which takes effect at once or at the next scan (R191). -/
  | extAirWrite (path : Path) (nm1 : Nat)
  /-- FIR_ALC_CTRL.CLR clears FIR_ALC_CNT (R224). -/
  | alcCounterClear (path : Path)
  /-- SRV_STATUS.CNT_CLR clears the servo counters (R250). -/
  | srvCounterClear (path : Path)
  /-- A write of MANUAL or AUTO takes effect at the loop's next sample (R237). -/
  | loopModeWrite (path : Path) (x : Nat) (auto : Bool)
  /-- A write of the manual output is taken in MANUAL and ignored with a flag in AUTO (R237). -/
  | loopManWrite (path : Path) (x : Nat) (w : Word)
  /-- A write to a loop-open register or SRV_TICK is applied when the loop is open and otherwise refused (R239). -/
  | loopOpenRegisterWrite (path : Path) (a : Nat) (w : Word)
  /-- A write of SWAP requests a bank change at the next wrap (R241). -/
  | trajectorySwapRequest (path : Path) (x : Nat)
  /-- A write into a trajectory bank is ignored in the active bank of a running loop and otherwise taken (R241). -/
  | trajectoryWrite (path : Path) (m b e : Nat) (w : Word)
  /-- A write of TUNE_EN starts or stops the servo in IDLE, and outside IDLE is only stored (R244). -/
  | tuneEnWrite (path : Path) (on : Bool)
  /-- A write of ARM clears the trace count and arms the trace (R248). -/
  | traceArm (path : Path)
  /-- A write of STOP ends the trace capture in DONE (R248). -/
  | traceStop (path : Path)
  /-- A write of FORCE presents a trigger of source 0 to the trace (R248). -/
  | traceForce (path : Path)
  /-- The post-trigger record count is reached and the trace enters DONE (R248). -/
  | traceDone
  /-- A write of MAD_CTRL.GO is a sequencer trigger of source 0 (R262). -/
  | madGo (path : Path)
  /-- Setting SEQ_EN starts the sequencer at entry 0, and clearing it stops after the conversion in progress (R261). -/
  | seqEnWrite (path : Path) (on : Bool)
  /-- MAD_CTRL.CNT_CLR clears the monitor ADC counters (R272). -/
  | madCounterClear (path : Path)
  /-- A write of REF_EN switches the reference buffer request (R253). -/
  | refEnWrite (path : Path) (on : Bool)
  /-- A write of MAD_INJ.GO requests one injected conversion or drops it (R257). -/
  | injGo (path : Path) (w : Word)
  /-- A write to the sequencing table, MAD_TRIG or MAD_TIMER is refused while the sequencer runs (R263). -/
  | sequenceTableWrite (path : Path) (a : Nat) (w : Word)
  /-- A write of MFC_SYNC.SYNC performs a synchronising reset of the named chains (R266). -/
  | mfcSync (path : Path) (chains : Nat)
  /-- A rise of MFC_CH_CTRL.EN resets and starts a chain, and a fall stops it (R266). -/
  | chainEnable (path : Path) (c : Nat) (on : Bool)
  /-- A write to a chain's configuration or coefficients is taken while stopped and refused while running (R268). -/
  | chainConfigWrite (path : Path) (a : Nat) (w : Word)
  /-- MFC_STATUS.CNT_CLR clears the threshold event counters (R272). -/
  | mfcCounterClear (path : Path)
  /-- A write of EVR_CTRL.FORCE presents a source-0 trigger to the recorder (R285). -/
  | evrForce (path : Path)
  /-- EVR_CTRL.CNT_CLR clears the recorder counters (R302). -/
  | evrCounterClear (path : Path)
  /-- A write to EVR_SEG_FREE frees HELD segments (R275). -/
  | segmentFree (path : Path) (segs : Nat)
  /-- A write of a mask's source or envelope is refused while the mask is enabled (R296). -/
  | maskConfigWrite (path : Path) (a : Nat) (w : Word)
  /-- A rise of ETHx_CTRL.EN applies the pending port settings and starts the link (R351). -/
  | portEnable (path : Path) (port : Port)
  /-- A fall of ETHx_CTRL.EN stops the port and sends a final LLDPDU with TTL 0 (R365). -/
  | portDisable (path : Path) (port : Port)
  /-- A write of the line mode is taken only while the port is disabled (R343). -/
  | portModeWrite (path : Path) (port : Port) (mode : Nat)
  /-- A write to an address, MTU, VLAN or UDP register while enabled is stored as pending (R351). -/
  | portSettingsWrite (path : Path) (port : Port) (k : Nat) (w : Word)
  /-- A write of the credit-based shaper setting is taken within limits or refused (R350). -/
  | cbsWrite (path : Path) (port : Port) (w : Word)
  /-- ETHx_CNT_CLR.ALL clears the port counters (R368). -/
  | portCounterClear (path : Path) (port : Port)
  /-- ETHx_CNT_CLR.STRM clears ETHA_STRM_CNT and the fill peak (R368). -/
  | streamCounterClear (path : Path)
  /-- TIM_STATUS.CNT_CLR clears the time-base counters (R390). -/
  | timCounterClear (path : Path)
  /-- A rise of TIM_EVOUT_CFG.EN starts a timed output and flags a past time (R389). -/
  | timedOutputEnable (path : Path) (k : Nat) (w : Word)
  /-- A write of WFL_CTRL.EN starts a link at DETECT or sends it DOWN (R398). -/
  | linkEnableWrite (path : Path) (l : Nat) (on : Bool)
  /-- A write of WFL_TEST.INJ inverts one bit on a lane within 1 µs (R423). -/
  | linkErrorInject (path : Path) (l lanes : Nat)
  /-- WFL_CNT_CLR.ALL clears the counters of a link (R431). -/
  | wflCounterClear (path : Path) (l : Nat)
  /-- HNG_CNT_CLR.ALL clears the cascade counters (R431). -/
  | hngCounterClear (path : Path)
  /-- A write of HNG_TAP_CTRL.EN enables the raw tap or is refused with CFG_REJ (R425). -/
  | tapEnable (path : Path) (on : Bool)
  /-- A rise of DMA_CH_CTRL.EN runs the configuration checks and makes the channel WAITING (R437). -/
  | dmaChannelEnable (path : Path) (c : Nat)
  /-- A write of 0 to EN drops everything in the channel at once (R445). -/
  | dmaChannelDisable (path : Path) (c : Nat)
  /-- A configuration write to an enabled channel is ignored with WR_IGNORED (R438). -/
  | dmaConfigWrite (path : Path) (c k : Nat) (w : Word)
  /-- DMA_Q_CTRL.FLUSH_MON empties QMON once any burst in progress completes (R448). -/
  | flushMon (path : Path)
  /-- DMA_Q_CTRL.FLUSH_QFILT empties QFILT once any burst in progress completes (R448). -/
  | flushQfilt (path : Path)
  /-- DMA_Q_CTRL.CNT_CLR clears DROP, MISS and LAPS (R449). -/
  | dmaCounterClear (path : Path)
  /-- A rise of DMA_QFILT_CFG.EN starts collection and restarts SEQ at 0 (R434). -/
  | qfiltEnable (path : Path) (on : Bool)
  /-- CAL_POLICY.CNT_CLR clears CAL_CNT (R484). -/
  | calCounterClear (path : Path)
  /-- THM_STATE.CNT_CLR clears THM_CNT and SUPPR (R484). -/
  | thmCounterClear (path : Path)
  /-- A host write of PMU_BOOT.NEXT is stored in the non-volatile array (R509). -/
  | bootNextWrite (path : Path) (slot : Nat)
  /-- A write of a segment weight is taken outside SCANNING when at or above its floor (R324). -/
  | exposureWeightWrite (path : Path) (j : Nat) (w : Word)
  /-- A host write to a PD00 register completes through the AON handshake within 91.6 µs (R32). -/
  | pd00Write (path : Path) (a : Nat) (w : Word)
  /-- VIN becomes valid and the device enters BOOT by row 3 when PORST_N is high (R485). -/
  | vinValid (mv : Nat)
  /-- VIN falls below its valid level and the device goes to OFF (R485). -/
  | vinLoss
  /-- A recognised low of PORST_N takes row 1 and holds every domain but PD00 off (R489). -/
  | porstLow
  /-- PORST_N rises and the device enters BOOT by row 3 (R489). -/
  | porstRise
  /-- A recognised low of RESET_N cuts emission and enters BOOT by row 5 (R490). -/
  | resetLow
  /-- RESET_N rises and boot proceeds (R490). -/
  | resetRise
  /-- The fuse shadows are loaded and the vendor CRC checked, or boot stops with 0xE0 (R494). -/
  | fuseRead (hgId : Nat)
  /-- The PLLs lock and PD01 comes on, or after 10 ms STAGE reads 0xE1 (R502). -/
  | clockLock (locked : Bool)
  /-- The flash SFDP table is read and the slots are laid out (R496). -/
  | sfdpRead (density : Nat) (content : Option (List (Nat × List Byte)))
  /-- A slot's image is read and checked, and it is booted, or the other slot is tried, or boot fails (R503). -/
  | slotCheck (readErr : Bool)
  /-- Integrator fuse fields are programmed from FUSE_PROG and the shadows reloaded (R495). -/
  | fuseProgramming
  /-- The domains of POWER_MASK are switched on in ascending order (R502). -/
  | bootPower
  /-- The memories are march-tested, and a failure takes row 7 (R502). -/
  | mbist (pass : Bool)
  /-- The cores and the lockstep comparator are self-tested, and a failure takes row 7 (R502). -/
  | lbist (pass : Bool)
  /-- The image sections are applied, READY rises and the device enters IDLE by row 8 (R500). -/
  | configApply
  /-- A PLL loses lock and a CLOCK cutoff cause latches (R24). -/
  | pllLockLoss (ref t h c : Bool)
  /-- PLL lock returns and TBS continues from its held value (R369). -/
  | pllLockRegain (t h c : Bool)
  /-- Lock is not regained within 1 ms and the device enters FAULT by row 12 (R66). -/
  | pllLockTimeout
  /-- A quarter's delay line loses lock and its pulses are discarded until lock returns (R96). -/
  | dllUnlock (q : Nat)
  /-- Loading EXTEST into the test access port latches HOST and hands the balls to boundary scan (R530). -/
  | extestLoad
  /-- A rising crossing of the low threshold starts a pulse, or is ignored in dead time (R86). -/
  | returnLeadingEdge (n c tap : Nat)
  /-- A pulse ends, is validated, walk-corrected and written as an event into the FIFO (R88). -/
  | returnTrailingEdge (n c tap peak : Nat) (clamp : Bool)
  /-- No trailing edge within 4,095 ticks, so the event is written with TOT_SAT (R88). -/
  | totSaturation (n peak : Nat) (clamp : Bool)
  /-- A group's return-ground offset exceeds 150 mV for 10 µs and RGND_FAULT is set (R83). -/
  | rgndFault (g : Nat) (present : Bool)
  /-- The first leading edge on a fire reference inside its window gives the measured emission time (R99). -/
  | frefEdge (k c tap tot : Nat)
  /-- A fire-reference window closes, with or without an edge, and the shot record enters the crossing (R101). -/
  | frefWindowClose (k : Nat)
  /-- An event leaves its FIFO into the Tumbler, or is discarded for a low ToT (R111). -/
  | tumblerEventEntry (n : Nat)
  /-- W + 4 ns after entry, a candidate is accepted with its partners or left unconsumed (R112). -/
  | coincidenceDecision (p : Nat)
  /-- An unconsumed event leaves the Tumbler 2W + 8 ns after entry and counts as rejected (R114). -/
  | candidateExpiry (p : Nat)
  /-- A dark gate ends, the ambient estimate is updated and the tracking step may change (R119). -/
  | darkGateEnd
  /-- Outside SCANNING, a free-running dark gate runs every FREE_PERIOD (R120). -/
  | freeRunGate
  /-- A frame-start event from the selected source arrives and either starts a frame or is ignored and counted (R143). -/
  | frameStartEvent
  /-- A time-base slot of the frame schedule is reached (R153). -/
  | scheduleSlot
  /-- A frame starts, FIR_FRAME advances, a pending key applies and HG_SYNC is driven by index 0 (R143). -/
  | frameStart
  /-- A column starts at its time or azimuth once its set is FREE, with shots, burst and descriptor set (R137). -/
  | columnStart (t : Nat)
  /-- A shot fires at its commanded edge with dither after the exposure check, driving FIRE pulses and a shot notice (R139). -/
  | shotFire
  /-- The last shot's timing window ends and the column's set is released for extraction (R18). -/
  | columnClose
  /-- The last non-blank column of a frame closes and the frame gap begins (R143). -/
  | frameEnd
  /-- The shot allocator computes the next frame's shot counts (R219). -/
  | allocation
  /-- The scheduler takes an accepted event, admits or drops it on credit, and bins it against the shots in flight (R160). -/
  | eventBinning (q t : Nat)
  /-- On the notice of the first zoom-burst shot, the zoom windows are placed from the candidates (R163). -/
  | zoomPlacement
  /-- A closed set is scanned, cleared, checked for conservation, and its echoes are extracted and refined (R166). -/
  | extractionScan
  /-- Refinement ends and the set becomes FREE (R165). -/
  | extractionEnd
  /-- A column's header and records have entered the output crossing and the last-column registers update (R207). -/
  | columnOutputComplete
  /-- On entry to SCANNING, both sets are cleared within 12.8 µs (R168). -/
  | histogramClear
  /-- The servo tick recurs and triggers the tick conversions (R227). -/
  | servoTick (r0 r1 r2 r3 : Int)
  /-- A loop computes its control law and writes its output code, azimuth and rate (R235). -/
  | loopSample (x : Nat)
  /-- After 4 consecutive invalid samples in AUTO, the loop trips to MANUAL (R230). -/
  | loopTrip (x : Nat)
  /-- After DEB_OUT bad verdicts, IN falls and a MIRROR cause latches if armed (R246). -/
  | mirrorWindowExit
  /-- After DEB_IN good verdicts, IN rises (R246). -/
  | mirrorWindowEntry
  /-- The ramp to SAFE codes completes and the loops stop (R244). -/
  | servoStopRampDone
  /-- A filtered quadrature edge counts, or an illegal transition invalidates the count (R234). -/
  | encoderEdge (a b : Bool)
  /-- An index edge copies the count, may zero it, revalidates it and gives the index period (R234). -/
  | qeiRisingEdge
  /-- The reference buffer has been on for 40 µs and REF_RDY rises (R253). -/
  | referenceReady
  /-- Every 10 µs, or on request, a guard pair of VRES and VMID is converted and delivered (R258). -/
  | guardConversion (vres vmid : Int)
  /-- No guard pair for 25 µs while armed latches a GUARD cause (R318). -/
  | guardGap
  /-- The sequencer converts an entry, delivers results and advances (R261). -/
  | sequenceConversion (r0 r1 r2 r3 : Int)
  /-- An injected conversion completes and MAD_INJ_RES is loaded (R257). -/
  | injectedConversionDone (r : Int)
  /-- A trigger from the selected source is accepted at a waiting entry or ignored (R262). -/
  | sequencerTrigger
  /-- MAD_TIMER expires and gives a trigger of source 4 (R262). -/
  | madTimerExpiry
  /-- A chain takes an input and, at each D-th input, emits an output with its threshold test (R265). -/
  | filterInput
  /-- An event, monitor sample or row unit is written into the recorder segment (R279). -/
  | recorderItem
  /-- PRE units have been written and the recorder moves from FILLING to ARMED (R284). -/
  | recorderPreReached
  /-- A trigger is accepted in ARMED, or ignored and counted in other states (R286). -/
  | recorderTrigger
  /-- POST units follow the trigger, the segment becomes HELD and the recorder enters DONE or REARM (R287). -/
  | captureEnd
  /-- In REARM, 1 µs after the next segment is FREE, filling restarts (R288). -/
  | segmentRestart
  /-- A stream's loss episode closes and a gap record is written (R281). -/
  | lossEpisodeClose (monitor : Bool)
  /-- A mask tests a sample against its envelope and acts on a violation (R295). -/
  | maskSampleTest
  /-- A rising edge of HG_TRIG is received and presented as a source-3 trigger (R292). -/
  | hgTrigEdge (t : Nat)
  /-- A permit channel changes and advances the start-up test or cuts emission (R309). -/
  | permitChange (a b : Bool)
  /-- The permit channels differ for longer than DISC ms and a discrepancy latches (R310). -/
  | permitDiscrepancy
  /-- COVER_N changes, and a rise while armed latches COVER (R312). -/
  | coverChange (high : Bool)
  /-- HG_FAULT_N falls from another device and latches HG while armed (R313). -/
  | hgFaultFall
  /-- An auto-clearable cause clears after its condition holds for HOLDOFF ms (R307). -/
  | autoClear (code : Nat)
  /-- In PRIMED with ALL = 1, the walk arms the Deadbolt and starts step 0 (R315). -/
  | switchWalkStart
  /-- A walk step ends with its guard pair, and the walk passes, fails or moves to the next step (R315). -/
  | walkStepEnd
  /-- No guard pair arrives within 100 µs of its request and the walk fails with reason 5 (R316). -/
  | walkGuardTimeout
  /-- A guard pair shows the reservoir charged and the first shot may fire (R317). -/
  | reservoirCharged
  /-- The reservoir fails to charge within T_C and SWITCH latches (R317). -/
  | reservoirChargeTimeout
  /-- An exposure window's sub-interval advances and old charges leave the level (R320). -/
  | exposureSubinterval (w : Nat)
  /-- The watchdog expires and the device enters FAULT by row 10 (R327). -/
  | watchdogExpiry
  /-- The lockstep comparator reports a mismatch and the device enters FAULT by row 9 (R326). -/
  | lockstepMismatch
  /-- After a frame, both evaluators compute the zone states and a safe report is sent (R332). -/
  | zoneEvaluation (disagree : Bool)
  /-- PERIOD ms after the last report, a safe report is sent on both ports (R337). -/
  | safeReportPeriodic
  /-- PCS lock holds for 10 ms, LINK sets and EVT_PORT is raised (R344). -/
  | linkUp (port : Port) (speed : Nat)
  /-- Port lock is lost, queued frames are flushed and EVT_PORT is raised (R345). -/
  | linkDown (port : Port)
  /-- A received frame is filtered and dispatched to ARP, ICMP, ND, DHCP, PTP, PRP or UDP (R346). -/
  | frameReceive (port : Port) (frame : Frame)
  /-- A received LLDPDU updates or takes a neighbour entry (R366). -/
  | lldpduReceive (port : Port) (frame : Frame)
  /-- A neighbour entry's TTL runs out and it is cleared (R366). -/
  | neighbourExpiry (port : Port) (e : Nat)
  /-- Every TX_INT seconds, the port sends an LLDPDU (R365). -/
  | lldpTransmit (port : Port)
  /-- Every 2 s, PRP supervision frames are sent (R363). -/
  | prpSupervision
  /-- The DHCP client renews at T1, rebinds at T2, or removes the address at expiry (R352). -/
  | dhcpLeaseTimer (port : Port)
  /-- An unresolved next hop repeats its ARP request every 1 s (R353). -/
  | arpRetry (port : Port)
  /-- An ARP cache entry ages out after 60 s (R353). -/
  | arpEntryAgeOut (port : Port)
  /-- Duplicate address detection on an IPv6 address ends, enabling the address or setting DAD_FAIL (R354). -/
  | duplicateAddressDetection (port : Port) (linkLocal duplicate : Bool)
  /-- A stream message closes on size, HOLD or the end of a frame and is queued for the ports (R360). -/
  | streamMessageClose
  /-- A port starts the next frame from its priority queues under the shaper (R349). -/
  | frameTransmit (port : Port)
  /-- A timed frame becomes eligible at its launch time and is sent, sent flagged or dropped (R387). -/
  | timedLaunch (port : Port)
  /-- Every 1 µs, an anchor of TBS and network times is captured (R373). -/
  | timeAnchor
  /-- A Sync, with its Follow_Up, gives an offset that steps, slews or is rejected (R378). -/
  | ptpSync (port : Port) (d : Int)
  /-- A delay measurement updates the mean path delay, or enters HOLDOVER on a path step (R378). -/
  | ptpDelayMeasurement (port : Port) (ms sm ratio : Int)
  /-- An Announce enters the dataset comparison for master choice (R377). -/
  | ptpAnnounce (port : Port) (dataset : List Byte)
  /-- A MASTER port sends Announce and two-step Sync with Follow_Up (R377). -/
  | ptpMasterSend (port : Port) (sync : Bool)
  /-- Missing Sync or Announce for 3 intervals puts the base into HOLDOVER (R379). -/
  | ptpMessageTimeout (port : Port) (announce : Bool)
  /-- Every 1 ms, TBA and TBB are compared and XCHK_FAIL may set (R381). -/
  | timeCrossCheck
  /-- A PPS_IN rising edge disciplines TBS or is ignored out of range (R374). -/
  | ppsInEdge (t : Nat)
  /-- PPS_OUT pulses at each whole second of its time base (R389). -/
  | ppsOutPulse
  /-- A timed output drives its GPIO pulse at its time and then each period (R389). -/
  | timedOutputPulse (k : Nat)
  /-- Every 100 µs in DETECT, the link tries to detect termination and moves to TRAIN (R398). -/
  | terminationDetect (l : Nat) (found : Bool)
  /-- Phase lock on every lane moves the link from TRAIN to BITLOCK (R398). -/
  | linkTrainingDone (l : Nat) (ctle : List Nat)
  /-- A lane gains or loses block lock from its header count (R395). -/
  | blockLock (l k : Nat) (lock : Bool) (bad stuff : Nat)
  /-- ALIGN blocks deskew the lanes and advance the link to DESKEW and CAPX (R396). -/
  | alignReceive (l count : Nat) (skew : List Nat)
  /-- A received CAPX pair is checked and sets the link ACTIVE, QUARANTINE or CAPX (R401). -/
  | capxPairReceive (l : Nat) (capx0 capx1 : List Byte)
  /-- A CAPX pair is sent every 100 µs in CAPX and every 1 ms otherwise (R400). -/
  | capxSend (l : Nat)
  /-- After 10 ms without reaching ACTIVE or QUARANTINE, the link returns to DETECT (R398). -/
  | linkBringupTimeout (l : Nat)
  /-- A loss of phase or block lock, or a misplaced ALIGN, returns the link to TRAIN (R398). -/
  | linkLockLoss (l : Nat) (receiving : Bool)
  /-- 256 consecutive IDLE blocks freeze a lane's adaptation (R397). -/
  | idleFreeze (l k : Nat)
  /-- While the partner lane is frozen, a KEEPALIVE is sent on each lane every 1 ms (R397). -/
  | keepaliveSend (l : Nat)
  /-- A control block is received and checked, or discarded on a bad CRC or TYPE (R392). -/
  | controlBlockReceive (l : Nat) (block : List Byte)
  /-- A receiver sends XOFF at 40 blocks and XON at 16, and the transmitter stops or resumes (R411). -/
  | xoff (l fill : Nat)
  /-- A member receives the head's warp table and installs or refuses it, answering STATUS (R412). -/
  | warp (l src dst : Nat) (hdr body : List Byte) (crcOk : Bool)
  /-- A member receives the shot counts for the next frame and acknowledges them (R414). -/
  | frame (l src dst : Nat) (hdr body : List Byte) (crcOk : Bool)
  /-- The head receives a member's STATUS and updates reachability, refusals and headroom (R412). -/
  | status (l src dst : Nat) (hdr body : List Byte) (crcOk : Bool)
  /-- A member sends STATUS every 10 ms (R412). -/
  | statusPeriodic
  /-- No STATUS from a member for 20 ms clears its REACH bit (R412). -/
  | memberUnreachable (m : Nat)
  /-- The head's 50 µs wait for FRAME acknowledgements ends, and lagging members are marked (R413). -/
  | frameAckTimeout
  /-- The head receives a forwarded column and packs it into its stream (R417). -/
  | points (l src dst : Nat) (hdr body : List Byte) (crcOk : Bool)
  /-- A member executes a remote read and answers with READ_RSP (R421). -/
  | readReq (l src dst : Nat) (hdr body : List Byte) (crcOk : Bool)
  /-- The head receives a member's read response and replies to MEM_READ (R421). -/
  | readRsp (l src dst : Nat) (hdr body : List Byte) (crcOk : Bool)
  /-- No READ_RSP within 2 ms, so the head answers BUSY (R421). -/
  | remoteReadTimeout
  /-- Every 1 ms, a member sends TIME_REQ on WL0, and the partner answers (R418). -/
  | timeReq (received : Bool) (l : Nat)
  /-- A TIME_RSP updates the member's cascade offset, rate and TIME_LOCK (R418). -/
  | timeRsp (t2 t3 t4 : Nat)
  /-- The head starts a Hinge calibration when its preconditions hold and sends HCAL (R419). -/
  | hingeCalibrationStart
  /-- A member receives HCAL and adopts the head's latency (R419). -/
  | hcal (l src dst : Nat) (hdr body : List Byte) (crcOk : Bool)
  /-- After the last pulse, each device computes its compensation or fails the calibration (R419). -/
  | hingeCalibrationEnd
  /-- A HG_SYNC rising edge gives a frame-start event at the compensated instant (R420). -/
  | hgSyncEdge (t : Nat)
  /-- The raw tap sends event words and shot records over its link (R426). -/
  | tapItemSend
  /-- At least every 1 µs, the tap sends a TAP_MARK block (R426). -/
  | tapMark
  /-- A TIMER request of a channel expires and requests a burst, or is missed (R439). -/
  | dmaTimerRequest (c : Nat)
  /-- The engine runs one burst of a channel, possibly setting HALF or FULL (R442). -/
  | dmaBurst
  /-- A temperature sensor completes its 1 ms count and Tj and the thermal levels are re-evaluated (R471). -/
  | tempSensorReading (sensor : Nat) (temp : Int)
  /-- Every 250 ms the throttle level falls or rises, and at 0 in SCANNING enters THERMAL_HOLD (R476). -/
  | throttleStep
  /-- A queued record is written into the NV log with its CRC last (R481). -/
  | nvlogWrite
  /-- HG_FAULT_N rises when the last driving device releases it, and the HG condition holds again, which can restart auto-clear hold-off and allow row 21 (R313). -/
  | hgFaultRelease
  /-- A rising or falling edge on a GPIO input is stamped by a capture unit or gives a monitor sequencer trigger of source 5 (R388). -/
  | gpioEdge (pin : Nat) (high : Bool) (t : Nat)
  /-- A quarter's delay lines regain lock, DLL_LOCK returns to 1 and the quarter stops discarding pulses (R96). -/
  | dllLockReturn (q : Nat)
  /-- A RAWTAP link that has sent KEEPALIVE blocks for 1 ms in TRAIN enters ACTIVE (R399). -/
  | rawtapActive (l : Nat)
  /-- HOLD ms after the last OCCUPIED frame, a zone's reported state leaves OCCUPIED and ZON_STATE changes (R333). -/
  | zoneHoldExpiry
  /-- A SLAVE port sends a Delay_Req, or a Pdelay_Req under P2P, at its LOG_DELAY interval to start a path delay measurement (R378). -/
  | ptpDelayRequest (port : Port)
  /-- An XOFF that has been held for more than 1 ms sets WFL_STATUS.XOFF_LONG (R411). -/
  | xoffHeldLong (l : Nat)
  /-- The 500 µs clear of recorder memory after PD14 power-up completes, and REC_ARM is no longer answered BUSY (R301). -/
  | recorderMemoryCleared
  /-- VAUX limits its current above about 650 mA and PMU_STAT.AUX_OC is set (R486). -/
  | vauxCurrentLimit
  /-- VIN rises above 40 V and PMU_STAT.OV is set while the device keeps operating (R485). -/
  | vinOvervoltage (mv : Nat)
  deriving DecidableEq, Repr

end Sys2Proof
end

