-- ==== Sys2Proof/Decode.lean ====
section
/-! DEFINITION. Words of the opcode table. The table gives no row any bits: a command reaches the device as a packet, a
transaction or a happening, never as an instruction word, so no word spells a command. -/

namespace Sys2Proof

/-- The command a word spells by the table's bits: none, for the table gives no row any bits. [DESIGN CHOICE, log 95] -/
def decodeTableWord (_nbits _w : Nat) : Option Instr := none

end Sys2Proof
end

