-- ==== Sys2Proof/Machine/Cards.lean ====
section
/-! DEFINITION. The register cards of the spec: every register's address, fields, access codes and reset value
(R14, R535; the cards stand in the chapters named beside each register). -/

namespace Sys2Proof.Machine

/-- Access code of a register field (R14). -/
inductive Acc where
  | rw | ro | w1c | w1s | wo | rs
  deriving DecidableEq, Repr

/-- A register field: its least significant bit, its width and its access code. -/
structure Fld where
  lo : Nat
  w : Nat
  acc : Acc
  deriving DecidableEq, Repr

/-- A register card: name, address of its first instance, the strides and counts of its repeats (largest stride first),
its reset value (`base + step * i` for instance `i` of the smallest stride) and its fields. -/
structure Card where
  name : String
  addr : Nat
  dims : List (Nat × Nat)
  reset : Nat
  step : Nat
  flds : List Fld
  deriving DecidableEq, Repr

namespace Reg

/-- GLB_STATE (02_commands_and_state.md). -/
def GLB_STATE : Nat := 0x10
def GLB_STATE_TRANS_COUNT : Fld := ⟨24, 8, .ro⟩
def GLB_STATE_CAUSE : Fld := ⟨16, 8, .ro⟩
def GLB_STATE_PREV : Fld := ⟨8, 4, .ro⟩
def GLB_STATE_STATE : Fld := ⟨0, 4, .ro⟩
/-- GLB_SNAP (02_commands_and_state.md). -/
def GLB_SNAP : Nat := 0x14
def GLB_SNAP_PAIR_MISS : Fld := ⟨1, 1, .ro⟩
def GLB_SNAP_TORN : Fld := ⟨0, 1, .ro⟩
/-- GLB_ID (18_power_clocks_boot.md). -/
def GLB_ID : Nat := 0x0
def GLB_ID_REVISION : Fld := ⟨24, 8, .ro⟩
def GLB_ID_BL_MAX : Fld := ⟨20, 4, .ro⟩
def GLB_ID_VARIANT : Fld := ⟨16, 4, .ro⟩
def GLB_ID_INDEX : Fld := ⟨0, 3, .ro⟩
/-- GLB_SERIAL (18_power_clocks_boot.md). -/
def GLB_SERIAL (j : Nat) : Nat := 0x4 + 0x4 * j
def GLB_SERIAL_SERIAL : Fld := ⟨0, 32, .ro⟩
/-- GLB_BEHAVIOUR (18_power_clocks_boot.md). -/
def GLB_BEHAVIOUR : Nat := 0xC
def GLB_BEHAVIOUR_MAX : Fld := ⟨16, 4, .ro⟩
def GLB_BEHAVIOUR_REQ : Fld := ⟨8, 4, .ro⟩
def GLB_BEHAVIOUR_LEVEL : Fld := ⟨0, 4, .rw⟩
/-- GLB_BOOT (18_power_clocks_boot.md). -/
def GLB_BOOT : Nat := 0x18
def GLB_BOOT_STAGE : Fld := ⟨24, 8, .ro⟩
def GLB_BOOT_ERR_A : Fld := ⟨20, 4, .ro⟩
def GLB_BOOT_ERR_B : Fld := ⟨16, 4, .ro⟩
def GLB_BOOT_FALLBACK : Fld := ⟨15, 1, .ro⟩
def GLB_BOOT_SLOT : Fld := ⟨14, 1, .ro⟩
def GLB_BOOT_FUSE_PROG : Fld := ⟨13, 1, .ro⟩
def GLB_BOOT_FUSE_SKIP : Fld := ⟨12, 1, .ro⟩
def GLB_BOOT_INIT_REJ : Fld := ⟨0, 12, .ro⟩
/-- GLB_FWVER (18_power_clocks_boot.md). -/
def GLB_FWVER : Nat := 0x1C
def GLB_FWVER_FW_VERSION : Fld := ⟨0, 32, .ro⟩
/-- CMD_HSPI_STATUS (02_commands_and_state.md). -/
def CMD_HSPI_STATUS : Nat := 0x10000
def CMD_HSPI_STATUS_RXFREE : Fld := ⟨8, 8, .ro⟩
def CMD_HSPI_STATUS_NOTICE_AVAIL : Fld := ⟨5, 1, .ro⟩
def CMD_HSPI_STATUS_ALERT_AVAIL : Fld := ⟨4, 1, .ro⟩
def CMD_HSPI_STATUS_REPLY_AVAIL : Fld := ⟨3, 1, .ro⟩
def CMD_HSPI_STATUS_WR_ERR : Fld := ⟨2, 1, .w1c⟩
def CMD_HSPI_STATUS_OVR : Fld := ⟨1, 1, .w1c⟩
def CMD_HSPI_STATUS_FRAME_ERR : Fld := ⟨0, 1, .w1c⟩
/-- CMD_AUTH_CTRL (02_commands_and_state.md). -/
def CMD_AUTH_CTRL : Nat := 0x10010
def CMD_AUTH_CTRL_SESSION_UDP : Fld := ⟨3, 1, .ro⟩
def CMD_AUTH_CTRL_SESSION_HSPI : Fld := ⟨2, 1, .ro⟩
def CMD_AUTH_CTRL_REQ_UDP : Fld := ⟨1, 1, .w1s⟩
def CMD_AUTH_CTRL_REQ_HSPI : Fld := ⟨0, 1, .w1s⟩
/-- CMD_EVT_STATUS (02_commands_and_state.md). -/
def CMD_EVT_STATUS : Nat := 0x10020
def CMD_EVT_STATUS_NOTICE_LEVEL : Fld := ⟨24, 6, .ro⟩
def CMD_EVT_STATUS_ALERT_LEVEL : Fld := ⟨16, 6, .ro⟩
def CMD_EVT_STATUS_NOTICE_OVF : Fld := ⟨1, 1, .w1c⟩
def CMD_EVT_STATUS_ALERT_OVF : Fld := ⟨0, 1, .w1c⟩
/-- CMD_EVT_SEQ (02_commands_and_state.md). -/
def CMD_EVT_SEQ : Nat := 0x10024
def CMD_EVT_SEQ_LOST : Fld := ⟨16, 16, .ro⟩
def CMD_EVT_SEQ_NEXT_SEQ : Fld := ⟨0, 16, .ro⟩
/-- CMD_EVT_MASK (02_commands_and_state.md). -/
def CMD_EVT_MASK : Nat := 0x10028
def CMD_EVT_MASK_ENABLE : Fld := ⟨0, 10, .rw⟩
/-- CMD_ERR_COUNT (02_commands_and_state.md). -/
def CMD_ERR_COUNT : Nat := 0x1002C
def CMD_ERR_COUNT_BAD_MAGIC : Fld := ⟨24, 8, .ro⟩
def CMD_ERR_COUNT_AUTH_FAIL : Fld := ⟨16, 8, .ro⟩
def CMD_ERR_COUNT_QUEUE_FULL : Fld := ⟨8, 8, .ro⟩
def CMD_ERR_COUNT_HSPI_OVR : Fld := ⟨0, 8, .ro⟩
/-- RFE_CFG (03_return_inputs_and_timing.md). -/
def RFE_CFG (n : Nat) : Nat := 0x30000 + 0x40 * n
def RFE_CFG_TPI_AMP : Fld := ⟨12, 4, .rw⟩
def RFE_CFG_TPI_EN : Fld := ⟨11, 1, .rw⟩
def RFE_CFG_HI_EN : Fld := ⟨8, 1, .rw⟩
def RFE_CFG_GAIN : Fld := ⟨6, 2, .rw⟩
def RFE_CFG_POL : Fld := ⟨5, 1, .rw⟩
def RFE_CFG_MODE : Fld := ⟨0, 3, .rw⟩
/-- RFE_THR (03_return_inputs_and_timing.md). -/
def RFE_THR (n : Nat) : Nat := 0x30004 + 0x40 * n
def RFE_THR_HI : Fld := ⟨16, 10, .rw⟩
def RFE_THR_LO : Fld := ⟨0, 10, .rw⟩
/-- RFE_TRIM (03_return_inputs_and_timing.md). -/
def RFE_TRIM (n : Nat) : Nat := 0x30008 + 0x40 * n
def RFE_TRIM_CMP_HI : Fld := ⟨16, 6, .rw⟩
def RFE_TRIM_CMP_LO : Fld := ⟨8, 6, .rw⟩
def RFE_TRIM_BASE : Fld := ⟨0, 6, .rw⟩
/-- RFE_SKEW (03_return_inputs_and_timing.md). -/
def RFE_SKEW (n : Nat) : Nat := 0x3000C + 0x40 * n
def RFE_SKEW_SKEW : Fld := ⟨0, 16, .rw⟩
/-- RFE_STAT (03_return_inputs_and_timing.md). -/
def RFE_STAT (n : Nat) : Nat := 0x30010 + 0x40 * n
def RFE_STAT_FIFO_LEVEL : Fld := ⟨8, 4, .ro⟩
def RFE_STAT_FIFO_PEAK : Fld := ⟨4, 4, .ro⟩
def RFE_STAT_MODE_MISMATCH : Fld := ⟨3, 1, .ro⟩
def RFE_STAT_RGND_FAULT : Fld := ⟨2, 1, .ro⟩
def RFE_STAT_RGND_SEEN : Fld := ⟨1, 1, .w1c⟩
def RFE_STAT_OVLD : Fld := ⟨0, 1, .w1c⟩
/-- RFE_CNT_EVT (03_return_inputs_and_timing.md). -/
def RFE_CNT_EVT (n : Nat) : Nat := 0x30014 + 0x40 * n
def RFE_CNT_EVT_EVENTS : Fld := ⟨0, 32, .ro⟩
/-- RFE_CNT_LOSS (03_return_inputs_and_timing.md). -/
def RFE_CNT_LOSS (n : Nat) : Nat := 0x30018 + 0x40 * n
def RFE_CNT_LOSS_DROP : Fld := ⟨16, 16, .ro⟩
def RFE_CNT_LOSS_DEAD : Fld := ⟨0, 16, .ro⟩
/-- RFE_CNT_HIREJ (03_return_inputs_and_timing.md). -/
def RFE_CNT_HIREJ (n : Nat) : Nat := 0x3001C + 0x40 * n
def RFE_CNT_HIREJ_HIREJ : Fld := ⟨0, 32, .ro⟩
/-- RFE_LAST_LO (03_return_inputs_and_timing.md). -/
def RFE_LAST_LO (n : Nat) : Nat := 0x30020 + 0x40 * n
def RFE_LAST_LO_EVENT_LO : Fld := ⟨0, 32, .rs⟩
/-- RFE_LAST_HI (03_return_inputs_and_timing.md). -/
def RFE_LAST_HI (n : Nat) : Nat := 0x30024 + 0x40 * n
def RFE_LAST_HI_EVENT_HI : Fld := ⟨0, 32, .rs⟩
/-- TDC_CTRL (03_return_inputs_and_timing.md). -/
def TDC_CTRL : Nat := 0x38000
def TDC_CTRL_WALK_SHIFT : Fld := ⟨8, 3, .rw⟩
def TDC_CTRL_CD_EN : Fld := ⟨2, 1, .rw⟩
def TDC_CTRL_WALK_EN : Fld := ⟨1, 1, .rw⟩
def TDC_CTRL_SKEW_EN : Fld := ⟨0, 1, .rw⟩
/-- TDC_STATUS (03_return_inputs_and_timing.md). -/
def TDC_STATUS : Nat := 0x38004
def TDC_STATUS_WR_IGNORED : Fld := ⟨8, 1, .w1c⟩
def TDC_STATUS_DLL_UNLOCK : Fld := ⟨4, 4, .w1c⟩
def TDC_STATUS_DLL_LOCK : Fld := ⟨0, 4, .ro⟩
/-- TDC_CNT_CLR (03_return_inputs_and_timing.md). -/
def TDC_CNT_CLR : Nat := 0x38008
def TDC_CNT_CLR_FREF : Fld := ⟨4, 1, .wo⟩
def TDC_CNT_CLR_QUARTER : Fld := ⟨0, 4, .wo⟩
/-- TDC_SEG_MAP (03_return_inputs_and_timing.md). -/
def TDC_SEG_MAP : Nat := 0x38010
def TDC_SEG_MAP_MAP : Fld := ⟨0, 32, .rw⟩
/-- TDC_RANGE_OFS (03_return_inputs_and_timing.md). -/
def TDC_RANGE_OFS : Nat := 0x38014
def TDC_RANGE_OFS_OFS : Fld := ⟨0, 16, .rw⟩
/-- TDC_TPI_CTRL (03_return_inputs_and_timing.md). -/
def TDC_TPI_CTRL : Nat := 0x38020
def TDC_TPI_CTRL_PERIOD : Fld := ⟨16, 16, .rw⟩
def TDC_TPI_CTRL_WIDTH : Fld := ⟨8, 8, .rw⟩
def TDC_TPI_CTRL_GO : Fld := ⟨2, 1, .wo⟩
def TDC_TPI_CTRL_SRC : Fld := ⟨1, 1, .rw⟩
def TDC_TPI_CTRL_EN : Fld := ⟨0, 1, .rw⟩
/-- TDC_TPI_TIME (03_return_inputs_and_timing.md). -/
def TDC_TPI_TIME : Nat := 0x38024
def TDC_TPI_TIME_DELAY : Fld := ⟨0, 20, .rw⟩
/-- TDC_TPI_COUNT (03_return_inputs_and_timing.md). -/
def TDC_TPI_COUNT : Nat := 0x38028
def TDC_TPI_COUNT_COUNT : Fld := ⟨0, 32, .ro⟩
/-- TDC_FREF_CFG (03_return_inputs_and_timing.md). -/
def TDC_FREF_CFG (k : Nat) : Nat := 0x38100 + 0x20 * k
def TDC_FREF_CFG_THR : Fld := ⟨16, 10, .rw⟩
def TDC_FREF_CFG_GAIN : Fld := ⟨6, 2, .rw⟩
def TDC_FREF_CFG_POL : Fld := ⟨5, 1, .rw⟩
def TDC_FREF_CFG_MODE : Fld := ⟨0, 3, .rw⟩
/-- TDC_FREF_DLY (03_return_inputs_and_timing.md). -/
def TDC_FREF_DLY (k : Nat) : Nat := 0x38104 + 0x20 * k
def TDC_FREF_DLY_NOMINAL : Fld := ⟨16, 16, .rw⟩
def TDC_FREF_DLY_PATH : Fld := ⟨0, 16, .rw⟩
/-- TDC_FREF_WIN (03_return_inputs_and_timing.md). -/
def TDC_FREF_WIN (k : Nat) : Nat := 0x38108 + 0x20 * k
def TDC_FREF_WIN_START : Fld := ⟨16, 8, .rw⟩
def TDC_FREF_WIN_LENGTH : Fld := ⟨0, 8, .rw⟩
/-- TDC_FREF_AVG (03_return_inputs_and_timing.md). -/
def TDC_FREF_AVG (k : Nat) : Nat := 0x3810C + 0x20 * k
def TDC_FREF_AVG_AVG : Fld := ⟨0, 20, .ro⟩
/-- TDC_FREF_STAT (03_return_inputs_and_timing.md). -/
def TDC_FREF_STAT (k : Nat) : Nat := 0x38110 + 0x20 * k
def TDC_FREF_STAT_LAST_TOT : Fld := ⟨20, 12, .ro⟩
def TDC_FREF_STAT_LOST : Fld := ⟨17, 1, .w1c⟩
def TDC_FREF_STAT_MISS : Fld := ⟨0, 16, .ro⟩
/-- TDC_FREF_LAST_LO (03_return_inputs_and_timing.md). -/
def TDC_FREF_LAST_LO (k : Nat) : Nat := 0x38114 + 0x20 * k
def TDC_FREF_LAST_LO_TIME_LO : Fld := ⟨0, 32, .rs⟩
/-- TDC_FREF_LAST_HI (03_return_inputs_and_timing.md). -/
def TDC_FREF_LAST_HI (k : Nat) : Nat := 0x38118 + 0x20 * k
def TDC_FREF_LAST_HI_TIME_HI : Fld := ⟨0, 32, .rs⟩
/-- TDC_CD (03_return_inputs_and_timing.md). -/
def TDC_CD (g : Nat) (j : Nat) : Nat := 0x3C000 + 0x40 * g + 0x4 * j
def TDC_CD_F3 : Fld := ⟨24, 8, .rw⟩
def TDC_CD_F2 : Fld := ⟨16, 8, .rw⟩
def TDC_CD_F1 : Fld := ⟨8, 8, .rw⟩
def TDC_CD_F0 : Fld := ⟨0, 8, .rw⟩
/-- TDC_WALK (03_return_inputs_and_timing.md). -/
def TDC_WALK (g : Nat) (j : Nat) : Nat := 0x3E000 + 0x40 * g + 0x4 * j
def TDC_WALK_W1 : Fld := ⟨16, 16, .rw⟩
def TDC_WALK_W0 : Fld := ⟨0, 16, .rw⟩
/-- TDC_FREF_CD (03_return_inputs_and_timing.md). -/
def TDC_FREF_CD (j : Nat) : Nat := 0x38200 + 0x4 * j
def TDC_FREF_CD_F3 : Fld := ⟨24, 8, .rw⟩
def TDC_FREF_CD_F2 : Fld := ⟨16, 8, .rw⟩
def TDC_FREF_CD_F1 : Fld := ⟨8, 8, .rw⟩
def TDC_FREF_CD_F0 : Fld := ⟨0, 8, .rw⟩
/-- TDC_FREF_WALK (03_return_inputs_and_timing.md). -/
def TDC_FREF_WALK (j : Nat) : Nat := 0x38240 + 0x4 * j
def TDC_FREF_WALK_W1 : Fld := ⟨16, 16, .rw⟩
def TDC_FREF_WALK_W0 : Fld := ⟨0, 16, .rw⟩
/-- TMB_CTRL (04_tumbler_and_ambient.md). -/
def TMB_CTRL : Nat := 0x40000
def TMB_CTRL_FREE_PERIOD : Fld := ⟨8, 8, .rw⟩
def TMB_CTRL_FREE_RUN : Fld := ⟨0, 1, .rw⟩
/-- TMB_AMB_CTRL (04_tumbler_and_ambient.md). -/
def TMB_AMB_CTRL : Nat := 0x40004
def TMB_AMB_CTRL_HYST : Fld := ⟨16, 16, .rw⟩
def TMB_AMB_CTRL_DG_LEN : Fld := ⟨8, 6, .rw⟩
def TMB_AMB_CTRL_ALPHA_DOWN : Fld := ⟨4, 3, .rw⟩
def TMB_AMB_CTRL_ALPHA_UP : Fld := ⟨0, 3, .rw⟩
/-- TMB_BLIND (04_tumbler_and_ambient.md). -/
def TMB_BLIND : Nat := 0x40008
def TMB_BLIND_LEVEL : Fld := ⟨0, 16, .rw⟩
/-- TMB_CNT_CLR (04_tumbler_and_ambient.md). -/
def TMB_CNT_CLR : Nat := 0x4000C
def TMB_CNT_CLR_QUARTER : Fld := ⟨0, 4, .wo⟩
/-- TMB_STEP (04_tumbler_and_ambient.md). -/
def TMB_STEP (L : Nat) : Nat := 0x40010 + 0x4 * L
def TMB_STEP_KADD : Fld := ⟨28, 2, .rw⟩
def TMB_STEP_OFS : Fld := ⟨16, 10, .rw⟩
def TMB_STEP_UP : Fld := ⟨0, 16, .rw⟩
/-- TMB_GRP_CFG (04_tumbler_and_ambient.md). -/
def TMB_GRP_CFG (g : Nat) : Nat := 0x40400 + 0x10 * g
def TMB_GRP_CFG_TOT_MIN : Fld := ⟨20, 12, .rw⟩
def TMB_GRP_CFG_TSEL : Fld := ⟨16, 1, .rw⟩
def TMB_GRP_CFG_WIN : Fld := ⟨8, 5, .rw⟩
def TMB_GRP_CFG_TRACK_EN : Fld := ⟨7, 1, .rw⟩
def TMB_GRP_CFG_BYPASS : Fld := ⟨6, 1, .rw⟩
def TMB_GRP_CFG_WIDTH : Fld := ⟨4, 2, .rw⟩
def TMB_GRP_CFG_KMAX_M1 : Fld := ⟨2, 2, .rw⟩
def TMB_GRP_CFG_KMIN_M1 : Fld := ⟨0, 2, .rw⟩
/-- TMB_GRP_BOUND (04_tumbler_and_ambient.md). -/
def TMB_GRP_BOUND (g : Nat) : Nat := 0x40404 + 0x10 * g
def TMB_GRP_BOUND_OFS_MAX : Fld := ⟨0, 10, .rw⟩
/-- TMB_GRP_STAT (04_tumbler_and_ambient.md). -/
def TMB_GRP_STAT (g : Nat) : Nat := 0x40408 + 0x10 * g
def TMB_GRP_STAT_BLIND3 : Fld := ⟨31, 1, .ro⟩
def TMB_GRP_STAT_LAT3 : Fld := ⟨28, 3, .ro⟩
def TMB_GRP_STAT_BLIND2 : Fld := ⟨27, 1, .ro⟩
def TMB_GRP_STAT_LAT2 : Fld := ⟨24, 3, .ro⟩
def TMB_GRP_STAT_BLIND1 : Fld := ⟨23, 1, .ro⟩
def TMB_GRP_STAT_LAT1 : Fld := ⟨20, 3, .ro⟩
def TMB_GRP_STAT_BLIND0 : Fld := ⟨19, 1, .ro⟩
def TMB_GRP_STAT_LAT0 : Fld := ⟨16, 3, .ro⟩
def TMB_GRP_STAT_LIVE3 : Fld := ⟨12, 3, .ro⟩
def TMB_GRP_STAT_LIVE2 : Fld := ⟨8, 3, .ro⟩
def TMB_GRP_STAT_LIVE1 : Fld := ⟨4, 3, .ro⟩
def TMB_GRP_STAT_LIVE0 : Fld := ⟨0, 3, .ro⟩
/-- TMB_GRP_ORDER (04_tumbler_and_ambient.md). -/
def TMB_GRP_ORDER (g : Nat) : Nat := 0x4040C + 0x10 * g
def TMB_GRP_ORDER_ORDER : Fld := ⟨0, 16, .ro⟩
/-- TMB_AMB (04_tumbler_and_ambient.md). -/
def TMB_AMB (n : Nat) : Nat := 0x41000 + 0x10 * n
def TMB_AMB_EST : Fld := ⟨0, 20, .ro⟩
/-- TMB_CNT_ACC (04_tumbler_and_ambient.md). -/
def TMB_CNT_ACC (n : Nat) : Nat := 0x41004 + 0x10 * n
def TMB_CNT_ACC_ACCEPTED : Fld := ⟨0, 32, .ro⟩
/-- TMB_CNT_REJ (04_tumbler_and_ambient.md). -/
def TMB_CNT_REJ (n : Nat) : Nat := 0x41008 + 0x10 * n
def TMB_CNT_REJ_REJECTED : Fld := ⟨0, 32, .ro⟩
/-- TMB_CNT_TOTREJ (04_tumbler_and_ambient.md). -/
def TMB_CNT_TOTREJ (n : Nat) : Nat := 0x4100C + 0x10 * n
def TMB_CNT_TOTREJ_TOTREJ : Fld := ⟨0, 32, .ro⟩
/-- FIR_SEQ (05_firing_and_shot_keys.md). -/
def FIR_SEQ : Nat := 0x50000
def FIR_SEQ_LAG_MAX : Fld := ⟨16, 16, .rw⟩
def FIR_SEQ_GAP_MIN : Fld := ⟨8, 8, .rw⟩
def FIR_SEQ_FSRC : Fld := ⟨4, 2, .rw⟩
def FIR_SEQ_CMODE : Fld := ⟨0, 1, .rw⟩
/-- FIR_FLIGHT (05_firing_and_shot_keys.md). -/
def FIR_FLIGHT : Nat := 0x50004
def FIR_FLIGHT_K_M1 : Fld := ⟨0, 3, .rw⟩
/-- FIR_FRAME_PER (05_firing_and_shot_keys.md). -/
def FIR_FRAME_PER : Nat := 0x50008
def FIR_FRAME_PER_PERIOD : Fld := ⟨0, 32, .rw⟩
/-- FIR_WARP_CTRL (05_firing_and_shot_keys.md). -/
def FIR_WARP_CTRL : Nat := 0x5000C
def FIR_WARP_CTRL_COLUMNS : Fld := ⟨0, 13, .rw⟩
/-- FIR_WARP_ACT (05_firing_and_shot_keys.md). -/
def FIR_WARP_ACT : Nat := 0x50010
def FIR_WARP_ACT_COMMITS : Fld := ⟨24, 8, .ro⟩
def FIR_WARP_ACT_PEND : Fld := ⟨16, 1, .ro⟩
def FIR_WARP_ACT_COLUMNS : Fld := ⟨0, 13, .ro⟩
/-- FIR_COMMIT_STAT (05_firing_and_shot_keys.md). -/
def FIR_COMMIT_STAT : Nat := 0x50014
def FIR_COMMIT_STAT_REASON : Fld := ⟨28, 4, .ro⟩
def FIR_COMMIT_STAT_ENTRY : Fld := ⟨0, 12, .ro⟩
/-- FIR_KEY_LO (05_firing_and_shot_keys.md). -/
def FIR_KEY_LO : Nat := 0x50018
def FIR_KEY_LO_KEY_LO : Fld := ⟨0, 32, .rs⟩
/-- FIR_KEY_HI (05_firing_and_shot_keys.md). -/
def FIR_KEY_HI : Nat := 0x5001C
def FIR_KEY_HI_KEY_HI : Fld := ⟨0, 32, .rs⟩
/-- FIR_KEY_STAT (05_firing_and_shot_keys.md). -/
def FIR_KEY_STAT : Nat := 0x50020
def FIR_KEY_STAT_PEND : Fld := ⟨1, 1, .ro⟩
def FIR_KEY_STAT_SRC : Fld := ⟨0, 1, .ro⟩
/-- FIR_FRAME (05_firing_and_shot_keys.md). -/
def FIR_FRAME : Nat := 0x50024
def FIR_FRAME_FRAME : Fld := ⟨0, 32, .ro⟩
/-- FIR_COL (05_firing_and_shot_keys.md). -/
def FIR_COL : Nat := 0x50028
def FIR_COL_COLUMN : Fld := ⟨16, 12, .ro⟩
def FIR_COL_SHOTS_DONE : Fld := ⟨8, 8, .ro⟩
def FIR_COL_PHASE : Fld := ⟨0, 3, .ro⟩
/-- FIR_FSTART_LO (05_firing_and_shot_keys.md). -/
def FIR_FSTART_LO : Nat := 0x50030
def FIR_FSTART_LO_TBS_LO : Fld := ⟨0, 32, .rs⟩
/-- FIR_FSTART_HI (05_firing_and_shot_keys.md). -/
def FIR_FSTART_HI : Nat := 0x50034
def FIR_FSTART_HI_TBS_HI : Fld := ⟨0, 32, .rs⟩
/-- FIR_SCHED (05_firing_and_shot_keys.md). -/
def FIR_SCHED : Nat := 0x50038
def FIR_SCHED_TB : Fld := ⟨1, 1, .ro⟩
def FIR_SCHED_ARMED : Fld := ⟨0, 1, .ro⟩
/-- FIR_LAST_FOLD (05_firing_and_shot_keys.md). -/
def FIR_LAST_FOLD : Nat := 0x5003C
def FIR_LAST_FOLD_FOLD : Fld := ⟨0, 20, .ro⟩
/-- FIR_AZ (05_firing_and_shot_keys.md). -/
def FIR_AZ : Nat := 0x50040
def FIR_AZ_AZIMUTH : Fld := ⟨0, 20, .ro⟩
/-- FIR_CNT_A (05_firing_and_shot_keys.md). -/
def FIR_CNT_A : Nat := 0x50044
def FIR_CNT_A_SPACE : Fld := ⟨16, 16, .ro⟩
def FIR_CNT_A_SHOTCUT : Fld := ⟨0, 16, .ro⟩
/-- FIR_CNT_B (05_firing_and_shot_keys.md). -/
def FIR_CNT_B : Nat := 0x50048
def FIR_CNT_B_EARLY : Fld := ⟨16, 16, .ro⟩
def FIR_CNT_B_LAG : Fld := ⟨0, 16, .ro⟩
/-- FIR_CNT_CLR (05_firing_and_shot_keys.md). -/
def FIR_CNT_CLR : Nat := 0x5004C
def FIR_CNT_CLR_ALL : Fld := ⟨0, 1, .wo⟩
/-- FIR_OUT_CFG (05_firing_and_shot_keys.md). -/
def FIR_OUT_CFG (o : Nat) : Nat := 0x50100 + 0x10 * o
def FIR_OUT_CFG_EN : Fld := ⟨31, 1, .rw⟩
def FIR_OUT_CFG_INV : Fld := ⟨30, 1, .rw⟩
def FIR_OUT_CFG_DLY : Fld := ⟨0, 12, .rw⟩
/-- FIR_OUT_W01 (05_firing_and_shot_keys.md). -/
def FIR_OUT_W01 (o : Nat) : Nat := 0x50104 + 0x10 * o
def FIR_OUT_W01_W1 : Fld := ⟨16, 9, .rw⟩
def FIR_OUT_W01_W0 : Fld := ⟨0, 9, .rw⟩
/-- FIR_OUT_W23 (05_firing_and_shot_keys.md). -/
def FIR_OUT_W23 (o : Nat) : Nat := 0x50108 + 0x10 * o
def FIR_OUT_W23_W3 : Fld := ⟨16, 9, .rw⟩
def FIR_OUT_W23_W2 : Fld := ⟨0, 9, .rw⟩
/-- FIR_OUT_CNT (05_firing_and_shot_keys.md). -/
def FIR_OUT_CNT (o : Nat) : Nat := 0x5010C + 0x10 * o
def FIR_OUT_CNT_PULSES : Fld := ⟨0, 32, .ro⟩
/-- FIR_PROFILE (08_profiles_and_shot_budget.md). -/
def FIR_PROFILE : Nat := 0x50050
def FIR_PROFILE_PEND : Fld := ⟨11, 1, .ro⟩
def FIR_PROFILE_REC_MISS : Fld := ⟨10, 1, .w1c⟩
def FIR_PROFILE_LOCK_HIT : Fld := ⟨9, 1, .w1c⟩
def FIR_PROFILE_MOD : Fld := ⟨8, 1, .ro⟩
def FIR_PROFILE_CODE : Fld := ⟨0, 7, .ro⟩
/-- FIR_ALC_CTRL (08_profiles_and_shot_budget.md). -/
def FIR_ALC_CTRL : Nat := 0x50054
def FIR_ALC_CTRL_CLR : Fld := ⟨24, 1, .wo⟩
def FIR_ALC_CTRL_SMAX : Fld := ⟨16, 8, .rw⟩
def FIR_ALC_CTRL_SMIN : Fld := ⟨8, 8, .rw⟩
def FIR_ALC_CTRL_EN : Fld := ⟨0, 1, .rw⟩
/-- FIR_ALC_W (08_profiles_and_shot_budget.md). -/
def FIR_ALC_W : Nat := 0x50058
def FIR_ALC_W_WFAR : Fld := ⟨24, 8, .rw⟩
def FIR_ALC_W_WLOW : Fld := ⟨16, 8, .rw⟩
def FIR_ALC_W_WNOE : Fld := ⟨8, 8, .rw⟩
def FIR_ALC_W_WBASE : Fld := ⟨0, 8, .rw⟩
/-- FIR_ALC_STAT (08_profiles_and_shot_budget.md). -/
def FIR_ALC_STAT : Nat := 0x5005C
def FIR_ALC_STAT_CFG_REJ : Fld := ⟨31, 1, .w1c⟩
def FIR_ALC_STAT_THR : Fld := ⟨0, 4, .ro⟩
/-- FIR_ALC_BUDGET (08_profiles_and_shot_budget.md). -/
def FIR_ALC_BUDGET : Nat := 0x50060
def FIR_ALC_BUDGET_TE : Fld := ⟨0, 20, .ro⟩
/-- FIR_ALC_SUM (08_profiles_and_shot_budget.md). -/
def FIR_ALC_SUM : Nat := 0x50064
def FIR_ALC_SUM_SUM : Fld := ⟨0, 20, .ro⟩
/-- FIR_ALC_CNT (08_profiles_and_shot_budget.md). -/
def FIR_ALC_CNT : Nat := 0x50068
def FIR_ALC_CNT_STALE : Fld := ⟨16, 16, .ro⟩
def FIR_ALC_CNT_CUT : Fld := ⟨0, 16, .ro⟩
/-- HGE_BIN (06_histogram_engine.md). -/
def HGE_BIN : Nat := 0x60000
def HGE_BIN_WIDTH : Fld := ⟨16, 2, .rw⟩
def HGE_BIN_COUNT : Fld := ⟨0, 13, .rw⟩
/-- HGE_ZOOM (06_histogram_engine.md). -/
def HGE_ZOOM : Nat := 0x60004
def HGE_ZOOM_MIN_CNT : Fld := ⟨8, 8, .rw⟩
def HGE_ZOOM_NWIN : Fld := ⟨0, 3, .rw⟩
/-- HGE_CTRL (06_histogram_engine.md). -/
def HGE_CTRL : Nat := 0x60008
def HGE_CTRL_RETAIN : Fld := ⟨0, 1, .rw⟩
/-- HGE_STATUS (06_histogram_engine.md). -/
def HGE_STATUS : Nat := 0x6000C
def HGE_STATUS_BIST_FAIL : Fld := ⟨28, 4, .ro⟩
def HGE_STATUS_MM_PEND : Fld := ⟨24, 4, .ro⟩
def HGE_STATUS_MM_FAULT : Fld := ⟨20, 4, .ro⟩
def HGE_STATUS_SET1 : Fld := ⟨10, 2, .ro⟩
def HGE_STATUS_SET0 : Fld := ⟨8, 2, .ro⟩
def HGE_STATUS_CFG_REJ : Fld := ⟨1, 1, .w1c⟩
def HGE_STATUS_WR_IGNORED : Fld := ⟨0, 1, .w1c⟩
/-- HGE_RET (06_histogram_engine.md). -/
def HGE_RET : Nat := 0x60010
def HGE_RET_VALID : Fld := ⟨31, 1, .ro⟩
def HGE_RET_SET : Fld := ⟨12, 1, .ro⟩
def HGE_RET_COLUMN : Fld := ⟨0, 12, .ro⟩
/-- HGE_RET_FRAME (06_histogram_engine.md). -/
def HGE_RET_FRAME : Nat := 0x60014
def HGE_RET_FRAME_FRAME : Fld := ⟨0, 32, .ro⟩
/-- HGE_ECC_INJ (06_histogram_engine.md). -/
def HGE_ECC_INJ : Nat := 0x60018
def HGE_ECC_INJ_MODE : Fld := ⟨8, 2, .rw⟩
def HGE_ECC_INJ_BANK : Fld := ⟨0, 7, .rw⟩
/-- HGE_SET_WAIT (06_histogram_engine.md). -/
def HGE_SET_WAIT : Nat := 0x6001C
def HGE_SET_WAIT_WAITS : Fld := ⟨0, 16, .ro⟩
/-- HGE_ECC_CNT (06_histogram_engine.md). -/
def HGE_ECC_CNT (q : Nat) : Nat := 0x60020 + 0x4 * q
def HGE_ECC_CNT_UE : Fld := ⟨16, 16, .ro⟩
def HGE_ECC_CNT_CE : Fld := ⟨0, 16, .ro⟩
/-- HGE_MM_CNT (06_histogram_engine.md). -/
def HGE_MM_CNT (q : Nat) : Nat := 0x60030 + 0x4 * q
def HGE_MM_CNT_FRAME : Fld := ⟨24, 8, .ro⟩
def HGE_MM_CNT_TOTAL : Fld := ⟨0, 16, .ro⟩
/-- HGE_LAST_MM (06_histogram_engine.md). -/
def HGE_LAST_MM : Nat := 0x60040
def HGE_LAST_MM_KIND : Fld := ⟨30, 2, .ro⟩
def HGE_LAST_MM_CHANNEL : Fld := ⟨20, 9, .ro⟩
def HGE_LAST_MM_COLUMN : Fld := ⟨0, 12, .ro⟩
/-- HGE_CNT_CLR (06_histogram_engine.md). -/
def HGE_CNT_CLR : Nat := 0x60044
def HGE_CNT_CLR_WAIT : Fld := ⟨4, 1, .wo⟩
def HGE_CNT_CLR_QUARTER : Fld := ⟨0, 4, .wo⟩
/-- HGE_CH_BINNED (06_histogram_engine.md). -/
def HGE_CH_BINNED (n : Nat) : Nat := 0x61000 + 0x20 * n
def HGE_CH_BINNED_BINNED : Fld := ⟨0, 32, .ro⟩
/-- HGE_CH_RATE (06_histogram_engine.md). -/
def HGE_CH_RATE (n : Nat) : Nat := 0x61004 + 0x20 * n
def HGE_CH_RATE_RATE : Fld := ⟨0, 32, .ro⟩
/-- HGE_CH_NOSHOT (06_histogram_engine.md). -/
def HGE_CH_NOSHOT (n : Nat) : Nat := 0x61008 + 0x20 * n
def HGE_CH_NOSHOT_NOSHOT : Fld := ⟨0, 32, .ro⟩
/-- HGE_CH_XFIFO (06_histogram_engine.md). -/
def HGE_CH_XFIFO (n : Nat) : Nat := 0x6100C + 0x20 * n
def HGE_CH_XFIFO_CREDIT : Fld := ⟨24, 5, .ro⟩
def HGE_CH_XFIFO_BANK_FIFO : Fld := ⟨16, 5, .ro⟩
def HGE_CH_XFIFO_XFIFO : Fld := ⟨0, 16, .ro⟩
/-- HGE_CH_STAT (06_histogram_engine.md). -/
def HGE_CH_STAT (n : Nat) : Nat := 0x61010 + 0x20 * n
def HGE_CH_STAT_SAT_COLS : Fld := ⟨16, 16, .ro⟩
def HGE_CH_STAT_MM_COLS : Fld := ⟨0, 16, .ro⟩
/-- EXT_CTRL (07_echo_extraction_and_points.md). -/
def EXT_CTRL : Nat := 0x70000
def EXT_CTRL_INTF_EN : Fld := ⟨8, 1, .rw⟩
def EXT_CTRL_NOECHO_REC : Fld := ⟨7, 1, .rw⟩
def EXT_CTRL_VEIL_EN : Fld := ⟨6, 1, .rw⟩
def EXT_CTRL_VEIL_SUPPRESS : Fld := ⟨5, 1, .rw⟩
def EXT_CTRL_MAX_M1 : Fld := ⟨2, 2, .rw⟩
def EXT_CTRL_POLICY : Fld := ⟨0, 2, .rw⟩
/-- EXT_DET (07_echo_extraction_and_points.md). -/
def EXT_DET : Nat := 0x70004
def EXT_DET_MERGE : Fld := ⟨16, 4, .rw⟩
def EXT_DET_MIN_SIG : Fld := ⟨8, 8, .rw⟩
def EXT_DET_NSIG : Fld := ⟨0, 8, .rw⟩
/-- EXT_ZOOM (07_echo_extraction_and_points.md). -/
def EXT_ZOOM : Nat := 0x70008
def EXT_ZOOM_ZOOM_MIN : Fld := ⟨0, 8, .rw⟩
/-- EXT_AIR (07_echo_extraction_and_points.md). -/
def EXT_AIR : Nat := 0x7000C
def EXT_AIR_NM1 : Fld := ⟨0, 24, .rw⟩
/-- EXT_SCALE (07_echo_extraction_and_points.md). [DEDUCED, log 28] -/
def EXT_SCALE : Nat := 0x70010
def EXT_SCALE_SCALE : Fld := ⟨0, 32, .ro⟩
/-- EXT_CONF (07_echo_extraction_and_points.md). -/
def EXT_CONF : Nat := 0x70014
def EXT_CONF_HALVE : Fld := ⟨16, 16, .rw⟩
def EXT_CONF_GAIN : Fld := ⟨0, 8, .rw⟩
/-- EXT_WX (07_echo_extraction_and_points.md). -/
def EXT_WX : Nat := 0x70018
def EXT_WX_VEIL_IMAX : Fld := ⟨16, 16, .rw⟩
def EXT_WX_VEIL_WMIN : Fld := ⟨8, 8, .rw⟩
def EXT_WX_VEIL_FAR : Fld := ⟨0, 8, .rw⟩
/-- EXT_WX2 (07_echo_extraction_and_points.md). -/
def EXT_WX2 : Nat := 0x7001C
def EXT_WX2_VEIL_CHMIN : Fld := ⟨0, 10, .rw⟩
/-- EXT_WIN (07_echo_extraction_and_points.md). -/
def EXT_WIN : Nat := 0x70020
def EXT_WIN_PERSIST : Fld := ⟨16, 4, .rw⟩
def EXT_WIN_WIN_HI : Fld := ⟨8, 8, .rw⟩
def EXT_WIN_WIN_LO : Fld := ⟨0, 8, .rw⟩
/-- EXT_WIN_THR (07_echo_extraction_and_points.md). -/
def EXT_WIN_THR : Nat := 0x70024
def EXT_WIN_THR_THR : Fld := ⟨0, 16, .rw⟩
/-- EXT_INTF (07_echo_extraction_and_points.md). -/
def EXT_INTF : Nat := 0x70028
def EXT_INTF_INTF_NSIG : Fld := ⟨8, 8, .rw⟩
def EXT_INTF_INTF_MIN : Fld := ⟨0, 8, .rw⟩
/-- EXT_ALLOCQ (07_echo_extraction_and_points.md). -/
def EXT_ALLOCQ : Nat := 0x7002C
def EXT_ALLOCQ_FAR_M : Fld := ⟨16, 16, .rw⟩
def EXT_ALLOCQ_CONF_LO : Fld := ⟨0, 8, .rw⟩
/-- EXT_STATUS (07_echo_extraction_and_points.md). -/
def EXT_STATUS : Nat := 0x70030
def EXT_STATUS_CFG_REJ : Fld := ⟨2, 1, .w1c⟩
def EXT_STATUS_STALLED : Fld := ⟨1, 1, .w1c⟩
def EXT_STATUS_BUSY : Fld := ⟨0, 1, .ro⟩
/-- EXT_LAST_COL (07_echo_extraction_and_points.md). -/
def EXT_LAST_COL : Nat := 0x70034
def EXT_LAST_COL_SEQ : Fld := ⟨24, 8, .ro⟩
def EXT_LAST_COL_RECORDS : Fld := ⟨12, 12, .ro⟩
def EXT_LAST_COL_COLUMN : Fld := ⟨0, 12, .ro⟩
/-- EXT_LAST_FRAME (07_echo_extraction_and_points.md). -/
def EXT_LAST_FRAME : Nat := 0x70038
def EXT_LAST_FRAME_FRAME : Fld := ⟨0, 32, .ro⟩
/-- EXT_LAST_COLQ (07_echo_extraction_and_points.md). -/
def EXT_LAST_COLQ : Nat := 0x7003C
def EXT_LAST_COLQ_LOWCONF : Fld := ⟨16, 10, .ro⟩
def EXT_LAST_COLQ_NOECHO : Fld := ⟨0, 10, .ro⟩
/-- EXT_LAST_COLQ2 (07_echo_extraction_and_points.md). -/
def EXT_LAST_COLQ2 : Nat := 0x70040
def EXT_LAST_COLQ2_SEQ : Fld := ⟨24, 8, .ro⟩
def EXT_LAST_COLQ2_VEIL : Fld := ⟨10, 10, .ro⟩
def EXT_LAST_COLQ2_FAR : Fld := ⟨0, 10, .ro⟩
/-- EXT_CNT_REC (07_echo_extraction_and_points.md). -/
def EXT_CNT_REC : Nat := 0x70044
def EXT_CNT_REC_RECORDS : Fld := ⟨0, 32, .ro⟩
/-- EXT_CNT_COL (07_echo_extraction_and_points.md). -/
def EXT_CNT_COL : Nat := 0x70048
def EXT_CNT_COL_COLUMNS : Fld := ⟨0, 32, .ro⟩
/-- EXT_CNT_STALL (07_echo_extraction_and_points.md). -/
def EXT_CNT_STALL : Nat := 0x7004C
def EXT_CNT_STALL_STALLS : Fld := ⟨0, 16, .ro⟩
/-- EXT_CNT_CLR (07_echo_extraction_and_points.md). -/
def EXT_CNT_CLR : Nat := 0x70050
def EXT_CNT_CLR_ALL : Fld := ⟨0, 1, .wo⟩
/-- EXT_CH_CFG (07_echo_extraction_and_points.md). -/
def EXT_CH_CFG (n : Nat) : Nat := 0x71000 + 0x10 * n
def EXT_CH_CFG_ISRC : Fld := ⟨16, 1, .rw⟩
def EXT_CH_CFG_GAIN : Fld := ⟨0, 16, .rw⟩
/-- EXT_CH_WIN (07_echo_extraction_and_points.md). -/
def EXT_CH_WIN (n : Nat) : Nat := 0x71004 + 0x10 * n
def EXT_CH_WIN_STREAK : Fld := ⟨24, 8, .ro⟩
def EXT_CH_WIN_WLEV : Fld := ⟨0, 16, .ro⟩
/-- EXT_CH_CNT (07_echo_extraction_and_points.md). -/
def EXT_CH_CNT (n : Nat) : Nat := 0x71008 + 0x10 * n
def EXT_CH_CNT_INTF : Fld := ⟨16, 16, .ro⟩
def EXT_CH_CNT_VEIL : Fld := ⟨0, 16, .ro⟩
/-- SRV_CTRL (09_steering_servo.md). -/
def SRV_CTRL : Nat := 0x90000
def SRV_CTRL_STOP_RAMP : Fld := ⟨24, 8, .rw⟩
def SRV_CTRL_TUNE_EN : Fld := ⟨16, 1, .rw⟩
def SRV_CTRL_IDX_SRC : Fld := ⟨8, 2, .rw⟩
def SRV_CTRL_AZ_LOOP : Fld := ⟨4, 1, .rw⟩
def SRV_CTRL_RATE_SHIFT : Fld := ⟨0, 4, .rw⟩
/-- SRV_TICK (09_steering_servo.md). -/
def SRV_TICK : Nat := 0x90004
def SRV_TICK_PERIOD : Fld := ⟨0, 16, .rw⟩
/-- SRV_STATUS (09_steering_servo.md). -/
def SRV_STATUS : Nat := 0x90008
def SRV_STATUS_CNT_CLR : Fld := ⟨8, 1, .wo⟩
def SRV_STATUS_CFG_REJ : Fld := ⟨5, 1, .w1c⟩
def SRV_STATUS_OUT_CONFLICT : Fld := ⟨4, 1, .w1c⟩
def SRV_STATUS_COEF_REJ : Fld := ⟨3, 1, .w1c⟩
def SRV_STATUS_WR_IGNORED : Fld := ⟨2, 1, .w1c⟩
def SRV_STATUS_RUNNING : Fld := ⟨1, 1, .ro⟩
/-- SRV_SAMPLE (09_steering_servo.md). -/
def SRV_SAMPLE : Nat := 0x9000C
def SRV_SAMPLE_TICKS : Fld := ⟨0, 32, .ro⟩
/-- SRV_AZ_CFG (09_steering_servo.md). -/
def SRV_AZ_CFG : Nat := 0x90010
def SRV_AZ_CFG_AZ_OFS : Fld := ⟨12, 20, .rw⟩
/-- SRV_AZ_K (09_steering_servo.md). -/
def SRV_AZ_K : Nat := 0x90014
def SRV_AZ_K_K : Fld := ⟨0, 32, .rw⟩
/-- SRV_AZ (09_steering_servo.md). -/
def SRV_AZ : Nat := 0x90018
def SRV_AZ_AZ : Fld := ⟨12, 20, .ro⟩
def SRV_AZ_VALID : Fld := ⟨0, 1, .ro⟩
/-- SRV_RATE (09_steering_servo.md). -/
def SRV_RATE : Nat := 0x9001C
def SRV_RATE_RATE : Fld := ⟨0, 32, .ro⟩
/-- SRV_IDX_PER (09_steering_servo.md). -/
def SRV_IDX_PER : Nat := 0x90020
def SRV_IDX_PER_PERIOD : Fld := ⟨0, 32, .ro⟩
/-- SRV_WIN_CFG (09_steering_servo.md). -/
def SRV_WIN_CFG : Nat := 0x90024
def SRV_WIN_CFG_DEB_IN : Fld := ⟨16, 10, .rw⟩
def SRV_WIN_CFG_DEB_OUT : Fld := ⟨8, 4, .rw⟩
def SRV_WIN_CFG_LOOPS : Fld := ⟨0, 6, .rw⟩
/-- SRV_WIN_SPD (09_steering_servo.md). -/
def SRV_WIN_SPD (j : Nat) : Nat := 0x90028 + 0x4 * j
def SRV_WIN_SPD_LIMIT : Fld := ⟨0, 32, .rw⟩
/-- SRV_WIN_STAT (09_steering_servo.md). -/
def SRV_WIN_STAT : Nat := 0x90030
def SRV_WIN_STAT_EXITS : Fld := ⟨16, 16, .ro⟩
def SRV_WIN_STAT_SPEED_OK : Fld := ⟨2, 1, .ro⟩
def SRV_WIN_STAT_VERDICT : Fld := ⟨1, 1, .ro⟩
def SRV_WIN_STAT_IN : Fld := ⟨0, 1, .ro⟩
/-- SRV_ENC_CFG (09_steering_servo.md). -/
def SRV_ENC_CFG : Nat := 0x90040
def SRV_ENC_CFG_FILT : Fld := ⟨8, 8, .rw⟩
def SRV_ENC_CFG_ZERO : Fld := ⟨1, 1, .rw⟩
def SRV_ENC_CFG_EN : Fld := ⟨0, 1, .rw⟩
/-- SRV_ENC_CPT (09_steering_servo.md). -/
def SRV_ENC_CPT : Nat := 0x90044
def SRV_ENC_CPT_CPT : Fld := ⟨0, 24, .rw⟩
/-- SRV_ENC_POS (09_steering_servo.md). -/
def SRV_ENC_POS (j : Nat) : Nat := 0x90048 + 0x4 * j
def SRV_ENC_POS_COUNT : Fld := ⟨0, 32, .ro⟩
/-- SRV_ENC_STAT (09_steering_servo.md). -/
def SRV_ENC_STAT : Nat := 0x90050
def SRV_ENC_STAT_ERRS : Fld := ⟨16, 16, .ro⟩
def SRV_ENC_STAT_IDX_SEEN : Fld := ⟨2, 1, .w1c⟩
def SRV_ENC_STAT_ERR : Fld := ⟨1, 1, .w1c⟩
def SRV_ENC_STAT_VALID : Fld := ⟨0, 1, .ro⟩
/-- SRV_DAC (09_steering_servo.md). -/
def SRV_DAC (d : Nat) : Nat := 0x90060 + 0x4 * d
def SRV_DAC_DIRECT : Fld := ⟨16, 16, .rw⟩
def SRV_DAC_SAFE : Fld := ⟨0, 16, .rw⟩
/-- SRV_PWM_CFG (09_steering_servo.md). -/
def SRV_PWM_CFG : Nat := 0x90070
def SRV_PWM_CFG_PERIOD : Fld := ⟨16, 16, .rw⟩
def SRV_PWM_CFG_PIN_EN : Fld := ⟨4, 4, .rw⟩
def SRV_PWM_CFG_INV : Fld := ⟨0, 4, .rw⟩
/-- SRV_TRC_CTRL (09_steering_servo.md). -/
def SRV_TRC_CTRL : Nat := 0x90080
def SRV_TRC_CTRL_PRE : Fld := ⟨16, 15, .rw⟩
def SRV_TRC_CTRL_DECIM : Fld := ⟨12, 4, .rw⟩
def SRV_TRC_CTRL_TRIG : Fld := ⟨9, 3, .rw⟩
def SRV_TRC_CTRL_SRC_LOOP : Fld := ⟨6, 3, .rw⟩
def SRV_TRC_CTRL_FORCE : Fld := ⟨2, 1, .wo⟩
def SRV_TRC_CTRL_STOP : Fld := ⟨1, 1, .wo⟩
def SRV_TRC_CTRL_ARM : Fld := ⟨0, 1, .wo⟩
/-- SRV_TRC_SEL (09_steering_servo.md). -/
def SRV_TRC_SEL (j : Nat) : Nat := 0x90084 + 0x4 * j
def SRV_TRC_SEL_S3 : Fld := ⟨24, 8, .rw⟩
def SRV_TRC_SEL_S2 : Fld := ⟨16, 8, .rw⟩
def SRV_TRC_SEL_S1 : Fld := ⟨8, 8, .rw⟩
def SRV_TRC_SEL_S0 : Fld := ⟨0, 8, .rw⟩
/-- SRV_TRC_THR (09_steering_servo.md). -/
def SRV_TRC_THR : Nat := 0x9008C
def SRV_TRC_THR_THR : Fld := ⟨0, 32, .rw⟩
/-- SRV_TRC_STAT (09_steering_servo.md). -/
def SRV_TRC_STAT : Nat := 0x90090
def SRV_TRC_STAT_STATE : Fld := ⟨29, 3, .ro⟩
def SRV_TRC_STAT_PRE_SHORT : Fld := ⟨28, 1, .ro⟩
def SRV_TRC_STAT_WPTR : Fld := ⟨0, 15, .ro⟩
/-- SRV_TRC_TRIG (09_steering_servo.md). -/
def SRV_TRC_TRIG : Nat := 0x90094
def SRV_TRC_TRIG_RECS : Fld := ⟨16, 16, .ro⟩
def SRV_TRC_TRIG_TIDX : Fld := ⟨0, 15, .ro⟩
/-- SRV_TRC_TSAMP (09_steering_servo.md). -/
def SRV_TRC_TSAMP : Nat := 0x90098
def SRV_TRC_TSAMP_TICKS : Fld := ⟨0, 32, .ro⟩
/-- SRV_LP_CTRL (09_steering_servo.md). -/
def SRV_LP_CTRL (x : Nat) : Nat := 0x90100 + 0x80 * x
def SRV_LP_CTRL_RUN : Fld := ⟨1, 1, .rw⟩
def SRV_LP_CTRL_MODE : Fld := ⟨0, 1, .rw⟩
/-- SRV_LP_CFG (09_steering_servo.md). -/
def SRV_LP_CFG (x : Nat) : Nat := 0x90104 + 0x80 * x
def SRV_LP_CFG_OUT : Fld := ⟨28, 4, .rw⟩
def SRV_LP_CFG_DIV : Fld := ⟨24, 4, .rw⟩
def SRV_LP_CFG_FBSRC : Fld := ⟨16, 4, .rw⟩
def SRV_LP_CFG_TYPE : Fld := ⟨8, 2, .rw⟩
def SRV_LP_CFG_N1_EN : Fld := ⟨1, 1, .rw⟩
def SRV_LP_CFG_N0_EN : Fld := ⟨0, 1, .rw⟩
/-- SRV_LP_STAT (09_steering_servo.md). -/
def SRV_LP_STAT (x : Nat) : Nat := 0x90108 + 0x80 * x
def SRV_LP_STAT_SAT_SEEN : Fld := ⟨7, 1, .w1c⟩
def SRV_LP_STAT_SATURATED : Fld := ⟨6, 1, .ro⟩
def SRV_LP_STAT_FB_VALID : Fld := ⟨5, 1, .ro⟩
def SRV_LP_STAT_TRIP : Fld := ⟨4, 1, .w1c⟩
def SRV_LP_STAT_GOOD : Fld := ⟨3, 1, .ro⟩
def SRV_LP_STAT_STATE : Fld := ⟨0, 3, .ro⟩
/-- SRV_LP_SP (09_steering_servo.md). -/
def SRV_LP_SP (x : Nat) : Nat := 0x9010C + 0x80 * x
def SRV_LP_SP_SP : Fld := ⟨0, 32, .rw⟩
/-- SRV_LP_MAN (09_steering_servo.md). -/
def SRV_LP_MAN (x : Nat) : Nat := 0x90110 + 0x80 * x
def SRV_LP_MAN_MAN : Fld := ⟨0, 16, .rw⟩
/-- SRV_LP_K (09_steering_servo.md). -/
def SRV_LP_K (x : Nat) (j : Nat) : Nat := 0x90114 + 0x80 * x + 0x4 * j
def SRV_LP_K_GAIN : Fld := ⟨0, 32, .rw⟩
/-- SRV_LP_ILIM (09_steering_servo.md). -/
def SRV_LP_ILIM (x : Nat) : Nat := 0x90124 + 0x80 * x
def SRV_LP_ILIM_IHI : Fld := ⟨16, 16, .rw⟩
def SRV_LP_ILIM_ILO : Fld := ⟨0, 16, .rw⟩
/-- SRV_LP_OLIM (09_steering_servo.md). -/
def SRV_LP_OLIM (x : Nat) : Nat := 0x90128 + 0x80 * x
def SRV_LP_OLIM_OHI : Fld := ⟨16, 16, .rw⟩
def SRV_LP_OLIM_OLO : Fld := ⟨0, 16, .rw⟩
/-- SRV_LP_OOFS (09_steering_servo.md). -/
def SRV_LP_OOFS (x : Nat) : Nat := 0x9012C + 0x80 * x
def SRV_LP_OOFS_OOFS : Fld := ⟨0, 16, .rw⟩
/-- SRV_LP_NC (09_steering_servo.md). -/
def SRV_LP_NC (x : Nat) (f : Nat) (j : Nat) : Nat := 0x90130 + 0x80 * x + 0x14 * f + 0x4 * j
def SRV_LP_NC_COEF : Fld := ⟨0, 24, .rw⟩
/-- SRV_LP_ERRMAX (09_steering_servo.md). -/
def SRV_LP_ERRMAX (x : Nat) : Nat := 0x90158 + 0x80 * x
def SRV_LP_ERRMAX_ERRMAX : Fld := ⟨0, 20, .rw⟩
/-- SRV_LP_TRAJ (09_steering_servo.md). -/
def SRV_LP_TRAJ (x : Nat) : Nat := 0x9015C + 0x80 * x
def SRV_LP_TRAJ_SWAP : Fld := ⟨31, 1, .w1s⟩
def SRV_LP_TRAJ_ACTIVE : Fld := ⟨30, 1, .ro⟩
def SRV_LP_TRAJ_STEP : Fld := ⟨16, 12, .rw⟩
def SRV_LP_TRAJ_LEN : Fld := ⟨0, 11, .rw⟩
/-- SRV_LP_OUT (09_steering_servo.md). -/
def SRV_LP_OUT (x : Nat) : Nat := 0x90160 + 0x80 * x
def SRV_LP_OUT_CODE : Fld := ⟨16, 16, .ro⟩
def SRV_LP_OUT_U : Fld := ⟨0, 16, .ro⟩
/-- SRV_LP_MON (09_steering_servo.md). -/
def SRV_LP_MON (x : Nat) (j : Nat) : Nat := 0x90164 + 0x80 * x + 0x4 * j
def SRV_LP_MON_VALUE : Fld := ⟨0, 32, .ro⟩
/-- SRV_LP_CNT (09_steering_servo.md). -/
def SRV_LP_CNT (x : Nat) : Nat := 0x90170 + 0x80 * x
def SRV_LP_CNT_MISS : Fld := ⟨16, 16, .ro⟩
def SRV_LP_CNT_SATEV : Fld := ⟨0, 16, .ro⟩
/-- SRV_TRAJ (09_steering_servo.md R240). -/
def SRV_TRAJ (m : Nat) (b : Nat) (e : Nat) : Nat := 0x94000 + 0x2000 * m + 0x1000 * b + 0x4 * e
def SRV_TRAJ_SP : Fld := ⟨12, 20, .rw⟩
def SRV_TRAJ_GATE : Fld := ⟨11, 1, .rw⟩
/-- MAD_CTRL (10_monitor_adc_and_filters.md). -/
def MAD_CTRL : Nat := 0xA0000
def MAD_CTRL_CNT_CLR : Fld := ⟨12, 1, .wo⟩
def MAD_CTRL_GO : Fld := ⟨9, 1, .wo⟩
def MAD_CTRL_SEQ_EN : Fld := ⟨8, 1, .rw⟩
def MAD_CTRL_REF_EN : Fld := ⟨0, 1, .rw⟩
/-- MAD_STATUS (10_monitor_adc_and_filters.md). -/
def MAD_STATUS : Nat := 0xA0004
def MAD_STATUS_CFG_REJ : Fld := ⟨3, 1, .w1c⟩
def MAD_STATUS_WR_IGNORED : Fld := ⟨2, 1, .w1c⟩
def MAD_STATUS_REF_AUTO : Fld := ⟨1, 1, .ro⟩
def MAD_STATUS_REF_RDY : Fld := ⟨0, 1, .ro⟩
/-- MAD_TRIG (10_monitor_adc_and_filters.md). -/
def MAD_TRIG : Nat := 0xA0008
def MAD_TRIG_DELAY : Fld := ⟨16, 16, .rw⟩
def MAD_TRIG_GPIO_POL : Fld := ⟨12, 1, .rw⟩
def MAD_TRIG_GPIO : Fld := ⟨8, 4, .rw⟩
def MAD_TRIG_SRC : Fld := ⟨0, 3, .rw⟩
/-- MAD_TIMER (10_monitor_adc_and_filters.md). -/
def MAD_TIMER : Nat := 0xA000C
def MAD_TIMER_PERIOD : Fld := ⟨0, 32, .rw⟩
/-- MAD_TICK_CH (10_monitor_adc_and_filters.md). -/
def MAD_TICK_CH : Nat := 0xA0010
def MAD_TICK_CH_CH3 : Fld := ⟨24, 8, .rw⟩
def MAD_TICK_CH_CH2 : Fld := ⟨16, 8, .rw⟩
def MAD_TICK_CH_CH1 : Fld := ⟨8, 8, .rw⟩
def MAD_TICK_CH_CH0 : Fld := ⟨0, 8, .rw⟩
/-- MAD_INJ (10_monitor_adc_and_filters.md). -/
def MAD_INJ : Nat := 0xA0014
def MAD_INJ_GO : Fld := ⟨31, 1, .wo⟩
def MAD_INJ_CONV : Fld := ⟨28, 2, .rw⟩
def MAD_INJ_DIFF : Fld := ⟨6, 1, .rw⟩
def MAD_INJ_CODE : Fld := ⟨0, 5, .rw⟩
/-- MAD_INJ_RES (10_monitor_adc_and_filters.md). -/
def MAD_INJ_RES : Nat := 0xA0018
def MAD_INJ_RES_VALID : Fld := ⟨31, 1, .ro⟩
def MAD_INJ_RES_DROPPED : Fld := ⟨30, 1, .ro⟩
def MAD_INJ_RES_CONV : Fld := ⟨28, 2, .ro⟩
def MAD_INJ_RES_RESULT : Fld := ⟨0, 16, .ro⟩
/-- MAD_SEQ_STAT (10_monitor_adc_and_filters.md). -/
def MAD_SEQ_STAT : Nat := 0xA001C
def MAD_SEQ_STAT_ENTRY : Fld := ⟨16, 6, .ro⟩
def MAD_SEQ_STAT_REP : Fld := ⟨8, 8, .ro⟩
def MAD_SEQ_STAT_WAITING : Fld := ⟨1, 1, .ro⟩
def MAD_SEQ_STAT_RUN : Fld := ⟨0, 1, .ro⟩
/-- MAD_RES (10_monitor_adc_and_filters.md). -/
def MAD_RES (j : Nat) : Nat := 0xA0020 + 0x4 * j
def MAD_RES_KIND : Fld := ⟨29, 3, .ro⟩
def MAD_RES_CODE : Fld := ⟨24, 5, .ro⟩
def MAD_RES_DIFF : Fld := ⟨23, 1, .ro⟩
def MAD_RES_RESULT : Fld := ⟨0, 16, .ro⟩
/-- MAD_CNT (10_monitor_adc_and_filters.md). -/
def MAD_CNT : Nat := 0xA0030
def MAD_CNT_INJ_DROP : Fld := ⟨16, 16, .ro⟩
def MAD_CNT_XDROP : Fld := ⟨0, 16, .ro⟩
/-- MAD_CNT2 (10_monitor_adc_and_filters.md). -/
def MAD_CNT2 : Nat := 0xA0034
def MAD_CNT2_SLIP : Fld := ⟨16, 16, .ro⟩
def MAD_CNT2_TRIG_MISS : Fld := ⟨0, 16, .ro⟩
/-- MAD_GUARD (10_monitor_adc_and_filters.md). -/
def MAD_GUARD : Nat := 0xA0038
def MAD_GUARD_VMID : Fld := ⟨16, 16, .ro⟩
def MAD_GUARD_VRES : Fld := ⟨0, 16, .ro⟩
/-- MAD_TRIG_TBS_LO (10_monitor_adc_and_filters.md). -/
def MAD_TRIG_TBS_LO : Nat := 0xA0040
def MAD_TRIG_TBS_LO_TBS_LO : Fld := ⟨0, 32, .rs⟩
/-- MAD_TRIG_TBS_HI (10_monitor_adc_and_filters.md). -/
def MAD_TRIG_TBS_HI : Nat := 0xA0044
def MAD_TRIG_TBS_HI_TBS_HI : Fld := ⟨0, 32, .rs⟩
/-- MAD_ENTRY0 (10_monitor_adc_and_filters.md R260). -/
def MAD_ENTRY0 (e : Nat) : Nat := 0xA1000 + 0x10 * e
def MAD_ENTRY0_CH0 : Fld := ⟨0, 8, .rw⟩
def MAD_ENTRY0_CH1 : Fld := ⟨8, 8, .rw⟩
def MAD_ENTRY0_CH2 : Fld := ⟨16, 8, .rw⟩
def MAD_ENTRY0_CH3 : Fld := ⟨24, 8, .rw⟩
/-- MAD_ENTRY1 (10_monitor_adc_and_filters.md R260). -/
def MAD_ENTRY1 (e : Nat) : Nat := 0xA1004 + 0x10 * e
def MAD_ENTRY1_ROUTE : Fld := ⟨0, 16, .rw⟩
/-- MAD_ENTRY2 (10_monitor_adc_and_filters.md R260). -/
def MAD_ENTRY2 (e : Nat) : Nat := 0xA1008 + 0x10 * e
def MAD_ENTRY2_SPACE : Fld := ⟨16, 16, .rw⟩
def MAD_ENTRY2_REP_M1 : Fld := ⟨8, 8, .rw⟩
def MAD_ENTRY2_STOP : Fld := ⟨2, 1, .rw⟩
def MAD_ENTRY2_LOOP : Fld := ⟨1, 1, .rw⟩
def MAD_ENTRY2_WAIT : Fld := ⟨0, 1, .rw⟩
/-- MAD_ENTRY3 (10_monitor_adc_and_filters.md R260). -/
def MAD_ENTRY3 (e : Nat) : Nat := 0xA100C + 0x10 * e
def MAD_ENTRY3_LOOP_TO : Fld := ⟨0, 6, .rw⟩
/-- MFC_SYNC (10_monitor_adc_and_filters.md). -/
def MFC_SYNC : Nat := 0xA8000
def MFC_SYNC_TRIG_SYNC : Fld := ⟨8, 8, .rw⟩
def MFC_SYNC_SYNC : Fld := ⟨0, 8, .wo⟩
/-- MFC_STATUS (10_monitor_adc_and_filters.md). -/
def MFC_STATUS : Nat := 0xA8004
def MFC_STATUS_CNT_CLR : Fld := ⟨8, 1, .wo⟩
def MFC_STATUS_COEF_REJ : Fld := ⟨1, 1, .w1c⟩
def MFC_STATUS_CFG_REJ : Fld := ⟨0, 1, .w1c⟩
/-- MFC_CH_CTRL (10_monitor_adc_and_filters.md). -/
def MFC_CH_CTRL (c : Nat) : Nat := 0xA8100 + 0x40 * c
def MFC_CH_CTRL_EN : Fld := ⟨0, 1, .rw⟩
/-- MFC_CH_CFG (10_monitor_adc_and_filters.md). -/
def MFC_CH_CFG (c : Nat) : Nat := 0xA8104 + 0x40 * c
def MFC_CH_CFG_PRESET : Fld := ⟨16, 2, .rw⟩
def MFC_CH_CFG_TICK_SRC : Fld := ⟨10, 1, .rw⟩
def MFC_CH_CFG_TICK_CONV : Fld := ⟨8, 2, .rw⟩
def MFC_CH_CFG_DEC_LOG2 : Fld := ⟨0, 4, .rw⟩
/-- MFC_CH_FIR (10_monitor_adc_and_filters.md). -/
def MFC_CH_FIR (c : Nat) (m : Nat) : Nat := 0xA8108 + 0x40 * c + 0x4 * m
def MFC_CH_FIR_COEF : Fld := ⟨0, 19, .rw⟩
/-- MFC_CH_THR (10_monitor_adc_and_filters.md). -/
def MFC_CH_THR (c : Nat) : Nat := 0xA8128 + 0x40 * c
def MFC_CH_THR_HI : Fld := ⟨16, 16, .rw⟩
def MFC_CH_THR_LO : Fld := ⟨0, 16, .rw⟩
/-- MFC_CH_EVT (10_monitor_adc_and_filters.md). -/
def MFC_CH_EVT (c : Nat) : Nat := 0xA812C + 0x40 * c
def MFC_CH_EVT_HYST : Fld := ⟨0, 16, .rw⟩
/-- MFC_CH_OUT (10_monitor_adc_and_filters.md). -/
def MFC_CH_OUT (c : Nat) : Nat := 0xA8130 + 0x40 * c
def MFC_CH_OUT_VALUE : Fld := ⟨0, 32, .ro⟩
/-- MFC_CH_STAT (10_monitor_adc_and_filters.md). -/
def MFC_CH_STAT (c : Nat) : Nat := 0xA8134 + 0x40 * c
def MFC_CH_STAT_OUTS : Fld := ⟨16, 16, .ro⟩
def MFC_CH_STAT_ABOVE : Fld := ⟨5, 1, .ro⟩
def MFC_CH_STAT_BELOW : Fld := ⟨4, 1, .ro⟩
def MFC_CH_STAT_HI_SEEN : Fld := ⟨3, 1, .w1c⟩
def MFC_CH_STAT_LO_SEEN : Fld := ⟨2, 1, .w1c⟩
def MFC_CH_STAT_VALID : Fld := ⟨0, 1, .ro⟩
/-- MFC_CH_CNT (10_monitor_adc_and_filters.md). -/
def MFC_CH_CNT (c : Nat) : Nat := 0xA8138 + 0x40 * c
def MFC_CH_CNT_HI_EVT : Fld := ⟨16, 16, .ro⟩
def MFC_CH_CNT_LO_EVT : Fld := ⟨0, 16, .ro⟩
/-- EVR_CTRL (11_event_recorder.md). -/
def EVR_CTRL : Nat := 0xB0000
def EVR_CTRL_CNT_CLR : Fld := ⟨1, 1, .wo⟩
def EVR_CTRL_FORCE : Fld := ⟨0, 1, .wo⟩
/-- EVR_STATE (11_event_recorder.md). -/
def EVR_STATE : Nat := 0xB0004
def EVR_STATE_WR_IGNORED : Fld := ⟨11, 1, .w1c⟩
def EVR_STATE_LAST_SRC : Fld := ⟨8, 3, .ro⟩
def EVR_STATE_SEG : Fld := ⟨4, 3, .ro⟩
def EVR_STATE_STATE : Fld := ⟨0, 3, .ro⟩
/-- EVR_FILL (11_event_recorder.md). -/
def EVR_FILL : Nat := 0xB0008
def EVR_FILL_UNITS : Fld := ⟨0, 32, .ro⟩
/-- EVR_CNT_TRIG (11_event_recorder.md). -/
def EVR_CNT_TRIG : Nat := 0xB000C
def EVR_CNT_TRIG_TRIG_REARM : Fld := ⟨16, 16, .ro⟩
def EVR_CNT_TRIG_TRIG_EARLY : Fld := ⟨0, 16, .ro⟩
/-- EVR_SRC (11_event_recorder.md). -/
def EVR_SRC : Nat := 0xB0010
def EVR_SRC_NSEG_LOG2 : Fld := ⟨6, 2, .ro⟩
def EVR_SRC_HG_OUT : Fld := ⟨5, 1, .ro⟩
def EVR_SRC_REARM : Fld := ⟨4, 1, .ro⟩
def EVR_SRC_STAGE : Fld := ⟨3, 1, .ro⟩
def EVR_SRC_ROWS : Fld := ⟨2, 1, .ro⟩
def EVR_SRC_MONITOR : Fld := ⟨1, 1, .ro⟩
def EVR_SRC_EVENTS : Fld := ⟨0, 1, .ro⟩
/-- EVR_PRE (11_event_recorder.md). -/
def EVR_PRE : Nat := 0xB0014
def EVR_PRE_PRE : Fld := ⟨0, 19, .ro⟩
/-- EVR_POST (11_event_recorder.md). -/
def EVR_POST : Nat := 0xB0018
def EVR_POST_POST : Fld := ⟨0, 19, .ro⟩
/-- EVR_TRIG (11_event_recorder.md). -/
def EVR_TRIG : Nat := 0xB001C
def EVR_TRIG_COL : Fld := ⟨20, 12, .ro⟩
def EVR_TRIG_LO : Fld := ⟨19, 1, .ro⟩
def EVR_TRIG_HI : Fld := ⟨18, 1, .ro⟩
def EVR_TRIG_CHAIN : Fld := ⟨15, 3, .ro⟩
def EVR_TRIG_SRC : Fld := ⟨0, 8, .ro⟩
/-- EVR_MON_SEL (11_event_recorder.md). -/
def EVR_MON_SEL : Nat := 0xB0020
def EVR_MON_SEL_CHAINS : Fld := ⟨8, 8, .ro⟩
def EVR_MON_SEL_CONV : Fld := ⟨4, 4, .ro⟩
def EVR_MON_SEL_KINDS : Fld := ⟨0, 4, .ro⟩
/-- EVR_ROW_SEL (11_event_recorder.md). -/
def EVR_ROW_SEL : Nat := 0xB0024
def EVR_ROW_SEL_COL : Fld := ⟨20, 12, .ro⟩
def EVR_ROW_SEL_ALLCOL : Fld := ⟨16, 1, .ro⟩
def EVR_ROW_SEL_CHMASK : Fld := ⟨8, 4, .ro⟩
def EVR_ROW_SEL_BANK : Fld := ⟨0, 7, .ro⟩
/-- EVR_CH_MASK (11_event_recorder.md). -/
def EVR_CH_MASK (j : Nat) : Nat := 0xB0028 + 0x4 * j
def EVR_CH_MASK_MASK : Fld := ⟨0, 32, .ro⟩
/-- EVR_CNT_GAPE (11_event_recorder.md). -/
def EVR_CNT_GAPE : Nat := 0xB0068
def EVR_CNT_GAPE_LOST : Fld := ⟨0, 32, .ro⟩
/-- EVR_CNT_GAPM (11_event_recorder.md). -/
def EVR_CNT_GAPM : Nat := 0xB006C
def EVR_CNT_GAPM_LOST : Fld := ⟨0, 32, .ro⟩
/-- EVR_TTIME_LO (11_event_recorder.md). -/
def EVR_TTIME_LO : Nat := 0xB0070
def EVR_TTIME_LO_TIME_LO : Fld := ⟨0, 32, .rs⟩
/-- EVR_TTIME_HI (11_event_recorder.md). -/
def EVR_TTIME_HI : Nat := 0xB0074
def EVR_TTIME_HI_TIME_HI : Fld := ⟨0, 32, .rs⟩
/-- EVR_ECC (11_event_recorder.md). -/
def EVR_ECC : Nat := 0xB0078
def EVR_ECC_UE : Fld := ⟨16, 16, .ro⟩
def EVR_ECC_CE : Fld := ⟨0, 16, .ro⟩
/-- EVR_SEG_FREE (11_event_recorder.md). -/
def EVR_SEG_FREE : Nat := 0xB007C
def EVR_SEG_FREE_FREE : Fld := ⟨0, 8, .wo⟩
/-- EVR_SEG_INFO (11_event_recorder.md). -/
def EVR_SEG_INFO (s : Nat) : Nat := 0xB0080 + 0x8 * s
def EVR_SEG_INFO_STATUS : Fld := ⟨30, 2, .ro⟩
def EVR_SEG_INFO_TRIGGERED : Fld := ⟨29, 1, .ro⟩
def EVR_SEG_INFO_STOPPED : Fld := ⟨28, 1, .ro⟩
def EVR_SEG_INFO_PARTIAL : Fld := ⟨27, 1, .ro⟩
def EVR_SEG_INFO_START : Fld := ⟨0, 19, .ro⟩
/-- EVR_SEG_COUNT (11_event_recorder.md). -/
def EVR_SEG_COUNT (s : Nat) : Nat := 0xB0084 + 0x8 * s
def EVR_SEG_COUNT_COUNT : Fld := ⟨0, 19, .ro⟩
/-- EVR_MSK_CFG (11_event_recorder.md). -/
def EVR_MSK_CFG (m : Nat) : Nat := 0xB0100 + 0x100 * m
def EVR_MSK_CFG_EN : Fld := ⟨31, 1, .rw⟩
def EVR_MSK_CFG_STOP : Fld := ⟨30, 1, .rw⟩
def EVR_MSK_CFG_TRIG : Fld := ⟨29, 1, .rw⟩
def EVR_MSK_CFG_EVENT : Fld := ⟨28, 1, .rw⟩
def EVR_MSK_CFG_INPUT : Fld := ⟨24, 2, .rw⟩
def EVR_MSK_CFG_REF : Fld := ⟨16, 3, .rw⟩
def EVR_MSK_CFG_SEG_LEN : Fld := ⟨0, 16, .rw⟩
/-- EVR_MSK_SRC (11_event_recorder.md). -/
def EVR_MSK_SRC (m : Nat) : Nat := 0xB0104 + 0x100 * m
def EVR_MSK_SRC_CH_HI : Fld := ⟨23, 9, .rw⟩
def EVR_MSK_SRC_CH_LO : Fld := ⟨14, 9, .rw⟩
def EVR_MSK_SRC_CONV : Fld := ⟨12, 2, .rw⟩
def EVR_MSK_SRC_CHAIN : Fld := ⟨9, 3, .rw⟩
def EVR_MSK_SRC_CHBYTE : Fld := ⟨0, 7, .rw⟩
/-- EVR_MSK_CNT (11_event_recorder.md). -/
def EVR_MSK_CNT (m : Nat) : Nat := 0xB0108 + 0x100 * m
def EVR_MSK_CNT_VIOLS : Fld := ⟨16, 16, .ro⟩
def EVR_MSK_CNT_FAILS : Fld := ⟨0, 16, .ro⟩
/-- EVR_MSK_LAST (11_event_recorder.md). -/
def EVR_MSK_LAST (m : Nat) : Nat := 0xB010C + 0x100 * m
def EVR_MSK_LAST_SEG : Fld := ⟨27, 5, .ro⟩
def EVR_MSK_LAST_HIGH : Fld := ⟨26, 1, .ro⟩
def EVR_MSK_LAST_VALUE : Fld := ⟨0, 16, .ro⟩
/-- EVR_MSK_ENV (11_event_recorder.md). -/
def EVR_MSK_ENV (m : Nat) (s : Nat) : Nat := 0xB0180 + 0x100 * m + 0x4 * s
def EVR_MSK_ENV_UPPER : Fld := ⟨16, 16, .rw⟩
def EVR_MSK_ENV_LOWER : Fld := ⟨0, 16, .rw⟩
/-- ESF_COND (12_emission_safety_and_zones.md). -/
def ESF_COND : Nat := 0xC0000
def ESF_COND_ALL : Fld := ⟨31, 1, .ro⟩
def ESF_COND_COND : Fld := ⟨0, 13, .ro⟩
/-- ESF_CAUSE (12_emission_safety_and_zones.md). -/
def ESF_CAUSE : Nat := 0xC0004
def ESF_CAUSE_CAUSE : Fld := ⟨1, 15, .ro⟩
/-- ESF_TRIP (12_emission_safety_and_zones.md). -/
def ESF_TRIP : Nat := 0xC0008
def ESF_TRIP_TRIPS : Fld := ⟨16, 16, .ro⟩
def ESF_TRIP_FIRST : Fld := ⟨0, 5, .ro⟩
/-- ESF_TRIP_LO (12_emission_safety_and_zones.md). -/
def ESF_TRIP_LO : Nat := 0xC000C
def ESF_TRIP_LO_TIME_LO : Fld := ⟨0, 32, .rs⟩
/-- ESF_TRIP_HI (12_emission_safety_and_zones.md). -/
def ESF_TRIP_HI : Nat := 0xC0010
def ESF_TRIP_HI_TIME_HI : Fld := ⟨0, 32, .rs⟩
/-- ESF_CTRL (12_emission_safety_and_zones.md). -/
def ESF_CTRL : Nat := 0xC0014
def ESF_CTRL_HG_DRIVE : Fld := ⟨31, 1, .rw⟩
def ESF_CTRL_TRIP : Fld := ⟨30, 1, .wo⟩
def ESF_CTRL_DISC : Fld := ⟨24, 5, .rw⟩
def ESF_CTRL_HOLDOFF : Fld := ⟨16, 8, .rw⟩
def ESF_CTRL_AUTOCLR : Fld := ⟨0, 16, .rw⟩
/-- ESF_IN (12_emission_safety_and_zones.md). -/
def ESF_IN : Nat := 0xC0018
def ESF_IN_HG_DRV : Fld := ⟨7, 1, .ro⟩
def ESF_IN_HG_FAULT_N : Fld := ⟨6, 1, .ro⟩
def ESF_IN_COVER_N : Fld := ⟨5, 1, .ro⟩
def ESF_IN_B_CLOSED : Fld := ⟨4, 1, .ro⟩
def ESF_IN_A_CLOSED : Fld := ⟨3, 1, .ro⟩
def ESF_IN_DISC : Fld := ⟨2, 1, .ro⟩
def ESF_IN_PTEST : Fld := ⟨0, 2, .ro⟩
/-- ESF_WALK_CFG (12_emission_safety_and_zones.md). -/
def ESF_WALK_CFG : Nat := 0xC001C
def ESF_WALK_CFG_T_C : Fld := ⟨24, 8, .rw⟩
def ESF_WALK_CFG_T_B : Fld := ⟨12, 12, .rw⟩
def ESF_WALK_CFG_T_A : Fld := ⟨0, 12, .rw⟩
/-- ESF_SW_THR0 (12_emission_safety_and_zones.md). -/
def ESF_SW_THR0 : Nat := 0xC0020
def ESF_SW_THR0_MID_ON : Fld := ⟨16, 16, .rw⟩
def ESF_SW_THR0_RISE_MAX : Fld := ⟨0, 16, .rw⟩
/-- ESF_SW_THR1 (12_emission_safety_and_zones.md). -/
def ESF_SW_THR1 : Nat := 0xC0024
def ESF_SW_THR1_RES_ON : Fld := ⟨16, 16, .rw⟩
def ESF_SW_THR1_TRACK : Fld := ⟨0, 16, .rw⟩
/-- ESF_WALK_STAT (12_emission_safety_and_zones.md). -/
def ESF_WALK_STAT : Nat := 0xC0028
def ESF_WALK_STAT_REASON : Fld := ⟨28, 4, .ro⟩
def ESF_WALK_STAT_STEP : Fld := ⟨24, 4, .ro⟩
def ESF_WALK_STAT_PASSES : Fld := ⟨0, 16, .ro⟩
/-- ESF_STATUS (12_emission_safety_and_zones.md). -/
def ESF_STATUS : Nat := 0xC002C
def ESF_STATUS_CFG_REJ : Fld := ⟨1, 1, .w1c⟩
def ESF_STATUS_WR_IGNORED : Fld := ⟨0, 1, .w1c⟩
/-- ESF_CNT (12_emission_safety_and_zones.md). -/
def ESF_CNT : Nat := 0xC0030
def ESF_CNT_DISC : Fld := ⟨16, 16, .ro⟩
def ESF_CNT_GUARD_FAIL : Fld := ⟨0, 16, .ro⟩
/-- ESF_DIAG (12_emission_safety_and_zones.md). -/
def ESF_DIAG : Nat := 0xC0034
def ESF_DIAG_WDOG_AGE : Fld := ⟨8, 8, .ro⟩
def ESF_DIAG_TEST_FAIL : Fld := ⟨4, 4, .ro⟩
def ESF_DIAG_WDOG_EXP : Fld := ⟨1, 1, .ro⟩
def ESF_DIAG_LOCKSTEP_ERR : Fld := ⟨0, 1, .ro⟩
/-- ESF_EXP_WT (12_emission_safety_and_zones.md). -/
def ESF_EXP_WT (j : Nat) : Nat := 0xC0040 + 0x4 * j
def ESF_EXP_WT_WT : Fld := ⟨0, 32, .rw⟩
/-- ESF_EXP_LIM (12_emission_safety_and_zones.md). -/
def ESF_EXP_LIM (w : Nat) : Nat := 0xC0050 + 0x4 * w
def ESF_EXP_LIM_LIMIT : Fld := ⟨0, 32, .ro⟩
/-- ESF_EXP_CEIL (12_emission_safety_and_zones.md). -/
def ESF_EXP_CEIL (w : Nat) : Nat := 0xC005C + 0x4 * w
def ESF_EXP_CEIL_CEIL : Fld := ⟨0, 32, .ro⟩
/-- ESF_EXP_SEL (12_emission_safety_and_zones.md). -/
def ESF_EXP_SEL : Nat := 0xC0068
def ESF_EXP_SEL_SEG : Fld := ⟨6, 4, .rw⟩
def ESF_EXP_SEL_SECTOR : Fld := ⟨0, 6, .rw⟩
/-- ESF_EXP_LVL (12_emission_safety_and_zones.md). -/
def ESF_EXP_LVL (w : Nat) : Nat := 0xC006C + 0x4 * w
def ESF_EXP_LVL_LEVEL : Fld := ⟨0, 32, .ro⟩
/-- ESF_EXP_PEAK (12_emission_safety_and_zones.md). -/
def ESF_EXP_PEAK (w : Nat) : Nat := 0xC0078 + 0x4 * w
def ESF_EXP_PEAK_FILL : Fld := ⟨24, 8, .ro⟩
def ESF_EXP_PEAK_CELL : Fld := ⟨0, 10, .ro⟩
/-- ESF_FREF_LIM (12_emission_safety_and_zones.md). -/
def ESF_FREF_LIM : Nat := 0xC0084
def ESF_FREF_LIM_TOTMAX : Fld := ⟨0, 32, .rw⟩
/-- ZON_CTRL (12_emission_safety_and_zones.md). -/
def ZON_CTRL : Nat := 0x80000
def ZON_CTRL_PERIOD : Fld := ⟨8, 8, .rw⟩
def ZON_CTRL_TB : Fld := ⟨1, 1, .rw⟩
def ZON_CTRL_EN : Fld := ⟨0, 1, .rw⟩
/-- ZON_ADDR (12_emission_safety_and_zones.md). -/
def ZON_ADDR : Nat := 0x80004
def ZON_ADDR_ADDRESS : Fld := ⟨0, 32, .rw⟩
/-- ZON_STATE (12_emission_safety_and_zones.md). -/
def ZON_STATE : Nat := 0x80008
def ZON_STATE_ZONES : Fld := ⟨0, 32, .ro⟩
/-- ZON_SEQ (12_emission_safety_and_zones.md). -/
def ZON_SEQ : Nat := 0x8000C
def ZON_SEQ_SEQ : Fld := ⟨0, 32, .ro⟩
/-- ZON_COMMIT_STAT (12_emission_safety_and_zones.md). -/
def ZON_COMMIT_STAT : Nat := 0x80010
def ZON_COMMIT_STAT_REASON : Fld := ⟨28, 4, .ro⟩
def ZON_COMMIT_STAT_ZONE : Fld := ⟨24, 4, .ro⟩
def ZON_COMMIT_STAT_PEND : Fld := ⟨23, 1, .ro⟩
def ZON_COMMIT_STAT_CELL : Fld := ⟨0, 12, .ro⟩
/-- ZON_CFG_ID (12_emission_safety_and_zones.md). -/
def ZON_CFG_ID : Nat := 0x80014
def ZON_CFG_ID_ID : Fld := ⟨0, 32, .ro⟩
/-- ZON_MASK (12_emission_safety_and_zones.md). -/
def ZON_MASK : Nat := 0x80018
def ZON_MASK_MASK : Fld := ⟨0, 16, .ro⟩
/-- ZON_CMD (12_emission_safety_and_zones.md). -/
def ZON_CMD : Nat := 0x8001C
def ZON_CMD_SEQ : Fld := ⟨0, 32, .ro⟩
/-- ZON_CMD_STAT (12_emission_safety_and_zones.md). -/
def ZON_CMD_STAT : Nat := 0x80020
def ZON_CMD_STAT_PEND_B : Fld := ⟨2, 1, .ro⟩
def ZON_CMD_STAT_PEND_A : Fld := ⟨1, 1, .ro⟩
def ZON_CMD_STAT_STOP : Fld := ⟨0, 1, .ro⟩
/-- ZON_CNT (12_emission_safety_and_zones.md). -/
def ZON_CNT : Nat := 0x80024
def ZON_CNT_MISMATCH : Fld := ⟨16, 16, .ro⟩
def ZON_CNT_UNPAIRED : Fld := ⟨0, 16, .ro⟩
/-- ZON_CNT2 (12_emission_safety_and_zones.md). -/
def ZON_CNT2 : Nat := 0x80028
def ZON_CNT2_CFG_REJ : Fld := ⟨31, 1, .w1c⟩
def ZON_CNT2_CMP_FAIL : Fld := ⟨0, 16, .ro⟩
/-- ETHx_CTRL (13_backbone_ports.md). -/
def ETHx_CTRL (port : Nat) : Nat := 0xD0000 + 0x8000 * port
def ETHx_CTRL_EN : Fld := ⟨31, 1, .rw⟩
def ETHx_CTRL_PRP_EN : Fld := ⟨30, 1, .rw⟩
def ETHx_CTRL_STRM_EN : Fld := ⟨29, 1, .rw⟩
def ETHx_CTRL_LLDP_EN : Fld := ⟨28, 1, .rw⟩
def ETHx_CTRL_MODE : Fld := ⟨0, 3, .rw⟩
/-- ETHx_STATUS (13_backbone_ports.md). -/
def ETHx_STATUS (port : Nat) : Nat := 0xD0004 + 0x8000 * port
def ETHx_STATUS_LINK : Fld := ⟨15, 1, .ro⟩
def ETHx_STATUS_SPEED : Fld := ⟨13, 2, .ro⟩
def ETHx_STATUS_PENDING : Fld := ⟨12, 1, .ro⟩
def ETHx_STATUS_ADDR4 : Fld := ⟨11, 1, .ro⟩
def ETHx_STATUS_ADDR6_LL : Fld := ⟨10, 1, .ro⟩
def ETHx_STATUS_ADDR6_G : Fld := ⟨9, 1, .ro⟩
def ETHx_STATUS_DAD_FAIL : Fld := ⟨8, 1, .w1c⟩
def ETHx_STATUS_CFG_REJ : Fld := ⟨7, 1, .w1c⟩
/-- ETHx_MAC_HI (13_backbone_ports.md). -/
def ETHx_MAC_HI (port : Nat) : Nat := 0xD0008 + 0x8000 * port
def ETHx_MAC_HI_MAC_HI : Fld := ⟨0, 16, .rw⟩
/-- ETHx_MAC_LO (13_backbone_ports.md). -/
def ETHx_MAC_LO (port : Nat) : Nat := 0xD000C + 0x8000 * port
def ETHx_MAC_LO_MAC_LO : Fld := ⟨0, 32, .rw⟩
/-- ETHx_IP4_ADDR (13_backbone_ports.md). -/
def ETHx_IP4_ADDR (port : Nat) : Nat := 0xD0010 + 0x8000 * port
def ETHx_IP4_ADDR_ADDR : Fld := ⟨0, 32, .rw⟩
/-- ETHx_IP4_CFG (13_backbone_ports.md). -/
def ETHx_IP4_CFG (port : Nat) : Nat := 0xD0014 + 0x8000 * port
def ETHx_IP4_CFG_DHCP_EN : Fld := ⟨31, 1, .rw⟩
def ETHx_IP4_CFG_PREFIX : Fld := ⟨0, 6, .rw⟩
/-- ETHx_IP4_GW (13_backbone_ports.md). -/
def ETHx_IP4_GW (port : Nat) : Nat := 0xD0018 + 0x8000 * port
def ETHx_IP4_GW_GW : Fld := ⟨0, 32, .rw⟩
/-- ETHx_IP4_CUR (13_backbone_ports.md). -/
def ETHx_IP4_CUR (port : Nat) : Nat := 0xD001C + 0x8000 * port
def ETHx_IP4_CUR_ADDR : Fld := ⟨0, 32, .ro⟩
/-- ETHx_IP6_ADDR (13_backbone_ports.md). -/
def ETHx_IP6_ADDR (port : Nat) (j : Nat) : Nat := 0xD0020 + 0x8000 * port + 0x4 * j
def ETHx_IP6_ADDR_ADDR : Fld := ⟨0, 32, .rw⟩
/-- ETHx_IP6_CFG (13_backbone_ports.md). -/
def ETHx_IP6_CFG (port : Nat) : Nat := 0xD0030 + 0x8000 * port
def ETHx_IP6_CFG_EN : Fld := ⟨31, 1, .rw⟩
def ETHx_IP6_CFG_PREFIX : Fld := ⟨0, 8, .rw⟩
/-- ETHx_MTU (13_backbone_ports.md). -/
def ETHx_MTU (port : Nat) : Nat := 0xD0034 + 0x8000 * port
def ETHx_MTU_MTU : Fld := ⟨0, 14, .rw⟩
/-- ETHx_VLAN (13_backbone_ports.md). -/
def ETHx_VLAN (port : Nat) : Nat := 0xD0038 + 0x8000 * port
def ETHx_VLAN_PCP_TIME : Fld := ⟨29, 3, .rw⟩
def ETHx_VLAN_PCP_SAFE : Fld := ⟨26, 3, .rw⟩
def ETHx_VLAN_PCP_MGMT : Fld := ⟨23, 3, .rw⟩
def ETHx_VLAN_PCP_STRM : Fld := ⟨20, 3, .rw⟩
def ETHx_VLAN_RX_UNTAG : Fld := ⟨17, 1, .rw⟩
def ETHx_VLAN_TX_TAG : Fld := ⟨16, 1, .rw⟩
def ETHx_VLAN_VID : Fld := ⟨0, 12, .rw⟩
/-- ETHx_CBS (13_backbone_ports.md). -/
def ETHx_CBS (port : Nat) : Nat := 0xD003C + 0x8000 * port
def ETHx_CBS_EN : Fld := ⟨31, 1, .rw⟩
def ETHx_CBS_IDLE_SLOPE : Fld := ⟨0, 14, .rw⟩
/-- ETHx_UDP (13_backbone_ports.md). -/
def ETHx_UDP (port : Nat) : Nat := 0xD0040 + 0x8000 * port
def ETHx_UDP_STRM : Fld := ⟨16, 16, .rw⟩
def ETHx_UDP_MGMT : Fld := ⟨0, 16, .rw⟩
/-- ETHx_UDP_SAFE (13_backbone_ports.md). -/
def ETHx_UDP_SAFE (port : Nat) : Nat := 0xD0044 + 0x8000 * port
def ETHx_UDP_SAFE_SAFE : Fld := ⟨0, 16, .rw⟩
/-- ETHx_DST_ADDR (13_backbone_ports.md). -/
def ETHx_DST_ADDR (port : Nat) (d : Nat) (j : Nat) : Nat := 0xD0050 + 0x8000 * port + 0x20 * d + 0x4 * j
def ETHx_DST_ADDR_ADDR : Fld := ⟨0, 32, .rw⟩
/-- ETHx_DST_CFG (13_backbone_ports.md). -/
def ETHx_DST_CFG (port : Nat) (d : Nat) : Nat := 0xD0060 + 0x8000 * port + 0x20 * d
def ETHx_DST_CFG_EN : Fld := ⟨31, 1, .rw⟩
def ETHx_DST_CFG_V6 : Fld := ⟨30, 1, .rw⟩
def ETHx_DST_CFG_DPORT : Fld := ⟨0, 16, .rw⟩
/-- ETHx_LLDP_CFG (13_backbone_ports.md). -/
def ETHx_LLDP_CFG (port : Nat) : Nat := 0xD0090 + 0x8000 * port
def ETHx_LLDP_CFG_TTL : Fld := ⟨16, 16, .rw⟩
def ETHx_LLDP_CFG_TX_INT : Fld := ⟨0, 16, .rw⟩
/-- ETHx_NBR_STAT (13_backbone_ports.md). -/
def ETHx_NBR_STAT (port : Nat) (e : Nat) : Nat := 0xD0180 + 0x8000 * port + 0x20 * e
def ETHx_NBR_STAT_VALID : Fld := ⟨31, 1, .ro⟩
def ETHx_NBR_STAT_RD : Fld := ⟨30, 1, .ro⟩
def ETHx_NBR_STAT_TTL : Fld := ⟨0, 16, .ro⟩
/-- ETHx_NBR_DATA (13_backbone_ports.md). -/
def ETHx_NBR_DATA (port : Nat) (e : Nat) (j : Nat) : Nat := 0xD0184 + 0x8000 * port + 0x20 * e + 0x4 * j
def ETHx_NBR_DATA_DATA : Fld := ⟨0, 32, .ro⟩
/-- ETHx_CNT_RXOK (13_backbone_ports.md). -/
def ETHx_CNT_RXOK (port : Nat) : Nat := 0xD0100 + 0x8000 * port
def ETHx_CNT_RXOK_FRAMES : Fld := ⟨0, 32, .ro⟩
/-- ETHx_CNT_RXERR (13_backbone_ports.md). -/
def ETHx_CNT_RXERR (port : Nat) : Nat := 0xD0104 + 0x8000 * port
def ETHx_CNT_RXERR_FCS : Fld := ⟨16, 16, .ro⟩
def ETHx_CNT_RXERR_LONG : Fld := ⟨0, 16, .ro⟩
/-- ETHx_CNT_RXDROP (13_backbone_ports.md). -/
def ETHx_CNT_RXDROP (port : Nat) : Nat := 0xD0108 + 0x8000 * port
def ETHx_CNT_RXDROP_FILT : Fld := ⟨16, 16, .ro⟩
def ETHx_CNT_RXDROP_OVF : Fld := ⟨0, 16, .ro⟩
/-- ETHx_CNT_TXOK (13_backbone_ports.md). -/
def ETHx_CNT_TXOK (port : Nat) : Nat := 0xD010C + 0x8000 * port
def ETHx_CNT_TXOK_FRAMES : Fld := ⟨0, 32, .ro⟩
/-- ETHx_CNT_TXERR (13_backbone_ports.md). -/
def ETHx_CNT_TXERR (port : Nat) : Nat := 0xD0110 + 0x8000 * port
def ETHx_CNT_TXERR_NORES : Fld := ⟨16, 16, .ro⟩
def ETHx_CNT_TXERR_FLUSH : Fld := ⟨0, 16, .ro⟩
/-- ETHx_CNT_MISC (13_backbone_ports.md). -/
def ETHx_CNT_MISC (port : Nat) : Nat := 0xD0114 + 0x8000 * port
def ETHx_CNT_MISC_PAUSE : Fld := ⟨16, 16, .ro⟩
def ETHx_CNT_MISC_NBR_FULL : Fld := ⟨0, 16, .ro⟩
/-- ETHx_CNT_PRP (13_backbone_ports.md). -/
def ETHx_CNT_PRP (port : Nat) : Nat := 0xD0118 + 0x8000 * port
def ETHx_CNT_PRP_DUP : Fld := ⟨16, 16, .ro⟩
def ETHx_CNT_PRP_WRONG_LAN : Fld := ⟨0, 16, .ro⟩
/-- ETHx_CNT_CLR (13_backbone_ports.md). -/
def ETHx_CNT_CLR (port : Nat) : Nat := 0xD011C + 0x8000 * port
def ETHx_CNT_CLR_STRM : Fld := ⟨1, 1, .wo⟩
def ETHx_CNT_CLR_ALL : Fld := ⟨0, 1, .wo⟩
/-- ETHA_STRM_CFG (13_backbone_ports.md). -/
def ETHA_STRM_CFG : Nat := 0xD0400
def ETHA_STRM_CFG_STREAM_ID : Fld := ⟨16, 16, .rw⟩
def ETHA_STRM_CFG_HOLD : Fld := ⟨8, 8, .rw⟩
def ETHA_STRM_CFG_TB : Fld := ⟨0, 1, .rw⟩
/-- ETHA_STRM_SEQ (13_backbone_ports.md). -/
def ETHA_STRM_SEQ : Nat := 0xD0404
def ETHA_STRM_SEQ_SEQ : Fld := ⟨0, 32, .ro⟩
/-- ETHA_STRM_CNT (13_backbone_ports.md). -/
def ETHA_STRM_CNT : Nat := 0xD0408
def ETHA_STRM_CNT_DROP : Fld := ⟨0, 32, .ro⟩
/-- ETHA_STRM_FILL (13_backbone_ports.md). -/
def ETHA_STRM_FILL : Nat := 0xD040C
def ETHA_STRM_FILL_PEAK : Fld := ⟨16, 16, .ro⟩
def ETHA_STRM_FILL_FILL : Fld := ⟨0, 16, .ro⟩
/-- TIM_TBS_LO (14_time_bases.md). -/
def TIM_TBS_LO : Nat := 0xE0000
def TIM_TBS_LO_TBS_LO : Fld := ⟨0, 32, .rs⟩
/-- TIM_TBS_HI (14_time_bases.md). -/
def TIM_TBS_HI : Nat := 0xE0004
def TIM_TBS_HI_TBS_HI : Fld := ⟨0, 32, .rs⟩
/-- TIM_TBL_LO (14_time_bases.md). -/
def TIM_TBL_LO : Nat := 0xE0008
def TIM_TBL_LO_TBL_LO : Fld := ⟨0, 32, .rs⟩
/-- TIM_TBL_HI (14_time_bases.md). -/
def TIM_TBL_HI : Nat := 0xE000C
def TIM_TBL_HI_TBL_HI : Fld := ⟨0, 32, .rs⟩
/-- TIM_TBS_DISC (14_time_bases.md). -/
def TIM_TBS_DISC : Nat := 0xE0010
def TIM_TBS_DISC_HOLD : Fld := ⟨5, 1, .ro⟩
def TIM_TBS_DISC_LOCKED : Fld := ⟨4, 1, .ro⟩
def TIM_TBS_DISC_SRC : Fld := ⟨0, 2, .rw⟩
/-- TIM_TBS_FREQ (14_time_bases.md). -/
def TIM_TBS_FREQ : Nat := 0xE0014
def TIM_TBS_FREQ_FREQ : Fld := ⟨0, 32, .ro⟩
/-- TIM_STATUS (14_time_bases.md). -/
def TIM_STATUS : Nat := 0xE0018
def TIM_STATUS_LOST : Fld := ⟨16, 16, .ro⟩
def TIM_STATUS_LEVEL : Fld := ⟨8, 5, .ro⟩
def TIM_STATUS_CNT_CLR : Fld := ⟨4, 1, .wo⟩
def TIM_STATUS_EVOUT_PAST : Fld := ⟨3, 1, .w1c⟩
def TIM_STATUS_TBS_GAP : Fld := ⟨2, 1, .w1c⟩
def TIM_STATUS_CFG_REJ : Fld := ⟨1, 1, .w1c⟩
def TIM_STATUS_TXTS_OVF : Fld := ⟨0, 1, .w1c⟩
/-- TIM_XCHK (14_time_bases.md). -/
def TIM_XCHK : Nat := 0xE001C
def TIM_XCHK_FAIL : Fld := ⟨31, 1, .w1c⟩
def TIM_XCHK_EN : Fld := ⟨30, 1, .rw⟩
def TIM_XCHK_LIMIT : Fld := ⟨16, 14, .rw⟩
def TIM_XCHK_DIFF : Fld := ⟨0, 16, .ro⟩
/-- TIM_PPS (14_time_bases.md). -/
def TIM_PPS : Nat := 0xE0020
def TIM_PPS_EN : Fld := ⟨31, 1, .rw⟩
def TIM_PPS_TB : Fld := ⟨30, 1, .rw⟩
def TIM_PPS_WIDTH : Fld := ⟨0, 16, .rw⟩
/-- TIM_PORT_LAT (14_time_bases.md). -/
def TIM_PORT_LAT (p : Nat) : Nat := 0xE0024 + 0x4 * p
def TIM_PORT_LAT_TX : Fld := ⟨16, 16, .rw⟩
def TIM_PORT_LAT_RX : Fld := ⟨0, 16, .rw⟩
/-- TIM_LQ_CFG (14_time_bases.md). -/
def TIM_LQ_CFG (u : Nat) : Nat := 0xE0030 + 0x4 * u
def TIM_LQ_CFG_EN : Fld := ⟨31, 1, .ro⟩
def TIM_LQ_CFG_POLICY : Fld := ⟨30, 1, .ro⟩
def TIM_LQ_CFG_TS_EN : Fld := ⟨29, 1, .ro⟩
def TIM_LQ_CFG_TB : Fld := ⟨28, 1, .ro⟩
def TIM_LQ_CFG_DELAY : Fld := ⟨0, 27, .ro⟩
/-- TIM_LQ_CNT (14_time_bases.md). -/
def TIM_LQ_CNT (u : Nat) : Nat := 0xE0040 + 0x4 * u
def TIM_LQ_CNT_LATE_SENT : Fld := ⟨16, 16, .ro⟩
def TIM_LQ_CNT_LATE_DROP : Fld := ⟨0, 16, .ro⟩
/-- TIM_EVCAP_CFG (14_time_bases.md). -/
def TIM_EVCAP_CFG (k : Nat) : Nat := 0xE0080 + 0x10 * k
def TIM_EVCAP_CFG_EN : Fld := ⟨31, 1, .rw⟩
def TIM_EVCAP_CFG_SRC : Fld := ⟨0, 5, .rw⟩
/-- TIM_EVCAP_LO (14_time_bases.md). -/
def TIM_EVCAP_LO (k : Nat) : Nat := 0xE0084 + 0x10 * k
def TIM_EVCAP_LO_TIME_LO : Fld := ⟨0, 32, .rs⟩
/-- TIM_EVCAP_HI (14_time_bases.md). -/
def TIM_EVCAP_HI (k : Nat) : Nat := 0xE0088 + 0x10 * k
def TIM_EVCAP_HI_TIME_HI : Fld := ⟨0, 32, .rs⟩
/-- TIM_EVCAP_CNT (14_time_bases.md). -/
def TIM_EVCAP_CNT (k : Nat) : Nat := 0xE008C + 0x10 * k
def TIM_EVCAP_CNT_COUNT : Fld := ⟨0, 16, .ro⟩
/-- TIM_EVOUT_CFG (14_time_bases.md). -/
def TIM_EVOUT_CFG (k : Nat) : Nat := 0xE00C0 + 0x10 * k
def TIM_EVOUT_CFG_EN : Fld := ⟨31, 1, .rw⟩
def TIM_EVOUT_CFG_TB : Fld := ⟨30, 1, .rw⟩
def TIM_EVOUT_CFG_WIDTH : Fld := ⟨24, 6, .rw⟩
def TIM_EVOUT_CFG_PERIOD : Fld := ⟨0, 24, .rw⟩
/-- TIM_EVOUT_SEC (14_time_bases.md). -/
def TIM_EVOUT_SEC (k : Nat) : Nat := 0xE00C4 + 0x10 * k
def TIM_EVOUT_SEC_SEC : Fld := ⟨0, 32, .rw⟩
/-- TIM_EVOUT_NS (14_time_bases.md). -/
def TIM_EVOUT_NS (k : Nat) : Nat := 0xE00C8 + 0x10 * k
def TIM_EVOUT_NS_NS : Fld := ⟨0, 32, .rw⟩
/-- TIM_TBx_STATE (14_time_bases.md). -/
def TIM_TBx_STATE (x : Nat) : Nat := 0xE0100 + 0x40 * x
def TIM_TBx_STATE_DOMAIN : Fld := ⟨24, 8, .ro⟩
def TIM_TBx_STATE_ROLE : Fld := ⟨22, 2, .ro⟩
def TIM_TBx_STATE_DELAY : Fld := ⟨21, 1, .ro⟩
def TIM_TBx_STATE_PROFILE : Fld := ⟨20, 1, .ro⟩
def TIM_TBx_STATE_ASYM_SUSPECT : Fld := ⟨8, 1, .ro⟩
def TIM_TBx_STATE_HCAUSE : Fld := ⟨6, 2, .ro⟩
def TIM_TBx_STATE_RUNNING : Fld := ⟨3, 1, .ro⟩
def TIM_TBx_STATE_STATE : Fld := ⟨0, 3, .ro⟩
/-- TIM_TBx_SECL (14_time_bases.md). -/
def TIM_TBx_SECL (x : Nat) : Nat := 0xE0104 + 0x40 * x
def TIM_TBx_SECL_SEC_LO : Fld := ⟨0, 32, .rs⟩
/-- TIM_TBx_SECH (14_time_bases.md). -/
def TIM_TBx_SECH (x : Nat) : Nat := 0xE0108 + 0x40 * x
def TIM_TBx_SECH_SEC_HI : Fld := ⟨16, 16, .rs⟩
def TIM_TBx_SECH_SUBNS : Fld := ⟨0, 16, .rs⟩
/-- TIM_TBx_NS (14_time_bases.md). -/
def TIM_TBx_NS (x : Nat) : Nat := 0xE010C + 0x40 * x
def TIM_TBx_NS_NS : Fld := ⟨0, 32, .rs⟩
/-- TIM_TBx_RATE (14_time_bases.md). -/
def TIM_TBx_RATE (x : Nat) : Nat := 0xE0110 + 0x40 * x
def TIM_TBx_RATE_RATE : Fld := ⟨0, 32, .ro⟩
/-- TIM_TBx_OFS (14_time_bases.md). -/
def TIM_TBx_OFS (x : Nat) : Nat := 0xE0114 + 0x40 * x
def TIM_TBx_OFS_OFS : Fld := ⟨0, 32, .ro⟩
/-- TIM_TBx_MPD (14_time_bases.md). -/
def TIM_TBx_MPD (x : Nat) : Nat := 0xE0118 + 0x40 * x
def TIM_TBx_MPD_MPD : Fld := ⟨0, 32, .ro⟩
/-- TIM_TBx_MPD_REF (14_time_bases.md). -/
def TIM_TBx_MPD_REF (x : Nat) : Nat := 0xE011C + 0x40 * x
def TIM_TBx_MPD_REF_MPD_REF : Fld := ⟨0, 32, .ro⟩
/-- TIM_TBx_ASYM (14_time_bases.md). -/
def TIM_TBx_ASYM (x : Nat) : Nat := 0xE0120 + 0x40 * x
def TIM_TBx_ASYM_ASYM : Fld := ⟨0, 32, .ro⟩
/-- TIM_TBx_CNT (14_time_bases.md). -/
def TIM_TBx_CNT (x : Nat) : Nat := 0xE0124 + 0x40 * x
def TIM_TBx_CNT_HOLDOVERS : Fld := ⟨16, 16, .ro⟩
def TIM_TBx_CNT_STEPS : Fld := ⟨0, 16, .ro⟩
/-- WFL_CTRL (15_weft_links_and_cascade.md). -/
def WFL_CTRL (l : Nat) : Nat := 0xF0000 + 0x400 * l
def WFL_CTRL_EN : Fld := ⟨31, 1, .rw⟩
def WFL_CTRL_MODE : Fld := ⟨30, 1, .rw⟩
def WFL_CTRL_SWING : Fld := ⟨8, 2, .rw⟩
def WFL_CTRL_DEEMPH : Fld := ⟨4, 2, .rw⟩
/-- WFL_STATE (15_weft_links_and_cascade.md). -/
def WFL_STATE (l : Nat) : Nat := 0xF0004 + 0x400 * l
def WFL_STATE_RETRIES : Fld := ⟨16, 16, .ro⟩
def WFL_STATE_QCAUSE : Fld := ⟨4, 4, .ro⟩
def WFL_STATE_STATE : Fld := ⟨0, 4, .ro⟩
/-- WFL_STATUS (15_weft_links_and_cascade.md). -/
def WFL_STATUS (l : Nat) : Nat := 0xF0008 + 0x400 * l
def WFL_STATUS_CFG_REJ : Fld := ⟨3, 1, .w1c⟩
def WFL_STATUS_XOFF_LONG : Fld := ⟨2, 1, .w1c⟩
def WFL_STATUS_RX_XOFF : Fld := ⟨1, 1, .ro⟩
def WFL_STATUS_TX_XOFF : Fld := ⟨0, 1, .ro⟩
/-- WFL_PCAP (15_weft_links_and_cascade.md). -/
def WFL_PCAP (l : Nat) (j : Nat) : Nat := 0xF0010 + 0x400 * l + 0x4 * j
def WFL_PCAP_BYTES : Fld := ⟨0, 32, .ro⟩
/-- WFL_CNT_A (15_weft_links_and_cascade.md). -/
def WFL_CNT_A (l : Nat) : Nat := 0xF0030 + 0x400 * l
def WFL_CNT_A_CRC : Fld := ⟨16, 16, .ro⟩
def WFL_CNT_A_CTLBAD : Fld := ⟨0, 16, .ro⟩
/-- WFL_CNT_B (15_weft_links_and_cascade.md). -/
def WFL_CNT_B (l : Nat) : Nat := 0xF0034 + 0x400 * l
def WFL_CNT_B_HDR : Fld := ⟨16, 16, .ro⟩
def WFL_CNT_B_STUFF : Fld := ⟨0, 16, .ro⟩
/-- WFL_CNT_RX (15_weft_links_and_cascade.md). -/
def WFL_CNT_RX (l : Nat) : Nat := 0xF0038 + 0x400 * l
def WFL_CNT_RX_MSGS : Fld := ⟨0, 32, .ro⟩
/-- WFL_CNT_TX (15_weft_links_and_cascade.md). -/
def WFL_CNT_TX (l : Nat) : Nat := 0xF003C + 0x400 * l
def WFL_CNT_TX_MSGS : Fld := ⟨0, 32, .ro⟩
/-- WFL_TEST (15_weft_links_and_cascade.md). -/
def WFL_TEST (l : Nat) : Nat := 0xF0040 + 0x400 * l
def WFL_TEST_KIND : Fld := ⟨9, 3, .ro⟩
def WFL_TEST_RUN : Fld := ⟨8, 1, .ro⟩
def WFL_TEST_INJ : Fld := ⟨0, 4, .w1s⟩
/-- WFL_CNT_CLR (15_weft_links_and_cascade.md). -/
def WFL_CNT_CLR (l : Nat) : Nat := 0xF0044 + 0x400 * l
def WFL_CNT_CLR_ALL : Fld := ⟨0, 1, .wo⟩
/-- WFL_LANE_CFG (15_weft_links_and_cascade.md). -/
def WFL_LANE_CFG (l : Nat) (k : Nat) : Nat := 0xF0100 + 0x400 * l + 0x20 * k
def WFL_LANE_CFG_CTLE_MAN : Fld := ⟨4, 1, .rw⟩
def WFL_LANE_CFG_CTLE : Fld := ⟨0, 4, .rw⟩
/-- WFL_LANE_STAT (15_weft_links_and_cascade.md). -/
def WFL_LANE_STAT (l : Nat) (k : Nat) : Nat := 0xF0104 + 0x400 * l + 0x20 * k
def WFL_LANE_STAT_SKEW : Fld := ⟨24, 8, .ro⟩
def WFL_LANE_STAT_CTLE : Fld := ⟨16, 4, .ro⟩
def WFL_LANE_STAT_FROZEN : Fld := ⟨2, 1, .ro⟩
def WFL_LANE_STAT_BLOCK_LOCK : Fld := ⟨1, 1, .ro⟩
def WFL_LANE_STAT_PHASE_LOCK : Fld := ⟨0, 1, .ro⟩
/-- WFL_LANE_ERR (15_weft_links_and_cascade.md). -/
def WFL_LANE_ERR (l : Nat) (k : Nat) : Nat := 0xF0108 + 0x400 * l + 0x20 * k
def WFL_LANE_ERR_ERRORS : Fld := ⟨0, 32, .ro⟩
/-- WFL_LANE_BITS_LO (15_weft_links_and_cascade.md). -/
def WFL_LANE_BITS_LO (l : Nat) (k : Nat) : Nat := 0xF010C + 0x400 * l + 0x20 * k
def WFL_LANE_BITS_LO_BITS_LO : Fld := ⟨0, 32, .rs⟩
/-- WFL_LANE_BITS_HI (15_weft_links_and_cascade.md). -/
def WFL_LANE_BITS_HI (l : Nat) (k : Nat) : Nat := 0xF0110 + 0x400 * l + 0x20 * k
def WFL_LANE_BITS_HI_BITS_HI : Fld := ⟨0, 32, .rs⟩
/-- WFL_LANE_EYE (15_weft_links_and_cascade.md). -/
def WFL_LANE_EYE (l : Nat) (k : Nat) : Nat := 0xF0114 + 0x400 * l + 0x20 * k
def WFL_LANE_EYE_EH : Fld := ⟨16, 16, .ro⟩
def WFL_LANE_EYE_EW : Fld := ⟨0, 8, .ro⟩
/-- HNG_ID (15_weft_links_and_cascade.md). -/
def HNG_ID : Nat := 0xFC000
def HNG_ID_HOPS : Fld := ⟨8, 4, .ro⟩
def HNG_ID_INDEX : Fld := ⟨0, 3, .ro⟩
/-- HNG_CAS_CFG (15_weft_links_and_cascade.md). -/
def HNG_CAS_CFG : Nat := 0xFC004
def HNG_CAS_CFG_FWD_PTS : Fld := ⟨16, 1, .ro⟩
def HNG_CAS_CFG_MEMBERS : Fld := ⟨8, 8, .ro⟩
def HNG_CAS_CFG_TOPOLOGY : Fld := ⟨4, 2, .ro⟩
def HNG_CAS_CFG_ROLE : Fld := ⟨0, 2, .ro⟩
/-- HNG_EPOCH (15_weft_links_and_cascade.md). -/
def HNG_EPOCH : Nat := 0xFC008
def HNG_EPOCH_EPOCH : Fld := ⟨0, 32, .ro⟩
/-- HNG_CAS_STAT (15_weft_links_and_cascade.md). -/
def HNG_CAS_STAT : Nat := 0xFC00C
def HNG_CAS_STAT_REACH : Fld := ⟨24, 8, .ro⟩
def HNG_CAS_STAT_LAG : Fld := ⟨16, 8, .ro⟩
def HNG_CAS_STAT_WREJ : Fld := ⟨8, 8, .ro⟩
def HNG_CAS_STAT_READY : Fld := ⟨4, 1, .ro⟩
def HNG_CAS_STAT_HCAL_FAIL : Fld := ⟨3, 1, .ro⟩
def HNG_CAS_STAT_HCAL_DONE : Fld := ⟨2, 1, .ro⟩
def HNG_CAS_STAT_TIME_LOCK : Fld := ⟨1, 1, .ro⟩
def HNG_CAS_STAT_UP : Fld := ⟨0, 1, .ro⟩
/-- HNG_CAS_OFS_LO (15_weft_links_and_cascade.md). -/
def HNG_CAS_OFS_LO : Nat := 0xFC010
def HNG_CAS_OFS_LO_OFS_LO : Fld := ⟨0, 32, .rs⟩
/-- HNG_CAS_OFS_HI (15_weft_links_and_cascade.md). -/
def HNG_CAS_OFS_HI : Nat := 0xFC014
def HNG_CAS_OFS_HI_OFS_HI : Fld := ⟨0, 32, .rs⟩
/-- HNG_CAS_RATE (15_weft_links_and_cascade.md). -/
def HNG_CAS_RATE : Nat := 0xFC018
def HNG_CAS_RATE_RATE : Fld := ⟨0, 32, .ro⟩
/-- HNG_TABLE_ID (15_weft_links_and_cascade.md). -/
def HNG_TABLE_ID : Nat := 0xFC01C
def HNG_TABLE_ID_ID : Fld := ⟨0, 32, .ro⟩
/-- HNG_LAT (15_weft_links_and_cascade.md). -/
def HNG_LAT : Nat := 0xFC020
def HNG_LAT_LAT : Fld := ⟨0, 16, .rw⟩
/-- HNG_COMP (15_weft_links_and_cascade.md). -/
def HNG_COMP : Nat := 0xFC024
def HNG_COMP_TRIG_DLY : Fld := ⟨16, 16, .ro⟩
def HNG_COMP_SYNC_DLY : Fld := ⟨0, 16, .ro⟩
/-- HNG_CNT (15_weft_links_and_cascade.md). -/
def HNG_CNT : Nat := 0xFC028
def HNG_CNT_SKIP : Fld := ⟨16, 16, .ro⟩
def HNG_CNT_LATE : Fld := ⟨0, 16, .ro⟩
/-- HNG_CNT2 (15_weft_links_and_cascade.md). -/
def HNG_CNT2 : Nat := 0xFC02C
def HNG_CNT2_UNLOCKED : Fld := ⟨16, 16, .ro⟩
def HNG_CNT2_HCAL_FAILS : Fld := ⟨0, 16, .ro⟩
/-- HNG_CNT_CLR (15_weft_links_and_cascade.md). -/
def HNG_CNT_CLR : Nat := 0xFC030
def HNG_CNT_CLR_ALL : Fld := ⟨0, 1, .wo⟩
/-- HNG_TAP_CTRL (15_weft_links_and_cascade.md). -/
def HNG_TAP_CTRL : Nat := 0xFC040
def HNG_TAP_CTRL_EN : Fld := ⟨31, 1, .rw⟩
def HNG_TAP_CTRL_SHOTS : Fld := ⟨30, 1, .rw⟩
def HNG_TAP_CTRL_STAGE : Fld := ⟨29, 1, .rw⟩
def HNG_TAP_CTRL_CFG_REJ : Fld := ⟨5, 1, .w1c⟩
def HNG_TAP_CTRL_PREEMPT : Fld := ⟨4, 1, .w1c⟩
def HNG_TAP_CTRL_LINK : Fld := ⟨0, 2, .rw⟩
/-- HNG_TAP_MASK (15_weft_links_and_cascade.md). -/
def HNG_TAP_MASK (j : Nat) : Nat := 0xFC044 + 0x4 * j
def HNG_TAP_MASK_MASK : Fld := ⟨0, 32, .rw⟩
/-- HNG_TAP_SENT (15_weft_links_and_cascade.md). -/
def HNG_TAP_SENT : Nat := 0xFC084
def HNG_TAP_SENT_ITEMS : Fld := ⟨0, 32, .ro⟩
/-- HNG_TAP_LOST (15_weft_links_and_cascade.md). -/
def HNG_TAP_LOST : Nat := 0xFC088
def HNG_TAP_LOST_LOST : Fld := ⟨0, 32, .ro⟩
/-- DMA_CTRL (16_dma.md). -/
def DMA_CTRL : Nat := 0x100000
def DMA_CTRL_PIN_EN : Fld := ⟨31, 1, .rw⟩
def DMA_CTRL_PIN : Fld := ⟨0, 3, .rw⟩
/-- DMA_INT_STAT (16_dma.md). -/
def DMA_INT_STAT : Nat := 0x100004
def DMA_INT_STAT_FULL : Fld := ⟨16, 16, .w1c⟩
def DMA_INT_STAT_HALF : Fld := ⟨0, 16, .w1c⟩
/-- DMA_INT_EN (16_dma.md). -/
def DMA_INT_EN : Nat := 0x100008
def DMA_INT_EN_EN : Fld := ⟨0, 32, .rw⟩
/-- DMA_INT_OVR (16_dma.md). -/
def DMA_INT_OVR : Nat := 0x10000C
def DMA_INT_OVR_OVR : Fld := ⟨0, 16, .w1c⟩
/-- DMA_QMON_CFG (16_dma.md). -/
def DMA_QMON_CFG : Nat := 0x100020
def DMA_QMON_CFG_EN : Fld := ⟨31, 1, .rw⟩
def DMA_QMON_CFG_CONV : Fld := ⟨4, 4, .rw⟩
def DMA_QMON_CFG_KINDS : Fld := ⟨0, 4, .rw⟩
/-- DMA_QMON_STAT (16_dma.md). -/
def DMA_QMON_STAT : Nat := 0x100024
def DMA_QMON_STAT_DROP : Fld := ⟨16, 16, .ro⟩
def DMA_QMON_STAT_FILL : Fld := ⟨0, 11, .ro⟩
/-- DMA_QFILT_CFG (16_dma.md). -/
def DMA_QFILT_CFG : Nat := 0x100028
def DMA_QFILT_CFG_EN : Fld := ⟨31, 1, .rw⟩
def DMA_QFILT_CFG_CHAINS : Fld := ⟨0, 8, .rw⟩
/-- DMA_QFILT_STAT (16_dma.md). -/
def DMA_QFILT_STAT : Nat := 0x10002C
def DMA_QFILT_STAT_DROP : Fld := ⟨16, 16, .ro⟩
def DMA_QFILT_STAT_FILL : Fld := ⟨0, 10, .ro⟩
/-- DMA_Q_CTRL (16_dma.md). -/
def DMA_Q_CTRL : Nat := 0x100030
def DMA_Q_CTRL_CNT_CLR : Fld := ⟨2, 1, .wo⟩
def DMA_Q_CTRL_FLUSH_QFILT : Fld := ⟨1, 1, .wo⟩
def DMA_Q_CTRL_FLUSH_MON : Fld := ⟨0, 1, .wo⟩
/-- DMA_CH_CTRL (16_dma.md). -/
def DMA_CH_CTRL (c : Nat) : Nat := 0x100100 + 0x40 * c
def DMA_CH_CTRL_EN : Fld := ⟨31, 1, .rw⟩
def DMA_CH_CTRL_REQ : Fld := ⟨30, 1, .ro⟩
def DMA_CH_CTRL_WR_IGNORED : Fld := ⟨8, 1, .w1c⟩
def DMA_CH_CTRL_STATUS : Fld := ⟨0, 4, .ro⟩
/-- DMA_CH_CFG (16_dma.md). -/
def DMA_CH_CFG (c : Nat) : Nat := 0x100104 + 0x40 * c
def DMA_CH_CFG_CIRC : Fld := ⟨31, 1, .rw⟩
def DMA_CH_CFG_PRIO : Fld := ⟨30, 1, .rw⟩
def DMA_CH_CFG_BLOG : Fld := ⟨24, 3, .rw⟩
def DMA_CH_CFG_DWIDTH : Fld := ⟨20, 3, .rw⟩
def DMA_CH_CFG_SWIDTH : Fld := ⟨16, 3, .rw⟩
def DMA_CH_CFG_REQ : Fld := ⟨4, 4, .rw⟩
/-- DMA_CH_ADDR (16_dma.md). -/
def DMA_CH_ADDR (c : Nat) (j : Nat) : Nat := 0x100108 + 0x40 * c + 0xC * j
def DMA_CH_ADDR_ADDR : Fld := ⟨0, 32, .rw⟩
/-- DMA_CH_LINE (16_dma.md). -/
def DMA_CH_LINE (c : Nat) (j : Nat) : Nat := 0x10010C + 0x40 * c + 0xC * j
def DMA_CH_LINE_LINES : Fld := ⟨16, 16, .rw⟩
def DMA_CH_LINE_LEN : Fld := ⟨0, 16, .rw⟩
/-- DMA_CH_STRIDE (16_dma.md). -/
def DMA_CH_STRIDE (c : Nat) (j : Nat) : Nat := 0x100110 + 0x40 * c + 0xC * j
def DMA_CH_STRIDE_STRIDE : Fld := ⟨0, 32, .rw⟩
/-- DMA_CH_PACE (16_dma.md). -/
def DMA_CH_PACE (c : Nat) : Nat := 0x100120 + 0x40 * c
def DMA_CH_PACE_PERIOD : Fld := ⟨0, 24, .rw⟩
/-- DMA_CH_WM (16_dma.md). -/
def DMA_CH_WM (c : Nat) : Nat := 0x100124 + 0x40 * c
def DMA_CH_WM_HIGH : Fld := ⟨16, 11, .rw⟩
def DMA_CH_WM_LOW : Fld := ⟨0, 11, .rw⟩
/-- DMA_CH_REMAIN (16_dma.md). -/
def DMA_CH_REMAIN (c : Nat) : Nat := 0x100128 + 0x40 * c
def DMA_CH_REMAIN_BYTES : Fld := ⟨0, 32, .ro⟩
/-- DMA_CH_CUR (16_dma.md). -/
def DMA_CH_CUR (c : Nat) (j : Nat) : Nat := 0x10012C + 0x40 * c + 0x4 * j
def DMA_CH_CUR_ADDR : Fld := ⟨0, 32, .ro⟩
/-- DMA_CH_ERR_ADDR (16_dma.md). -/
def DMA_CH_ERR_ADDR (c : Nat) : Nat := 0x100134 + 0x40 * c
def DMA_CH_ERR_ADDR_ADDR : Fld := ⟨0, 32, .ro⟩
/-- DMA_CH_CNT (16_dma.md). -/
def DMA_CH_CNT (c : Nat) : Nat := 0x100138 + 0x40 * c
def DMA_CH_CNT_MISS : Fld := ⟨16, 16, .ro⟩
def DMA_CH_CNT_LAPS : Fld := ⟨0, 16, .ro⟩
/-- CAL_POLICY (17_calibration_and_thermal.md). -/
def CAL_POLICY : Nat := 0x110000
def CAL_POLICY_CNT_CLR : Fld := ⟨31, 1, .wo⟩
def CAL_POLICY_SPACING : Fld := ⟨8, 8, .rw⟩
def CAL_POLICY_STEAL : Fld := ⟨0, 1, .rw⟩
/-- CAL_DARK_LIMIT (17_calibration_and_thermal.md). -/
def CAL_DARK_LIMIT : Nat := 0x110004
def CAL_DARK_LIMIT_LIMIT : Fld := ⟨0, 16, .rw⟩
/-- CAL_CFG (17_calibration_and_thermal.md). -/
def CAL_CFG : Nat := 0x110008
def CAL_CFG_NOISE_RATE : Fld := ⟨16, 16, .rw⟩
def CAL_CFG_LO_MARGIN : Fld := ⟨0, 8, .rw⟩
/-- CAL_GAIN_CFG (17_calibration_and_thermal.md). -/
def CAL_GAIN_CFG : Nat := 0x11000C
def CAL_GAIN_CFG_TARGET : Fld := ⟨0, 12, .rw⟩
/-- CAL_GAIN_BAND (17_calibration_and_thermal.md). -/
def CAL_GAIN_BAND : Nat := 0x110010
def CAL_GAIN_BAND_NEAR : Fld := ⟨16, 16, .rw⟩
def CAL_GAIN_BAND_FAR : Fld := ⟨0, 16, .rw⟩
/-- CAL_STATE (17_calibration_and_thermal.md). -/
def CAL_STATE : Nat := 0x110014
def CAL_STATE_RUN : Fld := ⟨31, 1, .ro⟩
def CAL_STATE_PHASE : Fld := ⟨28, 3, .ro⟩
def CAL_STATE_PROC : Fld := ⟨24, 4, .ro⟩
def CAL_STATE_LAST : Fld := ⟨20, 4, .ro⟩
def CAL_STATE_CFG_REJ : Fld := ⟨17, 1, .w1c⟩
def CAL_STATE_WR_IGNORED : Fld := ⟨16, 1, .w1c⟩
def CAL_STATE_STEPS : Fld := ⟨0, 16, .ro⟩
/-- CAL_STALE (17_calibration_and_thermal.md). -/
def CAL_STALE : Nat := 0x110018
def CAL_STALE_ACCEPTED : Fld := ⟨16, 8, .ro⟩
def CAL_STALE_STALE : Fld := ⟨0, 8, .ro⟩
/-- CAL_DONE (17_calibration_and_thermal.md). -/
def CAL_DONE : Nat := 0x11001C
def CAL_DONE_DONE : Fld := ⟨0, 16, .ro⟩
/-- CAL_RES0 (17_calibration_and_thermal.md). -/
def CAL_RES0 : Nat := 0x110020
def CAL_RES0_DETAIL : Fld := ⟨16, 16, .ro⟩
def CAL_RES0_STATUS : Fld := ⟨0, 16, .ro⟩
/-- CAL_RES1 (17_calibration_and_thermal.md). -/
def CAL_RES1 : Nat := 0x110024
def CAL_RES1_Q0 : Fld := ⟨0, 32, .ro⟩
/-- CAL_RES2 (17_calibration_and_thermal.md). -/
def CAL_RES2 : Nat := 0x110028
def CAL_RES2_Q1 : Fld := ⟨0, 32, .ro⟩
/-- CAL_CNT (17_calibration_and_thermal.md). -/
def CAL_CNT : Nat := 0x11002C
def CAL_CNT_ABORTS : Fld := ⟨16, 16, .ro⟩
def CAL_CNT_STOLEN : Fld := ⟨0, 16, .ro⟩
/-- THM_TS (17_calibration_and_thermal.md). -/
def THM_TS (i : Nat) : Nat := 0x118000 + 0x4 * i
def THM_TS_VALID : Fld := ⟨31, 1, .ro⟩
def THM_TS_TEMP : Fld := ⟨0, 16, .ro⟩
/-- THM_TJ (17_calibration_and_thermal.md). -/
def THM_TJ : Nat := 0x118030
def THM_TJ_SENSOR : Fld := ⟨16, 4, .ro⟩
def THM_TJ_TJ : Fld := ⟨0, 16, .ro⟩
/-- THM_LIM0 (17_calibration_and_thermal.md). -/
def THM_LIM0 : Nat := 0x118034
def THM_LIM0_THROTTLE : Fld := ⟨16, 16, .ro⟩
def THM_LIM0_WARN : Fld := ⟨0, 16, .ro⟩
/-- THM_LIM1 (17_calibration_and_thermal.md). -/
def THM_LIM1 : Nat := 0x118038
def THM_LIM1_SHUTDOWN : Fld := ⟨0, 16, .ro⟩
/-- THM_STATE (17_calibration_and_thermal.md). -/
def THM_STATE : Nat := 0x11803C
def THM_STATE_HISTORY : Fld := ⟨31, 1, .ro⟩
def THM_STATE_WARN : Fld := ⟨30, 1, .ro⟩
def THM_STATE_ABOVE : Fld := ⟨29, 1, .ro⟩
def THM_STATE_AON_FAIL : Fld := ⟨28, 1, .ro⟩
def THM_STATE_CNT_CLR : Fld := ⟨16, 1, .wo⟩
def THM_STATE_THR : Fld := ⟨0, 4, .ro⟩
/-- THM_CNT (17_calibration_and_thermal.md). -/
def THM_CNT : Nat := 0x118040
def THM_CNT_STEPS : Fld := ⟨16, 16, .ro⟩
def THM_CNT_WARNS : Fld := ⟨0, 16, .ro⟩
/-- THM_NVLOG (17_calibration_and_thermal.md). -/
def THM_NVLOG : Nat := 0x118044
def THM_NVLOG_SUPPR : Fld := ⟨16, 16, .ro⟩
def THM_NVLOG_QUEUED : Fld := ⟨8, 8, .ro⟩
def THM_NVLOG_HELD : Fld := ⟨0, 8, .ro⟩
/-- THM_NVLOG_SEQ (17_calibration_and_thermal.md). -/
def THM_NVLOG_SEQ : Nat := 0x118048
def THM_NVLOG_SEQ_SEQ : Fld := ⟨0, 32, .ro⟩
/-- THM_NVLOG_ACK (17_calibration_and_thermal.md). -/
def THM_NVLOG_ACK : Nat := 0x11804C
def THM_NVLOG_ACK_REF : Fld := ⟨0, 32, .ro⟩
/-- PMU_STAT (18_power_clocks_boot.md). -/
def PMU_STAT : Nat := 0x20000
def PMU_STAT_AUX_OC : Fld := ⟨8, 1, .w1c⟩
def PMU_STAT_AUX_PG : Fld := ⟨7, 1, .ro⟩
def PMU_STAT_VIO_PG : Fld := ⟨6, 1, .ro⟩
def PMU_STAT_VSER_PG : Fld := ⟨5, 1, .ro⟩
def PMU_STAT_VANA_PG : Fld := ⟨4, 1, .ro⟩
def PMU_STAT_VCORE_PG : Fld := ⟨3, 1, .ro⟩
def PMU_STAT_OV : Fld := ⟨1, 1, .ro⟩
def PMU_STAT_VIN_OK : Fld := ⟨0, 1, .ro⟩
/-- PMU_PD_STAT (18_power_clocks_boot.md). -/
def PMU_PD_STAT : Nat := 0x20004
def PMU_PD_STAT_ON : Fld := ⟨0, 20, .ro⟩
/-- PMU_PD_FUSE (18_power_clocks_boot.md). -/
def PMU_PD_FUSE : Nat := 0x20008
def PMU_PD_FUSE_OFF : Fld := ⟨0, 20, .ro⟩
/-- PMU_BOOT (18_power_clocks_boot.md). -/
def PMU_BOOT : Nat := 0x2000C
def PMU_BOOT_RST_CAUSE : Fld := ⟨4, 4, .ro⟩
def PMU_BOOT_NEXT : Fld := ⟨0, 1, .rw⟩
/-- PMU_BOOTS (18_power_clocks_boot.md). -/
def PMU_BOOTS : Nat := 0x20010
def PMU_BOOTS_BOOTS : Fld := ⟨0, 32, .ro⟩
/-- PMU_FUSE (18_power_clocks_boot.md). -/
def PMU_FUSE : Nat := 0x20014
def PMU_FUSE_MISMATCH : Fld := ⟨4, 1, .w1c⟩
def PMU_FUSE_CEIL_SET : Fld := ⟨3, 1, .ro⟩
def PMU_FUSE_HASH_SET : Fld := ⟨2, 1, .ro⟩
def PMU_FUSE_SIG_REQ : Fld := ⟨1, 1, .ro⟩
def PMU_FUSE_CRC_OK : Fld := ⟨0, 1, .ro⟩
/-- CLK_STAT (18_power_clocks_boot.md). -/
def CLK_STAT : Nat := 0x20100
def CLK_STAT_REF_OK : Fld := ⟨6, 1, .ro⟩
def CLK_STAT_C_LOCK : Fld := ⟨5, 1, .ro⟩
def CLK_STAT_H_LOCK : Fld := ⟨4, 1, .ro⟩
def CLK_STAT_T_LOCK : Fld := ⟨3, 1, .ro⟩
def CLK_STAT_C_LOST : Fld := ⟨2, 1, .w1c⟩
def CLK_STAT_H_LOST : Fld := ⟨1, 1, .w1c⟩
def CLK_STAT_T_LOST : Fld := ⟨0, 1, .w1c⟩
/-- CLK_CNT (18_power_clocks_boot.md). -/
def CLK_CNT : Nat := 0x20104
def CLK_CNT_T_LOSS : Fld := ⟨16, 16, .ro⟩
def CLK_CNT_C_LOSS : Fld := ⟨0, 16, .ro⟩

end Reg

open Reg

/-- Cards of the GLB block. -/
def cardsGLB : List Card := [
  ⟨"GLB_STATE", 0x10, [], 0x10001, 0x0, [GLB_STATE_TRANS_COUNT, GLB_STATE_CAUSE, GLB_STATE_PREV, GLB_STATE_STATE]⟩,
  ⟨"GLB_SNAP", 0x14, [], 0x0, 0x0, [GLB_SNAP_PAIR_MISS, GLB_SNAP_TORN]⟩,
  ⟨"GLB_ID", 0x0, [], 0x0, 0x0, [GLB_ID_REVISION, GLB_ID_BL_MAX, GLB_ID_VARIANT, GLB_ID_INDEX]⟩,
  ⟨"GLB_SERIAL", 0x4, [(0x4, 2)], 0x0, 0x0, [GLB_SERIAL_SERIAL]⟩,
  ⟨"GLB_BEHAVIOUR", 0xC, [], 0x0, 0x0, [GLB_BEHAVIOUR_MAX, GLB_BEHAVIOUR_REQ, GLB_BEHAVIOUR_LEVEL]⟩,
  ⟨"GLB_BOOT", 0x18, [], 0x1000000, 0x0, [GLB_BOOT_STAGE, GLB_BOOT_ERR_A, GLB_BOOT_ERR_B, GLB_BOOT_FALLBACK, GLB_BOOT_SLOT, GLB_BOOT_FUSE_PROG, GLB_BOOT_FUSE_SKIP, GLB_BOOT_INIT_REJ]⟩,
  ⟨"GLB_FWVER", 0x1C, [], 0x0, 0x0, [GLB_FWVER_FW_VERSION]⟩]

/-- Cards of the CMD block. -/
def cardsCMD : List Card := [
  ⟨"CMD_HSPI_STATUS", 0x10000, [], 0x0, 0x0, [CMD_HSPI_STATUS_RXFREE, CMD_HSPI_STATUS_NOTICE_AVAIL, CMD_HSPI_STATUS_ALERT_AVAIL, CMD_HSPI_STATUS_REPLY_AVAIL, CMD_HSPI_STATUS_WR_ERR, CMD_HSPI_STATUS_OVR, CMD_HSPI_STATUS_FRAME_ERR]⟩,
  ⟨"CMD_AUTH_CTRL", 0x10010, [], 0x0, 0x0, [CMD_AUTH_CTRL_SESSION_UDP, CMD_AUTH_CTRL_SESSION_HSPI, CMD_AUTH_CTRL_REQ_UDP, CMD_AUTH_CTRL_REQ_HSPI]⟩,
  ⟨"CMD_EVT_STATUS", 0x10020, [], 0x0, 0x0, [CMD_EVT_STATUS_NOTICE_LEVEL, CMD_EVT_STATUS_ALERT_LEVEL, CMD_EVT_STATUS_NOTICE_OVF, CMD_EVT_STATUS_ALERT_OVF]⟩,
  ⟨"CMD_EVT_SEQ", 0x10024, [], 0x0, 0x0, [CMD_EVT_SEQ_LOST, CMD_EVT_SEQ_NEXT_SEQ]⟩,
  ⟨"CMD_EVT_MASK", 0x10028, [], 0x6, 0x0, [CMD_EVT_MASK_ENABLE]⟩,
  ⟨"CMD_ERR_COUNT", 0x1002C, [], 0x0, 0x0, [CMD_ERR_COUNT_BAD_MAGIC, CMD_ERR_COUNT_AUTH_FAIL, CMD_ERR_COUNT_QUEUE_FULL, CMD_ERR_COUNT_HSPI_OVR]⟩]

/-- Cards of the RFE block. -/
def cardsRFE : List Card := [
  ⟨"RFE_CFG", 0x30000, [(0x40, 512)], 0x180, 0x0, [RFE_CFG_TPI_AMP, RFE_CFG_TPI_EN, RFE_CFG_HI_EN, RFE_CFG_GAIN, RFE_CFG_POL, RFE_CFG_MODE]⟩,
  ⟨"RFE_THR", 0x30004, [(0x40, 512)], 0x640028, 0x0, [RFE_THR_HI, RFE_THR_LO]⟩,
  ⟨"RFE_TRIM", 0x30008, [(0x40, 512)], 0x0, 0x0, [RFE_TRIM_CMP_HI, RFE_TRIM_CMP_LO, RFE_TRIM_BASE]⟩,
  ⟨"RFE_SKEW", 0x3000C, [(0x40, 512)], 0x0, 0x0, [RFE_SKEW_SKEW]⟩,
  ⟨"RFE_STAT", 0x30010, [(0x40, 512)], 0x0, 0x0, [RFE_STAT_FIFO_LEVEL, RFE_STAT_FIFO_PEAK, RFE_STAT_MODE_MISMATCH, RFE_STAT_RGND_FAULT, RFE_STAT_RGND_SEEN, RFE_STAT_OVLD]⟩,
  ⟨"RFE_CNT_EVT", 0x30014, [(0x40, 512)], 0x0, 0x0, [RFE_CNT_EVT_EVENTS]⟩,
  ⟨"RFE_CNT_LOSS", 0x30018, [(0x40, 512)], 0x0, 0x0, [RFE_CNT_LOSS_DROP, RFE_CNT_LOSS_DEAD]⟩,
  ⟨"RFE_CNT_HIREJ", 0x3001C, [(0x40, 512)], 0x0, 0x0, [RFE_CNT_HIREJ_HIREJ]⟩,
  ⟨"RFE_LAST_LO", 0x30020, [(0x40, 512)], 0x0, 0x0, [RFE_LAST_LO_EVENT_LO]⟩,
  ⟨"RFE_LAST_HI", 0x30024, [(0x40, 512)], 0x0, 0x0, [RFE_LAST_HI_EVENT_HI]⟩]

/-- Cards of the TDC block. -/
def cardsTDC : List Card := [
  ⟨"TDC_CTRL", 0x38000, [], 0x607, 0x0, [TDC_CTRL_WALK_SHIFT, TDC_CTRL_CD_EN, TDC_CTRL_WALK_EN, TDC_CTRL_SKEW_EN]⟩,
  ⟨"TDC_STATUS", 0x38004, [], 0x0, 0x0, [TDC_STATUS_WR_IGNORED, TDC_STATUS_DLL_UNLOCK, TDC_STATUS_DLL_LOCK]⟩,
  ⟨"TDC_CNT_CLR", 0x38008, [], 0x0, 0x0, [TDC_CNT_CLR_FREF, TDC_CNT_CLR_QUARTER]⟩,
  ⟨"TDC_SEG_MAP", 0x38010, [], 0x0, 0x0, [TDC_SEG_MAP_MAP]⟩,
  ⟨"TDC_RANGE_OFS", 0x38014, [], 0x0, 0x0, [TDC_RANGE_OFS_OFS]⟩,
  ⟨"TDC_TPI_CTRL", 0x38020, [], 0x2000, 0x0, [TDC_TPI_CTRL_PERIOD, TDC_TPI_CTRL_WIDTH, TDC_TPI_CTRL_GO, TDC_TPI_CTRL_SRC, TDC_TPI_CTRL_EN]⟩,
  ⟨"TDC_TPI_TIME", 0x38024, [], 0x0, 0x0, [TDC_TPI_TIME_DELAY]⟩,
  ⟨"TDC_TPI_COUNT", 0x38028, [], 0x0, 0x0, [TDC_TPI_COUNT_COUNT]⟩,
  ⟨"TDC_FREF_CFG", 0x38100, [(0x20, 4)], 0x280080, 0x0, [TDC_FREF_CFG_THR, TDC_FREF_CFG_GAIN, TDC_FREF_CFG_POL, TDC_FREF_CFG_MODE]⟩,
  ⟨"TDC_FREF_DLY", 0x38104, [(0x20, 4)], 0x0, 0x0, [TDC_FREF_DLY_NOMINAL, TDC_FREF_DLY_PATH]⟩,
  ⟨"TDC_FREF_WIN", 0x38108, [(0x20, 4)], 0x80050, 0x0, [TDC_FREF_WIN_START, TDC_FREF_WIN_LENGTH]⟩,
  ⟨"TDC_FREF_AVG", 0x3810C, [(0x20, 4)], 0x0, 0x0, [TDC_FREF_AVG_AVG]⟩,
  ⟨"TDC_FREF_STAT", 0x38110, [(0x20, 4)], 0x0, 0x0, [TDC_FREF_STAT_LAST_TOT, TDC_FREF_STAT_LOST, TDC_FREF_STAT_MISS]⟩,
  ⟨"TDC_FREF_LAST_LO", 0x38114, [(0x20, 4)], 0x0, 0x0, [TDC_FREF_LAST_LO_TIME_LO]⟩,
  ⟨"TDC_FREF_LAST_HI", 0x38118, [(0x20, 4)], 0x0, 0x0, [TDC_FREF_LAST_HI_TIME_HI]⟩,
  ⟨"TDC_CD", 0x3C000, [(0x40, 128), (0x4, 16)], 0xE0A0602, 0x10101010, [TDC_CD_F3, TDC_CD_F2, TDC_CD_F1, TDC_CD_F0]⟩,
  ⟨"TDC_WALK", 0x3E000, [(0x40, 128), (0x4, 16)], 0x0, 0x0, [TDC_WALK_W1, TDC_WALK_W0]⟩,
  ⟨"TDC_FREF_CD", 0x38200, [(0x4, 16)], 0xE0A0602, 0x10101010, [TDC_FREF_CD_F3, TDC_FREF_CD_F2, TDC_FREF_CD_F1, TDC_FREF_CD_F0]⟩,
  ⟨"TDC_FREF_WALK", 0x38240, [(0x4, 16)], 0x0, 0x0, [TDC_FREF_WALK_W1, TDC_FREF_WALK_W0]⟩]

/-- Cards of the TMB block. -/
def cardsTMB : List Card := [
  ⟨"TMB_CTRL", 0x40000, [], 0x801, 0x0, [TMB_CTRL_FREE_PERIOD, TMB_CTRL_FREE_RUN]⟩,
  ⟨"TMB_AMB_CTRL", 0x40004, [], 0x1901041, 0x0, [TMB_AMB_CTRL_HYST, TMB_AMB_CTRL_DG_LEN, TMB_AMB_CTRL_ALPHA_DOWN, TMB_AMB_CTRL_ALPHA_UP]⟩,
  ⟨"TMB_BLIND", 0x40008, [], 0xFFFF, 0x0, [TMB_BLIND_LEVEL]⟩,
  ⟨"TMB_CNT_CLR", 0x4000C, [], 0x0, 0x0, [TMB_CNT_CLR_QUARTER]⟩,
  ⟨"TMB_STEP", 0x40010, [], 0x0, 0x0, [TMB_STEP_KADD, TMB_STEP_OFS, TMB_STEP_UP]⟩,
  ⟨"TMB_STEP", 0x40014, [], 0x401F4, 0x0, [TMB_STEP_KADD, TMB_STEP_OFS, TMB_STEP_UP]⟩,
  ⟨"TMB_STEP", 0x40018, [], 0x805DC, 0x0, [TMB_STEP_KADD, TMB_STEP_OFS, TMB_STEP_UP]⟩,
  ⟨"TMB_STEP", 0x4001C, [], 0x100C0BB8, 0x0, [TMB_STEP_KADD, TMB_STEP_OFS, TMB_STEP_UP]⟩,
  ⟨"TMB_STEP", 0x40020, [], 0x10101388, 0x0, [TMB_STEP_KADD, TMB_STEP_OFS, TMB_STEP_UP]⟩,
  ⟨"TMB_STEP", 0x40024, [], 0x10181B58, 0x0, [TMB_STEP_KADD, TMB_STEP_OFS, TMB_STEP_UP]⟩,
  ⟨"TMB_STEP", 0x40028, [], 0x20202EE0, 0x0, [TMB_STEP_KADD, TMB_STEP_OFS, TMB_STEP_UP]⟩,
  ⟨"TMB_STEP", 0x4002C, [], 0x20284E20, 0x0, [TMB_STEP_KADD, TMB_STEP_OFS, TMB_STEP_UP]⟩,
  ⟨"TMB_GRP_CFG", 0x40400, [(0x10, 128)], 0x480, 0x0, [TMB_GRP_CFG_TOT_MIN, TMB_GRP_CFG_TSEL, TMB_GRP_CFG_WIN, TMB_GRP_CFG_TRACK_EN, TMB_GRP_CFG_BYPASS, TMB_GRP_CFG_WIDTH, TMB_GRP_CFG_KMAX_M1, TMB_GRP_CFG_KMIN_M1]⟩,
  ⟨"TMB_GRP_BOUND", 0x40404, [(0x10, 128)], 0x3FF, 0x0, [TMB_GRP_BOUND_OFS_MAX]⟩,
  ⟨"TMB_GRP_STAT", 0x40408, [(0x10, 128)], 0x0, 0x0, [TMB_GRP_STAT_BLIND3, TMB_GRP_STAT_LAT3, TMB_GRP_STAT_BLIND2, TMB_GRP_STAT_LAT2, TMB_GRP_STAT_BLIND1, TMB_GRP_STAT_LAT1, TMB_GRP_STAT_BLIND0, TMB_GRP_STAT_LAT0, TMB_GRP_STAT_LIVE3, TMB_GRP_STAT_LIVE2, TMB_GRP_STAT_LIVE1, TMB_GRP_STAT_LIVE0]⟩,
  ⟨"TMB_GRP_ORDER", 0x4040C, [(0x10, 128)], 0x0, 0x0, [TMB_GRP_ORDER_ORDER]⟩,
  ⟨"TMB_AMB", 0x41000, [(0x10, 512)], 0x0, 0x0, [TMB_AMB_EST]⟩,
  ⟨"TMB_CNT_ACC", 0x41004, [(0x10, 512)], 0x0, 0x0, [TMB_CNT_ACC_ACCEPTED]⟩,
  ⟨"TMB_CNT_REJ", 0x41008, [(0x10, 512)], 0x0, 0x0, [TMB_CNT_REJ_REJECTED]⟩,
  ⟨"TMB_CNT_TOTREJ", 0x4100C, [(0x10, 512)], 0x0, 0x0, [TMB_CNT_TOTREJ_TOTREJ]⟩]

/-- Cards of the FIR block, part 0. -/
def cardsFIR0 : List Card := [
  ⟨"FIR_SEQ", 0x50000, [], 0x1001400, 0x0, [FIR_SEQ_LAG_MAX, FIR_SEQ_GAP_MIN, FIR_SEQ_FSRC, FIR_SEQ_CMODE]⟩,
  ⟨"FIR_FLIGHT", 0x50004, [], 0x0, 0x0, [FIR_FLIGHT_K_M1]⟩,
  ⟨"FIR_FRAME_PER", 0x50008, [], 0x2FAF080, 0x0, [FIR_FRAME_PER_PERIOD]⟩,
  ⟨"FIR_WARP_CTRL", 0x5000C, [], 0x0, 0x0, [FIR_WARP_CTRL_COLUMNS]⟩,
  ⟨"FIR_WARP_ACT", 0x50010, [], 0x0, 0x0, [FIR_WARP_ACT_COMMITS, FIR_WARP_ACT_PEND, FIR_WARP_ACT_COLUMNS]⟩,
  ⟨"FIR_COMMIT_STAT", 0x50014, [], 0x0, 0x0, [FIR_COMMIT_STAT_REASON, FIR_COMMIT_STAT_ENTRY]⟩,
  ⟨"FIR_KEY_LO", 0x50018, [], 0x0, 0x0, [FIR_KEY_LO_KEY_LO]⟩,
  ⟨"FIR_KEY_HI", 0x5001C, [], 0x0, 0x0, [FIR_KEY_HI_KEY_HI]⟩,
  ⟨"FIR_KEY_STAT", 0x50020, [], 0x0, 0x0, [FIR_KEY_STAT_PEND, FIR_KEY_STAT_SRC]⟩,
  ⟨"FIR_FRAME", 0x50024, [], 0xFFFFFFFF, 0x0, [FIR_FRAME_FRAME]⟩,
  ⟨"FIR_COL", 0x50028, [], 0x0, 0x0, [FIR_COL_COLUMN, FIR_COL_SHOTS_DONE, FIR_COL_PHASE]⟩,
  ⟨"FIR_FSTART_LO", 0x50030, [], 0x0, 0x0, [FIR_FSTART_LO_TBS_LO]⟩,
  ⟨"FIR_FSTART_HI", 0x50034, [], 0x0, 0x0, [FIR_FSTART_HI_TBS_HI]⟩,
  ⟨"FIR_SCHED", 0x50038, [], 0x0, 0x0, [FIR_SCHED_TB, FIR_SCHED_ARMED]⟩,
  ⟨"FIR_LAST_FOLD", 0x5003C, [], 0x0, 0x0, [FIR_LAST_FOLD_FOLD]⟩,
  ⟨"FIR_AZ", 0x50040, [], 0x0, 0x0, [FIR_AZ_AZIMUTH]⟩,
  ⟨"FIR_CNT_A", 0x50044, [], 0x0, 0x0, [FIR_CNT_A_SPACE, FIR_CNT_A_SHOTCUT]⟩,
  ⟨"FIR_CNT_B", 0x50048, [], 0x0, 0x0, [FIR_CNT_B_EARLY, FIR_CNT_B_LAG]⟩,
  ⟨"FIR_CNT_CLR", 0x5004C, [], 0x0, 0x0, [FIR_CNT_CLR_ALL]⟩,
  ⟨"FIR_OUT_CFG", 0x50100, [(0x10, 16)], 0x0, 0x0, [FIR_OUT_CFG_EN, FIR_OUT_CFG_INV, FIR_OUT_CFG_DLY]⟩,
  ⟨"FIR_OUT_W01", 0x50104, [(0x10, 16)], 0x200020, 0x0, [FIR_OUT_W01_W1, FIR_OUT_W01_W0]⟩,
  ⟨"FIR_OUT_W23", 0x50108, [(0x10, 16)], 0x200020, 0x0, [FIR_OUT_W23_W3, FIR_OUT_W23_W2]⟩,
  ⟨"FIR_OUT_CNT", 0x5010C, [(0x10, 16)], 0x0, 0x0, [FIR_OUT_CNT_PULSES]⟩,
  ⟨"FIR_PROFILE", 0x50050, [], 0x0, 0x0, [FIR_PROFILE_PEND, FIR_PROFILE_REC_MISS, FIR_PROFILE_LOCK_HIT, FIR_PROFILE_MOD, FIR_PROFILE_CODE]⟩]

/-- Cards of the FIR block, part 1. -/
def cardsFIR1 : List Card := [
  ⟨"FIR_ALC_CTRL", 0x50054, [], 0x80200, 0x0, [FIR_ALC_CTRL_CLR, FIR_ALC_CTRL_SMAX, FIR_ALC_CTRL_SMIN, FIR_ALC_CTRL_EN]⟩,
  ⟨"FIR_ALC_W", 0x50058, [], 0x4040810, 0x0, [FIR_ALC_W_WFAR, FIR_ALC_W_WLOW, FIR_ALC_W_WNOE, FIR_ALC_W_WBASE]⟩,
  ⟨"FIR_ALC_STAT", 0x5005C, [], 0x8, 0x0, [FIR_ALC_STAT_CFG_REJ, FIR_ALC_STAT_THR]⟩,
  ⟨"FIR_ALC_BUDGET", 0x50060, [], 0x0, 0x0, [FIR_ALC_BUDGET_TE]⟩,
  ⟨"FIR_ALC_SUM", 0x50064, [], 0x0, 0x0, [FIR_ALC_SUM_SUM]⟩,
  ⟨"FIR_ALC_CNT", 0x50068, [], 0x0, 0x0, [FIR_ALC_CNT_STALE, FIR_ALC_CNT_CUT]⟩]

/-- Cards of the HGE block. -/
def cardsHGE : List Card := [
  ⟨"HGE_BIN", 0x60000, [], 0x11400, 0x0, [HGE_BIN_WIDTH, HGE_BIN_COUNT]⟩,
  ⟨"HGE_ZOOM", 0x60004, [], 0x304, 0x0, [HGE_ZOOM_MIN_CNT, HGE_ZOOM_NWIN]⟩,
  ⟨"HGE_CTRL", 0x60008, [], 0x0, 0x0, [HGE_CTRL_RETAIN]⟩,
  ⟨"HGE_STATUS", 0x6000C, [], 0x0, 0x0, [HGE_STATUS_BIST_FAIL, HGE_STATUS_MM_PEND, HGE_STATUS_MM_FAULT, HGE_STATUS_SET1, HGE_STATUS_SET0, HGE_STATUS_CFG_REJ, HGE_STATUS_WR_IGNORED]⟩,
  ⟨"HGE_RET", 0x60010, [], 0x0, 0x0, [HGE_RET_VALID, HGE_RET_SET, HGE_RET_COLUMN]⟩,
  ⟨"HGE_RET_FRAME", 0x60014, [], 0x0, 0x0, [HGE_RET_FRAME_FRAME]⟩,
  ⟨"HGE_ECC_INJ", 0x60018, [], 0x0, 0x0, [HGE_ECC_INJ_MODE, HGE_ECC_INJ_BANK]⟩,
  ⟨"HGE_SET_WAIT", 0x6001C, [], 0x0, 0x0, [HGE_SET_WAIT_WAITS]⟩,
  ⟨"HGE_ECC_CNT", 0x60020, [(0x4, 4)], 0x0, 0x0, [HGE_ECC_CNT_UE, HGE_ECC_CNT_CE]⟩,
  ⟨"HGE_MM_CNT", 0x60030, [(0x4, 4)], 0x0, 0x0, [HGE_MM_CNT_FRAME, HGE_MM_CNT_TOTAL]⟩,
  ⟨"HGE_LAST_MM", 0x60040, [], 0x0, 0x0, [HGE_LAST_MM_KIND, HGE_LAST_MM_CHANNEL, HGE_LAST_MM_COLUMN]⟩,
  ⟨"HGE_CNT_CLR", 0x60044, [], 0x0, 0x0, [HGE_CNT_CLR_WAIT, HGE_CNT_CLR_QUARTER]⟩,
  ⟨"HGE_CH_BINNED", 0x61000, [(0x20, 512)], 0x0, 0x0, [HGE_CH_BINNED_BINNED]⟩,
  ⟨"HGE_CH_RATE", 0x61004, [(0x20, 512)], 0x0, 0x0, [HGE_CH_RATE_RATE]⟩,
  ⟨"HGE_CH_NOSHOT", 0x61008, [(0x20, 512)], 0x0, 0x0, [HGE_CH_NOSHOT_NOSHOT]⟩,
  ⟨"HGE_CH_XFIFO", 0x6100C, [(0x20, 512)], 0x0, 0x0, [HGE_CH_XFIFO_CREDIT, HGE_CH_XFIFO_BANK_FIFO, HGE_CH_XFIFO_XFIFO]⟩,
  ⟨"HGE_CH_STAT", 0x61010, [(0x20, 512)], 0x0, 0x0, [HGE_CH_STAT_SAT_COLS, HGE_CH_STAT_MM_COLS]⟩]

/-- Cards of the EXT block. -/
def cardsEXT : List Card := [
  ⟨"EXT_CTRL", 0x70000, [], 0x10C, 0x0, [EXT_CTRL_INTF_EN, EXT_CTRL_NOECHO_REC, EXT_CTRL_VEIL_EN, EXT_CTRL_VEIL_SUPPRESS, EXT_CTRL_MAX_M1, EXT_CTRL_POLICY]⟩,
  ⟨"EXT_DET", 0x70004, [], 0x40310, 0x0, [EXT_DET_MERGE, EXT_DET_MIN_SIG, EXT_DET_NSIG]⟩,
  ⟨"EXT_ZOOM", 0x70008, [], 0x2, 0x0, [EXT_ZOOM_ZOOM_MIN]⟩,
  ⟨"EXT_AIR", 0x7000C, [], 0xB72, 0x0, [EXT_AIR_NM1]⟩,
  ⟨"EXT_SCALE", 0x70010, [], 0x95DA31CA, 0x0, [EXT_SCALE_SCALE]⟩,
  ⟨"EXT_CONF", 0x70014, [], 0x2820020, 0x0, [EXT_CONF_HALVE, EXT_CONF_GAIN]⟩,
  ⟨"EXT_WX", 0x70018, [], 0x4004078, 0x0, [EXT_WX_VEIL_IMAX, EXT_WX_VEIL_WMIN, EXT_WX_VEIL_FAR]⟩,
  ⟨"EXT_WX2", 0x7001C, [], 0x20, 0x0, [EXT_WX2_VEIL_CHMIN]⟩,
  ⟨"EXT_WIN", 0x70020, [], 0x80100, 0x0, [EXT_WIN_PERSIST, EXT_WIN_WIN_HI, EXT_WIN_WIN_LO]⟩,
  ⟨"EXT_WIN_THR", 0x70024, [], 0xFFFF, 0x0, [EXT_WIN_THR_THR]⟩,
  ⟨"EXT_INTF", 0x70028, [], 0x1406, 0x0, [EXT_INTF_INTF_NSIG, EXT_INTF_INTF_MIN]⟩,
  ⟨"EXT_ALLOCQ", 0x7002C, [], 0xC80040, 0x0, [EXT_ALLOCQ_FAR_M, EXT_ALLOCQ_CONF_LO]⟩,
  ⟨"EXT_STATUS", 0x70030, [], 0x0, 0x0, [EXT_STATUS_CFG_REJ, EXT_STATUS_STALLED, EXT_STATUS_BUSY]⟩,
  ⟨"EXT_LAST_COL", 0x70034, [], 0x0, 0x0, [EXT_LAST_COL_SEQ, EXT_LAST_COL_RECORDS, EXT_LAST_COL_COLUMN]⟩,
  ⟨"EXT_LAST_FRAME", 0x70038, [], 0x0, 0x0, [EXT_LAST_FRAME_FRAME]⟩,
  ⟨"EXT_LAST_COLQ", 0x7003C, [], 0x0, 0x0, [EXT_LAST_COLQ_LOWCONF, EXT_LAST_COLQ_NOECHO]⟩,
  ⟨"EXT_LAST_COLQ2", 0x70040, [], 0x0, 0x0, [EXT_LAST_COLQ2_SEQ, EXT_LAST_COLQ2_VEIL, EXT_LAST_COLQ2_FAR]⟩,
  ⟨"EXT_CNT_REC", 0x70044, [], 0x0, 0x0, [EXT_CNT_REC_RECORDS]⟩,
  ⟨"EXT_CNT_COL", 0x70048, [], 0x0, 0x0, [EXT_CNT_COL_COLUMNS]⟩,
  ⟨"EXT_CNT_STALL", 0x7004C, [], 0x0, 0x0, [EXT_CNT_STALL_STALLS]⟩,
  ⟨"EXT_CNT_CLR", 0x70050, [], 0x0, 0x0, [EXT_CNT_CLR_ALL]⟩,
  ⟨"EXT_CH_CFG", 0x71000, [(0x10, 512)], 0x100, 0x0, [EXT_CH_CFG_ISRC, EXT_CH_CFG_GAIN]⟩,
  ⟨"EXT_CH_WIN", 0x71004, [(0x10, 512)], 0x0, 0x0, [EXT_CH_WIN_STREAK, EXT_CH_WIN_WLEV]⟩,
  ⟨"EXT_CH_CNT", 0x71008, [(0x10, 512)], 0x0, 0x0, [EXT_CH_CNT_INTF, EXT_CH_CNT_VEIL]⟩]

/-- Cards of the SRV block, part 0. -/
def cardsSRV0 : List Card := [
  ⟨"SRV_CTRL", 0x90000, [], 0x40000004, 0x0, [SRV_CTRL_STOP_RAMP, SRV_CTRL_TUNE_EN, SRV_CTRL_IDX_SRC, SRV_CTRL_AZ_LOOP, SRV_CTRL_RATE_SHIFT]⟩,
  ⟨"SRV_TICK", 0x90004, [], 0x9C4, 0x0, [SRV_TICK_PERIOD]⟩,
  ⟨"SRV_STATUS", 0x90008, [], 0x0, 0x0, [SRV_STATUS_CNT_CLR, SRV_STATUS_CFG_REJ, SRV_STATUS_OUT_CONFLICT, SRV_STATUS_COEF_REJ, SRV_STATUS_WR_IGNORED, SRV_STATUS_RUNNING]⟩,
  ⟨"SRV_SAMPLE", 0x9000C, [], 0x0, 0x0, [SRV_SAMPLE_TICKS]⟩,
  ⟨"SRV_AZ_CFG", 0x90010, [], 0x0, 0x0, [SRV_AZ_CFG_AZ_OFS]⟩,
  ⟨"SRV_AZ_K", 0x90014, [], 0x0, 0x0, [SRV_AZ_K_K]⟩,
  ⟨"SRV_AZ", 0x90018, [], 0x0, 0x0, [SRV_AZ_AZ, SRV_AZ_VALID]⟩,
  ⟨"SRV_RATE", 0x9001C, [], 0x0, 0x0, [SRV_RATE_RATE]⟩,
  ⟨"SRV_IDX_PER", 0x90020, [], 0x0, 0x0, [SRV_IDX_PER_PERIOD]⟩,
  ⟨"SRV_WIN_CFG", 0x90024, [], 0xC80201, 0x0, [SRV_WIN_CFG_DEB_IN, SRV_WIN_CFG_DEB_OUT, SRV_WIN_CFG_LOOPS]⟩,
  ⟨"SRV_WIN_SPD", 0x90028, [], 0xFFFFFFFF, 0x0, [SRV_WIN_SPD_LIMIT]⟩,
  ⟨"SRV_WIN_SPD", 0x9002C, [], 0x0, 0x0, [SRV_WIN_SPD_LIMIT]⟩,
  ⟨"SRV_WIN_STAT", 0x90030, [], 0x0, 0x0, [SRV_WIN_STAT_EXITS, SRV_WIN_STAT_SPEED_OK, SRV_WIN_STAT_VERDICT, SRV_WIN_STAT_IN]⟩,
  ⟨"SRV_ENC_CFG", 0x90040, [], 0x400, 0x0, [SRV_ENC_CFG_FILT, SRV_ENC_CFG_ZERO, SRV_ENC_CFG_EN]⟩,
  ⟨"SRV_ENC_CPT", 0x90044, [], 0x10000, 0x0, [SRV_ENC_CPT_CPT]⟩,
  ⟨"SRV_ENC_POS", 0x90048, [(0x4, 2)], 0x0, 0x0, [SRV_ENC_POS_COUNT]⟩,
  ⟨"SRV_ENC_STAT", 0x90050, [], 0x0, 0x0, [SRV_ENC_STAT_ERRS, SRV_ENC_STAT_IDX_SEEN, SRV_ENC_STAT_ERR, SRV_ENC_STAT_VALID]⟩,
  ⟨"SRV_DAC", 0x90060, [(0x4, 4)], 0x80008000, 0x0, [SRV_DAC_DIRECT, SRV_DAC_SAFE]⟩,
  ⟨"SRV_PWM_CFG", 0x90070, [], 0x186A0000, 0x0, [SRV_PWM_CFG_PERIOD, SRV_PWM_CFG_PIN_EN, SRV_PWM_CFG_INV]⟩,
  ⟨"SRV_TRC_CTRL", 0x90080, [], 0x0, 0x0, [SRV_TRC_CTRL_PRE, SRV_TRC_CTRL_DECIM, SRV_TRC_CTRL_TRIG, SRV_TRC_CTRL_SRC_LOOP, SRV_TRC_CTRL_FORCE, SRV_TRC_CTRL_STOP, SRV_TRC_CTRL_ARM]⟩,
  ⟨"SRV_TRC_SEL", 0x90084, [(0x4, 2)], 0x0, 0x0, [SRV_TRC_SEL_S3, SRV_TRC_SEL_S2, SRV_TRC_SEL_S1, SRV_TRC_SEL_S0]⟩,
  ⟨"SRV_TRC_THR", 0x9008C, [], 0x0, 0x0, [SRV_TRC_THR_THR]⟩,
  ⟨"SRV_TRC_STAT", 0x90090, [], 0x0, 0x0, [SRV_TRC_STAT_STATE, SRV_TRC_STAT_PRE_SHORT, SRV_TRC_STAT_WPTR]⟩,
  ⟨"SRV_TRC_TRIG", 0x90094, [], 0x0, 0x0, [SRV_TRC_TRIG_RECS, SRV_TRC_TRIG_TIDX]⟩]

/-- Cards of the SRV block, part 1. -/
def cardsSRV1 : List Card := [
  ⟨"SRV_TRC_TSAMP", 0x90098, [], 0x0, 0x0, [SRV_TRC_TSAMP_TICKS]⟩,
  ⟨"SRV_LP_CTRL", 0x90100, [(0x80, 6)], 0x0, 0x0, [SRV_LP_CTRL_RUN, SRV_LP_CTRL_MODE]⟩,
  ⟨"SRV_LP_CFG", 0x90104, [(0x80, 6)], 0x0, 0x0, [SRV_LP_CFG_OUT, SRV_LP_CFG_DIV, SRV_LP_CFG_FBSRC, SRV_LP_CFG_TYPE, SRV_LP_CFG_N1_EN, SRV_LP_CFG_N0_EN]⟩,
  ⟨"SRV_LP_STAT", 0x90108, [(0x80, 6)], 0x0, 0x0, [SRV_LP_STAT_SAT_SEEN, SRV_LP_STAT_SATURATED, SRV_LP_STAT_FB_VALID, SRV_LP_STAT_TRIP, SRV_LP_STAT_GOOD, SRV_LP_STAT_STATE]⟩,
  ⟨"SRV_LP_SP", 0x9010C, [(0x80, 6)], 0x0, 0x0, [SRV_LP_SP_SP]⟩,
  ⟨"SRV_LP_MAN", 0x90110, [(0x80, 6)], 0x0, 0x0, [SRV_LP_MAN_MAN]⟩,
  ⟨"SRV_LP_K", 0x90114, [(0x80, 6), (0x4, 4)], 0x0, 0x0, [SRV_LP_K_GAIN]⟩,
  ⟨"SRV_LP_ILIM", 0x90124, [(0x80, 6)], 0x7FFF8000, 0x0, [SRV_LP_ILIM_IHI, SRV_LP_ILIM_ILO]⟩,
  ⟨"SRV_LP_OLIM", 0x90128, [(0x80, 6)], 0x7FFF8000, 0x0, [SRV_LP_OLIM_OHI, SRV_LP_OLIM_OLO]⟩,
  ⟨"SRV_LP_OOFS", 0x9012C, [(0x80, 6)], 0x8000, 0x0, [SRV_LP_OOFS_OOFS]⟩,
  ⟨"SRV_LP_NC", 0x90130, [(0x80, 6), (0x14, 2)], 0x400000, 0x0, [SRV_LP_NC_COEF]⟩,
  ⟨"SRV_LP_NC", 0x90134, [(0x80, 6), (0x14, 2)], 0x0, 0x0, [SRV_LP_NC_COEF]⟩,
  ⟨"SRV_LP_NC", 0x90138, [(0x80, 6), (0x14, 2)], 0x0, 0x0, [SRV_LP_NC_COEF]⟩,
  ⟨"SRV_LP_NC", 0x9013C, [(0x80, 6), (0x14, 2)], 0x0, 0x0, [SRV_LP_NC_COEF]⟩,
  ⟨"SRV_LP_NC", 0x90140, [(0x80, 6), (0x14, 2)], 0x0, 0x0, [SRV_LP_NC_COEF]⟩,
  ⟨"SRV_LP_ERRMAX", 0x90158, [(0x80, 6)], 0x0, 0x0, [SRV_LP_ERRMAX_ERRMAX]⟩,
  ⟨"SRV_LP_TRAJ", 0x9015C, [(0x80, 2)], 0x10000, 0x0, [SRV_LP_TRAJ_SWAP, SRV_LP_TRAJ_ACTIVE, SRV_LP_TRAJ_STEP, SRV_LP_TRAJ_LEN]⟩,
  ⟨"SRV_LP_OUT", 0x90160, [(0x80, 6)], 0x0, 0x0, [SRV_LP_OUT_CODE, SRV_LP_OUT_U]⟩,
  ⟨"SRV_LP_MON", 0x90164, [(0x80, 6), (0x4, 3)], 0x0, 0x0, [SRV_LP_MON_VALUE]⟩,
  ⟨"SRV_LP_CNT", 0x90170, [(0x80, 6)], 0x0, 0x0, [SRV_LP_CNT_MISS, SRV_LP_CNT_SATEV]⟩,
  ⟨"SRV_TRAJ", 0x94000, [(0x2000, 2), (0x1000, 2), (0x4, 1024)], 0x0, 0x0, [SRV_TRAJ_SP, SRV_TRAJ_GATE]⟩]

/-- Cards of the MAD block. -/
def cardsMAD : List Card := [
  ⟨"MAD_CTRL", 0xA0000, [], 0x0, 0x0, [MAD_CTRL_CNT_CLR, MAD_CTRL_GO, MAD_CTRL_SEQ_EN, MAD_CTRL_REF_EN]⟩,
  ⟨"MAD_STATUS", 0xA0004, [], 0x0, 0x0, [MAD_STATUS_CFG_REJ, MAD_STATUS_WR_IGNORED, MAD_STATUS_REF_AUTO, MAD_STATUS_REF_RDY]⟩,
  ⟨"MAD_TRIG", 0xA0008, [], 0x0, 0x0, [MAD_TRIG_DELAY, MAD_TRIG_GPIO_POL, MAD_TRIG_GPIO, MAD_TRIG_SRC]⟩,
  ⟨"MAD_TIMER", 0xA000C, [], 0x0, 0x0, [MAD_TIMER_PERIOD]⟩,
  ⟨"MAD_TICK_CH", 0xA0010, [], 0x0, 0x0, [MAD_TICK_CH_CH3, MAD_TICK_CH_CH2, MAD_TICK_CH_CH1, MAD_TICK_CH_CH0]⟩,
  ⟨"MAD_INJ", 0xA0014, [], 0x0, 0x0, [MAD_INJ_GO, MAD_INJ_CONV, MAD_INJ_DIFF, MAD_INJ_CODE]⟩,
  ⟨"MAD_INJ_RES", 0xA0018, [], 0x0, 0x0, [MAD_INJ_RES_VALID, MAD_INJ_RES_DROPPED, MAD_INJ_RES_CONV, MAD_INJ_RES_RESULT]⟩,
  ⟨"MAD_SEQ_STAT", 0xA001C, [], 0x0, 0x0, [MAD_SEQ_STAT_ENTRY, MAD_SEQ_STAT_REP, MAD_SEQ_STAT_WAITING, MAD_SEQ_STAT_RUN]⟩,
  ⟨"MAD_RES", 0xA0020, [(0x4, 4)], 0x0, 0x0, [MAD_RES_KIND, MAD_RES_CODE, MAD_RES_DIFF, MAD_RES_RESULT]⟩,
  ⟨"MAD_CNT", 0xA0030, [], 0x0, 0x0, [MAD_CNT_INJ_DROP, MAD_CNT_XDROP]⟩,
  ⟨"MAD_CNT2", 0xA0034, [], 0x0, 0x0, [MAD_CNT2_SLIP, MAD_CNT2_TRIG_MISS]⟩,
  ⟨"MAD_GUARD", 0xA0038, [], 0x0, 0x0, [MAD_GUARD_VMID, MAD_GUARD_VRES]⟩,
  ⟨"MAD_TRIG_TBS_LO", 0xA0040, [], 0x0, 0x0, [MAD_TRIG_TBS_LO_TBS_LO]⟩,
  ⟨"MAD_TRIG_TBS_HI", 0xA0044, [], 0x0, 0x0, [MAD_TRIG_TBS_HI_TBS_HI]⟩,
  ⟨"MAD_ENTRY0", 0xA1000, [(0x10, 64)], 0x0, 0x0, [MAD_ENTRY0_CH0, MAD_ENTRY0_CH1, MAD_ENTRY0_CH2, MAD_ENTRY0_CH3]⟩,
  ⟨"MAD_ENTRY1", 0xA1004, [(0x10, 64)], 0x0, 0x0, [MAD_ENTRY1_ROUTE]⟩,
  ⟨"MAD_ENTRY2", 0xA1008, [(0x10, 64)], 0x0, 0x0, [MAD_ENTRY2_SPACE, MAD_ENTRY2_REP_M1, MAD_ENTRY2_STOP, MAD_ENTRY2_LOOP, MAD_ENTRY2_WAIT]⟩,
  ⟨"MAD_ENTRY3", 0xA100C, [(0x10, 64)], 0x0, 0x0, [MAD_ENTRY3_LOOP_TO]⟩]

/-- Cards of the MFC block. -/
def cardsMFC : List Card := [
  ⟨"MFC_SYNC", 0xA8000, [], 0x0, 0x0, [MFC_SYNC_TRIG_SYNC, MFC_SYNC_SYNC]⟩,
  ⟨"MFC_STATUS", 0xA8004, [], 0x0, 0x0, [MFC_STATUS_CNT_CLR, MFC_STATUS_COEF_REJ, MFC_STATUS_CFG_REJ]⟩,
  ⟨"MFC_CH_CTRL", 0xA8100, [(0x40, 8)], 0x0, 0x0, [MFC_CH_CTRL_EN]⟩,
  ⟨"MFC_CH_CFG", 0xA8104, [(0x40, 8)], 0x1, 0x0, [MFC_CH_CFG_PRESET, MFC_CH_CFG_TICK_SRC, MFC_CH_CFG_TICK_CONV, MFC_CH_CFG_DEC_LOG2]⟩,
  ⟨"MFC_CH_FIR", 0xA8108, [(0x40, 8)], 0x20000, 0x0, [MFC_CH_FIR_COEF]⟩,
  ⟨"MFC_CH_FIR", 0xA810C, [(0x40, 8)], 0x0, 0x0, [MFC_CH_FIR_COEF]⟩,
  ⟨"MFC_CH_FIR", 0xA8110, [(0x40, 8)], 0x0, 0x0, [MFC_CH_FIR_COEF]⟩,
  ⟨"MFC_CH_FIR", 0xA8114, [(0x40, 8)], 0x0, 0x0, [MFC_CH_FIR_COEF]⟩,
  ⟨"MFC_CH_FIR", 0xA8118, [(0x40, 8)], 0x0, 0x0, [MFC_CH_FIR_COEF]⟩,
  ⟨"MFC_CH_FIR", 0xA811C, [(0x40, 8)], 0x0, 0x0, [MFC_CH_FIR_COEF]⟩,
  ⟨"MFC_CH_FIR", 0xA8120, [(0x40, 8)], 0x0, 0x0, [MFC_CH_FIR_COEF]⟩,
  ⟨"MFC_CH_FIR", 0xA8124, [(0x40, 8)], 0x0, 0x0, [MFC_CH_FIR_COEF]⟩,
  ⟨"MFC_CH_THR", 0xA8128, [(0x40, 8)], 0x7FFF8000, 0x0, [MFC_CH_THR_HI, MFC_CH_THR_LO]⟩,
  ⟨"MFC_CH_EVT", 0xA812C, [(0x40, 8)], 0x0, 0x0, [MFC_CH_EVT_HYST]⟩,
  ⟨"MFC_CH_OUT", 0xA8130, [(0x40, 8)], 0x0, 0x0, [MFC_CH_OUT_VALUE]⟩,
  ⟨"MFC_CH_STAT", 0xA8134, [(0x40, 8)], 0x0, 0x0, [MFC_CH_STAT_OUTS, MFC_CH_STAT_ABOVE, MFC_CH_STAT_BELOW, MFC_CH_STAT_HI_SEEN, MFC_CH_STAT_LO_SEEN, MFC_CH_STAT_VALID]⟩,
  ⟨"MFC_CH_CNT", 0xA8138, [(0x40, 8)], 0x0, 0x0, [MFC_CH_CNT_HI_EVT, MFC_CH_CNT_LO_EVT]⟩]

/-- Cards of the EVR block. -/
def cardsEVR : List Card := [
  ⟨"EVR_CTRL", 0xB0000, [], 0x0, 0x0, [EVR_CTRL_CNT_CLR, EVR_CTRL_FORCE]⟩,
  ⟨"EVR_STATE", 0xB0004, [], 0x0, 0x0, [EVR_STATE_WR_IGNORED, EVR_STATE_LAST_SRC, EVR_STATE_SEG, EVR_STATE_STATE]⟩,
  ⟨"EVR_FILL", 0xB0008, [], 0x0, 0x0, [EVR_FILL_UNITS]⟩,
  ⟨"EVR_CNT_TRIG", 0xB000C, [], 0x0, 0x0, [EVR_CNT_TRIG_TRIG_REARM, EVR_CNT_TRIG_TRIG_EARLY]⟩,
  ⟨"EVR_SRC", 0xB0010, [], 0x0, 0x0, [EVR_SRC_NSEG_LOG2, EVR_SRC_HG_OUT, EVR_SRC_REARM, EVR_SRC_STAGE, EVR_SRC_ROWS, EVR_SRC_MONITOR, EVR_SRC_EVENTS]⟩,
  ⟨"EVR_PRE", 0xB0014, [], 0x0, 0x0, [EVR_PRE_PRE]⟩,
  ⟨"EVR_POST", 0xB0018, [], 0x0, 0x0, [EVR_POST_POST]⟩,
  ⟨"EVR_TRIG", 0xB001C, [], 0x1, 0x0, [EVR_TRIG_COL, EVR_TRIG_LO, EVR_TRIG_HI, EVR_TRIG_CHAIN, EVR_TRIG_SRC]⟩,
  ⟨"EVR_MON_SEL", 0xB0020, [], 0x0, 0x0, [EVR_MON_SEL_CHAINS, EVR_MON_SEL_CONV, EVR_MON_SEL_KINDS]⟩,
  ⟨"EVR_ROW_SEL", 0xB0024, [], 0x0, 0x0, [EVR_ROW_SEL_COL, EVR_ROW_SEL_ALLCOL, EVR_ROW_SEL_CHMASK, EVR_ROW_SEL_BANK]⟩,
  ⟨"EVR_CH_MASK", 0xB0028, [(0x4, 16)], 0x0, 0x0, [EVR_CH_MASK_MASK]⟩,
  ⟨"EVR_CNT_GAPE", 0xB0068, [], 0x0, 0x0, [EVR_CNT_GAPE_LOST]⟩,
  ⟨"EVR_CNT_GAPM", 0xB006C, [], 0x0, 0x0, [EVR_CNT_GAPM_LOST]⟩,
  ⟨"EVR_TTIME_LO", 0xB0070, [], 0x0, 0x0, [EVR_TTIME_LO_TIME_LO]⟩,
  ⟨"EVR_TTIME_HI", 0xB0074, [], 0x0, 0x0, [EVR_TTIME_HI_TIME_HI]⟩,
  ⟨"EVR_ECC", 0xB0078, [], 0x0, 0x0, [EVR_ECC_UE, EVR_ECC_CE]⟩,
  ⟨"EVR_SEG_FREE", 0xB007C, [], 0x0, 0x0, [EVR_SEG_FREE_FREE]⟩,
  ⟨"EVR_SEG_INFO", 0xB0080, [(0x8, 8)], 0x0, 0x0, [EVR_SEG_INFO_STATUS, EVR_SEG_INFO_TRIGGERED, EVR_SEG_INFO_STOPPED, EVR_SEG_INFO_PARTIAL, EVR_SEG_INFO_START]⟩,
  ⟨"EVR_SEG_COUNT", 0xB0084, [(0x8, 8)], 0x0, 0x0, [EVR_SEG_COUNT_COUNT]⟩,
  ⟨"EVR_MSK_CFG", 0xB0100, [(0x100, 4)], 0x1, 0x0, [EVR_MSK_CFG_EN, EVR_MSK_CFG_STOP, EVR_MSK_CFG_TRIG, EVR_MSK_CFG_EVENT, EVR_MSK_CFG_INPUT, EVR_MSK_CFG_REF, EVR_MSK_CFG_SEG_LEN]⟩,
  ⟨"EVR_MSK_SRC", 0xB0104, [(0x100, 4)], 0x0, 0x0, [EVR_MSK_SRC_CH_HI, EVR_MSK_SRC_CH_LO, EVR_MSK_SRC_CONV, EVR_MSK_SRC_CHAIN, EVR_MSK_SRC_CHBYTE]⟩,
  ⟨"EVR_MSK_CNT", 0xB0108, [(0x100, 4)], 0x0, 0x0, [EVR_MSK_CNT_VIOLS, EVR_MSK_CNT_FAILS]⟩,
  ⟨"EVR_MSK_LAST", 0xB010C, [(0x100, 4)], 0x0, 0x0, [EVR_MSK_LAST_SEG, EVR_MSK_LAST_HIGH, EVR_MSK_LAST_VALUE]⟩,
  ⟨"EVR_MSK_ENV", 0xB0180, [(0x100, 4), (0x4, 32)], 0x7FFF8000, 0x0, [EVR_MSK_ENV_UPPER, EVR_MSK_ENV_LOWER]⟩]

/-- Cards of the ESF block. -/
def cardsESF : List Card := [
  ⟨"ESF_COND", 0xC0000, [], 0x0, 0x0, [ESF_COND_ALL, ESF_COND_COND]⟩,
  ⟨"ESF_CAUSE", 0xC0004, [], 0x0, 0x0, [ESF_CAUSE_CAUSE]⟩,
  ⟨"ESF_TRIP", 0xC0008, [], 0x0, 0x0, [ESF_TRIP_TRIPS, ESF_TRIP_FIRST]⟩,
  ⟨"ESF_TRIP_LO", 0xC000C, [], 0x0, 0x0, [ESF_TRIP_LO_TIME_LO]⟩,
  ⟨"ESF_TRIP_HI", 0xC0010, [], 0x0, 0x0, [ESF_TRIP_HI_TIME_HI]⟩,
  ⟨"ESF_CTRL", 0xC0014, [], 0x9E640000, 0x0, [ESF_CTRL_HG_DRIVE, ESF_CTRL_TRIP, ESF_CTRL_DISC, ESF_CTRL_HOLDOFF, ESF_CTRL_AUTOCLR]⟩,
  ⟨"ESF_IN", 0xC0018, [], 0x0, 0x0, [ESF_IN_HG_DRV, ESF_IN_HG_FAULT_N, ESF_IN_COVER_N, ESF_IN_B_CLOSED, ESF_IN_A_CLOSED, ESF_IN_DISC, ESF_IN_PTEST]⟩,
  ⟨"ESF_WALK_CFG", 0xC001C, [], 0x32032032, 0x0, [ESF_WALK_CFG_T_C, ESF_WALK_CFG_T_B, ESF_WALK_CFG_T_A]⟩,
  ⟨"ESF_SW_THR0", 0xC0020, [], 0x7FFF0000, 0x0, [ESF_SW_THR0_MID_ON, ESF_SW_THR0_RISE_MAX]⟩,
  ⟨"ESF_SW_THR1", 0xC0024, [], 0x7FFF0000, 0x0, [ESF_SW_THR1_RES_ON, ESF_SW_THR1_TRACK]⟩,
  ⟨"ESF_WALK_STAT", 0xC0028, [], 0x0, 0x0, [ESF_WALK_STAT_REASON, ESF_WALK_STAT_STEP, ESF_WALK_STAT_PASSES]⟩,
  ⟨"ESF_STATUS", 0xC002C, [], 0x0, 0x0, [ESF_STATUS_CFG_REJ, ESF_STATUS_WR_IGNORED]⟩,
  ⟨"ESF_CNT", 0xC0030, [], 0x0, 0x0, [ESF_CNT_DISC, ESF_CNT_GUARD_FAIL]⟩,
  ⟨"ESF_DIAG", 0xC0034, [], 0x0, 0x0, [ESF_DIAG_WDOG_AGE, ESF_DIAG_TEST_FAIL, ESF_DIAG_WDOG_EXP, ESF_DIAG_LOCKSTEP_ERR]⟩,
  ⟨"ESF_EXP_WT", 0xC0040, [(0x4, 4)], 0x0, 0x0, [ESF_EXP_WT_WT]⟩,
  ⟨"ESF_EXP_LIM", 0xC0050, [(0x4, 3)], 0x0, 0x0, [ESF_EXP_LIM_LIMIT]⟩,
  ⟨"ESF_EXP_CEIL", 0xC005C, [(0x4, 3)], 0x0, 0x0, [ESF_EXP_CEIL_CEIL]⟩,
  ⟨"ESF_EXP_SEL", 0xC0068, [], 0x0, 0x0, [ESF_EXP_SEL_SEG, ESF_EXP_SEL_SECTOR]⟩,
  ⟨"ESF_EXP_LVL", 0xC006C, [(0x4, 3)], 0x0, 0x0, [ESF_EXP_LVL_LEVEL]⟩,
  ⟨"ESF_EXP_PEAK", 0xC0078, [(0x4, 3)], 0x0, 0x0, [ESF_EXP_PEAK_FILL, ESF_EXP_PEAK_CELL]⟩,
  ⟨"ESF_FREF_LIM", 0xC0084, [], 0x0, 0x0, [ESF_FREF_LIM_TOTMAX]⟩]

/-- Cards of the ZON block. -/
def cardsZON : List Card := [
  ⟨"ZON_CTRL", 0x80000, [], 0x3200, 0x0, [ZON_CTRL_PERIOD, ZON_CTRL_TB, ZON_CTRL_EN]⟩,
  ⟨"ZON_ADDR", 0x80004, [], 0x0, 0x0, [ZON_ADDR_ADDRESS]⟩,
  ⟨"ZON_STATE", 0x80008, [], 0x0, 0x0, [ZON_STATE_ZONES]⟩,
  ⟨"ZON_SEQ", 0x8000C, [], 0x0, 0x0, [ZON_SEQ_SEQ]⟩,
  ⟨"ZON_COMMIT_STAT", 0x80010, [], 0x0, 0x0, [ZON_COMMIT_STAT_REASON, ZON_COMMIT_STAT_ZONE, ZON_COMMIT_STAT_PEND, ZON_COMMIT_STAT_CELL]⟩,
  ⟨"ZON_CFG_ID", 0x80014, [], 0x0, 0x0, [ZON_CFG_ID_ID]⟩,
  ⟨"ZON_MASK", 0x80018, [], 0xFFFF, 0x0, [ZON_MASK_MASK]⟩,
  ⟨"ZON_CMD", 0x8001C, [], 0x0, 0x0, [ZON_CMD_SEQ]⟩,
  ⟨"ZON_CMD_STAT", 0x80020, [], 0x0, 0x0, [ZON_CMD_STAT_PEND_B, ZON_CMD_STAT_PEND_A, ZON_CMD_STAT_STOP]⟩,
  ⟨"ZON_CNT", 0x80024, [], 0x0, 0x0, [ZON_CNT_MISMATCH, ZON_CNT_UNPAIRED]⟩,
  ⟨"ZON_CNT2", 0x80028, [], 0x0, 0x0, [ZON_CNT2_CFG_REJ, ZON_CNT2_CMP_FAIL]⟩]

/-- Cards of the ETHx block, part 0. -/
def cardsETHx0 : List Card := [
  ⟨"ETHx_CTRL", 0xD0000, [(0x8000, 2)], 0x10000000, 0x0, [ETHx_CTRL_EN, ETHx_CTRL_PRP_EN, ETHx_CTRL_STRM_EN, ETHx_CTRL_LLDP_EN, ETHx_CTRL_MODE]⟩,
  ⟨"ETHx_STATUS", 0xD0004, [(0x8000, 2)], 0x0, 0x0, [ETHx_STATUS_LINK, ETHx_STATUS_SPEED, ETHx_STATUS_PENDING, ETHx_STATUS_ADDR4, ETHx_STATUS_ADDR6_LL, ETHx_STATUS_ADDR6_G, ETHx_STATUS_DAD_FAIL, ETHx_STATUS_CFG_REJ]⟩,
  ⟨"ETHx_MAC_HI", 0xD0008, [(0x8000, 2)], 0x0, 0x0, [ETHx_MAC_HI_MAC_HI]⟩,
  ⟨"ETHx_MAC_LO", 0xD000C, [(0x8000, 2)], 0x0, 0x0, [ETHx_MAC_LO_MAC_LO]⟩,
  ⟨"ETHx_IP4_ADDR", 0xD0010, [(0x8000, 2)], 0x0, 0x0, [ETHx_IP4_ADDR_ADDR]⟩,
  ⟨"ETHx_IP4_CFG", 0xD0014, [(0x8000, 2)], 0x80000000, 0x0, [ETHx_IP4_CFG_DHCP_EN, ETHx_IP4_CFG_PREFIX]⟩,
  ⟨"ETHx_IP4_GW", 0xD0018, [(0x8000, 2)], 0x0, 0x0, [ETHx_IP4_GW_GW]⟩,
  ⟨"ETHx_IP4_CUR", 0xD001C, [(0x8000, 2)], 0x0, 0x0, [ETHx_IP4_CUR_ADDR]⟩,
  ⟨"ETHx_IP6_ADDR", 0xD0020, [(0x8000, 2), (0x4, 4)], 0x0, 0x0, [ETHx_IP6_ADDR_ADDR]⟩,
  ⟨"ETHx_IP6_CFG", 0xD0030, [(0x8000, 2)], 0x0, 0x0, [ETHx_IP6_CFG_EN, ETHx_IP6_CFG_PREFIX]⟩,
  ⟨"ETHx_MTU", 0xD0034, [(0x8000, 2)], 0x5DC, 0x0, [ETHx_MTU_MTU]⟩,
  ⟨"ETHx_VLAN", 0xD0038, [(0x8000, 2)], 0xFA520000, 0x0, [ETHx_VLAN_PCP_TIME, ETHx_VLAN_PCP_SAFE, ETHx_VLAN_PCP_MGMT, ETHx_VLAN_PCP_STRM, ETHx_VLAN_RX_UNTAG, ETHx_VLAN_TX_TAG, ETHx_VLAN_VID]⟩,
  ⟨"ETHx_CBS", 0xD003C, [(0x8000, 2)], 0x0, 0x0, [ETHx_CBS_EN, ETHx_CBS_IDLE_SLOPE]⟩,
  ⟨"ETHx_UDP", 0xD0040, [(0x8000, 2)], 0xB8C5B8C4, 0x0, [ETHx_UDP_STRM, ETHx_UDP_MGMT]⟩,
  ⟨"ETHx_UDP_SAFE", 0xD0044, [(0x8000, 2)], 0xB8C6, 0x0, [ETHx_UDP_SAFE_SAFE]⟩,
  ⟨"ETHx_DST_ADDR", 0xD0050, [(0x8000, 2), (0x20, 2), (0x4, 4)], 0x0, 0x0, [ETHx_DST_ADDR_ADDR]⟩,
  ⟨"ETHx_DST_CFG", 0xD0060, [(0x8000, 2)], 0xB8C5, 0x0, [ETHx_DST_CFG_EN, ETHx_DST_CFG_V6, ETHx_DST_CFG_DPORT]⟩,
  ⟨"ETHx_DST_CFG", 0xD0080, [(0x8000, 2)], 0xB8C6, 0x0, [ETHx_DST_CFG_EN, ETHx_DST_CFG_V6, ETHx_DST_CFG_DPORT]⟩,
  ⟨"ETHx_LLDP_CFG", 0xD0090, [(0x8000, 2)], 0x78001E, 0x0, [ETHx_LLDP_CFG_TTL, ETHx_LLDP_CFG_TX_INT]⟩,
  ⟨"ETHx_NBR_STAT", 0xD0180, [(0x8000, 2), (0x20, 4)], 0x0, 0x0, [ETHx_NBR_STAT_VALID, ETHx_NBR_STAT_RD, ETHx_NBR_STAT_TTL]⟩,
  ⟨"ETHx_NBR_DATA", 0xD0184, [(0x8000, 2), (0x20, 4), (0x4, 7)], 0x0, 0x0, [ETHx_NBR_DATA_DATA]⟩,
  ⟨"ETHx_CNT_RXOK", 0xD0100, [(0x8000, 2)], 0x0, 0x0, [ETHx_CNT_RXOK_FRAMES]⟩,
  ⟨"ETHx_CNT_RXERR", 0xD0104, [(0x8000, 2)], 0x0, 0x0, [ETHx_CNT_RXERR_FCS, ETHx_CNT_RXERR_LONG]⟩,
  ⟨"ETHx_CNT_RXDROP", 0xD0108, [(0x8000, 2)], 0x0, 0x0, [ETHx_CNT_RXDROP_FILT, ETHx_CNT_RXDROP_OVF]⟩]

/-- Cards of the ETHx block, part 1. -/
def cardsETHx1 : List Card := [
  ⟨"ETHx_CNT_TXOK", 0xD010C, [(0x8000, 2)], 0x0, 0x0, [ETHx_CNT_TXOK_FRAMES]⟩,
  ⟨"ETHx_CNT_TXERR", 0xD0110, [(0x8000, 2)], 0x0, 0x0, [ETHx_CNT_TXERR_NORES, ETHx_CNT_TXERR_FLUSH]⟩,
  ⟨"ETHx_CNT_MISC", 0xD0114, [(0x8000, 2)], 0x0, 0x0, [ETHx_CNT_MISC_PAUSE, ETHx_CNT_MISC_NBR_FULL]⟩,
  ⟨"ETHx_CNT_PRP", 0xD0118, [(0x8000, 2)], 0x0, 0x0, [ETHx_CNT_PRP_DUP, ETHx_CNT_PRP_WRONG_LAN]⟩,
  ⟨"ETHx_CNT_CLR", 0xD011C, [(0x8000, 2)], 0x0, 0x0, [ETHx_CNT_CLR_STRM, ETHx_CNT_CLR_ALL]⟩]

/-- Cards of the ETHA block. -/
def cardsETHA : List Card := [
  ⟨"ETHA_STRM_CFG", 0xD0400, [], 0xA00, 0x0, [ETHA_STRM_CFG_STREAM_ID, ETHA_STRM_CFG_HOLD, ETHA_STRM_CFG_TB]⟩,
  ⟨"ETHA_STRM_SEQ", 0xD0404, [], 0x0, 0x0, [ETHA_STRM_SEQ_SEQ]⟩,
  ⟨"ETHA_STRM_CNT", 0xD0408, [], 0x0, 0x0, [ETHA_STRM_CNT_DROP]⟩,
  ⟨"ETHA_STRM_FILL", 0xD040C, [], 0x0, 0x0, [ETHA_STRM_FILL_PEAK, ETHA_STRM_FILL_FILL]⟩]

/-- Cards of the TIM block, part 0. -/
def cardsTIM0 : List Card := [
  ⟨"TIM_TBS_LO", 0xE0000, [], 0x0, 0x0, [TIM_TBS_LO_TBS_LO]⟩,
  ⟨"TIM_TBS_HI", 0xE0004, [], 0x0, 0x0, [TIM_TBS_HI_TBS_HI]⟩,
  ⟨"TIM_TBL_LO", 0xE0008, [], 0x0, 0x0, [TIM_TBL_LO_TBL_LO]⟩,
  ⟨"TIM_TBL_HI", 0xE000C, [], 0x0, 0x0, [TIM_TBL_HI_TBL_HI]⟩,
  ⟨"TIM_TBS_DISC", 0xE0010, [], 0x0, 0x0, [TIM_TBS_DISC_HOLD, TIM_TBS_DISC_LOCKED, TIM_TBS_DISC_SRC]⟩,
  ⟨"TIM_TBS_FREQ", 0xE0014, [], 0x0, 0x0, [TIM_TBS_FREQ_FREQ]⟩,
  ⟨"TIM_STATUS", 0xE0018, [], 0x0, 0x0, [TIM_STATUS_LOST, TIM_STATUS_LEVEL, TIM_STATUS_CNT_CLR, TIM_STATUS_EVOUT_PAST, TIM_STATUS_TBS_GAP, TIM_STATUS_CFG_REJ, TIM_STATUS_TXTS_OVF]⟩,
  ⟨"TIM_XCHK", 0xE001C, [], 0x43E80000, 0x0, [TIM_XCHK_FAIL, TIM_XCHK_EN, TIM_XCHK_LIMIT, TIM_XCHK_DIFF]⟩,
  ⟨"TIM_PPS", 0xE0020, [], 0x64, 0x0, [TIM_PPS_EN, TIM_PPS_TB, TIM_PPS_WIDTH]⟩,
  ⟨"TIM_PORT_LAT", 0xE0024, [(0x4, 2)], 0x0, 0x0, [TIM_PORT_LAT_TX, TIM_PORT_LAT_RX]⟩,
  ⟨"TIM_LQ_CFG", 0xE0030, [(0x4, 4)], 0x0, 0x0, [TIM_LQ_CFG_EN, TIM_LQ_CFG_POLICY, TIM_LQ_CFG_TS_EN, TIM_LQ_CFG_TB, TIM_LQ_CFG_DELAY]⟩,
  ⟨"TIM_LQ_CNT", 0xE0040, [(0x4, 4)], 0x0, 0x0, [TIM_LQ_CNT_LATE_SENT, TIM_LQ_CNT_LATE_DROP]⟩,
  ⟨"TIM_EVCAP_CFG", 0xE0080, [(0x10, 4)], 0x0, 0x0, [TIM_EVCAP_CFG_EN, TIM_EVCAP_CFG_SRC]⟩,
  ⟨"TIM_EVCAP_LO", 0xE0084, [(0x10, 4)], 0x0, 0x0, [TIM_EVCAP_LO_TIME_LO]⟩,
  ⟨"TIM_EVCAP_HI", 0xE0088, [(0x10, 4)], 0x0, 0x0, [TIM_EVCAP_HI_TIME_HI]⟩,
  ⟨"TIM_EVCAP_CNT", 0xE008C, [(0x10, 4)], 0x0, 0x0, [TIM_EVCAP_CNT_COUNT]⟩,
  ⟨"TIM_EVOUT_CFG", 0xE00C0, [(0x10, 4)], 0x0, 0x0, [TIM_EVOUT_CFG_EN, TIM_EVOUT_CFG_TB, TIM_EVOUT_CFG_WIDTH, TIM_EVOUT_CFG_PERIOD]⟩,
  ⟨"TIM_EVOUT_SEC", 0xE00C4, [(0x10, 4)], 0x0, 0x0, [TIM_EVOUT_SEC_SEC]⟩,
  ⟨"TIM_EVOUT_NS", 0xE00C8, [(0x10, 4)], 0x0, 0x0, [TIM_EVOUT_NS_NS]⟩,
  ⟨"TIM_TBx_STATE", 0xE0100, [(0x40, 2)], 0x0, 0x0, [TIM_TBx_STATE_DOMAIN, TIM_TBx_STATE_ROLE, TIM_TBx_STATE_DELAY, TIM_TBx_STATE_PROFILE, TIM_TBx_STATE_ASYM_SUSPECT, TIM_TBx_STATE_HCAUSE, TIM_TBx_STATE_RUNNING, TIM_TBx_STATE_STATE]⟩,
  ⟨"TIM_TBx_SECL", 0xE0104, [(0x40, 2)], 0x0, 0x0, [TIM_TBx_SECL_SEC_LO]⟩,
  ⟨"TIM_TBx_SECH", 0xE0108, [(0x40, 2)], 0x0, 0x0, [TIM_TBx_SECH_SEC_HI, TIM_TBx_SECH_SUBNS]⟩,
  ⟨"TIM_TBx_NS", 0xE010C, [(0x40, 2)], 0x0, 0x0, [TIM_TBx_NS_NS]⟩,
  ⟨"TIM_TBx_RATE", 0xE0110, [(0x40, 2)], 0x0, 0x0, [TIM_TBx_RATE_RATE]⟩]

/-- Cards of the TIM block, part 1. -/
def cardsTIM1 : List Card := [
  ⟨"TIM_TBx_OFS", 0xE0114, [(0x40, 2)], 0x0, 0x0, [TIM_TBx_OFS_OFS]⟩,
  ⟨"TIM_TBx_MPD", 0xE0118, [(0x40, 2)], 0x0, 0x0, [TIM_TBx_MPD_MPD]⟩,
  ⟨"TIM_TBx_MPD_REF", 0xE011C, [(0x40, 2)], 0x0, 0x0, [TIM_TBx_MPD_REF_MPD_REF]⟩,
  ⟨"TIM_TBx_ASYM", 0xE0120, [(0x40, 2)], 0x0, 0x0, [TIM_TBx_ASYM_ASYM]⟩,
  ⟨"TIM_TBx_CNT", 0xE0124, [(0x40, 2)], 0x0, 0x0, [TIM_TBx_CNT_HOLDOVERS, TIM_TBx_CNT_STEPS]⟩]

/-- Cards of the WFL block. -/
def cardsWFL : List Card := [
  ⟨"WFL_CTRL", 0xF0000, [(0x400, 4)], 0x210, 0x0, [WFL_CTRL_EN, WFL_CTRL_MODE, WFL_CTRL_SWING, WFL_CTRL_DEEMPH]⟩,
  ⟨"WFL_STATE", 0xF0004, [(0x400, 4)], 0x0, 0x0, [WFL_STATE_RETRIES, WFL_STATE_QCAUSE, WFL_STATE_STATE]⟩,
  ⟨"WFL_STATUS", 0xF0008, [(0x400, 4)], 0x0, 0x0, [WFL_STATUS_CFG_REJ, WFL_STATUS_XOFF_LONG, WFL_STATUS_RX_XOFF, WFL_STATUS_TX_XOFF]⟩,
  ⟨"WFL_PCAP", 0xF0010, [(0x400, 4), (0x4, 8)], 0x0, 0x0, [WFL_PCAP_BYTES]⟩,
  ⟨"WFL_CNT_A", 0xF0030, [(0x400, 4)], 0x0, 0x0, [WFL_CNT_A_CRC, WFL_CNT_A_CTLBAD]⟩,
  ⟨"WFL_CNT_B", 0xF0034, [(0x400, 4)], 0x0, 0x0, [WFL_CNT_B_HDR, WFL_CNT_B_STUFF]⟩,
  ⟨"WFL_CNT_RX", 0xF0038, [(0x400, 4)], 0x0, 0x0, [WFL_CNT_RX_MSGS]⟩,
  ⟨"WFL_CNT_TX", 0xF003C, [(0x400, 4)], 0x0, 0x0, [WFL_CNT_TX_MSGS]⟩,
  ⟨"WFL_TEST", 0xF0040, [(0x400, 4)], 0x0, 0x0, [WFL_TEST_KIND, WFL_TEST_RUN, WFL_TEST_INJ]⟩,
  ⟨"WFL_CNT_CLR", 0xF0044, [(0x400, 4)], 0x0, 0x0, [WFL_CNT_CLR_ALL]⟩,
  ⟨"WFL_LANE_CFG", 0xF0100, [(0x400, 4), (0x20, 4)], 0x0, 0x0, [WFL_LANE_CFG_CTLE_MAN, WFL_LANE_CFG_CTLE]⟩,
  ⟨"WFL_LANE_STAT", 0xF0104, [(0x400, 4), (0x20, 4)], 0x0, 0x0, [WFL_LANE_STAT_SKEW, WFL_LANE_STAT_CTLE, WFL_LANE_STAT_FROZEN, WFL_LANE_STAT_BLOCK_LOCK, WFL_LANE_STAT_PHASE_LOCK]⟩,
  ⟨"WFL_LANE_ERR", 0xF0108, [(0x400, 4), (0x20, 4)], 0x0, 0x0, [WFL_LANE_ERR_ERRORS]⟩,
  ⟨"WFL_LANE_BITS_LO", 0xF010C, [(0x400, 4), (0x20, 4)], 0x0, 0x0, [WFL_LANE_BITS_LO_BITS_LO]⟩,
  ⟨"WFL_LANE_BITS_HI", 0xF0110, [(0x400, 4), (0x20, 4)], 0x0, 0x0, [WFL_LANE_BITS_HI_BITS_HI]⟩,
  ⟨"WFL_LANE_EYE", 0xF0114, [(0x400, 4), (0x20, 4)], 0x0, 0x0, [WFL_LANE_EYE_EH, WFL_LANE_EYE_EW]⟩]

/-- Cards of the HNG block. -/
def cardsHNG : List Card := [
  ⟨"HNG_ID", 0xFC000, [], 0xF00, 0x0, [HNG_ID_HOPS, HNG_ID_INDEX]⟩,
  ⟨"HNG_CAS_CFG", 0xFC004, [], 0x0, 0x0, [HNG_CAS_CFG_FWD_PTS, HNG_CAS_CFG_MEMBERS, HNG_CAS_CFG_TOPOLOGY, HNG_CAS_CFG_ROLE]⟩,
  ⟨"HNG_EPOCH", 0xFC008, [], 0x0, 0x0, [HNG_EPOCH_EPOCH]⟩,
  ⟨"HNG_CAS_STAT", 0xFC00C, [], 0x0, 0x0, [HNG_CAS_STAT_REACH, HNG_CAS_STAT_LAG, HNG_CAS_STAT_WREJ, HNG_CAS_STAT_READY, HNG_CAS_STAT_HCAL_FAIL, HNG_CAS_STAT_HCAL_DONE, HNG_CAS_STAT_TIME_LOCK, HNG_CAS_STAT_UP]⟩,
  ⟨"HNG_CAS_OFS_LO", 0xFC010, [], 0x0, 0x0, [HNG_CAS_OFS_LO_OFS_LO]⟩,
  ⟨"HNG_CAS_OFS_HI", 0xFC014, [], 0x0, 0x0, [HNG_CAS_OFS_HI_OFS_HI]⟩,
  ⟨"HNG_CAS_RATE", 0xFC018, [], 0x0, 0x0, [HNG_CAS_RATE_RATE]⟩,
  ⟨"HNG_TABLE_ID", 0xFC01C, [], 0x0, 0x0, [HNG_TABLE_ID_ID]⟩,
  ⟨"HNG_LAT", 0xFC020, [], 0x3200, 0x0, [HNG_LAT_LAT]⟩,
  ⟨"HNG_COMP", 0xFC024, [], 0x0, 0x0, [HNG_COMP_TRIG_DLY, HNG_COMP_SYNC_DLY]⟩,
  ⟨"HNG_CNT", 0xFC028, [], 0x0, 0x0, [HNG_CNT_SKIP, HNG_CNT_LATE]⟩,
  ⟨"HNG_CNT2", 0xFC02C, [], 0x0, 0x0, [HNG_CNT2_UNLOCKED, HNG_CNT2_HCAL_FAILS]⟩,
  ⟨"HNG_CNT_CLR", 0xFC030, [], 0x0, 0x0, [HNG_CNT_CLR_ALL]⟩,
  ⟨"HNG_TAP_CTRL", 0xFC040, [], 0x40000000, 0x0, [HNG_TAP_CTRL_EN, HNG_TAP_CTRL_SHOTS, HNG_TAP_CTRL_STAGE, HNG_TAP_CTRL_CFG_REJ, HNG_TAP_CTRL_PREEMPT, HNG_TAP_CTRL_LINK]⟩,
  ⟨"HNG_TAP_MASK", 0xFC044, [(0x4, 16)], 0x0, 0x0, [HNG_TAP_MASK_MASK]⟩,
  ⟨"HNG_TAP_SENT", 0xFC084, [], 0x0, 0x0, [HNG_TAP_SENT_ITEMS]⟩,
  ⟨"HNG_TAP_LOST", 0xFC088, [], 0x0, 0x0, [HNG_TAP_LOST_LOST]⟩]

/-- Cards of the DMA block. -/
def cardsDMA : List Card := [
  ⟨"DMA_CTRL", 0x100000, [], 0x0, 0x0, [DMA_CTRL_PIN_EN, DMA_CTRL_PIN]⟩,
  ⟨"DMA_INT_STAT", 0x100004, [], 0x0, 0x0, [DMA_INT_STAT_FULL, DMA_INT_STAT_HALF]⟩,
  ⟨"DMA_INT_EN", 0x100008, [], 0x0, 0x0, [DMA_INT_EN_EN]⟩,
  ⟨"DMA_INT_OVR", 0x10000C, [], 0x0, 0x0, [DMA_INT_OVR_OVR]⟩,
  ⟨"DMA_QMON_CFG", 0x100020, [], 0x0, 0x0, [DMA_QMON_CFG_EN, DMA_QMON_CFG_CONV, DMA_QMON_CFG_KINDS]⟩,
  ⟨"DMA_QMON_STAT", 0x100024, [], 0x0, 0x0, [DMA_QMON_STAT_DROP, DMA_QMON_STAT_FILL]⟩,
  ⟨"DMA_QFILT_CFG", 0x100028, [], 0x0, 0x0, [DMA_QFILT_CFG_EN, DMA_QFILT_CFG_CHAINS]⟩,
  ⟨"DMA_QFILT_STAT", 0x10002C, [], 0x0, 0x0, [DMA_QFILT_STAT_DROP, DMA_QFILT_STAT_FILL]⟩,
  ⟨"DMA_Q_CTRL", 0x100030, [], 0x0, 0x0, [DMA_Q_CTRL_CNT_CLR, DMA_Q_CTRL_FLUSH_QFILT, DMA_Q_CTRL_FLUSH_MON]⟩,
  ⟨"DMA_CH_CTRL", 0x100100, [(0x40, 16)], 0x0, 0x0, [DMA_CH_CTRL_EN, DMA_CH_CTRL_REQ, DMA_CH_CTRL_WR_IGNORED, DMA_CH_CTRL_STATUS]⟩,
  ⟨"DMA_CH_CFG", 0x100104, [(0x40, 16)], 0x220000, 0x0, [DMA_CH_CFG_CIRC, DMA_CH_CFG_PRIO, DMA_CH_CFG_BLOG, DMA_CH_CFG_DWIDTH, DMA_CH_CFG_SWIDTH, DMA_CH_CFG_REQ]⟩,
  ⟨"DMA_CH_ADDR", 0x100108, [(0x40, 16), (0xC, 2)], 0x0, 0x0, [DMA_CH_ADDR_ADDR]⟩,
  ⟨"DMA_CH_LINE", 0x10010C, [(0x40, 16), (0xC, 2)], 0x10004, 0x0, [DMA_CH_LINE_LINES, DMA_CH_LINE_LEN]⟩,
  ⟨"DMA_CH_STRIDE", 0x100110, [(0x40, 16), (0xC, 2)], 0x0, 0x0, [DMA_CH_STRIDE_STRIDE]⟩,
  ⟨"DMA_CH_PACE", 0x100120, [(0x40, 16)], 0x1, 0x0, [DMA_CH_PACE_PERIOD]⟩,
  ⟨"DMA_CH_WM", 0x100124, [(0x40, 16)], 0x100004, 0x0, [DMA_CH_WM_HIGH, DMA_CH_WM_LOW]⟩,
  ⟨"DMA_CH_REMAIN", 0x100128, [(0x40, 16)], 0x0, 0x0, [DMA_CH_REMAIN_BYTES]⟩,
  ⟨"DMA_CH_CUR", 0x10012C, [(0x40, 16), (0x4, 2)], 0x0, 0x0, [DMA_CH_CUR_ADDR]⟩,
  ⟨"DMA_CH_ERR_ADDR", 0x100134, [(0x40, 16)], 0x0, 0x0, [DMA_CH_ERR_ADDR_ADDR]⟩,
  ⟨"DMA_CH_CNT", 0x100138, [(0x40, 16)], 0x0, 0x0, [DMA_CH_CNT_MISS, DMA_CH_CNT_LAPS]⟩]

/-- Cards of the CAL block. -/
def cardsCAL : List Card := [
  ⟨"CAL_POLICY", 0x110000, [], 0x1000, 0x0, [CAL_POLICY_CNT_CLR, CAL_POLICY_SPACING, CAL_POLICY_STEAL]⟩,
  ⟨"CAL_DARK_LIMIT", 0x110004, [], 0x14, 0x0, [CAL_DARK_LIMIT_LIMIT]⟩,
  ⟨"CAL_CFG", 0x110008, [], 0x10008, 0x0, [CAL_CFG_NOISE_RATE, CAL_CFG_LO_MARGIN]⟩,
  ⟨"CAL_GAIN_CFG", 0x11000C, [], 0x100, 0x0, [CAL_GAIN_CFG_TARGET]⟩,
  ⟨"CAL_GAIN_BAND", 0x110010, [], 0x50064, 0x0, [CAL_GAIN_BAND_NEAR, CAL_GAIN_BAND_FAR]⟩,
  ⟨"CAL_STATE", 0x110014, [], 0x0, 0x0, [CAL_STATE_RUN, CAL_STATE_PHASE, CAL_STATE_PROC, CAL_STATE_LAST, CAL_STATE_CFG_REJ, CAL_STATE_WR_IGNORED, CAL_STATE_STEPS]⟩,
  ⟨"CAL_STALE", 0x110018, [], 0x0, 0x0, [CAL_STALE_ACCEPTED, CAL_STALE_STALE]⟩,
  ⟨"CAL_DONE", 0x11001C, [], 0x0, 0x0, [CAL_DONE_DONE]⟩,
  ⟨"CAL_RES0", 0x110020, [], 0xFFFF, 0x0, [CAL_RES0_DETAIL, CAL_RES0_STATUS]⟩,
  ⟨"CAL_RES1", 0x110024, [], 0x0, 0x0, [CAL_RES1_Q0]⟩,
  ⟨"CAL_RES2", 0x110028, [], 0x0, 0x0, [CAL_RES2_Q1]⟩,
  ⟨"CAL_CNT", 0x11002C, [], 0x0, 0x0, [CAL_CNT_ABORTS, CAL_CNT_STOLEN]⟩]

/-- Cards of the THM block. -/
def cardsTHM : List Card := [
  ⟨"THM_TS", 0x118000, [(0x4, 12)], 0x0, 0x0, [THM_TS_VALID, THM_TS_TEMP]⟩,
  ⟨"THM_TJ", 0x118030, [], 0x0, 0x0, [THM_TJ_SENSOR, THM_TJ_TJ]⟩,
  ⟨"THM_LIM0", 0x118034, [], 0x78006E0, 0x0, [THM_LIM0_THROTTLE, THM_LIM0_WARN]⟩,
  ⟨"THM_LIM1", 0x118038, [], 0x870, 0x0, [THM_LIM1_SHUTDOWN]⟩,
  ⟨"THM_STATE", 0x11803C, [], 0x8, 0x0, [THM_STATE_HISTORY, THM_STATE_WARN, THM_STATE_ABOVE, THM_STATE_AON_FAIL, THM_STATE_CNT_CLR, THM_STATE_THR]⟩,
  ⟨"THM_CNT", 0x118040, [], 0x0, 0x0, [THM_CNT_STEPS, THM_CNT_WARNS]⟩,
  ⟨"THM_NVLOG", 0x118044, [], 0x0, 0x0, [THM_NVLOG_SUPPR, THM_NVLOG_QUEUED, THM_NVLOG_HELD]⟩,
  ⟨"THM_NVLOG_SEQ", 0x118048, [], 0x0, 0x0, [THM_NVLOG_SEQ_SEQ]⟩,
  ⟨"THM_NVLOG_ACK", 0x11804C, [], 0x0, 0x0, [THM_NVLOG_ACK_REF]⟩]

/-- Cards of the PMU block. -/
def cardsPMU : List Card := [
  ⟨"PMU_STAT", 0x20000, [], 0x0, 0x0, [PMU_STAT_AUX_OC, PMU_STAT_AUX_PG, PMU_STAT_VIO_PG, PMU_STAT_VSER_PG, PMU_STAT_VANA_PG, PMU_STAT_VCORE_PG, PMU_STAT_OV, PMU_STAT_VIN_OK]⟩,
  ⟨"PMU_PD_STAT", 0x20004, [], 0x3, 0x0, [PMU_PD_STAT_ON]⟩,
  ⟨"PMU_PD_FUSE", 0x20008, [], 0x0, 0x0, [PMU_PD_FUSE_OFF]⟩,
  ⟨"PMU_BOOT", 0x2000C, [], 0x0, 0x0, [PMU_BOOT_RST_CAUSE, PMU_BOOT_NEXT]⟩,
  ⟨"PMU_BOOTS", 0x20010, [], 0x0, 0x0, [PMU_BOOTS_BOOTS]⟩,
  ⟨"PMU_FUSE", 0x20014, [], 0x0, 0x0, [PMU_FUSE_MISMATCH, PMU_FUSE_CEIL_SET, PMU_FUSE_HASH_SET, PMU_FUSE_SIG_REQ, PMU_FUSE_CRC_OK]⟩]

/-- Cards of the CLK block. -/
def cardsCLK : List Card := [
  ⟨"CLK_STAT", 0x20100, [], 0x0, 0x0, [CLK_STAT_REF_OK, CLK_STAT_C_LOCK, CLK_STAT_H_LOCK, CLK_STAT_T_LOCK, CLK_STAT_C_LOST, CLK_STAT_H_LOST, CLK_STAT_T_LOST]⟩,
  ⟨"CLK_CNT", 0x20104, [], 0x0, 0x0, [CLK_CNT_T_LOSS, CLK_CNT_C_LOSS]⟩]

/-- The register blocks, in the order of R535. -/
inductive Blk where
  | GLB | CMD | PMU | CLK | RFE | TDC | TMB | FIR | HGE | EXT | ZON | SRV | MAD | MFC | EVR | ESF | ETHA | ETHB | TIM | WFL
  | HNG | DMA | CAL | THM
  deriving DecidableEq, Repr

/-- Every register block in the order of R535. -/
def Blk.all : List Blk :=
  [.GLB, .CMD, .PMU, .CLK, .RFE, .TDC, .TMB, .FIR, .HGE, .EXT, .ZON, .SRV, .MAD, .MFC, .EVR, .ESF, .ETHA, .ETHB, .TIM,
   .WFL, .HNG, .DMA, .CAL, .THM]

/-- First address and one past the last address of a block's span (R535). -/
def Blk.span : Blk → Nat × Nat
  | .GLB => (0x00000000, 0x00000100) | .CMD => (0x00010000, 0x00010100) | .PMU => (0x00020000, 0x00020100)
  | .CLK => (0x00020100, 0x00020200) | .RFE => (0x00030000, 0x00038000) | .TDC => (0x00038000, 0x00040000)
  | .TMB => (0x00040000, 0x00043000) | .FIR => (0x00050000, 0x00050200) | .HGE => (0x00060000, 0x00065000)
  | .EXT => (0x00070000, 0x00073000) | .ZON => (0x00080000, 0x00080100) | .SRV => (0x00090000, 0x00098000)
  | .MAD => (0x000A0000, 0x000A1400) | .MFC => (0x000A8000, 0x000A8300) | .EVR => (0x000B0000, 0x000B0500)
  | .ESF => (0x000C0000, 0x000C0100) | .ETHA => (0x000D0000, 0x000D0410) | .ETHB => (0x000D8000, 0x000D8410)
  | .TIM => (0x000E0000, 0x000E0180) | .WFL => (0x000F0000, 0x000F1000) | .HNG => (0x000FC000, 0x000FC100)
  | .DMA => (0x00100000, 0x00100500) | .CAL => (0x00110000, 0x00110100) | .THM => (0x00118000, 0x00118100)

/-- The cards of a block. -/
def Blk.cards : Blk → List Card
  | .GLB => cardsGLB
  | .CMD => cardsCMD
  | .PMU => cardsPMU
  | .CLK => cardsCLK
  | .RFE => cardsRFE
  | .TDC => cardsTDC
  | .TMB => cardsTMB
  | .FIR => cardsFIR0 ++ cardsFIR1
  | .HGE => cardsHGE
  | .EXT => cardsEXT
  | .ZON => cardsZON
  | .SRV => cardsSRV0 ++ cardsSRV1
  | .MAD => cardsMAD
  | .MFC => cardsMFC
  | .EVR => cardsEVR
  | .ESF => cardsESF
  | .ETHA => cardsETHx0 ++ cardsETHx1 ++ cardsETHA
  | .ETHB => cardsETHx0 ++ cardsETHx1
  | .TIM => cardsTIM0 ++ cardsTIM1
  | .WFL => cardsWFL
  | .HNG => cardsHNG
  | .DMA => cardsDMA
  | .CAL => cardsCAL
  | .THM => cardsTHM

/-- The block in whose span an address lies (R535). -/
def blkOf (a : Nat) : Option Blk := Blk.all.find? (fun b => b.span.1 ≤ a && a < b.span.2)

/-- The instance indices of a card that an offset from its first instance names, largest stride first. -/
def dimIndices : List (Nat × Nat) → Nat → Option (List Nat)
  | [], r => if r = 0 then some [] else none
  | (s, c) :: ds, r => if r / s < c then (dimIndices ds (r % s)).map (r / s :: ·) else none

/-- The card and instance indices of a register address; `none` for a reserved or unmapped address. -/
def findCard : List Card → Nat → Option (Card × List Nat)
  | [], _ => none
  | c :: cs, a =>
    if c.addr ≤ a then
      match dimIndices c.dims (a - c.addr) with
      | some ix => some (c, ix)
      | none => findCard cs a
    else findCard cs a

/-- The card and instance indices of a register address; `none` for a reserved or unmapped address. -/
def cardAt (a : Nat) : Option (Card × List Nat) :=
  match blkOf a with
  | some b => findCard b.cards a
  | none => none

/-- The reset value of the register word at an address, 0 where no register stands (R539). -/
def resetWord (a : Nat) : Word :=
  match cardAt a with
  | some (c, ix) => BitVec.ofNat 32 (c.reset + c.step * ix.getLastD 0)
  | none => 0

/-- The bits of a card with one of the given access codes. -/
def Card.mask (c : Card) (p : Acc → Bool) : Nat :=
  c.flds.foldl (fun m f => if p f.acc then m ||| ((2 ^ f.w - 1) <<< f.lo) else m) 0

end Sys2Proof.Machine
end

