-- ==== Sys2Proof/Machine/Bits.lean ====
section
/-! DEFINITION. Bit fields, signed numbers, byte order, sparse tables and checksums used by every block. -/

namespace Sys2Proof.Machine

/-- Bits `lo` upward, `w` of them, of a number. -/
def bits (x lo w : Nat) : Nat := x / 2 ^ lo % 2 ^ w

/-- The number with the `w` bits from `lo` replaced by `v` (taken modulo `2^w`). -/
def withBits (x lo w v : Nat) : Nat := x - bits x lo w * 2 ^ lo + v % 2 ^ w * 2 ^ lo

/-- Whether bit `i` of a number is 1. -/
def bit (x i : Nat) : Bool := x / 2 ^ i % 2 == 1

/-- 1 for true, 0 for false. -/
def b2n (b : Bool) : Nat := if b then 1 else 0

/-- The value of a field in a register word. -/
def Fld.get (f : Fld) (w : Word) : Nat := bits w.toNat f.lo f.w

/-- A register word with one field replaced. -/
def Fld.set (f : Fld) (w : Word) (v : Nat) : Word := BitVec.ofNat 32 (withBits w.toNat f.lo f.w v)

/-- The bits a field occupies. -/
def Fld.mask (f : Fld) : Nat := (2 ^ f.w - 1) * 2 ^ f.lo

/-- The signed value of a `w`-bit two's complement number. -/
def sx (w x : Nat) : Int := if x % 2 ^ w < 2 ^ (w - 1) then (x % 2 ^ w : Nat) else (x % 2 ^ w : Nat) - (2 ^ w : Nat)

/-- The `w`-bit two's complement encoding of an integer, wrapping. -/
def ux (w : Nat) (i : Int) : Nat := (i % (2 ^ w : Nat)).toNat

/-- An integer limited to a closed range. -/
def clampI (lo hi i : Int) : Int := if i < lo then lo else if hi < i then hi else i

/-- An integer limited to the signed `w`-bit range. -/
def satS (w : Nat) (i : Int) : Int := clampI (-(2 ^ (w - 1) : Nat)) ((2 ^ (w - 1) : Nat) - 1) i

/-- A count limited to `w` bits. -/
def satU (w n : Nat) : Nat := if n < 2 ^ w then n else 2 ^ w - 1

/-- Arithmetic right shift, rounding towards minus infinity. -/
def asr (i : Int) (n : Nat) : Int := i / (2 ^ n : Nat)

/-- The number of set bits among the lowest `n`. -/
def popcount : Nat → Nat → Nat
  | 0, _ => 0
  | n + 1, x => b2n (bit x n) + popcount n x

/-- The positions below `n` at which a number has a 1, rising. -/
def bitsSet (n x : Nat) : List Nat := (List.range n).filter (bit x)

/-- The lowest position below `n` at which a number has a 1, or `n`. -/
def lowestSet (n x : Nat) : Nat := (bitsSet n x).headD n

/-- The number whose set bits are the listed positions. -/
def bitsOf (l : List Nat) : Nat := l.foldl (fun m i => m ||| 2 ^ i) 0

/-- Integer square root of a number below `4^n`, rounded down. -/
def isqrtGo : Nat → Nat → Nat → Nat
  | 0, _, r => r
  | k + 1, x, r => isqrtGo k x (if (r + 2 ^ k) * (r + 2 ^ k) ≤ x then r + 2 ^ k else r)

/-- Integer square root of a number below `2^64`, rounded down. -/
def isqrt (x : Nat) : Nat := isqrtGo 32 x 0

/-! ### Bytes, little-endian unless said otherwise (R13) -/

/-- The `n` little-endian bytes of a number (R13). -/
def leBytes : Nat → Nat → List Byte
  | 0, _ => []
  | n + 1, x => BitVec.ofNat 8 x :: leBytes n (x / 256)

/-- The number that little-endian bytes spell (R13). -/
def leNat : List Byte → Nat
  | [] => 0
  | b :: bs => b.toNat + 256 * leNat bs

/-- The `n` big-endian bytes of a number. -/
def beBytes (n x : Nat) : List Byte := (leBytes n x).reverse

/-- The number that big-endian bytes spell. -/
def beNat (bs : List Byte) : Nat := leNat bs.reverse

/-- `n` bytes of a byte string from an offset; shorter where the string ends. -/
def slice (bs : List Byte) (off n : Nat) : List Byte := (bs.drop off).take n

/-- The little-endian number of `n` bytes at an offset. -/
def leAt (bs : List Byte) (off n : Nat) : Nat := leNat (slice bs off n)

/-- `n` zero bytes. -/
def zeros (n : Nat) : List Byte := List.replicate n 0

/-- Whether every byte of a string is zero. -/
def allZero (bs : List Byte) : Bool := bs.all (· == 0)

/-- Four little-endian bytes of a register word. -/
def wordBytes (w : Word) : List Byte := leBytes 4 w.toNat

/-! ### Checksums -/

/-- One bit of a reflected CRC with polynomial `p`. -/
def crcRStep (p c : Nat) : Nat := if c % 2 = 1 then (c / 2) ^^^ p else c / 2

/-- One byte of a reflected CRC with polynomial `p`. -/
def crcRByte (p c : Nat) (b : Byte) : Nat :=
  let c0 := c ^^^ b.toNat
  crcRStep p (crcRStep p (crcRStep p (crcRStep p (crcRStep p (crcRStep p (crcRStep p (crcRStep p c0)))))))

/-- CRC-32C: polynomial 0x1EDC6F41 reflected, initial value and final XOR 0xFFFFFFFF (R361). -/
def crc32c (bs : List Byte) : Nat := (bs.foldl (crcRByte 0x82F63B78) 0xFFFFFFFF) ^^^ 0xFFFFFFFF

/-- One bit of the CRC-8 of a control block: polynomial 0x07 (R392). -/
def crc8Step (c : Nat) : Nat := if 128 ≤ c then (c * 2 % 256) ^^^ 7 else c * 2

/-- One byte of the CRC-8 of a control block. -/
def crc8Byte (c : Nat) (b : Byte) : Nat :=
  crc8Step (crc8Step (crc8Step (crc8Step (crc8Step (crc8Step (crc8Step (crc8Step (c ^^^ b.toNat))))))))

/-- The CRC-8 of a control block: initial value 0xFF, not reflected, no final XOR (R392). -/
def crc8 (bs : List Byte) : Nat := bs.foldl crc8Byte 0xFF

/-- One bit of the safe-report CRC (R336). -/
def crcSafeStep (c : Nat) : Nat :=
  if 0x80000000 ≤ c then (c * 2 % 0x100000000) ^^^ 0xF4ACFB13 else c * 2

/-- One byte of the safe-report CRC (R336). -/
def crcSafeByte (c : Nat) (b : Byte) : Nat :=
  let c0 := c ^^^ (b.toNat * 0x1000000)
  crcSafeStep (crcSafeStep (crcSafeStep (crcSafeStep (crcSafeStep (crcSafeStep (crcSafeStep (crcSafeStep c0)))))))

/-- The safe-report CRC of R336: polynomial 0xF4ACFB13, not reflected. -/
def crcSafe (bs : List Byte) : Nat := (bs.foldl crcSafeByte 0xFFFFFFFF) ^^^ 0xFFFFFFFF

/-! ### Sparse tables

A table over natural keys is a list of pairs with strictly rising keys that holds no pair equal to what an unlisted key
reads as, so that equal tables are equal lists. -/

/-- The pair stored for a key. -/
def Sp.find {α : Type} : List (Nat × α) → Nat → Option α
  | [], _ => none
  | (a, v) :: t, k => if k = a then some v else Sp.find t k

/-- What a table reads as at a key; `d` gives what unlisted keys read as. -/
def Sp.get {α : Type} (d : Nat → α) (m : List (Nat × α)) (k : Nat) : α := (Sp.find m k).getD (d k)

/-- A table with a pair inserted or replaced in key order. -/
def Sp.ins {α : Type} : List (Nat × α) → Nat → α → List (Nat × α)
  | [], k, v => [(k, v)]
  | (a, x) :: t, k, v => if k < a then (k, v) :: (a, x) :: t else if k = a then (k, v) :: t else (a, x) :: Sp.ins t k v

/-- A table without the pair of a key. -/
def Sp.del {α : Type} : List (Nat × α) → Nat → List (Nat × α)
  | [], _ => []
  | (a, x) :: t, k => if k = a then t else (a, x) :: Sp.del t k

/-- A table after a write: writing what an unlisted key reads as removes the pair. -/
def Sp.put {α : Type} [DecidableEq α] (d : Nat → α) (m : List (Nat × α)) (k : Nat) (v : α) : List (Nat × α) :=
  if v = d k then Sp.del m k else Sp.ins m k v

/-- The canonical form: keys strictly rising and no pair equal to the default of its key. -/
def Sp.wf {α : Type} [DecidableEq α] (d : Nat → α) : List (Nat × α) → Bool
  | [] => true
  | (a, v) :: t => decide (v ≠ d a) && t.all (fun p => decide (a < p.1)) && Sp.wf d t

/-- A table without the pairs whose key a test drops. -/
def Sp.drop {α : Type} (p : Nat → Bool) (m : List (Nat × α)) : List (Nat × α) := m.filter (fun kv => !p kv.1)

end Sys2Proof.Machine
end

