-- ==== Sys2Proof/Machine/State.lean ====
section
/-! DEFINITION. The state of the device: the register file, the memory windows, and every piece of internal state the spec
gives a block, as plain data. Field defaults are the values after reset. -/

namespace Sys2Proof.Machine

/-- Faults. No command of this device stops the machine, so no command raises one and the type has no constructor. -/
inductive Fault where
  deriving DecidableEq, Repr

/-- Refusals. -/
inductive Refusal where
  /-- Raised by an arm of `exec` whose command has no meaning yet; it changes nothing, so it is safe. -/
  | notModelled (mnemonic : String)
  deriving DecidableEq, Repr

/-- The top-level device states, with their codes in R66. -/
inductive DevState where
  | off | boot | idle | primed | scanning | hold | thermalHold | fault
  deriving DecidableEq, Repr

/-- The four clocks and what steers them (R369). `now` is the device timeline in ticks of 15.625 ps since power-up; `tbs`
is TBS in 2^-32 ticks; `tbl` is TBL in ticks of 1/64 ns; network bases are in 2^-48 ns. -/
structure TimeSt where
  now : Nat := 0
  tbsStarted : Bool := false
  tbs : Nat := 0
  tblStarted : Bool := false
  tbl : Nat := 0
  net : List (Nat × Nat) := []
  anchors : List (Nat × Nat × Nat) := []
  ppsLast : Option Nat := none
  freqGoodSince : Option Nat := none
  lastFreqAt : Nat := 0
  xchkRun : Nat := 0
  txts : List (List Byte) := []
  ppsOutUntil : Nat := 0
  evOutUntil : List (Nat × Nat) := []
  evOutNext : List (Nat × Nat) := []
  deriving DecidableEq, Repr

/-- One PTP engine (R376–R379): its configuration beyond TIM_TBx_STATE, and its filter state. `slew` is the phase correction in
2^-48 ns per tick that runs until `slewUntil`. -/
structure Ptp where
  prio1 : Nat := 128
  prio2 : Nat := 128
  logSync : Int := 0
  logAnnounce : Int := 1
  logDelay : Int := 0
  stepLimit : Nat := 200
  good : Nat := 0
  outliers : Nat := 0
  rawLast : Int := 0
  rawGood : Nat := 0
  slew : Int := 0
  mpdValid : Bool := false
  master : Option (List Byte) := none
  seq : Nat := 0
  delayPending : Bool := false
  nbrRatio : Int := 0
  slewUntil : Nat := 0
  syncAt : Option Nat := none
  annAt : Option Nat := none
  deriving DecidableEq, Repr

/-- Pin levels: inputs as the device receives them, outputs as it drives them (R514). -/
structure Pins where
  vinMv : Nat := 24000
  porstN : Bool := true
  resetN : Bool := true
  refclk : Bool := true
  permitA : Bool := false
  permitB : Bool := false
  coverN : Bool := true
  hgFaultOthers : Bool := false
  hgFaultDrive : Bool := false
  hgSyncOut : Bool := false
  hgTrigOut : Bool := false
  hgId : Nat := 0
  gpioIn : Nat := 0
  gpioOut : Nat := 0
  quadA : Bool := true
  quadB : Bool := true
  ppsOut : Bool := false
  ehs : Bool := false
  els : Bool := false
  ready : Bool := false
  irq0 : Bool := false
  irq1 : Bool := false
  extest : Bool := false
  deriving DecidableEq, Repr

/-- A reply packet (R34–R36): the request it answers, and its trailer where the request was authenticated. -/
structure Reply where
  req : Req
  opc : Nat
  status : Nat
  detail : Nat
  data : List Byte
  auth : Bool
  trailer : List Byte
  deriving DecidableEq, Repr

/-- An event packet (R61–R64): event number, sequence number, TBL, GLB_STATE and the event's own data. -/
structure Event where
  num : Nat
  seq : Nat
  tbl : Nat
  glb : Word
  data : List Byte
  deriving DecidableEq, Repr

/-- A packet in the command queue (R39). -/
structure Packet where
  req : Req
  opc : Nat
  payload : List Byte
  deriving DecidableEq, Repr

/-- An open session on a transport (R43, R44): nonce, counter and bytes of the last accepted request, its reply. -/
structure Session where
  nonce : BitVec 64
  ctr : Nat := 0
  key : Nat := 0
  lastReq : List Byte := []
  lastReply : Option Reply := none
  deriving DecidableEq, Repr

/-- The read-snapshot shadow of an access path (R73): the low word's address, and the words of the pair or group at its read, low word
first. -/
structure Shadow where
  pair : Option Nat := none
  words : List Word := []
  torn : Bool := false
  miss : Bool := false
  deriving DecidableEq, Repr

/-- Deferred work: the request that was answered ACCEPTED_DEFERRED (R64). `gap` marks work that waits for a frame gap, and `inGap`
work that was accepted during one and so waits for the next (R20). -/
structure Job where
  req : Req
  opc : Nat
  arg : Nat := 0
  gap : Bool := false
  inGap : Bool := false
  deriving DecidableEq, Repr

/-- The command processor (chapter 02). Of the HSPI receive FIFO: whole packets held back, the packet being received, and how many bytes
the FIFO holds back; `lastRead` is the word the last read of an RS pair returned, and `miso` what the last HSPI transaction returned, wait
bytes left out. -/
structure Cmd where
  queue : List Packet := []
  rxq : List (List Byte) := []
  rx : List Byte := []
  rxHeld : Nat := 0
  replies : List Reply := []
  lastReply : Option Reply := none
  alerts : List Event := []
  notices : List Event := []
  sessHspi : Option Session := none
  sessUdp : Option Session := none
  keys : List (List Byte) := []
  keyValid : Nat := 0
  dest : Option (Port × Ip × Nat × Nat) := none
  jobs : List Job := []
  dumpId : Nat := 0
  dump : Option (List Byte) := none
  dumpStart : Nat × Nat × Nat := (0, 0, 0)
  shHspi : Shadow := {}
  shCmd : Shadow := {}
  shDma : List (Nat × Shadow) := []
  holdReq : Option Req := none
  lastRead : Word := 0
  miso : List Byte := []
  deriving DecidableEq, Repr

/-- The fuse array (R494). -/
structure Fuses where
  variant : Nat := 1
  revision : Nat := 0xB0
  blMax : Nat := 2
  serial : Nat := 0
  keySeed : Nat := 0
  warn : Nat := 1760
  throttle : Nat := 1920
  shutdown : Nat := 2160
  crcGood : Bool := true
  ceilings : List (Nat × Nat) := []
  floors : List (Nat × Nat) := []
  keyHash : List Byte := List.replicate 32 0
  sigReq : Bool := false
  deriving DecidableEq, Repr

/-- A section-table entry of an image (R498). -/
structure Section where
  typ : Nat
  optional : Bool
  off : Nat
  len : Nat
  crc : Nat
  deriving DecidableEq, Repr

/-- A flash operation in progress (R507, R508). -/
inductive FlashOp where
  | erase (addr count : Nat)
  | write (addr : Nat) (data : List Byte)
  | verify (slot : Nat)
  deriving DecidableEq, Repr

/-- Power, reset, boot and flash state (chapter 18). `off` is the OFF state, `thermalOff` OFF after row 2 of R66. -/
structure Boot where
  off : Bool := false
  thermalOff : Bool := false
  vinOk : Bool := true
  inReset : Bool := false
  nvNext : Nat := 0
  nvBoots : Nat := 0
  fuses : Fuses := {}
  shadows : Fuses := {}
  flashSize : Nat := 0
  flash : List Host.Cell := []
  flashOps : List FlashOp := []
  checked : List (Nat × Nat) := []
  booted : Option Nat := none
  recovery : Bool := false
  image : List Byte := []
  imageVersion : Nat := 0
  retained : List (Nat × Nat × Nat) := []
  streamId : Nat := 0
  sysName : List Byte := []
  oui : List Byte := []
  switching : Option (Nat × Bool × Req) := none
  pllLostAt : Option Nat := none
  deriving DecidableEq, Repr

/-- The switch walk in progress (R315): 1 step 0, 2 step A, 3 step B; when its step's guard pair is requested, that pair (VRES,
VMID) once it has arrived, and the recorded VRES values. -/
structure Walk where
  step : Nat
  asked : Nat
  pair : Option (Int × Int) := none
  vres0 : Int := 0
  vresA : Int := 0
  deriving DecidableEq, Repr

/-- The emission-safety monitor (chapter 12) beyond its registers. -/
structure Esf where
  armed : Bool := false
  walkFailed : Bool := false
  walk : Option Walk := none
  histClear : Bool := false
  charging : Bool := false
  reservoir : Bool := false
  failRun : Nat := 0
  guard : Option (Int × Int × Nat) := none
  switchClean : Bool := true
  causeAt : List (Nat × Nat) := []
  condSince : List (Nat × Nat) := []
  firstClosed : Option (Bool × Nat) := none
  diffSince : Option Nat := none
  charges : List (Nat × Nat) := []
  slots : List (Nat × Nat) := []
  deriving DecidableEq, Repr

/-- A safety-command copy in a pending slot (R340). -/
structure SafeCopy where
  req : Req
  payload : List Byte
  tbl : Nat
  deriving DecidableEq, Repr

/-- The zone evaluator (chapter 12) beyond its registers. -/
structure Zon where
  slotA : Option SafeCopy := none
  slotB : Option SafeCopy := none
  hits : List (Nat × Nat) := []
  doubt : List (Nat × Nat) := []
  outCols : List Nat := []
  lastFlags : Bool := false
  health12 : Bool := false
  cmpFail : Bool := false
  frameState : List (Nat × Nat) := []
  occAt : List (Nat × Nat) := []
  evalAt : Option Nat := none
  evalFrame : Option Nat := none
  due : Option Nat := none
  reportAt : Option Nat := none
  deriving DecidableEq, Repr

/-- The queue class of a frame to transmit (R349, R387). -/
inductive TxClass where
  | time | safe | mgmt | stream
  | timed (q : Nat)
  deriving DecidableEq, Repr

/-- A frame waiting for transmission; on a timed queue its launch time in 2^-48 ns of its time base, the policy and stamping in
force when it was queued, and its stamp identity (R383, R385, R386). -/
structure TxEntry where
  cls : TxClass
  frame : Frame
  launch : Nat := 0
  tb : Nat := 0
  late : Bool := false
  drop : Bool := false
  stamp : Bool := false
  ident : Nat := 0
  msg : Option Nat := none
  deriving DecidableEq, Repr

/-- One neighbour's ARP or ND entry (R353). -/
structure ArpEntry where
  ip : Ip
  mac : Nat
  at_ : Nat
  deriving DecidableEq, Repr

/-- One backbone port (chapter 13) beyond its registers: the settings in force since the last rise of EN, queues, caches. -/
structure Eth where
  live : List (Nat × Nat) := []
  txq : List TxEntry := []
  sending : Option TxEntry := none
  sendEnd : Nat := 0
  sent : Option Frame := none
  arp : List ArpEntry := []
  resolving : List (Ip × Nat) := []
  lease : Option (Nat × Nat × Nat) := none
  leaseEnd : Nat := 0
  leaseT1 : Nat := 0
  leaseT2 : Nat := 0
  dhcpState : Nat := 0
  dad : List Nat := []
  llaBad : Bool := false
  gBad : Bool := false
  echoWindow : Nat := 0
  echoCount : Nat := 0
  credit : Int := 0
  creditAt : Nat := 0
  lldpAt : Nat := 0
  nbrEnd : List (Nat × Nat) := []
  deriving DecidableEq, Repr

/-- An open stream message (R358–R362): payload items so far, and whether its reservation held. -/
structure OpenMsg where
  seq : Nat
  tfirst : Nat
  body : List Byte
  columns : Nat
  cont : Bool
  dropped : Bool
  limit : Nat
  openedAt : Nat
  deriving DecidableEq, Repr

/-- The packetizer and the PRP node (chapter 13). -/
structure Pkt where
  msg : Option OpenMsg := none
  held : List (Nat × Nat × Nat) := []
  nextId : Nat := 0
  prpSeq : Nat := 0
  prpSeen : List (Nat × Nat × Nat) := []
  deriving DecidableEq, Repr

/-- Thermal management and the NV log (chapter 17). `nv` is the 8 KiB array; `sensorAt` the arrival time of each reading, `onAt` when
PD00 powered up, `hot` the throttle level of R473. -/
structure Thm where
  nv : List Host.Cell := []
  queue : List (List Byte) := []
  writes : List Nat := []
  sensorAt : List (Nat × Nat) := []
  thrAt : Nat := 0
  nvSeq : Nat := 0
  onAt : Nat := 0
  hot : Bool := false
  deriving DecidableEq, Repr

/-- A column being fired or awaiting its close: its entry's fields, what R140 and R141 make of them, and its descriptor. -/
structure Column where
  serial : Nat
  entry : Nat
  frame : Nat
  start : Nat
  period : Nat
  shots : Nat
  coarse : Nat
  fired : Nat := 0
  interval : Nat
  segmask : Nat
  dspan : Nat
  pset : Nat
  lfsr : Nat := 0
  fold : Nat := 0
  stolen : Bool := false
  silent : Bool := false
  allocCut : Bool := false
  trunc : Bool := false
  set : Nat := 0
  tFirst : Option Nat := none
  azimuth : Nat := 0
  windowEnd : Nat := 0
  placed : Bool := false
  amb : List (Nat × Nat) := []
  span : Nat := 0
  miss : Bool := false
  dir : Nat := 0
  profile : Nat := 0
  deriving DecidableEq, Repr

/-- A shot: its column and index, dither code, commanded edge and fire time; `recorded` once its shot record is passed. -/
structure Shot where
  serial : Nat
  set : Nat
  ix : Nat
  dither : Nat
  segmask : Nat
  edge : Nat
  fire : Nat
  recorded : Bool := false
  closed : Bool := false
  zoom : Bool := false
  entry : Nat := 0
  miss : Bool := false
  tot : Nat := 0
  width : List (Nat × Nat) := []
  sector : Nat := 0
  deriving DecidableEq, Repr

/-- The fire sequencer (chapter 05) beyond its registers. `held` keeps the setting in force of a register written in
SCANNING that takes effect later (R107, R126, R146, R180, R183). -/
structure Fir where
  column : Option Column := none
  closing : List Column := []
  nextEntry : Nat := 0
  prevStart : Option (Nat × Nat) := none
  frameOpen : Bool := false
  frameEnd : Option Nat := none
  entered : Nat := 0
  prevEdge : Option Nat := none
  keyPending : Option (Nat × Bool) := none
  sched : Option (Nat × Nat) := none
  serial : Nat := 0
  shots : List Shot := []
  pulses : List (Nat × Nat × Nat) := []
  held : List (Nat × Word) := []
  holding : Bool := false
  syncUntil : Nat := 0
  starts : List Nat := []
  events : List (Nat × Nat) := []
  go : Option Nat := none
  waited : Bool := false
  shortAlloc : Bool := true
  counts : List (Nat × Nat × Bool) := []
  nextCounts : Option (List (Nat × Nat × Bool)) := none
  figures : List (Nat × Nat × Nat × Nat) := []
  azRec : List (Nat × Nat) := []
  allocDue : Bool := false
  nextBudget : Nat × Nat := (0, 0)
  chargedAt : Nat := 0
  anyFired : Bool := false
  lastClose : Nat := 0
  deriving DecidableEq, Repr

/-- One notch's states in direct form I: x1, x2, y1, y2 (R235). -/
structure Notch where
  x1 : Int := 0
  x2 : Int := 0
  y1 : Int := 0
  y2 : Int := 0
  deriving DecidableEq, Repr

/-- The nodes of a loop's last sample that the trace records (R247), with its verdict inputs. -/
structure Nodes where
  sp : Int := 0
  fb : Int := 0
  e : Int := 0
  p : Int := 0
  d : Int := 0
  ff : Int := 0
  u0 : Int := 0
  u1 : Int := 0
  u2 : Int := 0
  u : Int := 0
  code : Int := 0
  deriving DecidableEq, Repr

/-- One control loop (chapter 09) beyond its registers: `fresh` until a valid sample since it started, `auto` while its last
valid sample was in AUTO; its trajectory's entry, sample, and the LEN and STEP in force; `tick` is the tick of its last sample. -/
structure Loop where
  running : Bool := false
  fresh : Bool := true
  auto : Bool := false
  i : Int := 0
  notch0 : Notch := {}
  notch1 : Notch := {}
  hitHi : Bool := false
  hitLo : Bool := false
  invalid : Nat := 0
  entry : Nat := 0
  samp : Nat := 0
  len : Nat := 0
  step : Nat := 1
  gate : Bool := false
  tick : Nat := 0
  last : Nodes := {}
  deriving DecidableEq, Repr

/-- The servo engine (chapter 09) beyond its registers: ticks since it started and the time of the last one, azimuth filter and
the last sample delivered to the fire sequencer, tick results, index edges since it started (newest first) and the last edge
of all, runs of verdicts, the ramp to SAFE, codes of the sinks (0–3 DACs, 4–7 PWMs), and the trace. -/
structure Srv where
  running : Bool := false
  ticks : Nat := 0
  tickAt : Nat := 0
  loops : List (Nat × Loop) := []
  azPrev : Option Nat := none
  rateF : Int := 0
  azValid : Option (Nat × Int × Nat) := none
  results : List (Nat × Int) := []
  idxTimes : List Nat := []
  idxLast : Option Nat := none
  goodRun : Nat := 0
  badRun : Nat := 0
  rampLeft : Option Nat := none
  rampFrom : List (Nat × Nat) := []
  sinks : List (Nat × Nat) := []
  frozen : Bool := false
  trcSkip : Nat := 0
  trcCount : Nat := 0
  trcAfter : Nat := 0
  trcPrev : Int := 0
  trcPend : Bool := false
  deriving DecidableEq, Repr

/-- How a calibration procedure runs (R459–R461). -/
inductive CalMode where
  | direct | gap | steal
  deriving DecidableEq, Repr

/-- The calibration procedure in progress (chapter 17). -/
structure CalRun where
  proc : Nat
  fref : Bool
  segs : Nat
  mask : Nat
  mode : CalMode
  started : Bool := false
  steps : Nat := 0
  gaps : Nat := 0
  eligible : Nat := 0
  barren : Nat := 0
  frameHad : Bool := false
  skew : List (Nat × Int × Nat × Nat) := []
  gains : List (Nat × Nat × Nat) := []
  columns : Nat := 0
  rot : Nat := 0
  window : Option (Nat × Nat) := none
  deriving DecidableEq, Repr

/-- The outcome of a procedure's last end (R466). -/
structure CalEnd where
  status : Nat := 0xFFFF
  detail : Nat := 0
  runs : Nat := 0
  tbl : Nat := 0
  q0 : Nat := 0
  q1 : Nat := 0
  deriving DecidableEq, Repr

/-- The calibration block (chapter 17) beyond its registers; the retained set is held by register address (R469). -/
structure Cal where
  run : Option CalRun := none
  ends : List (Nat × CalEnd) := []
  kept : List (Nat × Word) := []
  keptD : List (Nat × Int) := []
  empty : Bool := true
  deriving DecidableEq, Repr

/-- An event (R93, R113): input or primary channel, corrected TBS time, ToT, flags and number of participating events. -/
structure Ev where
  chan : Nat
  time : Nat
  tot : Nat
  sat : Bool := false
  tpi : Bool := false
  hits : Nat := 1
  deriving DecidableEq, Repr

/-- The histogram engine (chapter 06) beyond its registers and bins: the descriptor of the column in each set, the crossing
FIFO of each bank, update credits with the count at which each was set, last admissions, candidate trackers, error marks of
memory words (1 single, 2 double) and the uncorrectable words met in the present columns. -/
structure Hge where
  descs : List (Nat × Column) := []
  fifo : List (Nat × List Ev) := []
  credits : List (Nat × Nat × Nat) := []
  creditZero : Nat := 0
  admitted : List (Nat × Nat) := []
  tracks : List (Nat × List (Nat × Nat)) := []
  ecc : List (Nat × Nat) := []
  met : List (Nat × Nat) := []
  stash : Option (Nat × Nat × Nat × List Host.Cell) := none
  nextSet : Nat := 0
  deriving DecidableEq, Repr

/-- A pulse in progress on an input: corrected leading edge, whether dead time ignores it, whether R88 already wrote it. -/
structure Pulse where
  lead : Nat
  dead : Bool := false
  written : Bool := false
  deriving DecidableEq, Repr

/-- An open capture window of a fire reference (R98, R99): its shot, its span on TBS and the first edge with its ToT. -/
structure FWin where
  k : Nat
  serial : Nat
  ix : Nat
  edge : Nat
  first : Nat
  last : Nat
  primary : Bool
  hit : Option (Nat × Nat) := none
  deriving DecidableEq, Repr

/-- The return inputs, the converters, the fire references and the injector (chapter 03) beyond their registers. -/
structure Tdc where
  pulses : List (Nat × Pulse) := []
  leadAt : List (Nat × Nat) := []
  leads : List (Nat × List Nat) := []
  fifo : List (Nat × List Ev) := []
  taken : List (Nat × Nat) := []
  rgnd : List Nat := []
  windows : List FWin := []
  missRun : List (Nat × Nat) := []
  injAt : Option Nat := none
  inj : List (Nat × Nat) := []
  deriving DecidableEq, Repr

/-- An event inside the Tumbler: when it entered, and whether it has been decided (R112, R114). -/
structure TEv where
  ev : Ev
  entry : Nat
  decided : Bool := false
  deriving DecidableEq, Repr

/-- The group units (chapter 04) beyond their registers: events by group, the time of the previous candidate and of the last
output by primary channel, and the gate to be counted as (end, length, stolen). -/
structure Tmb where
  pool : List (Nat × List TEv) := []
  prevCand : List (Nat × Nat) := []
  lastOut : List (Nat × Nat) := []
  gate : Option (Nat × Nat × Bool) := none
  latched : Bool := false
  freeAt : Nat := 0
  deriving DecidableEq, Repr

/-- One DMA channel (chapter 16) beyond its registers: a request kept, the held watermark request, whether a byte has moved
since EN rose, the holding register, and the bytes read and written in this lap. -/
structure DmaCh where
  pend : Bool := false
  held : Bool := false
  moved : Bool := false
  reg : List Byte := []
  src : Nat := 0
  dst : Nat := 0
  timerAt : Nat := 0
  deriving DecidableEq, Repr

/-- The DMA engine (chapter 16) beyond its registers: channels, sample queues, QFILT SEQ and the channel served last. -/
structure Dma where
  ch : List (Nat × DmaCh) := []
  qmon : List Nat := []
  qfilt : List Nat := []
  seq : Nat := 0
  last : Nat := 15
  deriving DecidableEq, Repr

/-- A cascade message (R408, R410): its class, source and destination, class header and body; `crcOk` is false on a message that
is being forwarded with an error. -/
structure Msg where
  cls : Nat
  src : Nat
  dst : Nat
  hdr : List Byte
  body : List Byte
  crcOk : Bool := true
  deriving DecidableEq, Repr

/-- One Weft link (chapter 15) beyond its registers: when it entered its state, when its bring-up timer began, the last ALIGN set,
the last attempts of what it repeats, when an XOFF began, messages that wait for XON, the last message and block it sent, the lane
bits to invert, and the test under way as (KIND, LANES, end time). -/
structure Link where
  since : Nat := 0
  upAt : Nat := 0
  align : Option (Nat × List Nat) := none
  tryAt : Nat := 0
  capxAt : Nat := 0
  kaAt : Nat := 0
  xoffAt : Option Nat := none
  txq : List Msg := []
  sent : Option Msg := none
  block : List Byte := []
  inj : Nat := 0
  test : Option (Nat × Nat × Nat) := none
  deriving DecidableEq, Repr

/-- What a head knows of a member from its last STATUS (R410, R412, R415): when it came, TABLE_ID, last frame acknowledged, and
the STATUS word. -/
structure Member where
  seen : Nat
  tableId : Nat
  ack : Nat
  word : Nat
  deriving DecidableEq, Repr

/-- The cascade (chapter 15) beyond its registers: the FRAME a member holds; the FRAME a head has sent, the device time its wait
ends with the members that have acknowledged it, and whether one is due; what members report; the Hinge calibration (its times on the
head's TBS and the stamps so far); the filter of R418; remote reads under way; and the last TAP_MARK. -/
structure Cas where
  held : Option (Nat × Nat × List (Nat × Bool)) := none
  sent : Option Nat := none
  await : Option (Nat × List Nat) := none
  due : Bool := false
  members : List (Nat × Member) := []
  thr : List (Nat × Nat) := []
  headroom : List (Nat × List Nat) := []
  ack : Nat := 0
  statusAt : Nat := 0
  refused : Option Nat := none
  hcalUntil : Nat := 0
  hcalDue : Bool := true
  hcalTimes : List Nat := []
  hcalSync : List Nat := []
  hcalTrig : List Nat := []
  reqAt : Nat := 0
  t1 : Option Nat := none
  ta : Nat := 0
  rate : Int := 0
  n : Int := 0
  outl : Nat := 0
  reads : List (Req × Nat × Nat) := []
  markAt : Nat := 0
  deriving DecidableEq, Repr

/-- A column's output on its way to packet memory (R205–R207): its header and records, and the figures of R193. -/
structure OutCol where
  column : Nat
  frame : Nat
  header : List Byte
  records : List (List Byte)
  noecho : Nat
  lowconf : Nat
  far : Nat
  veil : Nat
  usable : Bool
  deriving DecidableEq, Repr

/-- Extraction (chapter 07) beyond its registers: the set being refined with its output, and the output crossing. -/
structure Ext where
  busy : Option (Nat × OutCol) := none
  stalled : Bool := false
  out : List OutCol := []
  deriving DecidableEq, Repr

/-- One filter chain (R265, R266): integrators and combs modulo 2^56, decimation phase, FIR line (newest first), outputs since
the last synchronising reset, and the latest rounded output the servo sees with its VALID. -/
structure Chain where
  acc : List Nat := []
  comb : List Nat := []
  phase : Nat := 0
  line : List Int := []
  outs : Nat := 0
  y16 : Int := 0
  valid : Bool := false
  deriving DecidableEq, Repr

/-- The monitor ADC and the filter chains (chapter 10) beyond their registers: when the reference buffer went on, when each
converter is free, the sequencer's next due time, the injected conversion under way as (converter, CODE, DIFF, completion), the
next guard due and an immediate request, trigger events not yet met by the sequencer, and inputs on their way to chains. -/
structure Mad where
  refOn : Option Nat := none
  free : List (Nat × Nat) := []
  seqDue : Nat := 0
  inj : Option (Nat × Nat × Bool × Nat) := none
  guardDue : Nat := 0
  guardReq : Option Nat := none
  triggers : List (Nat × Nat) := []
  timerAt : Nat := 0
  xfill : List (Nat × Nat) := []
  inputs : List (Nat × Int) := []
  chains : List (Nat × Chain) := []
  deriving DecidableEq, Repr

/-- A sample that waits for a mask's test: mask, value, TBS time, channel of a window level, and envelope segment (R293–R295). -/
structure MaskSample where
  mask : Nat
  value : Int
  time : Nat
  chan : Nat
  seg : Nat
  deriving DecidableEq, Repr

/-- An open loss episode of a recorder stream: first and last loss on TBS, items lost, and when it began (R281). -/
structure Loss where
  first : Nat
  last : Nat
  lost : Nat
  began : Nat
  deriving DecidableEq, Repr

/-- An item the raw tap has taken: an event word, or the 14 bytes of a TAP_SHOT (R426). -/
inductive TapItem where
  | event (word : Nat)
  | shot (bytes : List Byte)
  deriving DecidableEq, Repr

/-- The event recorder (chapter 11) beyond its registers and memory: items of each stream on their way, as word A and word B or
as the bytes of a row; the capture's units, units before the trigger, units still to write and rows; segment times; triggers not
yet met; open loss episodes; and the masks' references and last verdicts. -/
structure Evr where
  clearing : Bool := false
  payload : Option (List Nat) := none
  fill : Nat := 0
  before : Nat := 0
  left : Nat := 0
  rows : List (Nat × Nat) := []
  endAt : Nat := 0
  freeAt : List (Nat × Nat) := []
  evq : List (Nat × Nat) := []
  monq : List (Nat × Nat) := []
  rowq : List (List Byte) := []
  triggers : List (Nat × Nat) := []
  lossE : Option Loss := none
  lossM : Option Loss := none
  refs : List (Nat × Nat) := []
  mskFrom : List (Nat × Nat) := []
  mskPass : List (Nat × Bool) := []
  samples : List MaskSample := []
  tap : List TapItem := []
  hgTrigUntil : Nat := 0
  deriving DecidableEq, Repr


/-- The whole state of the device and the queue of waiting commands. -/
structure State where
  pending : List Instr := []
  regs : List (Nat × Word) := []
  mem : List Host.Cell := []
  draws : Nat := 0
  tm : TimeSt := {}
  ptpA : Ptp := {}
  ptpB : Ptp := {}
  pin : Pins := {}
  cmd : Cmd := {}
  boot : Boot := {}
  esf : Esf := {}
  zon : Zon := {}
  ethA : Eth := {}
  ethB : Eth := {}
  pkt : Pkt := {}
  thm : Thm := {}
  fir : Fir := {}
  srv : Srv := {}
  cal : Cal := {}
  hge : Hge := {}
  tdc : Tdc := {}
  tmb : Tmb := {}
  dma : Dma := {}
  cas : Cas := {}
  ext : Ext := {}
  mad : Mad := {}
  evr : Evr := {}
  wfl : List (Nat × Link) := []
  deriving DecidableEq, Repr

/-- The device right after reset: row 3 of R66 has just taken it to BOOT, STAGE 0x01, every register at its reset value,
nothing in memory and no command waiting. [DESIGN CHOICE, log 1] -/
def State.reset : State := {}

end Sys2Proof.Machine
end

