-- ==== Sys2Proof/Machine/Ops.lean ====
section
/-! DEFINITION. Named operations over registers, memory windows, time bases and power domains, shared by every family. -/

namespace Sys2Proof.Machine

open Reg

/-! ### Registers -/

/-- The register word held at an address (its reset value where nothing else has been written). -/
def State.rd (s : State) (a : Nat) : Word := Sp.get resetWord s.regs a

/-- The state with a register word written. -/
def State.wr (s : State) (a : Nat) (w : Word) : State := { s with regs := Sp.put resetWord s.regs a w }

/-- The value of a field of the register at an address. -/
def State.f (s : State) (a : Nat) (fld : Fld) : Nat := fld.get (s.rd a)

/-- Whether a one-bit field of the register at an address is 1. -/
def State.fb (s : State) (a : Nat) (fld : Fld) : Bool := s.f a fld != 0

/-- The state with a field of a register replaced. -/
def State.setF (s : State) (a : Nat) (fld : Fld) (v : Nat) : State := s.wr a (fld.set (s.rd a) v)

/-- The state with `n` added to a counter field, saturating at its width. -/
def State.addSat (s : State) (a : Nat) (fld : Fld) (n : Nat) : State := s.setF a fld (satU fld.w (s.f a fld + n))

/-- The state with `n` added to a counter field, wrapping at its width. -/
def State.addWrap (s : State) (a : Nat) (fld : Fld) (n : Nat) : State := s.setF a fld (s.f a fld + n)

/-- The state with a 64-bit value in a low and a high word. -/
def State.wr64 (s : State) (lo hi : Nat) (v : Nat) : State :=
  (s.wr lo (BitVec.ofNat 32 v)).wr hi (BitVec.ofNat 32 (v / 2 ^ 32))

/-- The 64-bit value of a low and a high word. -/
def State.rd64 (s : State) (lo hi : Nat) : Nat := (s.rd lo).toNat + 2 ^ 32 * (s.rd hi).toNat

/-- Apply an operation for each element of a list, in order. -/
def State.forEach {α : Type} (s : State) (l : List α) (g : State → α → State) : State := l.foldl g s

/-! ### Settings in force -/

/-- The word of a register that is in force: in SCANNING, a write that takes effect later leaves the former word in force
(R107, R126, R146, R180, R183). -/
def State.eff (s : State) (a : Nat) : Word := (Sp.find s.fir.held a).getD (s.rd a)

/-- A field of the word in force. -/
def State.ef (s : State) (a : Nat) (fld : Fld) : Nat := fld.get (s.eff a)

/-- Whether a one-bit field in force is 1. -/
def State.efb (s : State) (a : Nat) (fld : Fld) : Bool := s.ef a fld != 0

/-- Keep the word in force of a register that is about to be written. -/
def State.hold (s : State) (a : Nat) : State :=
  match Sp.find s.fir.held a with
  | some _ => s
  | none => { s with fir := { s.fir with held := Sp.ins s.fir.held a (s.rd a) } }

/-- Settings of a class take effect: the words kept for them are dropped. -/
def State.release (s : State) (cls : Nat → Bool) : State := { s with fir := { s.fir with held := Sp.drop cls s.fir.held } }

/-! ### Memory windows (R536) -/

/-- What a window byte that nothing has written reads as (log entry 5). -/
def memDefault (_ : Nat) : Byte := 0

/-- The byte at a window address. [DESIGN CHOICE, log 5] -/
def State.byte (s : State) (a : Nat) : Byte := Sp.get memDefault s.mem a

/-- The state with one window byte written. -/
def State.setByte (s : State) (a : Nat) (b : Byte) : State := { s with mem := Sp.put memDefault s.mem a b }

/-- `n` window bytes from an address. -/
def State.bytes (s : State) (a n : Nat) : List Byte := (List.range n).map (fun i => s.byte (a + i))

/-- The state with window bytes written from an address. -/
def State.setBytes : State → Nat → List Byte → State
  | s, _, [] => s
  | s, a, b :: bs => State.setBytes (s.setByte a b) (a + 1) bs

/-- The little-endian number of `n` window bytes. -/
def State.memNat (s : State) (a n : Nat) : Nat := leNat (s.bytes a n)

/-- The state with every window byte of a range back at its default. -/
def State.clearMem (s : State) (lo hi : Nat) : State :=
  { s with mem := Sp.drop (fun a => decide (lo ≤ a) && decide (a < hi)) s.mem }

/-- The state with one window range copied over another. -/
def State.copyMem (s : State) (src dst n : Nat) : State :=
  let moved := (s.mem.filter (fun c => decide (src ≤ c.1) && decide (c.1 < src + n))).map (fun c => (c.1 - src + dst, c.2))
  let s := s.clearMem dst (dst + n)
  s.forEach moved (fun s c => s.setByte c.1 c.2)

/-! ### Variants, states, domains -/

/-- The variant code (R2). -/
def State.variant (s : State) : Nat := s.boot.shadows.variant

/-- Whether the variant has the safety package (R2, R4). -/
def State.isMS (s : State) : Bool := s.variant == 1

/-- The number of return channels of the variant (R2). -/
def State.channels (s : State) : Nat := if s.variant = 3 then 256 else 512

/-- The power domains fused off in the variant (R2), as a mask. -/
def fusedOff (variant : Nat) : Nat := if variant = 3 then bitsOf [4, 5, 8, 9] else 0

/-- The state code of R66. -/
def DevState.code : DevState → Nat
  | .off => 0 | .boot => 1 | .idle => 2 | .primed => 3 | .scanning => 4 | .hold => 5 | .thermalHold => 6 | .fault => 7

/-- The state with a code of R66. -/
def DevState.ofCode : Nat → DevState
  | 0 => .off | 1 => .boot | 2 => .idle | 3 => .primed | 4 => .scanning | 5 => .hold | 6 => .thermalHold | _ => .fault

/-- The top-level state of the device (R65). -/
def State.dev (s : State) : DevState := if s.boot.off then .off else DevState.ofCode (s.f GLB_STATE GLB_STATE_STATE)

/-- Whether the device is in SCANNING. -/
def State.scanning (s : State) : Bool := s.dev == .scanning

/-- Whether a power domain is on. -/
def State.domOn (s : State) (d : Nat) : Bool := bit (s.f PMU_PD_STAT PMU_PD_STAT_ON) d

/-- The domains a domain depends on (R33). -/
def domDeps (d : Nat) : List Nat :=
  if d = 0 then [] else if d = 1 then [0]
  else if 6 ≤ d ∧ d ≤ 9 then [1, d - 4]
  else if d = 12 then [1, 13] else [1]

/-- The domains that depend on a domain (R33), rising. -/
def domUsers (d : Nat) : List Nat := (List.range 20).filter (fun e => (domDeps e).contains d)

/-- The power domain that holds the register at an address (R535), for addresses of registers. -/
def domainOf (a : Nat) : Option Nat :=
  match blkOf a with
  | none => none
  | some b =>
    let o := a - b.span.1
    match b with
    | .GLB | .CMD | .TIM | .HNG | .CAL => some 1
    | .PMU | .CLK | .ESF | .THM => some 0
    | .RFE => some (6 + o / 0x2000)
    | .TDC => some (if o < 0x100 then 1 else if o < 0x4000 then 11
                    else if o < 0x6000 then 6 + (o - 0x4000) / 0x800 else 6 + (o - 0x6000) / 0x800)
    | .TMB => some (if o < 0x400 then 1 else if o < 0x1000 then 6 + (o - 0x400) / 0x200 else 6 + (o - 0x1000) / 0x800)
    | .FIR => some 11
    | .HGE => some (if o < 0x1000 then 1 else 2 + (o - 0x1000) / 0x1000)
    | .EXT | .ZON => some 10
    | .SRV => some 12
    | .MAD | .MFC => some 13
    | .EVR => some 14
    | .ETHA => some (if o < 0x400 then 15 else 10)
    | .ETHB => some 16
    | .WFL => some (if o < 0x800 then 17 else 18)
    | .DMA => some 19

/-- The state with every register of a domain back at its reset value. -/
def State.resetRegs (s : State) (d : Nat) : State :=
  { s with regs := Sp.drop (fun a => domainOf a == some d) s.regs }

/-- Whether a register belongs to a channel that the variant lacks (R5). -/
def fusedChannelReg (channels a : Nat) : Bool :=
  match blkOf a with
  | some .RFE => decide (channels ≤ (a - 0x30000) / 0x40)
  | some .TMB => decide (0x41000 ≤ a) && decide (channels ≤ (a - 0x41000) / 0x10)
  | some .HGE => decide (0x61000 ≤ a) && decide (channels ≤ (a - 0x61000) / 0x20)
  | some .EXT => decide (0x71000 ≤ a) && decide (channels ≤ (a - 0x71000) / 0x10)
  | _ => false

/-! ### Time (R369) -/

/-- TBS, in ticks. -/
def State.tbs (s : State) : Nat := s.tm.tbs / 2 ^ 32 % 2 ^ 64

/-- The FIRE outputs that are driven now (R129, R139). -/
def State.fireNow (s : State) : List Nat :=
  (s.fir.pulses.filter (fun x => decide (x.2.1 ≤ s.tbs) && decide (s.tbs < x.2.2))).map (·.1)

/-- TBL, in ns. -/
def State.tbl (s : State) : Nat := s.tm.tbl / 64 % 2 ^ 64

/-- Nanoseconds on the device timeline. -/
def State.ns (s : State) : Nat := s.tm.now / 64

/-- Ticks per microsecond. -/
def tickUs : Nat := 64000

/-- Ticks per millisecond. -/
def tickMs : Nat := 64000000

/-- Ticks per second. -/
def tickS : Nat := 64000000000

/-- The signed rate of network base `x` in 2^-32 (R373). -/
def State.netRate (s : State) (x : Nat) : Int := sx 32 (s.rd (TIM_TBx_RATE x)).toNat

/-- Whether network base `x` is running (R370). -/
def State.netRunning (s : State) (x : Nat) : Bool := s.f (TIM_TBx_STATE x) TIM_TBx_STATE_STATE != 0

/-- The time of network base `x`, in 2^-48 ns. -/
def State.netTime (s : State) (x : Nat) : Nat := Sp.get (fun _ => 0) s.tm.net x

/-- The state with network base `x` at a time in 2^-48 ns. -/
def State.setNet (s : State) (x : Nat) (v : Nat) : State :=
  { s with tm := { s.tm with net := Sp.put (fun _ => 0) s.tm.net x (v % (2 ^ 48 * 10 ^ 9 * 2 ^ 48)) } }

/-- Seconds of a network time. -/
def netSec (v : Nat) : Nat := v / 2 ^ 48 / 10 ^ 9

/-- Nanoseconds of a network time. -/
def netNs (v : Nat) : Nat := v / 2 ^ 48 % 10 ^ 9

/-- Sub-nanoseconds of a network time, 2^-16 ns per unit. -/
def netSub (v : Nat) : Nat := v / 2 ^ 32 % 2 ^ 16

/-- Whether PLL-T is locked in the sense of R488. -/
def State.pllT (s : State) : Bool := s.fb CLK_STAT CLK_STAT_T_LOCK && s.fb CLK_STAT CLK_STAT_H_LOCK

/-- Whether PLL-C is locked. -/
def State.pllC (s : State) : Bool := s.fb CLK_STAT CLK_STAT_C_LOCK

/-- The PTP engine of port `x` (0 A, 1 B). -/
def State.ptp (s : State) (x : Nat) : Ptp := if x = 0 then s.ptpA else s.ptpB

/-- The state with the PTP engine of port `x` replaced. -/
def State.setPtp (s : State) (x : Nat) (p : Ptp) : State := if x = 0 then { s with ptpA := p } else { s with ptpB := p }

/-- A running network base counts on over the last `dt` ticks, with the slew that runs in them (R369, R378). -/
def State.netStep (s : State) (x dt : Nat) : State :=
  let p := s.ptp x
  let from_ := s.tm.now - dt
  let slewed : Int := ((Nat.min s.tm.now p.slewUntil - from_ : Nat) : Int) * p.slew
  s.setNet x (s.netTime x + ((dt * 2 ^ 10 * (2 ^ 32 + s.netRate x)) + slewed)).toNat

/-- End the pulses of timed outputs whose time has come (R389). -/
def State.pulsesEnd (s : State) : State :=
  let ended := s.tm.evOutUntil.filter (fun x => decide (x.2 ≤ s.tm.now))
  if ended.isEmpty then s
  else
    let m := s.pin.gpioOut &&& bitsOf (ended.map (fun (x : Nat × Nat) => 8 + x.1))
    { s with tm := { s.tm with evOutUntil := s.tm.evOutUntil.filter (fun x => decide (s.tm.now < x.2)) },
             pin := { s.pin with gpioOut := s.pin.gpioOut - m } }

/-- Let `dt` ticks pass: every time base counts on (R369), and output pulses that end within them end (R145, R291, R389).
[DESIGN CHOICE, log 4] -/
def State.advance (s : State) (dt : Nat) : State :=
  let freq := sx 32 (s.rd TIM_TBS_FREQ).toNat
  let tbs := if s.tm.tbsStarted && s.pllT then (s.tm.tbs + (dt * (2 ^ 32 + freq)).toNat) % 2 ^ 96 else s.tm.tbs
  let tbl := if s.tm.tblStarted then (s.tm.tbl + dt) % 2 ^ 70 else s.tm.tbl
  let s := { s with tm := { s.tm with now := s.tm.now + dt, tbs := tbs, tbl := tbl } }
  let p := s.pin
  let s := { s with pin := { p with hgSyncOut := p.hgSyncOut && decide (s.tm.now < s.fir.syncUntil),
                                    hgTrigOut := p.hgTrigOut && decide (s.tm.now < s.evr.hgTrigUntil),
                                    ppsOut := p.ppsOut && decide (s.tm.now < s.tm.ppsOutUntil) } }
  let s := s.pulsesEnd
  s.forEach [0, 1] (fun s x => if s.netRunning x then s.netStep x dt else s)

/-- Let time pass until the device time `t`, if it lies ahead. -/
def State.at_ (s : State) (t : Nat) : State := if s.tm.now < t then s.advance (t - s.tm.now) else s

/-- An idle step: one PLL-C cycle of 2 ns passes and the time bases count on (log entry 4). -/
def State.idle (s : State) : State := if s.boot.off then s else s.advance 128

/-- The TBS value of a device time at or before or after now, by the present frequency. -/
def State.tbsAt (s : State) (t : Nat) : Nat := ((s.tbs : Int) + ((t : Int) - s.tm.now)).toNat % 2 ^ 64

/-- Let time pass until TBS reads `t`, if it lies ahead. [DESIGN CHOICE, log 2] -/
def State.toTbs (s : State) (t : Nat) : State := s.at_ (s.tm.now + (t - s.tbs))

/-- Ticks until network base `x` reaches a time in 2^-48 ns, rounded up; 0 when it is there (R373). -/
def ticksTo (rate : Int) (cur due : Nat) : Nat :=
  let step := (2 ^ 10 * (2 ^ 32 + rate)).toNat
  (due - cur + (step - 1)) / step

/-- Let time pass until network base `x` reaches a time in 2^-48 ns, if it lies ahead. -/
def State.toNet (s : State) (x due : Nat) : State := s.advance (ticksTo (s.netRate x) (s.netTime x) due)

/-! ### Temperature sensors (R471) -/

/-- The power domain of a sensor. -/
def sensorDomain (i : Nat) : Nat :=
  if i < 4 then 6 + i else if i < 8 then i - 2 else if i = 8 then 10 else if i = 9 then 1 else 0

/-- The last reading of a sensor, in 1/16 °C. -/
def State.tsTemp (s : State) (i : Nat) : Int := sx 16 (s.f (THM_TS i) THM_TS_TEMP)

/-- Whether a sensor is valid: its domain on, its last reading in range and not older than 4 ms. -/
def State.tsValid (s : State) (i : Nat) : Bool :=
  let d := sensorDomain i
  let on := d == 0 || (d == 1 && s.tm.tblStarted) || (decide (2 ≤ d) && s.domOn d)
  match Sp.find s.thm.sensorAt i with
  | some t => on && decide (s.tm.now ≤ t + 4 * tickMs) && decide (-880 ≤ s.tsTemp i ∧ s.tsTemp i ≤ 2800)
  | none => false

/-! ### Ports -/

/-- 0 for port A, 1 for port B. -/
def portIx : Port → Nat
  | .A => 0
  | .B => 1

/-- The port with an index. -/
def portOf (i : Nat) : Port := if i = 0 then .A else .B

/-- The state of a port. -/
def State.eth (s : State) : Port → Eth
  | .A => s.ethA
  | .B => s.ethB

/-- The state with the state of a port replaced. -/
def State.setEth (s : State) (p : Port) (e : Eth) : State :=
  match p with
  | .A => { s with ethA := e }
  | .B => { s with ethB := e }

/-- The power domain of a port. -/
def portDom : Port → Nat
  | .A => 15
  | .B => 16

/-- The setting of a port register that is in force (R351). -/
def State.ethLive (s : State) (p : Port) (a : Nat) : Word :=
  BitVec.ofNat 32 (Sp.get (fun k => (resetWord k).toNat) (s.eth p).live a)

/-! ### Free values -/

/-- The state with the counter of free values advanced. -/
def State.drawn (s : State) : State := { s with draws := s.draws + 1 }

end Sys2Proof.Machine
end

