-- ==== Sys2Proof/Machine/Flags.lean ====
section
/-! DEFINITION. Computed status words of emission safety: exposure levels, ESF_IN and ESF_COND (R303, R313, R319–R325). -/

namespace Sys2Proof.Machine

open Reg

/-- The key of a sub-interval charge: window, cell (segment × 64 + sector) and slot (R320). -/
def expKey (w cell slot : Nat) : Nat := (w * 1024 + cell) * 17 + slot

/-- The charge of one sub-interval of a cell. [DESIGN CHOICE, log 1] -/
def State.charge (s : State) (w cell slot : Nat) : Nat := Sp.get (fun _ => 0) s.esf.charges (expKey w cell slot)

/-- The level of a cell in a window: the current sub-interval and the 16 before it (R320). -/
def State.level (s : State) (w cell : Nat) : Nat :=
  (List.range 17).foldl (fun acc k => acc + s.charge w cell k) 0

/-- The unit u_w of a window's limit (R320). -/
def expUnit (w : Nat) : Nat := if w = 0 then 1 else if w = 1 then 16 else 1024

/-- The limit of a window in charge units (R320). -/
def State.expLimit (s : State) (w : Nat) : Nat := (s.rd (ESF_EXP_LIM w)).toNat * expUnit w

/-- The cells and windows that hold any charge, as (window, cell), rising. -/
def State.chargedCells (s : State) : List (Nat × Nat) :=
  (s.esf.charges.foldl (fun acc kv =>
    match acc with
    | (w, c) :: _ => if w * 1024 + c = kv.1 / 17 then acc else (kv.1 / 17 / 1024, kv.1 / 17 % 1024) :: acc
    | [] => [(kv.1 / 17 / 1024, kv.1 / 17 % 1024)]) []).reverse

/-- Whether every cell's level in every window is at most 7/8 of the window's limit (R303 bit 4). -/
def State.expCond (s : State) : Bool :=
  s.chargedCells.all (fun wc => decide (8 * s.level wc.1 wc.2 ≤ 7 * s.expLimit wc.1))

/-- The headroom of a cell in eighths (R325). -/
def State.headroom (s : State) (cell : Nat) : Nat :=
  let h (w : Nat) : Nat :=
    let a := s.level w cell
    let l := s.expLimit w
    if 2 * a ≤ l then 8 else 16 * (l - a) / l
  Nat.min (h 1) (h 2)

/-- The shutdown threshold, in 1/16 °C. -/
def State.shutdownLim (s : State) : Int := sx 16 (s.f THM_LIM1 THM_LIM1_SHUTDOWN)

/-- The throttle threshold, in 1/16 °C. -/
def State.throttleLim (s : State) : Int := sx 16 (s.f THM_LIM0 THM_LIM0_THROTTLE)

/-- The warning threshold, in 1/16 °C. -/
def State.warnLim (s : State) : Int := sx 16 (s.f THM_LIM0 THM_LIM0_WARN)

/-- Tj, in 1/16 °C (R472). -/
def State.tj (s : State) : Int := sx 16 (s.f THM_TJ THM_TJ_TJ)

/-- The hysteresis of every thermal level, 5 °C (R473). -/
def thermHyst : Int := 80

/-- The HG_FAULT_N pin level: low while this device or another drives it (R313). -/
def State.hgFaultN (s : State) : Bool := !(s.pin.hgFaultOthers || s.pin.hgFaultDrive)

/-- The state of the permit start-up test: WAIT_OPEN ends as soon as both channels read open (R309). [DESIGN CHOICE, log 71] -/
def State.ptest (s : State) : Nat :=
  if s.f ESF_IN ESF_IN_PTEST = 0 ∧ !s.pin.permitA ∧ !s.pin.permitB then 1 else s.f ESF_IN ESF_IN_PTEST

/-- ESF_IN: the stored DISC with the state of the start-up test and the live pin levels. -/
def State.esfIn (s : State) : Word :=
  BitVec.ofNat 32 (s.ptest + 4 * s.f ESF_IN ESF_IN_DISC + 8 * b2n s.pin.permitA + 16 * b2n s.pin.permitB + 32 * b2n s.pin.coverN
    + 64 * b2n s.hgFaultN + 128 * b2n s.pin.hgFaultDrive)

/-- Condition n of R303. -/
def State.cond (s : State) (n : Nat) : Bool :=
  match n with
  | 0 => s.f ESF_IN ESF_IN_PTEST == 2
  | 1 => s.pin.permitA && s.pin.permitB && !s.fb ESF_IN ESF_IN_DISC
  | 2 => !s.pin.coverN
  | 3 => s.fb SRV_WIN_STAT SRV_WIN_STAT_IN
  | 4 => s.expCond
  | 5 => decide (s.tj < s.shutdownLim - thermHyst)
  | 6 => s.pllT && s.pllC
  | 7 => s.hgFaultN || s.pin.hgFaultDrive
  | 8 => match s.esf.guard with
         | some (_, _, t) => decide (s.tm.now ≤ t + 25 * tickUs)
         | none => false
  | 9 => !s.fb ESF_DIAG ESF_DIAG_WDOG_EXP && !s.fb ESF_DIAG ESF_DIAG_LOCKSTEP_ERR && s.f ESF_DIAG ESF_DIAG_TEST_FAIL == 0
  | 10 => !s.fb THM_STATE THM_STATE_HISTORY
  | 11 => !s.fb ZON_CMD_STAT ZON_CMD_STAT_STOP
  | 12 => s.f ESF_CAUSE ESF_CAUSE_CAUSE == 0
  | _ => false

/-- Bits 0 to 12 of ESF_COND (R303). -/
def State.condBits (s : State) : Nat := bitsOf ((List.range 13).filter s.cond)

/-- Whether every emission condition holds (ESF_COND.ALL). -/
def State.condAll (s : State) : Bool := (List.range 13).all s.cond

/-- ESF_COND (R303). -/
def State.condWord (s : State) : Word := BitVec.ofNat 32 (s.condBits + 2 ^ 31 * b2n s.condAll)

end Sys2Proof.Machine
end

