-- ==== Sys2Proof/Config.lean ====
section
/-! DEFINITION. What the spec leaves open: free values. None has a body, so no proof can rest on one of their values. -/

namespace Sys2Proof.Config

/-- The nonce that the device's random source draws for an AUTH_SESSION; the argument counts the draws
(R43, R56; log entry 3). -/
opaque nonce : Nat → BitVec 64

/-- A register or result value that the spec leaves open; the arguments are the place that reads it and the count of free
values drawn so far. -/
opaque openValue : Nat → Nat → BitVec 64

end Sys2Proof.Config
end

