-- ==== Sys2Proof/Machine/Net.lean ====
section
/-! DEFINITION. Handing frames to the backbone ports: addresses in use, next-hop resolution, VLAN tag, PRP trailer, queues
(R345, R348, R349, R352–R357, R363). -/

namespace Sys2Proof.Machine

open Reg

/-- Whether the two ports form a PRP node (R363). -/
def State.prp (s : State) : Bool :=
  s.fb (ETHx_CTRL 0) ETHx_CTRL_PRP_EN && s.fb (ETHx_CTRL 1) ETHx_CTRL_PRP_EN &&
  s.fb (ETHx_CTRL 0) ETHx_CTRL_EN && s.fb (ETHx_CTRL 1) ETHx_CTRL_EN

/-- The port whose MAC and IP settings a port uses: port A's in PRP mode (R363). -/
def State.cfgPort (s : State) (p : Port) : Port := if s.prp then .A else p

/-- Whether a port sends and receives: domain on, enabled, link up (R344). -/
def State.portUp (s : State) (p : Port) : Bool :=
  s.domOn (portDom p) && s.fb (ETHx_CTRL (portIx p)) ETHx_CTRL_EN && s.fb (ETHx_STATUS (portIx p)) ETHx_STATUS_LINK

/-- The MAC address in use. -/
def State.mac (s : State) (p : Port) : Nat :=
  let i := portIx (s.cfgPort p)
  bits (s.ethLive (s.cfgPort p) (ETHx_MAC_HI i)).toNat 0 16 * 2 ^ 32 + (s.ethLive (s.cfgPort p) (ETHx_MAC_LO i)).toNat

/-- The IPv4 address in use, 0 when none (R352). -/
def State.ip4 (s : State) (p : Port) : Nat := (s.rd (ETHx_IP4_CUR (portIx (s.cfgPort p)))).toNat

/-- The prefix length and gateway that go with the IPv4 address in use. -/
def State.ip4Net (s : State) (p : Port) : Nat × Nat :=
  let c := s.cfgPort p
  match (s.eth c).lease with
  | some (_, pfx, gw) => (pfx, gw)
  | none => (ETHx_IP4_CFG_PREFIX.get (s.ethLive c (ETHx_IP4_CFG (portIx c))), (s.ethLive c (ETHx_IP4_GW (portIx c))).toNat)

/-- The link-local IPv6 address formed from the EUI-64 of a MAC address (R354). -/
def linkLocal (mac : Nat) : Nat :=
  let hi := mac / 2 ^ 24
  let lo := mac % 2 ^ 24
  0xfe80 * 2 ^ 112 + (hi ^^^ 0x020000) * 2 ^ 40 + 0xfffe * 2 ^ 24 + lo

/-- The global IPv6 address of a port (R354). -/
def State.ip6g (s : State) (p : Port) : Nat :=
  let c := s.cfgPort p
  (List.range 4).foldl (fun acc j => acc * 2 ^ 32 + (s.ethLive c (ETHx_IP6_ADDR (portIx c) j)).toNat) 0

/-- The source address for an IPv6 destination; `none` when no address is in use. -/
def State.src6 (s : State) (p : Port) (dst : Nat) : Option Nat :=
  let st := ETHx_STATUS (portIx (s.cfgPort p))
  let ll := if s.fb st ETHx_STATUS_ADDR6_LL then some (linkLocal (s.mac p)) else none
  if dst / 2 ^ 112 = 0xfe80 ∨ !s.fb st ETHx_STATUS_ADDR6_G then ll else some (s.ip6g p)

/-- The source address a port uses towards a destination; `none` when it has none. -/
def State.srcIp (s : State) (p : Port) (dst : Ip) : Option Ip :=
  if dst.v6 then (s.src6 p dst.addr).map (fun a => ⟨true, a⟩)
  else if s.ip4 p = 0 then none else some ⟨false, s.ip4 p⟩

/-- The cached MAC address of an on-link neighbour (R353). -/
def State.resolve (s : State) (p : Port) (ip : Ip) : Option Nat :=
  ((s.eth p).arp.find? (fun e => e.ip == ip && decide (s.tm.now < e.at_ + 60 * tickS))).map (·.mac)

/-- The next hop of a destination: itself on-link, else the gateway (R352, R354). -/
def State.nextHop (s : State) (p : Port) (dst : Ip) : Ip :=
  if dst.v6 then dst
  else
    let (pfx, gw) := s.ip4Net p
    if dst.addr / 2 ^ (32 - pfx) = s.ip4 p / 2 ^ (32 - pfx) then dst else ⟨false, gw⟩

/-- The group MAC address of a multicast or broadcast destination (R357). -/
def groupMac (dst : Ip) : Option Nat :=
  if dst.v6 then (if dst.addr / 2 ^ 120 = 0xff then some (0x333300000000 + dst.addr % 2 ^ 32) else none)
  else if dst.addr / 2 ^ 28 = 0xE then some (0x01005E000000 + dst.addr % 2 ^ 23)
  else if dst.addr = 0xFFFFFFFF then some 0xFFFFFFFFFFFF else none

/-- The PCP of a traffic class (R349). -/
def State.pcp (s : State) (p : Port) (c : TxClass) : Nat :=
  let w := s.ethLive (s.cfgPort p) (ETHx_VLAN (portIx (s.cfgPort p)))
  match c with
  | .time => ETHx_VLAN_PCP_TIME.get w
  | .safe => ETHx_VLAN_PCP_SAFE.get w
  | .mgmt => ETHx_VLAN_PCP_MGMT.get w
  | .stream => ETHx_VLAN_PCP_STRM.get w
  | .timed q => if q = 0 then ETHx_VLAN_PCP_STRM.get w else ETHx_VLAN_PCP_SAFE.get w

/-- The VLAN tag of a transmitted frame (R348); LLDP frames are never tagged. -/
def State.txTags (s : State) (p : Port) (c : TxClass) (lldp : Bool) : List (Nat × Nat) :=
  let w := s.ethLive (s.cfgPort p) (ETHx_VLAN (portIx (s.cfgPort p)))
  if ETHx_VLAN_TX_TAG.get w = 1 ∧ !lldp then [(ETHx_VLAN_VID.get w, s.pcp p c)] else []

/-- A frame length of at least 64 bytes with header, tags, PRP trailer and FCS. -/
def frameLen (tags : Nat) (prp : Bool) (payload : Nat) : Nat := Nat.max 64 (18 + 4 * tags + (if prp then 6 else 0) + payload)

/-- Put an entry at the end of a port's queues; a down port takes nothing (R345). -/
def State.enqueue (s : State) (p : Port) (e : TxEntry) : State :=
  if s.portUp p then s.setEth p { s.eth p with txq := (s.eth p).txq ++ [e] } else s

/-- Queue one frame of a body on a port, with its tag and PRP trailer. -/
def State.sendBody (s : State) (p : Port) (c : TxClass) (dst : Nat) (body : Body) (payload : Nat) (prpSeq : Option Nat)
    (e : TxEntry → TxEntry) : State :=
  let lldp := match body with | .lldp _ => true | _ => false
  let tags := s.txTags p c lldp
  let fr : Frame := { dst := dst, src := s.mac p, tags := tags, len := frameLen tags.length prpSeq.isSome payload,
                      fcsOk := true, prp := prpSeq.map (fun q => (portIx p, q)), body := body }
  s.enqueue p (e { cls := c, frame := fr })

/-- Queue a frame on a port, or with PRP trailers on both ports of a PRP node when the frame takes part in PRP (R363). -/
def State.sendPrp (s : State) (p : Port) (c : TxClass) (dst : Nat) (body : Body) (payload : Nat) (inPrp : Bool)
    (e : TxEntry → TxEntry) : State :=
  if s.prp && inPrp then
    let q := s.pkt.prpSeq
    let s := { s with pkt := { s.pkt with prpSeq := (q + 1) % 65536 } }
    (s.sendBody .A c dst body payload (some q) e).sendBody .B c dst body payload (some q) e
  else s.sendBody p c dst body payload none e

/-- Count a frame dropped for want of an address or next hop (R353, R362). -/
def State.noRes (s : State) (p : Port) : State := s.addSat (ETHx_CNT_TXERR (portIx p)) ETHx_CNT_TXERR_NORES 1

/-- Ask for the MAC address of a next hop, unless a request is under way (R353, R354). -/
def State.startResolve (s : State) (p : Port) (ip : Ip) : State :=
  if (s.eth p).resolving.any (fun r => r.1 == ip) then s
  else
    let s := s.setEth p { s.eth p with resolving := (s.eth p).resolving ++ [(ip, s.tm.now)] }
    if ip.v6 then
      s.sendPrp p .mgmt (0x3333FF000000 + ip.addr % 2 ^ 24)
        (.ns ⟨true, (s.src6 p ip.addr).getD 0⟩ ip.addr (s.mac p)) 72 true id
    else s.sendPrp p .mgmt 0xFFFFFFFFFFFF (.arp false (s.mac p) (s.ip4 p) ip.addr) 46 true id

/-- Send a UDP datagram from a port (R352–R357). -/
def State.sendUdp (s : State) (p : Port) (c : TxClass) (dst : Ip) (sport dport : Nat) (payload : List Byte)
    (inPrp : Bool) (e : TxEntry → TxEntry) : State :=
  match s.srcIp p dst with
  | none => s.noRes p
  | some src =>
    let go (mac : Nat) :=
      s.sendPrp p c mac (.udp src dst sport dport .good false payload)
        ((if dst.v6 then 48 else 28) + payload.length) inPrp e
    match groupMac dst with
    | some m => go m
    | none =>
      match s.resolve p (s.nextHop p dst) with
      | some m => go m
      | none => (s.startResolve p (s.nextHop p dst)).noRes p

end Sys2Proof.Machine
end

