-- ==== Sys2Proof/Machine/Sha.lean ====
section
/-! DEFINITION. SHA-256 (FIPS 180-4), HMAC-SHA-256 (RFC 2104) and ECDSA verification over P-256 (FIPS 186-5), the
standards that R11 names for command authentication (R43) and image signatures (R499). -/

namespace Sys2Proof.Machine

/-- First half of the SHA-256 round constants. -/
def shaK0 : List Word := [
  0x428a2f98, 0x71374491, 0xb5c0fbcf, 0xe9b5dba5, 0x3956c25b, 0x59f111f1, 0x923f82a4, 0xab1c5ed5,
  0xd807aa98, 0x12835b01, 0x243185be, 0x550c7dc3, 0x72be5d74, 0x80deb1fe, 0x9bdc06a7, 0xc19bf174,
  0xe49b69c1, 0xefbe4786, 0x0fc19dc6, 0x240ca1cc, 0x2de92c6f, 0x4a7484aa, 0x5cb0a9dc, 0x76f988da,
  0x983e5152, 0xa831c66d, 0xb00327c8, 0xbf597fc7, 0xc6e00bf3, 0xd5a79147, 0x06ca6351, 0x14292967]

/-- Second half of the SHA-256 round constants. -/
def shaK1 : List Word := [
  0x27b70a85, 0x2e1b2138, 0x4d2c6dfc, 0x53380d13, 0x650a7354, 0x766a0abb, 0x81c2c92e, 0x92722c85,
  0xa2bfe8a1, 0xa81a664b, 0xc24b8b70, 0xc76c51a3, 0xd192e819, 0xd6990624, 0xf40e3585, 0x106aa070,
  0x19a4c116, 0x1e376c08, 0x2748774c, 0x34b0bcb5, 0x391c0cb3, 0x4ed8aa4a, 0x5b9cca4f, 0x682e6ff3,
  0x748f82ee, 0x78a5636f, 0x84c87814, 0x8cc70208, 0x90befffa, 0xa4506ceb, 0xbef9a3f7, 0xc67178f2]

/-- The working state of SHA-256: eight words. -/
structure Sha where
  a : Word
  b : Word
  c : Word
  d : Word
  e : Word
  f : Word
  g : Word
  h : Word
  deriving DecidableEq, Repr

/-- The initial hash value. -/
def Sha.init : Sha :=
  ⟨0x6a09e667, 0xbb67ae85, 0x3c6ef372, 0xa54ff53a, 0x510e527f, 0x9b05688c, 0x1f83d9ab, 0x5be0cd19⟩

/-- One round with message word `w` and constant `k`. -/
def Sha.round (s : Sha) (w k : Word) : Sha :=
  let s1 := s.e.rotateRight 6 ^^^ s.e.rotateRight 11 ^^^ s.e.rotateRight 25
  let ch := (s.e &&& s.f) ^^^ (~~~s.e &&& s.g)
  let t1 := s.h + s1 + ch + k + w
  let s0 := s.a.rotateRight 2 ^^^ s.a.rotateRight 13 ^^^ s.a.rotateRight 22
  let mj := (s.a &&& s.b) ^^^ (s.a &&& s.c) ^^^ (s.b &&& s.c)
  ⟨t1 + (s0 + mj), s.a, s.b, s.c, s.d + t1, s.e, s.f, s.g⟩

/-- The next word of the message schedule, from the last 16 words (oldest first). -/
def shaNext (w : List Word) : Word :=
  let x15 := w.getD 1 0
  let x2 := w.getD 14 0
  let g0 := x15.rotateRight 7 ^^^ x15.rotateRight 18 ^^^ (x15 >>> 3)
  let g1 := x2.rotateRight 17 ^^^ x2.rotateRight 19 ^^^ (x2 >>> 10)
  g1 + w.getD 9 0 + g0 + w.getD 0 0

/-- The rounds over the constants, with the sliding window of 16 message words. -/
def shaRounds : List Word → List Word → Sha → Sha
  | [], _, s => s
  | k :: ks, w, s => shaRounds ks (w.drop 1 ++ [shaNext w]) (s.round (w.getD 0 0) k)

/-- The 16 big-endian words of a 64-byte block. -/
def shaWords : Nat → List Byte → List Word
  | 0, _ => []
  | n + 1, bs => BitVec.ofNat 32 (beNat (bs.take 4)) :: shaWords n (bs.drop 4)

/-- The hash state after one 64-byte block. -/
def Sha.block (s : Sha) (b : List Byte) : Sha :=
  let r := shaRounds (shaK0 ++ shaK1) (shaWords 16 b) s
  ⟨s.a + r.a, s.b + r.b, s.c + r.c, s.d + r.d, s.e + r.e, s.f + r.f, s.g + r.g, s.h + r.h⟩

/-- The hash state after `n` blocks. -/
def shaBlocks : Nat → List Byte → Sha → Sha
  | 0, _, s => s
  | n + 1, bs, s => shaBlocks n (bs.drop 64) (s.block (bs.take 64))

/-- SHA-256 of a byte string (FIPS 180-4). [PRESUMED, log 64] -/
def sha256 (m : List Byte) : List Byte :=
  let padLen := (119 - m.length % 64) % 64
  let full := m ++ [0x80] ++ zeros padLen ++ beBytes 8 (8 * m.length)
  let s := shaBlocks (full.length / 64) full Sha.init
  [s.a, s.b, s.c, s.d, s.e, s.f, s.g, s.h].flatMap (fun w => beBytes 4 w.toNat)

/-- HMAC-SHA-256 with a key of at most 64 bytes (RFC 2104). [PRESUMED, log 64] -/
def hmacSha256 (key m : List Byte) : List Byte :=
  let k := key ++ zeros (64 - key.length)
  sha256 (k.map (· ^^^ 0x5c) ++ sha256 (k.map (· ^^^ 0x36) ++ m))

/-! ### P-256 -/

/-- The field prime of P-256. -/
def p256p : Nat := 0xffffffff00000001000000000000000000000000ffffffffffffffffffffffff

/-- The order of the base point of P-256. -/
def p256n : Nat := 0xffffffff00000000ffffffffffffffffbce6faada7179e84f3b9cac2fc632551

/-- The curve coefficient b of P-256. -/
def p256b : Nat := 0x5ac635d8aa3a93e7b3ebbd55769886bc651d06b0cc53b0f63bce3c3e27d2604b

/-- The base point of P-256. -/
def p256g : Nat × Nat :=
  (0x6b17d1f2e12c4247f8bce6e563a440f277037d812deb33a0f4a13945d898c296,
   0x4fe342e2fe1a7f9b8ee7eb4a7c0f9e162bce33576b315ececbb6406837bf51f5)

/-- `b^e mod m` for an exponent below `2^n`. -/
def powMod : Nat → Nat → Nat → Nat → Nat
  | 0, _, _, m => 1 % m
  | n + 1, b, e, m =>
    let r := powMod n (b * b % m) (e / 2) m
    if e % 2 = 1 then r * b % m else r

/-- The inverse modulo a 256-bit prime. -/
def invMod (x m : Nat) : Nat := powMod 256 (x % m) (m - 2) m

/-- The sum of two points of P-256; `none` is the point at infinity. -/
def ecAdd : Option (Nat × Nat) → Option (Nat × Nat) → Option (Nat × Nat)
  | none, q => q
  | p, none => p
  | some (x1, y1), some (x2, y2) =>
    if x1 = x2 ∧ (y1 + y2) % p256p = 0 then none
    else
      let lam :=
        if x1 = x2 then 3 * (x1 * x1 + (p256p - 1)) % p256p * invMod (2 * y1) p256p % p256p
        else (y2 + p256p - y1) % p256p * invMod ((x2 + p256p - x1) % p256p) p256p % p256p
      let x3 := (lam * lam + 2 * p256p - x1 - x2) % p256p
      some (x3, (lam * ((x1 + p256p - x3) % p256p) + p256p - y1) % p256p)

/-- A multiple below `2^n` of a point of P-256. -/
def ecMul : Nat → Nat → Option (Nat × Nat) → Option (Nat × Nat)
  | 0, _, _ => none
  | n + 1, k, p =>
    let r := ecMul n (k / 2) (ecAdd p p)
    if k % 2 = 1 then ecAdd p r else r

/-- ECDSA verification of the signature `(r, s)` on a 32-byte hash under the public key `(qx, qy)` (FIPS 186-5). -/
def ecdsaVerify (hash : List Byte) (qx qy r s : Nat) : Bool :=
  let onCurve := qx < p256p && qy < p256p &&
    qy * qy % p256p == (qx * qx % p256p * qx + 3 * (p256p - qx) + p256b) % p256p
  if !(onCurve && 0 < r && r < p256n && 0 < s && s < p256n) then false
  else
    let w := invMod s p256n
    let u1 := beNat hash * w % p256n
    let u2 := r * w % p256n
    match ecAdd (ecMul 256 u1 (some p256g)) (ecMul 256 u2 (some (qx, qy))) with
    | none => false
    | some (x, _) => x % p256n == r

end Sys2Proof.Machine
end

