-- ==== Sys2Proof/Machine/Report.lean ====
section
/-! DEFINITION. Replies, events, deferred completions and NV log records (R34–R37, R61–R64, R480, R481). -/

namespace Sys2Proof.Machine

open Reg

/-! ### Status codes (R37) -/

def stOk : Nat := 0x0000
def stDeferred : Nat := 0x0001
def stBusy : Nat := 0x0002
def stRefused : Nat := 0x0003
def stBadOpcode : Nat := 0x0004
def stBadLength : Nat := 0x0005
def stBadParam : Nat := 0x0006
def stAuthFail : Nat := 0x0007
def stNotQuiet : Nat := 0x0010
def stCalFailed : Nat := 0x0011
def stCalStale : Nat := 0x0012
def stSafetyBlock : Nat := 0x0020
def stArmSize : Nat := 0x0030
def stLoopClosed : Nat := 0x0040
def stPwrBusy : Nat := 0x0050
def stQuarantine : Nat := 0x0060
def stImageLevel : Nat := 0x0070

/-! ### Packets (R34) -/

/-- The 16 header bytes of a packet (R34). -/
def header (ver flags opc tag len ctr : Nat) : List Byte :=
  [0x44, 0x52] ++ leBytes 1 ver ++ leBytes 1 flags ++ leBytes 2 opc ++ leBytes 2 tag ++ leBytes 4 len ++ leBytes 4 ctr

/-- Header and payload of a reply (R34–R36). -/
def Reply.core (r : Reply) : List Byte :=
  header r.req.ver (r.req.key * 4 + b2n r.auth) (r.opc ||| 0x8000) r.req.tag (4 + r.data.length)
      (if r.auth then r.req.ctr else 0)
    ++ leBytes 2 r.status ++ leBytes 2 r.detail ++ r.data

/-- The bytes of a reply packet, trailer included. -/
def Reply.bytes (r : Reply) : List Byte := r.core ++ r.trailer

/-- Header and payload of an event packet (R61–R64). -/
def Event.core (e : Event) (auth : Bool) (key : Nat) : List Byte :=
  header 1 (key * 4 + 2 + b2n auth) (0xE000 + e.num) e.seq (12 + e.data.length) (if auth then e.seq else 0)
    ++ leBytes 8 e.tbl ++ wordBytes e.glb ++ e.data

/-- The bytes of an event packet as an HSPI queue presents it. -/
def Event.bytes (e : Event) : List Byte := e.core false 0

/-- The session of a transport. -/
def State.session (s : State) : Via → Option Session
  | .hspi => s.cmd.sessHspi
  | .udp .. => s.cmd.sessUdp

/-- The state with the session of a transport replaced. -/
def State.setSession (s : State) (v : Via) (x : Option Session) : State :=
  match v with
  | .hspi => { s with cmd := { s.cmd with sessHspi := x } }
  | .udp .. => { s with cmd := { s.cmd with sessUdp := x } }

/-- The authentication trailer of a packet: 16 bytes of HMAC-SHA-256 over nonce, header and payload (R43). -/
def State.trailer (s : State) (v : Via) (key : Nat) (core : List Byte) : List Byte :=
  match s.session v with
  | none => []
  | some x => (hmacSha256 (s.cmd.keys.getD key []) (leBytes 8 x.nonce.toNat ++ core)).take 16

/-- Deliver a reply packet to its transport: the HSPI reply queue, or a UDP datagram (R36, R349, R356). -/
def State.deliver (s : State) (r : Reply) : State :=
  match r.req.via with
  | .hspi => { s with cmd := { s.cmd with replies := s.cmd.replies ++ [r] } }
  | .udp p src sport dport =>
    let safe := decide (dport = ETHx_UDP_SAFE_SAFE.get (s.rd (ETHx_UDP_SAFE (portIx (s.cfgPort p)))))
    s.sendUdp p (if safe then .safe else .mgmt) src dport sport r.bytes (!safe) id

/-- Answer a request (R35, R36): with `auth` the reply is authenticated as its request was and is cached for R44. -/
def State.answer (s : State) (q : Req) (opc status detail : Nat) (data : List Byte) (auth : Bool) : State :=
  let r0 : Reply := { req := q, opc := opc, status := status, detail := detail, data := data, auth := auth, trailer := [] }
  let r := if auth then { r0 with trailer := s.trailer q.via q.key r0.core } else r0
  let s := { s with cmd := { s.cmd with lastReply := some r } }
  let s := if auth then s.setSession q.via ((s.session q.via).map (fun x => { x with lastReply := some r })) else s
  s.deliver r

/-- Answer a request with a status and DETAIL. -/
def State.reply (s : State) (q : Req) (opc status detail : Nat) : State := s.answer q opc status detail [] q.auth

/-- Answer a request with OK and reply data. -/
def State.replyOk (s : State) (q : Req) (opc : Nat) (data : List Byte) : State := s.answer q opc stOk 0 data q.auth

/-- Answer a request with BAD_PARAM and the offset of the refused field (R35). -/
def State.badParam (s : State) (q : Req) (opc detail : Nat) : State := s.reply q opc stBadParam detail

/-- Answer a request with BAD_LENGTH, whose DETAIL is always 8 (R35). -/
def State.badLength (s : State) (q : Req) (opc : Nat) : State := s.reply q opc stBadLength 8

/-! ### Events -/

/-- The event numbers of R61. -/
def evState : Nat := 0
def evFault : Nat := 1
def evSafety : Nat := 2
def evThermal : Nat := 3
def evMemfault : Nat := 4
def evDeferred : Nat := 5
def evRecorder : Nat := 6
def evLink : Nat := 7
def evTime : Nat := 8
def evPort : Nat := 9

/-- Send an event to the UDP event destination, authenticated where its session is (R63). [DEDUCED, log 57] -/
def State.sendEvent (s : State) (e : Event) : State :=
  match s.cmd.dest with
  | none => s
  | some (p, ip, sport, dport) =>
    let auth := match s.cmd.sessUdp with | some x => decide (0 < x.ctr) | none => false
    let key := match s.cmd.sessUdp with | some x => x.key | none => 0
    let core := e.core auth key
    let tr := if auth then s.trailer (.udp p ip sport dport) key core else []
    s.sendUdp p .mgmt ip dport sport (core ++ tr) true id

/-- Put an event into its class queue on HSPI; a full queue drops it (R62). -/
def State.queueEvent (s : State) (e : Event) : State :=
  if e.num ≤ evMemfault then
    if s.cmd.alerts.length < 32 then
      { s with cmd := { s.cmd with alerts := s.cmd.alerts ++ [e] }, pin := { s.pin with irq0 := true } }
    else (s.setF CMD_EVT_STATUS CMD_EVT_STATUS_ALERT_OVF 1).addSat CMD_EVT_SEQ CMD_EVT_SEQ_LOST 1
  else
    if s.cmd.notices.length < 32 then
      { s with cmd := { s.cmd with notices := s.cmd.notices ++ [e] }, pin := { s.pin with irq1 := true } }
    else (s.setF CMD_EVT_STATUS CMD_EVT_STATUS_NOTICE_OVF 1).addSat CMD_EVT_SEQ CMD_EVT_SEQ_LOST 1

/-- Raise an event (R61–R64): a masked event does nothing; another takes the next sequence number, is queued for HSPI and
is sent to the UDP event destination. -/
def State.raise (s : State) (num : Nat) (data : List Byte) : State :=
  if !bit (s.f CMD_EVT_MASK CMD_EVT_MASK_ENABLE) num then s
  else
    let e : Event := { num := num, seq := s.f CMD_EVT_SEQ CMD_EVT_SEQ_NEXT_SEQ, tbl := s.tbl, glb := s.rd GLB_STATE,
                       data := data }
    let s := s.addWrap CMD_EVT_SEQ CMD_EVT_SEQ_NEXT_SEQ 1
    (s.queueEvent e).sendEvent e

/-! ### Deferred work (R64) -/

/-- Whether SCANNING stands in a frame gap: a frame has ended and the next has not started (R143). -/
def State.inFrameGap (s : State) : Bool := s.scanning && s.f FIR_COL FIR_COL_PHASE == 4

/-- Record deferred work. -/
def State.addJob (s : State) (j : Job) : State :=
  { s with cmd := { s.cmd with jobs := s.cmd.jobs ++ [{ j with inGap := j.gap && s.inFrameGap }] } }

/-- Whether deferred work of an opcode is running or waiting (R40). -/
def State.jobOf (s : State) (opc : Nat) : Bool := s.cmd.jobs.any (fun j => j.opc == opc)

/-- Raise the EVT_DEFERRED of one job (R64). -/
def State.reportJob (s : State) (j : Job) (status detail : Nat) (data : List Byte) : State :=
  s.raise evDeferred (leBytes 2 j.opc ++ leBytes 2 j.req.tag ++ leBytes 2 status ++ leBytes 2 detail ++ data)

/-- End every job of an opcode with one outcome, the earlier request's report first (R20, R64). -/
def State.finishJobs (s : State) (opc status detail : Nat) (data : List Byte) : State :=
  let mine := s.cmd.jobs.filter (fun j => j.opc == opc)
  let s := { s with cmd := { s.cmd with jobs := s.cmd.jobs.filter (fun j => j.opc != opc) } }
  s.forEach mine (fun s j => s.reportJob j status detail data)

/-- Discard the deferred work that waits for a frame gap, on entry to FAULT (R42). -/
def State.discardGapJobs (s : State) : State :=
  let mine := s.cmd.jobs.filter (·.gap)
  let s := { s with cmd := { s.cmd with jobs := s.cmd.jobs.filter (fun j => !j.gap) } }
  s.forEach mine (fun s j => s.reportJob j stRefused 0 [])

/-! ### The NV log (R480, R481) -/

/-- Record types of R480. -/
def nvShutdown : Nat := 1
def nvTrip : Nat := 2
def nvFault : Nat := 3
def nvAck : Nat := 4

/-- Bytes 4 to 59 of a record taken now (R480). -/
def State.nvBody (s : State) (typ stateCode cause ref : Nat) : List Byte :=
  let ts (i : Nat) := if s.tsValid i then s.f (THM_TS i) THM_TS_TEMP else 0x8000
  leBytes 1 typ ++ leBytes 1 (s.f THM_STATE THM_STATE_THR) ++ leBytes 1 stateCode ++ leBytes 1 cause ++ leBytes 8 s.tbl
    ++ leBytes 8 s.tbs ++ (List.range 12).flatMap (fun i => leBytes 2 (ts i)) ++ leBytes 2 (s.rd ESF_CAUSE).toNat
    ++ leBytes 1 (s.f THM_TJ THM_TJ_SENSOR) ++ leBytes 1 (s.f THM_STATE THM_STATE_AON_FAIL) ++ leBytes 4 ref
    ++ leBytes 4 s.boot.nvBoots

/-- A byte of the NV log array. -/
def State.nvByte (s : State) (a : Nat) : Byte := Sp.get memDefault s.thm.nv a

/-- The 64 bytes of a record slot. -/
def State.nvSlot (s : State) (i : Nat) : List Byte := (List.range 64).map (fun k => s.nvByte (64 * i + k))

/-- Whether a stored record has a valid CRC. -/
def nvGood (r : List Byte) : Bool := leAt r 60 4 == crc32c (r.take 60)

/-- The slots whose record has a valid CRC. -/
def State.nvHeld (s : State) : List Nat := (List.range 128).filter (fun i => nvGood (s.nvSlot i))

/-- The THM_NVLOG fields that follow the array and the queue. -/
def State.nvSync (s : State) : State :=
  let s := s.setF THM_NVLOG THM_NVLOG_QUEUED (Nat.min 4 s.thm.queue.length)
  let s := s.setF THM_NVLOG THM_NVLOG_HELD s.nvHeld.length
  s.setF THM_NVLOG_SEQ THM_NVLOG_SEQ_SEQ s.thm.nvSeq

/-- Write one record into the oldest slot, its CRC last (R481). -/
def State.nvStore (s : State) (body : List Byte) : State :=
  let q := s.thm.nvSeq + 1
  let r := leBytes 4 q ++ body
  let rec60 := r ++ leBytes 4 (crc32c r)
  let base := 64 * ((q - 1) % 128)
  let nv := (List.range 64).foldl (fun m k => Sp.put memDefault m (base + k) (rec60.getD k 0)) s.thm.nv
  let s := { s with thm := { s.thm with nv := nv, nvSeq := q, writes := s.thm.writes ++ [s.tm.now] } }
  if leAt body 0 1 = nvAck then s.setF THM_NVLOG_ACK THM_NVLOG_ACK_REF (leAt body 48 4) else s

/-- Write the record at the head of the queue; a TRIP or FAULT record beyond 16 in 1 s is not written (R481). -/
def State.nvWriteHead (s : State) : State :=
  match s.thm.queue with
  | [] => s
  | body :: rest =>
    let s := { s with thm := { s.thm with queue := rest } }
    let recent := s.thm.writes.filter (fun t => decide (s.tm.now < t + tickS))
    let s := { s with thm := { s.thm with writes := recent } }
    let typ := leAt body 0 1
    if 16 ≤ recent.length ∧ (typ = nvTrip ∨ typ = nvFault) then (s.addSat THM_NVLOG THM_NVLOG_SUPPR 1).nvSync
    else (s.nvStore body).nvSync

/-- Write every queued record. -/
def State.nvFlush (s : State) : State := (List.range s.thm.queue.length).foldl (fun s _ => s.nvWriteHead) s

/-- Queue a TRIP or FAULT record; a full queue counts it in SUPPR (R481). -/
def State.nvQueue (s : State) (body : List Byte) : State :=
  if s.thm.queue.length < 4 then
    { s with thm := { s.thm with queue := s.thm.queue ++ [body] } }.nvSync
  else s.addSat THM_NVLOG THM_NVLOG_SUPPR 1

/-- Write a SHUTDOWN or ACK record, which is never suppressed, after the queued ones (R481). [DEDUCED, log 51] -/
def State.nvNow (s : State) (body : List Byte) : State := (s.nvFlush.nvStore body).nvSync

end Sys2Proof.Machine
end

