-- ==== Sys2Proof/Machine/Taps.lean ====
section
/-! DEFINITION. What one block offers to the monitor sequencer, the event recorder and the raw tap: triggers, events, samples and
rows on their way, and the reference buffer's automatic request (R253, R262, R276–R281, R285, R293, R294, R425, R426). -/

namespace Sys2Proof.Machine

open Reg

/-! ### The monitor ADC -/

/-- The automatic request for the reference buffer (R253). -/
def State.refAuto (s : State) : Bool :=
  s.srv.running || s.dev == .primed || s.dev == .scanning || s.dev == .hold || s.dev == .thermalHold

/-- The reference buffer follows its requests: its on time is kept, and REF_RDY falls as it switches off (R253). -/
def State.refCheck (s : State) : State :=
  if !s.domOn 13 then { s with mad := { s.mad with refOn := none } }
  else
    let s := s.setF MAD_STATUS MAD_STATUS_REF_AUTO (b2n s.refAuto)
    if s.fb MAD_CTRL MAD_CTRL_REF_EN || s.refAuto then
      match s.mad.refOn with
      | some _ => s
      | none => { s with mad := { s.mad with refOn := some s.tm.now } }
    else { s.setF MAD_STATUS MAD_STATUS_REF_RDY 0 with mad := { s.mad with refOn := none, guardReq := none } }

/-- An event of a trigger source at a TBS time meets the sequencer next when MAD_TRIG selects the source (R262). -/
def State.madEvent (s : State) (src t : Nat) : State :=
  if s.domOn 13 && s.f MAD_TRIG MAD_TRIG_SRC == src then
    { s with mad := { s.mad with triggers := s.mad.triggers ++ [(src, t)] } }
  else s

/-! ### Recorder triggers -/

/-- The recorder's state code (R284). -/
def State.recState (s : State) : Nat := s.f EVR_STATE EVR_STATE_STATE

/-- Whether records are written: FILLING, ARMED or TRIGGERED (R284). -/
def State.recording (s : State) : Bool := s.recState == 1 || s.recState == 2 || s.recState == 3

/-- Whether a trigger source is enabled; source 0 always, source 3 whatever SRC holds with HG_OUT = 1 (R285, R291). -/
def State.recSource (s : State) (src : Nat) : Bool :=
  src == 0 || bit (s.f EVR_TRIG EVR_TRIG_SRC) src || (src == 3 && s.fb EVR_SRC EVR_SRC_HG_OUT)

/-- Present a trigger with its TBS time; triggers of one PLL-H cycle count as one with the lowest source code (R285). -/
def State.recTrigger (s : State) (src t : Nat) : State :=
  if !s.domOn 14 || !s.recSource src then s
  else
    let same (x : Nat × Nat) : Bool := x.2 / 80 == t / 80
    let l := if s.evr.triggers.any same then
        s.evr.triggers.map (fun (x : Nat × Nat) => if same x then (Nat.min x.1 src, x.2) else x)
      else s.evr.triggers ++ [(src, t)]
    { s with evr := { s.evr with triggers := l } }

/-- A reference event of the masks happens at a TBS time (R294). -/
def State.maskRef (s : State) (code t : Nat) : State := { s with evr := { s.evr with refs := Sp.ins s.evr.refs code t } }

/-! ### Streams -/

/-- Extend or open a loss episode by one item lost at a TBS time (R281). -/
def lossAdd (l : Option Loss) (t now : Nat) : Loss :=
  match l with
  | some x => { x with last := t, lost := x.lost + 1 }
  | none => { first := t, last := t, lost := 1, began := now }

/-- An event of a recorded stream is lost (R281). -/
def State.loseEvent (s : State) (t : Nat) : State :=
  let s := s.addWrap EVR_CNT_GAPE EVR_CNT_GAPE_LOST 1
  if s.recording then { s with evr := { s.evr with lossE := some (lossAdd s.evr.lossE t s.tm.now) } } else s

/-- A monitor item is lost (R281). -/
def State.loseMonitor (s : State) (t : Nat) : State :=
  let s := s.addWrap EVR_CNT_GAPM EVR_CNT_GAPM_LOST 1
  if s.recording then { s with evr := { s.evr with lossM := some (lossAdd s.evr.lossM t s.tm.now) } } else s

/-- Word A of an event record (R276). -/
def eventWordA (stage : Nat) (e : Ev) : Nat :=
  2 ^ 60 + e.chan % 512 * 2 ^ 51 + e.tot % 4096 * 2 ^ 39 + b2n e.sat * 2 ^ 38 + b2n e.tpi * 2 ^ 37 + stage % 2 * 2 ^ 36
    + (if stage = 0 then 0 else (e.hits - 1) % 4 * 2 ^ 34)

/-- The event word of R93. -/
def eventWord (e : Ev) : Nat :=
  e.chan * 2 ^ 55 + e.tot * 2 ^ 43 + b2n e.sat * 2 ^ 42 + b2n e.tpi * 2 ^ 41 + e.time % 2 ^ 41

/-- Whether a 512-bit mask of 16 words has a channel's bit. -/
def State.chanBit (s : State) (word : Nat → Nat) (c : Nat) : Bool := bit (s.rd (word (c / 32))).toNat (c % 32)

/-- Whether a Weft link is ACTIVE. -/
def State.linkActive (s : State) (l : Nat) : Bool := s.domOn (17 + l / 2) && s.f (WFL_STATE l) WFL_STATE_STATE == 7

/-- The raw tap takes an item: lost while its link is not ACTIVE or the crossing is full (R427). -/
def State.tapItem (s : State) (i : TapItem) : State :=
  if !s.linkActive (s.f HNG_TAP_CTRL HNG_TAP_CTRL_LINK) || decide (256 ≤ s.evr.tap.length) then
    s.addWrap HNG_TAP_LOST HNG_TAP_LOST_LOST 1
  else { s with evr := { s.evr with tap := s.evr.tap ++ [i] } }

/-- Offer an event of a stage to the recorder and to the raw tap (R278, R279, R425). -/
def State.recEvent (s : State) (stage : Nat) (e : Ev) : State :=
  let s := if s.domOn 14 && s.recording && s.fb EVR_SRC EVR_SRC_EVENTS && s.f EVR_SRC EVR_SRC_STAGE == stage
      && s.chanBit EVR_CH_MASK e.chan then
      if 256 ≤ s.evr.evq.length then s.loseEvent e.time
      else { s with evr := { s.evr with evq := s.evr.evq ++ [(eventWordA stage e, e.time)] } }
    else s
  if s.fb HNG_TAP_CTRL HNG_TAP_CTRL_EN && s.f HNG_TAP_CTRL HNG_TAP_CTRL_STAGE == stage && s.chanBit HNG_TAP_MASK e.chan then
    s.tapItem (.event (eventWord e))
  else s

/-- The envelope segment of a sample at a TBS time; `none` when it comes before its reference or beyond segment 31 (R294). -/
def State.maskSeg (s : State) (m t : Nat) : Option Nat :=
  let code := s.f (EVR_MSK_CFG m) EVR_MSK_CFG_REF
  if code = 0 then some 0
  else
    match Sp.find s.evr.refs code with
    | none => none
    | some r =>
      let seg := (t - r) / (Nat.max 1 (s.f (EVR_MSK_CFG m) EVR_MSK_CFG_SEG_LEN) * 6400)
      if r < Sp.get (fun _ => 0) s.evr.mskFrom m ∨ t < r ∨ 31 < seg then none else some seg

/-- Keep a sample for every enabled mask that tests it (R293, R296). -/
def State.maskSample (s : State) (tests : State → Nat → Bool) (value : Int) (t : Nat) : State :=
  s.forEach (List.range 4) (fun s m =>
    if s.fb (EVR_MSK_CFG m) EVR_MSK_CFG_EN && tests s m then
      match s.maskSeg m t with
      | none => s
      | some g => { s with evr := { s.evr with samples := s.evr.samples ++ [⟨m, value, t, 0, g⟩] } }
    else s)

/-- A monitor item enters the recorder's crossing, or is lost when 64 wait there (R31, R279, R281). [DESIGN CHOICE, log 37] -/
def State.monPut (s : State) (wordA t : Nat) (chosen : Bool) (tests : State → Nat → Bool) (value : Int) : State :=
  if 64 ≤ s.evr.monq.length then (if chosen then s.loseMonitor t else s)
  else
    let s := if chosen && s.recording then { s with evr := { s.evr with monq := s.evr.monq ++ [(wordA, t)] } } else s
    s.maskSample tests value t

/-- Offer a conversion result to the recorder and its masks (R276, R278, R293); `kind` 1 TICK, 2 GUARD, 3 INJ, 4 SEQ. -/
def State.recResult (s : State) (kind conv code : Nat) (diff : Bool) (result : Int) (t : Nat) : State :=
  if !s.domOn 14 then s
  else
    let chosen := s.fb EVR_SRC EVR_SRC_MONITOR && bit (s.f EVR_MON_SEL EVR_MON_SEL_KINDS) (kind - 1)
      && bit (s.f EVR_MON_SEL EVR_MON_SEL_CONV) conv
    let a := 2 * 2 ^ 60 + kind * 2 ^ 57 + conv * 2 ^ 55 + code * 2 ^ 50 + b2n diff * 2 ^ 49 + 2 ^ 48 + ux 32 result
    s.monPut a t chosen (fun s m => s.f (EVR_MSK_CFG m) EVR_MSK_CFG_INPUT == 0
      && s.f (EVR_MSK_SRC m) EVR_MSK_SRC_CONV == conv && s.f (EVR_MSK_SRC m) EVR_MSK_SRC_CHBYTE == code + 64 * b2n diff) result

/-- Offer a filter output to the recorder and its masks (R276, R278, R293). -/
def State.recFilter (s : State) (chain : Nat) (out y16 : Int) (valid : Bool) (t : Nat) : State :=
  if !s.domOn 14 then s
  else
    let chosen := s.fb EVR_SRC EVR_SRC_MONITOR && bit (s.f EVR_MON_SEL EVR_MON_SEL_CHAINS) chain
    let a := 2 * 2 ^ 60 + 5 * 2 ^ 57 + chain % 4 * 2 ^ 55 + chain * 2 ^ 50 + b2n valid * 2 ^ 48 + ux 32 out
    s.monPut a t chosen (fun s m => s.f (EVR_MSK_CFG m) EVR_MSK_CFG_INPUT == 1
      && s.f (EVR_MSK_SRC m) EVR_MSK_SRC_CHAIN == chain && valid) y16

/-- Offer a scanned column's window levels, as (channel, WLEV) rising, to the window masks (R293, R294). -/
def State.recWindow (s : State) (azimuth : Nat) (levels : List (Nat × Nat)) : State :=
  if !s.domOn 14 then s
  else s.forEach (List.range 4) (fun s m =>
    if s.fb (EVR_MSK_CFG m) EVR_MSK_CFG_EN && s.f (EVR_MSK_CFG m) EVR_MSK_CFG_INPUT == 2 then
      let mine := levels.filter (fun x => decide (s.f (EVR_MSK_SRC m) EVR_MSK_SRC_CH_LO ≤ x.1)
        && decide (x.1 ≤ s.f (EVR_MSK_SRC m) EVR_MSK_SRC_CH_HI))
      match mine with
      | [] => s
      | x :: xs =>
        let best := xs.foldl (fun (b : Nat × Nat) y => if b.2 < y.2 then y else b) x
        { s with evr := { s.evr with samples := s.evr.samples ++ [⟨m, best.2, s.tbs, best.1, azimuth / 2 ^ 15⟩] } }
    else s)

/-- Offer the row of a scanned set: its 16-byte header, then the bins as packed bytes (R276–R278). -/
def State.recRow (s : State) (column frame width bins tfirst : Nat) (stolen : Bool) (data : List Byte) : State :=
  let a := 3 * 2 ^ 60 + s.f EVR_ROW_SEL EVR_ROW_SEL_CHMASK * 2 ^ 56 + s.f EVR_ROW_SEL EVR_ROW_SEL_BANK * 2 ^ 49
    + column % 4096 * 2 ^ 37 + bins % 8192 * 2 ^ 24 + width % 4 * 2 ^ 22 + b2n stolen * 2 ^ 21 + frame % 65536
  { s with evr := { s.evr with rowq := s.evr.rowq ++ [leBytes 8 a ++ leBytes 8 tfirst ++ data] } }

/-- Whether the recorder takes rows of a column (R278). -/
def State.recRows (s : State) (column : Nat) : Bool :=
  s.domOn 14 && s.recording && s.fb EVR_SRC EVR_SRC_ROWS &&
    (s.fb EVR_ROW_SEL EVR_ROW_SEL_ALLCOL || s.f EVR_ROW_SEL EVR_ROW_SEL_COL == column)

end Sys2Proof.Machine
end

