-- ==== Sys2Proof/Machine/Trip.lean ====
section
/-! DEFINITION. Top-level transitions, the Deadbolt and what leaving or entering a state does to every block
(R65, R66, R304–R307, R313–R316, R147, R70, R71, R244, R463, R544). -/

namespace Sys2Proof.Machine

open Reg

/-! ### Emission outputs -/

/-- Idle FIRE outputs and both reservoir switches open (R65). -/
def State.cutEmission (s : State) : State :=
  { s with pin := { s.pin with ehs := false, els := false }, fir := { s.fir with pulses := [] } }

/-- Command the two reservoir switches (R315, R317); both stay open while EXTEST is in force (R530). -/
def State.switches (s : State) (ehs els : Bool) : State :=
  { s with pin := { s.pin with ehs := ehs && !s.pin.extest, els := els && !s.pin.extest } }

/-- Drive or release HG_FAULT_N as the latched causes and HG_DRIVE say (R313). -/
def State.hgUpdate (s : State) : State :=
  let others := s.f ESF_CAUSE ESF_CAUSE_CAUSE * 2 % 65536 - (if bit (s.f ESF_CAUSE ESF_CAUSE_CAUSE) 6 then 128 else 0)
  { s with pin := { s.pin with hgFaultDrive := s.fb ESF_CTRL ESF_CTRL_HG_DRIVE && decide (others ≠ 0) } }

/-- Whether a cause code is latched. -/
def State.latched (s : State) (code : Nat) : Bool := bit (s.rd ESF_CAUSE).toNat code

/-- The condition of R303 that bears the name of a cause (R307); `none` for a cause without one. -/
def causeCond (code : Nat) : Option Nat :=
  if code = 1 then some 1 else if code = 2 then some 2 else if code = 3 then some 3 else if code = 4 then some 4
  else if code = 5 then some 5 else if code = 6 then some 6 else if code = 7 then some 7 else if code = 8 then some 8
  else if code = 13 then some 11 else none

/-- The conditions whose unbroken hold auto-clear counts (R307). -/
def timedConds : List Nat := [1, 2, 3, 4, 7]

/-- Record when each condition of R307 began to hold, by comparing a step's states. -/
def State.noteConds (s1 s0 : State) : State :=
  s1.forEach timedConds (fun s n =>
    if s1.cond n && !s0.cond n then
      { s with esf := { s.esf with condSince := Sp.put (fun _ => 0) s.esf.condSince n s1.tm.now } }
    else s)

/-! ### What a transition does to the blocks -/

/-- The frame in progress ends and the sequencer stops (R70, R143, R147). -/
def State.endFrame (s : State) : State :=
  let s := if s.isMS && s.fir.frameOpen then { s with zon := { s.zon with due := some (s.f FIR_FRAME FIR_FRAME_FRAME) } } else s
  let s := { s with fir := { s.fir with frameOpen := false, frameEnd := some s.tm.now } }
  s.setF FIR_COL FIR_COL_PHASE 0

/-- The field of HGE_STATUS that shows a set's state. -/
def setField (set : Nat) : Fld := if set = 0 then HGE_STATUS_SET0 else HGE_STATUS_SET1

/-- The state of a histogram set. -/
def State.setState (s : State) (set : Nat) : Nat := s.f HGE_STATUS (setField set)

/-- The state with a histogram set in a state. -/
def State.putSet (s : State) (set st : Nat) : State := s.setF HGE_STATUS (setField set) st

/-- The window addresses of a set: coarse bins, zoom bins, and summaries with control records (R178). -/
def State.clearSet (s : State) (set : Nat) : State :=
  let s := s.clearMem (0x10000000 + set * 0x500000) (0x10000000 + (set + 1) * 0x500000)
  let s := s.clearMem (0x10A00000 + set * 0x80000) (0x10A00000 + (set + 1) * 0x80000)
  s.clearMem (0x10B00000 + set * 0x80000) (0x10B00000 + (set + 1) * 0x80000)

/-- Close the column in progress with the shots already fired; one that has fired none passes no descriptor (R147, R142).
[DEDUCED, log 25] -/
def State.closeColumn (s : State) : State :=
  match s.fir.column with
  | none => s
  | some c =>
    let c := { c with trunc := c.trunc || decide (c.fired < c.shots) }
    { s with fir := { s.fir with column := none, closing := if c.fired = 0 then s.fir.closing else s.fir.closing ++ [c] } }

/-- The set of the column extracted last is retained once no other column is to be extracted (R169). [DEDUCED, log 26] -/
def State.settleRetain (s : State) : State :=
  match s.hge.stash with
  | none => s
  | some (set, col, frame, cells) =>
    if !s.fir.closing.isEmpty || !s.hge.descs.isEmpty || s.ext.busy.isSome then s
    else
      let s := s.forEach cells (fun s c => s.setByte c.1 c.2)
      let s := { s with hge := { s.hge with stash := none } }
      let s := (s.setF HGE_RET HGE_RET_SET set).setF HGE_RET HGE_RET_COLUMN col
      (s.setF HGE_RET HGE_RET_VALID 1).wr HGE_RET_FRAME (BitVec.ofNat 32 frame)

/-- Abandon the column in progress and clear its set (R71). -/
def State.abandonColumn (s : State) : State :=
  match s.fir.column with
  | none => s
  | some c =>
    let s := (s.clearSet c.set).putSet c.set 0
    { s with fir := { s.fir with column := none, shots := s.fir.shots.filter (fun h => h.serial != c.serial) },
             hge := { s.hge with descs := s.hge.descs.filter (fun d => d.1 != c.set),
                                 tracks := s.hge.tracks.filter (fun d => d.1 / 512 != c.set) } }

/-- CAL_STATE with no procedure accepted: RUN, PHASE, PROC and STEPS read 0. -/
def State.calIdle (s : State) : State :=
  (((s.setF CAL_STATE CAL_STATE_RUN 0).setF CAL_STATE CAL_STATE_PHASE 0).setF CAL_STATE CAL_STATE_PROC 0).setF
    CAL_STATE CAL_STATE_STEPS 0

/-- Abandon the running calibration procedure (R463). -/
def State.calAbandon (s : State) (status : Nat) : State :=
  match s.cal.run with
  | none => s
  | some _ =>
    let s := { s with cal := { s.cal with run := none } }
    let s := (s.addSat CAL_CNT CAL_CNT_ABORTS 1).calIdle
    s.finishJobs 0x0400 status 0 []

/-- Whether a procedure fires the laser (R451). -/
def calEmits (proc : Nat) : Bool := proc == 6 || proc == 7

/-- The calibration procedure when the device leaves SCANNING (R459, R463). -/
def State.calLeave (s : State) (nxt : DevState) : State :=
  match s.cal.run with
  | none => s
  | some r =>
    if calEmits r.proc || nxt == .fault then s.calAbandon stRefused
    else { s with cal := { s.cal with run := some { r with mode := .direct } } }

/-- The calibration procedure when the device enters SCANNING (R459, R463). -/
def State.calEnter (s : State) : State :=
  match s.cal.run with
  | none => s
  | some r => if r.mode = .direct then s.calAbandon stBusy else s

/-- One loop of the servo. -/
def State.loop (s : State) (x : Nat) : Loop := Sp.get (fun _ => {}) s.srv.loops x

/-- The state with one loop of the servo replaced. -/
def State.setLoop (s : State) (x : Nat) (l : Loop) : State :=
  { s with srv := { s.srv with loops := Sp.put (fun _ => {}) s.srv.loops x l } }

/-- Start one loop: in the mode its register holds, its trajectory at entry 0 with the LEN and STEP written (R238, R240, R241,
R244). -/
def State.loopStart (s : State) (x : Nat) : State :=
  let traj := if x < 2 then s.rd (SRV_LP_TRAJ x) else 0
  let s := s.setLoop x { running := true, len := SRV_LP_TRAJ_LEN.get traj, step := Nat.max 1 (SRV_LP_TRAJ_STEP.get traj),
                         tick := s.srv.ticks }
  s.setF (SRV_LP_STAT x) SRV_LP_STAT_STATE (if s.fb (SRV_LP_CTRL x) SRV_LP_CTRL_MODE then 2 else 1)

/-- Stop one loop. -/
def State.loopStop (s : State) (x : Nat) : State :=
  (s.setLoop x { s.loop x with running := false }).setF (SRV_LP_STAT x) SRV_LP_STAT_STATE 0

/-- The SAFE code of a sink: a PWM takes that of the DAC of its number (R242, R243). -/
def State.sinkSafe (s : State) (k : Nat) : Nat := s.f (SRV_DAC (k % 4)) SRV_DAC_SAFE

/-- The sink a loop names, when it names one: 0–3 the DACs, 4–7 the PWMs (R242). -/
def State.loopSink (s : State) (x : Nat) : Option Nat :=
  let o := s.f (SRV_LP_CFG x) SRV_LP_CFG_OUT
  if o = 0 then none else some (o - 1)

/-- The running loop that drives a sink: the lowest-numbered one that names it (R242). -/
def State.sinkLoop (s : State) (k : Nat) : Option Nat :=
  (List.range 6).find? (fun x => (s.loop x).running && s.loopSink x == some k)

/-- The code on the way from a sink's code to its SAFE code, `left` ticks of the ramp before its end (R244). -/
def rampCode (from_ safe : Nat) (left total : Nat) : Nat :=
  if total = 0 then safe else ((safe : Int) + ((from_ : Int) - safe) * left / total).toNat

/-- The code a sink outputs (R242–R244). [DEDUCED, log 34] -/
def State.sinkCode (s : State) (k : Nat) : Nat :=
  let own := Sp.get (fun _ => s.sinkSafe k) s.srv.sinks k
  if s.srv.frozen then own
  else if !s.srv.running then s.sinkSafe k
  else match s.srv.rampLeft with
    | some n => rampCode (Sp.get (fun _ => s.sinkSafe k) s.srv.rampFrom k) (s.sinkSafe k) n (s.f SRV_CTRL SRV_CTRL_STOP_RAMP)
    | none => if k < 4 && (s.sinkLoop k).isNone then s.f (SRV_DAC k) SRV_DAC_DIRECT else own

/-- Start the servo: every loop with RUN = 1 and a type starts (R244). -/
def State.srvStart (s : State) : State :=
  if (s.srv.running && s.srv.rampLeft.isNone) || !s.domOn 12 then s
  else
    let s := { s with srv := { s.srv with running := true, ticks := 0, tickAt := s.tm.now, azPrev := none, rateF := 0,
                                          azValid := none, results := [], idxTimes := [], goodRun := 0, badRun := 0,
                                          rampLeft := none, rampFrom := [], sinks := [], frozen := false } }
    let s := s.setF SRV_STATUS SRV_STATUS_RUNNING 1
    s.forEach (List.range 6) (fun s x =>
      if s.fb (SRV_LP_CTRL x) SRV_LP_CTRL_RUN && s.f (SRV_LP_CFG x) SRV_LP_CFG_TYPE != 0 then s.loopStart x
      else s.loopStop x)

/-- The mirror-speed level falls (R246). -/
def State.winOut (s : State) : State :=
  if s.fb SRV_WIN_STAT SRV_WIN_STAT_IN then
    (s.setF SRV_WIN_STAT SRV_WIN_STAT_IN 0).addSat SRV_WIN_STAT SRV_WIN_STAT_EXITS 1
  else s

/-- Stop the servo: every sink ramps to its SAFE code over STOP_RAMP ticks, and the loops then stop (R244). -/
def State.srvStop (s : State) : State :=
  if !s.srv.running || s.srv.rampLeft.isSome then s
  else
    let from_ := (List.range 8).map (fun k => (k, s.sinkCode k))
    let s := { s with srv := { s.srv with rampLeft := some (s.f SRV_CTRL SRV_CTRL_STOP_RAMP), rampFrom := from_ } }
    let s := s.forEach (List.range 6) (fun s x =>
      if (s.loop x).running then s.setF (SRV_LP_STAT x) SRV_LP_STAT_STATE 3 else s)
    s.winOut

/-- What leaving SCANNING does, whatever the way (R65, R70, R71, R147, R304). [DEDUCED, log 12] -/
def State.leaveScanning (s : State) (nxt : DevState) : State :=
  let s := s.cutEmission
  let s := { s with esf := { s.esf with armed := false, charging := false, reservoir := false } }
  let s := s.setF ESF_WALK_STAT ESF_WALK_STAT_STEP 0
  let s := if nxt = .idle then s.abandonColumn else s.closeColumn
  let s := { s.endFrame with fir := { s.endFrame.fir with held := [], holding := false } }
  s.settleRetain.calLeave nxt

/-- What entering SCANNING does (R102, R143, R168, R218, R317). [DEDUCED, log 12] -/
def State.enterScanning (s : State) : State :=
  let s := s.switches true true
  let s := { s with esf := { s.esf with armed := true, charging := true, reservoir := false, failRun := 0, switchClean := true },
                    fir := { s.fir with frameOpen := false, frameEnd := none, entered := s.tm.now, prevEdge := none,
                                        prevStart := none, column := none, closing := [], shots := [],
                                        nextEntry := 0, starts := [], events := [],
                                        go := none, waited := false, anyFired := false, shortAlloc := true,
                                        allocDue := s.fb FIR_ALC_CTRL FIR_ALC_CTRL_EN,
                                        nextCounts := if s.fb FIR_ALC_CTRL FIR_ALC_CTRL_EN then none else some [],
                                        nextBudget := (0, 0) },
                    cas := { s.cas with sent := none, await := none, due := !s.fb FIR_ALC_CTRL FIR_ALC_CTRL_EN },
                    hge := { s.hge with nextSet := 0, descs := [], tracks := [], met := [], stash := none }, tmb := { s.tmb with latched := false } }
  let s := s.setF ESF_WALK_STAT ESF_WALK_STAT_STEP 4
  let s := s.forEach (List.range 4) (fun s k =>
    s.setF (TDC_FREF_AVG k) TDC_FREF_AVG_AVG (16 * s.f (TDC_FREF_DLY k) TDC_FREF_DLY_NOMINAL))
  let s := ((s.setF HGE_RET HGE_RET_VALID 0).putSet 0 0).putSet 1 0
  let s := ((s.setF FIR_COL FIR_COL_COLUMN 0).setF FIR_COL FIR_COL_PHASE 1).setF FIR_COL FIR_COL_SHOTS_DONE 0
  s.calEnter

/-- Put a pending shot key into use and report its KEY_SET (R149, R150). [DEDUCED, log 19] -/
def State.applyKey (s : State) : State :=
  match s.fir.keyPending with
  | none => s
  | some (key, fused) =>
    let s := { s with fir := { s.fir with keyPending := none } }
    let s := s.wr64 FIR_KEY_LO FIR_KEY_HI key
    let s := (s.setF FIR_KEY_STAT FIR_KEY_STAT_PEND 0).setF FIR_KEY_STAT FIR_KEY_STAT_SRC (b2n (!fused))
    s.finishJobs 0x0307 stOk 0 []

/-- Drop what waits for a frame gap or frame start: its jobs end REFUSED_STATE and no PEND bit stays set (R42). -/
def State.discardPending (s : State) : State :=
  let s := { s with fir := { s.fir with keyPending := none } }
  let s := s.forEach [(FIR_WARP_ACT, FIR_WARP_ACT_PEND), (FIR_KEY_STAT, FIR_KEY_STAT_PEND),
    (FIR_PROFILE, FIR_PROFILE_PEND), (ZON_COMMIT_STAT, ZON_COMMIT_STAT_PEND)] (fun s r => s.setF r.1 r.2 0)
  s.discardGapJobs

/-- GLB_STATE and READY after a transition (R66, R544). -/
def State.setDev (s : State) (nxt : DevState) (cause : Nat) : State :=
  let w := s.rd GLB_STATE
  let s := s.wr GLB_STATE (BitVec.ofNat 32 (((GLB_STATE_TRANS_COUNT.get w + 1) % 256) * 2 ^ 24 + cause * 2 ^ 16
    + GLB_STATE_STATE.get w * 2 ^ 8 + nxt.code))
  { s with pin := { s.pin with ready := true } }

/-- The EVT_FAULT word of an entry to FAULT (R64). -/
def State.faultWord (s : State) (kind cause : Nat) : Nat :=
  let q := if cause = 0x62 then
      lowestSet 4 (s.f HGE_STATUS HGE_STATUS_MM_FAULT ||| s.f HGE_STATUS HGE_STATUS_MM_PEND) else 0
  let d := if cause = 0x11 then s.f GLB_BOOT GLB_BOOT_STAGE
    else if cause = 0x22 then s.f ESF_WALK_STAT ESF_WALK_STAT_REASON else 0
  kind + cause * 2 ^ 8 + q % 16 * 2 ^ 16 + d * 2 ^ 20

/-- Take a transition of R66 that neither enters BOOT nor OFF. [DESIGN CHOICE, log 17; DEDUCED, log 19] -/
def State.goto (s : State) (nxt : DevState) (cause : Nat) : State :=
  let old := s.dev
  let s := if old = .scanning then s.leaveScanning nxt else s
  let s := s.setDev nxt cause
  let s := if nxt = .scanning then s.enterScanning else s
  let s := if nxt = .primed then { s with esf := { s.esf with walkFailed := false } } else s
  let s := if nxt = .primed ∧ old = .idle then s.srvStart else s
  let s := if nxt = .idle ∧ !s.fb SRV_CTRL SRV_CTRL_TUNE_EN then s.srvStop else s
  let s := if nxt = .fault then s.srvStop else s
  let s := (s.refCheck.recTrigger 7 s.tbs).raise evState (leBytes 8 s.tbs)
  if (old = .scanning ∨ old = .thermalHold) ∧ nxt ≠ .thermalHold ∧ nxt ≠ .fault then s.applyKey else s

/-! ### The Deadbolt -/

/-- Set cause bits with the time each latched (R304). -/
def State.setCauses (s : State) (codes : List Nat) : State :=
  let s := s.wr ESF_CAUSE (BitVec.ofNat 32 ((s.rd ESF_CAUSE).toNat ||| bitsOf codes))
  { s with esf := { s.esf with causeAt := codes.foldl (fun m c => Sp.put (fun _ => 0) m c s.tm.now) s.esf.causeAt,
                               switchClean := s.esf.switchClean && !codes.contains 8 && !codes.contains 9 } }

/-- Forget the guard pair that a walk would have requested at the end of its step: a walk that ends before makes no request
(R315). [DEDUCED, log 14] -/
def State.dropGuardReq (s : State) : State :=
  { s with mad := { s.mad with guardReq := s.mad.guardReq.filter (fun t => decide (t ≤ s.tm.now)) } }

/-- End a switch walk with a reason: both enables low (R316). [DEDUCED, log 9] -/
def State.endWalk (s : State) (reason : Nat) : State :=
  let s := s.dropGuardReq
  let s := (s.setF ESF_WALK_STAT ESF_WALK_STAT_STEP 0).setF ESF_WALK_STAT ESF_WALK_STAT_REASON reason
  let s := { s with esf := { s.esf with walk := none, armed := false, walkFailed := s.esf.walkFailed || decide (reason ≤ 5) } }
  s.switches false false

/-- Start a trip: FIRST, TRIPS, the trip time and the NV log record, then the emission cut (R305, R306). [DEDUCED, log 11] -/
def State.startTrip (s : State) (first : Nat) : State :=
  let s := (s.setF ESF_TRIP ESF_TRIP_FIRST first).addSat ESF_TRIP ESF_TRIP_TRIPS 1
  let s := s.wr64 ESF_TRIP_LO ESF_TRIP_HI s.tbs
  let s := if bit (s.f ESF_CTRL ESF_CTRL_AUTOCLR) first then s
    else s.nvQueue (s.nvBody nvTrip s.dev.code first 0)
  s.cutEmission.recTrigger 6 s.tbs

/-- Raise EVT_SAFETY for the last trip (R305). -/
def State.raiseSafety (s : State) : State :=
  s.raise evSafety (leBytes 4 ((s.rd ESF_CAUSE).toNat % 65536 + s.f ESF_TRIP ESF_TRIP_FIRST * 65536)
    ++ leBytes 8 (s.rd64 ESF_TRIP_LO ESF_TRIP_HI))

/-- Row 14 of R66, the change of state of a trip in SCANNING. -/
def State.tripRow (s : State) : State := if s.scanning then s.goto .primed 0x23 else s

/-- Latch cutoff causes, with a trip while armed, and then make the change of state that belongs to them (R304–R306). [DEDUCED, log 11] -/
def State.latchWith (s : State) (codes : List Nat) (change : State → State) : State :=
  let new := codes.filter (fun c => !s.latched c)
  let armed := s.esf.armed
  let s := (s.setCauses new).hgUpdate
  match armed, new with
  | true, c :: cs =>
    let s := s.startTrip (cs.foldl Nat.min c)
    let s := if s.esf.walk.isSome then s.endWalk 6 else s
    (change s).raiseSafety
  | _, _ => change s

/-- Latch cutoff causes under row 14. -/
def State.latch (s : State) (codes : List Nat) : State := s.latchWith codes State.tripRow

/-- Clear cause bits (R307). -/
def State.unlatch (s : State) (codes : List Nat) : State :=
  let w := (s.rd ESF_CAUSE).toNat
  (s.wr ESF_CAUSE (BitVec.ofNat 32 (w - (w &&& bitsOf codes)))).hgUpdate

/-- Enter FAULT: FAULT latches for a cause outside the table of R304, deferred gap work is discarded, the record and the
events follow (R42, R64, R304, R480). [DEDUCED, log 10] -/
def State.enterFault (s : State) (cause : Nat) : State :=
  let body := s.nvBody nvFault s.dev.code cause 0
  let s := s.nvQueue body
  let s := s.cutEmission
  let s := match s.cal.run with | some _ => s.calAbandon stRefused | none => s
  let s := if s.esf.walk.isSome then s.endWalk 6 else s
  let s := (s.goto .fault cause).discardPending
  let s := if cause = 0x11 ∨ cause = 0x22 ∨ cause = 0x62 then s.latch [15] else s
  s.raise evFault (leBytes 4 (s.faultWord 1 cause))

end Sys2Proof.Machine
end

