-- ==== Sys2Proof/Machine/Hooks.lean ====
section
/-! DEFINITION. Events that one block raises for another: DMA requests and queue items, event captures, frame-start events and
trace triggers (R143, R248, R388, R434, R439–R441). -/

namespace Sys2Proof.Machine

open Reg

/-- A free value for a place, and the state with the count of free values advanced. [DESIGN CHOICE, log 6] -/
def State.openNat (s : State) (place : Nat) : Nat × State := ((Config.openValue place s.draws).toNat, s.drawn)

/-! ### DMA -/

/-- One DMA channel. -/
def State.dch (s : State) (c : Nat) : DmaCh := Sp.get (fun _ => {}) s.dma.ch c

/-- The state with one DMA channel replaced. -/
def State.setDch (s : State) (c : Nat) (d : DmaCh) : State :=
  { s with dma := { s.dma with ch := Sp.put (fun _ => {}) s.dma.ch c d } }

/-- Whether a channel is enabled. -/
def State.dmaEn (s : State) (c : Nat) : Bool := s.fb (DMA_CH_CTRL c) DMA_CH_CTRL_EN

/-- A request reaches a channel; while its previous burst is outstanding it is not kept and counts in MISS (R441). -/
def State.dmaPend (s : State) (c : Nat) : State :=
  if (s.dch c).pend then s.addSat (DMA_CH_CNT c) DMA_CH_CNT_MISS 1
  else (s.setDch c { s.dch c with pend := true }).setF (DMA_CH_CTRL c) DMA_CH_CTRL_REQ 1

/-- A request source asks every enabled channel that selects it for a burst (R439). -/
def State.dmaRequest (s : State) (req : Nat) : State :=
  if !s.domOn 19 then s
  else s.forEach (List.range 16) (fun s c =>
    if s.dmaEn c && s.f (DMA_CH_CFG c) DMA_CH_CFG_REQ == req then s.dmaPend c else s)

/-- The fill of a queue: 1 QMON, 2 QFILT. -/
def State.queueFill (s : State) (req : Nat) : Nat := if req = 1 then s.dma.qmon.length else s.dma.qfilt.length

/-- The watermark requests of the channels that drain a queue, after its fill has changed (R440). -/
def State.watermarks (s : State) (req : Nat) : State :=
  s.forEach (List.range 16) (fun s c =>
    if s.dmaEn c && s.f (DMA_CH_CFG c) DMA_CH_CFG_REQ == req then
      let n := s.queueFill req
      let h := if s.f (DMA_CH_WM c) DMA_CH_WM_HIGH ≤ n then true
        else if n ≤ s.f (DMA_CH_WM c) DMA_CH_WM_LOW then false else (s.dch c).held
      (s.setDch c { s.dch c with held := h }).setF (DMA_CH_CTRL c) DMA_CH_CTRL_REQ (b2n h)
    else s)

/-- The fill fields of both queues. -/
def State.dmaFills (s : State) : State :=
  (s.setF DMA_QMON_STAT DMA_QMON_STAT_FILL s.dma.qmon.length).setF DMA_QFILT_STAT DMA_QFILT_STAT_FILL s.dma.qfilt.length

/-- Offer a conversion result to QMON (R434). -/
def State.toQmon (s : State) (kind code : Nat) (diff : Bool) (conv : Nat) (result : Int) : State :=
  if !s.domOn 19 || !s.fb DMA_QMON_CFG DMA_QMON_CFG_EN || !bit (s.f DMA_QMON_CFG DMA_QMON_CFG_KINDS) (kind - 1)
      || !bit (s.f DMA_QMON_CFG DMA_QMON_CFG_CONV) conv then s
  else if 1024 ≤ s.dma.qmon.length then s.addSat DMA_QMON_STAT DMA_QMON_STAT_DROP 1
  else
    let w := kind * 2 ^ 29 + code % 32 * 2 ^ 24 + b2n diff * 2 ^ 23 + conv % 4 * 2 ^ 21 + ux 16 result
    ({ s with dma := { s.dma with qmon := s.dma.qmon ++ [w] } }.dmaFills).watermarks 1

/-- Offer a filter output to QFILT (R434). -/
def State.toQfilt (s : State) (chain : Nat) (out : Int) (valid : Bool) : State :=
  if !s.domOn 19 || !s.fb DMA_QFILT_CFG DMA_QFILT_CFG_EN || !bit (s.f DMA_QFILT_CFG DMA_QFILT_CFG_CHAINS) chain then s
  else
    let w := ux 32 out + 2 ^ 32 * (s.dma.seq % 65536 * 65536 + b2n valid * 8 + chain % 8)
    let s := { s with dma := { s.dma with seq := (s.dma.seq + 1) % 65536 } }
    if 512 ≤ s.dma.qfilt.length then s.addSat DMA_QFILT_STAT DMA_QFILT_STAT_DROP 1
    else ({ s with dma := { s.dma with qfilt := s.dma.qfilt ++ [w] } }.dmaFills).watermarks 2

/-- What a channel loses when it stops: request, holding register and position; REMAIN and CUR become unspecified where
`open_` says so (R445, R446). [DESIGN CHOICE, log 97] -/
def State.dmaDrop (s : State) (c status : Nat) (open_ : Bool) : State :=
  let s := s.setDch c {}
  let s := ((s.setF (DMA_CH_CTRL c) DMA_CH_CTRL_EN 0).setF (DMA_CH_CTRL c) DMA_CH_CTRL_REQ 0).setF
    (DMA_CH_CTRL c) DMA_CH_CTRL_STATUS status
  if open_ then
    s.forEach [DMA_CH_REMAIN c, DMA_CH_CUR c 0, DMA_CH_CUR c 1] (fun s a =>
      let (v, s) := s.openNat a
      s.wr a (BitVec.ofNat 32 v))
  else s

/-! ### Captures, frame starts, traces -/

/-- Every capture unit with this source records a TBS time (R388). -/
def State.capture (s : State) (src t : Nat) : State :=
  s.forEach (List.range 4) (fun s k =>
    if s.fb (TIM_EVCAP_CFG k) TIM_EVCAP_CFG_EN && s.f (TIM_EVCAP_CFG k) TIM_EVCAP_CFG_SRC == src then
      (s.wr64 (TIM_EVCAP_LO k) (TIM_EVCAP_HI k) t).addSat (TIM_EVCAP_CNT k) TIM_EVCAP_CNT_COUNT 1
    else s)

/-- Whether the device is a cascade head (R405). -/
def State.isHead (s : State) : Bool := s.f HNG_CAS_CFG HNG_CAS_CFG_ROLE == 1

/-- Whether the device is a cascade member (R405). -/
def State.isMember (s : State) : Bool := s.f HNG_CAS_CFG HNG_CAS_CFG_ROLE == 2

/-- The downstream links of a role in a topology (R406). -/
def downLinks (role topo : Nat) : List Nat :=
  if role = 1 then (if topo = 0 then [1] else [0, 1, 2, 3])
  else if role = 2 then (if topo = 0 then [1] else if topo = 2 then [1, 2, 3] else [])
  else []

/-- The links a cascade member uses: its upstream link, and the downstream links its topology gives it that are enabled. -/
def State.memberLinks (s : State) : List Nat :=
  if s.isMember then
    0 :: (downLinks 2 (s.f HNG_CAS_CFG HNG_CAS_CFG_TOPOLOGY)).filter (fun l => s.fb (WFL_CTRL l) WFL_CTRL_EN)
  else []

/-- Whether R33 requires a domain for SCANNING, as things stand; without the safety package one of the two ports suffices. -/
def State.needs (s : State) (d : Nat) : Bool :=
  !bit (fusedOff s.variant) d &&
    (if d < 14 then true
     else if d = 15 then s.isMS || !s.domOn 16
     else if d = 16 then s.isMS || !s.domOn 15
     else if d = 17 || d = 18 then s.memberLinks.any (fun l => 17 + l / 2 == d)
     else false)

/-- The domains of R33 that SCANNING requires and that are off. -/
def State.missing (s : State) : List Nat := (List.range 20).filter (fun d => s.needs d && !s.domOn d)

/-- Whether a required domain is marked CAL_STALE without acceptance (R67, R470, R493). -/
def State.staleBlocks (s : State) : Bool :=
  let w := s.f CAL_STALE CAL_STALE_STALE
  (List.range 8).any (fun i => s.needs (i + 2) && bit w i && !bit (s.f CAL_STALE CAL_STALE_ACCEPTED) i)

/-- The frame-start source in force; a member's is HINGE whatever FSRC holds (R143, R414). -/
def State.fsrc (s : State) : Nat := if s.isMember then 3 else s.ef FIR_SEQ FIR_SEQ_FSRC

/-- A source of R143 gives a frame-start event at a TBS time, kept for the sequencer when it is the selected source. -/
def State.frameEvent (s : State) (src t : Nat) : State :=
  if s.domOn 11 && s.fsrc == src then { s with fir := { s.fir with events := s.fir.events ++ [(src, t)] } }
  else s

/-- A trigger source of the servo trace fires: the next record becomes the trigger record (R248). -/
def State.traceTrigger (s : State) (src : Nat) : State :=
  if s.f SRV_TRC_STAT SRV_TRC_STAT_STATE = 1 ∧ s.f SRV_TRC_CTRL SRV_TRC_CTRL_TRIG = src then
    { s with srv := { s.srv with trcPend := true } }
  else s

/-- The mirror-speed level falls while the servo runs: a trace trigger, and a MIRROR cause while armed (R246, R304). -/
def State.mirrorOut (s : State) : State :=
  let s := s.winOut.traceTrigger 1
  if s.esf.armed then s.latch [3] else s

end Sys2Proof.Machine
end

