-- ==== Sys2Proof/Machine/Operands.lean ====
section
/-! DEFINITION. Operand forms of the command packets: opcodes, permissions by state, payload fields by their packet offset,
and the shared frame of every command's execution (R34, R35, R38, R52, R54, R55, R545). -/

namespace Sys2Proof.Machine

open Reg

/-! ### Payload fields, by offset from the start of the packet -/

/-- A field of `n` bytes at a packet offset; the payload begins at offset 16. -/
def fld (p : List Byte) (off n : Nat) : Nat := leAt p (off - 16) n

/-- The bytes of a payload field. -/
def fldBytes (p : List Byte) (off n : Nat) : List Byte := slice p (off - 16) n

/-- The offset of the first non-zero byte of a field, `none` when all are zero. -/
def firstNonZero (p : List Byte) (off n : Nat) : Bool := !allZero (fldBytes p off n)

/-- A signed field. -/
def fldS (p : List Byte) (off n : Nat) : Int := sx (8 * n) (fld p off n)

/-- One check of a request: refused when the flag holds, with a status and DETAIL. -/
structure Check where
  bad : Bool
  status : Nat
  detail : Nat
  deriving DecidableEq, Repr

/-- The first check that fails. -/
def firstBad (l : List Check) : Option Check := l.find? (·.bad)

/-- A BAD_PARAM check (R35). -/
def par (bad : Bool) (detail : Nat) : Check := ⟨bad, stBadParam, detail⟩

/-- A check with a status of its own and DETAIL 0. -/
def chk (bad : Bool) (status : Nat) : Check := ⟨bad, status, 0⟩

/-! ### Opcodes (R52) -/

/-- The opcodes of R52. -/
def opcodes : List Nat :=
  (List.range 7).map (0x0100 + ·) ++ (List.range 5).map (0x0200 + ·) ++ (List.range 8).map (0x0300 + ·)
  ++ (List.range 3).map (0x0400 + ·) ++ (List.range 6).map (0x0500 + ·) ++ (List.range 5).map (0x0600 + ·)
  ++ (List.range 6).map (0x0700 + ·) ++ (List.range 5).map (0x0800 + ·) ++ (List.range 5).map (0x0900 + ·)
  ++ (List.range 6).map (0x0A00 + ·)

/-- Whether an opcode is implemented in the variant (R4, R52). -/
def State.knownOpcode (s : State) (opc : Nat) : Bool :=
  opcodes.contains opc && (s.isMS || !(opc == 0x0504 || opc == 0x0505))

/-- Whether an opcode changes nothing: the "Read" opcodes of R54. `f1` is FUNCTION of a STATE_DUMP-like request. -/
def readOpcode (opc : Nat) : Bool :=
  [0x0200, 0x0203, 0x0401, 0x0500, 0x0603, 0x0604, 0x0700, 0x0800, 0x0901, 0x0903].contains opc

/-- Whether an opcode is allowed in a state (R54). -/
def allowedIn (opc : Nat) (d : DevState) : Bool :=
  match d with
  | .off | .boot => false
  | .fault =>
    let fam := opc / 256
    fam == 1 || fam == 10 || opc == 0x0704 || opc == 0x0902
      || ([2, 5, 6, 7, 8, 9].contains fam && readOpcode opc)
  | _ => true

/-! ### Acceptance (R38, R39, R44, R545) -/

/-- Whether command packets are executed in a state. -/
def runsCommands (d : DevState) : Bool := d != .off && d != .boot

/-- The header fields of a packet. -/
def reqOf (via : Via) (pkt : List Byte) : Req :=
  { via := via, tag := leAt pkt 6 2, key := leAt pkt 3 1 / 4 % 4, auth := leAt pkt 3 1 % 2 == 1, ctr := leAt pkt 12 4,
    ver := leAt pkt 2 1 }

/-- The length of a whole packet, from its header. -/
def packetLen (pkt : List Byte) : Nat := 16 + leAt pkt 8 4 + (if leAt pkt 3 1 % 2 = 1 then 16 else 0)

/-- Whether a transport requires authentication (R45). -/
def State.authRequired (s : State) : Via → Bool
  | .hspi => s.fb CMD_AUTH_CTRL CMD_AUTH_CTRL_REQ_HSPI
  | .udp .. => s.fb CMD_AUTH_CTRL CMD_AUTH_CTRL_REQ_UDP

/-- Whether an authenticated packet has a session, a valid key slot and the right trailer (R43). -/
def State.trailerOk (s : State) (q : Req) (pkt : List Byte) : Bool :=
  (s.session q.via).isSome && bit s.cmd.keyValid q.key
    && s.trailer q.via q.key (pkt.take (pkt.length - 16)) == pkt.drop (pkt.length - 16)

/-- Whether a packet repeats the last accepted request of its session byte for byte (R44). -/
def State.repeats (s : State) (q : Req) (pkt : List Byte) : Bool :=
  match s.session q.via with
  | some x => !x.lastReq.isEmpty && x.lastReq == pkt
  | none => false

/-- Whether a counter is greater than that of the session's last accepted request (R44). -/
def State.fresh (s : State) (q : Req) : Bool :=
  match s.session q.via with
  | some x => decide (x.ctr < q.ctr)
  | none => false

/-- Accept the counter of an authenticated request (R44, R545). -/
def State.acceptCtr (s : State) (q : Req) (pkt : List Byte) : State :=
  s.setSession q.via ((s.session q.via).map (fun (x : Session) =>
    { x with ctr := q.ctr, key := q.key, lastReq := pkt, lastReply := none }))

/-- Answer a request refused at step 2, 3 or 4 of R38: unauthenticated (R36). -/
def State.refuseEarly (s : State) (q : Req) (opc status detail : Nat) : State := s.answer q opc status detail [] false

/-- Count and answer an authentication failure (R45). -/
def State.authFail (s : State) (q : Req) (opc : Nat) : State :=
  (s.addSat CMD_ERR_COUNT CMD_ERR_COUNT_AUTH_FAIL 1).refuseEarly q opc stAuthFail 0

/-- Put a packet that has passed steps 1 to 5 into the queue; a UDP packet that finds it full is answered with BUSY (R39). -/
def State.enqueuePacket (s : State) (q : Req) (opc : Nat) (payload : List Byte) : State :=
  if 8 ≤ s.cmd.queue.length then (s.addSat CMD_ERR_COUNT CMD_ERR_COUNT_QUEUE_FULL 1).reply q opc stBusy 0
  else { s with cmd := { s.cmd with queue := s.cmd.queue ++ [{ req := q, opc := opc, payload := payload }] } }

/-- Step 5 of R38 and the queue. -/
def State.acceptOpcode (s : State) (q : Req) (opc : Nat) (payload : List Byte) : State :=
  if !s.knownOpcode opc then s.reply q opc stBadOpcode 0 else s.enqueuePacket q opc payload

/-- Step 4 of R38 for a packet with AUTH = 1: a repeated request only has its cached reply sent again (R44). -/
def State.acceptAuth (s : State) (q : Req) (opc : Nat) (pkt : List Byte) : State :=
  if !s.trailerOk q pkt then s.authFail q opc
  else if s.repeats q pkt then
    match (s.session q.via).bind (·.lastReply) with
    | some r => s.deliver r
    | none => s
  else if !s.fresh q then s.authFail q opc
  else (s.acceptCtr q pkt).acceptOpcode q opc (slice pkt 16 (leAt pkt 8 4))

/-- Steps 1 to 5 of R38 for a packet that arrives; during BOOT no packet is accepted, and the recovery code serves HSPI alone (R51, R54,
R503). -/
def State.accept (s : State) (via : Via) (pkt : List Byte) : State :=
  let q := reqOf via pkt
  let opc := leAt pkt 4 2
  if !runsCommands s.dev || (s.boot.recovery && via != .hspi) then s
  else if leAt pkt 0 2 ≠ 0x5244 then s.addSat CMD_ERR_COUNT CMD_ERR_COUNT_BAD_MAGIC 1
  else if q.ver ≠ 1 then s.refuseEarly q opc stBadParam 2
  else if !q.auth ∧ q.ctr ≠ 0 then s.refuseEarly q opc stBadParam 12
  else if 8192 < leAt pkt 8 4 ∨ pkt.length ≠ packetLen pkt then s.refuseEarly q opc stBadLength 8
  else if q.auth then s.acceptAuth q opc pkt
  else if s.authRequired via ∧ !([0x0100, 0x0101, 0x0103].contains opc) then s.authFail q opc
  else s.acceptOpcode q opc (pkt.drop 16)

/-- COMMAND_PACKET_ARRIVAL: a whole packet arrives on a transport (R38, R39, R545). -/
def execCommandPacketArrival (via : Via) (packet : List Byte) (s : State) : Host.Outcome State Fault Refusal :=
  .next (s.accept via packet)

/-! ### The HSPI receive FIFO (R47) -/

/-- Bytes the HSPI receive FIFO can take now: 0 during BOOT, else what bytes held back by a full queue leave of 64 (R39, R47). -/
def State.rxFree (s : State) : Nat := if runsCommands s.dev then 64 - s.cmd.rxHeld else 0

/-- Whether the bytes received make a whole packet, or one that steps 1 to 3 refuse already. -/
def rxWhole (rx : List Byte) : Bool :=
  decide (16 ≤ rx.length) && (leAt rx 0 2 != 0x5244 || decide (8192 < leAt rx 8 4) || decide (packetLen rx ≤ rx.length))

/-- A whole HSPI packet that was held back is accepted while the queue has a place (R39, R47). -/
def State.rxStep (s : State) : State :=
  if 8 ≤ s.cmd.queue.length then s
  else
    match s.cmd.rxq with
    | [] => { s with cmd := { s.cmd with rxHeld := 0 } }
    | pkt :: rest =>
      let held := (rest.map List.length).foldl (· + ·) s.cmd.rx.length
      { s with cmd := { s.cmd with rxq := rest, rxHeld := held } }.accept .hspi pkt

/-- Every whole HSPI packet for which the queue has a place is accepted. -/
def State.rxDrain (s : State) : State := (List.range (s.cmd.rxq.length + 1)).foldl (fun (s : State) _ => s.rxStep) s

/-! ### The frame of every command -/

/-- Take the request from the head of the command queue (R39). -/
def State.dequeue (s : State) (q : Req) (opc : Nat) (p : List Byte) : State :=
  match s.cmd.queue with
  | h :: t => if h = { req := q, opc := opc, payload := p } then { s with cmd := { s.cmd with queue := t } }.rxDrain else s
  | [] => s

/-- Execute a command: outside OFF and BOOT it leaves the queue, is checked for opcode and state (R38 steps 5 and 6), then
runs its body, which makes step 7 and its effect. [DESIGN CHOICE, log 98] -/
def State.command (s : State) (q : Req) (opc : Nat) (p : List Byte) (body : State → State) : State :=
  if !runsCommands s.dev then s
  else
    let s := s.dequeue q opc p
    if !s.knownOpcode opc then s.reply q opc stBadOpcode 0
    else if !allowedIn opc s.dev then s.reply q opc stRefused 0
    else body s

/-- The body of a command with a fixed payload length and checks made in order (R38 step 7). -/
def checked (q : Req) (opc : Nat) (p : List Byte) (len : Nat) (checks : State → List Check) (body : State → State)
    (s : State) : State :=
  if p.length ≠ len then s.badLength q opc
  else
    match firstBad (checks s) with
    | some c => s.reply q opc c.status c.detail
    | none => body s

/-- A command with a fixed payload length (R38). -/
def State.fixed (s : State) (q : Req) (opc : Nat) (p : List Byte) (len : Nat) (checks : State → List Check)
    (body : State → State) : State :=
  s.command q opc p (checked q opc p len checks body)

end Sys2Proof.Machine
end

