-- ==== Sys2Proof/Machine/Time.lean ====
section
/-! DEFINITION. Time bases, PTP and timed outputs (chapter 14): anchors and conversion, the discipline of TBS, TIME_SET, the PTP
engines, cross-check, pulses and time stamps. -/

namespace Sys2Proof.Machine

open Reg

/-! ### Base states (R370) -/

/-- The state of network base x. -/
def State.baseState (s : State) (x : Nat) : Nat := s.f (TIM_TBx_STATE x) TIM_TBx_STATE_STATE

/-- The state with network base x in a state; RUNNING follows it (R370). -/
def State.setBase (s : State) (x st : Nat) : State :=
  (s.setF (TIM_TBx_STATE x) TIM_TBx_STATE_STATE st).setF (TIM_TBx_STATE x) TIM_TBx_STATE_RUNNING (b2n (st != 0))

/-- The role of port x's PTP engine: 0 DISABLED, 1 SLAVE, 2 MASTER. -/
def State.role (s : State) (x : Nat) : Nat := s.f (TIM_TBx_STATE x) TIM_TBx_STATE_ROLE

/-- Raise EVT_TIME (R382). -/
def State.raiseTime (s : State) (kind base : Nat) (value : Int) : State :=
  s.raise evTime (leBytes 4 (kind + 256 * base) ++ leBytes 4 (ux 32 value))

/-- Six bytes of seconds, two of sub-nanoseconds and four of nanoseconds of a network time (R358, R372, R383). -/
def netBytes (v : Nat) : List Byte := leBytes 6 (netSec v) ++ leBytes 2 (netSub v) ++ leBytes 4 (netNs v)

/-- The network time of a base as read: 0 while it is not running (R372). -/
def State.netRead (s : State) (x : Nat) : Nat := if s.netRunning x then s.netTime x else 0

/-! ### Anchors and conversion (R373) -/

/-- The adjustment of the PLL-T frequency, in 2^-32. -/
def State.tbsFreq (s : State) : Int := sx 32 (s.rd TIM_TBS_FREQ).toNat

/-- The anchor of base x for a TBS time: the latest at or before it, the oldest kept for an older time, and the present when
none is kept. [DEDUCED, log 74] -/
def State.anchorFor (s : State) (x t : Nat) : Nat × Nat :=
  let val (a : Nat × Nat × Nat) : Nat × Nat := (a.1, if x = 0 then a.2.1 else a.2.2)
  match s.tm.anchors.find? (fun a => decide (a.1 ≤ t)) with
  | some a => val a
  | none => match s.tm.anchors.getLast? with
    | some a => val a
    | none => (s.tbs, s.netTime x)

/-- A TBS time on base x, in 2^-48 ns (R373). -/
def State.tbsToNet (s : State) (x t : Nat) : Nat :=
  let (sa, xa) := s.anchorFor x t
  ((xa : Int) + (((t : Int) - sa) * 2 ^ 42 * (2 ^ 32 + s.netRate x)) / (2 ^ 32 + s.tbsFreq)).toNat

/-! ### The discipline of TBS (R374) -/

/-- Whether the frequency changes by at most 1 ppm/s. -/
def State.freqLimited (s : State) : Bool := s.scanning || s.dev == .hold

/-- The largest change of the frequency since its last one, in 2^-32. -/
def State.freqStep (s : State) : Int :=
  if s.freqLimited then (((s.tm.now - s.tm.lastFreqAt) * 2 ^ 32 / (1000000 * tickS) : Nat) : Int) else 2 ^ 32

/-- LOCKED after a measurement: the error below 0.1 ppm for 10 s. -/
def State.freqJudge (s : State) (err : Int) : State :=
  if err.natAbs * 10 ^ 7 < 2 ^ 32 then
    let since := s.tm.freqGoodSince.getD s.tm.now
    { s with tm := { s.tm with freqGoodSince := some since } }.setF TIM_TBS_DISC TIM_TBS_DISC_LOCKED
      (b2n (decide (since + 10 * tickS ≤ s.tm.now)))
  else { s with tm := { s.tm with freqGoodSince := none } }.setF TIM_TBS_DISC TIM_TBS_DISC_LOCKED 0

/-- Steer the PLL-T frequency towards a target, within ±200 ppm and the permitted change. -/
def State.freqSteer (s : State) (target : Int) : State :=
  let target := clampI (-858993) 858993 target
  let cur := s.tbsFreq
  let new := cur + clampI (-s.freqStep) s.freqStep (target - cur)
  let s := s.freqJudge (target - cur)
  let s := s.setF TIM_TBS_DISC TIM_TBS_DISC_HOLD 0
  if new = cur ∧ target ≠ cur then s
  else { s with tm := { s.tm with lastFreqAt := s.tm.now } }.wr TIM_TBS_FREQ (BitVec.ofNat 32 (ux 32 new))

/-- The loop keeps the last frequency. [DEDUCED, log 75] -/
def State.freqHold (s : State) : State :=
  let s := { s with tm := { s.tm with freqGoodSince := none, lastFreqAt := s.tm.now } }
  (s.setF TIM_TBS_DISC TIM_TBS_DISC_HOLD 1).setF TIM_TBS_DISC TIM_TBS_DISC_LOCKED 0

/-- The loop at an instant: it follows a network base that is FREE or LOCKED, and PPS_IN while edges keep arriving. -/
def State.discipline (s : State) : State :=
  match s.f TIM_TBS_DISC TIM_TBS_DISC_SRC with
  | 0 => s
  | 3 =>
    match s.tm.ppsLast with
    | some t => if t + 64064000000 < s.tbs then s.freqHold else s
    | none => s.freqHold
  | n =>
    let st := s.baseState (n - 1)
    if st = 1 ∨ st = 3 then s.freqSteer (s.netRate (n - 1)) else s.freqHold

/-- TIME_ANCHOR: at the next whole microsecond an anchor is captured; those older than 256 µs are dropped (R373). -/
def execTimeAnchor (s : State) : Host.Outcome State Fault Refusal :=
  let s := s.at_ ((s.tm.now / tickUs + 1) * tickUs)
  let kept := s.tm.anchors.filter (fun a => decide (s.tbs ≤ a.1 + 256 * tickUs))
  let s := { s with tm := { s.tm with anchors := (s.tbs, s.netTime 0, s.netTime 1) :: kept } }
  .next s.discipline

/-- PPS_IN_EDGE: a rising edge of PPS_IN at a TBS time (R374, R388). [DEDUCED, log 74] -/
def execPpsInEdge (t : Nat) (s : State) : Host.Outcome State Fault Refusal :=
  let s := (s.toTbs t).capture 1 t
  let last := s.tm.ppsLast
  let s := { s with tm := { s.tm with ppsLast := some t } }
  match last with
  | none => .next s
  | some l =>
    let d := t - l
    if s.f TIM_TBS_DISC TIM_TBS_DISC_SRC = 3 ∧ 63936000000 ≤ d ∧ d ≤ 64064000000 then
      .next (s.freqSteer ((2 ^ 32 + s.tbsFreq) * 64000000000 / d - 2 ^ 32))
    else .next s

/-! ### TIME_READ and TIME_SET (R372, R375) -/

/-- TIME_READ (R372). -/
def execTimeRead (q : Req) (p : List Byte) (s : State) : Host.Outcome State Fault Refusal :=
  .next (s.fixed q 0x0700 p 0 (fun _ => []) (fun s =>
    s.replyOk q 0x0700 (leBytes 8 s.tbs ++ leBytes 8 s.tbl
      ++ netBytes (s.netRead 0) ++ wordBytes (s.rd (TIM_TBx_STATE 0))
      ++ netBytes (s.netRead 1) ++ wordBytes (s.rd (TIM_TBx_STATE 1)))))

/-- Whether a TIME_SET value is out of range, and at which offset. -/
def timeSetBad (tb op a b : Nat) : Option Nat :=
  let fits : Bool := if op = 2 then decide ((sx 64 a).natAbs ≤ 2147484) else if op = 0 ∧ tb ≠ 0 then decide (a < 2 ^ 48) else true
  let fitsB : Bool := if op = 0 ∧ tb ≠ 0 then decide (b < 10 ^ 9) else decide (b = 0)
  if !fits then some 20 else if !fitsB then some 28 else none

/-- The checks of R375. -/
def State.timeSetChecks (s : State) (p : List Byte) : List Check :=
  let tb := fld p 16 1
  let op := fld p 17 1
  let bad := timeSetBad tb op (fld p 20 8) (fld p 28 4)
  let st := s.baseState (tb - 1)
  [par (decide (2 < tb)) 16, par (decide (2 < op)) 17, par (firstNonZero p 18 2) 18, par bad.isSome (bad.getD 0),
   chk (tb == 0 && op != 2 && s.dev != .idle && s.dev != .primed) stRefused,
   chk (tb == 0 && op == 2 && s.f TIM_TBS_DISC TIM_TBS_DISC_SRC != 0) stBusy,
   chk (tb != 0 && s.role (tb - 1) == 1 && (st == 2 || st == 3 || st == 4)) stBusy]

/-- A set or step of a network base: FREE, and counted in STEPS. -/
def State.netStepped (s : State) (x v : Nat) : State :=
  ((s.setNet x v).setBase x 1).addSat (TIM_TBx_CNT x) TIM_TBx_CNT_STEPS 1

/-- The base a step starts from; a base that is not running starts at 0. -/
def State.netFrom (s : State) (x : Nat) : Nat := s.netRead x

/-- OP 0 of R375. -/
def State.timeSetValue (s : State) (tb a b : Nat) : State :=
  if tb = 0 then { s with tm := { s.tm with tbs := a * 2 ^ 32 } }
  else s.netStepped (tb - 1) ((a * 10 ^ 9 + b) * 2 ^ 48)

/-- OP 1 of R375. -/
def State.timeSetStep (s : State) (tb a : Nat) : State :=
  let d := sx 64 a
  if tb = 0 then { s with tm := { s.tm with tbs := (((s.tm.tbs : Int) + d * 2 ^ 32) % 2 ^ 96).toNat } }
  else s.netStepped (tb - 1) (((s.netFrom (tb - 1) : Int) + d * 2 ^ 48) % (2 ^ 48 * 10 ^ 9 * 2 ^ 48)).toNat

/-- OP 2 of R375; the first TIME_SET makes a base run (R370). -/
def State.timeSetFreq (s : State) (tb a : Nat) : State :=
  if tb = 0 then s.wr TIM_TBS_FREQ (BitVec.ofNat 32 a)
  else
    let x := tb - 1
    let s := if s.netRunning x then s else (s.setNet x 0).setBase x 1
    s.wr (TIM_TBx_RATE x) (BitVec.ofNat 32 a)

/-- A TIME_SET request by its OP (R375). -/
def State.timeSet (s : State) (q : Req) (p : List Byte) : State :=
  s.fixed q 0x0701 p 16 (fun s => s.timeSetChecks p) (fun s =>
    let tb := fld p 16 1
    let s := match fld p 17 1 with
      | 0 => s.timeSetValue tb (fld p 20 8) (fld p 28 4)
      | 1 => s.timeSetStep tb (fld p 20 8)
      | _ => s.timeSetFreq tb (fld p 20 8)
    s.discipline.reply q 0x0701 stOk 0)

/-- TIME_SET with OP 0 (R375). -/
def execTimeSetValue (q : Req) (p : List Byte) (s : State) : Host.Outcome State Fault Refusal := .next (s.timeSet q p)

/-- TIME_SET with OP 1 (R375). -/
def execTimeSetStep (q : Req) (p : List Byte) (s : State) : Host.Outcome State Fault Refusal := .next (s.timeSet q p)

/-- TIME_SET with OP 2 (R375). -/
def execTimeSetFrequency (q : Req) (p : List Byte) (s : State) : Host.Outcome State Fault Refusal := .next (s.timeSet q p)

/-! ### PTP configuration (R376, R380) -/

/-- The checks of R376. -/
def State.ptpChecks (s : State) (p : List Byte) : List Check :=
  let b (i : Nat) := fld p i 1
  let i (k : Nat) : Int := fldS p k 1
  [par (decide (1 < b 16)) 16, par (decide (2 < b 17) || (b 17 == 2 && !s.netRunning (b 16))) 17,
   par (decide (1 < b 18) || (b 19 == 1 && b 18 != 1)) 18, par (decide (1 < b 19)) 19,
   par (decide (127 < b 20) || (b 19 == 1 && b 20 != 0)) 20, par (decide (i 21 < -7 ∨ 4 < i 21)) 21,
   par (decide (i 22 < -3 ∨ 4 < i 22)) 22, par (decide (i 23 < -7 ∨ 5 < i 23 ∨ i 21 + 3 < i 23)) 23,
   par (firstNonZero p 26 2) 26, par (decide (fld p 28 4 < 1 ∨ 1000000 < fld p 28 4)) 28,
   chk (!s.domOn (15 + b 16)) stRefused]

/-- PTP_CONFIG (R376). -/
def execPtpConfig (q : Req) (p : List Byte) (s : State) : Host.Outcome State Fault Refusal :=
  .next (s.fixed q 0x0702 p 16 (fun s => s.ptpChecks p) (fun s =>
    let x := fld p 16 1
    let e : Ptp := { prio1 := fld p 24 1, prio2 := fld p 25 1, logSync := fldS p 21 1,
                     logAnnounce := fldS p 22 1, logDelay := fldS p 23 1, stepLimit := fld p 28 4 }
    let st := if s.netRunning x then 9 else 0
    let w := fld p 20 1 * 2 ^ 24 + fld p 17 1 * 2 ^ 22 + fld p 18 1 * 2 ^ 21 + fld p 19 1 * 2 ^ 20 + st
    (((s.setPtp x e).wr (TIM_TBx_STATE x) (BitVec.ofNat 32 w)).discipline).reply q 0x0702 stOk 0))

/-- ASYM_SET (R380). -/
def execAsymSet (q : Req) (p : List Byte) (s : State) : Host.Outcome State Fault Refusal :=
  .next (s.fixed q 0x0703 p 8 (fun _ => [par (decide (1 < fld p 16 1)) 16, par (firstNonZero p 17 3) 17]) (fun s =>
    let x := fld p 16 1
    let s := s.wr (TIM_TBx_ASYM x) (BitVec.ofNat 32 (fld p 20 4))
    let s := s.setF (TIM_TBx_STATE x) TIM_TBx_STATE_ASYM_SUSPECT 0
    let s := if s.baseState x = 4 ∧ s.f (TIM_TBx_STATE x) TIM_TBx_STATE_HCAUSE = 3 then
        let r := BitVec.ofNat 32 (ux 32 (s.ptp x).rawLast)
        let s := ((s.wr (TIM_TBx_MPD x) r).wr (TIM_TBx_MPD_REF x) r).setBase x 2
        s.setPtp x { s.ptp x with good := 0, outliers := 0 }
      else s
    s.reply q 0x0703 stOk 0))

/-! ### The PTP servo (R377–R379) -/

/-- An integer as a signed 32-bit register word; outside its range the spec states no result, and the word is a free value. -/
def State.word32 (s : State) (i : Int) : Word × State :=
  if satS 32 i = i then (BitVec.ofNat 32 (ux 32 i), s)
  else
    let (v, s) := s.openNat 0xE0114
    (BitVec.ofNat 32 v, s)

/-- An interval of 2^log seconds, in ns. -/
def logNs (log : Int) : Nat := if 0 ≤ log then 10 ^ 9 * 2 ^ log.toNat else 10 ^ 9 / 2 ^ (-log).toNat

/-- Enter HOLDOVER for a cause (R379). [DEDUCED, log 75] -/
def State.holdover (s : State) (x cause : Nat) : State :=
  let s := (s.setBase x 4).setF (TIM_TBx_STATE x) TIM_TBx_STATE_HCAUSE cause
  let s := s.setPtp x { s.ptp x with rawGood := 0, slewUntil := 0 }
  s.addSat (TIM_TBx_CNT x) TIM_TBx_CNT_HOLDOVERS 1

/-- Step a base by an amount in 1/16 ns, counted in STEPS. -/
def State.ptpStep (s : State) (x : Nat) (d : Int) : State :=
  let v := (((s.netTime x : Int) + d * 2 ^ 44) % (2 ^ 48 * 10 ^ 9 * 2 ^ 48)).toNat
  (s.setNet x v).addSat (TIM_TBx_CNT x) TIM_TBx_CNT_STEPS 1

/-- Slew a base by an amount in 1/16 ns over the next Sync interval. [DEDUCED, log 76] -/
def State.ptpSlew (s : State) (x : Nat) (d : Int) : State :=
  let ticks := logNs (s.ptp x).logSync * 64
  s.setPtp x { s.ptp x with slew := (d * 2 ^ 44).tdiv ticks, slewUntil := s.tm.now + ticks }

/-- An offset enters the servo and may lock the base (the last branch of R378). -/
def State.ptpTrack (s : State) (x : Nat) (o : Int) : State :=
  let e := s.ptp x
  let rate := clampI (-2147484) 2147484 (s.netRate x + (o * 2 ^ 24).tdiv (16 * logNs e.logSync))
  let s := (s.setPtp x { e with outliers := 0 }).wr (TIM_TBx_RATE x) (BitVec.ofNat 32 (ux 32 rate))
  let s := s.ptpSlew x ((-o).tdiv 4)
  if s.baseState x = 2 ∧ o.natAbs < 1600 then
    let s := s.setPtp x { s.ptp x with good := e.good + 1 }
    if 16 ≤ e.good + 1 then s.setBase x 3 else s
  else s

/-- The offset acts according to the state (R378). -/
def State.ptpOffset (s : State) (x : Nat) (o : Int) : State :=
  let e := s.ptp x
  if s.baseState x = 2 ∧ 16000 ≤ o.natAbs then (s.ptpStep x (-o)).setPtp x { e with good := 0 }
  else if s.baseState x = 3 ∧ e.stepLimit * 16 < o.natAbs then
    if 16 ≤ e.outliers + 1 then (s.setPtp x { e with outliers := 0, good := 0 }).setBase x 2
    else s.setPtp x { e with outliers := e.outliers + 1 }
  else s.ptpTrack x o

/-- The state in which a Sync finds the base: FREE and UNSET, and HOLDOVER for cause 1 or 2, enter ACQUIRING (R378, R379). -/
def State.ptpEnter (s : State) (x : Nat) : State :=
  let st := s.baseState x
  let h := s.f (TIM_TBx_STATE x) TIM_TBx_STATE_HCAUSE
  if st = 0 then ((s.setNet x 0).setBase x 2).setPtp x { s.ptp x with good := 0, outliers := 0 }
  else if st = 1 ∨ (st = 4 ∧ h ≠ 3) then (s.setBase x 2).setPtp x { s.ptp x with good := 0, outliers := 0 }
  else s

/-- Whether the PTP engine of a port works as a SLAVE. -/
def State.slave (s : State) (x : Nat) : Bool := s.domOn (15 + x) && s.role x == 1

/-- PTP_SYNC: a Sync of the chosen master, with its Follow_Up where two-step; `d` is t2 − t1 in 1/16 ns (R378). [DEDUCED, log 76] -/
def execPtpSync (port : Port) (d : Int) (s : State) : Host.Outcome State Fault Refusal :=
  let x := portIx port
  if !s.slave x || (s.ptp x).master.isNone then .next s
  else
    let s := s.setPtp x { s.ptp x with syncAt := some s.tm.now }
    let s := s.ptpEnter x
    let o := d - sx 32 (s.rd (TIM_TBx_MPD x)).toNat - sx 32 (s.rd (TIM_TBx_ASYM x)).toNat
    let (w, s) := s.word32 o
    let s := s.wr (TIM_TBx_OFS x) w
    if s.baseState x = 4 then .next s else .next (s.ptpOffset x o).discipline

/-- A raw value within STEP_LIMIT, or the first of the engine, enters the filter (R378). -/
def State.mpdFilter (s : State) (x : Nat) (raw : Int) (first : Bool) : State :=
  let mpd := sx 32 (s.rd (TIM_TBx_MPD x)).toNat
  let new := if first then raw else mpd + (raw - mpd).tdiv 8
  let (w, s) := s.word32 new
  ((s.wr (TIM_TBx_MPD x) w).wr (TIM_TBx_MPD_REF x) w).setPtp x { s.ptp x with mpdValid := true }

/-- PTP_DELAY_MEASUREMENT: `ms` and `sm` are the two directions' differences in 1/16 ns, whose mean is the raw path delay;
`ratio` is the neighbour rate ratio measured under PROFILE 1 (R377–R379). -/
def execPtpDelayMeasurement (port : Port) (ms sm ratio : Int) (s : State) : Host.Outcome State Fault Refusal :=
  let x := portIx port
  let e := s.ptp x
  if !s.slave x || !e.delayPending then .next s
  else
    let raw := (ms + sm).tdiv 2
    let nr := if s.fb (TIM_TBx_STATE x) TIM_TBx_STATE_PROFILE then ratio else e.nbrRatio
    let ref := sx 32 (s.rd (TIM_TBx_MPD_REF x)).toNat
    let near := decide ((raw - ref).natAbs ≤ e.stepLimit * 16)
    let run := if near then e.rawGood + 1 else 0
    let s := s.setPtp x { e with delayPending := false, rawLast := raw, nbrRatio := nr, rawGood := run }
    let st := s.baseState x
    if !e.mpdValid then .next (s.mpdFilter x raw true)
    else if st = 4 ∧ s.f (TIM_TBx_STATE x) TIM_TBx_STATE_HCAUSE = 3 then
      let s := if near then s.mpdFilter x raw false else s
      if 8 ≤ run then .next ((s.setBase x 2).setPtp x { s.ptp x with good := 0, outliers := 0 }) else .next s
    else if near then .next (s.mpdFilter x raw false)
    else if st = 2 ∨ st = 3 then
      let s := (s.holdover x 3).setF (TIM_TBx_STATE x) TIM_TBx_STATE_ASYM_SUSPECT 1
      .next (s.raiseTime 2 x ((raw - ref).tdiv 16)).discipline
    else .next s

/-- Whether one Announce dataset is better than another: the first byte that differs is smaller. -/
def betterDataset : List Byte → List Byte → Bool
  | a :: as, b :: bs => if a.toNat < b.toNat then true else if b.toNat < a.toNat then false else betterDataset as bs
  | _, _ => false

/-- PTP_ANNOUNCE: an Announce of the port's domain, as its dataset in comparison order: priority1, clockClass, accuracy,
variance, priority2, identity, steps removed (R377). -/
def execPtpAnnounce (port : Port) (dataset : List Byte) (s : State) : Host.Outcome State Fault Refusal :=
  let x := portIx port
  if !s.slave x then .next s
  else
    let e := s.ptp x
    let take := s.setPtp x { e with master := some dataset, annAt := some s.tm.now }
    match e.master with
    | none => .next take
    | some m => if slice m 6 8 = slice dataset 6 8 ∨ betterDataset dataset m then .next take else .next s

/-- PTP_MESSAGE_TIMEOUT: no Sync, or with the flag no Announce, for 3 intervals (R379). -/
def execPtpMessageTimeout (port : Port) (announce : Bool) (s : State) : Host.Outcome State Fault Refusal :=
  let x := portIx port
  let e := s.ptp x
  let last := if announce then e.annAt else e.syncAt
  match last with
  | none => .next s
  | some t =>
    if s.slave x && (s.baseState x == 2 || s.baseState x == 3) then
      let s := s.at_ (t + 3 * 64 * logNs (if announce then e.logAnnounce else e.logSync))
      .next ((s.holdover x (if announce then 2 else 1)).raiseTime 1 x 0).discipline
    else .next s

/-! ### PTP messages the device sends (R377, R378) -/

/-- The EUI-64 clock identity of a MAC address. -/
def clockId (mac : Nat) : List Byte := beBytes 3 (mac / 2 ^ 24) ++ beBytes 2 0xFFFE ++ beBytes 3 (mac % 2 ^ 24)

/-- The 34 header bytes of a PTP message. -/
def State.ptpHeader (s : State) (p : Port) (typ len flags seq control : Nat) (log : Int) : List Byte :=
  let x := portIx p
  beBytes 1 (s.f (TIM_TBx_STATE x) TIM_TBx_STATE_PROFILE * 16 + typ) ++ beBytes 1 2 ++ beBytes 2 len
    ++ beBytes 1 (s.f (TIM_TBx_STATE x) TIM_TBx_STATE_DOMAIN) ++ zeros 1 ++ beBytes 2 flags ++ zeros 12
    ++ clockId (s.mac p) ++ beBytes 2 1 ++ beBytes 2 seq ++ beBytes 1 control ++ beBytes 1 (ux 8 log)

/-- A PTP timestamp of a network time: 48-bit seconds and 32-bit ns, big-endian. -/
def ptpStampBytes (v : Nat) : List Byte := beBytes 6 (netSec v) ++ beBytes 4 (netNs v)

/-- The destination of a PTP message: the peer-delay address for peer delay and for 802.1AS. -/
def State.ptpDst (s : State) (x typ : Nat) : Nat :=
  if typ = 2 ∨ typ = 3 ∨ typ = 10 ∨ s.fb (TIM_TBx_STATE x) TIM_TBx_STATE_PROFILE then 0x0180C200000E else 0x011B19000000

/-- Queue a PTP message on a port: without PRP trailer, in the TIME queue (R349, R363). [PRESUMED, log 65] -/
def State.sendPtp (s : State) (p : Port) (typ : Nat) (msg : List Byte) : State :=
  s.sendBody p .time (s.ptpDst (portIx p) typ) (.ptp msg) msg.length none id

/-- The next sequence number of a port's messages. -/
def State.ptpSeq (s : State) (x : Nat) : Nat × State :=
  let e := s.ptp x
  (e.seq, s.setPtp x { e with seq := (e.seq + 1) % 65536 })

/-- The TBS stamp of a frame that starts now, as base time of port x (R373). -/
def State.txStamp (s : State) (x : Nat) : Nat := s.tbsToNet x (s.tbs + s.f (TIM_PORT_LAT x) TIM_PORT_LAT_TX)

/-- The TBS stamp of a frame that arrives now, as base time of port x. -/
def State.rxStamp (s : State) (x : Nat) : Nat := s.tbsToNet x (s.tbs - s.f (TIM_PORT_LAT x) TIM_PORT_LAT_RX)

/-- PTP_MASTER_SEND: a MASTER port sends a Sync, or an Announce (R377); the Follow_Up goes with the Sync's transmission. -/
def execPtpMasterSend (port : Port) (sync : Bool) (s : State) : Host.Outcome State Fault Refusal :=
  let x := portIx port
  if s.role x ≠ 2 ∨ !s.portUp port then .next s
  else
    let e := s.ptp x
    let (n, s) := s.ptpSeq x
    if sync then .next (s.sendPtp port 0 (s.ptpHeader port 0 44 0x0200 n 0 e.logSync ++ zeros 10))
    else
      .next (s.sendPtp port 11 (s.ptpHeader port 11 64 0 n 5 e.logAnnounce ++ zeros 13 ++ beBytes 1 e.prio1
        ++ beBytes 4 0xF8FEFFFF ++ beBytes 1 e.prio2 ++ clockId (s.mac port) ++ beBytes 2 0 ++ beBytes 1 0xA0))

/-- PTP_DELAY_REQUEST: a SLAVE port starts a path delay measurement (R378). -/
def execPtpDelayRequest (port : Port) (s : State) : Host.Outcome State Fault Refusal :=
  let x := portIx port
  if !s.slave x || !s.portUp port then .next s
  else
    let (n, s) := s.ptpSeq x
    let s := s.setPtp x { s.ptp x with delayPending := true }
    if s.fb (TIM_TBx_STATE x) TIM_TBx_STATE_DELAY then
      .next (s.sendPtp port 2 (s.ptpHeader port 2 54 0 n 5 (s.ptp x).logDelay ++ zeros 20))
    else .next (s.sendPtp port 1 (s.ptpHeader port 1 44 0 n 1 (s.ptp x).logDelay ++ zeros 10))

/-- What the transmission of a two-step message calls for: its follow-up with the stamp of the departure (R377). [DEDUCED, log 77] -/
def State.ptpFollow (s : State) (p : Port) (msg : List Byte) : State :=
  let x := portIx p
  let seq := beNat (slice msg 30 2)
  let t := s.txStamp x
  match (msg.headD 0).toNat % 16 with
  | 0 => s.sendPtp p 8 (s.ptpHeader p 8 44 0 seq 2 (s.ptp x).logSync ++ ptpStampBytes t)
  | 3 => s.sendPtp p 10 (s.ptpHeader p 10 54 0 seq 5 0x7F ++ ptpStampBytes t ++ slice msg 44 10)
  | _ => s

/-- The answer of a MASTER port to a Delay_Req or Pdelay_Req (R377). [DEDUCED, log 77] -/
def State.ptpAnswer (s : State) (p : Port) (msg : List Byte) : State :=
  let x := portIx p
  let seq := beNat (slice msg 30 2)
  let from_ := slice msg 20 10
  if s.role x ≠ 2 then s
  else match (msg.headD 0).toNat % 16 with
    | 1 => s.sendPtp p 9 (s.ptpHeader p 9 54 0 seq 3 (s.ptp x).logDelay ++ ptpStampBytes (s.rxStamp x) ++ from_)
    | 2 => s.sendPtp p 3 (s.ptpHeader p 3 54 0x0200 seq 5 0x7F ++ ptpStampBytes (s.rxStamp x) ++ from_)
    | _ => s

/-! ### Cross-check and pulses (R381, R389) -/

/-- TIME_CROSS_CHECK: TBA and TBB are compared, every 1 ms (R381). -/
def execTimeCrossCheck (s : State) : Host.Outcome State Fault Refusal :=
  let ok (x : Nat) : Bool := s.baseState x == 3 || s.baseState x == 4
  if !s.fb TIM_XCHK TIM_XCHK_EN || !ok 0 || !ok 1 then .next { s with tm := { s.tm with xchkRun := 0 } }
  else
    let s := s.at_ ((s.tm.now / tickMs + 1) * tickMs)
    let d := satS 16 (((s.netTime 0 : Int) - s.netTime 1).tdiv (2 ^ 48))
    let s := s.setF TIM_XCHK TIM_XCHK_DIFF (ux 16 d)
    let run := if s.f TIM_XCHK TIM_XCHK_LIMIT < d.natAbs then s.tm.xchkRun + 1 else 0
    let s := { s with tm := { s.tm with xchkRun := run } }
    if 3 ≤ run ∧ !s.fb TIM_XCHK TIM_XCHK_FAIL then .next ((s.setF TIM_XCHK TIM_XCHK_FAIL 1).raiseTime 3 0 d) else .next s

/-- PPS_OUT_PULSE: PPS_OUT goes high at the next whole second of its base (R389). -/
def execPpsOutPulse (s : State) : Host.Outcome State Fault Refusal :=
  let x := s.f TIM_PPS TIM_PPS_TB
  if !s.fb TIM_PPS TIM_PPS_EN || !s.netRunning x then .next s
  else
    let s := s.toNet x ((netSec (s.netTime x) + 1) * 10 ^ 9 * 2 ^ 48)
    .next { s with pin := { s.pin with ppsOut := true },
                   tm := { s.tm with ppsOutUntil := s.tm.now + Nat.max 1 (s.f TIM_PPS TIM_PPS_WIDTH) * tickUs } }

/-- The pulse period of timed output k, in ns; 0 for a one-shot. -/
def State.evOutPeriod (s : State) (k : Nat) : Nat := s.f (TIM_EVOUT_CFG k) TIM_EVOUT_CFG_PERIOD * 1000

/-- EN of timed output k rises: its first pulse is due at SEC:NS of its base; a time already past is flagged and the next period
point is taken, or none (R389). -/
def State.evOutStart (s : State) (k : Nat) : State :=
  let cur := s.netRead (s.f (TIM_EVOUT_CFG k) TIM_EVOUT_CFG_TB)
  let due := (netSec cur / 2 ^ 32 * 2 ^ 32 + (s.rd (TIM_EVOUT_SEC k)).toNat) * 10 ^ 9 + (s.rd (TIM_EVOUT_NS k)).toNat
  let now := cur / 2 ^ 48
  let per := s.evOutPeriod k
  if now ≤ due then { s with tm := { s.tm with evOutNext := Sp.ins s.tm.evOutNext k due } }
  else
    let s := s.setF TIM_STATUS TIM_STATUS_EVOUT_PAST 1
    let l := if per = 0 then Sp.del s.tm.evOutNext k
      else Sp.ins s.tm.evOutNext k (due + ((now - due) / per + 1) * per)
    { s with tm := { s.tm with evOutNext := l } }

/-- TIMED_OUTPUT_PULSE: timed output k drives GPIO[8 + k] at its time (R389). -/
def execTimedOutputPulse (k : Nat) (s : State) : Host.Outcome State Fault Refusal :=
  let x := s.f (TIM_EVOUT_CFG k) TIM_EVOUT_CFG_TB
  match Sp.find s.tm.evOutNext k with
  | none => .next s
  | some due =>
    if 4 ≤ k ∨ !s.fb (TIM_EVOUT_CFG k) TIM_EVOUT_CFG_EN ∨ !s.netRunning x then .next s
    else
      let s := s.toNet x (due * 2 ^ 48)
      let next := if s.evOutPeriod k = 0 then Sp.del s.tm.evOutNext k else Sp.ins s.tm.evOutNext k (due + s.evOutPeriod k)
      let until_ := s.tm.now + Nat.max 1 (s.f (TIM_EVOUT_CFG k) TIM_EVOUT_CFG_WIDTH) * 6400
      .next { s with tm := { s.tm with evOutNext := next, evOutUntil := Sp.ins s.tm.evOutUntil k until_ },
                     pin := { s.pin with gpioOut := s.pin.gpioOut ||| 2 ^ (8 + k) } }

/-! ### Transmit time stamps (R383, R384) -/

/-- TIM_STATUS.LEVEL follows the queue. -/
def State.txtsLevel (s : State) : State := s.setF TIM_STATUS TIM_STATUS_LEVEL s.tm.txts.length

/-- A time-stamp entry joins the queue, or is lost when it is full (R384). -/
def State.txtsPut (s : State) (base : Nat) (entry : List Byte) : State :=
  if s.tm.txts.length < 16 then State.txtsLevel { s with tm := { s.tm with txts := s.tm.txts ++ [entry] } }
  else
    let was := s.fb TIM_STATUS TIM_STATUS_TXTS_OVF
    let s := (s.addSat TIM_STATUS TIM_STATUS_LOST 1).setF TIM_STATUS TIM_STATUS_TXTS_OVF 1
    if was then s else s.raiseTime 4 base (s.f TIM_STATUS TIM_STATUS_LOST)

/-- TXTS_READ (R384). -/
def execTxtsRead (q : Req) (p : List Byte) (s : State) : Host.Outcome State Fault Refusal :=
  .next (s.fixed q 0x0704 p 4 (fun _ => [par (decide (fld p 16 4 < 1 ∨ 16 < fld p 16 4)) 16]) (fun s =>
    let n := Nat.min (fld p 16 4) s.tm.txts.length
    let out := s.tm.txts.take n
    let left := s.tm.txts.drop n
    let s := State.txtsLevel { s with tm := { s.tm with txts := left } }
    s.replyOk q 0x0704 (leBytes 4 (n + 256 * left.length) ++ out.flatMap id)))

/-- LAUNCH_CONFIG (R385). -/
def execLaunchConfig (q : Req) (p : List Byte) (s : State) : Host.Outcome State Fault Refusal :=
  let b (i : Nat) := fld p i 1
  .next (s.fixed q 0x0705 p 8
    (fun s => [par (decide (1 < b 16)) 16, par (decide (1 < b 17)) 17, par (decide (7 < b 18)) 18,
      par (decide (1 < b 19) || (bit (b 18) 0 && !s.netRunning (b 19))) 19, par (decide (100000000 < fld p 20 4)) 20])
    (fun s =>
      let w := bits (b 18) 0 1 * 2 ^ 31 + bits (b 18) 1 1 * 2 ^ 30 + bits (b 18) 2 1 * 2 ^ 29 + b 19 * 2 ^ 28 + fld p 20 4
      (s.wr (TIM_LQ_CFG (2 * b 16 + b 17)) (BitVec.ofNat 32 w)).reply q 0x0705 stOk 0))

end Sys2Proof.Machine
end

