-- ==== Sys2Proof/Machine/Ports.lean ====
section
/-! DEFINITION. The backbone ports (chapter 13): link, address filter, transmission with the shaper and the timed queues, address
configuration, neighbours, PRP and LLDP. -/

namespace Sys2Proof.Machine

open Reg

/-! ### Rates and links -/

/-- The line mode of a port. -/
def State.lineMode (s : State) (p : Port) : Nat := s.f (ETHx_CTRL (portIx p)) ETHx_CTRL_MODE

/-- The SGMII speed code of a port. -/
def State.speed (s : State) (p : Port) : Nat := s.f (ETHx_STATUS (portIx p)) ETHx_STATUS_SPEED

/-- The data rate in Mb/s of a line mode with an SGMII speed code (R343). -/
def modeRate (mode speed : Nat) : Nat :=
  match mode with
  | 1 => if speed = 0 then 10 else if speed = 1 then 100 else 1000
  | 2 => 1000
  | 3 => 2500
  | 4 => 5000
  | 5 => 10000
  | _ => 0

/-- The data rate of a port in Mb/s. -/
def State.rate (s : State) (p : Port) : Nat := modeRate (s.lineMode p) (s.speed p)

/-- The launch resolution of a port, in 0.1 ns (R386). -/
def State.launchRes (s : State) (p : Port) : Nat :=
  match s.lineMode p with
  | 5 => 64
  | 4 => 128
  | 3 => 128
  | 1 => if s.speed p = 0 then 8000 else if s.speed p = 1 then 800 else 80
  | _ => 80

/-- Raise EVT_PORT (R344). -/
def State.raisePort (s : State) (p : Port) : State :=
  s.raise evPort (leBytes 4 (portIx p + 2 * s.f (ETHx_STATUS (portIx p)) ETHx_STATUS_LINK + 16 * s.lineMode p
    + 256 * s.speed p))

/-! ### Transmission (R345, R349, R350, R387) -/

/-- The time a frame takes on the wire, preamble and gap included, in ticks. -/
def State.wireTime (s : State) (p : Port) (f : Frame) : Nat := (f.len + 20) * 8 * 64000 / Nat.max 1 (s.rate p)

/-- One port has sent or flushed its copy of a stream message: the last frees it (R362). -/
def heldDrop (id : Nat) : List (Nat × Nat × Nat) → List (Nat × Nat × Nat)
  | [] => []
  | (i, n, r) :: l => if i = id then (if r ≤ 1 then l else (i, n, r - 1) :: l) else (i, n, r) :: heldDrop id l

/-- Bytes of the point-stream region in use. -/
def State.strmUsed (s : State) : Nat :=
  s.pkt.held.foldl (fun n x => n + x.2.1) 0 +
    (match s.pkt.msg with | some m => if m.dropped then 0 else m.limit | none => 0)

/-- FILL and PEAK follow the use of the point-stream region. -/
def State.strmFill (s : State) : State :=
  let n := s.strmUsed / 1024
  let s := s.setF ETHA_STRM_FILL ETHA_STRM_FILL_FILL n
  s.setF ETHA_STRM_FILL ETHA_STRM_FILL_PEAK (Nat.max n (s.f ETHA_STRM_FILL ETHA_STRM_FILL_PEAK))

/-- A frame leaves packet memory. -/
def State.freeFrame (s : State) (e : TxEntry) : State :=
  match e.msg with
  | none => s
  | some id => State.strmFill { s with pkt := { s.pkt with held := heldDrop id s.pkt.held } }

/-- The frame in transmission has been sent once its end is reached. -/
def State.settleSend (s : State) (p : Port) : State :=
  let x := s.eth p
  match x.sending with
  | none => s
  | some e =>
    if s.tm.now < x.sendEnd then s
    else
      let s := s.setEth p { x with sending := none, sent := some e.frame }
      (s.addWrap (ETHx_CNT_TXOK (portIx p)) ETHx_CNT_TXOK_FRAMES 1).freeFrame e

/-- The first queued frame of a class. -/
def State.headOf (s : State) (p : Port) (c : TxClass) : Option TxEntry := (s.eth p).txq.find? (fun e => e.cls = c)

/-- The credit of the shaper now, in Mb/s × ticks (R350). -/
def State.creditNow (s : State) (p : Port) : Int :=
  let x := s.eth p
  let c := x.credit + s.f (ETHx_CBS (portIx p)) ETHx_CBS_IDLE_SLOPE * (s.tm.now - x.creditAt : Nat)
  if (s.headOf p .stream).isSome then c else if x.credit < 0 then clampI x.credit 0 c else 0

/-- Bring the credit up to the present. -/
def State.creditSync (s : State) (p : Port) : State :=
  s.setEth p { s.eth p with credit := s.creditNow p, creditAt := Nat.max s.tm.now (s.eth p).creditAt }

/-- A stream frame under the shaper uses credit for the time it takes. -/
def State.creditUse (s : State) (p : Port) (dur : Nat) : State :=
  let x := s.eth p
  let slope : Int := (s.rate p : Int) - s.f (ETHx_CBS (portIx p)) ETHx_CBS_IDLE_SLOPE
  s.setEth p { x with credit := x.credit - slope * dur, creditAt := s.tm.now + dur }

/-- Whether the shaper acts on a frame. -/
def State.shaped (s : State) (p : Port) (e : TxEntry) : Bool :=
  e.cls == .stream && s.fb (ETHx_CBS (portIx p)) ETHx_CBS_EN

/-- A frame leaves its queue and its transmission starts; two-step PTP messages are followed up. -/
def State.startSend (s : State) (p : Port) (e : TxEntry) : State :=
  let dur := s.wireTime p e.frame
  let s := if s.shaped p e then (s.creditSync p).creditUse p dur else s
  let x := s.eth p
  let s := s.setEth p { x with txq := x.txq.erase e, sending := some e, sendEnd := s.tm.now + dur }
  match e.frame.body with
  | .ptp msg => s.ptpFollow p msg
  | _ => s

/-- When the head of a timed queue is due, on the device timeline; `none` when its base does not run. [DEDUCED, log 81] -/
def State.launchAt (s : State) (e : TxEntry) : Option Nat :=
  if s.netRunning e.tb then some (s.tm.now + ticksTo (s.netRate e.tb) (s.netTime e.tb) e.launch) else none

/-- The heads of the two timed queues with their due times, queue 1 first. -/
def State.timedHeads (s : State) (p : Port) : List (TxEntry × Nat) :=
  [TxClass.timed 1, TxClass.timed 0].filterMap (fun c =>
    (s.headOf p c).bind (fun e => (s.launchAt e).map (fun t => (e, t))))

/-- Whether a frame may start now beside the timed queues: a frame of another queue never runs into a launch time, and below TIME
an eligible timed frame goes first (R387). -/
def State.clearOfTimed (s : State) (p : Port) (e : TxEntry) : Bool :=
  let end_ := s.tm.now + s.wireTime p e.frame
  (s.timedHeads p).all (fun x => if x.2 ≤ s.tm.now then e.cls == .time else decide (end_ ≤ x.2))

/-- The frame that the strict priorities choose (R349). -/
def State.nextSend (s : State) (p : Port) : Option TxEntry :=
  [TxClass.time, .safe, .mgmt, .stream].findSome? (fun c => s.headOf p c)

/-- Ticks until a frame may start under the shaper. -/
def State.creditWait (s : State) (p : Port) (e : TxEntry) : Nat :=
  let c := s.creditNow p
  let slope := s.f (ETHx_CBS (portIx p)) ETHx_CBS_IDLE_SLOPE
  if s.shaped p e ∧ c < 0 then ((-c).toNat + slope - 1) / Nat.max 1 slope else 0

/-- FRAME_TRANSMIT: the frame in transmission ends and the port starts the next (R349, R350, R387). -/
def execFrameTransmit (port : Port) (s : State) : Host.Outcome State Fault Refusal :=
  if !s.portUp port then .next s
  else
    let s := if (s.eth port).sending.isSome then (s.at_ (s.eth port).sendEnd).settleSend port else s
    match s.nextSend port with
    | none => .next s
    | some e =>
      let s1 := s.at_ (s.tm.now + s.creditWait port e)
      if s1.clearOfTimed port e then .next (s1.startSend port e) else .next s

/-- The time-stamp entry of a timed frame that starts now (R383). -/
def State.stampEntry (s : State) (p : Port) (q : Nat) (e : TxEntry) (late : Bool) : List Byte :=
  leBytes 1 (portIx p + 2 * q + 4 * b2n late + 8 * e.tb) ++ zeros 1 ++ leBytes 2 e.ident ++ leBytes 8 s.tbs
    ++ netBytes (s.tbsToNet e.tb s.tbs)

/-- A timed frame is sent, sent flagged or dropped (R387). -/
def State.launch (s : State) (p : Port) (q : Nat) (e : TxEntry) (late : Bool) : State :=
  let cnt := TIM_LQ_CNT (2 * portIx p + q)
  if late && e.drop then
    let x := s.eth p
    ((s.setEth p { x with txq := x.txq.erase e }).addSat cnt TIM_LQ_CNT_LATE_DROP 1).freeFrame e
  else
    let s := if late then s.addSat cnt TIM_LQ_CNT_LATE_SENT 1 else s
    let s := if e.stamp then s.txtsPut e.tb (s.stampEntry p q e late) else s
    s.startSend p e

/-- Whether the frame in transmission is a timed one. -/
def timedSending (x : Eth) : Bool :=
  match x.sending with
  | some e => (match e.cls with | .timed _ => true | _ => false)
  | none => false

/-- The timed head that is due first, queue 1 before queue 0. -/
def State.nextTimed (s : State) (p : Port) : Option (TxEntry × Nat) :=
  (s.timedHeads p).foldl (fun (b : Option (TxEntry × Nat)) x => match b with
    | none => some x
    | some y => if x.2 < y.2 then some x else some y) none

/-- TIMED_LAUNCH: the timed frame due first becomes eligible at its launch time (R386, R387). -/
def execTimedLaunch (port : Port) (s : State) : Host.Outcome State Fault Refusal :=
  if !s.portUp port then .next s
  else
    match s.nextTimed port with
    | none => .next s
    | some (e, t) =>
      let x := s.eth port
      let late := e.late || (timedSending x && decide (t < x.sendEnd))
      let s := s.at_ t
      let s := if x.sending.isSome then (s.at_ x.sendEnd).settleSend port else s
      let q := match e.cls with | .timed q => q | _ => 0
      .next (s.launch port q e late)

/-! ### LLDP (R365, R366) -/

/-- The LLDPDU of a port with a TTL. -/
def State.lldpdu (s : State) (p : Port) (ttl : Nat) : Lldp :=
  { chassis := beBytes 6 (s.mac .A), portId := [match p with | .A => 0x41 | .B => 0x42], ttl := ttl,
    sysName := s.boot.sysName.take 32,
    mgmt := if s.ip4 p = 0 then ⟨true, linkLocal (s.mac p)⟩ else ⟨false, s.ip4 p⟩, oui := s.boot.oui,
    sub1 := some (leBytes 8 s.boot.shadows.serial ++ leBytes 1 s.variant ++ leBytes 1 (s.f HNG_ID HNG_ID_INDEX)
      ++ leBytes 1 (s.rd GLB_BEHAVIOUR).toNat ++ leBytes 1 s.dev.code) }

/-- The payload length of an LLDPDU. -/
def lldpLen (l : Lldp) : Nat := 9 + 4 + 4 + 2 + l.sysName.length + (if l.mgmt.v6 then 26 else 14) + 18 + 2

/-- Queue an LLDPDU: untagged, without PRP trailer (R348, R363). -/
def State.sendLldp (s : State) (p : Port) (ttl : Nat) : State :=
  let l := s.lldpdu p ttl
  let s := s.setEth p { s.eth p with lldpAt := s.tm.now }
  s.sendBody p .mgmt 0x0180C200000E (.lldp l) (lldpLen l) none id

/-- The TTL a port sends. -/
def State.lldpTtl (s : State) (p : Port) : Nat := Nat.max 1 (s.f (ETHx_LLDP_CFG (portIx p)) ETHx_LLDP_CFG_TTL)

/-- Whether LLDP is on and the link up. -/
def State.lldpOn (s : State) (p : Port) : Bool := s.portUp p && s.fb (ETHx_CTRL (portIx p)) ETHx_CTRL_LLDP_EN

/-- LLDP_TRANSMIT: TX_INT after the last one, the port sends an LLDPDU (R365). -/
def execLldpTransmit (port : Port) (s : State) : Host.Outcome State Fault Refusal :=
  if !s.lldpOn port then .next s
  else
    let s := s.at_ ((s.eth port).lldpAt + Nat.max 1 (s.f (ETHx_LLDP_CFG (portIx port)) ETHx_LLDP_CFG_TX_INT) * tickS)
    .next (s.sendLldp port (s.lldpTtl port))

/-- The first `n` bytes of a string, filled up with zeros. -/
def fit (n : Nat) (l : List Byte) : List Byte := (l ++ zeros n).take n

/-- The 28 bytes a neighbour entry holds of an LLDPDU (R366). -/
def nbrBytes (l : Lldp) : List Byte :=
  fit 8 l.chassis ++ fit 8 l.portId ++ (if l.mgmt.v6 then zeros 4 else leBytes 4 l.mgmt.addr) ++ fit 8 (l.sub1.getD [])

/-- Whether entry e is in use. -/
def State.nbrValid (s : State) (i e : Nat) : Bool := s.fb (ETHx_NBR_STAT i e) ETHx_NBR_STAT_VALID

/-- Whether entry e holds an identity: chassis ID and port ID. -/
def State.nbrIs (s : State) (i e : Nat) (b : List Byte) : Bool :=
  s.nbrValid i e && (List.range 4).all (fun j => (s.rd (ETHx_NBR_DATA i e j)).toNat == leAt b (4 * j) 4)

/-- Clear a neighbour entry. -/
def State.nbrClear (s : State) (p : Port) (e : Nat) : State :=
  let i := portIx p
  let s := s.setEth p { s.eth p with nbrEnd := Sp.del (s.eth p).nbrEnd e }
  s.forEach (ETHx_NBR_STAT i e :: (List.range 7).map (ETHx_NBR_DATA i e)) (fun s a => s.wr a 0)

/-- Load a neighbour entry. -/
def State.nbrLoad (s : State) (p : Port) (e : Nat) (l : Lldp) : State :=
  let i := portIx p
  let b := nbrBytes l
  let rd := l.sub1.isSome && l.oui == s.boot.oui
  let s := s.setEth p { s.eth p with nbrEnd := Sp.ins (s.eth p).nbrEnd e (s.tm.now + l.ttl * tickS) }
  let s := s.wr (ETHx_NBR_STAT i e) (BitVec.ofNat 32 (2 ^ 31 + b2n rd * 2 ^ 30 + l.ttl % 65536))
  s.forEach (List.range 7) (fun s j => s.wr (ETHx_NBR_DATA i e j) (BitVec.ofNat 32 (leAt b (4 * j) 4)))

/-- The entry with the least remaining TTL. -/
def State.nbrOldest (s : State) (p : Port) : Nat :=
  let end_ (e : Nat) : Nat := Sp.get (fun _ => 0) (s.eth p).nbrEnd e
  [1, 2, 3].foldl (fun b e => if end_ e < end_ b then e else b) 0

/-- A received LLDPDU updates or takes an entry (R366). -/
def State.neighbour (s : State) (p : Port) (l : Lldp) : State :=
  let i := portIx p
  match (List.range 4).find? (fun e => s.nbrIs i e (nbrBytes l)) with
  | some e => if l.ttl = 0 then s.nbrClear p e else s.nbrLoad p e l
  | none =>
    if l.ttl = 0 then s
    else match (List.range 4).find? (fun e => !s.nbrValid i e) with
      | some e => s.nbrLoad p e l
      | none => (s.addSat (ETHx_CNT_MISC i) ETHx_CNT_MISC_NBR_FULL 1).nbrLoad p (s.nbrOldest p) l

/-- NEIGHBOUR_EXPIRY: the TTL of an entry runs out (R366). -/
def execNeighbourExpiry (port : Port) (e : Nat) (s : State) : Host.Outcome State Fault Refusal :=
  match Sp.find (s.eth port).nbrEnd e with
  | none => .next s
  | some t => .next ((s.at_ t).nbrClear port e)

/-! ### IPv4 and IPv6 addresses (R352–R354) -/

/-- A port gains or changes its IPv4 address: one gratuitous ARP. -/
def State.gainIp4 (s : State) (p : Port) (addr : Nat) : State :=
  let c := s.cfgPort p
  let i := portIx c
  let s := s.wr (ETHx_IP4_CUR i) (BitVec.ofNat 32 addr)
  let s := s.setF (ETHx_STATUS i) ETHx_STATUS_ADDR4 (b2n (addr != 0))
  if addr = 0 then s else s.sendPrp p .mgmt 0xFFFFFFFFFFFF (.arp false (s.mac p) addr addr) 46 true id

/-- Send a DHCP message. -/
def State.sendDhcp (s : State) (p : Port) (m : Dhcp) : State := s.sendPrp p .mgmt 0xFFFFFFFFFFFF (.dhcp m) 328 true id

/-- Whether a port's settings in force select DHCP. -/
def State.dhcpOn (s : State) (p : Port) : Bool :=
  let c := s.cfgPort p
  ETHx_IP4_CFG_DHCP_EN.get (s.ethLive c (ETHx_IP4_CFG (portIx c))) == 1

/-- The client starts again without an address. -/
def State.dhcpStart (s : State) (p : Port) : State :=
  let c := s.cfgPort p
  let s := s.setEth c { s.eth c with lease := none, dhcpState := 1 }
  (s.gainIp4 p 0).sendDhcp p .discover

/-- A lease is bound (R352). -/
def State.dhcpBind (s : State) (p : Port) (addr pfx gw t1 t2 lease : Nat) : State :=
  let c := s.cfgPort p
  let old := s.ip4 p
  let s := s.setEth c { s.eth c with lease := some (addr, pfx, gw), dhcpState := 3, leaseT1 := s.tm.now + t1 * tickS,
                                     leaseT2 := s.tm.now + t2 * tickS, leaseEnd := s.tm.now + lease * tickS }
  if old = addr then s else s.gainIp4 p addr

/-- A DHCP message reaches the client. -/
def State.dhcpReceive (s : State) (p : Port) (m : Dhcp) : State :=
  let c := s.cfgPort p
  let st := (s.eth c).dhcpState
  match m with
  | .offer _ _ => if st = 1 then (s.setEth c { s.eth c with dhcpState := 2 }).sendDhcp p .request else s
  | .ack addr pfx gw t1 t2 lease => if st = 2 ∨ st = 4 ∨ st = 5 then s.dhcpBind p addr pfx gw t1 t2 lease else s
  | .nak => if st = 2 ∨ st = 4 ∨ st = 5 then s.dhcpStart p else s
  | _ => s

/-- DHCP_LEASE_TIMER: the client renews at T1, rebinds at T2, and removes the address at expiry (R352). -/
def execDhcpLeaseTimer (port : Port) (s : State) : Host.Outcome State Fault Refusal :=
  let c := s.cfgPort port
  let x := s.eth c
  let enter (s : State) (st : Nat) : State := s.setEth c { s.eth c with dhcpState := st }
  match x.dhcpState with
  | 3 => .next ((enter (s.at_ x.leaseT1) 4).sendDhcp port .request)
  | 4 => .next ((enter (s.at_ x.leaseT2) 5).sendDhcp port .request)
  | 5 => .next ((s.at_ x.leaseEnd).dhcpStart port)
  | _ => .next s

/-- The IPv6 addresses a port forms: 0 the link-local, 1 the global (R354). -/
def State.dadStart (s : State) (p : Port) : State :=
  let c := s.cfgPort p
  let i := portIx c
  if ETHx_IP6_CFG_EN.get (s.ethLive c (ETHx_IP6_CFG i)) = 0 then s
  else
    let l := if s.ip6g p = 0 then [0] else [0, 1]
    let s := (s.setF (ETHx_STATUS i) ETHx_STATUS_ADDR6_LL 0).setF (ETHx_STATUS i) ETHx_STATUS_ADDR6_G 0
    let s := s.setEth c { s.eth c with dad := l, llaBad := false, gBad := false }
    s.forEach l (fun s a =>
      let t := if a = 0 then linkLocal (s.mac p) else s.ip6g p
      s.sendPrp p .mgmt (0x3333FF000000 + t % 2 ^ 24) (.ns ⟨true, 0⟩ t (s.mac p)) 72 true id)

/-- DUPLICATE_ADDRESS_DETECTION: the detection on an address ends (R354). -/
def execDuplicateAddressDetection (port : Port) (linkLocal duplicate : Bool) (s : State) : Host.Outcome State Fault Refusal :=
  let c := s.cfgPort port
  let i := portIx c
  let x := s.eth c
  let a := if linkLocal then 0 else 1
  if !x.dad.contains a then .next s
  else
    let bad := fun (old : Bool) (mine : Bool) => if mine then duplicate else old
    let s := s.setEth c { x with dad := x.dad.erase a, llaBad := bad x.llaBad linkLocal, gBad := bad x.gBad (!linkLocal) }
    if duplicate then .next (s.setF (ETHx_STATUS i) ETHx_STATUS_DAD_FAIL 1)
    else .next (s.setF (ETHx_STATUS i) (if linkLocal then ETHx_STATUS_ADDR6_LL else ETHx_STATUS_ADDR6_G) 1)

/-- A neighbour's address enters the cache; a full cache replaces its oldest entry (R353). [DEDUCED, log 58] -/
def State.arpLearn (s : State) (p : Port) (ip : Ip) (mac : Nat) : State :=
  let x := s.eth p
  let rest := x.arp.filter (fun e => e.ip != ip)
  let rest := if 16 ≤ rest.length then rest.drop 1 else rest
  s.setEth p { x with arp := rest ++ [{ ip := ip, mac := mac, at_ := s.tm.now }],
                      resolving := x.resolving.filter (fun r => r.1 != ip) }

/-- ARP_RETRY: the oldest unresolved next hop is asked for again 1 s after its last request (R353). -/
def execArpRetry (port : Port) (s : State) : Host.Outcome State Fault Refusal :=
  let x := s.eth port
  match x.resolving with
  | [] => .next s
  | (ip, t) :: rest =>
    let s := s.at_ (t + tickS)
    .next ((s.setEth port { s.eth port with resolving := rest }).startResolve port ip)

/-- ARP_ENTRY_AGE_OUT: the oldest cache entry is 60 s old (R353). -/
def execArpEntryAgeOut (port : Port) (s : State) : Host.Outcome State Fault Refusal :=
  match (s.eth port).arp with
  | [] => .next s
  | e :: rest =>
    let s := s.at_ (e.at_ + 60 * tickS)
    .next (s.setEth port { s.eth port with arp := rest })

/-! ### Link changes (R344, R345, R352, R365) -/

/-- Every queued frame of a port is discarded and counted, and so is one in transmission (R345). -/
def State.flushPort (s : State) (p : Port) : State :=
  let s := s.settleSend p
  let x := s.eth p
  let gone := x.sending.toList ++ x.txq
  let s := s.setEth p { x with sending := none, txq := [], resolving := [] }
  (s.addSat (ETHx_CNT_TXERR (portIx p)) ETHx_CNT_TXERR_FLUSH gone.length).forEach gone State.freeFrame

/-- The addresses at link up. [DEDUCED, log 83] -/
def State.addressUp (s : State) (p : Port) : State :=
  let c := s.cfgPort p
  let s := if s.dhcpOn p then s.dhcpStart p
    else (s.setEth c { s.eth c with lease := none, dhcpState := 0 }).gainIp4 p (s.ethLive c (ETHx_IP4_ADDR (portIx c))).toNat
  s.dadStart p

/-- LINK_UP: PCS lock has held for 10 ms, with the speed an SGMII PHY reports (R344). -/
def execLinkUp (port : Port) (speed : Nat) (s : State) : Host.Outcome State Fault Refusal :=
  let i := portIx port
  let st := ETHx_STATUS i
  if !s.domOn (portDom port) || !s.fb (ETHx_CTRL i) ETHx_CTRL_EN || s.rate port == 0 || s.fb st ETHx_STATUS_LINK then .next s
  else
    let other := s.portUp (portOf (1 - i))
    let s := s.setF st ETHx_STATUS_SPEED (if s.lineMode port = 1 then Nat.min 2 speed else 0)
    let s := (s.setF st ETHx_STATUS_LINK 1).raisePort port
    let s := if s.prp && other then s else s.addressUp port
    .next (if s.lldpOn port then s.sendLldp port (s.lldpTtl port) else s)

/-- The link of a port goes down (R345). [DEDUCED, log 83] -/
def State.linkLost (s : State) (p : Port) : State :=
  if !s.fb (ETHx_STATUS (portIx p)) ETHx_STATUS_LINK then s
  else ((s.flushPort p).setF (ETHx_STATUS (portIx p)) ETHx_STATUS_LINK 0).raisePort p

/-- LINK_DOWN: lock is lost (R344, R345). -/
def execLinkDown (port : Port) (s : State) : Host.Outcome State Fault Refusal := .next (s.linkLost port)

/-- The last LLDPDU of a port, with TTL 0, is sent at once (R365). -/
def State.lldpLast (s : State) (p : Port) : State :=
  if !s.lldpOn p then s
  else
    let l := s.lldpdu p 0
    let fr : Frame := { dst := 0x0180C200000E, src := s.mac p, tags := [], len := frameLen 0 false (lldpLen l), fcsOk := true,
                        prp := none, body := .lldp l }
    (s.setEth p { s.eth p with sent := some fr }).addWrap (ETHx_CNT_TXOK (portIx p)) ETHx_CNT_TXOK_FRAMES 1

/-! ### PRP (R363, R364) -/

/-- PRP_SUPERVISION: every 2 s, supervision frames are sent on both ports (R363). -/
def execPrpSupervision (s : State) : Host.Outcome State Fault Refusal :=
  if !s.prp then .next s
  else
    let s := s.at_ ((s.tm.now / (2 * tickS) + 1) * (2 * tickS))
    .next (s.sendPrp .A .mgmt 0x01154E000100 .prpSup 46 true id)

/-- A frame with a trailer in a PRP node: whether it is a duplicate, and the state after it (R364). -/
def State.prpReceive (s : State) (p : Port) (f : Frame) : Bool × State :=
  match f.prp with
  | none => (false, s)
  | some (lan, seq) =>
    if !s.prp then (false, s)
    else
      let i := portIx p
      let s := if lan = i then s else s.addSat (ETHx_CNT_PRP i) ETHx_CNT_PRP_WRONG_LAN 1
      let seen := s.pkt.prpSeen.filter (fun x => decide (s.tm.now < x.2.2 + 400 * tickMs))
      if seen.any (fun x => x.1 == f.src && x.2.1 == seq) then (true, s.addSat (ETHx_CNT_PRP i) ETHx_CNT_PRP_DUP 1)
      else
        let seen := if 1024 ≤ seen.length then seen.drop 1 else seen
        (false, { s with pkt := { s.pkt with prpSeen := seen ++ [(f.src, seq, s.tm.now)] } })

/-! ### Reception (R346–R348, R353–R356) -/

/-- The IPv6 addresses of a port in use, or under detection. -/
def State.ip6Own (s : State) (p : Port) : List Nat :=
  let c := s.cfgPort p
  if ETHx_IP6_CFG_EN.get (s.ethLive c (ETHx_IP6_CFG (portIx c))) = 0 then []
  else linkLocal (s.mac p) :: (if s.ip6g p = 0 then [] else [s.ip6g p])

/-- Whether a destination MAC address passes the filter (R347). -/
def State.macPass (s : State) (p : Port) (dst : Nat) : Bool :=
  dst == s.mac p || dst == 0xFFFFFFFFFFFF || dst == 0x0180C200000E || dst == 0x011B19000000
    || (s.ip6Own p).any (fun a => dst == 0x3333FF000000 + a % 2 ^ 24) || (s.prp && dst == 0x01154E000100)

/-- Whether the tags of a frame are accepted (R348). -/
def State.vlanPass (s : State) (p : Port) (tags : List (Nat × Nat)) : Bool :=
  let w := s.ethLive (s.cfgPort p) (ETHx_VLAN (portIx (s.cfgPort p)))
  let untag := ETHx_VLAN_RX_UNTAG.get w == 1
  match tags with
  | [] => untag
  | [(vid, _)] => vid == ETHx_VLAN_VID.get w || (vid == 0 && untag)
  | _ => false

/-- Whether an IP destination is the port's own. -/
def State.ipOwn (s : State) (p : Port) (a : Ip) : Bool :=
  let st := ETHx_STATUS (portIx (s.cfgPort p))
  if a.v6 then (s.fb st ETHx_STATUS_ADDR6_LL && a.addr == linkLocal (s.mac p))
    || (s.fb st ETHx_STATUS_ADDR6_G && a.addr == s.ip6g p)
  else s.ip4 p != 0 && a.addr == s.ip4 p

/-- The UDP ports a port listens on (R356). -/
def State.udpListens (s : State) (p : Port) (dport : Nat) : Bool :=
  let c := s.cfgPort p
  dport == ETHx_UDP_MGMT.get (s.ethLive c (ETHx_UDP (portIx c)))
    || dport == ETHx_UDP_SAFE_SAFE.get (s.rd (ETHx_UDP_SAFE (portIx c)))

/-- Whether the IP and UDP rules accept a frame's content (R355, R356). -/
def State.bodyPass (s : State) (p : Port) : Body → Bool
  | .udp src dst _ dport cks frag _ =>
    !frag && cks != .bad && !(src.v6 && cks == .zero) && s.ipOwn p dst && s.udpListens p dport
  | .icmp _ _ dst _ => s.ipOwn p dst
  | _ => true

/-- Answer an ICMPv4 echo request, at most 100 in each second (R353). -/
def State.echoReply (s : State) (p : Port) (f : Frame) (src dst : Ip) (data : List Byte) : State :=
  let x := s.eth p
  let w := s.tm.now / tickS
  let n := if x.echoWindow = w then x.echoCount else 0
  if 100 ≤ n ∨ 1472 < data.length ∨ src.v6 then s
  else
    let s := s.setEth p { x with echoWindow := w, echoCount := n + 1 }
    s.sendPrp p .mgmt f.src (.icmp false dst src data) (28 + data.length) true id

/-- Act on the content of an accepted frame. -/
def State.dispatchFrame (s : State) (p : Port) (f : Frame) : State :=
  match f.body with
  | .udp src _ sport dport _ _ data => s.accept (.udp p src sport dport) data
  | .arp reply sha spa tpa =>
    if reply then s.arpLearn p ⟨false, spa⟩ sha
    else if s.ip4 p ≠ 0 ∧ tpa = s.ip4 p then s.sendPrp p .mgmt sha (.arp true (s.mac p) tpa spa) 46 true id else s
  | .icmp true src dst data => s.echoReply p f src dst data
  | .ns src target _ =>
    if s.ipOwn p ⟨true, target⟩ then s.sendPrp p .mgmt (if src.addr = 0 then 0x333300000001 else f.src) (.na target (s.mac p)) 72 true id
    else s
  | .na target mac => s.arpLearn p ⟨true, target⟩ mac
  | .dhcp m => s.dhcpReceive p m
  | .lldp l => s.neighbour p l
  | .ptp msg => s.ptpAnswer p msg
  | _ => s

/-- Count a frame that the address, VLAN, IP or UDP rules refuse. -/
def State.filtered (s : State) (p : Port) : State := s.addSat (ETHx_CNT_RXDROP (portIx p)) ETHx_CNT_RXDROP_FILT 1

/-- A frame past the MAC: filters, PRP and dispatch (R347, R348, R364). [DEDUCED, log 82] -/
def State.frameIn (s : State) (p : Port) (f : Frame) : State :=
  if !s.macPass p f.dst || !s.vlanPass p f.tags then s.filtered p
  else
    let (dup, s) := s.prpReceive p f
    if dup then s
    else if !s.bodyPass p f.body then s.filtered p
    else (s.addWrap (ETHx_CNT_RXOK (portIx p)) ETHx_CNT_RXOK_FRAMES 1).dispatchFrame p f

/-- A frame reaches a port's MAC (R346). [DEDUCED, log 82] -/
def State.macIn (s : State) (p : Port) (f : Frame) : State :=
  let i := portIx p
  if !s.portUp p then s
  else if !f.fcsOk ∨ 9216 < f.len then
    let s := if f.fcsOk then s else s.addSat (ETHx_CNT_RXERR i) ETHx_CNT_RXERR_FCS 1
    if 9216 < f.len then s.addSat (ETHx_CNT_RXERR i) ETHx_CNT_RXERR_LONG 1 else s
  else if f.len < 64 then s
  else if !s.pllC then s.addSat (ETHx_CNT_RXDROP i) ETHx_CNT_RXDROP_OVF 1
  else match f.body with
    | .pause => s.addSat (ETHx_CNT_MISC i) ETHx_CNT_MISC_PAUSE 1
    | _ => s.frameIn p f

/-- FRAME_RECEIVE: a frame arrives on a port (R346–R348, R353–R356, R364). -/
def execFrameReceive (port : Port) (frame : Frame) (s : State) : Host.Outcome State Fault Refusal := .next (s.macIn port frame)

/-- LLDPDU_RECEIVE: a frame that carries an LLDPDU arrives on a port (R366). -/
def execLldpduReceive (port : Port) (frame : Frame) (s : State) : Host.Outcome State Fault Refusal :=
  match frame.body with
  | .lldp _ => .next (s.macIn port frame)
  | _ => .next s

/-! ### Enabling a port (R343, R351, R363, R365) -/

/-- The registers whose writes take effect only on a rise of EN (R351). -/
def portSettings (i : Nat) : List Nat :=
  [ETHx_MAC_HI i, ETHx_MAC_LO i, ETHx_IP4_ADDR i, ETHx_IP4_CFG i, ETHx_IP4_GW i, ETHx_IP6_CFG i, ETHx_MTU i, ETHx_VLAN i,
   ETHx_UDP i] ++ (List.range 4).map (ETHx_IP6_ADDR i)

/-- A rise of EN: pending settings apply, and the latencies of the line mode load, whose values the spec does not state. -/
def State.portStart (s : State) (p : Port) : State :=
  let i := portIx p
  let live := (portSettings i).foldl (fun m a => Sp.put (fun k => (resetWord k).toNat) m a (s.rd a).toNat) (s.eth p).live
  let s := s.setEth p { s.eth p with live := live, credit := 0, creditAt := s.tm.now }
  let (v, s) := s.openNat (TIM_PORT_LAT i)
  (s.wr (TIM_PORT_LAT i) (BitVec.ofNat 32 v)).setF (ETHx_STATUS i) ETHx_STATUS_PENDING 0

/-- Whether a PRP node may form: both ports select it with the same mode and data rate (R363). -/
def State.prpFits (s : State) (w : Word) (p : Port) : Bool :=
  let other := portOf (1 - portIx p)
  let a := match p with | .A => w | .B => s.rd (ETHx_CTRL 0)
  let b := match p with | .A => s.rd (ETHx_CTRL 1) | .B => w
  ETHx_CTRL_PRP_EN.get a == 0 ||
    (ETHx_CTRL_PRP_EN.get b == 1 && ETHx_CTRL_MODE.get a == ETHx_CTRL_MODE.get b
      && modeRate (ETHx_CTRL_MODE.get w) (s.speed p) == modeRate (ETHx_CTRL_MODE.get w) (s.speed other))

/-- Set CFG_REJ of a port. [DEDUCED, log 84] -/
def State.portRej (s : State) (p : Port) : State := s.setF (ETHx_STATUS (portIx p)) ETHx_STATUS_CFG_REJ 1

/-- A write of ETHx_CTRL: `none` when a rule makes it change nothing (R343, R351, R363, R365). [DEDUCED, log 84] -/
def State.portCtrl (s : State) (p : Port) (w : Word) : Bool × State :=
  let a := ETHx_CTRL (portIx p)
  let en := s.fb a ETHx_CTRL_EN
  let mode := ETHx_CTRL_MODE.get w
  if (en && mode != s.lineMode p) || decide (5 < mode) then (false, s.portRej p)
  else if !en ∧ ETHx_CTRL_EN.get w = 1 then
    if s.prpFits w p then (true, (s.wr a w).portStart p)
    else (true, (s.wr a (ETHx_CTRL_EN.set w 0)).portRej p)
  else
    let s := if en && (ETHx_CTRL_EN.get w == 0 || ETHx_CTRL_LLDP_EN.get w == 0) then s.lldpLast p else s
    let s := if en ∧ ETHx_CTRL_EN.get w = 0 then s.linkLost p else s
    (true, s.wr a w)

end Sys2Proof.Machine
end

