-- ==== Sys2Proof/Machine/Stream.lean ====
section
/-! DEFINITION. The packetizer (chapter 13): stream messages, their time and CRC, the point-stream region, timed queues. -/

namespace Sys2Proof.Machine

open Reg

/-! ### Destinations (R357) and timed queues (R385, R386) -/

/-- Destination d of a port; `none` when it is not in use. -/
def State.destOf (s : State) (p : Port) (d : Nat) : Option (Ip × Nat) :=
  let i := portIx p
  let w := s.rd (ETHx_DST_CFG i d)
  if ETHx_DST_CFG_EN.get w = 0 then none
  else
    let word (j : Nat) := (s.rd (ETHx_DST_ADDR i d j)).toNat
    let v6 := ETHx_DST_CFG_V6.get w == 1
    let addr := if v6 then (List.range 4).foldl (fun n j => n * 2 ^ 32 + word j) 0 else word 0
    some (⟨v6, addr⟩, ETHx_DST_CFG_DPORT.get w)

/-- The launch time of a content time, rounded up to the launch resolution (R386), in 2^-48 ns. -/
def launchTime (res delay c : Nat) : Nat :=
  let l := c + delay * 2 ^ 48
  let k := (l * 10 + res * 2 ^ 48 - 1) / (res * 2 ^ 48)
  (k * res * 2 ^ 48 + 9) / 10

/-- An entry for a port: on its timed queue q when that is enabled, with the time `c` its content describes on
the queue's base (R385–R387). -/
def State.timedEntry (s : State) (p : Port) (q ident : Nat) (c : Nat → Nat) (cls : TxClass) (e : TxEntry) : TxEntry :=
  let p := match e.frame.prp with | some (lan, _) => portOf lan | none => p
  let a := TIM_LQ_CFG (2 * portIx p + q)
  if !s.fb a TIM_LQ_CFG_EN then { e with cls := cls, ident := ident }
  else
    let x := s.f a TIM_LQ_CFG_TB
    let l := launchTime (s.launchRes p) (s.f a TIM_LQ_CFG_DELAY) (c x)
    { e with cls := .timed q, ident := ident, tb := x, launch := l, late := decide (l < s.netTime x),
             drop := s.fb a TIM_LQ_CFG_POLICY, stamp := s.fb a TIM_LQ_CFG_TS_EN }

/-! ### Messages (R358–R362) -/

/-- The ports that carry the stream: those with STRM_EN, or under PRP port A's setting for both (R362, R363). -/
def State.strmPorts (s : State) : List Port :=
  let on (p : Port) : Bool := s.fb (ETHx_CTRL (portIx p)) ETHx_CTRL_STRM_EN
  if s.prp then (if on .A then [.A] else []) else [Port.A, .B].filter on

/-- The payload length limit: that of the ports that carry the stream, port A's when none does (R360). [DEDUCED, log 79] -/
def State.strmLimit (s : State) : Nat :=
  let one (p : Port) : Nat :=
    let c := s.cfgPort p
    let mtu := ETHx_MTU_MTU.get (s.ethLive c (ETHx_MTU (portIx c)))
    mtu - (if s.fb (ETHx_DST_CFG (portIx p) 0) ETHx_DST_CFG_V6 then 48 else 28)
  match s.strmPorts with
  | [] => one .A
  | p :: l => l.foldl (fun n x => Nat.min n (one x)) (one p)

/-- Open a message for a column header: its SEQUENCE is taken and the limit reserved (R362). -/
def State.openMsg (s : State) (tfirst : Nat) (cont : Bool) : State :=
  let lim := s.strmLimit
  let drop := decide (2816 * 1024 < s.strmUsed + lim)
  let m : OpenMsg := { seq := s.f ETHA_STRM_SEQ ETHA_STRM_SEQ_SEQ, tfirst := tfirst, body := [], columns := 0, cont := cont,
                       dropped := drop, limit := lim, openedAt := s.tm.now }
  let s := s.addWrap ETHA_STRM_SEQ ETHA_STRM_SEQ_SEQ 1
  let s := if drop then s.addWrap ETHA_STRM_CNT ETHA_STRM_CNT_DROP 1 else s
  State.strmFill { s with pkt := { s.pkt with msg := some m } }

/-- The time base of the stream. -/
def State.strmTb (s : State) : Nat := s.f ETHA_STRM_CFG ETHA_STRM_CFG_TB

/-- The time of a message's first column on the stream's base; 0 while that does not run. -/
def State.msgTime (s : State) (m : OpenMsg) : Nat :=
  if s.netRunning s.strmTb then s.tbsToNet s.strmTb m.tfirst else 0

/-- The payload of a message (R358, R361). -/
def State.msgBytes (s : State) (m : OpenMsg) (split : Bool) : List Byte :=
  let x := s.strmTb
  let t := s.msgTime m
  let fl := x + 2 * b2n (s.netRunning x) + 4 * b2n (s.baseState x == 4) + 8 * b2n m.cont + 16 * b2n split
  let b := leBytes 2 (s.f ETHA_STRM_CFG ETHA_STRM_CFG_STREAM_ID) ++ leBytes 1 1 ++ leBytes 1 fl ++ leBytes 4 m.seq
    ++ netBytes t ++ leBytes 2 m.columns ++ zeros 2 ++ m.body
  b ++ leBytes 4 (crc32c b)

/-- Queue a message on one port that carries the stream (R357, R362). -/
def State.queueMsg (s : State) (p : Port) (id : Nat) (m : OpenMsg) (data : List Byte) : State :=
  if !s.portUp p && !s.prp then s
  else
    match s.destOf p 0 with
    | none => s
    | some (ip, dport) =>
      let c := s.cfgPort p
      let sport := ETHx_UDP_STRM.get (s.ethLive c (ETHx_UDP (portIx c)))
      let s := (s.creditSync .A).creditSync .B
      let s0 := s
      s.sendUdp p .stream ip sport dport data true (fun e =>
        { s0.timedEntry p 0 (m.seq % 65536) (fun x => s0.tbsToNet x m.tfirst) .stream e with msg := some id })

/-- Copies of a message that wait in the ports. -/
def State.msgRefs (s : State) (id : Nat) : Nat :=
  ((s.ethA.txq ++ s.ethB.txq).filter (fun e => e.msg == some id)).length

/-- Close the open message and queue it (R360, R362). -/
def State.closeMsg (s : State) (split : Bool) : State :=
  match s.pkt.msg with
  | none => s
  | some m =>
    let s := { s with pkt := { s.pkt with msg := none } }
    if m.dropped then s.strmFill
    else
      let id := s.pkt.nextId
      let data := s.msgBytes m split
      let s := { s with pkt := { s.pkt with nextId := id + 1 } }
      let s := s.forEach s.strmPorts (fun s p => s.queueMsg p id m data)
      let n := s.msgRefs id
      let held := if n = 0 then s.pkt.held else s.pkt.held ++ [(id, m.limit, n)]
      State.strmFill { s with pkt := { s.pkt with held := held } }

/-- Bytes an open message can still take. [DEDUCED, log 79] -/
def State.msgRoom (s : State) : Nat :=
  match s.pkt.msg with
  | none => 0
  | some m => m.limit - 28 - m.body.length

/-- Put bytes into the open message; `cols` column headers begin in them. -/
def State.msgPut (s : State) (b : List Byte) (cols : Nat) : State :=
  match s.pkt.msg with
  | none => s
  | some m =>
    let body := if m.dropped then m.body ++ zeros b.length else m.body ++ b
    { s with pkt := { s.pkt with msg := some { m with body := body, columns := m.columns + cols } } }

/-- A copy of a column header with RECORDS replaced (R359). [DEDUCED, log 80] -/
def hdrCopy (hdr : List Byte) (n : Nat) : List Byte := hdr.take 24 ++ leBytes 2 n ++ hdr.drop 26

/-- Pack the records that remain of a column, message after message (R359, R360). [DEDUCED, log 80] -/
def State.packRecords (hdr : List Byte) (tfirst : Nat) : Nat → List (List Byte) → State → State
  | 0, _, s => s
  | fuel + 1, recs, s =>
    let k := s.msgRoom / 12
    if recs.length ≤ k then s.msgPut (recs.flatMap id) 0
    else
      let s := (s.msgPut ((recs.take k).flatMap id) 0).closeMsg true
      let rest := recs.drop k
      let s := s.openMsg tfirst true
      let n := Nat.min rest.length ((s.msgRoom - 32) / 12)
      State.packRecords hdr tfirst fuel rest (s.msgPut (hdrCopy hdr n) 1)

/-- Pack a column: header, then records (R358–R360). -/
def State.packColumn (s : State) (hdr : List Byte) (recs : List (List Byte)) : State :=
  let tfirst := leAt hdr 8 8
  let need := 32 + (if recs.isEmpty then 0 else 12)
  let s := if s.pkt.msg.isSome && decide (s.msgRoom < need) then s.closeMsg false else s
  let s := if s.pkt.msg.isNone then s.openMsg tfirst false else s
  (s.msgPut hdr 1).packRecords hdr tfirst (recs.length + 1) recs

/-- STREAM_MESSAGE_CLOSE: the open message's first byte has waited HOLD µs (R360). -/
def execStreamMessageClose (s : State) : Host.Outcome State Fault Refusal :=
  match s.pkt.msg with
  | none => .next s
  | some m => .next ((s.at_ (m.openedAt + Nat.max 1 (s.f ETHA_STRM_CFG ETHA_STRM_CFG_HOLD) * tickUs)).closeMsg false)

end Sys2Proof.Machine
end

