-- ==== Sys2Proof/Machine/Tumbler.lean ====
section
/-! DEFINITION. The Tumbler (chapter 04): coincidence, the dark gate, the ambient estimate and the tracking steps. -/

namespace Sys2Proof.Machine

open Reg

/-! ### Macropixels -/

/-- The macropixel width that a TMB_GRP_CFG word gives: 1, 2 or 4, and 1 with BYPASS, which ignores WIDTH (R110, R116). -/
def widthOf (w : Word) : Nat := if TMB_GRP_CFG_BYPASS.get w = 0 then 2 ^ TMB_GRP_CFG_WIDTH.get w else 1

/-- The macropixel width of a group (R110, R116). -/
def State.grpWidth (s : State) (g : Nat) : Nat := widthOf (s.eff (TMB_GRP_CFG g))

/-- Whether a group passes its events unchanged (R116). -/
def State.bypass (s : State) (g : Nat) : Bool := s.efb (TMB_GRP_CFG g) TMB_GRP_CFG_BYPASS

/-- The primary channel of an input's macropixel (R110). -/
def State.primary (s : State) (n : Nat) : Nat := n - n % s.grpWidth (n / 4)

/-- Whether a channel is a secondary channel. -/
def State.secondary (s : State) (n : Nat) : Bool := s.primary n != n

/-- The coincidence window W in ticks (R112). -/
def State.coWin (s : State) (g : Nat) : Nat := Nat.max 2 (Nat.min 16 (s.ef (TMB_GRP_CFG g) TMB_GRP_CFG_WIN)) * 16

/-- The quarter of an input. -/
def quarterOf (n : Nat) : Nat := n / 128

/-- Whether the front-end quarter of an input is on and the input exists in the variant. -/
def State.inputOn (s : State) (n : Nat) : Bool := decide (n < s.channels) && s.domOn (6 + quarterOf n)

/-! ### Ambient level and steps -/

/-- The ambient estimate of an input (R119). -/
def State.est (s : State) (n : Nat) : Nat := s.f (TMB_AMB n) TMB_AMB_EST

/-- The ambient level A of the macropixel of a primary channel (R119). -/
def State.ambLevel (s : State) (p : Nat) : Nat :=
  let w := s.grpWidth (p / 4)
  (List.range w).foldl (fun acc i => acc + s.est (p + i) / 16) 0 / w

/-- AMBIENT of a channel's points (R125). -/
def State.ambient (s : State) (p : Nat) : Nat :=
  let w := s.grpWidth (p / 4)
  Nat.min 0xFFFF ((List.range w).foldl (fun acc i => acc + s.est (p + i) / 16) 0)

/-- The LIVE, LAT and BLIND fields of position m of TMB_GRP_STAT. -/
def liveFld (m : Nat) : Fld := ⟨4 * m, 3, .ro⟩
def latFld (m : Nat) : Fld := ⟨16 + 4 * m, 3, .ro⟩
def blindFld (m : Nat) : Fld := ⟨19 + 4 * m, 1, .ro⟩

/-- The current step of a macropixel. -/
def State.liveStep (s : State) (p : Nat) : Nat := s.f (TMB_GRP_STAT (p / 4)) (liveFld (p % 4))

/-- The step whose offset and demand are in force (R123). -/
def State.step_ (s : State) (p : Nat) : Nat :=
  if s.scanning && s.tmb.latched then s.f (TMB_GRP_STAT (p / 4)) (latFld (p % 4)) else s.liveStep p

/-- UP of a step. -/
def State.stepUp (s : State) (l : Nat) : Nat := s.ef (TMB_STEP l) TMB_STEP_UP

/-- The next step of a macropixel (R121). -/
def State.nextStep (s : State) (l a : Nat) : Nat :=
  if l < 7 ∧ s.stepUp (l + 1) ≤ a then l + 1
  else if 0 < l ∧ a < s.stepUp l - s.ef TMB_AMB_CTRL TMB_AMB_CTRL_HYST then l - 1 else l

/-- The ambient offset supplied to an input's high threshold (R116, R122). -/
def State.ambOfs (s : State) (n : Nat) : Nat :=
  let g := n / 4
  if s.bypass g || !s.efb (TMB_GRP_CFG g) TMB_GRP_CFG_TRACK_EN then 0
  else Nat.min (s.ef (TMB_STEP (s.step_ (s.primary n))) TMB_STEP_OFS) (s.ef (TMB_GRP_BOUND g) TMB_GRP_BOUND_OFS_MAX)

/-- The effective coincidence demand k of a macropixel (R122). -/
def State.demand (s : State) (p : Nat) : Nat :=
  let g := p / 4
  let w := s.grpWidth g
  let kmin := s.ef (TMB_GRP_CFG g) TMB_GRP_CFG_KMIN_M1 + 1
  let kmax := s.ef (TMB_GRP_CFG g) TMB_GRP_CFG_KMAX_M1 + 1
  if s.efb (TMB_GRP_CFG g) TMB_GRP_CFG_TRACK_EN then
    Nat.min (Nat.min (kmin + s.ef (TMB_STEP (s.step_ p)) TMB_STEP_KADD) (Nat.max kmin kmax)) w
  else Nat.min kmin w

/-- The highest step whose UP is at or below a level (R126). -/
def State.stepFor (s : State) (a : Nat) : Nat :=
  ((List.range 8).filter (fun l => l = 0 ∨ s.stepUp l ≤ a)).foldl Nat.max 0

/-- A width change: each new macropixel takes the step its level calls for, secondary positions read 0 (R126). -/
def State.rewidth (s : State) (g : Nat) : State :=
  s.forEach (List.range 4) (fun s m =>
    let p := 4 * g + m
    if p % s.grpWidth g = 0 then s.setF (TMB_GRP_STAT g) (liveFld m) (s.stepFor (s.ambLevel p))
    else ((s.setF (TMB_GRP_STAT g) (liveFld m) 0).setF (TMB_GRP_STAT g) (latFld m) 0).setF (TMB_GRP_STAT g) (blindFld m) 0)

/-- The groups whose front-end quarter is on. -/
def State.groupsOn (s : State) : List Nat := (List.range 128).filter (fun g => s.inputOn (4 * g))

/-- The primary channels of a group. -/
def State.primaries (s : State) (g : Nat) : List Nat :=
  ((List.range 4).map (4 * g + ·)).filter (fun n => n % s.grpWidth g = 0)

/-- Latch step and BLIND of every macropixel at a column's first shot (R123, R124). -/
def State.latchSteps (s : State) : State :=
  let s := s.forEach s.groupsOn (fun s g => s.forEach (s.primaries g) (fun s p =>
    let l := s.liveStep p
    let blind := decide (l = 7) && decide (s.ef TMB_BLIND TMB_BLIND_LEVEL ≤ s.ambLevel p)
    (s.setF (TMB_GRP_STAT g) (latFld (p % 4)) l).setF (TMB_GRP_STAT g) (blindFld (p % 4)) (b2n blind)))
  { s with tmb := { s.tmb with latched := true } }

/-! ### The dark gate -/

/-- The length of a shot's dark gate in ns, from the interval since the previous commanded edge in ticks (R117). -/
def State.gateLen (s : State) (interval : Option Nat) : Nat :=
  let full := Nat.max 4 (s.ef TMB_AMB_CTRL TMB_AMB_CTRL_DG_LEN) * 16
  match interval with
  | none => full / 16 * 16
  | some i => Nat.min full (i / 64 - 64) / 16 * 16

/-- The gate's rate r of an input (R118). -/
def gateRate (leads : List Nat) (end_ len : Nat) : Nat :=
  let half := len * 64 / 2
  let h1 := (leads.filter (fun t => end_ ≤ t + 2 * half ∧ t + half < end_)).length
  let h2 := (leads.filter (fun t => end_ ≤ t + half ∧ t < end_)).length
  if len = 0 then 0 else 2 * Nat.min h1 h2 * 100000 / len

/-- The estimate after a gate (R119). -/
def nextEst (est r up down : Nat) : Nat :=
  let d : Int := (r * 16 : Nat) - (est : Int)
  let a := if est ≤ r * 16 then up else down
  (est + asr d a).toNat

/-- Whether an injection on an input overlaps a span of TBS (R120). -/
def State.injOverlaps (s : State) (n first last : Nat) : Bool :=
  s.efb (RFE_CFG n) RFE_CFG_TPI_EN && s.tdc.inj.any (fun w => decide (w.1 < last ∧ first < w.2))

/-- End a dark gate on one group: estimates, then steps (R118–R121). -/
def State.gateGroup (s : State) (end_ len : Nat) (g : Nat) : State :=
  let first := end_ - len * 64
  let up := s.ef TMB_AMB_CTRL TMB_AMB_CTRL_ALPHA_UP
  let down := s.ef TMB_AMB_CTRL TMB_AMB_CTRL_ALPHA_DOWN
  let ins := ((List.range 4).map (4 * g + ·)).filter (fun n => !s.injOverlaps n first end_)
  let s := s.forEach ins (fun s n =>
    let r := gateRate (Sp.get (fun _ => []) s.tdc.leads n) end_ len
    s.setF (TMB_AMB n) TMB_AMB_EST (nextEst (s.est n) r up down))
  s.forEach (s.primaries g) (fun s p =>
    if (List.range (s.grpWidth g)).any (fun i => ins.contains (p + i)) then
      s.setF (TMB_GRP_STAT g) (liveFld (p % 4)) (s.nextStep (s.liveStep p) (s.ambLevel p))
    else s)

/-- DARK_GATE_END: the gate of a shot, or a free-running gate, ends on every group unit (R117–R121). A gate in a stolen
column updates nothing (R120). -/
def execDarkGateEnd (s : State) : Host.Outcome State Fault Refusal :=
  match s.tmb.gate with
  | none => .next s
  | some (end_, len, stolen) =>
    let s := s.toTbs end_
    let s := { s with tmb := { s.tmb with gate := none } }
    .next (if stolen then s else s.forEach s.groupsOn (fun s g => s.gateGroup end_ len g))

/-- FREE_RUN_GATE: outside SCANNING a gate of min(DG_LEN × 16, 1,008) ns begins every FREE_PERIOD µs (R120). -/
def execFreeRunGate (s : State) : Host.Outcome State Fault Refusal :=
  if s.scanning || s.dev == .off || s.dev == .boot || !s.fb TMB_CTRL TMB_CTRL_FREE_RUN then .next s
  else
    let s := s.at_ s.tmb.freeAt
    let period := Nat.max 1 (s.f TMB_CTRL TMB_CTRL_FREE_PERIOD) * tickUs
    let len := Nat.min (Nat.max 4 (s.ef TMB_AMB_CTRL TMB_AMB_CTRL_DG_LEN) * 16) 1008
    .next { s with tmb := { s.tmb with gate := some (s.tbs + len * 64, len, false), freeAt := s.tm.now + period } }

/-! ### Coincidence -/

/-- The events a group's unit holds, in entry order. -/
def State.pool (s : State) (g : Nat) : List TEv := Sp.get (fun _ => []) s.tmb.pool g

/-- The state with a group's events replaced. -/
def State.setPool (s : State) (g : Nat) (l : List TEv) : State :=
  { s with tmb := { s.tmb with pool := Sp.put (fun _ => []) s.tmb.pool g l } }

/-- The crossing FIFO of a histogram bank. -/
def State.bankFifo (s : State) (q : Nat) : List Ev := Sp.get (fun _ => []) s.hge.fifo q

/-- Pass an accepted event into the 16-entry crossing FIFO of its bank (R31, R158). -/
def State.toBank (s : State) (e : Ev) : State :=
  let q := e.chan / 4
  if (s.bankFifo q).length < 16 then
    { s with hge := { s.hge with fifo := Sp.put (fun _ => []) s.hge.fifo q (s.bankFifo q ++ [e]) } }
  else s.addSat (HGE_CH_XFIFO e.chan) HGE_CH_XFIFO_XFIFO 1

/-- Emit an accepted event on its channel (R113). -/
def State.emit (s : State) (e : Ev) : State :=
  ((s.addWrap (TMB_CNT_ACC e.chan) TMB_CNT_ACC_ACCEPTED 1).recEvent 1 e).toBank e

/-- Count an event of an input as rejected (R114, R115). -/
def State.reject (s : State) (n : Nat) : State := s.addWrap (TMB_CNT_REJ n) TMB_CNT_REJ_REJECTED 1

/-- TUMBLER_EVENT_ENTRY: the head of an input's event FIFO leaves into the Tumbler, at most one every 4 ns (R95, R111,
R116). -/
def execTumblerEventEntry (n : Nat) (s : State) : Host.Outcome State Fault Refusal :=
  match Sp.get (fun _ => []) s.tdc.fifo n with
  | [] => .next s
  | e :: rest =>
    if !s.inputOn n then .next s
    else
      let s := s.at_ (match Sp.find s.tdc.taken n with | some t => t + 256 | none => 0)
      let s := { s with tdc := { s.tdc with fifo := Sp.put (fun _ => []) s.tdc.fifo n rest,
                                            taken := Sp.ins s.tdc.taken n s.tm.now } }
      let g := n / 4
      .next
        (if s.bypass g then s.emit { e with hits := 1 }
         else if e.tot < s.ef (TMB_GRP_CFG g) TMB_GRP_CFG_TOT_MIN then s.addWrap (TMB_CNT_TOTREJ n) TMB_CNT_TOTREJ_TOTREJ 1
         else s.setPool g (s.pool g ++ [{ ev := e, entry := s.tm.now }]))

/-- The partner an input gives a candidate: its earliest event in the window, the earlier entry on a tie (R112). -/
def partnerOf (pool : List TEv) (due tc w n : Nat) : Option TEv :=
  (pool.filter (fun x => x.ev.chan = n ∧ x.entry ≤ due ∧ tc ≤ x.ev.time ∧ x.ev.time ≤ tc + w
      ∧ due ≤ x.entry + 2 * w + 512)).foldl
    (fun best x => match best with
      | none => some x
      | some b => if x.ev.time < b.ev.time then some x else some b) none

/-- Insert a time into a rising list. -/
def insertNat (t : Nat) : List Nat → List Nat
  | [] => [t]
  | x :: xs => if t ≤ x then t :: x :: xs else x :: insertNat t xs

/-- The k-th earliest of some times, k from 1 (R113). -/
def kthTime (k : Nat) (l : List Nat) : Nat := (l.foldl (fun acc t => insertNat t acc) []).getD (k - 1) 0

/-- The accepted event of a candidate and its partners (R113). -/
def acceptedEvent (p k : Nat) (tsel : Bool) (c : Ev) (ps : List Ev) : Ev :=
  let all := c :: ps
  { chan := p, time := if tsel then kthTime k (all.map (·.time)) else c.time,
    tot := (all.map (·.tot)).foldl Nat.max 0, sat := all.any (·.sat), tpi := all.any (·.tpi), hits := all.length }

/-- A pool without the listed events, each removed once. -/
def poolWithout (pool : List TEv) (gone : List TEv) : List TEv := gone.foldl (fun l x => l.erase x) pool

/-- COINCIDENCE_DECISION: W + 4 ns after its entry, the oldest undecided event of a macropixel is decided (R112–R115). -/
def execCoincidenceDecision (p : Nat) (s : State) : Host.Outcome State Fault Refusal :=
  let g := p / 4
  let w := s.coWin g
  let mine := (s.pool g).filter (fun x => s.primary x.ev.chan = p)
  match mine.find? (fun x => !x.decided) with
  | none => .next s
  | some c =>
    let due := c.entry + w + 256
    let s := s.at_ due
    let s := if (match Sp.find s.tmb.prevCand p with | some t => decide (c.ev.time < t) | none => false)
      then s.addSat (TMB_GRP_ORDER g) TMB_GRP_ORDER_ORDER 1 else s
    let s := { s with tmb := { s.tmb with prevCand := Sp.ins s.tmb.prevCand p c.ev.time } }
    let others := ((List.range (s.grpWidth g)).map (p + ·)).filter (· ≠ c.ev.chan)
    let ps := others.filterMap (partnerOf mine due c.ev.time w)
    let k := s.demand p
    if k ≤ 1 + ps.length then
      let s := s.setPool g (poolWithout (s.pool g) (c :: ps))
      let late := match Sp.find s.tmb.lastOut p with | some t => decide (s.tm.now < t + 256) | none => false
      if late then .next (s.forEach (c :: ps) (fun s x => s.reject x.ev.chan))
      else
        let s := { s with tmb := { s.tmb with lastOut := Sp.ins s.tmb.lastOut p s.tm.now } }
        .next (s.emit (acceptedEvent p k (s.efb (TMB_GRP_CFG g) TMB_GRP_CFG_TSEL) c.ev (ps.map (·.ev))))
    else
      .next (s.setPool g ((s.pool g).map (fun x => if x = c then { x with decided := true } else x)))

/-- CANDIDATE_EXPIRY: the oldest decided, unconsumed event of a macropixel leaves 2W + 8 ns after its entry (R114). -/
def execCandidateExpiry (p : Nat) (s : State) : Host.Outcome State Fault Refusal :=
  let g := p / 4
  match (s.pool g).find? (fun x => s.primary x.ev.chan = p ∧ x.decided) with
  | none => .next s
  | some c =>
    let s := s.at_ (c.entry + 2 * s.coWin g + 512)
    .next ((s.setPool g ((s.pool g).erase c)).reject c.ev.chan)

end Sys2Proof.Machine
end

