-- ==== Sys2Proof/Machine/Input.lean ====
section
/-! DEFINITION. The return inputs, the time-to-digital converter and the test pulse injector (chapter 03). -/

namespace Sys2Proof.Machine

open Reg

/-! ### Times -/

/-- Entry f(p) of a code-density table from its words (R91). -/
def cdEntry (word : Nat → Word) (p : Nat) : Nat := bits (word (p / 4)).toNat (8 * (p % 4)) 8

/-- Entry w[i] of a walk table from its words (R92). -/
def walkEntry (word : Nat → Word) (i : Nat) : Int := sx 16 (bits (word (i / 2)).toNat (16 * (i % 2)) 16)

/-- The TBS time of an edge sampled at coarse count c with raw tap code p (R91). -/
def State.edgeTime (s : State) (word : Nat → Word) (c p : Nat) : Nat :=
  c * 64 + (if s.efb TDC_CTRL TDC_CTRL_CD_EN then cdEntry word p / 4 else p)

/-- The code-density words of a group. -/
def State.cdWords (s : State) (g j : Nat) : Word := s.eff (TDC_CD g j)

/-- The walk words of a group. -/
def State.walkWords (s : State) (g j : Nat) : Word := s.eff (TDC_WALK g j)

/-- The walk of a ToT, in ticks (R92). -/
def State.walk (s : State) (word : Nat → Word) (tot : Nat) : Int :=
  let sh := s.ef TDC_CTRL TDC_CTRL_WALK_SHIFT
  let i := tot / 2 ^ sh
  let q := if 31 ≤ i then walkEntry word 31
    else walkEntry word i + asr ((walkEntry word (i + 1) - walkEntry word i) * (tot % 2 ^ sh : Nat)) sh
  if s.efb TDC_CTRL TDC_CTRL_WALK_EN then asr (q + 2) 2 else 0

/-- A time as a 64-bit TBS value. -/
def tbs64 (t : Int) : Nat := (t % (2 ^ 64 : Nat)).toNat

/-- The corrected leading-edge time of a pulse on an input (R92). -/
def State.corrected (s : State) (n raw tot : Nat) : Nat :=
  tbs64 (raw - s.walk (s.walkWords (n / 4)) tot
    - (if s.efb TDC_CTRL TDC_CTRL_SKEW_EN then sx 16 (s.ef (RFE_SKEW n) RFE_SKEW_SKEW) else 0)
    - sx 16 (s.ef TDC_RANGE_OFS TDC_RANGE_OFS_OFS))

/-! ### Inputs -/

/-- The mode of an input in force (R84). -/
def State.rfeMode (s : State) (n : Nat) : Nat := s.ef (RFE_CFG n) RFE_CFG_MODE

/-- Whether an input's MODE, POL or GAIN differ from those of its macropixel's lowest input (R81). -/
def State.modeMismatch (s : State) (n : Nat) : Bool :=
  let p := n - n % s.grpWidth (n / 4)
  s.rfeMode n != s.rfeMode p || s.ef (RFE_CFG n) RFE_CFG_POL != s.ef (RFE_CFG p) RFE_CFG_POL
    || s.ef (RFE_CFG n) RFE_CFG_GAIN != s.ef (RFE_CFG p) RFE_CFG_GAIN

/-- Whether a quarter's delay lines are locked (R96). -/
def State.dllLock (s : State) (q : Nat) : Bool := bit (s.f TDC_STATUS TDC_STATUS_DLL_LOCK) q

/-- The effective high threshold of an input (R86). -/
def State.effHigh (s : State) (n : Nat) : Nat := Nat.min 1023 (s.ef (RFE_THR n) RFE_THR_HI + s.ambOfs n)

/-- Whether a pulse with a peak, in threshold codes, is valid (R86). -/
def State.pulseValid (s : State) (n peak : Nat) : Bool :=
  !s.efb (RFE_CFG n) RFE_CFG_HI_EN || decide (s.effHigh n ≤ s.ef (RFE_THR n) RFE_THR_LO) || decide (s.effHigh n ≤ peak)

/-- Whether a running CODE_DENSITY keeps an input's group from producing events (R452). -/
def State.cdBusy (s : State) (n : Nat) : Bool :=
  match s.cal.run with
  | some r => r.proc == 3 && r.started && decide (bits r.mask (n / 4 * 4) 4 ≠ 0)
  | none => false

/-- Whether a leading edge falls in an injection window of the input (R106). -/
def State.tpiAt (s : State) (n t : Nat) : Bool :=
  s.efb (RFE_CFG n) RFE_CFG_TPI_EN && s.tdc.inj.any (fun w => decide (w.1 ≤ t ∧ t ≤ w.2 + 256))

/-- The event FIFO of an input. -/
def State.evFifo (s : State) (n : Nat) : List Ev := Sp.get (fun _ => []) s.tdc.fifo n

/-- Write an event into its input's FIFO; a full FIFO drops it (R93–R95). -/
def State.writeEvent (s : State) (e : Ev) : State :=
  let n := e.chan
  if 8 ≤ (s.evFifo n).length then s.addSat (RFE_CNT_LOSS n) RFE_CNT_LOSS_DROP 1
  else
    let l := s.evFifo n ++ [e]
    let s := { s with tdc := { s.tdc with fifo := Sp.put (fun _ => []) s.tdc.fifo n l } }
    let s := s.setF (RFE_STAT n) RFE_STAT_FIFO_PEAK (Nat.max (s.f (RFE_STAT n) RFE_STAT_FIFO_PEAK) l.length)
    ((s.addWrap (RFE_CNT_EVT n) RFE_CNT_EVT_EVENTS 1).wr64 (RFE_LAST_LO n) (RFE_LAST_HI n) (eventWord e)).recEvent 0 e

/-- End a pulse on an input: discarded, rejected or written as an event (R81, R85–R88, R96). -/
def State.finishPulse (s : State) (n raw tot peak : Nat) (sat clamp : Bool) : State :=
  let s := if clamp then s.setF (RFE_STAT n) RFE_STAT_OVLD 1 else s
  if s.modeMismatch n then s
  else if !s.dllLock (quarterOf n) then s.addSat (RFE_CNT_LOSS n) RFE_CNT_LOSS_DROP 1
  else if s.cdBusy n then s
  else if !s.pulseValid n peak then s.addWrap (RFE_CNT_HIREJ n) RFE_CNT_HIREJ_HIREJ 1
  else s.writeEvent { chan := n, time := s.corrected n raw tot, tot := tot, sat := sat, tpi := s.tpiAt n raw }

/-- The pulse in progress on an input. -/
def State.pulse (s : State) (n : Nat) : Option Pulse := Sp.find s.tdc.pulses n

/-- Whether an input times pulses: it exists, its quarter is on and it is not OFF (R82). -/
def State.inputLive (s : State) (n : Nat) : Bool := s.inputOn n && s.rfeMode n != 0

/-- RETURN_LEADING_EDGE: a rising crossing of the low threshold on input n, at coarse count c and tap code (R86, R89). -/
def execReturnLeadingEdge (n c tap : Nat) (s : State) : Host.Outcome State Fault Refusal :=
  if !s.inputLive n || (s.pulse n).isSome then .next s
  else
    let s := s.toTbs (c * 64 + tap)
    let t := s.edgeTime (s.cdWords (n / 4)) c tap
    let dead := match Sp.find s.tdc.leadAt n with | some u => decide (t < u + 192) | none => false
    if dead then
      let s := { s with tdc := { s.tdc with pulses := Sp.ins s.tdc.pulses n { lead := t, dead := true } } }
      .next (if s.modeMismatch n then s else s.addSat (RFE_CNT_LOSS n) RFE_CNT_LOSS_DEAD 1)
    else
      let recent := (Sp.get (fun _ => []) s.tdc.leads n).filter (fun u => t < u + 65536)
      .next { s with tdc := { s.tdc with pulses := Sp.ins s.tdc.pulses n { lead := t },
                                         leadAt := Sp.ins s.tdc.leadAt n t,
                                         leads := Sp.put (fun _ => []) s.tdc.leads n (recent ++ [t]) } }

/-- RETURN_TRAILING_EDGE: the falling crossing that ends input n's pulse, with the pulse's peak in threshold codes and
whether it reached the current clamp (R85–R88). -/
def execReturnTrailingEdge (n c tap peak : Nat) (clamp : Bool) (s : State) : Host.Outcome State Fault Refusal :=
  match s.pulse n with
  | none => .next s
  | some p =>
    let s := s.toTbs (c * 64 + tap)
    let t := s.edgeTime (s.cdWords (n / 4)) c tap
    let s := { s with tdc := { s.tdc with pulses := Sp.del s.tdc.pulses n } }
    if p.dead || p.written then .next (if clamp then s.setF (RFE_STAT n) RFE_STAT_OVLD 1 else s)
    else .next (s.finishPulse n p.lead (Nat.min 4095 (t - p.lead)) peak (decide (4095 ≤ t - p.lead)) clamp)

/-- TOT_SATURATION: 4,095 ticks after the leading edge no trailing edge has come; the event is written with TOT_SAT (R88). -/
def execTotSaturation (n peak : Nat) (clamp : Bool) (s : State) : Host.Outcome State Fault Refusal :=
  match s.pulse n with
  | none => .next s
  | some p =>
    if p.dead || p.written then .next s
    else
      let s := s.toTbs (p.lead + 4095)
      let s := { s with tdc := { s.tdc with pulses := Sp.ins s.tdc.pulses n { p with written := true } } }
      .next (s.finishPulse n p.lead 4095 peak true clamp)

/-- Whether any input of a group is in ANALOG or SPAD mode. -/
def State.groupWatched (s : State) (g : Nat) : Bool :=
  (List.range 4).any (fun i => s.rfeMode (4 * g + i) == 1 || s.rfeMode (4 * g + i) == 2)

/-- RGND_FAULT: the window comparator of group g reports an offset above 150 mV for 10 µs, or its end (R83). -/
def execRgndFault (g : Nat) (present : Bool) (s : State) : Host.Outcome State Fault Refusal :=
  if !s.inputOn (4 * g) then .next s
  else
    let others := s.tdc.rgnd.filter (· ≠ g)
    let s := { s with tdc := { s.tdc with rgnd := if present then insertNat g others else others } }
    if present && s.groupWatched g then
      .next (s.forEach (List.range 4) (fun s i => s.setF (RFE_STAT (4 * g + i)) RFE_STAT_RGND_SEEN 1))
    else .next s

/-- DLL_UNLOCK: the delay line of a group of quarter q loses lock (R96). -/
def execDllUnlock (q : Nat) (s : State) : Host.Outcome State Fault Refusal :=
  if 4 ≤ q ∨ !s.domOn (6 + q) then .next s
  else
    let s := s.setF TDC_STATUS TDC_STATUS_DLL_LOCK (s.f TDC_STATUS TDC_STATUS_DLL_LOCK &&& (15 - 2 ^ q))
    .next (s.setF TDC_STATUS TDC_STATUS_DLL_UNLOCK (s.f TDC_STATUS TDC_STATUS_DLL_UNLOCK ||| 2 ^ q))

/-- DLL_LOCK_RETURN: every delay line of quarter q is locked again, which needs PLL-T (R96). [DESIGN CHOICE, log 96] -/
def execDllLockReturn (q : Nat) (s : State) : Host.Outcome State Fault Refusal :=
  if 4 ≤ q ∨ !s.domOn (6 + q) ∨ !s.pllT then .next s
  else .next (s.setF TDC_STATUS TDC_STATUS_DLL_LOCK (s.f TDC_STATUS TDC_STATUS_DLL_LOCK ||| 2 ^ q))

/-! ### The test pulse injector -/

/-- Whether the injector obeys the host's EN: outside SCANNING only (R105). -/
def State.tpiOn (s : State) : Bool := s.fb TDC_TPI_CTRL TDC_TPI_CTRL_EN && !s.scanning

/-- A trigger of the injector: the injection is due DELAY ticks later, or skipped while one is still running (R104). -/
def State.tpiTrigger (s : State) : State :=
  let start := s.tbs + s.f TDC_TPI_TIME TDC_TPI_TIME_DELAY
  let running := s.tdc.injAt.isSome || (match s.tdc.inj.getLast? with | some w => decide (start < w.2) | none => false)
  if running then s else { s with tdc := { s.tdc with injAt := some start } }

/-- A single trigger by GO (R104). -/
def State.tpiGo (s : State) : State :=
  if s.tpiOn && !s.fb TDC_TPI_CTRL TDC_TPI_CTRL_SRC then s.tpiTrigger else s

/-- TPI_PERIODIC_TRIGGER: PERIOD × 64 ns have passed and the injector triggers (R104); a procedure in progress suspends it
(R451). -/
def execTpiPeriodicTrigger (s : State) : Host.Outcome State Fault Refusal :=
  if s.tpiOn && s.fb TDC_TPI_CTRL TDC_TPI_CTRL_SRC && s.f TDC_TPI_CTRL TDC_TPI_CTRL_PERIOD != 0 && s.cal.run.isNone then
    .next s.tpiTrigger
  else .next s

/-- TEST_PULSE_INJECTION: the due injection is driven on every input with TPI_EN (R104, R106). -/
def execTestPulseInjection (s : State) : Host.Outcome State Fault Refusal :=
  match s.tdc.injAt with
  | none => .next s
  | some start =>
    let s := s.toTbs start
    let width := Nat.max 8 (s.f TDC_TPI_CTRL TDC_TPI_CTRL_WIDTH) * 4
    let recent := s.tdc.inj.filter (fun w => start < w.2 + 2 ^ 17)
    let s := { s with tdc := { s.tdc with injAt := none, inj := recent ++ [(start, start + width)] } }
    .next (s.addWrap TDC_TPI_COUNT TDC_TPI_COUNT_COUNT 1)

end Sys2Proof.Machine
end

