-- ==== Sys2Proof/Machine/Fire.lean ====
section
/-! DEFINITION. The fire sequencer (chapter 05): the warp table, frames, columns, shots and dither, with the exposure charges
of R319–R322 and the fire references of R98–R102. -/

namespace Sys2Proof.Machine

open Reg

/-! ### The warp table -/

/-- Window address of the staging copy (R19). -/
def warpStaging : Nat := 0x01000000

/-- Window address of the active copy (R19). -/
def warpActive : Nat := 0x01010000

/-- A warp-table entry (R133): INTERVAL in 0.5 ns, PERIOD in 10 ns; `resv` holds when a reserved bit is 1. -/
structure WarpEntry where
  az : Nat
  dir : Nat
  pset : Nat
  shots : Nat
  segmask : Nat
  interval : Nat
  period : Nat
  coarse : Nat
  zoom : Bool
  alloc : Bool
  nosteal : Bool
  dspan : Nat
  kphase : Nat
  resv : Bool
  deriving DecidableEq, Repr

/-- The entry that four words spell (R133). -/
def warpDecode (w0 w1 w2 w3 : Nat) : WarpEntry :=
  { az := bits w0 12 20, dir := bits w0 11 1, pset := bits w0 9 2, shots := bits w0 0 8, segmask := bits w1 16 16,
    interval := bits w1 0 16, period := bits w2 16 16, coarse := bits w2 8 8, zoom := bit w2 7, alloc := bit w2 6,
    nosteal := bit w2 5, dspan := bits w2 2 2, kphase := bits w3 16 16,
    resv := bit w0 8 || bit w2 4 || bits w2 0 2 != 0 || bits w3 0 16 != 0 }

/-- Entry e of the copy at an address. -/
def State.warpAt (s : State) (base e : Nat) : WarpEntry :=
  let w (j : Nat) := s.memNat (base + 16 * e + 4 * j) 4
  warpDecode (w 0) (w 1) (w 2) (w 3)

/-- The spacing i_min of a segment mask, in 0.5 ns units (R131). -/
def iMin (segmask : Nat) : Nat := Nat.max 500 (125 * popcount 16 segmask)

/-- The largest dither of a span, in 0.5 ns units (R133, R148). -/
def dMax (dspan : Nat) : Nat := if dspan = 0 then 0 else 2047 / 2 ^ (3 - dspan)

/-- g of R134 rule 6, in 0.5 ns units. -/
def ruleG (e : WarpEntry) (next : Option WarpEntry) : Nat :=
  match next with
  | none => 0
  | some n => if n.shots = 0 then 0 else iMin n.segmask + (dMax e.dspan - dMax n.dspan)

/-- The bin width in ticks for a WIDTH code (R155). -/
def binTicks (width : Nat) : Nat := 64 * 2 ^ width

/-- The coarse bin width in ticks. -/
def State.binT (s : State) : Nat := binTicks (s.f HGE_BIN HGE_BIN_WIDTH)

/-- The number of coarse bins B. -/
def State.binB (s : State) : Nat := s.f HGE_BIN HGE_BIN_COUNT

/-- The timing window w in ticks (R156). -/
def State.window (s : State) : Nat := s.binB * s.binT

/-- p_min of R27 in 0.5 ns units, for a window in ticks, a bin count and a dither span: w + B × 1.25 ns + d + 0.4 µs, where d
is 1,023.5 ns with dither enabled. -/
def pMinHalf (w b dspan : Nat) : Nat := (2 * w + 5 * b * 32 + (if dspan = 0 then 0 else 2 * 2047 * 32) + 63) / 64 + 800

/-- Rules 2 to 7 of R134 for one entry: the reason of the first that fails. -/
def entryReason (w b : Nat) (e : WarpEntry) (next : Option WarpEntry) : Nat :=
  if e.resv then 2
  else if e.shots ≠ 0 ∧ e.segmask = 0 then 3
  else if 1 < e.shots ∧ e.interval < iMin e.segmask then 4
  else if e.period < 1000 ∨ e.period * 20 < pMinHalf w b e.dspan then 5
  else if e.shots ≠ 0 ∧ e.period * 20 < (e.shots - 1) * e.interval + ruleG e next then 6
  else if e.zoom ∧ (e.coarse = 0 ∨ e.shots ≤ e.coarse) then 7
  else 0

/-- The first failing entry of a table from index i, as (reason, entry). -/
def firstReason (w b : Nat) : Nat → List WarpEntry → Option (Nat × Nat)
  | _, [] => none
  | i, e :: es =>
    let r := entryReason w b e es.head?
    if r = 0 then firstReason w b (i + 1) es else some (r, i)

/-- FIR_FRAME_PER as used: at least 1,000,000 ns (R152). -/
def State.framePer (s : State) : Nat := Nat.max 1000000 (s.ef FIR_FRAME_PER FIR_FRAME_PER_PERIOD)

/-- GAP_MIN as used, in µs (R143). -/
def State.gapMin (s : State) : Nat := Nat.max 20 (s.ef FIR_SEQ FIR_SEQ_GAP_MIN)

/-- Rule 9 of R134: the table does not fit into the slot spacing under FSRC = TIME. -/
def State.rule9 (s : State) (es : List WarpEntry) : Bool :=
  let total := es.foldl (fun acc e => acc + e.period) 0
  let per := Nat.max 1000000 (s.f FIR_FRAME_PER FIR_FRAME_PER_PERIOD)
  let gap := Nat.max 20 (s.f FIR_SEQ FIR_SEQ_GAP_MIN)
  s.f FIR_SEQ FIR_SEQ_FSRC == 2 && decide (2 * per < total * 20 + 20480 + 2047 + gap * 2000)

/-- The first `n` entries of a copy. -/
def State.entries (s : State) (base n : Nat) : List WarpEntry := (List.range n).map (s.warpAt base)

/-- The check of R134 on a copy with a COLUMNS value, for a timing window and bin count: reason and entry of the first
failure. [DEDUCED, log 29] -/
def State.warpCheck (s : State) (base columns w b : Nat) : Option (Nat × Nat) :=
  if columns = 0 ∨ 4096 < columns then some (1, 0)
  else
    let es := s.entries base columns
    match firstReason w b 0 es with
    | some f => some f
    | none =>
      if es.all (fun e => e.shots == 0) then some (8, 0)
      else if s.rule9 es then some (9, 0) else none

/-- COLUMNS of the staging copy. -/
def State.stagedColumns (s : State) : Nat := s.f FIR_WARP_CTRL FIR_WARP_CTRL_COLUMNS

/-- COLUMNS of the active copy. -/
def State.columns (s : State) : Nat := s.f FIR_WARP_ACT FIR_WARP_ACT_COLUMNS

/-- An entry of the active copy. -/
def State.active (s : State) (e : Nat) : WarpEntry := s.warpAt warpActive e

/-- The entry after one in the active copy. -/
def State.activeNext (s : State) (e : Nat) : Option WarpEntry :=
  if e + 1 < s.columns then some (s.active (e + 1)) else none

/-- CRC-32C over COLUMNS as 4 bytes and the entries 0 to COLUMNS − 1 of the active copy (HNG_TABLE_ID, R412). -/
def State.tableId (s : State) : Nat :=
  crc32c (leBytes 4 s.columns ++ s.bytes warpActive (16 * s.columns))

/-- The allocation for the frame ahead is made anew as that of a first frame (R220). -/
def State.allocAgain (s : State) : State :=
  if s.fb FIR_ALC_CTRL FIR_ALC_CTRL_EN then
    { s with fir := { s.fir with shortAlloc := true, allocDue := s.fir.allocDue || s.fir.nextCounts.isSome, nextCounts := none } }
  else
    { s with fir := { s.fir with shortAlloc := true, allocDue := false, nextCounts := some [], nextBudget := (0, 0) } }

/-- Copy the staging copy into the active copy (R19, R20, R135). -/
def State.warpCopy (s : State) : State :=
  let n := s.stagedColumns
  let s := s.copyMem warpStaging warpActive 0x10000
  let s := (s.setF FIR_WARP_ACT FIR_WARP_ACT_COLUMNS n).addWrap FIR_WARP_ACT FIR_WARP_ACT_COMMITS 1
  let s := s.wr FIR_COMMIT_STAT 0
  (s.setF HNG_TABLE_ID HNG_TABLE_ID_ID s.tableId).allocAgain

/-- Record a failed check (R134). -/
def State.warpFail (s : State) (r : Nat × Nat) : State :=
  (s.setF FIR_COMMIT_STAT FIR_COMMIT_STAT_REASON r.1).setF FIR_COMMIT_STAT FIR_COMMIT_STAT_ENTRY r.2

/-! ### Dither (R148) -/

/-- One step of the dither LFSR. -/
def lfsrStep (s : Nat) : Nat :=
  let fb := (s / 2 ^ 63 + s / 2 ^ 62 + s / 2 ^ 60 + s / 2 ^ 59) % 2
  (2 * s + fb) % 2 ^ 64

/-- Several steps of the dither LFSR. -/
def lfsrSteps : Nat → Nat → Nat
  | 0, s => s
  | n + 1, s => lfsrSteps n (lfsrStep s)

/-- The LFSR state at a column's first shot, before its 11 steps. -/
def lfsrSeed (key kphase frame : Nat) : Nat :=
  let s := key ^^^ (kphase * 2 ^ 48) ^^^ frame
  lfsrSteps 64 (if s = 0 then 1 else s)

/-- The dither, in 0.5 ns units, of an LFSR state after its 11 steps. -/
def ditherOf (dspan s : Nat) : Nat := if dspan = 0 then 0 else s % 2048 / 2 ^ (3 - dspan)

/-! ### Azimuth -/

/-- The extrapolated azimuth at a TBS time; before any valid sample the AZ of the entry being fired (R137, R232). -/
def State.azAt (s : State) (t entryAz : Nat) : Nat :=
  match s.srv.azValid with
  | none => entryAz
  | some (az, rate, ts) =>
    let rate := if s.fb SRV_AZ SRV_AZ_VALID then rate else 0
    ux 20 (az + asr (rate * ((t : Int) - ts)) 26)

/-- How far an azimuth is past another in a direction, as a signed part of a turn. -/
def azPast (az target dir : Nat) : Int :=
  let d := sx 20 (ux 20 ((az : Int) - target))
  if dir = 0 then d else -d

/-! ### Columns -/

/-- K, the number of shots in flight (R151). -/
def State.kFlight (s : State) : Nat := s.ef FIR_FLIGHT FIR_FLIGHT_K_M1 + 1

/-- The largest count a column can fire (R140). -/
def sMax (e : WarpEntry) (next : Option WarpEntry) : Nat :=
  if e.interval = 0 then 1 else Nat.min 255 ((e.period * 20 - ruleG e next) / e.interval + 1)

/-- The count supplied for a column and its ALLOC_CUT: by the allocator, or on a member by its FRAME (R140, R414). -/
def State.supplied (s : State) (e : WarpEntry) (ix : Nat) : Option (Nat × Bool) :=
  if e.shots = 0 then none
  else if e.alloc || s.isMember then (s.fir.counts.find? (fun x => x.1 == ix)).map (·.2) else none

/-- S of a column in the present frame (R140). -/
def State.shotsOf (s : State) (e : WarpEntry) (next : Option WarpEntry) (ix : Nat) : Nat :=
  match s.supplied e ix with
  | none => e.shots
  | some (a, _) => Nat.min a (sMax e next)

/-- Shots of the coarse burst (R141). -/
def coarseOf (e : WarpEntry) (n : Nat) : Nat :=
  if !e.zoom then n
  else
    let c := if n = e.shots then e.coarse else Nat.max 1 (e.coarse * n / e.shots)
    Nat.min c n

/-- The periods passed, in 0.5 ns units, and the entry and S of the next column of the frame that is not blank. -/
def State.nextFired (s : State) : Nat → Nat → Nat → Option (Nat × WarpEntry × Nat)
  | 0, _, _ => none
  | fuel + 1, ix, acc =>
    if s.columns ≤ ix then none
    else
      let e := s.active ix
      let n := s.shotsOf e (s.activeNext ix) ix
      if n = 0 then s.nextFired fuel (ix + 1) (acc + e.period * 20) else some (acc, e, n)

/-- The fold limit in ticks of a column that fires `n` shots (R151). -/
def foldLimit (w k : Nat) (e : WarpEntry) (n : Nat) (next : Option (Nat × WarpEntry × Nat)) : Nat :=
  let own := if 2 ≤ n then some (e.interval * 32) else none
  let g : Nat := match next, own with
    | none, some i => i
    | none, none => w
    | some (acc, f, m), _ =>
      let gap := (acc + e.period * 20 - (n - 1) * e.interval) * 32
      let a := match own with | some i => Nat.min i gap | none => gap
      if 2 ≤ n ∧ 2 ≤ m then Nat.min a (f.interval * 32) else a
  let d := match next with
    | none => dMax e.dspan * 32
    | some (_, f, _) => Nat.max (dMax e.dspan) (dMax f.dspan) * 32
  Nat.min w (Nat.max (k * (iMin e.segmask * 32)) (k * g - d) - 512)

/-- The next multiple of 32 ticks: the 0.5 ns grid (R137). -/
def grid (t : Nat) : Nat := (t + 31) / 32 * 32

/-- Change the column with a serial number, wherever it stands. -/
def State.updColumn (s : State) (serial : Nat) (g : Column → Column) : State :=
  { s with fir := { s.fir with column := s.fir.column.map (fun c => if c.serial = serial then g c else c),
                               closing := s.fir.closing.map (fun c => if c.serial = serial then g c else c) } }

/-- Move on to the next entry of the frame. -/
def State.nextColumn (s : State) (start period : Nat) : State :=
  let n := s.fir.nextEntry + 1
  let s := { s with fir := { s.fir with nextEntry := n, prevStart := some (start, period) } }
  let s := if n < s.columns then (s.setF FIR_COL FIR_COL_COLUMN n).setF FIR_COL FIR_COL_SHOTS_DONE 0
    else s.setF FIR_COL FIR_COL_COLUMN (n - 1)
  s.setF FIR_COL FIR_COL_PHASE 1

/-- What stealing does to a column: counted, taken, and silent when the procedure emits nothing (R461). -/
def State.steal (s : State) (e : WarpEntry) (n : Nat) : Bool × Bool × State :=
  match s.cal.run with
  | none => (false, false, s)
  | some r =>
    if r.mode ≠ .steal ∨ n = 0 ∨ e.nosteal then (false, false, s)
    else
      let r := { r with eligible := r.eligible + 1, frameHad := true }
      let take := r.eligible % Nat.max 1 (s.f CAL_POLICY CAL_POLICY_SPACING) == 0
      let s := { s with cal := { s.cal with run := some r } }
      if take then (true, !calEmits r.proc, s.addSat CAL_CNT CAL_CNT_STOLEN 1) else (false, false, s)

/-- The base of a channel's control record in a set (R178). -/
def recAddr (set c : Nat) : Nat := 0x10B00200 + set * 0x80000 + c * 1024

/-- The channels whose histogram quarter is on. -/
def State.liveChannels (s : State) : List Nat :=
  (List.range s.channels).filter (fun c => s.domOn (2 + quarterOf c))

/-- Clear the control records of a set and write FRAME, COLUMN, SECONDARY, BLIND and STEP of a column (R166, R171). -/
def State.openRecords (s : State) (c : Column) : State :=
  s.forEach s.liveChannels (fun s n =>
    let a := recAddr c.set n
    let s := s.clearMem a (a + 0x200)
    let st := TMB_GRP_STAT (n / 4)
    let p := s.primary n
    let flags := b2n (s.secondary n) * 4 + s.f st (blindFld (p % 4)) * 8 + s.f st (latFld (p % 4)) * 16
    s.setBytes a (leBytes 4 c.frame ++ leBytes 2 c.entry ++ leBytes 2 flags))

/-- Write FIRST_SAT as "none" into the control records of a set (R171). -/
def State.openFirstSat (s : State) (set : Nat) : State :=
  s.forEach s.liveChannels (fun s n => s.setBytes (recAddr set n + 0x24) (leBytes 4 0xFFFFFFFF))

/-- The PROFILE byte of a column that starts now: CODE in bits [6:0], MOD in bit 7 (R210). -/
def State.profileByte (s : State) : Nat := s.f FIR_PROFILE FIR_PROFILE_CODE % 128 + 128 * b2n (s.fb FIR_PROFILE FIR_PROFILE_MOD)

/-- COLUMN_START: the next entry of the frame starts at its period, or in AZIMUTH mode at the crossing found at TBS time t
(R137, R140–R142, R151, R167, R317, R461). -/
def execColumnStart (t : Nat) (s : State) : Host.Outcome State Fault Refusal :=
  let ix := s.fir.nextEntry
  if !s.scanning || !s.fir.frameOpen || s.fir.column.isSome || s.fir.holding || s.esf.charging || s.esf.histClear
      || decide (s.columns ≤ ix) then .next s
  else
    let e := s.active ix
    let azimuth := s.efb FIR_SEQ FIR_SEQ_CMODE
    let earliest := match s.fir.prevStart with
      | some (a, p) => a + p
      | none => Nat.max (s.rd64 FIR_FSTART_LO FIR_FSTART_HI) s.fir.chargedAt
    let crossed := match s.fir.prevStart with | some (a, _) => decide (a < t) | none => true
    if azimuth && !(crossed && decide (0 ≤ azPast (s.azAt t e.az) e.az e.dir)) then .next s
    else
      let start := grid (if azimuth then Nat.max earliest t else earliest)
      let s := s.toTbs start
      let next := s.activeNext ix
      let n0 := s.shotsOf e next ix
      let (stolen, silent, s1) := s.steal e n0
      let set := s.hge.nextSet
      if n0 = 0 then .next (s.nextColumn start (e.period * 640))
      else if s.setState set ≠ 0 then
        .next { s with fir := { s.fir with waited := true } }
      else
        let s := s1
        let start := if s.fir.waited then Nat.max start (grid s.tbs) else start
        let s := if s.fir.waited then s.addSat HGE_SET_WAIT HGE_SET_WAIT_WAITS 1 else s
        let cutTo := match s.supplied e ix with | some (a, _) => decide (sMax e next < a) | none => false
        let s := if cutTo && !stolen then s.addSat FIR_CNT_A FIR_CNT_A_SHOTCUT 1 else s
        let aCut := !stolen && (match s.supplied e ix with | some (_, c) => c | none => false)
        let s := if aCut then s.addSat FIR_ALC_CNT FIR_ALC_CNT_CUT 1 else s
        let n := if stolen then e.shots else n0
        let frame := s.f FIR_FRAME FIR_FRAME_FRAME
        let c : Column :=
          { serial := s.fir.serial, entry := ix, frame := frame, start := start, period := e.period * 640,
            shots := if silent then 0 else n, coarse := coarseOf e n, interval := e.interval, segmask := e.segmask,
            dspan := e.dspan, pset := e.pset,
            lfsr := lfsrSeed (s.rd64 FIR_KEY_LO FIR_KEY_HI) e.kphase frame,
            fold := foldLimit s.window s.kFlight e n (s.nextFired 4096 (ix + 1) 0),
            stolen := stolen, silent := silent, allocCut := aCut, set := set, dir := e.dir, profile := s.profileByte,
            windowEnd := start + e.period * 640 }
        let s := { s with fir := { s.fir with serial := s.fir.serial + 1, waited := false },
                          hge := { s.hge with nextSet := 1 - set } }
        let s := (s.setF FIR_COL FIR_COL_COLUMN ix).setF FIR_COL FIR_COL_SHOTS_DONE 0
        if silent then
          let s := ((s.putSet set 1).openRecords c).openFirstSat set
          let from_ := Nat.max start s.fir.lastClose
          let run := s.cal.run.map (fun r => { r with window := some (from_, start + e.period * 640 - 64000) })
          let s := { s with fir := { s.fir with closing := s.fir.closing ++ [c], anyFired := true },
                            cal := { s.cal with run := run } }
          .next (s.nextColumn start (e.period * 640))
        else
          let s := { s with fir := { s.fir with column := some c, anyFired := true } }
          .next (s.setF FIR_COL FIR_COL_PHASE (if c.coarse = 0 then 3 else 2))

/-! ### Exposure (R319–R322) -/

/-! ### Exposure (R319–R322) -/

/-- The pulse width code of an output in a pulse set, after the limits of R129. -/
def State.pulseWidth (s : State) (o pset : Nat) : Nat :=
  let w := if pset = 0 then s.ef (FIR_OUT_W01 o) FIR_OUT_W01_W0 else if pset = 1 then s.ef (FIR_OUT_W01 o) FIR_OUT_W01_W1
    else if pset = 2 then s.ef (FIR_OUT_W23 o) FIR_OUT_W23_W2 else s.ef (FIR_OUT_W23 o) FIR_OUT_W23_W3
  Nat.min 320 (Nat.max 8 w)

/-- The exposure weight of a segment (R324). -/
def State.expWeight (s : State) (seg : Nat) : Nat := bits (s.rd (ESF_EXP_WT (seg / 4))).toNat (8 * (seg % 4)) 8

/-- The current sub-interval slot of a window. -/
def State.slot (s : State) (w : Nat) : Nat := Sp.get (fun _ => 0) s.esf.slots w

/-- Keep the highest level over limit of each window (ESF_EXP_PEAK). -/
def State.notePeak (s : State) (w cell : Nat) : State :=
  let l := s.expLimit w
  let fill := if l = 0 then 255 else Nat.min 255 (s.level w cell * 256 / l)
  if s.f (ESF_EXP_PEAK w) ESF_EXP_PEAK_FILL < fill then
    (s.setF (ESF_EXP_PEAK w) ESF_EXP_PEAK_FILL fill).setF (ESF_EXP_PEAK w) ESF_EXP_PEAK_CELL cell
  else s

/-- Add a charge to a cell in every window (R319, R320). -/
def State.addCharge (s : State) (cell q : Nat) : State :=
  s.forEach (List.range 3) (fun s w =>
    let k := expKey w cell (s.slot w)
    let ch := Sp.put (fun _ => 0) s.esf.charges k (s.charge w cell (s.slot w) + q)
    { s with esf := { s.esf with charges := ch } }.notePeak w cell)

/-- The segments a shot fires with their outputs enabled, and their width codes. -/
def State.firing (s : State) (segmask pset : Nat) : List (Nat × Nat) :=
  ((bitsSet 16 segmask).filter (fun o => s.efb (FIR_OUT_CFG o) FIR_OUT_CFG_EN)).map (fun o => (o, s.pulseWidth o pset))

/-- Whether a shot's charges would exceed a limit (R320). -/
def State.overCharge (s : State) (sector : Nat) (segs : List (Nat × Nat)) : Bool :=
  segs.any (fun x =>
    let cell := x.1 * 64 + sector
    (List.range 3).any (fun w => decide (s.expLimit w < s.level w cell + x.2 * s.expWeight x.1)))

/-- Whether any of some cells is over a limit. -/
def State.overCells (s : State) (cells : List Nat) : Bool :=
  cells.any (fun cell => (List.range 3).any (fun w => decide (s.expLimit w < s.level w cell)))

/-- EXPOSURE_SUBINTERVAL: a sub-interval of window w ends and the next begins empty; it needs PLL-T (R320, R321). -/
def execExposureSubinterval (w : Nat) (s : State) : Host.Outcome State Fault Refusal :=
  if 3 ≤ w ∨ !s.pllT then .next s
  else
    let s0 := s
    let n := (s.slot w + 1) % 17
    let ch := Sp.drop (fun k => k / 17 / 1024 == w && k % 17 == n) s.esf.charges
    let s := { s with esf := { s.esf with slots := Sp.put (fun _ => 0) s.esf.slots w n, charges := ch } }
    .next (s.noteConds s0)

/-! ### Shots -/

/-- The fire reference of a segment (R98). -/
def State.segRef (s : State) (seg : Nat) : Nat := bits (s.ef TDC_SEG_MAP TDC_SEG_MAP_MAP) (2 * seg) 2

/-- The mode of a fire reference in force. -/
def State.frefMode (s : State) (k : Nat) : Nat := s.ef (TDC_FREF_CFG k) TDC_FREF_CFG_MODE

/-- Whether a held setting takes effect at a frame start (R146). -/
def frameClass (a : Nat) : Bool := a == FIR_SEQ || a == FIR_FLIGHT || a == FIR_FRAME_PER

/-- Whether a held setting takes effect at the start of an extraction scan (R183). -/
def scanClass (a : Nat) : Bool := blkOf a == some .EXT

/-- Whether a held setting takes effect at a column's first shot (R107, R126, R146, R180). -/
def columnClass (a : Nat) : Bool := !frameClass a && !scanClass a

/-- The groups whose macropixel width is about to change. -/
def State.widthChanges (s : State) : List Nat :=
  s.groupsOn.filter (fun g => match Sp.find s.fir.held (TMB_GRP_CFG g) with
    | some w => widthOf w != widthOf (s.rd (TMB_GRP_CFG g))
    | none => false)

/-- What takes effect at a column's first shot, before it is fired. -/
def State.releaseColumn (s : State) : State :=
  let gs := s.widthChanges
  let s := s.release columnClass
  s.forEach gs State.rewidth

/-- The segment mask of a shot: the column's, or one segment in rotation for FIRE_SKEW (R455). -/
def State.shotMask (s : State) (c : Column) : Nat :=
  match s.cal.run with
  | some r =>
    let l := bitsSet 16 r.segs
    if c.stolen && r.proc == 6 && decide (l ≠ []) then 2 ^ (l.getD (r.rot % l.length) 0) else c.segmask
  | none => c.segmask

/-- Open the capture windows of a shot (R98). -/
def State.openWindows (s : State) (h : Shot) : State :=
  let primary := s.segRef (lowestSet 16 h.segmask)
  let ks := (List.range 4).filter (fun k => (bitsSet 16 h.segmask).any (fun g => s.segRef g == k))
  s.forEach ks (fun s k =>
    let st := s.ef (TDC_FREF_WIN k) TDC_FREF_WIN_START
    let en := Nat.min 255 (st + s.ef (TDC_FREF_WIN k) TDC_FREF_WIN_LENGTH)
    let w : FWin := { k := k, serial := h.serial, ix := h.ix, edge := h.edge, first := h.edge + st * 16,
                      last := h.edge + en * 16, primary := k == primary }
    { s with tdc := { s.tdc with windows := s.tdc.windows ++ [w] } })

/-- The first shot of a column: its set fills, steps are latched, control records are opened (R123, R165, R166, R171). -/
def State.firstShot (s : State) (c : Column) : State :=
  (((s.latchSteps).putSet c.set 1).openRecords c).openFirstSat c.set

/-- What the commanded edge of a shot is to the monitor sequencer, the recorder and its masks (R262, R285, R294). -/
def State.shotNotice (s : State) (h : Shot) : State :=
  let s := (s.madEvent 1 h.edge).maskRef 1 h.edge
  if h.ix = 0 then
    let s := (s.madEvent 2 h.edge).maskRef 2 h.edge
    if h.entry = s.f EVR_TRIG EVR_TRIG_COL then s.recTrigger 2 h.edge else s
  else s

/-- Fire a shot: pulses, charges, notice, capture windows and dark gate (R98, R117, R129, R132, R139, R319). -/
def State.fireShot (s : State) (c : Column) (h : Shot) : State :=
  let s := if h.ix = 0 then s.firstShot c else s
  let s := s.forEach h.width (fun s x =>
    (s.addWrap (FIR_OUT_CNT x.1) FIR_OUT_CNT_PULSES 1).addCharge (x.1 * 64 + h.sector) (x.2 * s.expWeight x.1))
  let pulses := h.width.map (fun x =>
    let st := h.edge + s.ef (FIR_OUT_CFG x.1) FIR_OUT_CFG_DLY
    (x.1, st, st + 4 * x.2))
  let gate := s.gateLen (s.fir.prevEdge.map (fun p => h.edge - p))
  let run := s.cal.run.map (fun (r : CalRun) => if c.stolen then { r with rot := r.rot + 1 } else r)
  { s with fir := { s.fir with shots := s.fir.shots ++ [h], pulses := if s.pin.extest then [] else pulses,
                               prevEdge := some h.edge },
           tmb := { s.tmb with gate := some (h.edge, gate, c.stolen) },
           cal := { s.cal with run := run } }.openWindows h |> (·.shotNotice h)

/-- The column after a shot: its last shot sends it to wait for its close. -/
def State.afterShot (s : State) (c : Column) : State :=
  let s := s.setF FIR_COL FIR_COL_SHOTS_DONE c.fired
  if c.fired < c.shots then
    ({ s with fir := { s.fir with column := some c } }).setF FIR_COL FIR_COL_PHASE (if c.coarse ≤ c.fired then 3 else 2)
  else
    ({ s with fir := { s.fir with column := none, closing := s.fir.closing ++ [c] } }).nextColumn c.start c.period

/-- SHOT_FIRE: the next shot of the column in progress at its commanded edge, unless a charge would exceed a limit
(R129, R139, R148, R320). -/
def execShotFire (s : State) : Host.Outcome State Fault Refusal :=
  match s.fir.column with
  | none => .next s
  | some c =>
    if !s.scanning then .next s
    else
      let s := if c.fired = 0 then s.releaseColumn else s
      let lf := lfsrSteps 11 c.lfsr
      let d := ditherOf c.dspan lf
      let mask := s.shotMask c
      let e1 := c.start + (c.fired * c.interval + d) * 32
      let e2 := match s.fir.prevEdge with | some p => p + iMin mask * 32 | none => 0
      let edge := Nat.max e1 e2
      let s := s.toTbs edge
      let az := s.azAt edge (s.active c.entry).az
      let sector := az / 2 ^ 14
      let segs := s.firing mask c.pset
      if s.overCharge sector segs then .next (s.latch [4])
      else
        let s0 := s
        let s := if e1 < e2 then s.addSat FIR_CNT_A FIR_CNT_A_SPACE 1 else s
        let h : Shot := { serial := c.serial, set := c.set, ix := c.fired, dither := d, segmask := mask, edge := edge,
                          fire := 0, zoom := decide (c.coarse ≤ c.fired), entry := c.entry, width := segs, sector := sector }
        let s := s.fireShot c h
        .next ((s.afterShot { c with lfsr := lf, fired := c.fired + 1 }).noteConds s0)

/-! ### Fire references -/

/-- Words of the fire references' code-density table. -/
def State.frefCdWords (s : State) (j : Nat) : Word := s.eff (TDC_FREF_CD j)

/-- Words of the fire references' walk table. -/
def State.frefWalkWords (s : State) (j : Nat) : Word := s.eff (TDC_FREF_WALK j)

/-- The average after a measured delay of d ticks (R102). [DEDUCED, log 27] -/
def avgNext (avg : Nat) (d : Int) : Nat :=
  (clampI 0 0xFFFFF ((avg : Int) + (d * 16 - avg).tdiv 16)).toNat

/-- FREF_EDGE: a leading edge on fire reference k at coarse count c and tap, of a pulse with a ToT (R99, R102, R322). -/
def execFrefEdge (k c tap tot : Nat) (s : State) : Host.Outcome State Fault Refusal :=
  let raw := s.edgeTime s.frefCdWords c tap
  match s.tdc.windows.find? (fun w => w.k = k ∧ w.first ≤ raw ∧ raw ≤ w.last) with
  | none => .next s
  | some w =>
    if w.hit.isSome || s.frefMode k == 0 then .next s
    else
      let s := s.toTbs (c * 64 + tap)
      let tot := Nat.min 4095 tot
      let t := tbs64 (raw - s.walk s.frefWalkWords tot - sx 16 (s.ef (TDC_FREF_DLY k) TDC_FREF_DLY_PATH))
      let ws := s.tdc.windows.map (fun (x : FWin) => if x = w then { x with hit := some (t, tot) } else x)
      let s := { s with tdc := { s.tdc with windows := ws, missRun := Sp.put (fun _ => 0) s.tdc.missRun k 0 } }
      let s := s.wr64 (TDC_FREF_LAST_LO k) (TDC_FREF_LAST_HI k) t
      let s := s.setF (TDC_FREF_STAT k) TDC_FREF_STAT_LAST_TOT tot
      let s := s.setF (TDC_FREF_AVG k) TDC_FREF_AVG_AVG
        (avgNext (s.f (TDC_FREF_AVG k) TDC_FREF_AVG_AVG) ((t : Int) - w.edge))
      let lim := bits (s.rd ESF_FREF_LIM).toNat (8 * k) 8
      .next (if s.esf.armed && lim != 0 && decide (lim * 16 < tot) then s.latch [10] else s)

/-- The further charges of a reference whose window closed without an edge (R322). -/
def State.postCharge (s : State) (h : Shot) (k : Nat) : State :=
  let segs := h.width.filter (fun x => s.segRef x.1 == k)
  let s := s.forEach segs (fun s x => s.addCharge (x.1 * 64 + h.sector) ((320 - x.2) * s.expWeight x.1))
  if s.esf.armed && s.overCells (segs.map (fun x => x.1 * 64 + h.sector)) then s.latch [4] else s

/-- The raw tap takes a shot (R426). -/
def State.tapShot (s : State) (h : Shot) (fire : Nat) (miss : Bool) : State :=
  if s.fb HNG_TAP_CTRL HNG_TAP_CTRL_EN && s.fb HNG_TAP_CTRL HNG_TAP_CTRL_SHOTS then
    s.tapItem (.shot (leBytes 8 fire ++ leBytes 2 h.segmask ++ leBytes 2 (h.entry + 32768 * b2n miss) ++ leBytes 1 h.ix
      ++ leBytes 1 (s.rd FIR_FRAME).toNat))
  else s

/-- Pass the shot record: the actual fire time, and at the column's first shot its T_FIRST and azimuth (R100, R138, R142). -/
def State.passRecord (s : State) (h : Shot) (fire tot : Nat) (miss : Bool) : State :=
  let shots := s.fir.shots.map (fun (x : Shot) =>
    if x.serial = h.serial ∧ x.ix = h.ix then { x with fire := fire, recorded := true, miss := miss, tot := tot } else x)
  let s := { s with fir := { s.fir with shots := shots } }.tapShot h fire miss
  if h.ix ≠ 0 then s
  else
    let e := s.active h.entry
    let az := s.azAt fire e.az
    let s := s.updColumn h.serial (fun c => { c with tFirst := some fire, azimuth := az })
    let s := { s with fir := { s.fir with azRec := Sp.ins s.fir.azRec h.entry az } }
    let s := s.setF FIR_AZ FIR_AZ_AZIMUTH az
    if s.efb FIR_SEQ FIR_SEQ_CMODE && decide ((s.ef FIR_SEQ FIR_SEQ_LAG_MAX : Int) < azPast az e.az e.dir) then
      s.addSat FIR_CNT_B FIR_CNT_B_LAG 1
    else s

/-- Tally a FIRE_SKEW shot by its segment: the sum of (measured emission − edge − DLY), the measured edges and the misses
(R455). -/
def State.tallySkew (s : State) (h : Shot) (hit : Option Nat) : State :=
  let g := lowestSet 16 h.segmask
  let e : Int := match hit with | some t => (t : Int) - h.edge - s.ef (FIR_OUT_CFG g) FIR_OUT_CFG_DLY | none => 0
  let add (r : CalRun) : CalRun :=
    let (sum, n, m) := Sp.get (fun _ => (0, 0, 0)) r.skew g
    if r.proc = 6 then
      { r with skew := Sp.ins r.skew g (if hit.isSome then (sum + e, n + 1, m) else (sum, n, m + 1)) }
    else r
  { s with cal := { s.cal with run := s.cal.run.map add } }

/-- FREF_WINDOW_CLOSE: the oldest capture window of reference k ends (R100–R102, R322). -/
def execFrefWindowClose (k : Nat) (s : State) : Host.Outcome State Fault Refusal :=
  match s.tdc.windows.find? (fun w => w.k = k) with
  | none => .next s
  | some w =>
    let s := s.toTbs w.last
    let s0 := s
    let s := { s with tdc := { s.tdc with windows := s.tdc.windows.erase w } }
    match s.fir.shots.find? (fun h => h.serial = w.serial ∧ h.ix = w.ix) with
    | none => .next s
    | some h =>
      let pass (s : State) (fire tot : Nat) (miss : Bool) := if w.primary then s.passRecord h fire tot miss else s
      if s.frefMode k = 0 then
        .next (pass s (w.edge + s.ef (TDC_FREF_DLY k) TDC_FREF_DLY_NOMINAL) 0 false)
      else
        match w.hit with
        | some (t, tot) => .next ((pass s t tot false).tallySkew h (some t))
        | none =>
          let run := Sp.get (fun _ => 0) s.tdc.missRun k + 1
          let s := (s.addSat (TDC_FREF_STAT k) TDC_FREF_STAT_MISS 1)
          let s := { s with tdc := { s.tdc with missRun := Sp.put (fun _ => 0) s.tdc.missRun k run } }
          let s := if 16 ≤ run then s.setF (TDC_FREF_STAT k) TDC_FREF_STAT_LOST 1 else s
          let s := pass s (w.edge + s.f (TDC_FREF_AVG k) TDC_FREF_AVG_AVG / 16) 0 true
          .next (((s.postCharge h k).tallySkew h none).noteConds s0)

/-! ### Column close -/

/-- The end of a column's last timing window on TBS: its last shot's actual fire time plus w (R18). -/
def State.closeAt (s : State) (c : Column) : Nat :=
  ((s.fir.shots.filter (fun h => h.serial = c.serial)).map (fun h => h.fire + s.window)).foldl Nat.max
    (if c.silent then c.windowEnd else 0)

/-- RFLAGS of a channel's control record in a set. -/
def State.rflags (s : State) (set n : Nat) : Nat := s.memNat (recAddr set n + 6) 2

/-- What extraction needs of a column's shot records: the time from the first to the last shot of the coarse burst
(R194) and whether any shot missed its reference (R203). -/
def State.shotSummary (s : State) (c : Column) : Column :=
  let mine := s.fir.shots.filter (fun h => h.serial = c.serial)
  let coarse := mine.filter (fun h => !h.zoom)
  let first := (coarse.head?.map (·.fire)).getD 0
  let last := (coarse.getLast?.map (·.fire)).getD 0
  { c with span := last - first, miss := mine.any (·.miss) }

/-- COLUMN_CLOSE: the last timing window of the oldest fired column ends; its set is released (R18, R125, R151, R170). -/
def execColumnClose (s : State) : Host.Outcome State Fault Refusal :=
  match s.fir.closing with
  | [] => .next s
  | c :: rest =>
    if s.tdc.windows.any (fun w => w.serial = c.serial) then .next s
    else
      let s := s.toTbs (s.closeAt c)
      let amb := (s.liveChannels.map (fun n => (n, s.ambient n))).filter (fun x => x.2 ≠ 0)
      let c := { s.shotSummary c with amb := amb, windowEnd := s.tbs, shots := c.fired }
      let marked := s.fir.shots.map (fun (h : Shot) => if h.serial = c.serial then { h with closed := true } else h)
      let shots := marked.filter (fun h => !h.closed || decide (s.tbs < h.edge + 2097152))
      let s := { s with fir := { s.fir with closing := rest, lastClose := s.tbs, shots := shots } }
      let s := s.setF FIR_LAST_FOLD FIR_LAST_FOLD_FOLD c.fold
      let s := (s.putSet c.set 2)
      let s := { s with hge := { s.hge with descs := Sp.ins s.hge.descs c.set c } }
      .next (s.forEach s.liveChannels (fun s n =>
        if bit (s.rflags c.set n) 0 then s.addSat (HGE_CH_STAT n) HGE_CH_STAT_SAT_COLS 1 else s))

/-! ### Frames -/

/-- The number the next frame will take (R144). -/
def State.nextFrame (s : State) : Nat := (s.f FIR_FRAME FIR_FRAME_FRAME + 1) % 2 ^ 32

/-- Whether a head still waits for its members' acknowledgements of the next FRAME (R413). [DEDUCED, log 22] -/
def State.headWaits (s : State) : Bool :=
  s.isHead && s.f HNG_CAS_STAT HNG_CAS_STAT_REACH != 0 && (s.cas.sent != some s.nextFrame || s.cas.await.isSome)

/-- Whether the frame gap has lasted GAP_MIN at a device time (R143). -/
def State.gapOver (s : State) (at' : Nat) : Bool :=
  match s.fir.frameEnd with
  | none => true
  | some e => decide (e + s.gapMin * tickUs ≤ at')

/-- Whether a member holds a FRAME for the next frame with its own TABLE_ID (R414). -/
def State.memberReady (s : State) : Bool :=
  match s.cas.held with
  | some (_, id, _) => id == s.f HNG_TABLE_ID HNG_TABLE_ID_ID
  | none => false

/-- A frame-start event at a TBS time meets the sequencer in SCANNING (R143, R153, R413, R414). [DEDUCED, log 22] -/
def State.meetEvent (s : State) (t : Nat) : State :=
  let when_ := s.tm.now + (t - s.tbs)
  if s.fir.frameOpen || s.fir.go.isSome || !s.gapOver when_ || s.headWaits then s.addSat FIR_CNT_B FIR_CNT_B_EARLY 1
  else if s.isMember && !s.memberReady then s.addSat HNG_CNT HNG_CNT_SKIP 1
  else { s with fir := { s.fir with go := some t } }

/-- FRAME_START_EVENT: the oldest event of the frame-start source reaches the sequencer; under FREE it is the end of GAP_MIN,
or the entry instant (R143). -/
def execFrameStartEvent (s : State) : Host.Outcome State Fault Refusal :=
  match s.fir.events with
  | (_, t) :: rest =>
    let s := { s with fir := { s.fir with events := rest } }
    .next (if s.scanning then s.meetEvent t else s)
  | [] =>
    if s.scanning && s.fsrc == 0 && !s.fir.frameOpen && s.fir.go.isNone then
      let s := s.at_ (match s.fir.frameEnd with | some e => e + s.gapMin * tickUs | none => s.fir.entered)
      .next (s.meetEvent s.tbs)
    else .next s

/-- SCHEDULE_SLOT: the next slot of the schedule is reached on its time base (R152, R153). -/
def execScheduleSlot (s : State) : Host.Outcome State Fault Refusal :=
  match s.fir.sched with
  | none => .next s
  | some (t0, at') =>
    let x := s.f FIR_SCHED FIR_SCHED_TB
    let cur := s.netTime x / 2 ^ 16
    let per := s.framePer
    let m := if t0 * 2 ^ 32 ≤ cur then (cur - t0 * 2 ^ 32) / (per * 2 ^ 32) + 1 else 0
    let s := s.toNet x ((t0 + m * per) * 2 ^ 48)
    .next (if at' + 100 * tickUs ≤ s.tm.now then s.frameEvent 2 s.tbs else s)

/-- Each channel's update credit is set to 2K (R158). -/
def State.fillCredits (s : State) : State :=
  { s with hge := { s.hge with credits := [], creditZero := s.tm.now } }

/-- The counts of a new frame (R218, R220, R222, R414). -/
def State.takeCounts (s : State) : State :=
  if s.isMember then
    match s.cas.held with
    | some (_, _, l) =>
      { s with fir := { s.fir with counts := (List.range l.length).map (fun i => (i, l.getD i (0, false))) } }
    | none => s
  else
    match s.fir.nextCounts with
    | some l =>
      let s := { s with fir := { s.fir with counts := l, nextCounts := none } }
      (s.setF FIR_ALC_BUDGET FIR_ALC_BUDGET_TE s.fir.nextBudget.1).setF FIR_ALC_SUM FIR_ALC_SUM_SUM s.fir.nextBudget.2
    | none =>
      if s.fir.allocDue || s.fb FIR_ALC_CTRL FIR_ALC_CTRL_EN then s.addSat FIR_ALC_CNT FIR_ALC_CNT_STALE 1
      else
        let s := { s with fir := { s.fir with counts := [] } }
        (s.setF FIR_ALC_BUDGET FIR_ALC_BUDGET_TE 0).setF FIR_ALC_SUM FIR_ALC_SUM_SUM 0

/-- A procedure that runs in the frame gap is abandoned by a frame start (R460, R463). -/
def State.gapCalStop (s : State) : State :=
  match s.cal.run with
  | some r => if r.mode = .gap && r.started then s.calAbandon stBusy else s
  | none => s

/-- FIR_FRAME and FIR_FSTART of a frame that starts at a TBS time (R144, R414). -/
def State.numberFrame (s : State) (t : Nat) : State :=
  let n := match s.cas.held with | some (n, _, _) => n | none => 0
  let s := if s.isMember then s.setF FIR_FRAME FIR_FRAME_FRAME n else s.addWrap FIR_FRAME FIR_FRAME_FRAME 1
  s.wr64 FIR_FSTART_LO FIR_FSTART_HI t

/-- The sequencer opens the frame that starts at a TBS time. -/
def State.openFrame (s : State) (t : Nat) : State :=
  let s := { s with cmd := { s.cmd with jobs := s.cmd.jobs.map (fun (j : Job) => { j with inGap := false }) } }
  let s := { s with fir := { s.fir with go := none, frameOpen := true, nextEntry := 0, prevStart := none, waited := false,
                                        anyFired := false, starts := (t :: s.fir.starts).take 5 },
                    cas := { s.cas with held := none } }
  ((s.setF FIR_COL FIR_COL_COLUMN 0).setF FIR_COL FIR_COL_SHOTS_DONE 0).setF FIR_COL FIR_COL_PHASE 1

/-- The HG_SYNC pulse of a device with index 0 (R145). -/
def State.driveSync (s : State) : State :=
  if s.f HNG_ID HNG_ID_INDEX = 0 then
    { s with fir := { s.fir with syncUntil := s.tm.now + 6400 }, pin := { s.pin with hgSyncOut := true } }
  else s

/-- Mismatch counts of the frame restart (R175). -/
def State.clearFrameMM (s : State) : State := s.forEach (List.range 4) (fun s q => s.setF (HGE_MM_CNT q) HGE_MM_CNT_FRAME 0)

/-- The recorder and its masks at a frame start (R285, R294). -/
def State.recStart (s : State) (t : Nat) : State := (s.recTrigger 1 t).maskRef 3 t

/-- What a frame start at a TBS time does (R143–R146, R149, R158, R175, R388, R414, R439). -/
def State.startFrame (s : State) (t : Nat) : State :=
  let s := (s.gapCalStop.numberFrame t).applyKey
  let s := ((s.release frameClass).takeCounts).fillCredits
  let s := (s.clearFrameMM.openFrame t).driveSync
  ((((s.dmaRequest 4).capture 4 t).traceTrigger 6).madEvent 3 t).recStart t

/-- FRAME_START: the accepted event starts a frame (R143). -/
def execFrameStart (s : State) : Host.Outcome State Fault Refusal :=
  match s.fir.go with
  | none => .next s
  | some t => if !s.scanning || s.fir.frameOpen then .next s else .next ((s.toTbs t).startFrame t)

/-! ### Allocation (R218–R223) -/

/-- The throttle level an allocation uses: the lowest of the head and its members on a head (R415). -/
def State.allocThr (s : State) : Nat :=
  let own := Nat.min 8 (s.f THM_STATE THM_STATE_THR)
  if s.isHead then s.cas.thr.foldl (fun m x => Nat.min m x.2) own else own

/-- The headroom of a cell that an allocation uses (R325, R415). -/
def State.allocHead (s : State) (cell : Nat) : Nat :=
  if s.isHead then s.cas.headroom.foldl (fun m x => Nat.min m (x.2.getD cell 8)) (s.headroom cell) else s.headroom cell

/-- The ALLOC columns of the active copy (R218). -/
def State.allocColumns (s : State) : List (Nat × WarpEntry) :=
  ((List.range s.columns).map (fun i => (i, s.active i))).filter (fun x => x.2.alloc && x.2.shots != 0)

/-- The weight of a column (R219). -/
def State.weight (s : State) (ix : Nat) : Nat :=
  let (noe, low, far) := Sp.get (fun _ => (0, 0, 0)) s.fir.figures ix
  Nat.max 1 (s.f FIR_ALC_W FIR_ALC_W_WBASE)
    + (s.f FIR_ALC_W FIR_ALC_W_WNOE * noe + s.f FIR_ALC_W FIR_ALC_W_WLOW * low + s.f FIR_ALC_W FIR_ALC_W_WFAR * far) / 16

/-- A column's count before the exposure ceiling, at a throttle level (R219). -/
def allocCount (smin smax tp n sw w thr : Nat) : Nat :=
  let te := tp * thr / 8
  let base := Nat.min (smin * thr / 8) (te / n)
  Nat.min smax (base + (te - n * base) * w / sw)

/-- The exposure ceiling of a column's segments in a sector (R219). -/
def State.ceilingH (s : State) (segmask sector : Nat) : Nat :=
  (bitsSet 16 segmask).foldl (fun m g => Nat.min m (s.allocHead (g * 64 + sector))) 8

/-- The counts of the frame ahead, and the throttle level they used (R218–R221). -/
def State.allocate (s : State) : State :=
  let cols := s.allocColumns
  let thr := s.allocThr
  let tp := cols.foldl (fun acc x => acc + x.2.shots) 0
  let n := cols.length
  let sw := cols.foldl (fun acc x => acc + s.weight x.1) 0
  let smin := s.f FIR_ALC_CTRL FIR_ALC_CTRL_SMIN
  let smax := s.f FIR_ALC_CTRL FIR_ALC_CTRL_SMAX
  let counts := cols.map (fun (x : Nat × WarpEntry) =>
    let (ix, e) := x
    let w := s.weight ix
    let a1 := if s.fir.shortAlloc then e.shots * thr / 8 else allocCount smin smax tp n sw w thr
    let a0 := if s.fir.shortAlloc then e.shots else allocCount smin smax tp n sw w 8
    let az := if s.fir.shortAlloc then e.az else Sp.get (fun _ => e.az) s.fir.azRec ix
    let a := a1 * s.ceilingH e.segmask (az / 2 ^ 14) / 8
    (ix, a, decide (a < e.shots ∧ a < a0)))
  let te := if n = 0 then 0 else tp * thr / 8
  let sum := counts.foldl (fun acc x => acc + x.2.1) 0
  let s := s.setF FIR_ALC_STAT FIR_ALC_STAT_THR thr
  { s with fir := { s.fir with nextCounts := some counts, allocDue := false, shortAlloc := false, nextBudget := (te, sum) } }

/-- The moment an allocation would start: it runs when EN = 1 (R218, R220). -/
def State.allocMoment (s : State) : State :=
  if s.fb FIR_ALC_CTRL FIR_ALC_CTRL_EN then { s with fir := { s.fir with allocDue := true, nextCounts := none } }
  else { s with fir := { s.fir with allocDue := false, nextCounts := some [], nextBudget := (0, 0) } }

end Sys2Proof.Machine
end

