-- ==== Sys2Proof/Machine/Recorder.lean ====
section
/-! DEFINITION. The event recorder: segments, records, triggers, captures and mask tests (chapter 11). -/

namespace Sys2Proof.Machine

open Reg

/-! ### Segments (R273–R275) -/

/-- Units of a segment for NSEG_LOG2. -/
def segUnits (nlog : Nat) : Nat := 393216 / 2 ^ nlog

/-- S of the present configuration. -/
def State.segS (s : State) : Nat := segUnits (s.f EVR_SRC EVR_SRC_NSEG_LOG2)

/-- The present segment. -/
def State.recSeg (s : State) : Nat := s.f EVR_STATE EVR_STATE_SEG

/-- The status of a segment: 0 FREE, 1 FILLING, 2 HELD. -/
def State.segStatus (s : State) (g : Nat) : Nat := s.f (EVR_SEG_INFO g) EVR_SEG_INFO_STATUS

/-- The state with the recorder in a state of R284. -/
def State.setRec284 (s : State) (st : Nat) : State := s.setF EVR_STATE EVR_STATE_STATE st

/-- A segment becomes FREE. -/
def State.freeSeg (s : State) (g : Nat) : State :=
  let s := (s.wr (EVR_SEG_INFO g) 0).wr (EVR_SEG_COUNT g) 0
  { s with evr := { s.evr with freeAt := Sp.put (fun _ => 0) s.evr.freeAt g s.tm.now } }

/-- Raise EVT_RECORDER (R300). -/
def State.recNotice (s : State) (kind which code t : Nat) : State :=
  s.raise evRecorder (leBytes 4 (kind + which * 256 + code * 65536) ++ leBytes 8 t)

/-! ### Writing units (R274, R280, R287) -/

/-- Whether the capture takes another unit. -/
def State.recTakes (s : State) : Bool := s.recording && !(s.recState == 3 && s.evr.left == 0)

/-- Write one 16-byte unit at the next place of the ring. -/
def State.putUnit (s : State) (b : List Byte) : State :=
  let phys := s.recSeg * s.segS + s.evr.fill % s.segS
  let s := s.setBytes (0x20000000 + 16 * phys) b
  let left := if s.recState = 3 then s.evr.left - 1 else s.evr.left
  let s := { s with evr := { s.evr with fill := s.evr.fill + 1, left := left } }
  s.wr EVR_FILL (BitVec.ofNat 32 s.evr.fill)

/-- Write a one-unit record from words A and B. -/
def State.putRecord (s : State) (a b : Nat) : State :=
  if s.recTakes then s.putUnit (leBytes 8 a ++ leBytes 8 b) else s

/-- Write units until the capture takes no more. -/
def State.putUnits : Nat → List Byte → State → State
  | 0, _, s => s
  | n + 1, b, s => if b.isEmpty || !s.recTakes then s else State.putUnits n (b.drop 16) (s.putUnit (b.take 16))

/-- Write a row; its place among the units is kept for R287. -/
def State.putRow (s : State) (b : List Byte) : State :=
  if !s.recTakes then s
  else
    let start := s.evr.fill
    let s := State.putUnits (b.length / 16) b s
    { s with evr := { s.evr with rows := s.evr.rows ++ [(start, s.evr.fill)] } }

/-! ### The end of a capture (R287–R289) -/

/-- The oldest unit held when `held` units are kept: moved past a row it would fall inside (R287). -/
def State.oldestUnit (s : State) (held : Nat) : Nat :=
  let o := s.evr.fill - held
  match s.evr.rows.find? (fun r => decide (r.1 < o) && decide (o < r.2)) with
  | some r => r.2
  | none => o

/-- The present segment becomes HELD with its last `held` units, and EVT_RECORDER reports the end cause (R287, R288, R300). -/
def State.holdSegment (s : State) (held cause : Nat) : State :=
  let g := s.recSeg
  let o := s.oldestUnit held
  let s := (s.setF (EVR_SEG_INFO g) EVR_SEG_INFO_STATUS 2).setF (EVR_SEG_INFO g) EVR_SEG_INFO_START (g * s.segS + o % s.segS)
  let s := s.setF (EVR_SEG_COUNT g) EVR_SEG_COUNT_COUNT (s.evr.fill - o)
  let s := { s with evr := { s.evr with lossE := none, lossM := none, evq := [], monq := [], rowq := [], endAt := s.tm.now } }
  s.recNotice 2 g cause s.tbs

/-- CAPTURE_END: POST units follow the trigger record (R287, R288). -/
def execCaptureEnd (s : State) : Host.Outcome State Fault Refusal :=
  if s.recState = 3 ∧ s.evr.left = 0 then
    let post := s.f EVR_POST EVR_POST_POST
    let s := s.setRec284 (if s.fb EVR_SRC EVR_SRC_REARM then 4 else 5)
    .next (s.holdSegment (Nat.min s.evr.before (s.segS - post - 1) + 1 + post) 0)
  else .next s

/-- Start filling a segment (R283, R288). -/
def State.fillSegment (s : State) (g : Nat) : State :=
  let s := (s.wr (EVR_SEG_INFO g) (BitVec.ofNat 32 (2 ^ 30))).wr (EVR_SEG_COUNT g) 0
  let s := ((s.wr EVR_FILL 0).setF EVR_STATE EVR_STATE_SEG g).setRec284 1
  { s with evr := { s.evr with fill := 0, before := 0, left := 0, rows := [], evq := [], monq := [], rowq := [],
                               lossE := none, lossM := none } }

/-- SEGMENT_RESTART: 1 µs after the next segment is FREE, filling restarts there (R288). -/
def execSegmentRestart (s : State) : Host.Outcome State Fault Refusal :=
  let g := (s.recSeg + 1) % 2 ^ s.f EVR_SRC EVR_SRC_NSEG_LOG2
  if s.recState = 4 ∧ s.segStatus g = 0 then
    let due := Nat.max s.evr.endAt (Sp.get (fun _ => 0) s.evr.freeAt g) + tickUs
    .next ((s.at_ due).fillSegment g)
  else .next s

/-! ### Arming (R282, R283) -/

/-- The word at an offset of a REC_ARM payload given as its 22 words. -/
def armWord (w : List Nat) (off : Nat) : Nat := w.getD ((off - 16) / 4) 0

/-- The offset of the first word with a reserved bit at 1; the words stand for EVR_SRC to EVR_CH_MASK 15. -/
def armReserved (w : List Nat) : Option Nat :=
  let masks := [0xFF, 0x7FFFF, 0x7FFFF, 0xFFFF80FF, 0xFFFF, 0xFFF10F7F]
  ((List.range 6).find? (fun i => w.getD i 0 &&& (0xFFFFFFFF - masks.getD i 0) ≠ 0)).map (fun i => 16 + 4 * i)

/-- The channels of a REC_ARM's event stream. -/
def armChannels (w : List Nat) : List Nat := (List.range 512).filter (fun c => bit (w.getD (6 + c / 32) 0) (c % 32))

/-- The checks of R282 from the fourth on. -/
def State.armChecks (s : State) (w : List Nat) : List Check :=
  let src := armWord w 16
  let segs := segUnits (bits src 6 2)
  let pre := armWord w 20
  let post := armWord w 24
  let mon := armWord w 32
  let row := armWord w 36
  let r := if bit src 2 then 1 + 640 * popcount 4 (bits row 8 4) else 1
  let chans := armChannels w
  [ par (armReserved w).isSome ((armReserved w).getD 0), chk (decide (segs < post)) stArmSize,
    par (decide (segs < pre + post + r)) 20, par (src % 8 == 0) 16,
    par (bit src 0 && (chans.isEmpty || decide (64 < chans.length) || chans.any (fun c => decide (s.channels ≤ c)))) 40,
    par (bit src 1 && (bits mon 0 4 == 0 || bits mon 4 4 == 0) && bits mon 8 8 == 0) 32,
    par (bit src 2 && (bits row 8 4 == 0 || decide (s.channels ≤ 4 * bits row 0 7))) 36 ]

/-- The checks of R282 that need no payload word. -/
def State.armBusy (s : State) : List Check :=
  let st := s.recState
  [ chk (s.evr.clearing || st == 1 || st == 2 || st == 3 || st == 4) stBusy, chk (!s.domOn 14) stRefused ]

/-- A REC_ARM with events takes the merge stage from the raw tap (R425). -/
def State.tapPreempt (s : State) : State :=
  if s.fb EVR_SRC EVR_SRC_EVENTS && s.fb HNG_TAP_CTRL HNG_TAP_CTRL_EN then
    (s.setF HNG_TAP_CTRL HNG_TAP_CTRL_EN 0).setF HNG_TAP_CTRL HNG_TAP_CTRL_PREEMPT 1
  else s

/-- FILLING becomes ARMED once PRE units are written (R284). -/
def State.preReached (s : State) : State :=
  if s.recState = 1 ∧ s.f EVR_PRE EVR_PRE_PRE ≤ s.evr.fill then s.setRec284 2 else s

/-- Arm the recorder with a checked payload (R283). -/
def State.recArm (s : State) (w : List Nat) : State :=
  let s := s.forEach (List.range 8) (fun s g => s.freeSeg g)
  let s := s.forEach (List.range 22) (fun s i =>
    s.wr (EVR_SRC + 4 * i) (BitVec.ofNat 32 (if i = 3 then w.getD 3 0 ||| 1 else w.getD i 0)))
  let s := { s with evr := { s.evr with payload := some w, triggers := [] } }
  (s.tapPreempt.fillSegment 0).preReached

/-- The 22 words of a REC_ARM payload. -/
def armWords (p : List Byte) : List Nat := (List.range 22).map (fun i => fld p (16 + 4 * i) 4)

/-- REC_ARM (R282, R283). -/
def execRecArm (q : Req) (p : List Byte) (s : State) : Host.Outcome State Fault Refusal :=
  .next (s.fixed q 0x0600 p 88 (fun s => s.armBusy ++ s.armChecks (armWords p)) (fun s =>
    (s.recArm (armWords p)).reply q 0x0600 stOk 0))

/-- End or discard the capture in progress (R289). -/
def State.recDisarm (s : State) : State :=
  let st := s.recState
  let s := { s with evr := { s.evr with triggers := [] } }
  let s := if st = 1 ∨ st = 2 then s.freeSeg s.recSeg
    else if st = 3 then
      (s.setF (EVR_SEG_INFO s.recSeg) EVR_SEG_INFO_PARTIAL 1).holdSegment (Nat.min s.evr.fill s.segS) 2
    else s
  let s := { s with evr := { s.evr with lossE := none, lossM := none, evq := [], monq := [], rowq := [] } }
  s.setRec284 0

/-- REC_DISARM (R289). -/
def execRecDisarm (q : Req) (p : List Byte) (s : State) : Host.Outcome State Fault Refusal :=
  .next (s.fixed q 0x0601 p 0 (fun _ => []) (fun s => s.recDisarm.reply q 0x0601 stOk 0))

/-! ### Triggers (R285, R286, R291) -/

/-- Whether a Hinge calibration keeps a head from driving and taking HG_TRIG (R419). -/
def State.hcalRunning (s : State) : Bool := s.isHead && decide (s.tm.now < s.cas.hcalUntil)

/-- Drive HG_TRIG high for 100 ns (R291). -/
def State.driveTrig (s : State) : State :=
  { s with evr := { s.evr with hgTrigUntil := s.tm.now + 6400 }, pin := { s.pin with hgTrigOut := true } }

/-- Accept a trigger in ARMED: its record, time, event and TRIGGERED (R286). -/
def State.acceptTrigger (s : State) (src t : Nat) : State :=
  let before := s.evr.fill
  let s := s.putRecord (4 * 2 ^ 60 + src * 2 ^ 56 + (if src = 3 then 2 ^ 55 else 0) + before % 2 ^ 32) t
  let s := (s.wr64 EVR_TTIME_LO EVR_TTIME_HI t).setF EVR_STATE EVR_STATE_LAST_SRC src
  let s := s.setF (EVR_SEG_INFO s.recSeg) EVR_SEG_INFO_TRIGGERED 1
  let s := { s with evr := { s.evr with before := before, left := s.f EVR_POST EVR_POST_POST } }
  (s.setRec284 3).recNotice 1 s.recSeg src t

/-- A trigger meets the recorder: what became of it (0 accepted or driven out, 1 early, 2 in REARM, 3 not counted) and the state
after it (R286, R290, R291). -/
def State.meetTrigger (s : State) (src t : Nat) : Nat × State :=
  let s := s.preReached
  match s.recState with
  | 1 => (1, s.addSat EVR_CNT_TRIG EVR_CNT_TRIG_TRIG_EARLY 1)
  | 2 => (0, if s.fb EVR_SRC EVR_SRC_HG_OUT && src != 3 && !s.hcalRunning then s.driveTrig else s.acceptTrigger src t)
  | 4 => (2, s.addSat EVR_CNT_TRIG EVR_CNT_TRIG_TRIG_REARM 1)
  | _ => (3, s)

/-- RECORDER_TRIGGER: the oldest presented trigger is accepted or ignored (R285, R286). -/
def execRecorderTrigger (s : State) : Host.Outcome State Fault Refusal :=
  match s.evr.triggers with
  | [] => .next s
  | (src, t) :: rest =>
    .next ({ s with evr := { s.evr with triggers := rest } }.meetTrigger src t).2

/-- REC_TRIGGER (R290). -/
def execRecTrigger (q : Req) (p : List Byte) (s : State) : Host.Outcome State Fault Refusal :=
  .next (s.fixed q 0x0602 p 0 (fun s => [chk (s.recState == 0 || s.recState == 5) stRefused]) (fun s =>
    let (d, s) := s.meetTrigger 0 s.tbs
    s.reply q 0x0602 stOk d))

/-- RECORDER_PRE_REACHED: PRE units have been written (R284). -/
def execRecorderPreReached (s : State) : Host.Outcome State Fault Refusal := .next s.preReached

/-! ### Items (R279–R281) -/

/-- Take one item: rows first, then monitor samples, then events (R279). -/
def State.takeItem (s : State) : State :=
  match s.evr.rowq, s.evr.monq, s.evr.evq with
  | r :: rest, _, _ => { s with evr := { s.evr with rowq := rest } }.putRow r
  | [], (a, b) :: rest, _ => { s with evr := { s.evr with monq := rest } }.putRecord a b
  | [], [], (a, b) :: rest => { s with evr := { s.evr with evq := rest } }.putRecord a b
  | [], [], [] => s

/-- RECORDER_ITEM: the next waiting item is written into the segment (R279). -/
def execRecorderItem (s : State) : Host.Outcome State Fault Refusal :=
  if s.recState = 3 ∧ s.evr.left = 0 then .next s else .next s.takeItem

/-- The gap record of an episode (R276, R281). -/
def State.gapRecord (s : State) (stream : Nat) (l : Loss) : State :=
  s.putRecord (5 * 2 ^ 60 + stream * 2 ^ 58 + Nat.min 0xFFFFFF ((l.last - l.first) / 64) * 2 ^ 32 + l.lost % 2 ^ 32) l.first

/-- LOSS_EPISODE_CLOSE: the open episode of a stream closes, with its FIFO at half its depth or after 16 µs; `monitor` names
the stream (R281). -/
def execLossEpisodeClose (monitor : Bool) (s : State) : Host.Outcome State Fault Refusal :=
  match (if monitor then s.evr.lossM else s.evr.lossE) with
  | none => .next s
  | some l =>
    let low := if monitor then decide (s.evr.monq.length ≤ 32) else decide (s.evr.evq.length ≤ 128)
    let s := if low then s else s.at_ (l.began + 16 * tickUs)
    let e := s.evr
    let s := { s with evr := if monitor then { e with lossM := none } else { e with lossE := none } }
    .next (s.gapRecord (if monitor then 2 else 1) l)

/-- RECORDER_MEMORY_CLEARED: the clear of recorder memory after power-up completes (R301). -/
def execRecorderMemoryCleared (s : State) : Host.Outcome State Fault Refusal :=
  .next { s with evr := { s.evr with clearing := false } }

/-! ### Mask tests (R293–R295) -/

/-- The limits of a mask's segment, in the signedness of its input: lower and upper. -/
def State.envelope (s : State) (m g : Nat) : Int × Int :=
  let w := s.rd (EVR_MSK_ENV m g)
  if s.f (EVR_MSK_CFG m) EVR_MSK_CFG_INPUT = 2 then (EVR_MSK_ENV_LOWER.get w, EVR_MSK_ENV_UPPER.get w)
  else (sx 16 (EVR_MSK_ENV_LOWER.get w), sx 16 (EVR_MSK_ENV_UPPER.get w))

/-- Whether the envelope has ended at or before a segment (R294). -/
def State.envelopeEnded (s : State) (m g : Nat) : Bool :=
  (List.range (g + 1)).any (fun k => decide ((s.envelope m k).2 < (s.envelope m k).1))

/-- A failing sample is counted and kept (R295). -/
def State.maskFail (s : State) (x : MaskSample) (high : Bool) : State :=
  let s := s.addSat (EVR_MSK_CNT x.mask) EVR_MSK_CNT_FAILS 1
  s.wr (EVR_MSK_LAST x.mask) (BitVec.ofNat 32 (x.seg * 2 ^ 27 + b2n high * 2 ^ 26 + ux 16 x.value))

/-- A capture ends by a mask's STOP (R295). -/
def State.maskStop (s : State) : State :=
  if s.recording then
    ((s.setF (EVR_SEG_INFO s.recSeg) EVR_SEG_INFO_STOPPED 1).holdSegment (Nat.min s.evr.fill s.segS) 1).setRec284 5
  else s

/-- A violation: counted, recorded, and acted on as ACTION says (R295). -/
def State.maskViolation (s : State) (x : MaskSample) (high : Bool) : State :=
  let cfg := EVR_MSK_CFG x.mask
  let s := s.addSat (EVR_MSK_CNT x.mask) EVR_MSK_CNT_VIOLS 1
  let s := s.putRecord (6 * 2 ^ 60 + x.mask * 2 ^ 58 + x.seg * 2 ^ 53 + b2n high * 2 ^ 52 + x.chan * 2 ^ 43 + ux 32 x.value)
    x.time
  let s := if s.fb cfg EVR_MSK_CFG_EVENT then s.recNotice 3 x.mask 0 x.time else s
  let s := if s.fb cfg EVR_MSK_CFG_TRIG && s.recSource 5 then (s.meetTrigger 5 x.time).2 else s
  if s.fb cfg EVR_MSK_CFG_STOP then s.maskStop else s

/-- Test one sample (R294, R295). -/
def State.maskTest (s : State) (x : MaskSample) : State :=
  if !s.fb (EVR_MSK_CFG x.mask) EVR_MSK_CFG_EN || s.envelopeEnded x.mask x.seg then s
  else
    let (lo, hi) := s.envelope x.mask x.seg
    let high := decide (hi < x.value)
    let fail := high || decide (x.value < lo)
    let viol := fail && (Sp.find s.evr.mskPass x.mask).getD true
    let s := { s with evr := { s.evr with mskPass := Sp.ins s.evr.mskPass x.mask (!fail) } }
    let s := if fail then s.maskFail x high else s
    if viol then s.maskViolation x high else s

/-- MASK_SAMPLE_TEST: the oldest sample that waits for a mask is tested (R293–R296). -/
def execMaskSampleTest (s : State) : Host.Outcome State Fault Refusal :=
  match s.evr.samples with
  | [] => .next s
  | x :: rest => .next ({ s with evr := { s.evr with samples := rest } }.maskTest x)

/-- EN of a mask rises: its first tested sample and its references start anew (R294, R295). -/
def State.maskOn (s : State) (m : Nat) : State :=
  { s with evr := { s.evr with mskFrom := Sp.ins s.evr.mskFrom m s.tbs, mskPass := Sp.del s.evr.mskPass m } }

/-! ### Readout (R297, R298) -/

/-- REC_STATUS (R298). -/
def execRecStatus (q : Req) (p : List Byte) (s : State) : Host.Outcome State Fault Refusal :=
  .next (s.fixed q 0x0603 p 0 (fun _ => []) (fun s =>
    s.replyOk q 0x0603 ((List.range 48).flatMap (fun i => wordBytes (s.rd (EVR_CTRL + 4 * i))))))

/-- The bytes of a chronological unit of a held segment (R274). -/
def State.chronUnit (s : State) (g u : Nat) : List Byte :=
  let base := g * s.segS
  let phys := base + (s.f (EVR_SEG_INFO g) EVR_SEG_INFO_START - base + u) % s.segS
  s.bytes (0x20000000 + 16 * phys) 16

/-- The checks of REC_READ (R297). -/
def State.recReadChecks (s : State) (p : List Byte) : List Check :=
  let g := fld p 16 1
  let off := fld p 20 4
  let len := fld p 24 4
  [ chk (decide (g < 8) && s.segStatus g == 1) stBusy,
    par (decide (2 ^ s.f EVR_SRC EVR_SRC_NSEG_LOG2 ≤ g) || s.segStatus g == 0) 16, par (fld p 17 3 != 0) 17,
    par (off % 16 != 0) 20,
    par (len == 0 || len % 16 != 0 || decide (8064 < len)
      || decide (16 * s.f (EVR_SEG_COUNT g) EVR_SEG_COUNT_COUNT < off + len)) 24 ]

/-- REC_READ (R297). -/
def execRecRead (q : Req) (p : List Byte) (s : State) : Host.Outcome State Fault Refusal :=
  .next (s.fixed q 0x0604 p 12 (fun s => s.recReadChecks p) (fun s =>
    let u := fld p 20 4 / 16
    s.replyOk q 0x0604 ((List.range (fld p 24 4 / 16)).flatMap (fun k => s.chronUnit (fld p 16 1) (u + k)))))

end Sys2Proof.Machine
end

