-- ==== Sys2Proof/Machine/Windows.lean ====
section
/-! DEFINITION. The memory windows and the rules of MEM_READ and MEM_WRITE on each (R4, R5, R19, R60, R136, R178, R179, R248,
R299, R329, R536–R542). -/

namespace Sys2Proof.Machine

open Reg

/-- The windows of R536. -/
inductive Win where
  | warpStaging | warpActive | zoneStaging | zoneActive | hist | recorder | packet | trace
  | remote (m : Nat)
  deriving DecidableEq, Repr

/-- The window in whose range an address lies (R536). -/
def winOf (a : Nat) : Option Win :=
  let h := a / 2 ^ 16
  if h = 0x0100 then some .warpStaging
  else if h = 0x0101 then some .warpActive
  else if h = 0x0200 then some .zoneStaging
  else if h = 0x0201 then some .zoneActive
  else if 0x10000000 ≤ a ∧ a < 0x10C00000 then some .hist
  else if 0x20000000 ≤ a ∧ a < 0x20600000 then some .recorder
  else if 0x30000000 ≤ a ∧ a < 0x30300000 then some .packet
  else if 0x38000000 ≤ a ∧ a < 0x38100000 then some .trace
  else if 0x42000000 ≤ a ∧ a < 0x50000000 then some (.remote ((a - 0x40000000) / 0x02000000))
  else none

/-- The first address past a window. -/
def Win.stop : Win → Nat
  | .warpStaging => 0x01010000
  | .warpActive => 0x01020000
  | .zoneStaging => 0x02010000
  | .zoneActive => 0x02020000
  | .hist => 0x10C00000
  | .recorder => 0x20600000
  | .packet => 0x30300000
  | .trace => 0x38100000
  | .remote m => 0x40000000 + (m + 1) * 0x02000000

/-! ### The histogram window (R178, R179) -/

/-- Region, set, channel and byte offset within the channel of a histogram window address. -/
def histPlace (a : Nat) : Nat × Nat × Nat × Nat :=
  let o := a - 0x10000000
  if o < 0xA00000 then (0, o / 0x500000, o % 0x500000 / 10240, o % 10240)
  else if o < 0xB00000 then (1, (o - 0xA00000) / 0x80000, o % 0x80000 / 1024, o % 1024)
  else (2, (o - 0xB00000) / 0x80000, o % 0x80000 / 1024, o % 1024)

/-- The channels that a span of the histogram window touches, at one address in each 4 bytes. -/
def histChannels (a n : Nat) : List Nat := (List.range (n / 4)).map (fun k => (histPlace (a + 4 * k)).2.2.1)

/-- Whether a span touches a quarter whose domain is off, fused-off channels apart (R5, R179). -/
def State.histDark (s : State) (a n : Nat) : Bool :=
  (histChannels a n).any (fun c => decide (c < s.channels) && !s.domOn (2 + c / 128))

/-- The error mark of the macro word of a bin address; a control record byte has none. -/
def State.histMark (s : State) (a : Nat) : Nat × Nat :=
  let (r, set, c, o) := histPlace a
  if r = 2 ∧ 512 ≤ o then (0, 0)
  else
    let k := ((set * 4 + r) * 128 + c / 4) * 8192 + o / 2
    (k, Sp.get (fun _ => 0) s.hge.ecc k)

/-- Read one bin, or two record bytes, of the histogram window (R5, R172, R179). -/
def State.histRead2 (s : State) (a : Nat) : List Byte × State :=
  let c := (histPlace a).2.2.1
  if s.channels ≤ c then (zeros 2, s)
  else
    match (s.histMark a).2 with
    | 0 => (s.bytes a 2, s)
    | 1 => (s.bytes a 2, s.addSat (HGE_ECC_CNT (c / 128)) HGE_ECC_CNT_CE 1)
    | _ => (zeros 2, s.addSat (HGE_ECC_CNT (c / 128)) HGE_ECC_CNT_UE 1)

/-- Read bins of the histogram window, two bytes at a time. -/
def State.histRead : State → Nat → Nat → List Byte × State
  | s, _, 0 => ([], s)
  | s, a, n + 1 =>
    let (b, s) := s.histRead2 a
    let (bs, s) := State.histRead s (a + 2) n
    (b ++ bs, s)

/-- Write one byte of the histogram window: its word takes a fresh code, and a fused-off channel ignores it (R5, R179).
[DEDUCED, log 86] -/
def State.histWrite1 (s : State) (a : Nat) (b : Byte) : State :=
  if s.channels ≤ (histPlace a).2.2.1 then s
  else
    let s := s.setByte a b
    { s with hge := { s.hge with ecc := Sp.del s.hge.ecc (s.histMark a).1 } }

/-! ### Reading (R60, R536–R542) -/

/-- Whether a span of the recorder window touches a FILLING segment (R299). -/
def State.recFilling (s : State) (a n : Nat) : Bool :=
  let g0 := (a - 0x20000000) / 16 / Nat.max 1 s.segS
  let g1 := (a + n - 1 - 0x20000000) / 16 / Nat.max 1 s.segS
  (List.range 8).any (fun g => decide (g0 ≤ g) && decide (g ≤ g1) && s.segStatus g == 1)

/-- Whether the trace window is in use by a capture (R248). -/
def State.traceBusy (s : State) : Bool :=
  s.f SRV_TRC_STAT SRV_TRC_STAT_STATE == 1 || s.f SRV_TRC_STAT SRV_TRC_STAT_STATE == 2

/-- Whether the domain of a window that lies in one domain is off. -/
def State.winOff (s : State) : Win → Bool
  | .warpStaging | .warpActive => !s.domOn 11
  | .zoneStaging | .zoneActive => s.isMS && !s.domOn 10
  | .recorder => !s.domOn 14
  | _ => false

/-- The checks of an address and a length of a MEM_READ or MEM_WRITE, `lenAt` the DETAIL of a length (R60, R538). [DEDUCED, log 55] -/
def spanChecks (a n lenAt : Nat) : List Check :=
  [ par (decide (a % 4 ≠ 0)) 16, par (winOf a).isNone 16,
    par (match winOf a with | some w => decide (w.stop < a + n) | none => true) lenAt ]

/-- The checks of a window's own rules for a read, remote windows apart (R540, R542). -/
def State.readChecks (s : State) (a n : Nat) : List Check :=
  match winOf a with
  | none => []
  | some .hist => [ chk (s.scanning || s.histDark a n) stRefused ]
  | some .recorder => [ chk (s.winOff .recorder) stRefused, chk (s.recFilling a n) stBusy ]
  | some .trace => [ chk s.traceBusy stBusy ]
  | some w => [ chk (s.winOff w) stRefused ]

/-- Bytes of packet memory: the device gives no layout, so a read returns free values (R537). -/
def State.packetRead (s : State) (a n : Nat) : List Byte × State :=
  ((List.range n).map (fun k => BitVec.ofNat 8 (Config.openValue (a + k) s.draws).toNat), s.drawn)

/-- The bytes of a window that passes its checks. [DEDUCED, log 85] -/
def State.winRead (s : State) (a n : Nat) : List Byte × State :=
  match winOf a with
  | some .hist => s.histRead a (n / 2)
  | some .packet => s.packetRead a n
  | some .zoneStaging | some .zoneActive => (if s.isMS then s.bytes a n else zeros n, s)
  | _ => (s.bytes a n, s)

/-! ### Writing -/

/-- The checks of a window's own rules for a write (R540, R542). [DEDUCED, log 86] -/
def State.writeChecks (s : State) (a n : Nat) : List Check :=
  match winOf a with
  | none => []
  | some .warpStaging => [ chk (s.winOff .warpStaging) stRefused ]
  | some .zoneStaging => [ chk (s.winOff .zoneStaging) stRefused ]
  | some .zoneActive => [ par s.isMS 16 ]
  | some .hist => [ chk (s.scanning || s.histDark a n) stRefused ]
  | some _ => [ par true 16 ]

/-- Write bytes of the histogram window. -/
def State.histWrite : State → Nat → List Byte → State
  | s, _, [] => s
  | s, a, b :: bs => State.histWrite (s.histWrite1 a b) (a + 1) bs

/-- Write bytes to a window that passes its checks; the zone window of a variant without zones ignores them (R4). [DEDUCED, log 85] -/
def State.winWrite (s : State) (a : Nat) (data : List Byte) : State :=
  match winOf a with
  | some .hist => s.histWrite a data
  | some .zoneStaging | some .zoneActive => if s.isMS then s.setBytes a data else s
  | _ => s.setBytes a data

end Sys2Proof.Machine
end

