-- ==== Sys2Proof/Machine/Weft.lean ====
section
/-! DEFINITION. Weft links (chapter 15): control blocks, bring-up, capability exchange, quarantine, flow control and the sending of
messages, with the STATUS message a member sends (R391–R411, R430, R431). -/

namespace Sys2Proof.Machine

open Reg

/-! ### Links -/

/-- A Weft link beyond its registers. -/
def State.link (s : State) (l : Nat) : Link := Sp.get (fun _ => {}) s.wfl l

/-- The state with a Weft link replaced. -/
def State.putLink (s : State) (l : Nat) (x : Link) : State := { s with wfl := Sp.put (fun _ => {}) s.wfl l x }

/-- The state of a link (R398). -/
def State.linkState (s : State) (l : Nat) : Nat := s.f (WFL_STATE l) WFL_STATE_STATE

/-- Whether the domain of a link is on. -/
def State.linkOn (s : State) (l : Nat) : Bool := decide (l < 4) && s.domOn (17 + l / 2)

/-- Whether a link is in MODE RAWTAP. -/
def State.rawTap (s : State) (l : Nat) : Bool := s.fb (WFL_CTRL l) WFL_CTRL_MODE

/-- The role of the device (R404). -/
def State.casRole (s : State) : Nat := s.f HNG_CAS_CFG HNG_CAS_CFG_ROLE

/-- The topology of the cascade. -/
def State.topology (s : State) : Nat := s.f HNG_CAS_CFG HNG_CAS_CFG_TOPOLOGY

/-- Whether the topology uses a link: every link of a standalone device, and every link in MODE RAWTAP (R406). [DEDUCED, log 93] -/
def State.linkUsed (s : State) (l : Nat) : Bool :=
  s.rawTap l || s.casRole == 0 || (s.isMember && l == 0) || (downLinks s.casRole s.topology).contains l

/-- Whether a link is one of this device's downstream links. -/
def State.isDown (s : State) (l : Nat) : Bool := !s.rawTap l && (downLinks s.casRole s.topology).contains l

/-- The cascade index of the device. -/
def State.index (s : State) : Nat := s.f HNG_ID HNG_ID_INDEX

/-- Whether the device's HOPS is known (R407). -/
def State.hopsKnown (s : State) : Bool := s.f HNG_ID HNG_ID_HOPS != 15

/-- A byte of the last CAPX pair received. -/
def State.pcapByte (s : State) (l i : Nat) : Nat := bits (s.rd (WFL_PCAP l (i / 4))).toNat (8 * (i % 4)) 8

/-- The cascade index of a link's partner, from its last CAPX0 (R400). -/
def State.partner (s : State) (l : Nat) : Nat := s.pcapByte l 12 % 8

/-- A control block: TYPE, payload bytes 1 to 14, and the CRC-8 (R392). -/
def ctlBlock (typ : Nat) (payload : List Byte) : List Byte :=
  let b := leBytes 1 typ ++ (payload ++ zeros 14).take 14
  b ++ leBytes 1 (crc8 b)

/-- A link sends a block of its own. -/
def State.sendBlock (s : State) (l : Nat) (b : List Byte) : State := s.putLink l { s.link l with block := b }

/-! ### Sending messages (R408–R411) -/

/-- The rank of a message class among those that wait for a link (R409). -/
def msgRank (cls : Nat) : Nat := if cls = 4 then 2 else if cls = 5 ∨ cls = 6 then 1 else 0

/-- A waiting message takes its place behind those of its rank. -/
def msgInsert (m : Msg) : List Msg → List Msg
  | [] => [m]
  | x :: t => if msgRank x.cls ≤ msgRank m.cls then x :: msgInsert m t else m :: x :: t

/-- A link sends a message; an injected bit error falls on its first data block and spoils its CRC-32C (R408, R423). -/
def State.sendNow (s : State) (l : Nat) (m : Msg) : State :=
  let x := s.link l
  let hit := x.inj != 0 && !m.body.isEmpty
  let x := { x with sent := some { m with crcOk := m.crcOk && !hit }, inj := if hit then 0 else x.inj }
  (s.putLink l x).addWrap (WFL_CNT_TX l) WFL_CNT_TX_MSGS 1

/-- Send a message on a link that is ACTIVE; while an XOFF is in force it waits (R398, R402, R409, R411). -/
def State.sendMsg (s : State) (l : Nat) (m : Msg) : State :=
  if !s.linkActive l || s.rawTap l then s
  else if s.fb (WFL_STATUS l) WFL_STATUS_TX_XOFF then s.putLink l { s.link l with txq := msgInsert m (s.link l).txq }
  else s.sendNow l m

/-- Send a message on every ACTIVE downstream link. -/
def State.sendDown (s : State) (m : Msg) : State :=
  s.forEach (downLinks s.casRole s.topology) (fun s l => s.sendMsg l m)

/-- A member's links in QUARANTINE, as a mask of their partners (R410). -/
def State.qmask (s : State) : Nat :=
  bitsOf (((List.range 4).filter (fun l => s.linkOn l && s.linkState l == 8)).map s.partner)

/-- The STATUS word of a member (R410). -/
def State.statusWord (s : State) : Nat :=
  s.f THM_STATE THM_STATE_THR % 16 + s.dev.code * 16 + b2n (s.fb HNG_CAS_STAT HNG_CAS_STAT_TIME_LOCK) * 2 ^ 8
    + b2n s.cas.refused.isSome * 2 ^ 9 + s.cas.refused.getD 0 % 16 * 2 ^ 10
    + b2n (s.fb HNG_CAS_STAT HNG_CAS_STAT_HCAL_DONE) * 2 ^ 14 + b2n (s.fb HNG_CAS_STAT HNG_CAS_STAT_HCAL_FAIL) * 2 ^ 15
    + s.qmask * 2 ^ 16

/-- The 512 headroom bytes of a STATUS: two cells in a byte, the even cell low (R415). -/
def State.headroomBytes (s : State) : List Byte :=
  (List.range 512).map (fun i => BitVec.ofNat 8 (s.headroom (2 * i) + 16 * s.headroom (2 * i + 1)))

/-- A member sends STATUS towards the head (R412). -/
def State.sendStatus (s : State) : State :=
  if !s.isMember then s
  else
    let s := { s with cas := { s.cas with statusAt := s.tm.now } }
    s.sendMsg 0 { cls := 3, src := s.index, dst := 0, hdr := leBytes 4 (s.rd HNG_TABLE_ID).toNat ++ leBytes 4 s.cas.ack,
                  body := leBytes 4 s.statusWord ++ s.headroomBytes }

/-! ### Link states (R398, R407, R429) -/

/-- Raise EVT_LINK (R429). -/
def State.raiseLink (s : State) (kind l st qcause ix : Nat) : State :=
  s.raise evLink (leBytes 4 (kind + l * 2 ^ 8 + st * 2 ^ 12 + qcause * 2 ^ 16 + ix * 2 ^ 24))

/-- Whether a state belongs to the bring-up that the 10 ms of R398 time. -/
def bringUp (st : Nat) : Bool := decide (2 ≤ st) && decide (st ≤ 6)

/-- Lanes show no lock, and nothing frozen, while they train anew. [DEDUCED, log 88] -/
def State.clearLanes (s : State) (l : Nat) : State :=
  s.forEach (List.range 4) (fun s k => ((s.setF (WFL_LANE_STAT l k) WFL_LANE_STAT_PHASE_LOCK 0).setF (WFL_LANE_STAT l k)
    WFL_LANE_STAT_BLOCK_LOCK 0).setF (WFL_LANE_STAT l k) WFL_LANE_STAT_FROZEN 0)

/-- Put a link into a state: its timers, and what waited or was locked (R398). -/
def State.moveLink (s : State) (l st : Nat) : State :=
  let old := s.linkState l
  let x := s.link l
  let x := { x with since := s.tm.now, tryAt := s.tm.now, capxAt := s.tm.now, kaAt := s.tm.now,
                    upAt := if bringUp st && !bringUp old then s.tm.now else x.upAt,
                    align := if st ≤ 4 then none else x.align, txq := if old = 7 then [] else x.txq,
                    xoffAt := if old = 7 then none else x.xoffAt }
  let s := (s.putLink l x).setF (WFL_STATE l) WFL_STATE_STATE st
  let s := if st ≤ 2 then s.clearLanes l else s
  if old = 7 then (s.setF (WFL_STATUS l) WFL_STATUS_TX_XOFF 0).setF (WFL_STATUS l) WFL_STATUS_RX_XOFF 0 else s

/-- The event of a change of link state: entry to ACTIVE, QUARANTINE or DOWN, or leaving ACTIVE (R429). [DEDUCED, log 89] -/
def State.linkEvent (s : State) (l old st : Nat) : State :=
  if st = 8 then s.raiseLink 2 l st (s.f (WFL_STATE l) WFL_STATE_QCAUSE) (s.partner l)
  else if st = 7 ∨ st = 0 ∨ old = 7 then s.raiseLink 1 l st (s.f (WFL_STATE l) WFL_STATE_QCAUSE) (s.partner l)
  else s

/-- Change the state of a link and raise its event. -/
def State.setLink (s : State) (l st : Nat) : State :=
  let old := s.linkState l
  if old = st then s else (s.moveLink l st).linkEvent l old st

/-- The HOPS of a member follows its WL0 (R407). -/
def State.setHops (s : State) : State :=
  if !s.isMember then s
  else
    let up := s.linkActive 0 && !s.rawTap 0
    let h := s.pcapByte 0 13 / 16
    (s.setF HNG_ID HNG_ID_HOPS (if up && h != 15 then h + 1 else 15)).setF HNG_CAS_STAT HNG_CAS_STAT_UP (b2n up)

/-- A member whose HOPS has become unknown loses TIME_LOCK, and its ACTIVE downstream links return to CAPX (R398, R407, R418). -/
def State.lostUp (s : State) : State :=
  if !s.isMember || s.hopsKnown then s
  else
    let s := s.setF HNG_CAS_STAT HNG_CAS_STAT_TIME_LOCK 0
    s.forEach (downLinks 2 s.topology) (fun s l => if s.linkActive l && !s.rawTap l then s.setLink l 6 else s)

/-- Change the state of a link with what follows on a member: UP, HOPS, the downstream links, and STATUS where QMASK has changed
(R407, R412, R418). -/
def State.toLink (s : State) (l st : Nat) : State :=
  let qm := s.qmask
  let s := (s.setLink l st).setHops.lostUp
  if s.qmask = qm then s else s.sendStatus

/-- Start a link at DETECT, where the topology uses it (R398, R406). -/
def State.startLink (s : State) (l : Nat) : State :=
  if s.linkOn l && s.linkUsed l then s.toLink l 1 else s

/-- A write of WFL_CTRL: the state, unchanged but for CFG_REJ where MODE changes while EN = 1 (R398). -/
def State.wflCtrl (s : State) (l : Nat) (w : Word) : State :=
  let en := s.fb (WFL_CTRL l) WFL_CTRL_EN
  if en && (WFL_CTRL_MODE.get w == 1) != s.rawTap l then s.setF (WFL_STATUS l) WFL_STATUS_CFG_REJ 1
  else
    let s := s.wr (WFL_CTRL l) w
    if !en ∧ WFL_CTRL_EN.get w = 1 then s.startLink l
    else if en ∧ WFL_CTRL_EN.get w = 0 then s.toLink l 0 else s

/-- A link whose domain powers up or that the boot configures starts at DETECT when it is enabled (R430). -/
def State.linkPower (s : State) (l : Nat) : State :=
  if s.fb (WFL_CTRL l) WFL_CTRL_EN then s.startLink l else s

/-- Links that the topology excludes are held in DOWN (R398, R406). -/
def State.holdUnused (s : State) : State :=
  s.forEach (List.range 4) (fun s l => if s.linkOn l && !s.linkUsed l then s.toLink l 0 else s)

/-! ### Bring-up rows -/

/-- TERMINATION_DETECT: the next attempt on a link in DETECT, 100 µs after the last (R398, R399). -/
def execTerminationDetect (l : Nat) (found : Bool) (s : State) : Host.Outcome State Fault Refusal :=
  if !s.linkOn l || s.linkState l != 1 then .next s
  else
    let s := s.at_ ((s.link l).tryAt + 100 * tickUs)
    let s := s.putLink l { s.link l with tryAt := s.tm.now }
    .next (if found then s.toLink l 2 else s)

/-- LINK_TRAINING_DONE: phase lock on every lane, with the peaking each lane has adapted to (R391, R398). -/
def execLinkTrainingDone (l : Nat) (ctle : List Nat) (s : State) : Host.Outcome State Fault Refusal :=
  if !s.linkOn l || s.linkState l != 2 || s.rawTap l then .next s
  else
    let s := s.forEach (List.range 4) (fun s k =>
      let v := if s.fb (WFL_LANE_CFG l k) WFL_LANE_CFG_CTLE_MAN then s.f (WFL_LANE_CFG l k) WFL_LANE_CFG_CTLE
        else ctle.getD k 0
      (s.setF (WFL_LANE_STAT l k) WFL_LANE_STAT_CTLE v).setF (WFL_LANE_STAT l k) WFL_LANE_STAT_PHASE_LOCK 1)
    .next (s.toLink l 3)

/-- Whether every lane of a link has block lock. -/
def State.allLocked (s : State) (l : Nat) : Bool :=
  (List.range 4).all (fun k => s.fb (WFL_LANE_STAT l k) WFL_LANE_STAT_BLOCK_LOCK)

/-- The states in which a loss of lock returns a link to TRAIN (R398). -/
def lockedState (st : Nat) : Bool := decide (3 ≤ st) && decide (st ≤ 8)

/-- BLOCK_LOCK: a lane gains or loses block lock after so many invalid headers, of which some are stuff errors (R394, R395). -/
def execBlockLock (l k : Nat) (lock : Bool) (bad stuff : Nat) (s : State) : Host.Outcome State Fault Refusal :=
  if !s.linkOn l || decide (4 ≤ k) || !lockedState (s.linkState l) || s.rawTap l then .next s
  else
    let s := (s.addSat (WFL_CNT_B l) WFL_CNT_B_HDR bad).addSat (WFL_CNT_B l) WFL_CNT_B_STUFF stuff
    let s := s.setF (WFL_LANE_STAT l k) WFL_LANE_STAT_BLOCK_LOCK (b2n lock)
    .next (if !lock then s.toLink l 2 else if s.linkState l = 3 ∧ s.allLocked l then s.toLink l 4 else s)

/-- Whether two consecutive ALIGN sets agree, with the delays within what a lane can absorb (R396, R398). [DEDUCED, log 88] -/
def alignAgrees (old : Option (Nat × List Nat)) (count : Nat) (skew : List Nat) : Bool :=
  match old with
  | some (c, sk) => count % 2 ^ 32 == (c + 1) % 2 ^ 32 && sk == skew && skew.all (fun x => decide (x < 64))
  | none => false

/-- ALIGN_RECEIVE: an ALIGN set on all four lanes, with its count and the delay each lane needs (R396, R398). -/
def execAlignReceive (l count : Nat) (skew : List Nat) (s : State) : Host.Outcome State Fault Refusal :=
  let st := s.linkState l
  if !s.linkOn l || decide (st < 4) || decide (8 < st) || s.rawTap l then .next s
  else
    let old := (s.link l).align
    let s := s.putLink l { s.link l with align := some (count, skew) }
    if st = 4 then
      let s := s.toLink l 5
      .next (s.putLink l { s.link l with align := some (count, skew) })
    else
      let s := s.forEach (List.range 4) (fun s k => s.setF (WFL_LANE_STAT l k) WFL_LANE_STAT_SKEW (skew.getD k 0))
      .next (if st = 5 ∧ alignAgrees old count skew then s.toLink l 6 else s)

/-- LINK_BRINGUP_TIMEOUT: 10 ms of bring-up without a CAPX pair (R398). -/
def execLinkBringupTimeout (l : Nat) (s : State) : Host.Outcome State Fault Refusal :=
  if !s.linkOn l || !bringUp (s.linkState l) || s.rawTap l then .next s
  else
    let s := s.at_ ((s.link l).upAt + 10 * tickMs)
    .next ((s.toLink l 1).addSat (WFL_STATE l) WFL_STATE_RETRIES 1)

/-- LINK_LOCK_LOSS: phase lock is lost on some lanes, or an ALIGN is misplaced; a message being received is discarded (R398). -/
def execLinkLockLoss (l : Nat) (receiving : Bool) (s : State) : Host.Outcome State Fault Refusal :=
  let st := s.linkState l
  if !s.linkOn l || !lockedState st || s.rawTap l then .next s
  else
    let s := if receiving && st == 7 then s.addSat (WFL_CNT_A l) WFL_CNT_A_CRC 1 else s
    .next (s.toLink l 2)

/-- RAWTAP_ACTIVE: a RAWTAP link has sent KEEPALIVE blocks for 1 ms in TRAIN (R399). -/
def execRawtapActive (l : Nat) (s : State) : Host.Outcome State Fault Refusal :=
  if !s.linkOn l || s.linkState l != 2 || !s.rawTap l then .next s
  else .next ((s.at_ ((s.link l).since + tickMs)).toLink l 7)

/-! ### Capability exchange (R400–R402, R406) -/

/-- A CAPX pair as this device sends it on a link (R400). -/
def State.capx (s : State) (l : Nat) : List Byte :=
  let b0 := leBytes 1 1 ++ leBytes 1 s.variant ++ leBytes 1 (s.f GLB_BEHAVIOUR GLB_BEHAVIOUR_LEVEL)
    ++ wordBytes (s.rd (GLB_SERIAL 0)) ++ wordBytes (s.rd (GLB_SERIAL 1))
    ++ leBytes 1 (s.index + 16 * s.casRole + 64 * s.topology)
    ++ leBytes 1 (l + 4 * b2n (s.rawTap l) + 16 * s.f HNG_ID HNG_ID_HOPS)
  let b1 := wordBytes (s.rd HNG_EPOCH) ++ wordBytes (s.rd HNG_TABLE_ID)
    ++ leBytes 1 (s.linkState l + 16 * s.f (WFL_STATE l) WFL_STATE_QCAUSE) ++ leBytes 1 s.dev.code
  ctlBlock 0x40 b0 ++ ctlBlock 0x41 b1

/-- A link sends its CAPX pair. -/
def State.sendCapx (s : State) (l : Nat) : State :=
  if s.linkOn l && [6, 7, 8].contains (s.linkState l) && !s.rawTap l then
    let s := s.putLink l { s.link l with capxAt := s.tm.now }
    s.sendBlock l (s.capx l)
  else s

/-- CAPX_SEND: the next pair, every 100 µs in CAPX and every 1 ms otherwise (R400). -/
def execCapxSend (l : Nat) (s : State) : Host.Outcome State Fault Refusal :=
  if s.linkOn l && [6, 7, 8].contains (s.linkState l) && !s.rawTap l then
    .next ((s.at_ ((s.link l).capxAt + (if s.linkState l = 6 then 100 * tickUs else tickMs))).sendCapx l)
  else .next s

/-- Whether R406 allows the pairing of a link with its partner's link. -/
def State.pairs (s : State) (l : Nat) : Bool :=
  let prole := s.pcapByte l 12 / 16 % 4
  let ptopo := s.pcapByte l 12 / 64
  let plink := s.pcapByte l 13 % 4
  (s.isDown l && prole == 2 && plink == 0)
    || (s.isMember && l == 0 && (downLinks prole ptopo).contains plink)

/-- The outcome of R401 on the last pair received: the state, and the QCAUSE of a quarantine. [DEDUCED, log 89] -/
def State.capxOutcome (s : State) (l : Nat) : Nat × Nat :=
  let b := s.pcapByte l
  if b 1 ≠ 1 then (8, 5)
  else if s.casRole = 0 ∨ b 12 / 16 % 4 = 0 ∨ (b 13 / 4 % 2 = 1) ≠ (s.rawTap l = true) then (8, 3)
  else if b 12 % 8 = s.index then (8, 2)
  else if b 12 / 64 ≠ s.topology ∨ !s.pairs l then (8, 3)
  else if (s.rd (WFL_PCAP l 4)).toNat / 2 ^ 8 + b 20 * 2 ^ 24 ≠ (s.rd HNG_EPOCH).toNat then (8, 1)
  else if b 3 ≠ s.f GLB_BEHAVIOUR GLB_BEHAVIOUR_LEVEL then (8, 4)
  else if (s.isMember ∧ l = 0 ∧ b 13 / 16 = 15) ∨ (s.isMember ∧ s.isDown l ∧ !s.hopsKnown) then (6, 0)
  else (7, 0)

/-- CAPX_PAIR_RECEIVE: a good CAPX0 and CAPX1, 16 bytes each, and the outcome of R401 (R400–R402, R407). -/
def execCapxPairReceive (l : Nat) (capx0 capx1 : List Byte) (s : State) : Host.Outcome State Fault Refusal :=
  if !s.linkOn l || !([6, 7, 8] : List Nat).contains (s.linkState l) || s.rawTap l then .next s
  else
    let s := s.forEach (List.range 4) (fun s j =>
      (s.wr (WFL_PCAP l j) (BitVec.ofNat 32 (leAt capx0 (4 * j) 4))).wr (WFL_PCAP l (4 + j))
        (BitVec.ofNat 32 (leAt capx1 (4 * j) 4)))
    let s := s.putLink l { s.link l with upAt := s.tm.now }
    let (st, q) := s.capxOutcome l
    let s := if st = 6 then s else s.setF (WFL_STATE l) WFL_STATE_QCAUSE q
    .next ((s.toLink l st).setHops.lostUp)

/-! ### Control blocks and flow control (R392, R397, R411) -/

/-- The TYPE codes of control blocks. -/
def ctlTypes : List Nat := [0x00, 0x1E, 0x2D, 0x40, 0x41, 0x50, 0x51, 0x60, 0x61, 0x70, 0x71, 0x80, 0x81, 0x82]

/-- XOFF in force towards a link's partner ends, or its own: the time one of them began. [DEDUCED, log 90] -/
def State.xoffSync (s : State) (l : Nat) : State :=
  if s.fb (WFL_STATUS l) WFL_STATUS_TX_XOFF || s.fb (WFL_STATUS l) WFL_STATUS_RX_XOFF then
    match (s.link l).xoffAt with
    | some _ => s
    | none => s.putLink l { s.link l with xoffAt := some s.tm.now }
  else s.putLink l { s.link l with xoffAt := none }

/-- The partner's XON: messages that waited are sent (R409, R411). -/
def State.xon (s : State) (l : Nat) : State :=
  let q := (s.link l).txq
  let s := s.setF (WFL_STATUS l) WFL_STATUS_TX_XOFF 0
  let s := s.putLink l { s.link l with txq := [] }
  s.forEach q (fun s m => s.sendNow l m)

/-- CONTROL_BLOCK_RECEIVE: a control block's CRC-8 and TYPE are checked, and XOFF and XON take effect (R392, R411). -/
def execControlBlockReceive (l : Nat) (block : List Byte) (s : State) : Host.Outcome State Fault Refusal :=
  if !s.linkOn l || decide (s.linkState l < 4) || decide (8 < s.linkState l) || s.rawTap l then .next s
  else
    let typ := leAt block 0 1
    if crc8 (block.take 15) ≠ leAt block 15 1 ∨ !ctlTypes.contains typ then .next (s.addSat (WFL_CNT_A l) WFL_CNT_A_CTLBAD 1)
    else if s.linkState l ≠ 7 then .next s
    else if typ = 0x51 then .next ((s.setF (WFL_STATUS l) WFL_STATUS_TX_XOFF 1).xoffSync l)
    else if typ = 0x50 then .next ((s.xon l).xoffSync l)
    else .next s

/-- XOFF: the receive crossing holds so many blocks (R411). -/
def execXoff (l fill : Nat) (s : State) : Host.Outcome State Fault Refusal :=
  if !s.linkActive l || s.rawTap l || decide (4 ≤ l) then .next s
  else
    let on := s.fb (WFL_STATUS l) WFL_STATUS_RX_XOFF
    if 40 ≤ fill ∧ !on then
      .next (((s.setF (WFL_STATUS l) WFL_STATUS_RX_XOFF 1).sendBlock l (ctlBlock 0x51 [])).xoffSync l)
    else if fill ≤ 16 ∧ on then
      .next (((s.setF (WFL_STATUS l) WFL_STATUS_RX_XOFF 0).sendBlock l (ctlBlock 0x50 [])).xoffSync l)
    else .next s

/-- XOFF_HELD_LONG: an XOFF has been held for more than 1 ms (R411). -/
def execXoffHeldLong (l : Nat) (s : State) : Host.Outcome State Fault Refusal :=
  match (s.link l).xoffAt with
  | none => .next s
  | some t => .next ((s.at_ (t + tickMs + 1)).setF (WFL_STATUS l) WFL_STATUS_XOFF_LONG 1)

/-- IDLE_FREEZE: 256 consecutive IDLE blocks on a lane freeze its adaptation (R397). -/
def execIdleFreeze (l k : Nat) (s : State) : Host.Outcome State Fault Refusal :=
  if !s.linkOn l || decide (4 ≤ k) || !lockedState (s.linkState l) || s.rawTap l then .next s
  else .next (s.setF (WFL_LANE_STAT l k) WFL_LANE_STAT_FROZEN 1)

/-- KEEPALIVE_SEND: while a lane of the partner is frozen, one KEEPALIVE on each lane every 1 ms (R397). -/
def execKeepaliveSend (l : Nat) (s : State) : Host.Outcome State Fault Refusal :=
  if !s.linkOn l || !lockedState (s.linkState l) || s.rawTap l then .next s
  else
    let s := s.at_ ((s.link l).kaAt + tickMs)
    let s := s.putLink l { s.link l with kaAt := s.tm.now }
    .next (s.sendBlock l (ctlBlock 0x2D (List.replicate 14 0xA5)))

/-- The data blocks of a received body clear FROZEN of the lanes they arrive on; which lane comes first the spec leaves open
(R392, R397). -/
def State.unfreeze (s : State) (l n : Nat) : State :=
  let blocks := Nat.min 4 ((n + 15) / 16)
  let (v, s) := s.openNat (WFL_LANE_STAT l 0)
  s.forEach (List.range blocks) (fun s i => s.setF (WFL_LANE_STAT l ((v + i) % 4)) WFL_LANE_STAT_FROZEN 0)

/-! ### Link commands (R422–R424, R428) -/

/-- LINK_STATUS (R428). -/
def execLinkStatus (q : Req) (p : List Byte) (s : State) : Host.Outcome State Fault Refusal :=
  .next (s.fixed q 0x0800 p 4
    (fun s => [ par (!s.linkOn (fld p 16 1)) 16, par (firstNonZero p 17 3) 17 ])
    (fun s =>
      let l := fld p 16 1
      s.replyOk q 0x0800 (wordBytes (s.rd (WFL_STATE l)) ++ (List.range 8).flatMap (fun j => wordBytes (s.rd (WFL_PCAP l j)))
        ++ (List.range 4).flatMap (fun k => wordBytes (s.rd (WFL_LANE_STAT l k))))))

/-- LINK_TRAIN (R398, R428). -/
def execLinkTrain (q : Req) (p : List Byte) (s : State) : Host.Outcome State Fault Refusal :=
  .next (s.fixed q 0x0801 p 4
    (fun s => [ par ((bitsSet 8 (fld p 16 1)).any (fun l => !s.linkOn l)) 16, par (firstNonZero p 17 3) 17 ])
    (fun s =>
      let s := s.forEach (bitsSet 4 (fld p 16 1)) (fun s l => (s.setF (WFL_CTRL l) WFL_CTRL_EN 1).startLink l)
      s.reply q 0x0801 stOk 0))

/-- LINK_RELEASE (R398, R428). -/
def execLinkRelease (q : Req) (p : List Byte) (s : State) : Host.Outcome State Fault Refusal :=
  .next (s.fixed q 0x0802 p 4
    (fun s => [ par (!s.linkOn (fld p 16 1)) 16, par (firstNonZero p 17 3) 17 ])
    (fun s => ((s.setF (WFL_CTRL (fld p 16 1)) WFL_CTRL_EN 0).toLink (fld p 16 1) 0).reply q 0x0802 stOk 0))

/-- The checks of LINK_TEST (R422). -/
def State.linkTestChecks (s : State) (p : List Byte) : List Check :=
  let l := fld p 16 1
  let kind := fld p 17 1
  let dur := fld p 20 4
  [ par (decide (3 < l)) 16, par (decide (4 < kind)) 17,
    par (decide (fld p 18 1 = 0 ∨ 16 ≤ fld p 18 1)) 18, par (firstNonZero p 19 1) 19,
    par (if kind = 4 then decide (dur ≠ 0) else decide (dur = 0 ∨ 60000 < dur)) 20,
    chk (!s.linkOn l || (decide (kind ≠ 4) && (s.scanning || s.dev == .hold))) stRefused,
    chk (s.jobOf 0x0804) stBusy ]

/-- Start an accepted link test: a PRBS test puts a link that is not DOWN into TEST (R398, R423, R424). [DEDUCED, log 93] -/
def State.linkTest (s : State) (q : Req) (p : List Byte) : State :=
  s.fixed q 0x0804 p 8 (fun s => s.linkTestChecks p) (fun s =>
    let l := fld p 16 1
    let kind := fld p 17 1
    let lanes := bitsSet 4 (fld p 18 1)
    let dur := if kind = 4 then lanes.length * 8400 * tickUs else fld p 20 4 * tickMs
    let s := (s.reply q 0x0804 stDeferred 0).addJob { req := q, opc := 0x0804, arg := l }
    let s := (s.setF (WFL_TEST l) WFL_TEST_KIND kind).setF (WFL_TEST l) WFL_TEST_RUN 1
    let s := if kind = 4 then s
      else
        let s := s.forEach lanes (fun s k => ((s.wr (WFL_LANE_ERR l k) 0).wr (WFL_LANE_BITS_LO l k) 0).wr (WFL_LANE_BITS_HI l k) 0)
        if s.linkState l = 0 then s else s.toLink l 9
    s.putLink l { s.link l with test := some (kind, fld p 18 1, s.tm.now + dur) })

/-- LINK_TEST_PRBS (R422, R423). -/
def execLinkTestPrbs (q : Req) (p : List Byte) (s : State) : Host.Outcome State Fault Refusal := .next (s.linkTest q p)

/-- LINK_TEST_MARGIN (R422, R424). -/
def execLinkTestMargin (q : Req) (p : List Byte) (s : State) : Host.Outcome State Fault Refusal := .next (s.linkTest q p)

/-- Load the result of one lane, and its 16-byte record: errors, bits and LOCK of a PRBS test, or EW, EH and centre phase (R422). -/
def State.laneResult (s : State) (l kind k a b c : Nat) : List Byte × State :=
  if kind = 4 then
    let s := (s.setF (WFL_LANE_EYE l k) WFL_LANE_EYE_EW a).setF (WFL_LANE_EYE l k) WFL_LANE_EYE_EH b
    (leBytes 1 a ++ zeros 1 ++ leBytes 2 b ++ leBytes 1 c ++ zeros 11, s)
  else
    let e := (s.rd (WFL_LANE_ERR l k)).toNat + a
    let n := s.rd64 (WFL_LANE_BITS_LO l k) (WFL_LANE_BITS_HI l k) + b
    let s := (s.wr (WFL_LANE_ERR l k) (BitVec.ofNat 32 e)).wr64 (WFL_LANE_BITS_LO l k) (WFL_LANE_BITS_HI l k) n
    (leBytes 4 e ++ leBytes 8 n ++ leBytes 1 (c % 2) ++ zeros 3, s)

/-- The records of all lanes, zeros for lanes not named. -/
def State.laneResults (l kind lanes : Nat) (r : List (Nat × Nat × Nat)) : List Nat → List Byte × State → List Byte × State
  | [], x => x
  | k :: ks, (bs, s) =>
    let (b, s) := if bit lanes k then s.laneResult l kind k (r.getD k (0, 0, 0)).1 (r.getD k (0, 0, 0)).2.1 (r.getD k (0, 0, 0)).2.2
      else (zeros 16, s)
    State.laneResults l kind lanes r ks (bs ++ b, s)

/-- LINK_TEST_DONE: a link's test ends with three figures for each lane (R422–R424). -/
def execLinkTestDone (l : Nat) (r : List (Nat × Nat × Nat)) (s : State) : Host.Outcome State Fault Refusal :=
  match (s.link l).test with
  | none => .next s
  | some (kind, lanes, t) =>
    let s := s.at_ t
    let s := s.putLink l { s.link l with test := none }
    let s := s.setF (WFL_TEST l) WFL_TEST_RUN 0
    let (data, s) := State.laneResults l kind lanes r [0, 1, 2, 3] ([], s)
    let s := if s.linkState l = 9 then s.toLink l 1 else s
    .next (s.finishJobs 0x0804 stOk 0 data)

/-- A write of WFL_TEST.INJ inverts one bit on each lane it names: of the sequence at once in TEST, else of the next data block;
INJ returns to 0 (R423). [DEDUCED, log 90] -/
def State.linkInject (s : State) (l mask : Nat) : State :=
  if s.linkState l = 9 then s else s.putLink l { s.link l with inj := (s.link l).inj ||| mask % 16 }

/-- A write of WFL_CNT_CLR.ALL clears the counters of a link (R431). -/
def State.wflClear (s : State) (l : Nat) : State :=
  let s := s.forEach [WFL_CNT_A l, WFL_CNT_B l, WFL_CNT_RX l, WFL_CNT_TX l] (fun s a => s.wr a 0)
  let s := s.setF (WFL_STATE l) WFL_STATE_RETRIES 0
  s.forEach (List.range 4) (fun s k =>
    ((s.wr (WFL_LANE_ERR l k) 0).wr (WFL_LANE_BITS_LO l k) 0).wr (WFL_LANE_BITS_HI l k) 0)

end Sys2Proof.Machine
end

