-- ==== Sys2Proof/Machine/Cascade.lean ====
section
/-! DEFINITION. The cascade (chapter 15): messages, the shared warp table, FRAME and STATUS, forwarded columns, cascade time, the Hinge
bus, remote reads and the raw tap (R403–R421, R425–R427). -/

namespace Sys2Proof.Machine

open Reg

/-! ### Receiving a message (R408, R409) -/

/-- What a link does with a message it has received: forward it, count it, and act on it when its CRC is good. -/
def State.receive (s : State) (l : Nat) (m : Msg) (act : State → State) : State :=
  if !s.linkActive l || s.rawTap l || decide (4 ≤ l) then s
  else
    let down := s.isMember && l == 0
    let s := s.unfreeze l m.body.length
    let s := if down then s.sendDown m else if s.isMember && s.isDown l then s.sendMsg 0 m else s
    if !m.crcOk then s.addSat (WFL_CNT_A l) WFL_CNT_A_CRC 1 else act (s.addWrap (WFL_CNT_RX l) WFL_CNT_RX_MSGS 1)

/-- Whether a link is a member's upstream link, from which downstream messages come. -/
def State.fromHead (s : State) (l : Nat) : Bool := s.isMember && l == 0

/-- Whether a link brings upstream messages to the head. -/
def State.toHead (s : State) (l : Nat) : Bool := s.isHead && s.isDown l

/-! ### The warp table (R410, R412) -/

/-- The head sends its active copy to all members. [DEDUCED, log 91] -/
def State.sendWarp (s : State) : State :=
  if !s.isHead then s
  else
    let s := s.setF HNG_CAS_STAT HNG_CAS_STAT_WREJ 0
    s.sendDown { cls := 1, src := 0, dst := 0,
                 hdr := leBytes 4 (s.rd HNG_TABLE_ID).toNat ++ leBytes 2 s.columns ++ zeros 2,
                 body := s.bytes warpActive (16 * s.columns) }

/-- A copy of the staging table into the active copy, which a head then sends to its members (R20, R135, R412). -/
def State.warpInstall (s : State) : State := s.warpCopy.sendWarp

/-- A member installs a received table as its active copy when it passes R134 with the member's own settings (R412). [DEDUCED, log 91] -/
def State.takeWarp (s : State) (columns : Nat) (body : List Byte) : State :=
  if !s.domOn 11 then { s with cas := { s.cas with refused := some 0 } }
  else
    let t := (s.clearMem warpActive (warpActive + 0x10000)).setBytes warpActive (body.take 0x10000)
    match t.warpCheck warpActive columns t.window t.binB with
    | some r => { s.warpFail r with cas := { s.cas with refused := some r.1 } }
    | none =>
      let t := (t.setF FIR_WARP_ACT FIR_WARP_ACT_COLUMNS columns).addWrap FIR_WARP_ACT FIR_WARP_ACT_COMMITS 1
      let t := (t.wr FIR_COMMIT_STAT 0).setF FIR_WARP_ACT FIR_WARP_ACT_COLUMNS columns
      { (t.setF HNG_TABLE_ID HNG_TABLE_ID_ID t.tableId) with cas := { s.cas with refused := none } }

/-- WARP: a member receives the head's table and answers with STATUS (R410, R412). -/
def execWarp (l src dst : Nat) (hdr body : List Byte) (crcOk : Bool) (s : State) : Host.Outcome State Fault Refusal :=
  .next (s.receive l ⟨1, src, dst, hdr, body, crcOk⟩ (fun s =>
    if s.fromHead l then (s.takeWarp (leAt hdr 4 2) body).sendStatus else s))

/-! ### FRAME (R413, R414) -/

/-- The shot count and ALLOC_CUT of every column of the next frame. -/
def State.frameCounts (s : State) : List (Nat × Bool) :=
  (List.range s.columns).map (fun i =>
    let e := s.active i
    if e.alloc && e.shots != 0 then
      match (s.fir.nextCounts.getD []).find? (fun x => x.1 == i) with
      | some x => x.2
      | none => (e.shots, false)
    else (e.shots, false))

/-- The reachable members of a head. -/
def State.reachable (s : State) : List Nat := bitsSet 8 (s.f HNG_CAS_STAT HNG_CAS_STAT_REACH)

/-- The wait for acknowledgements ends early once every reachable member has given one (R413). -/
def State.awaitCheck (s : State) : State :=
  match s.cas.await with
  | none => s
  | some (_, acks) =>
    if s.reachable.all acks.contains then
      { s.setF HNG_CAS_STAT HNG_CAS_STAT_LAG 0 with cas := { s.cas with await := none } }
    else s

/-- The time at which the wait of R413 ends: 50 µs from the later of the send and the start of the gap. -/
def State.awaitEnd (s : State) : Nat :=
  Nat.max s.tm.now (match s.fir.frameEnd with | some e => if s.fir.frameOpen then s.tm.now else e | none => 0) + 50 * tickUs

/-- The head sends FRAME for the next frame (R413). -/
def State.sendFrame (s : State) : State :=
  if !s.isHead then s
  else
    let n := s.nextFrame
    let body := s.frameCounts.flatMap (fun x => leBytes 2 (x.1 % 256 + 256 * b2n x.2))
    let s := { s with cas := { s.cas with sent := some n, await := some (s.awaitEnd, []), due := false } }
    let s := s.sendDown { cls := 2, src := 0, dst := 0, hdr := leBytes 4 n ++ leBytes 4 (s.rd HNG_TABLE_ID).toNat, body := body }
    s.awaitCheck

/-- FRAME: a member receives the counts of the next frame and acknowledges them with STATUS (R412, R414). -/
def execFrame (l src dst : Nat) (hdr body : List Byte) (crcOk : Bool) (s : State) : Host.Outcome State Fault Refusal :=
  .next (s.receive l ⟨2, src, dst, hdr, body, crcOk⟩ (fun s =>
    if !s.fromHead l then s
    else
      let counts := (List.range (body.length / 2)).map (fun i =>
        let w := leAt body (2 * i) 2
        (w % 256, w / 256 % 2 == 1))
      let s := { s with cas := { s.cas with held := some (leAt hdr 0 4, leAt hdr 4 4, counts), ack := leAt hdr 0 4 } }
      s.sendStatus))

/-- FRAME_ACK_TIMEOUT: the head's wait for acknowledgements ends without every one (R413, R429). -/
def execFrameAckTimeout (s : State) : Host.Outcome State Fault Refusal :=
  match s.cas.await with
  | none => .next s
  | some (t, acks) =>
    let s := s.at_ t
    let late := s.reachable.filter (fun m => !acks.contains m)
    let s := { s with cas := { s.cas with await := none } }
    let s := (s.setF HNG_CAS_STAT HNG_CAS_STAT_LAG (bitsOf late)).addSat HNG_CNT HNG_CNT_LATE 1
    .next (s.forEach late (fun s m => s.raiseLink 5 0 0 0 m))

/-- ALLOCATION: the counts of the frame ahead; a head then sends FRAME (R218–R221, R413). -/
def execAllocation (s : State) : Host.Outcome State Fault Refusal :=
  if s.isMember then .next { s with fir := { s.fir with allocDue := false } }
  else
    let ran := s.fir.allocDue
    let s := if ran then s.allocate else s
    .next (if (ran || s.cas.due) && s.scanning then s.sendFrame else s)

/-! ### STATUS (R410, R412, R415) -/

/-- The expected members of a head. -/
def State.expected (s : State) : List Nat := bitsSet 8 (s.f HNG_CAS_CFG HNG_CAS_CFG_MEMBERS)

/-- What a head knows of a member. -/
def State.member (s : State) (m : Nat) : Option Member := Sp.find s.cas.members m

/-- Whether a bit is set in a member's last STATUS word. -/
def State.memberBit (s : State) (m i : Nat) : Bool :=
  match s.member m with
  | some x => bit x.word i
  | none => false

/-- READY of a head, with its event when it rises (R429). -/
def State.readyCheck (s : State) : State :=
  if !s.isHead then s
  else
    let r := s.expected.all (fun m => s.reachable.contains m && s.memberBit m 14)
      && s.fb HNG_CAS_STAT HNG_CAS_STAT_HCAL_DONE
    let old := s.fb HNG_CAS_STAT HNG_CAS_STAT_READY
    let s := s.setF HNG_CAS_STAT HNG_CAS_STAT_READY (b2n r)
    if r && !old then s.raiseLink 3 0 0 0 0 else s

/-- A head learns a member's STATUS. -/
def State.noteMember (s : State) (m : Nat) (x : Member) (room : List Byte) : State :=
  let reach := s.f HNG_CAS_STAT HNG_CAS_STAT_REACH
  let cells := room.flatMap (fun b => [b.toNat % 16, b.toNat / 16])
  let s := { s with cas := { s.cas with members := Sp.ins s.cas.members m x, thr := Sp.ins s.cas.thr m (x.word % 16),
                                        headroom := Sp.ins s.cas.headroom m cells,
                                        hcalDue := s.cas.hcalDue || !bit reach m } }
  s.setF HNG_CAS_STAT HNG_CAS_STAT_REACH (reach ||| 2 ^ m)

/-- A refusal that a STATUS shows (R412). -/
def State.noteRefusal (s : State) (m word : Nat) : State :=
  let wrej := s.f HNG_CAS_STAT HNG_CAS_STAT_WREJ
  if !bit word 9 then s.setF HNG_CAS_STAT HNG_CAS_STAT_WREJ (wrej - (wrej &&& 2 ^ m))
  else if bit wrej m then s
  else (s.setF HNG_CAS_STAT HNG_CAS_STAT_WREJ (wrej ||| 2 ^ m)).raiseLink 4 0 0 0 m

/-- An acknowledgement that a STATUS gives (R413). -/
def State.noteAck (s : State) (m : Nat) (x : Member) : State :=
  match s.cas.await with
  | none => s
  | some (t, acks) =>
    if some x.ack = s.cas.sent ∧ x.tableId = (s.rd HNG_TABLE_ID).toNat then
      State.awaitCheck { s with cas := { s.cas with await := some (t, m :: acks) } }
    else s

/-- STATUS: the head receives a member's STATUS (R412, R413, R415, R419, R429). -/
def execStatus (l src dst : Nat) (hdr body : List Byte) (crcOk : Bool) (s : State) : Host.Outcome State Fault Refusal :=
  .next (s.receive l ⟨3, src, dst, hdr, body, crcOk⟩ (fun s =>
    if !s.toHead l || decide (src = 0 ∨ 8 ≤ src) then s
    else
      let failed := s.memberBit src 15
      let x : Member := { seen := s.tm.now, tableId := leAt hdr 0 4, ack := leAt hdr 4 4, word := leAt body 0 4 }
      let s := ((s.noteMember src x (body.drop 4)).noteRefusal src x.word).noteAck src x
      let s := if bit x.word 15 && !failed then s.raiseLink 6 0 0 0 src else s
      s.readyCheck))

/-- STATUS_PERIODIC: a member sends STATUS 10 ms after its last (R412). -/
def execStatusPeriodic (s : State) : Host.Outcome State Fault Refusal :=
  if !s.isMember || !s.linkActive 0 then .next s
  else .next (s.at_ (s.cas.statusAt + 10 * tickMs)).sendStatus

/-- MEMBER_UNREACHABLE: no STATUS from a member for 20 ms (R412). -/
def execMemberUnreachable (m : Nat) (s : State) : Host.Outcome State Fault Refusal :=
  let reach := s.f HNG_CAS_STAT HNG_CAS_STAT_REACH
  match s.member m with
  | none => .next s
  | some x =>
    if !bit reach m then .next s
    else
      let s := s.at_ (x.seen + 20 * tickMs)
      let s := s.setF HNG_CAS_STAT HNG_CAS_STAT_REACH (reach - 2 ^ m)
      let s := { s with cas := { s.cas with thr := Sp.del s.cas.thr m, headroom := Sp.del s.cas.headroom m } }
      .next s.awaitCheck.readyCheck

/-! ### Cascade time (R418) -/

/-- The signed difference of two stamps modulo 2^48. -/
def diff48 (a b : Nat) : Int := sx 48 (((a : Int) - b) % (2 ^ 48 : Nat)).toNat

/-- ofs_a of the filter. -/
def State.casOfsA (s : State) : Int := sx 64 (s.rd64 HNG_CAS_OFS_LO HNG_CAS_OFS_HI)

/-- The cascade offset at a TBS time; 0 on a head (R418). -/
def State.casOfs (s : State) (t : Nat) : Int :=
  if s.isHead then 0 else s.casOfsA + asr (s.cas.rate * diff48 t s.cas.ta) 32

/-- A TBS time in cascade time. -/
def State.casTime (s : State) (t : Nat) : Nat := (((t : Int) + s.casOfs t) % (2 ^ 64 : Nat)).toNat

/-- TIME_REQ: a member sends the next request on its WL0, or a link's partner sends one, which is answered at once (R418).
[DEDUCED, log 15] -/
def execTimeReq (received : Bool) (l : Nat) (s : State) : Host.Outcome State Fault Refusal :=
  if received then
    if s.linkActive l && !s.rawTap l && decide (l < 4) then
      let t := leBytes 6 (s.casTime s.tbs)
      .next (s.sendBlock l (ctlBlock 0x71 (t ++ t)))
    else .next s
  else if !s.isMember || !s.linkActive 0 then .next s
  else
    let s := s.at_ (s.cas.reqAt + tickMs)
    let t1 := s.tbs % 2 ^ 48
    let s := { s with cas := { s.cas with reqAt := s.tm.now, t1 := some t1 } }
    .next (s.sendBlock 0 (ctlBlock 0x70 (leBytes 6 t1)))

/-- The registers that show the filter's offset and rate. -/
def State.casShow (s : State) (ofs : Int) : State :=
  let s := s.wr64 HNG_CAS_OFS_LO HNG_CAS_OFS_HI (ux 64 ofs)
  let (w, s) := s.word32 s.cas.rate
  s.wr HNG_CAS_RATE w

/-- One update of the filter of R418 with a measurement taken at t1. -/
def State.casUpdate (s : State) (t1 : Nat) (meas : Int) : State :=
  let lock := s.fb HNG_CAS_STAT HNG_CAS_STAT_TIME_LOCK
  let pred := s.casOfsA + asr (s.cas.rate * diff48 t1 s.cas.ta) 32
  let d := sx 48 ((meas - pred) % (2 ^ 48 : Nat)).toNat
  let c := s.cas
  let good := decide (d.natAbs ≤ 64)
  let (ofs, rate, outl, lock, n) : Int × Int × Nat × Bool × Int :=
    if c.n = 0 then (meas, 0, c.outl, lock, c.n)
    else if good || !lock then (pred + d.tdiv 4, c.rate + (d * 2 ^ 32).tdiv 512000000, 0, lock, c.n)
    else if 4 ≤ c.outl + 1 then (s.casOfsA, c.rate, c.outl + 1, false, -1)
    else (s.casOfsA, c.rate, c.outl + 1, lock, c.n)
  let n := n + 1
  let lock' := lock || (decide (16 ≤ n) && good)
  let old := s.fb HNG_CAS_STAT HNG_CAS_STAT_TIME_LOCK
  let s := State.casShow { s with cas := { c with rate := rate, outl := outl, n := n, ta := t1, t1 := none } } ofs
  let s := s.setF HNG_CAS_STAT HNG_CAS_STAT_TIME_LOCK (b2n lock')
  if lock' = old then s else s.sendStatus

/-- TIME_RSP: the partner's stamps t2 and t3, and the arrival stamp t4 on this device's TBS (R418). [DEDUCED, log 15] -/
def execTimeRsp (t2 t3 t4 : Nat) (s : State) : Host.Outcome State Fault Refusal :=
  match s.cas.t1 with
  | none => .next s
  | some t1 =>
    if !s.isMember || !s.linkActive 0 then .next s
    else
      let s := s.at_ (s.tm.now + (t4 - s.tbs))
      .next (s.casUpdate t1 (diff48 t2 t1 - (diff48 t4 t1 - diff48 t3 t2).tdiv 2))

/-! ### Merged streams (R410, R417) -/

/-- A member forwards an output column to the head with its T_FIRST on the head's TBS (R417). -/
def State.forwardColumn (s : State) (o : OutCol) : State :=
  if !s.isMember || !s.fb HNG_CAS_CFG HNG_CAS_CFG_FWD_PTS then s
  else if !s.fb HNG_CAS_STAT HNG_CAS_STAT_TIME_LOCK then s.addSat HNG_CNT2 HNG_CNT2_UNLOCKED 1
  else
    let t := leAt o.header 8 8
    let hdr := o.header.take 8 ++ leBytes 8 (s.casTime t) ++ o.header.drop 16
    s.sendMsg 0 { cls := 4, src := s.index, dst := 0, hdr := leBytes 4 o.frame ++ leBytes 2 o.records.length ++ zeros 2,
                  body := hdr ++ o.records.flatMap id }

/-- The records of a POINTS body. -/
def bodyRecords (body : List Byte) : List (List Byte) :=
  (List.range ((body.length - 32) / 12)).map (fun i => slice body (32 + 12 * i) 12)

/-- POINTS: the head receives a forwarded column and packs it into its stream (R417). -/
def execPoints (l src dst : Nat) (hdr body : List Byte) (crcOk : Bool) (s : State) : Host.Outcome State Fault Refusal :=
  .next (s.receive l ⟨4, src, dst, hdr, body, crcOk⟩ (fun s =>
    if s.toHead l then s.packColumn (body.take 32) (bodyRecords body) else s))

/-! ### Remote reads (R421) -/

/-- The member's own window address of an offset in a remote window; `none` for a reserved offset. -/
def remoteOffset (off : Nat) : Option Nat :=
  if off < 0xC00000 then some (0x10000000 + off)
  else if 0x1000000 ≤ off ∧ off < 0x1600000 then some (0x20000000 + (off - 0x1000000))
  else none

/-- Whether a member appears in a QMASK or as the partner of a link of the head in QUARANTINE. -/
def State.quarantined (s : State) (m : Nat) : Bool :=
  bit s.qmask m || s.reachable.any (fun k => s.memberBit k (16 + m))

/-- The checks of a MEM_READ of a member's window on the head; elsewhere no access is allowed. [DEDUCED, log 87] -/
def State.remoteChecks (s : State) (m : Nat) : List Check :=
  let there := s.reachable.contains m
  [ par (!s.isHead) 16, chk (!there && s.quarantined m) stQuarantine, par (!there) 16 ]

/-- Send READ_REQ to a member; the reply waits for READ_RSP or 2 ms. A reserved offset reads 0. -/
def State.remoteRead (s : State) (q : Req) (m off n : Nat) : State :=
  match remoteOffset off with
  | none => s.replyOk q 0x0203 (zeros n)
  | some a =>
    let s := { s with cas := { s.cas with reads := s.cas.reads ++ [(q, m, s.tm.now + 2 * tickMs)] } }
    s.sendDown { cls := 5, src := 0, dst := m, hdr := leBytes 4 a ++ leBytes 4 n, body := [] }

/-- READ_REQ: a member executes a remote read under its own rules and answers with READ_RSP (R421). -/
def execReadReq (l src dst : Nat) (hdr body : List Byte) (crcOk : Bool) (s : State) : Host.Outcome State Fault Refusal :=
  .next (s.receive l ⟨5, src, dst, hdr, body, crcOk⟩ (fun s =>
    if !s.fromHead l || dst != s.index then s
    else
      let a := leAt hdr 0 4
      let n := leAt hdr 4 4
      let (st, det, data, s) := match firstBad (spanChecks a n 20 ++ s.readChecks a n) with
        | some c => (c.status, c.detail, ([] : List Byte), s)
        | none => let (b, s) := s.winRead a n; (stOk, 0, b, s)
      s.sendMsg 0 { cls := 6, src := s.index, dst := 0, hdr := leBytes 2 st ++ leBytes 2 det ++ zeros 4, body := data }))

/-- The first read under way for a member, and the others. -/
def takeRead (m : Nat) : List (Req × Nat × Nat) → Option (Req × List (Req × Nat × Nat))
  | [] => none
  | (q, k, t) :: rest =>
    if k = m then some (q, rest) else (takeRead m rest).map (fun (x : Req × List (Req × Nat × Nat)) => (x.1, (q, k, t) :: x.2))

/-- READ_RSP: the head answers MEM_READ with the member's status, DETAIL and data (R421). -/
def execReadRsp (l src dst : Nat) (hdr body : List Byte) (crcOk : Bool) (s : State) : Host.Outcome State Fault Refusal :=
  .next (s.receive l ⟨6, src, dst, hdr, body, crcOk⟩ (fun s =>
    if !s.toHead l then s
    else
      match takeRead src s.cas.reads with
      | none => s
      | some (q, rest) =>
        let s := { s with cas := { s.cas with reads := rest } }
        if leAt hdr 0 2 = stOk then s.replyOk q 0x0203 body else s.reply q 0x0203 (leAt hdr 0 2) (leAt hdr 2 2)))

/-- REMOTE_READ_TIMEOUT: 2 ms without READ_RSP (R421). -/
def execRemoteReadTimeout (s : State) : Host.Outcome State Fault Refusal :=
  match s.cas.reads with
  | [] => .next s
  | (q, _, t) :: rest =>
    .next (State.reply { s.at_ t with cas := { s.cas with reads := rest } } q 0x0203 stBusy 0)

/-! ### The Hinge bus (R419, R420) -/

/-- HINGE_CALIBRATION_START: the head sends HCAL when every member is reachable and locked (R419). -/
def execHingeCalibrationStart (s : State) : Host.Outcome State Fault Refusal :=
  if !s.isHead || !s.cas.hcalDue || !s.cas.hcalTimes.isEmpty || !(s.dev == .idle || s.dev == .primed)
      || !s.expected.all (fun m => s.reachable.contains m && s.memberBit m 8) then .next s
  else
    let t0 := s.tbs + 100 * tickUs
    let ts := (List.range 32).map (fun k => (t0 + k * 10 * tickUs) % 2 ^ 64)
    let s := { s with cas := { s.cas with hcalDue := false, hcalTimes := ts, hcalSync := [], hcalTrig := [],
                                          hcalUntil := s.tm.now + 460 * tickUs } }
    .next (s.sendDown { cls := 7, src := 0, dst := 0, hdr := leBytes 2 (s.f HNG_LAT HNG_LAT_LAT) ++ zeros 6,
                        body := ts.flatMap (leBytes 8) })

/-- HCAL: a member adopts the head's latency and takes the times of the calibration (R419). -/
def execHcal (l src dst : Nat) (hdr body : List Byte) (crcOk : Bool) (s : State) : Host.Outcome State Fault Refusal :=
  .next (s.receive l ⟨7, src, dst, hdr, body, crcOk⟩ (fun s =>
    if !s.fromHead l then s
    else
      let ts := (List.range 32).map (fun k => leAt body (8 * k) 8)
      let left := diff48 (ts.getLastD 0) (s.casTime s.tbs)
      let s := s.setF HNG_LAT HNG_LAT_LAT (leAt hdr 0 2)
      { s with cas := { s.cas with hcalTimes := ts, hcalSync := [], hcalTrig := [],
                                   hcalUntil := s.tm.now + left.toNat + 50 * tickUs } }))

/-- The differences d_k of one set of stamps (R419). -/
def State.hcalDiffs (s : State) (stamps times : List Nat) : List Int :=
  (List.range 16).map (fun k => diff48 (s.casTime (stamps.getD k 0)) (times.getD k 0))

/-- The mean of 16 differences, rounded to a tick, and their spread. [DEDUCED, log 92] -/
def meanSpread (d : List Int) : Int × Int :=
  let lo := d.foldl (fun a x => if x < a then x else a) (d.headD 0)
  let hi := d.foldl (fun a x => if a < x then x else a) (d.headD 0)
  ((2 * d.foldl (· + ·) 0 + 16) / 32, hi - lo)

/-- HINGE_CALIBRATION_END: after the last pulse, each device loads its compensation, or fails (R419, R429). -/
def execHingeCalibrationEnd (s : State) : Host.Outcome State Fault Refusal :=
  if s.cas.hcalTimes.isEmpty then .next s
  else
    let s := s.at_ s.cas.hcalUntil
    let (sy, sySp) := meanSpread (s.hcalDiffs s.cas.hcalSync (s.cas.hcalTimes.take 16))
    let (tr, trSp) := meanSpread (s.hcalDiffs s.cas.hcalTrig (s.cas.hcalTimes.drop 16))
    let bad := s.cas.hcalSync.length != 16 || s.cas.hcalTrig.length != 16 || decide (64 < sySp) || decide (64 < trSp)
      || decide ((s.f HNG_LAT HNG_LAT_LAT : Int) - sy < 1024)
    let old := s.fb HNG_CAS_STAT HNG_CAS_STAT_HCAL_DONE
    let s := { s with cas := { s.cas with hcalTimes := [], hcalSync := [], hcalTrig := [] } }
    if bad then
      let s := (s.setF HNG_CAS_STAT HNG_CAS_STAT_HCAL_FAIL 1).addSat HNG_CNT2 HNG_CNT2_HCAL_FAILS 1
      .next (if s.isHead then s.raiseLink 6 0 0 0 0 else s)
    else
      let (v, s) := s.openNat HNG_COMP
      let dly (d : Int) : Nat := if 0 ≤ d ∧ d < 65536 then d.toNat else v
      let s := (s.setF HNG_COMP HNG_COMP_SYNC_DLY (dly sy)).setF HNG_COMP HNG_COMP_TRIG_DLY (dly tr)
      let s := (s.setF HNG_CAS_STAT HNG_CAS_STAT_HCAL_DONE 1).setF HNG_CAS_STAT HNG_CAS_STAT_HCAL_FAIL 0
      .next (if old then s.readyCheck else s.sendStatus.readyCheck)

/-- Whether the pulses of a Hinge calibration are under way, so that HG_SYNC and HG_TRIG only calibrate (R419). [DEDUCED, log 92] -/
def State.hcalPulses (s : State) : Bool := decide (s.tm.now < s.cas.hcalUntil)

/-- HG_SYNC_EDGE: a rising edge stamped at a TBS time: a capture, a stamp of a calibration, or a frame-start event at the compensated
instant (R31, R388, R419, R420). -/
def execHgSyncEdge (t : Nat) (s : State) : Host.Outcome State Fault Refusal :=
  let s := (s.toTbs t).capture 2 t
  if s.hcalPulses then .next { s with cas := { s.cas with hcalSync := s.cas.hcalSync ++ [t] } }
  else .next (s.frameEvent 3 (t + s.f HNG_LAT HNG_LAT_LAT - s.f HNG_COMP HNG_COMP_SYNC_DLY))

/-- HG_TRIG_EDGE: a rising edge stamped at a TBS time: a capture, a stamp of a calibration, or a source-3 trigger at the compensated
time and a monitor trigger (R262, R291, R292, R388, R419). -/
def execHgTrigEdge (t : Nat) (s : State) : Host.Outcome State Fault Refusal :=
  let s := (s.toTbs t).capture 3 t
  if s.hcalPulses then .next { s with cas := { s.cas with hcalTrig := s.cas.hcalTrig ++ [t] } }
  else .next ((s.recTrigger 3 (t - s.f HNG_COMP HNG_COMP_TRIG_DLY)).madEvent 6 t)

/-- GPIO_EDGE: a pin's level changes at a TBS time: a capture on a rising edge, and a monitor trigger of the selected edge
(R262, R388). -/
def execGpioEdge (pin : Nat) (high : Bool) (t : Nat) (s : State) : Host.Outcome State Fault Refusal :=
  if 16 ≤ pin ∨ bit s.pin.gpioIn pin = high then .next s
  else
    let s := s.toTbs t
    let s := { s with pin := { s.pin with gpioIn := if high then s.pin.gpioIn + 2 ^ pin else s.pin.gpioIn - 2 ^ pin } }
    let s := if high then s.capture (16 + pin) t else s
    .next (if s.f MAD_TRIG MAD_TRIG_GPIO = pin ∧ s.fb MAD_TRIG MAD_TRIG_GPIO_POL = !high then s.madEvent 5 t else s)

/-! ### CASCADE_CONFIG (R403, R404) -/

/-- The checks of CASCADE_CONFIG after its state and length. -/
def State.casChecks (s : State) (p : List Byte) : List Check :=
  let role := fld p 16 1
  let mem := fld p 18 1
  [ par (decide (2 < role) || (role == 1 && s.index != 0) || (role == 2 && s.index == 0)) 16,
    par (decide (2 < fld p 17 1)) 17,
    par (if role = 1 then decide (mem % 2 = 1) else decide (mem ≠ 0)) 18,
    par (decide (2 ≤ fld p 19 1)) 19 ]

/-- HOPS and TIME_LOCK of a role: the head's are 0 and 1, and a standalone device's are unknown and 0 (R407, R418). -/
def State.casRoleSet (s : State) : State :=
  if s.isHead then
    ((s.setF HNG_ID HNG_ID_HOPS 0).setF HNG_CAS_STAT HNG_CAS_STAT_TIME_LOCK 1).setF HNG_CAS_STAT HNG_CAS_STAT_UP 0
  else if s.isMember then s.setHops
  else ((s.setF HNG_ID HNG_ID_HOPS 15).setF HNG_CAS_STAT HNG_CAS_STAT_TIME_LOCK 0).setF HNG_CAS_STAT HNG_CAS_STAT_UP 0

/-- Load role, topology, members, flags and epoch. -/
def State.casLoad (s : State) (role topo mem fwd epoch : Nat) : State :=
  let was := s.casRole
  let s := ((s.setF HNG_CAS_CFG HNG_CAS_CFG_ROLE role).setF HNG_CAS_CFG HNG_CAS_CFG_TOPOLOGY topo).setF
    HNG_CAS_CFG HNG_CAS_CFG_MEMBERS mem
  let s := (s.setF HNG_CAS_CFG HNG_CAS_CFG_FWD_PTS fwd).wr HNG_EPOCH (BitVec.ofNat 32 epoch)
  let s := if was = role then s else s.setF HNG_CAS_STAT HNG_CAS_STAT_TIME_LOCK 0
  State.casRoleSet { s with cas := { s.cas with hcalDue := true } }

/-- CASCADE_CONFIG, in IDLE only (R404, R406, R419). -/
def execCascadeConfig (q : Req) (p : List Byte) (s : State) : Host.Outcome State Fault Refusal :=
  .next (s.command q 0x0803 p (fun s =>
    if s.dev ≠ .idle then s.reply q 0x0803 stRefused 0
    else checked q 0x0803 p 8 (fun s => s.casChecks p) (fun s =>
      let s := s.casLoad (fld p 16 1) (fld p 17 1) (fld p 18 1) (fld p 19 1) (fld p 20 4)
      let s := s.holdUnused.lostUp
      let s := s.forEach (List.range 4) (fun s l => if s.fb (WFL_CTRL l) WFL_CTRL_EN then s.sendCapx l else s)
      s.readyCheck.reply q 0x0803 stOk 0) s))

/-! ### The raw tap (R425–R427) -/

/-- The channels that HNG_TAP_MASK selects. -/
def State.tapChannels (s : State) : List Nat :=
  (List.range 512).filter (fun c => bit (s.rd (HNG_TAP_MASK (c / 32))).toNat (c % 32))

/-- Whether R425 refuses to enable the raw tap. -/
def State.tapRefused (s : State) : Bool :=
  let cs := s.tapChannels
  cs.isEmpty || decide (64 < cs.length) || cs.any (fun c => decide (s.channels ≤ c))
    || (s.domOn 14 && s.fb EVR_SRC EVR_SRC_EVENTS && [1, 2, 3, 4].contains s.recState)

/-- A write of HNG_TAP_CTRL (R425). -/
def State.tapCtrl (s : State) (w : Word) : State :=
  if HNG_TAP_CTRL_EN.get w = 1 ∧ !s.fb HNG_TAP_CTRL HNG_TAP_CTRL_EN ∧ s.tapRefused then
    (s.wr HNG_TAP_CTRL (HNG_TAP_CTRL_EN.set w 0)).setF HNG_TAP_CTRL HNG_TAP_CTRL_CFG_REJ 1
  else
    let s := { s with cas := { s.cas with markAt := if s.fb HNG_TAP_CTRL HNG_TAP_CTRL_EN then s.cas.markAt else s.tm.now } }
    s.wr HNG_TAP_CTRL w

/-- The block that carries the next items of the tap, the number of items in it, and the items that remain (R426). -/
def tapBlock : List TapItem → List Byte × Nat × List TapItem
  | .event a :: .event b :: rest => (leBytes 8 a ++ leBytes 8 b, 2, rest)
  | .event a :: rest => (ctlBlock 0x80 (leBytes 8 a), 1, rest)
  | .shot b :: rest => (ctlBlock 0x81 b, 1, rest)
  | [] => ([], 0, [])

/-- TAP_ITEM_SEND: the tap's next block (R426, R427). -/
def execTapItemSend (s : State) : Host.Outcome State Fault Refusal :=
  let l := s.f HNG_TAP_CTRL HNG_TAP_CTRL_LINK
  if s.evr.tap.isEmpty || !s.linkActive l || !s.rawTap l then .next s
  else
    let (b, n, rest) := tapBlock s.evr.tap
    let s := { s with evr := { s.evr with tap := rest } }
    .next ((s.sendBlock l b).addWrap HNG_TAP_SENT HNG_TAP_SENT_ITEMS n)

/-- TAP_MARK: the next mark, 1 µs after the last (R426). -/
def execTapMark (s : State) : Host.Outcome State Fault Refusal :=
  let l := s.f HNG_TAP_CTRL HNG_TAP_CTRL_LINK
  if !s.fb HNG_TAP_CTRL HNG_TAP_CTRL_EN || !s.linkActive l || !s.rawTap l then .next s
  else
    let s := s.at_ (s.cas.markAt + tickUs)
    let s := { s with cas := { s.cas with markAt := s.tm.now } }
    .next (s.sendBlock l (ctlBlock 0x82 (leBytes 8 s.tbs ++ wordBytes (s.rd HNG_TAP_LOST)
      ++ leBytes 1 (s.index + 16 * s.f HNG_TAP_CTRL HNG_TAP_CTRL_STAGE))))

/-- A write of HNG_CNT_CLR.ALL clears the HNG counters (R431). -/
def State.hngClear (s : State) : State :=
  s.forEach [HNG_CNT, HNG_CNT2, HNG_TAP_SENT, HNG_TAP_LOST] (fun s a => s.wr a 0)

end Sys2Proof.Machine
end

