-- ==== Sys2Proof/Machine/Hist.lean ====
section
/-! DEFINITION. The histogram engine (chapter 06): admission, binning, candidate tracking, zoom windows and the clear. -/

namespace Sys2Proof.Machine

open Reg

/-! ### Addresses and marks -/

/-- The regions of the histogram memory. -/
inductive Region where
  | coarse | zoom | summary
  deriving DecidableEq, Repr

/-- The region code of FIRST_SAT and HGE_LAST_MM. -/
def Region.code : Region → Nat
  | .coarse => 0
  | .zoom => 1
  | .summary => 2

/-- The window address of a bin (R178); a zoom bin is counted as 128 × window + bin. -/
def binAddr (r : Region) (set c b : Nat) : Nat :=
  match r with
  | .coarse => 0x10000000 + set * 0x500000 + c * 10240 + 2 * b
  | .zoom => 0x10A00000 + set * 0x80000 + c * 1024 + 2 * b
  | .summary => 0x10B00000 + set * 0x80000 + c * 1024 + 2 * b

/-- The offset of a region's INC field in the control record (R171); its LOST field follows. -/
def incOff : Region → Nat
  | .coarse => 0x0C
  | .zoom => 0x14
  | .summary => 0x1C

/-- The key of a macro word: set, region, bank and word index (R155). -/
def wordKey (r : Region) (set bank i : Nat) : Nat := ((set * 4 + r.code) * 128 + bank) * 8192 + i

/-- The set, region code, bank and word index of a key. -/
def wordSet (k : Nat) : Nat := k / 8192 / 128 / 4
def wordRegion (k : Nat) : Nat := k / 8192 / 128 % 4
def wordBank (k : Nat) : Nat := k / 8192 % 128

/-- The error mark of a word: 0 none, 1 correctable, 2 uncorrectable. -/
def State.mark (s : State) (k : Nat) : Nat := Sp.get (fun _ => 0) s.hge.ecc k

/-- The state with a word's error mark changed. -/
def State.setMark (s : State) (k v : Nat) : State :=
  { s with hge := { s.hge with ecc := Sp.put (fun _ => 0) s.hge.ecc k v } }

/-- Count a corrected error in the quarter of a bank (R172). -/
def State.countCE (s : State) (bank : Nat) : State := s.addSat (HGE_ECC_CNT (bank / 32)) HGE_ECC_CNT_CE 1

/-- Count an uncorrectable word in the quarter of a bank (R173). -/
def State.countUE (s : State) (bank : Nat) : State := s.addSat (HGE_ECC_CNT (bank / 32)) HGE_ECC_CNT_UE 1

/-! ### Control records -/

/-- A 4-byte field of a channel's control record. -/
def State.recWord (s : State) (set c off : Nat) : Nat := s.memNat (recAddr set c + off) 4

/-- The state with a 4-byte field of a channel's control record replaced. -/
def State.setRec (s : State) (set c off v : Nat) : State := s.setBytes (recAddr set c + off) (leBytes 4 v)

/-- The state with a counter of a control record increased, saturating. -/
def State.addRec (s : State) (set c off n : Nat) : State := s.setRec set c off (satU 32 (s.recWord set c off + n))

/-- The state with bits of RFLAGS set. -/
def State.orFlags (s : State) (set c m : Nat) : State :=
  s.setBytes (recAddr set c + 6) (leBytes 2 (s.rflags set c ||| m))

/-- Set MEMFAULT in the records of the four channels of a bank (R173). -/
def State.memFaultBank (s : State) (set bank : Nat) : State :=
  s.forEach (List.range 4) (fun s m => s.orFlags set (4 * bank + m) 2)

/-- An uncorrectable word is met in the present column (R173). -/
def State.meetUE (s : State) (k : Nat) : State :=
  if (Sp.find s.hge.met k).isSome then s
  else
    let s := { s with hge := { s.hge with met := Sp.ins s.hge.met k 1 } }
    (s.countUE (wordBank k)).memFaultBank (wordSet k) (wordBank k)

/-! ### Increments -/

/-- An increment of a bin: saturation is counted and recorded (R170). -/
def State.bump (s : State) (r : Region) (set c b : Nat) : State :=
  let a := binAddr r set c b
  let v := s.memNat a 2
  if v = 0xFFFF then
    let s := (s.addRec set c (incOff r + 4) 1).orFlags set c 1
    if s.recWord set c 0x24 = 0xFFFFFFFF then s.setRec set c 0x24 (r.code * 2 ^ 30 + b) else s
  else s.setBytes a (leBytes 2 (v + 1))

/-- An increment through the word's error code: a single error is corrected and scrubbed, an uncorrectable word is left
(R172, R173). -/
def State.inc (s : State) (r : Region) (set c b : Nat) : State :=
  let k := wordKey r set (c / 4) b
  let s := s.addRec set c (incOff r) 1
  if s.mark k = 2 then s.meetUE k
  else if s.mark k = 1 then ((s.countCE (c / 4)).setMark k 0).bump r set c b
  else s.bump r set c b

/-- The injection of R177 into the word that a coarse update has written. [DESIGN CHOICE, log 39] -/
def State.injectEcc (s : State) (set c b : Nat) : State :=
  let mode := s.f HGE_ECC_INJ HGE_ECC_INJ_MODE
  if mode = 0 ∨ s.f HGE_ECC_INJ HGE_ECC_INJ_BANK ≠ c / 4 then s
  else (s.setMark (wordKey .coarse set (c / 4) b) mode).setF HGE_ECC_INJ HGE_ECC_INJ_MODE 0

/-! ### The candidate tracker -/

/-- Whether two bins lie in one 16 ns neighbourhood (R162). -/
def nearBin (t a b : Nat) : Bool := decide ((if a ≤ b then b - a else a - b) * t < 1024)

/-- The weakest candidate: the lowest value, on a tie the highest bin. -/
def weakest (l : List (Nat × Nat)) : Nat × Nat :=
  l.foldl (fun best x => if x.2 < best.2 ∨ (x.2 = best.2 ∧ best.1 < x.1) then x else best) (l.headD (0, 0))

/-- Change the first candidate of a list that a test selects. -/
def changeFirst (p : Nat × Nat → Bool) (g : Nat × Nat → Nat × Nat) : List (Nat × Nat) → List (Nat × Nat)
  | [] => []
  | x :: xs => if p x then g x :: xs else x :: changeFirst p g xs

/-- The tracker after a coarse increment of bin b to value v (R162). -/
def trackStep (t minCnt b v : Nat) (l : List (Nat × Nat)) : List (Nat × Nat) :=
  if v < minCnt then l
  else if l.any (fun x => nearBin t x.1 b) then
    changeFirst (fun x => nearBin t x.1 b) (fun x => if x.2 < v ∨ b = x.1 then (b, v) else x) l
  else if l.length < 4 then l ++ [(b, v)]
  else
    let w := weakest l
    if w.2 < v then changeFirst (· == w) (fun _ => (b, v)) l else l

/-- The tracker of a channel in a set. -/
def State.track (s : State) (set c : Nat) : List (Nat × Nat) := Sp.get (fun _ => []) s.hge.tracks (set * 512 + c)

/-- MIN_CNT as used. -/
def State.minCnt (s : State) : Nat := Nat.max 1 (s.ef HGE_ZOOM HGE_ZOOM_MIN_CNT)

/-- The column being fired or awaiting its close that uses a set. -/
def State.columnOf (s : State) (set : Nat) : Option Column :=
  ((s.fir.column.toList ++ s.fir.closing).filter (fun c => c.set = set)).getLast?

/-- Whether trackers run for a column: a zoom burst is to come and windows are not placed (R162, R163). -/
def tracking (c : Column) : Bool := decide (c.coarse < c.shots) && !c.placed

/-- A coarse increment with its tracker update and any injection (R160, R162, R177). -/
def State.coarseInc (s : State) (set c b : Nat) : State :=
  let s := (s.inc .coarse set c b).injectEcc set c b
  match s.columnOf set with
  | some col =>
    if tracking col then
      let l := trackStep s.binT s.minCnt b (s.memNat (binAddr .coarse set c b) 2) (s.track set c)
      { s with hge := { s.hge with tracks := Sp.put (fun _ => []) s.hge.tracks (set * 512 + c) l } }
    else s
  | none => s

/-! ### Binning -/

/-- Window z of a channel's record: valid and start (R171). -/
def State.zoomWin (s : State) (set c z : Nat) : Option Nat :=
  let w := s.recWord set c (0x28 + 4 * z)
  if 2 ^ 31 ≤ w then some (w % 2 ^ 20) else none

/-- The lowest zoom window that holds a delay, with the offset into it (R160). -/
def State.zoomHit (s : State) (set c d : Nat) : Option (Nat × Nat) :=
  (List.range 4).findSome? (fun z =>
    match s.zoomWin set c z with
    | some st => if st ≤ d ∧ d - st < 1024 then some (z, d - st) else none
    | none => none)

/-- One update of an event against a shot, d ticks after its fire time, and whether it made an update (R160, R164). -/
def State.update (s : State) (e : Ev) (h : Shot) (d : Nat) : Bool × State :=
  if !h.zoom then (true, s.coarseInc h.set e.chan (d / s.binT))
  else
    match s.zoomHit h.set e.chan d with
    | some (z, o) => (true, (s.inc .zoom h.set e.chan (128 * z + o / 8)).addRec h.set e.chan (0x38 + 4 * z) e.tot)
    | none => (false, s)

/-- The shots in flight at a time, newest first, at most k, each with its delay (R159, R160). -/
def inFlight (w t : Nat) : Nat → List Shot → List (Shot × Nat)
  | _, [] => []
  | 0, _ => []
  | k + 1, h :: hs =>
    if h.closed || !h.recorded || decide (t < h.fire) then inFlight w t (k + 1) hs
    else if w ≤ t - h.fire then []
    else (h, t - h.fire) :: inFlight w t k hs

/-- The keyed updates of an event, with the sets that took one (R160). -/
def State.keyed (s : State) (e : Ev) (l : List (Shot × Nat)) : List Nat × State :=
  l.foldl (fun acc x =>
    let (made, s) := acc.2.update e x.1 x.2
    (if made then x.1.set :: acc.1 else acc.1, s)) ([], s)

/-- The update of the unkeyed summary (R161); it answers the set that took it. -/
def State.unkeyed (s : State) (e : Ev) : Option Nat × State :=
  let keyFree (h : Shot) := h.edge - 32 * h.dither
  let best := (s.fir.shots.filter (fun h => keyFree h ≤ e.time)).foldl (fun (acc : Option Shot) h =>
    match acc with
    | none => some h
    | some b => if keyFree b ≤ keyFree h then some h else some b) none
  match best with
  | none => (none, s)
  | some h =>
    let u := e.time - keyFree h
    if h.zoom || h.closed || decide (s.window ≤ u) then (none, s)
    else (some h.set, s.inc .summary h.set e.chan (u / 2560))

/-- Count the event once in the record of every set that took an update (R171). -/
def State.countEvent (s : State) (c : Nat) (sets : List Nat) : State :=
  s.forEach ([0, 1].filter (sets.contains ·)) (fun s set => s.addRec set c 0x08 1)

/-- Bin an admitted event (R159–R161). -/
def State.binEvent (s : State) (e : Ev) : State :=
  let l := inFlight s.window e.time s.kFlight s.fir.shots.reverse
  let s := if l = [] then s.addWrap (HGE_CH_NOSHOT e.chan) HGE_CH_NOSHOT_NOSHOT 1
    else s.addWrap (HGE_CH_BINNED e.chan) HGE_CH_BINNED_BINNED 1
  let (sets, s) := s.keyed e l
  let (sum, s) := s.unkeyed e
  s.countEvent e.chan (sets ++ sum.toList)

/-! ### Admission -/

/-- The update credit of a channel (R158): set to 2K at the frame start, then 1 more every 4 PLL-H cycles. -/
def State.credit (s : State) (c : Nat) : Nat :=
  let now := (s.tm.now - s.hge.creditZero) / 320
  match Sp.find s.hge.credits c with
  | none => 2 * s.kFlight
  | some (v, at') => Nat.min (2 * s.kFlight) (v + (now - at'))

/-- Whether an event of a channel may be admitted (R158). -/
def State.admits (s : State) (c : Nat) : Bool :=
  decide (s.kFlight ≤ s.credit c) &&
    (match Sp.find s.hge.admitted c with | some t => decide (t + 640 ≤ s.tm.now) | none => true)

/-- Charge an admitted event (R158). -/
def State.charge1 (s : State) (c : Nat) : State :=
  let now := (s.tm.now - s.hge.creditZero) / 320
  { s with hge := { s.hge with credits := Sp.ins s.hge.credits c (s.credit c - s.kFlight, now),
                               admitted := Sp.ins s.hge.admitted c s.tm.now } }

/-- Whether the head of a bank's FIFO is held for an outstanding shot record (R157). -/
def State.held157 (s : State) (e : Ev) : Bool :=
  s.fir.shots.any (fun h => !h.recorded && !h.closed && decide (h.edge < e.time + 1024))

/-- EVENT_BINNING: bank q's scheduler takes the event at the head of its FIFO at a device time t (R157–R161). -/
def execEventBinning (q t : Nat) (s : State) : Host.Outcome State Fault Refusal :=
  match s.bankFifo q with
  | [] => .next s
  | e :: rest =>
    let s := s.at_ t
    if s.held157 e then .next s
    else
      let s := { s with hge := { s.hge with fifo := Sp.put (fun _ => []) s.hge.fifo q rest } }
      if s.admits e.chan then .next ((s.charge1 e.chan).binEvent e)
      else .next (s.addWrap (HGE_CH_RATE e.chan) HGE_CH_RATE_RATE 1)

/-! ### Zoom windows and the clear -/

/-- Insert a candidate into a list ordered by falling value, then rising bin. -/
def insCand (x : Nat × Nat) : List (Nat × Nat) → List (Nat × Nat)
  | [] => [x]
  | y :: ys => if y.2 < x.2 ∨ (y.2 = x.2 ∧ x.1 < y.1) then x :: y :: ys else y :: insCand x ys

/-- The start of the zoom window of a coarse bin (R163). -/
def zoomStart (t w b : Nat) : Nat := Nat.min ((b * t + t / 2 - 512) / 8 * 8) (w - 1024)

/-- Insert a window (start, value) into a list ordered by rising start. -/
def insWin (x : Nat × Nat) : List (Nat × Nat) → List (Nat × Nat)
  | [] => [x]
  | y :: ys => if x.1 < y.1 then x :: y :: ys else y :: insWin x ys

/-- The windows of a tracker's candidates (R163). -/
def zoomWindows (t w nwin : Nat) (l : List (Nat × Nat)) : List (Nat × Nat) :=
  let best := (l.foldl (fun acc x => insCand x acc) []).take nwin
  (best.map (fun x => (zoomStart t w x.1, x.2))).foldl (fun acc x => insWin x acc) []

/-- Place the windows of one channel (R163). -/
def State.placeChannel (s : State) (set nwin c : Nat) : State :=
  let ws := zoomWindows s.binT s.window nwin (s.track set c)
  let s := s.orFlags set c 0x80
  s.forEach (List.range 4) (fun s z =>
    match ws[z]? with
    | some (st, v) => s.setRec set c (0x28 + 4 * z) (2 ^ 31 + Nat.min 2047 v * 2 ^ 20 + st)
    | none => s.setRec set c (0x28 + 4 * z) 0)

/-- The oldest column whose first zoom-burst shot has been noticed and whose windows are not placed. -/
def State.toPlace (s : State) : Option Column :=
  (s.fir.closing ++ s.fir.column.toList).find? (fun c => !c.placed && decide (c.coarse < c.fired))

/-- ZOOM_PLACEMENT: the notice of a column's first zoom-burst shot reaches the engine (R163). -/
def execZoomPlacement (s : State) : Host.Outcome State Fault Refusal :=
  match s.toPlace with
  | none => .next s
  | some c =>
    let nwin := Nat.min 4 (s.ef HGE_ZOOM HGE_ZOOM_NWIN)
    let s := s.forEach s.liveChannels (fun s n => s.placeChannel c.set nwin n)
    let s := s.updColumn c.serial (fun c => { c with placed := true })
    .next { s with hge := { s.hge with tracks := Sp.drop (fun k => k / 512 == c.set) s.hge.tracks } }

/-- HISTOGRAM_CLEAR: on an entry to SCANNING both sets are cleared, during the switch walk (R168). -/
def execHistogramClear (s : State) : Host.Outcome State Fault Refusal :=
  if !s.esf.histClear then .next s
  else
    let s := s.clearMem 0x10000000 0x10C00000
    .next { s with esf := { s.esf with histClear := false }, hge := { s.hge with ecc := [], tracks := [] } }

end Sys2Proof.Machine
end

