-- ==== Sys2Proof/Machine/Extract.lean ====
section
/-! DEFINITION. Echo extraction (chapter 07): the scan with its clear and conservation check, candidates, positions,
classification, selection and the column's output; and the zone qualification of R331. -/

namespace Sys2Proof.Machine

open Reg

/-! ### Counts of one channel -/

/-- The non-zero bins of one channel in a region of a set, rising. -/
def State.binsOf (s : State) (r : Region) (set c n : Nat) : List (Nat × Nat) :=
  let lo := binAddr r set c 0
  let cells := s.mem.filter (fun x => decide (lo ≤ x.1) && decide (x.1 < lo + 2 * n))
  (cells.foldl (fun acc x =>
    let b := (x.1 - lo) / 2
    let v := x.2.toNat * 256 ^ ((x.1 - lo) % 2)
    match acc with
    | (b', v') :: rest => if b' = b then (b, v' + v) :: rest else (b, v) :: acc
    | [] => [(b, v)]) []).reverse

/-- The count of a bin; 0 outside the range. -/
def binAt (l : List (Nat × Nat)) (b : Int) : Nat := if b < 0 then 0 else (Sp.find l b.toNat).getD 0

/-- The sum of bins lo to hi. -/
def binSum (l : List (Nat × Nat)) (lo hi : Int) : Nat :=
  l.foldl (fun acc x => if lo ≤ x.1 ∧ (x.1 : Int) ≤ hi then acc + x.2 else acc) 0

/-! ### Settings of a scan -/

/-- The settings and column figures a scan works with. -/
structure Scan where
  b : Nat
  t : Nat
  cs : Nat
  zs : Nat
  scale : Nat
  fold : Nat
  dspan : Nat
  span : Nat
  k : Nat
  deriving DecidableEq, Repr

/-- The scan of a column. -/
def State.scanOf (s : State) (c : Column) : Scan :=
  { b := s.binB, t := s.binT, cs := Nat.min c.coarse c.fired, zs := c.fired - c.coarse,
    scale := (s.rd EXT_SCALE).toNat, fold := c.fold, dspan := c.dspan, span := c.span, k := s.kFlight }

/-- The RANGE of a position p in 1/64 tick, in 2 mm units (R191). -/
def rangeOf (scale p : Nat) : Nat := Nat.min 0xFFFFF ((p * scale + 2 ^ 36) / 2 ^ 37)

/-- SCALE for a group index (R191). -/
def scaleOf (nm1 : Nat) : Nat :=
  let num := 2 ^ 31 * 11710642890625 * 10 ^ 7
  let den := 10 ^ 13 * (10 ^ 7 + nm1)
  (2 * num + den) / (2 * den)

/-! ### Candidates (R184–R190) -/

/-- A candidate or echo of a channel. -/
structure Cand where
  b : Nat
  s3 : Nat
  ref : Nat
  v : Nat
  bg3 : Nat
  p : Nat := 0
  zoomed : Bool := false
  edge : Bool := false
  width : Nat := 0
  cnt : Nat := 0
  intensity : Nat := 0
  conf0 : Nat := 0
  range : Nat := 0
  folded : Bool := false
  veil : Bool := false
  deriving DecidableEq, Repr

/-- The candidate's time in ticks. -/
def Cand.d (x : Cand) : Nat := x.p / 64

/-- The reference half of a bin (R184). -/
def refOf (n : Nat) (l : List (Nat × Nat)) (b : Nat) : Nat :=
  let lead := binSum l ((b : Int) - 20) ((b : Int) - 5)
  let trail := binSum l (b + 5) (b + 20)
  let leadOk := decide (20 ≤ b)
  let trailOk := decide (b + 20 < n)
  if leadOk && trailOk then Nat.min lead trail else if leadOk then lead else trail

/-- The detection of a bin: a hit with its figures (R184). -/
def hitAt (nsig minSig n : Nat) (l : List (Nat × Nat)) (b : Nat) : Option Cand :=
  let v := binAt l b
  let vl := binAt l ((b : Int) - 1)
  let vr := binAt l (b + 1)
  let ref := refOf n l b
  let s3 := vl + v + vr
  let bg3 := (3 * ref + 8) / 16
  let thr := bg3 + Nat.max (Nat.max 1 minSig) (nsig * isqrt (bg3 + 1) / 4)
  if vl < v ∧ vr ≤ v ∧ thr ≤ s3 then some { b := b, s3 := s3, ref := ref, v := v, bg3 := bg3 } else none

/-- The smallest s3 of a list, the latest on a tie. -/
def smallest (l : List Cand) : Option Cand :=
  l.foldl (fun (best : Option Cand) x => match best with
    | none => some x
    | some m => if x.s3 ≤ m.s3 then some x else some m) none

/-- One new candidate joins those kept; the flag is MORE (R186). -/
def keepCand (merge : Nat) (acc : List Cand × Bool) (x : Cand) : List Cand × Bool :=
  let (l, more) := acc
  match l.getLast? with
  | some y =>
    if x.b - y.b ≤ merge then (if y.s3 < x.s3 then l.dropLast ++ [x] else l, more)
    else if l.length < 8 then (l ++ [x], more)
    else match smallest l with
      | some m => if m.s3 < x.s3 then (l.erase m ++ [x], true) else (l, true)
      | none => (l, true)
  | none => ([x], more)

/-- The coarse position of a candidate (R187). -/
def coarsePos (t : Nat) (l : List (Nat × Nat)) (x : Cand) : Nat :=
  let den : Int := 16 * x.s3 - 3 * x.ref
  let diff : Int := (binAt l (x.b + 1) : Int) - binAt l ((x.b : Int) - 1)
  let frac := clampI (-(32 * t : Nat)) (32 * t : Nat) ((16 * diff * t * 64).tdiv den)
  (((x.b * t + t / 2) * 64 : Nat) + frac).toNat

/-- Contiguous bins from b in one direction that reach h, at most n of them. -/
def runFrom (l : List (Nat × Nat)) (h : Nat) (step : Int) : Nat → Int → Nat
  | 0, _ => 0
  | n + 1, b => if h ≤ 16 * binAt l b then 1 + runFrom l h step n (b + step) else 0

/-- WIDTH at a coarse position (R189). -/
def coarseWidth (t : Nat) (l : List (Nat × Nat)) (x : Cand) : Nat :=
  let h := (16 * x.v + x.ref) / 2
  Nat.min 255 ((1 + runFrom l h 1 31 (x.b + 1) + runFrom l h (-1) 31 ((x.b : Int) - 1)) * t / 8)

/-- The position, width and edge of a candidate refined in a zoom window that starts at `start`, with bins `z`; `none` when
the sum condition fails (R188, R189). -/
def zoomRefine (a : Scan) (zmin start : Nat) (z : List (Nat × Nat)) (x : Cand) (d : Nat) : Option (Nat × Nat × Bool) :=
  let near (i : Nat) : Bool := let c := start + 8 * i + 4; decide (c ≤ d + a.t) && decide (d ≤ c + a.t)
  let m := ((List.range 128).filter near).foldl (fun (best : Option Nat) i => match best with
    | none => some i
    | some j => if binAt z j < binAt z i then some i else some j) none
  match m with
  | none => none
  | some m =>
    let zbg := x.ref * 8 * a.zs / (a.cs * a.t)
    let js : List Nat := (List.range 128).filter (fun j => decide (m ≤ j + 4) && decide (j ≤ m + 4))
    let at' (j : Nat) : Nat := binAt z j
    let net (j : Nat) : Nat := 16 * at' j - zbg
    let den := js.foldl (fun acc j => acc + net j) 0
    let tot := js.foldl (fun acc j => acc + at' j) 0
    if tot < zmin ∨ den = 0 then none
    else
      let mom : Int := js.foldl (fun acc j => acc + (net j : Int) * ((j : Int) - m)) 0
      let p := (((start + m * 8 + 4) * 64 : Nat) + (mom * 512).tdiv den).toNat
      let h := (16 * binAt z m + zbg) / 2
      let w := 1 + runFrom z h 1 (127 - m) (m + 1) + runFrom z h (-1) m ((m : Int) - 1)
      some (p, Nat.min 255 w, m == 0 || m == 127)

/-- The bins of zoom window z of a channel. -/
def State.zoomBins (s : State) (set c z : Nat) : List (Nat × Nat) :=
  ((s.binsOf .zoom set c 512).filter (fun x => x.1 / 128 = z)).map (fun x => (x.1 % 128, x.2))

/-- The lowest valid zoom window of a channel that holds a time (R188). -/
def State.windowAt (s : State) (set c d : Nat) : Option Nat := (s.zoomHit set c d).map (·.1)

/-- Place one candidate and grade it (R187–R192). -/
def State.gradeCand (s : State) (a : Scan) (set c : Nat) (l : List (Nat × Nat)) (x : Cand) : Cand :=
  let p0 := coarsePos a.t l x
  let fine : Option (Nat × Nat × Nat × Bool) :=
    if a.zs = 0 then none
    else match s.windowAt set c (p0 / 64) with
      | none => none
      | some z =>
        (zoomRefine a (s.f EXT_ZOOM EXT_ZOOM_ZOOM_MIN) ((s.zoomWin set c z).getD 0) (s.zoomBins set c z) x (p0 / 64)).map
          (fun r => (z, r))
  let net := x.s3 - x.bg3
  let cnt := net * 256 / a.cs
  let gain := s.f (EXT_CH_CFG c) EXT_CH_CFG_GAIN
  let conf := Nat.min 255 (net * 16 / isqrt ((x.bg3 + 1) * 16) * s.f EXT_CONF EXT_CONF_GAIN / 16)
  match fine with
  | none =>
    { x with p := p0, edge := x.b == 0 || x.b + 1 == a.b, width := coarseWidth a.t l x, cnt := cnt,
             intensity := Nat.min 4095 (cnt * gain / 256), conf0 := conf, range := rangeOf a.scale p0 }
  | some (z, p, w, e) =>
    let zsum := (s.zoomBins set c z).foldl (fun acc y => acc + y.2) 0
    let tot := s.recWord set c (0x38 + 4 * z)
    let base := if s.fb (EXT_CH_CFG c) EXT_CH_CFG_ISRC && decide (0 < zsum) then tot / zsum else cnt
    { x with p := p, zoomed := true, edge := x.b == 0 || x.b + 1 == a.b || e, width := w, cnt := cnt,
             intensity := Nat.min 4095 (base * gain / 256), conf0 := conf, range := rangeOf a.scale p }

/-- Whether a candidate is marked FOLDED among a channel's candidates (R194); both sides of its test are multiplied by cs - 1. -/
def isFolded (a : Scan) (l : List Cand) (x : Cand) : Bool :=
  decide (a.fold < x.d) ||
  (a.dspan == 0 && decide (2 ≤ a.cs) && l.any (fun y =>
    decide (x.s3 < y.s3 ∨ (x.s3 = y.s3 ∧ y.b < x.b)) &&
    ((List.range a.k).any (fun m => decide (1 ≤ m) &&
      (let dd : Int := ((x.d : Int) - y.d) * (a.cs - 1 : Nat)
       let near : Nat := 2 * a.t * (a.cs - 1)
       decide ((dd - m * a.span).natAbs ≤ near) || decide ((dd + m * a.span).natAbs ≤ near))))))

/-- Whether a candidate is a veil candidate (R195). -/
def State.isVeil (s : State) (x : Cand) : Bool :=
  decide (x.range ≤ s.f EXT_WX EXT_WX_VEIL_FAR * 125) && decide (s.f EXT_WX EXT_WX_VEIL_WMIN ≤ x.width)
    && decide (x.cnt ≤ s.f EXT_WX EXT_WX_VEIL_IMAX)

/-- The candidates of one channel with their marks, and MORE (R184–R195). -/
def State.candidates (s : State) (a : Scan) (set c : Nat) : List Cand × Bool :=
  let l := s.binsOf .coarse set c a.b
  let hits := l.filterMap (fun x => hitAt (s.f EXT_DET EXT_DET_NSIG) (s.f EXT_DET EXT_DET_MIN_SIG) a.b l x.1)
  let cs := hits.filter (fun x => x.b < s.f EXT_WIN EXT_WIN_WIN_LO ∨ s.f EXT_WIN EXT_WIN_WIN_HI < x.b)
  let (kept, more) := cs.foldl (keepCand (s.f EXT_DET EXT_DET_MERGE)) ([], false)
  let graded := kept.map (s.gradeCand a set c l)
  (graded.map (fun x => { x with folded := isFolded a graded x, veil := s.isVeil x }), more)

/-! ### Selection (R197, R200, R201) -/

/-- Insert an echo into a list by an order. -/
def insBy (before : Cand → Cand → Bool) (x : Cand) : List Cand → List Cand
  | [] => [x]
  | y :: ys => if before x y then x :: y :: ys else y :: insBy before x ys

/-- Sort echoes by an order. -/
def sortBy (before : Cand → Cand → Bool) (l : List Cand) : List Cand := l.foldl (fun acc x => insBy before x acc) []

/-- The order in which a policy prefers echoes (R200). -/
def policyBefore (policy : Nat) (x y : Cand) : Bool :=
  if policy = 1 then decide (y.p < x.p ∨ (x.p = y.p ∧ y.s3 < x.s3))
  else if policy = 2 then decide (y.intensity < x.intensity ∨ (x.intensity = y.intensity ∧ x.p < y.p))
  else decide (x.p < y.p ∨ (x.p = y.p ∧ y.s3 < x.s3))

/-- A selected echo with its final CONF and whether it carries RAIN_VEIL. -/
structure Echo where
  cand : Cand
  veil : Bool
  capped : Bool
  deriving DecidableEq, Repr

/-- The selected echoes of a channel in ascending RANGE, and MORE (R197, R200, R201). -/
def selectEchoes (consensus suppress : Bool) (policy keep : Nat) (l : List Cand) : List Echo × Bool :=
  let veil (x : Cand) := consensus && x.veil
  let real := l.filter (fun x => !veil x)
  let removing := suppress && !real.isEmpty
  let eligible := if removing then real else l
  let chosen := (sortBy (policyBefore policy) eligible).take keep
  let removed := if removing then l.filter veil else []
  let capped := suppress && real.isEmpty
  ((sortBy (fun x y => decide (x.p < y.p)) chosen).map (fun x =>
    { cand := x, veil := veil x || removed.any (fun y => decide (y.p < x.p)), capped := capped && veil x }),
   decide (keep < eligible.length))

/-! ### Records (R192, R203, R204) -/

/-- CONF after the halvings of R192 and the limit of R197. -/
def finalConf (conf flags halve : Nat) (capped : Bool) : Nat :=
  let c := conf / 2 ^ popcount 16 (flags &&& halve)
  if capped then Nat.min 31 c else c

/-- A point record (R204). -/
def pointRecord (range intensity chan echo width conf flags ambient : Nat) : List Byte :=
  leBytes 4 (range * 4096 + intensity) ++ leBytes 4 (chan * 2 ^ 23 + echo * 2 ^ 21 + width * 2 ^ 13 + conf * 32)
    ++ leBytes 4 (flags * 65536 + ambient)

/-- The flags of one point: channel-wide flags and its own (R203). -/
def pointFlags (chan : Nat) (e : Echo) : Nat :=
  chan ||| (b2n e.veil + 16 * b2n e.cand.zoomed + 128 * b2n e.cand.folded + 4096 * b2n e.cand.edge)

/-- One channel's outcome of a scan. -/
structure ChanOut where
  chan : Nat
  wide : Nat
  echoes : List Echo
  veil : Bool
  deriving DecidableEq, Repr

/-- One point: channel, ECHO, echo, flags and CONF. -/
structure Point where
  chan : Nat
  echo : Nat
  cand : Cand
  flags : Nat
  conf : Nat
  deriving DecidableEq, Repr

/-- The points of one channel. -/
def State.pointsOf (s : State) (o : ChanOut) : List Point :=
  (List.range o.echoes.length).filterMap (fun i =>
    o.echoes[i]?.map (fun e =>
      let fl := pointFlags o.wide e
      { chan := o.chan, echo := i, cand := e.cand, flags := fl,
        conf := finalConf e.cand.conf0 fl (s.f EXT_CONF EXT_CONF_HALVE) e.capped }))

/-! ### Per-channel tests -/

/-- Whether a channel is active: a primary channel in ANALOG or SPAD mode with its quarters on (chapter 07). -/
def State.activeChannel (s : State) (c : Nat) : Bool :=
  s.inputOn c && s.domOn (2 + quarterOf c) && !s.secondary c && (s.rfeMode c == 1 || s.rfeMode c == 2)

/-- The active channels, rising. -/
def State.activeChannels (s : State) : List Nat := (List.range s.channels).filter s.activeChannel

/-- WLEV of a channel (R198). -/
def State.wlevOf (s : State) (a : Scan) (l : List (Nat × Nat)) : Nat :=
  Nat.min 0xFFFF (binSum l (s.f EXT_WIN EXT_WIN_WIN_LO) (s.f EXT_WIN EXT_WIN_WIN_HI) * 256 / a.cs)

/-- The window test of a channel: WLEV and STREAK (R198). -/
def State.windowTest (s : State) (a : Scan) (set c : Nat) : State :=
  let wlev := s.wlevOf a (s.binsOf .coarse set c a.b)
  let streak := if s.f EXT_WIN_THR EXT_WIN_THR_THR ≤ wlev then satU 8 (s.f (EXT_CH_WIN c) EXT_CH_WIN_STREAK + 1) else 0
  (s.setF (EXT_CH_WIN c) EXT_CH_WIN_WLEV wlev).setF (EXT_CH_WIN c) EXT_CH_WIN_STREAK streak

/-- Whether WINDOW is set on a channel's points (R198). -/
def State.windowFlag (s : State) (c : Nat) : Bool :=
  decide (s.f EXT_WIN EXT_WIN_PERSIST ≤ s.f (EXT_CH_WIN c) EXT_CH_WIN_STREAK)

/-- The interference test of a channel (R199). -/
def State.interference (s : State) (a : Scan) (set c : Nat) (l : List Cand) : Bool :=
  if !s.fb EXT_CTRL EXT_CTRL_INTF_EN || a.dspan == 0 then false
  else
    let nb := (a.b * a.t + 2559) / 2560
    let dmax := dMax a.dspan * 32
    let excluded (u : Nat) := l.any (fun x => decide (x.d / 2560 ≤ u) && decide (u ≤ (x.d + dmax + 2560) / 2560))
    let bins := s.binsOf .summary set c 256
    let rest := ((List.range nb).filter (fun u => !excluded u)).map (fun (u : Nat) => binAt bins u)
    let mx := rest.foldl Nat.max 0
    let bgs := (rest.foldl (· + ·) 0 - mx) / (rest.length - 1)
    decide (2 ≤ rest.length) && decide (bgs + Nat.max (s.f EXT_INTF EXT_INTF_INTF_MIN)
      (s.f EXT_INTF EXT_INTF_INTF_NSIG * isqrt (bgs + 1) / 4) ≤ mx)

/-- Whether a channel's points carry DEGRADED (R470). -/
def State.degraded (s : State) (c : Nat) : Bool :=
  let q := quarterOf c
  let both (d : Nat) := bit (s.f CAL_STALE CAL_STALE_STALE) d && bit (s.f CAL_STALE CAL_STALE_ACCEPTED) d
  both q || both (4 + q)

/-- The channel-wide flags that arise from the set and the descriptor (R203). -/
def State.setFlags (s : State) (col : Column) (c : Nat) : Nat :=
  let r := s.rflags col.set c
  4 * b2n (bit r 0) + 64 * b2n (bit r 1) + 256 * b2n col.allocCut + 512 * b2n (bit r 3) + 1024 * b2n col.trunc
    + 2048 * b2n col.miss + 16384 * b2n (s.degraded c)

/-- The outcome of one active channel (R196–R203), after the window test. -/
def State.channelOut (s : State) (a : Scan) (col : Column) (consensus : Bool) (c : Nat) (x : List Cand × Bool) : ChanOut :=
  let (echoes, more) := selectEchoes consensus (s.fb EXT_CTRL EXT_CTRL_VEIL_SUPPRESS) (s.f EXT_CTRL EXT_CTRL_POLICY)
    (s.f EXT_CTRL EXT_CTRL_MAX_M1 + 1) x.1
  { chan := c,
    wide := s.setFlags col c + 2 * b2n (s.interference a col.set c x.1) + 8 * b2n (s.windowFlag c)
      + 8192 * b2n (x.2 || more),
    echoes := echoes, veil := consensus && x.1.any (·.veil) }

/-! ### The conservation check and the clear (R166, R170–R175) -/

/-- The error marks of a set are met by the scan: single errors are corrected, uncorrectable words are met and read as 0
(R172, R173). -/
def State.scanMarks (s : State) (set : Nat) : State :=
  let mine := s.hge.ecc.filter (fun k => wordSet k.1 = set)
  let s := s.forEach mine (fun s k => if k.2 = 1 then s.countCE (wordBank k.1) else s.meetUE k.1)
  { s with hge := { s.hge with ecc := Sp.drop (fun k => wordSet k == set) s.hge.ecc } }

/-- Whether an uncorrectable word of a region and bank was met in the column (R173). -/
def State.metRegion (s : State) (set bank : Nat) (r : Region) : Bool :=
  s.hge.met.any (fun k => wordSet k.1 == set && wordBank k.1 == bank && wordRegion k.1 == r.code)

/-- The number of bins of a region (R155). -/
def regionBins : Region → Nat
  | .coarse => 5120
  | .zoom => 512
  | .summary => 256

/-- Whether a channel's region breaks conservation (R174). -/
def State.breaks (s : State) (set c : Nat) (r : Region) : Bool :=
  let sum := (s.binsOf r set c (regionBins r)).foldl (fun acc x => acc + x.2) 0
  !s.metRegion set (c / 4) r
    && decide (sum + s.recWord set c (incOff r + 4) ≠ s.recWord set c (incOff r))

/-- The kind of a channel's mismatch in a column, if it has one (R173, R174). -/
def State.mismatchKind (s : State) (set c : Nat) : Option Nat :=
  if c % 4 = 0 ∧ s.hge.met.any (fun k => wordSet k.1 == set && wordBank k.1 == c / 4) then some 3
  else if s.breaks set c .coarse then some 0
  else if s.breaks set c .zoom then some 1
  else if s.breaks set c .summary then some 2
  else none

/-- Count one mismatch and raise its event (R174). -/
def State.countMismatch (s : State) (col : Column) (c kind : Nat) : State :=
  let q := quarterOf c
  let s := (s.orFlags col.set c 2).addSat (HGE_CH_STAT c) HGE_CH_STAT_MM_COLS 1
  let w := kind * 2 ^ 30 + c * 2 ^ 20 + col.entry
  let s := s.wr HGE_LAST_MM (BitVec.ofNat 32 w)
  let s := (s.addSat (HGE_MM_CNT q) HGE_MM_CNT_FRAME 1).addSat (HGE_MM_CNT q) HGE_MM_CNT_TOTAL 1
  s.raise evMemfault (leBytes 4 w ++ leBytes 4 col.frame)

/-- The conservation check of a column over every channel (R174). -/
def State.conservation (s : State) (col : Column) : State :=
  s.forEach s.liveChannels (fun s c =>
    match s.mismatchKind col.set c with
    | some kind => s.countMismatch col c kind
    | none => s)

/-- Whether a quarter's count has reached 3. -/
def State.mmFull (s : State) (q : Nat) : Bool := decide (3 ≤ s.f (HGE_MM_CNT q) HGE_MM_CNT_FRAME)

/-- The mismatch limit of R175 for quarters whose count has reached 3 since a state: FAULT in SCANNING, MM_PEND otherwise. -/
def State.mismatchLimit (s s0 : State) : State :=
  let qs := (List.range 4).filter (fun q => s.mmFull q && !s0.mmFull q)
  if qs = [] then s
  else if s.scanning then
    (s.setF HGE_STATUS HGE_STATUS_MM_FAULT (s.f HGE_STATUS HGE_STATUS_MM_FAULT ||| bitsOf qs)).enterFault 0x62
  else
    let s := s.setF HGE_STATUS HGE_STATUS_MM_PEND (s.f HGE_STATUS HGE_STATUS_MM_PEND ||| bitsOf qs)
    s.raise evFault (leBytes 4 (s.faultWord 2 0x62))

/-- The bin addresses of a set, without its control records. -/
def binCell (set a : Nat) : Bool :=
  (decide (0x10000000 + set * 0x500000 ≤ a) && decide (a < 0x10000000 + (set + 1) * 0x500000)) ||
  (decide (0x10A00000 + set * 0x80000 ≤ a) && decide (a < 0x10A00000 + (set + 1) * 0x80000)) ||
  (decide (0x10B00000 + set * 0x80000 ≤ a) && decide (a < 0x10B00000 + (set + 1) * 0x80000) && a % 1024 < 512)

/-- The scan writes every bin back as 0; with RETAIN = 1 the bins are kept aside for R169. -/
def State.scanClear (s : State) (col : Column) : State :=
  let cells := s.mem.filter (fun x => binCell col.set x.1)
  let stash := if s.fb HGE_CTRL HGE_CTRL_RETAIN then some (col.set, col.entry, col.frame, cells) else none
  { s with mem := Sp.drop (binCell col.set) s.mem,
           hge := { s.hge with stash := stash, met := Sp.drop (fun k => wordSet k == col.set) s.hge.met } }

/-! ### Zones (R331) -/

/-- A word of the active zone table (R329). -/
def State.zoneWord (s : State) (off : Nat) : Nat := s.memNat (0x02010000 + off) 4

/-- A zone of the active table (R329). -/
structure Zone where
  en : Bool
  first : Nat
  cells : Nat
  minPts : Nat
  minCols : Nat
  hold : Nat
  ignore : Nat
  confMin : Nat
  unk : Nat
  unkMax : Nat
  deriving DecidableEq, Repr

/-- A zone from its four words. -/
def zoneDecode (w0 w1 w2 w3 : Nat) : Zone :=
  { en := bit w0 31, first := bits w0 12 12, cells := bits w0 0 12, minPts := bits w1 24 8, minCols := bits w1 16 8,
    hold := bits w1 0 16, ignore := bits w2 16 16, confMin := bits w2 8 8, unk := bits w3 16 16, unkMax := bits w3 0 16 }

/-- Zone z of the table at a window address. -/
def State.zoneAt (s : State) (base z : Nat) : Zone :=
  let w (j : Nat) := s.memNat (base + 16 * z + 4 * j) 4
  zoneDecode (w 0) (w 1) (w 2) (w 3)

/-- A cell of a zone table (R329). -/
structure ZCell where
  colLo : Nat
  colHi : Nat
  chLo : Nat
  chHi : Nat
  near : Nat
  far : Nat
  deriving DecidableEq, Repr

/-- Cell c of the table at a window address. -/
def State.cellAt (s : State) (base c : Nat) : ZCell :=
  let w (j : Nat) := s.memNat (base + 0x100 + 16 * c + 4 * j) 4
  { colLo := bits (w 0) 20 12, colHi := bits (w 0) 8 12, chLo := bits (w 1) 23 9, chHi := bits (w 1) 14 9,
    near := bits (w 2) 12 20, far := bits (w 3) 12 20 }

/-- The cells of a zone of the active table. -/
def State.zoneCells (s : State) (z : Zone) : List ZCell := (List.range z.cells).map (fun i => s.cellAt 0x02010000 (z.first + i))

/-- The enabled zones of the active table. -/
def State.zones (s : State) : List (Nat × Zone) :=
  ((List.range 16).map (fun z => (z, s.zoneAt 0x02010000 z))).filter (fun x => x.2.en)

/-- Whether a point qualifies for a zone (R331). -/
def qualifies (z : Zone) (cells : List ZCell) (col : Nat) (p : Point) : Bool :=
  cells.any (fun c => decide (c.colLo ≤ col ∧ col ≤ c.colHi ∧ c.chLo ≤ p.chan ∧ p.chan ≤ c.chHi
    ∧ c.near ≤ p.cand.range ∧ p.cand.range ≤ c.far))
  && decide (0 < p.cand.range) && decide (z.confMin ≤ p.conf) && (p.flags &&& z.ignore) == 0

/-- Give a column's points and channel-wide flags to the zone evaluator (R202, R331). -/
def State.zoneColumn (s : State) (col : Nat) (chans : List ChanOut) (pts : List Point) : State :=
  if !s.isMS then s
  else
    let s := { s with zon := { s.zon with
      outCols := col :: s.zon.outCols,
      lastFlags := s.zon.lastFlags || chans.any (fun o => (o.wide &&& 0x240) != 0) } }
    s.forEach s.zones (fun s z =>
      let cells := s.zoneCells z.2
      let n := (pts.filter (qualifies z.2 cells col)).length
      let d := (chans.filter (fun o => (o.wide &&& z.2.unk) != 0 &&
        cells.any (fun c => decide (c.colLo ≤ col ∧ col ≤ c.colHi ∧ c.chLo ≤ o.chan ∧ o.chan ≤ c.chHi)))).length
      { s with zon := { s.zon with hits := Sp.put (fun _ => 0) s.zon.hits (z.1 * 4096 + col) n,
                                   doubt := Sp.put (fun _ => 0) s.zon.doubt (z.1 * 4096 + col) d } })

/-! ### The column's output -/

/-- The time and azimuth a header carries: those of shot 0; a column that fired none has neither (log entry 24). -/
def State.firstOf (s : State) (col : Column) : Nat × Nat × State :=
  match col.tFirst with
  | some t => (t, col.azimuth, s)
  | none =>
    let (t, s) := s.openNat 0x2050
    let (az, s) := s.openNat 0x2051
    (t, az % 2 ^ 20, s)

/-- The column header (R205). -/
def State.headerBytes (s : State) (col : Column) (cflags t az records noecho lowconf : Nat) : List Byte :=
  let azw := az * 4096 + s.f HNG_ID HNG_ID_INDEX * 512 + col.dir * 256 + col.profile
  leBytes 2 col.entry ++ leBytes 2 cflags ++ leBytes 4 col.frame ++ leBytes 8 t ++ leBytes 4 azw ++ leBytes 2 col.segmask
    ++ leBytes 1 col.fired ++ leBytes 1 (Nat.min col.coarse col.fired) ++ leBytes 2 records
    ++ leBytes 2 (rangeOf (s.rd EXT_SCALE).toNat (col.fold * 64) / 500) ++ leBytes 2 noecho ++ leBytes 2 lowconf

/-- The bits of CFLAGS that the set and the descriptor give (R203, R206). -/
def State.columnFlags (s : State) (col : Column) (chans : List Nat) : Nat :=
  (chans.foldl (fun m c => m ||| (s.setFlags col c &&& 0x4244)) 0)
    ||| (16 * b2n (decide (col.coarse < col.fired)) + 32 * b2n col.stolen + 256 * b2n col.allocCut + 1024 * b2n col.trunc
      + 2048 * b2n col.miss)

/-- The output of a stolen column (R206). -/
def State.stolenOut (s : State) (col : Column) : OutCol × State :=
  let (t, az, s) := s.firstOf col
  ({ column := col.entry, frame := col.frame,
     header := s.headerBytes col (s.columnFlags col s.activeChannels) t az 0 0 0,
     records := [], noecho := 0, lowconf := 0, far := 0, veil := 0, usable := false }, s)

/-- The records of one channel: its points, or a no-echo record (R202, R204). -/
def State.recordsOf (s : State) (col : Column) (o : ChanOut) : List (List Byte) :=
  let amb := Sp.get (fun _ => 0) col.amb o.chan
  if o.echoes = [] then
    if s.fb EXT_CTRL EXT_CTRL_NOECHO_REC then [pointRecord 0 0 o.chan 0 0 0 o.wide amb] else []
  else
    (s.pointsOf o).map (fun p =>
      pointRecord p.cand.range p.cand.intensity p.chan p.echo p.cand.width p.conf p.flags amb)

/-- The output of a column from its channels' outcomes (R193, R203–R206). -/
def State.columnOut (s : State) (col : Column) (outs : List ChanOut) (consensus : Bool) (veil : Nat) : OutCol × State :=
  let (t, az, s) := s.firstOf col
  let pts := outs.map s.pointsOf
  let recs := outs.flatMap (s.recordsOf col)
  let noecho := (pts.filter (·.isEmpty)).length
  let lowconf := (pts.filter (fun l => !l.isEmpty && l.all (fun p => decide (p.conf < s.f EXT_ALLOCQ EXT_ALLOCQ_CONF_LO)))).length
  let far := (pts.filter (fun l => l.any (fun p => decide (s.f EXT_ALLOCQ EXT_ALLOCQ_FAR_M * 500 ≤ p.cand.range)))).length
  let wide := outs.foldl (fun m o => m ||| (o.wide &&& 0x200A)) 0
  let own := (pts.flatMap id).foldl (fun m p => m ||| (p.flags &&& 0x1080)) 0
  let cflags := s.columnFlags col (outs.map (·.chan)) ||| wide ||| own ||| b2n consensus
  ({ column := col.entry, frame := col.frame, header := s.headerBytes col cflags t az recs.length noecho lowconf,
     records := recs, noecho := noecho, lowconf := lowconf, far := far, veil := veil, usable := !col.trunc }, s)

/-- Per-channel counts of a scan (R196, R199). -/
def State.countChannels (s : State) (outs : List ChanOut) : State :=
  s.forEach outs (fun s o =>
    let s := if o.veil then s.addSat (EXT_CH_CNT o.chan) EXT_CH_CNT_VEIL 1 else s
    if bit o.wide 1 then s.addSat (EXT_CH_CNT o.chan) EXT_CH_CNT_INTF 1 else s)

/-- The candidate of a GAIN column that counts for a channel: the largest s3 within the band (R456). -/
def State.gainCand (s : State) (l : List Cand) : Option Cand :=
  (l.filter (fun x => s.f CAL_GAIN_BAND CAL_GAIN_BAND_NEAR * 500 ≤ x.range
      ∧ x.range ≤ s.f CAL_GAIN_BAND CAL_GAIN_BAND_FAR * 500)).foldl (fun (best : Option Cand) x =>
    match best with
    | none => some x
    | some y => if y.s3 < x.s3 then some x else some y) none

/-- Tally a stolen column of GAIN (R456). -/
def State.tallyGain (s : State) (a : Scan) (col : Column) : State :=
  match s.cal.run with
  | none => s
  | some r =>
    if r.proc ≠ 7 then s
    else
      let chans := s.activeChannels.filter (bit r.mask)
      let gains := chans.foldl (fun m c =>
        match s.gainCand (s.candidates a col.set c).1 with
        | none => m
        | some x =>
          let (sum, n) := Sp.get (fun _ => (0, 0)) m c
          Sp.ins m c (sum + x.cnt, n + 1)) r.gains
      { s with cal := { s.cal with run := some { r with gains := gains, columns := r.columns + 1 } } }

/-- Extract a column that is not stolen: its output, with the effects on window levels, counts and zones. -/
def State.extractPlain (s : State) (a : Scan) (col : Column) : OutCol × State :=
  let chans := s.activeChannels
  let cands := chans.map (fun c => (c, s.candidates a col.set c))
  let veil := (cands.filter (fun x => x.2.1.any (·.veil))).length
  let consensus := s.fb EXT_CTRL EXT_CTRL_VEIL_EN && decide (s.f EXT_WX2 EXT_WX2_VEIL_CHMIN ≤ veil)
  let s := s.forEach chans (fun s c => s.windowTest a col.set c)
  let outs := cands.map (fun x => s.channelOut a col consensus x.1 x.2)
  let (out, s) := s.columnOut col outs consensus veil
  (out, (s.countChannels outs).zoneColumn col.entry outs (outs.flatMap s.pointsOf))

/-- Extract a column: the output that R204–R206 give it. -/
def State.extractColumn (s : State) (col : Column) : OutCol × State :=
  if col.stolen then (s.tallyGain (s.scanOf col) col).stolenOut col else s.extractPlain (s.scanOf col) col

/-- The column whose set closed first and awaits its scan (R183). -/
def State.nextScan (s : State) : Option Column :=
  ((s.hge.descs.map (·.2)).filter (fun c => s.setState c.set = 2)).foldl (fun (best : Option Column) c =>
    match best with
    | none => some c
    | some b => if c.serial < b.serial then some c else some b) none

/-- What takes effect at the start of a scan; a new NM1 brings its SCALE (R183, R191). -/
def State.releaseScan (s : State) : State :=
  let air := (Sp.find s.fir.held EXT_AIR).isSome
  let s := s.release scanClass
  if air then s.wr EXT_SCALE (BitVec.ofNat 32 (scaleOf (s.f EXT_AIR EXT_AIR_NM1))) else s

/-- The row of a scanned set that the recorder takes, as the scan reads its bins (R277, R278). -/
def State.rowOf (s : State) (col : Column) (t : Nat) : State :=
  if !s.recRows col.entry then s
  else
    let bank := s.f EVR_ROW_SEL EVR_ROW_SEL_BANK
    let chans := (bitsSet 4 (s.f EVR_ROW_SEL EVR_ROW_SEL_CHMASK)).map (fun m => 4 * bank + m)
    let data := (List.range s.binB).flatMap (fun b => chans.flatMap (fun c => s.bytes (binAddr .coarse col.set c b) 2))
    let pad := (16 - data.length % 16) % 16
    s.recRow col.entry col.frame (s.ef HGE_BIN HGE_BIN_WIDTH) s.binB t col.stolen (data ++ zeros pad)

/-- The window levels of a scanned column reach the window masks (R293). -/
def State.windowSample (s : State) (col : Column) : State :=
  if col.stolen then s
  else s.recWindow col.azimuth (s.activeChannels.map (fun c => (c, s.f (EXT_CH_WIN c) EXT_CH_WIN_WLEV)))

/-- The scan of a column's set (R166, R174, R183–R206). -/
def State.scanColumn (s : State) (col : Column) : State :=
  let s0 := s
  let s := ((s.releaseScan).putSet col.set 3).setF EXT_STATUS EXT_STATUS_BUSY 1
  let s := (s.scanMarks col.set).conservation col
  let (t, az, s) := s.firstOf col
  let col := { col with tFirst := some t, azimuth := az }
  let s := s.rowOf col t
  let (out, s) := s.extractColumn col
  let s := s.windowSample col
  let s := s.scanClear col
  { s with ext := { s.ext with busy := some (col.set, out), stalled := false } }.mismatchLimit s0

/-- EXTRACTION_SCAN: the oldest closed set is scanned, cleared, checked and extracted (R166, R174, R183). -/
def execExtractionScan (s : State) : Host.Outcome State Fault Refusal :=
  match s.nextScan with
  | none => .next s
  | some col => if s.ext.busy.isSome || !s.domOn 10 then .next s else .next (s.scanColumn col)

/-- The entries of the output crossing that earlier columns occupy. -/
def State.crossing (s : State) : Nat := s.ext.out.foldl (fun n o => n + 1 + o.records.length) 0

/-- EXTRACTION_END: refinement ends, the column's output enters the crossing and its set becomes FREE; a full crossing stalls
it (R31, R206). -/
def execExtractionEnd (s : State) : Host.Outcome State Fault Refusal :=
  match s.ext.busy with
  | none => .next s
  | some (set, out) =>
    if 1024 ≤ s.crossing then
      let s := if s.ext.stalled then s
        else (s.setF EXT_STATUS EXT_STATUS_STALLED 1).addSat EXT_CNT_STALL EXT_CNT_STALL_STALLS 1
      .next { s with ext := { s.ext with stalled := true } }
    else
      let s := (s.putSet set 0).setF EXT_STATUS EXT_STATUS_BUSY 0
      let s := { s with ext := { busy := none, stalled := false, out := s.ext.out ++ [out] },
                        hge := { s.hge with descs := Sp.del s.hge.descs set } }
      .next (if s.scanning then s else s.settleRetain)

end Sys2Proof.Machine
end

