-- ==== Sys2Proof/Machine/Calib.lean ====
section
/-! DEFINITION. Calibration (chapter 17): requests, steps, the formulas of the procedures, acceptance and quality figures, stale domains
and the retained set (R451–R470). -/

namespace Sys2Proof.Machine

open Reg

/-! ### Masks, domains, durations (R451, R458) -/

/-- The masked channels. -/
def maskChannels (mask : Nat) : List Nat := bitsSet 512 mask

/-- The quarters that hold masked channels. -/
def maskQuarters (mask : Nat) : List Nat := (List.range 4).filter (fun q => bits mask (128 * q) 128 != 0)

/-- The groups that hold masked channels. -/
def maskGroups (mask : Nat) : List Nat := (List.range 128).filter (fun g => bits mask (4 * g) 4 != 0)

/-- The domains a procedure uses (R458 check 6). -/
def calDomains (proc mask : Nat) (fref : Bool) : List Nat :=
  (if proc ≤ 5 then (maskQuarters mask).map (6 + ·)
   else if proc = 8 then (maskQuarters mask).map (2 + ·) else [10, 11]) ++ (if fref then [11] else [])

/-- The steps of a non-emitting procedure, 4 µs each (R451). [DEDUCED, log 42] -/
def calSteps (proc mask : Nat) : Nat :=
  if proc = 1 then 500 else if proc = 2 then 1050 else if proc = 3 then 550 else if proc = 4 then 105 else if proc = 5 then 80
  else if proc = 8 then 100 * (maskQuarters mask).length else 0

/-- The masked inputs that OFFSET, THRESHOLD, WALK and SKEW do not skip: ANALOG or SPAD (R462). -/
def State.calInputs (s : State) (mask : Nat) : List Nat :=
  (maskChannels mask).filter (fun n => s.f (RFE_CFG n) RFE_CFG_MODE == 1 || s.f (RFE_CFG n) RFE_CFG_MODE == 2)

/-- The lowest masked channel whose group combines its channels (R458 check 7). -/
def State.combined (s : State) (mask : Nat) : Option Nat :=
  (maskChannels mask).find? (fun n => !s.fb (TMB_GRP_CFG (n / 4)) TMB_GRP_CFG_BYPASS)

/-- Checks 6 and 7 of R458, which a start repeats (R459). -/
def State.calStartChecks (s : State) (proc mask : Nat) (fref : Bool) : List Check :=
  [ chk ((calDomains proc mask fref).any (fun d => !s.domOn d)) stRefused,
    ⟨decide (proc = 3) && (s.combined mask).isSome, stRefused, (s.combined mask).getD 0⟩ ]

/-! ### The predicted gap (R460) -/

/-- The length of the frame in progress, in ticks: as it was once it has ended, else the periods of its columns (log entry 40). -/
def State.frameLength (s : State) : Nat :=
  let start := s.rd64 FIR_FSTART_LO FIR_FSTART_HI
  match s.fir.frameOpen, s.fir.frameEnd with
  | false, some e => s.tbsAt e - start
  | _, _ => (List.range s.columns).foldl (fun n i => n + (s.active i).period * 640) 0

/-- Ticks from now to the end of the frame in progress, 0 once it has ended. -/
def State.toFrameEnd (s : State) : Nat :=
  if s.fir.frameOpen then s.rd64 FIR_FSTART_LO FIR_FSTART_HI + s.frameLength - s.tbs else 0

/-- Ticks from the end of the frame in progress to the next slot of the schedule; `none` without a schedule. -/
def State.slotGap (s : State) : Option Nat :=
  match s.fir.sched with
  | none => none
  | some (t0, _) =>
    let x := s.f FIR_SCHED FIR_SCHED_TB
    let left := s.toFrameEnd
    let step := (2 ^ 10 * (2 ^ 32 + s.netRate x)).toNat
    let at' := (s.netTime x + left * step) / 2 ^ 48
    let per := Nat.max 1 s.framePer
    let m := if at' ≤ t0 then 0 else (at' - t0 + per - 1) / per
    some (ticksTo (s.netRate x) (s.netTime x) ((t0 + m * per) * 2 ^ 48) - left)

/-- The shortest frame-start interval of the last 4 frames; 0 when there is none yet. -/
def State.shortestInterval (s : State) : Nat :=
  let l := s.fir.starts
  let d := (List.range (l.length - 1)).map (fun i => l.getD i 0 - l.getD (i + 1) 0)
  d.foldl Nat.min (d.headD 0)

/-- The predicted gap, in ticks; `none` when no frame start can end it. [DEDUCED, log 40] -/
def State.predictedGap (s : State) : Option Nat :=
  let less := 10 * tickUs
  match s.fsrc with
  | 0 => some (s.gapMin * tickUs - less)
  | 2 => s.slotGap.map (· - less)
  | _ => some (s.shortestInterval - s.frameLength - less)

/-- Whether a procedure of so many steps fits the predicted gap. -/
def State.gapFits (s : State) (steps : Nat) : Bool :=
  match s.predictedGap with
  | none => true
  | some g => decide (steps * 4 * tickUs ≤ g)

/-! ### Ends (R463–R466) -/

/-- Record the end of a procedure and report it (R458, R465, R466). -/
def State.calFinish (s : State) (proc status detail q0 q1 : Nat) : State :=
  let old := Sp.get (fun _ => ({} : CalEnd)) s.cal.ends proc
  let e : CalEnd := { status := status, detail := detail, runs := old.runs + 1, tbl := s.tbl, q0 := q0, q1 := q1 }
  let s := { s with cal := { s.cal with run := none, ends := Sp.ins s.cal.ends proc e } }
  let s := s.calIdle.setF CAL_STATE CAL_STATE_LAST proc
  let s := (s.setF CAL_RES0 CAL_RES0_STATUS status).setF CAL_RES0 CAL_RES0_DETAIL detail
  let s := (s.wr CAL_RES1 (BitVec.ofNat 32 q0)).wr CAL_RES2 (BitVec.ofNat 32 q1)
  s.finishJobs 0x0400 status detail []

/-- End a procedure whose quality figures the spec does not state, as free values (R462, R465). [DEDUCED, log 42] -/
def State.calFinishOpen (s : State) (proc status detail : Nat) : State :=
  let (q0, s) := s.openNat CAL_RES1
  let (q1, s) := s.openNat CAL_RES2
  s.calFinish proc status detail (q0 % 2 ^ 32) (q1 % 2 ^ 32)

/-- A deferred procedure is given up before it starts: its EVT_DEFERRED reports, and nothing counts as an abort (R460). -/
def State.calDrop (s : State) (status detail : Nat) : State :=
  State.finishJobs (State.calIdle { s with cal := { s.cal with run := none } }) 0x0400 status detail []

/-! ### Requests (R458, R459) -/

/-- Whether a segment may be named by FIRE_SKEW: its output is enabled and its fire reference is not OFF. -/
def State.segReady (s : State) (g : Nat) : Bool :=
  s.fb (FIR_OUT_CFG g) FIR_OUT_CFG_EN && s.frefMode (s.segRef g) != 0

/-- Whether the active table has a column that calibration may steal. -/
def State.anyEligible (s : State) : Bool :=
  (List.range s.columns).any (fun i => (s.active i).shots != 0 && !(s.active i).nosteal)

/-- The checks of CAL_RUN, in the order of R458. -/
def State.calRunChecks (s : State) (p : List Byte) : List Check :=
  let proc := fld p 16 1
  let flags := fld p 17 1
  let segs := fld p 18 2
  let mask := fld p 20 64
  let fref := flags % 2 == 1
  let steal := s.fb CAL_POLICY CAL_POLICY_STEAL
  [ par (decide (proc = 0 ∨ 8 < proc)) 16,
    par (decide (2 ≤ flags) || (fref && !(proc == 3 || proc == 4))) 17,
    par (if proc = 6 then decide (segs = 0) || (bitsSet 16 segs).any (fun g => !s.segReady g) else decide (segs ≠ 0)) 18,
    par ((if proc = 6 then decide (mask ≠ 0) else decide (mask = 0)) || decide (mask / 2 ^ s.channels ≠ 0)) 20,
    chk s.cal.run.isSome stBusy ] ++ s.calStartChecks proc mask fref ++
  [ chk (if s.scanning then proc == 8 else calEmits proc) stRefused,
    chk (s.scanning && calEmits proc && !steal) stBusy,
    chk (s.scanning && (if steal then !s.anyEligible else !s.gapFits (calSteps proc mask))) stBusy ]

/-- CAL_STATE of a procedure in a phase. -/
def State.calShow (s : State) (proc phase : Nat) : State :=
  ((s.setF CAL_STATE CAL_STATE_RUN 1).setF CAL_STATE CAL_STATE_PROC proc).setF CAL_STATE CAL_STATE_PHASE phase

/-- CAL_RUN (R458–R461). -/
def execCalRun (q : Req) (p : List Byte) (s : State) : Host.Outcome State Fault Refusal :=
  .next (s.fixed q 0x0400 p 68 (fun s => s.calRunChecks p) (fun s =>
    let proc := fld p 16 1
    let mode := if !s.scanning then CalMode.direct else if s.fb CAL_POLICY CAL_POLICY_STEAL then .steal else .gap
    let r : CalRun := { proc := proc, fref := fld p 17 1 == 1, segs := fld p 18 2, mask := fld p 20 64, mode := mode,
                        started := mode != .gap }
    let s := (s.reply q 0x0400 stDeferred 0).addJob { req := q, opc := 0x0400 }
    let s := { s with cal := { s.cal with run := some r } }
    s.calShow proc (match mode with | .direct => 3 | .gap => 1 | .steal => 2)))

/-! ### Steps (R459–R462) -/

/-- The input that fails a dark check: the lowest masked one whose count exceeds the limit (R462). -/
def State.darkFail (s : State) (r : CalRun) (counts : List (Nat × Nat)) : Option Nat :=
  (s.calInputs r.mask).find? (fun n => decide (s.f CAL_DARK_LIMIT CAL_DARK_LIMIT_LIMIT < Sp.get (fun _ => 0) counts n))

/-- Whether a step ends a dark check: the 25th and the last of OFFSET and THRESHOLD (R462). -/
def darkStep (proc mask step : Nat) : Bool := (proc == 1 || proc == 2) && (step == 25 || step == calSteps proc mask)

/-- One step of 4 µs has been done. -/
def State.calStepDone (s : State) (r : CalRun) (counts : List (Nat × Nat)) : State :=
  let r := { r with steps := r.steps + 1 }
  let s := { s with cal := { s.cal with run := some r } }.setF CAL_STATE CAL_STATE_STEPS r.steps
  if darkStep r.proc r.mask r.steps then
    match s.darkFail r counts with
    | some n => s.calFinishOpen r.proc stNotQuiet n
    | none => s
  else s

/-- CAL_PROCEDURE_STEP: the next step of a non-emitting procedure, with the edges counted per input when a dark check ends here
(R459–R462). A procedure that leaves SCANNING before it has started repeats its start checks. -/
def execCalProcedureStep (counts : List (Nat × Nat)) (s : State) : Host.Outcome State Fault Refusal :=
  match s.cal.run with
  | none => .next s
  | some r =>
    if calEmits r.proc || decide (calSteps r.proc r.mask ≤ r.steps) then .next s
    else
      match r.mode with
      | .steal =>
        match r.window with
        | none => .next s
        | some (a, b) =>
          let start := Nat.max a s.tbs
          if b < start + 4 * tickUs then .next { s with cal := { s.cal with run := some { r with window := none } } }
          else .next ((s.toTbs (start + 4 * tickUs)).calStepDone r counts)
      | .gap => if r.started then .next ((s.at_ (s.tm.now + 4 * tickUs)).calStepDone r counts) else .next s
      | .direct =>
        match (if r.started then none else firstBad (s.calStartChecks r.proc r.mask r.fref)) with
        | some c => .next (s.calDrop c.status c.detail)
        | none =>
          let s := (s.at_ (s.tm.now + 4 * tickUs)).calShow r.proc 3
          .next (s.calStepDone { r with started := true } counts)

/-! ### Results (R451–R457, R464, R465)

An end carries, per input, group, segment or quarter, the figures measured; a key not listed measured zeros. The words written
and the quality figures follow from them by the formulas of the procedures. -/

/-- What a procedure makes of its measurements: words by register address, differences d_n, figures, and the first failing key. -/
structure CalOut where
  words : List (Nat × Word) := []
  ds : List (Nat × Int) := []
  q0 : Nat := 0
  q1 : Nat := 0
  fail : Option Nat := none
  deriving DecidableEq, Repr

/-- The figures measured for a key. [DEDUCED, log 41] -/
def measured (vals : List (Nat × List Int)) (k i : Nat) : Int := (Sp.get (fun _ => []) vals k).getD i 0

/-- The largest of a list of sizes. -/
def maxNat (l : List Nat) : Nat := l.foldl Nat.max 0

/-- OFFSET: CMP_LO, CMP_HI, BASE and the residual baseline and comparator offsets in µV of each input. -/
def State.calOffset (s : State) (r : CalRun) (v : List (Nat × List Int)) : CalOut :=
  let ns := s.calInputs r.mask
  let bad (n : Nat) : Bool := decide (1000 < (measured v n 3).natAbs) || decide (500 < (measured v n 4).natAbs)
    || [0, 1, 2].any (fun i => measured v n i == -32 || measured v n i == 31)
  let word (n : Nat) : Word := RFE_TRIM_CMP_LO.set (RFE_TRIM_CMP_HI.set (RFE_TRIM_BASE.set 0 (ux 6 (measured v n 2)))
    (ux 6 (measured v n 1))) (ux 6 (measured v n 0))
  { words := ns.map (fun n => (RFE_TRIM n, word n)), q0 := maxNat (ns.map (fun n => (measured v n 3).natAbs)),
    q1 := maxNat (ns.map (fun n => (measured v n 4).natAbs)), fail := ns.find? bad }

/-- THRESHOLD: t_n of each input. -/
def State.calThreshold (s : State) (r : CalRun) (v : List (Nat × List Int)) : CalOut :=
  let ns := s.calInputs r.mask
  let t (n : Nat) : Nat := (measured v n 0).toNat
  let lo (n : Nat) : Word := RFE_THR_LO.set (s.rd (RFE_THR n)) (Nat.min 1023 (t n + s.f CAL_CFG CAL_CFG_LO_MARGIN))
  { words := ns.map (fun n => (RFE_THR n, lo n)), q0 := maxNat (ns.map t),
    q1 := (ns.map t).foldl Nat.min (maxNat (ns.map t)), fail := ns.find? (fun n => decide (200 < t n)) }

/-- The number of hits CODE_DENSITY collects in a group (R452). -/
def cdHits : Nat := 262144

/-- f[p] from the hits h and their cumulated sum H (R452). -/
def cdEntry' (cum h : Nat) : Nat := Nat.min 255 ((256 * (2 * cum + h) + cdHits) / (2 * cdHits))

/-- The cumulated sums of 64 hit counts. -/
def cumulate : Nat → List Nat → List Nat
  | _, [] => []
  | c, h :: t => c :: cumulate (c + h) t

/-- The hits of a group's 64 taps. -/
def cdOf (v : List (Nat × List Int)) (g : Nat) : List Nat := (List.range 64).map (fun i => (measured v g i).toNat)

/-- The 16 words of a code-density table. -/
def cdWordsOf (hs : List Nat) : List Word :=
  let cs := cumulate 0 hs
  let f := (List.range 64).map (fun p => cdEntry' (cs.getD p 0) (hs.getD p 0))
  (List.range 16).map (fun j => BitVec.ofNat 32 (leNat ((List.range 4).map (fun i => BitVec.ofNat 8 (f.getD (4 * j + i) 0)))))

/-- Largest raw |DNL| and |INL| of a group, in mLSB (R465). -/
def cdFigures (hs : List Nat) : Nat × Nat :=
  let cs := cumulate 0 hs
  let dnl := hs.map (fun h => (1000 * ((64 * h : Nat) - (cdHits : Nat) : Int)).natAbs / cdHits)
  let inl := (List.range 64).map (fun p => (1000 * ((64 * cs.getD p 0 : Nat) - (p * cdHits : Nat) : Int)).natAbs / cdHits)
  (maxNat dnl, maxNat inl)

/-- The groups a procedure measures; 128 stands for the fire references. -/
def calGroups (r : CalRun) : List Nat := maskGroups r.mask ++ (if r.fref then [128] else [])

/-- The first masked channel of a group; 0 for the fire references. -/
def groupChannel (mask g : Nat) : Nat := if g = 128 then 0 else 4 * g + lowestSet 4 (bits mask (4 * g) 4)

/-- CODE_DENSITY: the hits of each tap of each group. -/
def State.calDensity (_ : State) (r : CalRun) (v : List (Nat × List Int)) : CalOut :=
  let gs := calGroups r
  let addr (g j : Nat) : Nat := if g = 128 then TDC_FREF_CD j else TDC_CD g j
  let bad (g : Nat) : Bool :=
    let hs := cdOf v g
    decide (900 ≤ (cdFigures hs).1) || decide (8000 < (cdFigures hs).2) || hs.foldl (· + ·) 0 != cdHits
  { words := gs.flatMap (fun g => (List.range 16).map (fun j => (addr g j, (cdWordsOf (cdOf v g)).getD j 0))),
    q0 := maxNat (gs.map (fun g => (cdFigures (cdOf v g)).1)), q1 := maxNat (gs.map (fun g => (cdFigures (cdOf v g)).2)),
    fail := (gs.find? bad).map (groupChannel r.mask) }

/-- The measured points (ToT, δ) of a group, in the order of TPI_AMP, from its figures after the first. -/
def walkPoints : List Int → List (Int × Int)
  | t :: d :: rest => (t, d) :: walkPoints rest
  | _ => []

/-- The value at a ToT between measured points of rising ToT, held at the ends (R453). -/
def walkInterp (tot : Int) : List (Int × Int) → Int
  | [] => 0
  | [(_, d)] => d
  | (t0, d0) :: (t1, d1) :: rest =>
    if tot ≤ t0 then d0
    else if tot ≤ t1 then d0 + ((d1 - d0) * (tot - t0)).tdiv (if t1 = t0 then 1 else t1 - t0)
    else walkInterp tot ((t1, d1) :: rest)

/-- The 32 entries of a group's walk table, in quarter-ticks (R453). -/
def State.walkTable (s : State) (v : List (Nat × List Int)) (g : Nat) : List Int :=
  let pts := walkPoints ((Sp.get (fun _ => []) v g).drop 1)
  let ref := (pts.getLastD (0, 0)).2
  (List.range 32).map (fun i => walkInterp ((i * 2 ^ s.f TDC_CTRL TDC_CTRL_WALK_SHIFT : Nat) : Int) pts - ref)

/-- WALK: per group the rms residual in 0.1 ps, then ToT and δ of the points at each TPI_AMP. -/
def State.calWalk (s : State) (r : CalRun) (v : List (Nat × List Int)) : CalOut :=
  let gs := (calGroups r).filter (fun g => g == 128 || (s.calInputs r.mask).any (fun n => n / 4 == g))
  let addr (g j : Nat) : Nat := if g = 128 then TDC_FREF_WALK j else TDC_WALK g j
  let big (g : Nat) : Nat := maxNat ((s.walkTable v g).map Int.natAbs)
  let word (g j : Nat) : Word :=
    let w := s.walkTable v g
    BitVec.ofNat 32 (ux 16 (w.getD (2 * j) 0) + 65536 * ux 16 (w.getD (2 * j + 1) 0))
  { words := gs.flatMap (fun g => (List.range 16).map (fun j => (addr g j, word g j))),
    q0 := maxNat (gs.map (fun g => (measured v g 0).toNat)), q1 := maxNat (gs.map big),
    fail := (gs.find? (fun g => decide (100 < measured v g 0) || decide (2048 < big g))).map (groupChannel r.mask) }

/-- SKEW: d_n and the rms of single injections of each input (R454). -/
def State.calSkew (s : State) (r : CalRun) (v : List (Nat × List Int)) : CalOut :=
  let ns := s.calInputs r.mask
  let word (n : Nat) : Word :=
    BitVec.ofNat 32 (ux 16 (sx 16 (s.f (RFE_SKEW n) RFE_SKEW_SKEW) - Sp.get (fun _ => 0) s.cal.keptD n + measured v n 0))
  { words := ns.map (fun n => (RFE_SKEW n, word n)), ds := ns.map (fun n => (n, measured v n 0)),
    q0 := maxNat (ns.map (fun n => (measured v n 0).natAbs)), q1 := maxNat (ns.map (fun n => (measured v n 1).toNat)),
    fail := ns.find? (fun n => decide (640 < (measured v n 0).natAbs) || decide (280 < measured v n 1)) }

/-- Numerator and count of e_s of a segment, with its misses (R455). -/
def segTally (r : CalRun) (g : Nat) : Int × Nat × Nat := Sp.get (fun _ => (0, 0, 0)) r.skew g

/-- FIRE_SKEW: DLY of each named segment; the rms of the emission delay per segment is measured (R455). -/
def State.calFireSkew (s : State) (r : CalRun) (v : List (Nat × List Int)) : CalOut :=
  let gs := bitsSet 16 r.segs
  let e (g : Nat) : Int := 64 * (segTally r g).1 / Nat.max 1 (segTally r g).2.1
  let top := gs.foldl (fun m g => if m < e g then e g else m) (e (gs.headD 0))
  let dly (g : Nat) : Nat := ((top - e g + 32) / 64).toNat
  { words := gs.map (fun g => (FIR_OUT_CFG g, FIR_OUT_CFG_DLY.set (s.rd (FIR_OUT_CFG g)) (dly g))),
    q0 := maxNat (gs.map dly), q1 := maxNat (gs.map (fun g => (measured v g 0).toNat)),
    fail := gs.find? (fun g => decide (8 < (segTally r g).2.2) || decide (4095 < dly g) || decide (300 < measured v g 0)) }

/-- GAIN of each active masked channel (R456). -/
def State.calGain (s : State) (r : CalRun) (_ : List (Nat × List Int)) : CalOut :=
  let cs := s.activeChannels.filter (bit r.mask)
  let tally (c : Nat) : Nat × Nat := Sp.get (fun _ => (0, 0)) r.gains c
  let m (c : Nat) : Nat := Nat.max 1 ((tally c).1 / Nat.max 1 (tally c).2)
  let gain (c : Nat) : Nat := Nat.min 0xFFFF ((Nat.max 1 (s.f CAL_GAIN_CFG CAL_GAIN_CFG_TARGET) * 256 + m c / 2) / m c)
  let all := cs.map gain
  { words := cs.map (fun c => (EXT_CH_CFG c, EXT_CH_CFG_GAIN.set (s.rd (EXT_CH_CFG c)) (gain c))),
    q0 := all.foldl Nat.min (maxNat all), q1 := maxNat all,
    fail := cs.find? (fun c => decide ((tally c).2 < 128) || decide (gain c < 64) || decide (1024 < gain c)) }

/-- MEMTEST: failing words and the bank of the first of each quarter (R457). -/
def State.calMemtest (_ : State) (r : CalRun) (v : List (Nat × List Int)) : CalOut :=
  let qs := maskQuarters r.mask
  let bad := qs.filter (fun q => decide (measured v q 0 ≠ 0))
  let bank := (bad.head?.map (fun q => (measured v q 1).toNat)).getD 0
  { q0 := qs.foldl (fun n q => n + (measured v q 0).toNat) 0, q1 := bank, fail := bad.head?.map (fun _ => 4 * bank) }

/-- What a procedure makes of its measurements. [DEDUCED, log 41] -/
def State.calOut (s : State) (r : CalRun) (v : List (Nat × List Int)) : CalOut :=
  match r.proc with
  | 1 => s.calOffset r v
  | 2 => s.calThreshold r v
  | 3 => s.calDensity r v
  | 4 => s.calWalk r v
  | 5 => s.calSkew r v
  | 6 => s.calFireSkew r v
  | 7 => s.calGain r v
  | _ => s.calMemtest r v

/-- Leave the memory of a histogram quarter cleared with valid codes (R176, R181, R457). -/
def State.clearQuarter (s : State) (q : Nat) : State :=
  let s := s.forEach [0, 1] (fun s set =>
    let a := 0x10000000 + set * 0x500000
    let z := 0x10A00000 + set * 0x80000
    let u := 0x10B00000 + set * 0x80000
    ((s.clearMem (a + q * 128 * 10240) (a + (q + 1) * 128 * 10240)).clearMem (z + q * 131072) (z + (q + 1) * 131072)).clearMem
      (u + q * 131072) (u + (q + 1) * 131072))
  { s with hge := { s.hge with ecc := Sp.drop (fun k => k / 8192 % 128 / 32 == q) s.hge.ecc } }

/-- A histogram quarter passes or fails its march test (R176, R457, R468). [DEDUCED, log 43] -/
def State.quarterTested (s : State) (q : Nat) (failed : Bool) : State :=
  let s := s.clearQuarter q
  if failed then s.setF HGE_STATUS HGE_STATUS_BIST_FAIL (s.f HGE_STATUS HGE_STATUS_BIST_FAIL ||| 2 ^ q)
  else
    let w := (s.rd CAL_STALE).toNat
    s.wr CAL_STALE (BitVec.ofNat 32 (w - (w &&& (2 ^ q + 2 ^ (16 + q)))))

/-- The DONE bit of a procedure (CAL_DONE). -/
def doneBit (proc : Nat) : Option Nat :=
  if proc = 1 then some 0 else if proc = 3 then some 1 else if proc = 4 then some 2 else if proc = 5 then some 3 else none

/-- Whether a mask qualifies a front-end quarter: every input in ANALOG or SPAD, or any channel where there is no such input
(R468). -/
def State.qualifies (s : State) (mask q : Nat) : Bool :=
  let live := (List.range 128).filter (fun i => s.inputOn (128 * q + i)
    && (s.f (RFE_CFG (128 * q + i)) RFE_CFG_MODE == 1 || s.f (RFE_CFG (128 * q + i)) RFE_CFG_MODE == 2))
  if live.isEmpty then bits mask (128 * q) 128 != 0 else live.all (fun i => bit mask (128 * q + i))

/-- Set the DONE bits of a passing procedure, and clear STALE and ACCEPTED of quarters with all four (R468, R470). -/
def State.markDone (s : State) (r : CalRun) : State :=
  match doneBit r.proc with
  | none => s
  | some b =>
    s.forEach (List.range 4) (fun s q =>
      if !s.qualifies r.mask q then s
      else
        let s := s.wr CAL_DONE (BitVec.ofNat 32 ((s.rd CAL_DONE).toNat ||| 2 ^ (4 * q + b)))
        if bits (s.rd CAL_DONE).toNat (4 * q) 4 = 15 then
          let w := (s.rd CAL_STALE).toNat
          s.wr CAL_STALE (BitVec.ofNat 32 (w - (w &&& (2 ^ (4 + q) + 2 ^ (20 + q)))))
        else s)

/-- Write the results at one instant; in SCANNING they take effect at the next column's first shot (R107, R464). -/
def State.calWrite (s : State) (words : List (Nat × Word)) : State :=
  s.forEach words (fun s x => ((if s.scanning && blkOf x.1 != some .EXT then s.hold x.1 else s).wr x.1 x.2))

/-- The retained set takes the results of a passing OFFSET, CODE_DENSITY, WALK or SKEW (R469). -/
def State.calKeep (s : State) (r : CalRun) (o : CalOut) : State :=
  if (doneBit r.proc).isNone then s
  else
    let keep := o.words.filter (fun x => !(decide (TDC_FREF_CD 0 ≤ x.1) && decide (x.1 < TDC_FREF_WALK 16)))
    { s with cal := { s.cal with kept := keep.foldl (fun m x => Sp.ins m x.1 x.2) s.cal.kept,
                                 keptD := o.ds.foldl (fun m x => Sp.ins m x.1 x.2) s.cal.keptD, empty := false } }

/-- Whether a procedure has done everything its end waits for (R451, R455, R456). -/
def calComplete (r : CalRun) : Bool :=
  if r.proc = 6 then
    (bitsSet 16 r.segs).all (fun g => decide (64 ≤ (segTally r g).2.1)) || (bitsSet 16 r.segs).any (fun g => decide (8 < (segTally r g).2.2))
  else if r.proc = 7 then decide (256 ≤ r.columns)
  else r.started && decide (calSteps r.proc r.mask ≤ r.steps)

/-- CAL_PROCEDURE_END: the procedure ends with its measurements, writes its results when every limit is met, and reports
(R451–R457, R464, R465, R468, R469). -/
def execCalProcedureEnd (vals : List (Nat × List Int)) (s : State) : Host.Outcome State Fault Refusal :=
  match s.cal.run with
  | none => .next s
  | some r =>
    if !calComplete r then .next s
    else
      let o := s.calOut r vals
      let s := if r.proc = 8 then
          s.forEach (maskQuarters r.mask) (fun s q => s.quarterTested q (decide (measured vals q 0 ≠ 0)))
        else s
      match o.fail with
      | some d => .next (s.calFinish r.proc stCalFailed d o.q0 o.q1)
      | none => .next ((((s.calWrite o.words).calKeep r o).markDone r).calFinish r.proc stOk 0 o.q0 o.q1)

/-! ### Frame boundaries (R460, R461) -/

/-- The calibration at the start of a frame gap: a waiting procedure starts when it fits, or gives up after 4 gaps; a stealing one
is abandoned after 4 frames without an eligible column. -/
def State.calFrameGap (s : State) : State :=
  match s.cal.run with
  | none => s
  | some r =>
    match r.mode with
    | .direct => s
    | .gap =>
      if r.started then s
      else if s.gapFits (calSteps r.proc r.mask) then
        match firstBad (s.calStartChecks r.proc r.mask r.fref) with
        | some c => s.calDrop c.status c.detail
        | none => State.calShow { s with cal := { s.cal with run := some { r with started := true } } } r.proc 3
      else if 3 ≤ r.gaps then s.calDrop stBusy 0
      else { s with cal := { s.cal with run := some { r with gaps := r.gaps + 1 } } }
    | .steal =>
      if r.frameHad then { s with cal := { s.cal with run := some { r with frameHad := false, barren := 0 } } }
      else if 3 ≤ r.barren then s.calAbandon stBusy
      else { s with cal := { s.cal with run := some { r with barren := r.barren + 1 } } }

/-! ### Other commands (R466, R470) -/

/-- CAL_STATUS (R466). -/
def execCalStatus (q : Req) (p : List Byte) (s : State) : Host.Outcome State Fault Refusal :=
  .next (s.fixed q 0x0401 p 4
    (fun _ => [ par (decide (fld p 16 1 = 0 ∨ 8 < fld p 16 1)) 16, par (firstNonZero p 17 3) 17 ])
    (fun s =>
      let e := Sp.get (fun _ => ({} : CalEnd)) s.cal.ends (fld p 16 1)
      s.replyOk q 0x0401 (leBytes 2 e.status ++ leBytes 2 e.detail ++ leBytes 4 e.runs ++ leBytes 8 e.tbl
        ++ leBytes 4 e.q0 ++ leBytes 4 e.q1)))

/-- CAL_ACCEPT_STALE (R470). -/
def execCalAcceptStale (q : Req) (p : List Byte) (s : State) : Host.Outcome State Fault Refusal :=
  .next (s.fixed q 0x0402 p 4 (fun _ => [ par (decide (fld p 16 4 % 4 ≠ 0 ∨ 1024 ≤ fld p 16 4)) 16 ])
    (fun s =>
      let acc := s.f CAL_STALE CAL_STALE_ACCEPTED ||| (fld p 16 4 / 4 &&& s.f CAL_STALE CAL_STALE_STALE)
      (s.setF CAL_STALE CAL_STALE_ACCEPTED acc).reply q 0x0402 stOk 0))

/-- Whether a running procedure writes a register, so that a host write to it is ignored (R464). -/
def State.calOwns (s : State) (a : Nat) : Bool :=
  match s.cal.run with
  | none => false
  | some r =>
    r.started && match r.proc with
      | 1 => (maskChannels r.mask).any (fun n => RFE_TRIM n == a)
      | 2 => (maskChannels r.mask).any (fun n => RFE_THR n == a)
      | 3 => decide (TDC_CD 0 0 ≤ a ∧ a < TDC_CD 128 0) && bits r.mask ((a - TDC_CD 0 0) / 0x40 * 4) 4 != 0
             || (r.fref && decide (TDC_FREF_CD 0 ≤ a ∧ a < TDC_FREF_CD 16))
      | 4 => decide (TDC_WALK 0 0 ≤ a ∧ a < TDC_WALK 128 0) && bits r.mask ((a - TDC_WALK 0 0) / 0x40 * 4) 4 != 0
             || (r.fref && decide (TDC_FREF_WALK 0 ≤ a ∧ a < TDC_FREF_WALK 16))
      | 5 => (maskChannels r.mask).any (fun n => RFE_SKEW n == a)
      | 6 => (bitsSet 16 r.segs).any (fun g => FIR_OUT_CFG g == a)
      | 7 => (maskChannels r.mask).any (fun n => EXT_CH_CFG n == a)
      | _ => false

/-- Whether a running MEMTEST owns a byte of the histogram window (R457, R464). -/
def State.calOwnsMem (s : State) (c : Nat) : Bool :=
  match s.cal.run with
  | some r => r.started && r.proc == 8 && (maskQuarters r.mask).contains (c / 128)
  | none => false

/-- Set CAL_STATE.WR_IGNORED. -/
def State.calIgnored (s : State) : State := s.setF CAL_STATE CAL_STATE_WR_IGNORED 1

/-- A procedure that uses a domain is abandoned when the domain switches off (R463). -/
def State.calDomainOff (s : State) (d : Nat) : State :=
  match s.cal.run with
  | none => s
  | some r => if (calDomains r.proc r.mask r.fref).contains d then s.calAbandon stRefused else s

/-- Mark a quarter CAL_STALE (R468). -/
def State.markStale (s : State) (d : Nat) : State :=
  if d < 2 ∨ 9 < d then s
  else
    let s := s.setF CAL_STALE CAL_STALE_STALE (s.f CAL_STALE CAL_STALE_STALE ||| 2 ^ (d - 2))
    let a := s.f CAL_STALE CAL_STALE_ACCEPTED
    let s := s.setF CAL_STALE CAL_STALE_ACCEPTED (a - (a &&& 2 ^ (d - 2)))
    if d < 6 then s
    else
      let w := (s.rd CAL_DONE).toNat
      s.wr CAL_DONE (BitVec.ofNat 32 (w - (w &&& 15 * 2 ^ (4 * (d - 6)))))

end Sys2Proof.Machine
end

