-- ==== Sys2Proof/Machine/Monitor.lean ====
section
/-! DEFINITION. The monitor ADC, its sequencer and the decimating filter chains (chapter 10). -/

namespace Sys2Proof.Machine

open Reg

/-! ### Converters -/

/-- One 80 MHz cycle, in ticks. -/
def adcCycle : Nat := 800

/-- The first 80 MHz cycle at or after a device time. -/
def adcCeil (t : Nat) : Nat := (t + 799) / 800 * 800

/-- The length of a conversion: 16 cycles (R255). -/
def adcConv : Nat := 12800

/-- When a converter is free. -/
def State.adcFree (s : State) (j : Nat) : Nat := Sp.get (fun _ => 0) s.mad.free j

/-- Occupy a converter by a conversion that starts at a device time. -/
def State.adcBusy (s : State) (j start : Nat) : State :=
  { s with mad := { s.mad with free := Sp.put (fun _ => 0) s.mad.free j (start + adcConv) } }

/-- The tick channel byte of a converter (R259). -/
def State.tickByte (s : State) (j : Nat) : Nat := bits (s.rd MAD_TICK_CH).toNat (8 * j) 8

/-- Whether REF_RDY is 1. -/
def State.refReady (s : State) : Bool := s.domOn 13 && s.fb MAD_STATUS MAD_STATUS_REF_RDY

/-- The servo tick predicted next (R256). -/
def State.tickNext (s : State) : Nat := s.srv.tickAt + s.f SRV_TICK SRV_TICK_PERIOD * 128

/-- The first cycle at or after a device time at which converters are free and outside hold-off (R256). -/
def State.convStart (s : State) (convs : List Nat) (from_ : Nat) : Nat :=
  let t0 := adcCeil (convs.foldl (fun m j => Nat.max m (s.adcFree j)) from_)
  if s.srv.running && convs.any (fun j => bit (s.tickByte j) 7) && decide (s.tickNext ≤ t0 + 24 * adcCycle) then
    Nat.max t0 (adcCeil (s.tickNext + 1600) + adcConv)
  else t0

/-- Whether the servo crossing of a converter takes one more item: 8 wait at most while PLL-C stands still (R31). -/
def State.crossingTakes (s : State) (j : Nat) : Bool := s.pllC || decide (Sp.get (fun _ => 0) s.mad.xfill j < 8)

/-- Put one item into the servo crossing of a converter; a full one drops it and counts it (R259, R270). -/
def State.crossingPut (s : State) (j : Nat) : State :=
  if s.crossingTakes j then
    let n := if s.pllC then 0 else Sp.get (fun _ => 0) s.mad.xfill j + 1
    { s with mad := { s.mad with xfill := Sp.put (fun _ => 0) s.mad.xfill j n } }
  else s.addSat MAD_CNT MAD_CNT_XDROP 1

/-- A 16-bit result. -/
def result16 (r : Int) : Int := satS 16 r

/-- Whether QMON takes results of a kind and converter (R434). -/
def State.qmonTakes (s : State) (kind conv : Nat) : Bool :=
  s.domOn 19 && s.fb DMA_QMON_CFG DMA_QMON_CFG_EN && bit (s.f DMA_QMON_CFG DMA_QMON_CFG_KINDS) (kind - 1)
    && bit (s.f DMA_QMON_CFG DMA_QMON_CFG_CONV) conv

/-- Deliver a conversion result to MAD_RES, QMON and the recorder (R261, R278, R434). [DESIGN CHOICE, log 37] -/
def State.madResult (s : State) (kind conv code : Nat) (diff : Bool) (r : Int) : State :=
  let w := kind * 2 ^ 29 + code * 2 ^ 24 + b2n diff * 2 ^ 23 + ux 16 r
  let s := s.wr (MAD_RES conv) (BitVec.ofNat 32 w)
  let takes := s.crossingTakes conv
  let s := if kind = 1 ∨ s.qmonTakes kind conv then s.crossingPut conv else s
  let s := if takes then s.toQmon kind code diff conv r else s
  s.recResult kind conv code diff r s.tbs

/-! ### Filter chains (R264–R270) -/

/-- One chain. -/
def State.chain (s : State) (c : Nat) : Chain := Sp.get (fun _ => {}) s.mad.chains c

/-- The state with one chain replaced. -/
def State.setChain (s : State) (c : Nat) (x : Chain) : State :=
  { s with mad := { s.mad with chains := Sp.put (fun _ => {}) s.mad.chains c x } }

/-- Whether a chain runs. -/
def State.chainOn (s : State) (c : Nat) : Bool := s.domOn 13 && s.fb (MFC_CH_CTRL c) MFC_CH_CTRL_EN

/-- A synchronising reset of a chain (R266). -/
def State.chainReset (s : State) (c : Nat) : State :=
  let s := s.setChain c { y16 := (s.chain c).y16 }
  let s := (s.setF (MFC_CH_STAT c) MFC_CH_STAT_OUTS 0).setF (MFC_CH_STAT c) MFC_CH_STAT_VALID 0
  (s.setF (MFC_CH_STAT c) MFC_CH_STAT_ABOVE 0).setF (MFC_CH_STAT c) MFC_CH_STAT_BELOW 0

/-- A chain stops: its output holds and VALID reads 0 (R266, R269). -/
def State.chainStop (s : State) (c : Nat) : State :=
  let s := s.setF (MFC_CH_STAT c) MFC_CH_STAT_VALID 0
  let s := (s.setF (MFC_CH_STAT c) MFC_CH_STAT_ABOVE 0).setF (MFC_CH_STAT c) MFC_CH_STAT_BELOW 0
  s.setChain c { s.chain c with valid := false }

/-- The outputs that carry VALID = 0 after a reset: N_inv of the table of R267, for a preset and DEC_LOG2. -/
def nInv (preset dec : Nat) : Nat :=
  if preset = 0 then 0
  else if preset = 1 then (if dec ≤ 1 then 7 else 8)
  else if preset = 2 then (if dec ≤ 1 then 12 else 13)
  else if dec ≤ 1 then 16 else if dec = 2 then 17 else 18

/-- The integrators after an input: each adds the new value of the one before it, modulo 2^56 (R265). -/
def integrate (x : Int) : List Nat → List Nat
  | [] => []
  | a :: as => let v := ux 56 ((a : Int) + x); v :: integrate v as

/-- The comb cascade: its output and its new states, modulo 2^56 (R265). -/
def combs (y : Nat) : List Nat → Nat × List Nat
  | [] => (y, [])
  | c :: cs => let (o, l) := combs (ux 56 ((y : Int) - c)) cs; (o, y :: l)

/-- The first `n` entries of a list, filled up with a default. -/
def padTo {α : Type} (d : α) (n : Nat) (l : List α) : List α := (l ++ List.replicate n d).take n

/-- The coefficients of a chain's FIR (R265). -/
def State.firCoef (s : State) (c m : Nat) : Int := sx 19 (s.f (MFC_CH_FIR c m) MFC_CH_FIR_COEF)

/-- The FIR output of a line of 2h + 1 entries, newest first (R265). -/
def State.firOut (s : State) (c h : Nat) (line : List Int) : Int :=
  let sum := (List.range h).foldl (fun acc k =>
    acc + s.firCoef c (k + 1) * (line.getD (h - (k + 1)) 0 + line.getD (h + (k + 1)) 0)) (s.firCoef c 0 * line.getD h 0)
  satS 32 (asr sum 17)

/-- ABOVE or BELOW after an output: set past its threshold, cleared past its hysteresis (R269). -/
def threshold (was past back : Bool) : Bool := if past then true else if back then false else was

/-- The threshold events of a valid output; the first valid output sets the levels without an event (R269). -/
def State.chainEvents (s : State) (c : Nat) (y : Int) (firstValid : Bool) : State :=
  let st := MFC_CH_STAT c
  let hi := sx 16 (s.f (MFC_CH_THR c) MFC_CH_THR_HI)
  let lo := sx 16 (s.f (MFC_CH_THR c) MFC_CH_THR_LO)
  let hy : Int := s.f (MFC_CH_EVT c) MFC_CH_EVT_HYST
  let a0 := s.fb st MFC_CH_STAT_ABOVE
  let b0 := s.fb st MFC_CH_STAT_BELOW
  let a := if firstValid then decide (hi < y) else threshold a0 (decide (hi < y)) (decide (y ≤ hi - hy))
  let b := if firstValid then decide (y < lo) else threshold b0 (decide (y < lo)) (decide (lo + hy ≤ y))
  let s := (s.setF st MFC_CH_STAT_ABOVE (b2n a)).setF st MFC_CH_STAT_BELOW (b2n b)
  let high := a && !a0 && !firstValid
  let low := b && !b0 && !firstValid
  let s := if high then (s.setF st MFC_CH_STAT_HI_SEEN 1).addSat (MFC_CH_CNT c) MFC_CH_CNT_HI_EVT 1 else s
  let s := if low then (s.setF st MFC_CH_STAT_LO_SEEN 1).addSat (MFC_CH_CNT c) MFC_CH_CNT_LO_EVT 1 else s
  if s.f EVR_TRIG EVR_TRIG_CHAIN == c
      && ((high && s.fb EVR_TRIG EVR_TRIG_HI) || (low && s.fb EVR_TRIG EVR_TRIG_LO)) then s.recTrigger 4 s.tbs
  else s

/-- A chain emits an output in Q24.8 (R265, R266, R269, R270, R434). -/
def State.chainEmit (s : State) (c : Nat) (out : Int) : State :=
  let preset := s.f (MFC_CH_CFG c) MFC_CH_CFG_PRESET
  let was := s.fb (MFC_CH_STAT c) MFC_CH_STAT_VALID
  let n := (s.chain c).outs + 1
  let valid := decide (nInv preset (s.f (MFC_CH_CFG c) MFC_CH_CFG_DEC_LOG2) < n)
  let y := satS 16 (asr (out + 128) 8)
  let s := s.setChain c { s.chain c with outs := n }
  let s := s.wr (MFC_CH_OUT c) (BitVec.ofNat 32 (ux 32 out))
  let s := (s.addSat (MFC_CH_STAT c) MFC_CH_STAT_OUTS 1).setF (MFC_CH_STAT c) MFC_CH_STAT_VALID (b2n valid)
  let s := if valid then s.chainEvents c y (!was) else s
  let takes := s.crossingTakes (c % 4)
  let s := s.crossingPut (c % 4)
  let s := if takes then s.setChain c { s.chain c with y16 := y, valid := valid } else s
  (s.toQfilt c out valid).recFilter c out y valid s.tbs

/-- A chain takes one input (R265). -/
def State.chainInput (s : State) (c : Nat) (x : Int) : State :=
  let preset := s.f (MFC_CH_CFG c) MFC_CH_CFG_PRESET
  let dec := s.f (MFC_CH_CFG c) MFC_CH_CFG_DEC_LOG2
  if preset = 0 then s.chainEmit c (x * 256)
  else
    let nord := preset + 2
    let h := 2 * preset + 1
    let k := s.chain c
    let acc := integrate x (padTo 0 nord k.acc)
    if k.phase + 1 < 2 ^ dec then s.setChain c { k with acc := acc, phase := k.phase + 1 }
    else
      let (y, comb) := combs (acc.getD (nord - 1) 0) (padTo 0 nord k.comb)
      let v := asr (sx 56 y * 256) (nord * dec)
      let line := padTo 0 (2 * h + 1) (v :: k.line)
      let s := s.setChain c { k with acc := acc, comb := comb, phase := 0, line := line }
      s.chainEmit c (s.firOut c h line)

/-- FILTER_INPUT: the oldest result on its way to a chain arrives there (R264, R265). -/
def execFilterInput (s : State) : Host.Outcome State Fault Refusal :=
  match s.mad.inputs with
  | [] => .next s
  | (c, x) :: rest =>
    let s := { s with mad := { s.mad with inputs := rest } }
    .next (if s.chainOn c then s.chainInput c x else s)

/-- Send a result to a chain. -/
def State.toChain (s : State) (c : Nat) (x : Int) : State :=
  { s with mad := { s.mad with inputs := s.mad.inputs ++ [(c, x)] } }

/-! ### Tick conversions (R228, R253, R256, R259) -/

/-- The tick conversion of one converter with its measured code: missing while the reference settles or the converter is
busy. -/
def State.tickConvert (s : State) (start j : Nat) (r : Int) : State :=
  let b := s.tickByte j
  if !bit b 7 then s
  else if !s.refReady || decide (start < s.adcFree j) then s
  else
    let r := result16 r
    let s := s.adcBusy j start
    let takes := s.crossingTakes j
    let s := s.madResult 1 j (b % 32) (bit b 6) r
    let s := if takes then { s with srv := { s.srv with results := Sp.ins s.srv.results j r } } else s
    s.forEach (List.range 8) (fun s c =>
      if s.fb (MFC_CH_CFG c) MFC_CH_CFG_TICK_SRC && s.f (MFC_CH_CFG c) MFC_CH_CFG_TICK_CONV == j then s.toChain c r else s)

/-- The tick conversions of the four converters at a tick. -/
def State.tickConversions (s : State) (codes : List Int) : State :=
  let start := adcCeil (s.tm.now + 1600)
  let s := { s with srv := { s.srv with results := [] } }
  s.forEach (List.range 4) (fun s j => s.tickConvert start j (codes.getD j 0))

/-! ### Reference buffer -/

/-- When REF_RDY rises: 40 µs after the buffer went on (R253). -/
def State.refDue (s : State) : Option Nat := s.mad.refOn.map (· + 40 * tickUs)

/-- REFERENCE_READY: the buffer has been on for 40 µs (R253, R258). [DEDUCED, log 36] -/
def execReferenceReady (s : State) : Host.Outcome State Fault Refusal :=
  match s.refDue with
  | none => .next s
  | some t =>
    if s.fb MAD_STATUS MAD_STATUS_REF_RDY then .next s
    else
      let s := (s.at_ t).setF MAD_STATUS MAD_STATUS_REF_RDY 1
      .next { s with mad := { s.mad with guardDue := s.tm.now } }

/-! ### The sequencer (R260–R263) -/

/-- Whether an entry waits for a trigger. -/
def State.entryWaits (s : State) (e : Nat) : Bool := s.fb (MAD_ENTRY2 e) MAD_ENTRY2_WAIT

/-- The channel byte of a converter in an entry. -/
def State.entryByte (s : State) (e j : Nat) : Nat := bits (s.rd (MAD_ENTRY0 e)).toNat (8 * j) 8

/-- The converters of an entry. -/
def State.entryConvs (s : State) (e : Nat) : List Nat := (List.range 4).filter (fun j => bit (s.entryByte e j) 7)

/-- The sequencer comes to an entry. -/
def State.seqEnter (s : State) (e : Nat) : State :=
  ((s.setF MAD_SEQ_STAT MAD_SEQ_STAT_ENTRY e).setF MAD_SEQ_STAT MAD_SEQ_STAT_REP 0).setF MAD_SEQ_STAT
    MAD_SEQ_STAT_WAITING (b2n (s.entryWaits e))

/-- SEQ_EN rises: the sequencer starts at entry 0 (R261). -/
def State.seqStart (s : State) : State :=
  let s := { s with mad := { s.mad with seqDue := adcCeil s.tm.now } }
  (s.setF MAD_SEQ_STAT MAD_SEQ_STAT_RUN 1).seqEnter 0

/-- The sequencer stops (R261). -/
def State.seqStop (s : State) : State :=
  (s.setF MAD_SEQ_STAT MAD_SEQ_STAT_RUN 0).setF MAD_SEQ_STAT MAD_SEQ_STAT_WAITING 0

/-- After a conversion of an entry: its next repeat, the end of the sequence, or the next entry (R261). -/
def State.seqAdvance (s : State) (e : Nat) : State :=
  let rep := s.f MAD_SEQ_STAT MAD_SEQ_STAT_REP + 1
  if rep ≤ s.f (MAD_ENTRY2 e) MAD_ENTRY2_REP_M1 then s.setF MAD_SEQ_STAT MAD_SEQ_STAT_REP rep
  else if s.fb (MAD_ENTRY2 e) MAD_ENTRY2_STOP then
    ((s.setF MAD_SEQ_STAT MAD_SEQ_STAT_REP rep).setF MAD_CTRL MAD_CTRL_SEQ_EN 0).seqStop
  else if s.fb (MAD_ENTRY2 e) MAD_ENTRY2_LOOP then s.seqEnter (s.f (MAD_ENTRY3 e) MAD_ENTRY3_LOOP_TO)
  else s.seqEnter ((e + 1) % 64)

/-- One converter's result of a sequence conversion, with its route to a chain (R260, R261). -/
def State.seqResult (s : State) (e start : Nat) (codes : List Int) (j : Nat) : State :=
  let b := s.entryByte e j
  let r := result16 (codes.getD j 0)
  let s := (s.adcBusy j start).madResult 4 j (b % 32) (bit b 6) r
  let route := bits (s.rd (MAD_ENTRY1 e)).toNat (4 * j) 4
  let c := route % 8
  if bit route 3 && !s.fb (MFC_CH_CFG c) MFC_CH_CFG_TICK_SRC then s.toChain c r else s

/-- SEQUENCE_CONVERSION: the sequencer converts its entry once, with the measured codes of the converters (R261). -/
def execSequenceConversion (r0 r1 r2 r3 : Int) (s : State) : Host.Outcome State Fault Refusal :=
  let e := s.f MAD_SEQ_STAT MAD_SEQ_STAT_ENTRY
  let convs := s.entryConvs e
  if !s.domOn 13 || !s.fb MAD_SEQ_STAT MAD_SEQ_STAT_RUN || s.fb MAD_SEQ_STAT MAD_SEQ_STAT_WAITING
      || (!convs.isEmpty && !s.refReady) then .next s
  else
    let due := s.mad.seqDue
    let ready := s.refDue.getD 0
    let start := if convs.isEmpty then due else s.convStart convs (Nat.max due ready)
    let s := s.at_ start
    let s := if due < start then s.addSat MAD_CNT2 MAD_CNT2_SLIP 1 else s
    let s := s.forEach convs (fun s j => s.seqResult e start [r0, r1, r2, r3] j)
    let space := Nat.max 16 (s.f (MAD_ENTRY2 e) MAD_ENTRY2_SPACE)
    .next ({ s with mad := { s.mad with seqDue := start + space * adcCycle } }.seqAdvance e)

/-- SEQUENCER_TRIGGER: the oldest event of the selected source is accepted at a waiting entry, or ignored (R262, R266). -/
def execSequencerTrigger (s : State) : Host.Outcome State Fault Refusal :=
  match s.mad.triggers with
  | [] => .next s
  | (_, t) :: rest =>
    let s := { s with mad := { s.mad with triggers := rest } }
    if s.fb MAD_SEQ_STAT MAD_SEQ_STAT_RUN && s.fb MAD_SEQ_STAT MAD_SEQ_STAT_WAITING then
      let dev := ((s.tm.now : Int) + ((t : Int) - s.tbs)).toNat
      let due := adcCeil (dev + 1600) + s.f MAD_TRIG MAD_TRIG_DELAY * adcCycle
      let s := (s.wr64 MAD_TRIG_TBS_LO MAD_TRIG_TBS_HI t).setF MAD_SEQ_STAT MAD_SEQ_STAT_WAITING 0
      let s := { s with mad := { s.mad with seqDue := due } }
      let s := s.maskRef 4 t
      .next (s.forEach (bitsSet 8 (s.f MFC_SYNC MFC_SYNC_TRIG_SYNC)) (fun s c => s.chainReset c))
    else .next (s.addSat MAD_CNT2 MAD_CNT2_TRIG_MISS 1)

/-- MAD_TIMER_EXPIRY: the timer expires and gives a trigger of source 4 (R262). -/
def execMadTimerExpiry (s : State) : Host.Outcome State Fault Refusal :=
  let p := s.f MAD_TIMER MAD_TIMER_PERIOD
  if !s.domOn 13 || p == 0 then .next s
  else
    let due := s.mad.timerAt + Nat.max 16 p * adcCycle
    let s := s.at_ due
    .next ({ s with mad := { s.mad with timerAt := due } }.madEvent 4 s.tbs)

/-! ### Injected conversions (R257) -/

/-- A write of GO: the request starts in the next cycle or is dropped (R257). -/
def State.injGo (s : State) : State :=
  let j := s.f MAD_INJ MAD_INJ_CONV
  let s := (s.setF MAD_INJ_RES MAD_INJ_RES_VALID 0).setF MAD_INJ_RES MAD_INJ_RES_DROPPED 0
  if !s.refReady || s.mad.inj.isSome || decide (s.tm.now < s.adcFree j) then
    (s.addSat MAD_CNT MAD_CNT_INJ_DROP 1).setF MAD_INJ_RES MAD_INJ_RES_DROPPED 1
  else
    let start := adcCeil (s.tm.now + 1)
    let s := s.adcBusy j start
    { s with mad := { s.mad with
        inj := some (j, s.f MAD_INJ MAD_INJ_CODE, s.fb MAD_INJ MAD_INJ_DIFF, start + adcConv) } }

/-- INJECTED_CONVERSION_DONE: the injected conversion completes with a measured code (R257). -/
def execInjectedConversionDone (r : Int) (s : State) : Host.Outcome State Fault Refusal :=
  match s.mad.inj with
  | none => .next s
  | some (j, code, diff, done) =>
    let s := s.at_ done
    let r := result16 r
    let s := { s with mad := { s.mad with inj := none } }
    let s := s.madResult 3 j code diff r
    let s := (s.setF MAD_INJ_RES MAD_INJ_RES_RESULT (ux 16 r)).setF MAD_INJ_RES MAD_INJ_RES_CONV j
    .next (s.setF MAD_INJ_RES MAD_INJ_RES_VALID 1)

/-! ### Guard pairs (R258) -/

/-- Request a guard pair at a device time, now or later (R258, R315). -/
def State.guardRequest (s : State) (t : Nat) : State := { s with mad := { s.mad with guardReq := some t } }

/-- Whether the next guard pair serves the request of the emission-safety monitor rather than the 10 µs timer. -/
def State.guardServes (s : State) : Bool :=
  match s.mad.guardReq with
  | some t => decide (t ≤ s.mad.guardDue)
  | none => false

/-- When the next guard pair is due. -/
def State.guardNext (s : State) : Nat := if s.guardServes then s.mad.guardReq.getD 0 else s.mad.guardDue

/-- Take a guard pair with its measured codes: it is loaded into MAD_GUARD and delivered with its arrival time (R255, R256,
R258). -/
def State.guardPair (s : State) (vres vmid : Int) : State :=
  let start := s.convStart [2, 3] (Nat.max s.guardNext (s.refDue.getD 0))
  let s := if s.guardServes then { s with mad := { s.mad with guardReq := none } }
    else { s with mad := { s.mad with guardDue := s.mad.guardDue + 10 * tickUs } }
  let s := (s.adcBusy 2 start).adcBusy 3 start
  let s := s.at_ (start + adcConv)
  let s := (s.madResult 2 2 16 false vres).madResult 2 3 17 false vmid
  let s := (s.setF MAD_GUARD MAD_GUARD_VRES (ux 16 vres)).setF MAD_GUARD MAD_GUARD_VMID (ux 16 vmid)
  { s with esf := { s.esf with guard := some (vres, vmid, s.tm.now) } }

end Sys2Proof.Machine
end

