-- ==== Sys2Proof/Machine/Safety.lean ====
section
/-! DEFINITION. Emission safety: pins, the switch walk, guard checks, clears, exposure limits, self-tests, watchdog and lockstep
(chapter 12 up to R328). -/

namespace Sys2Proof.Machine

open Reg

/-! ### Live words -/

/-- ESF_EXP_LVL: the level of the selected cell in a window, in units of the limit (R320). -/
def State.expLevelWord (s : State) (w : Nat) : Word :=
  let cell := s.f ESF_EXP_SEL ESF_EXP_SEL_SEG * 64 + s.f ESF_EXP_SEL ESF_EXP_SEL_SECTOR
  BitVec.ofNat 32 (satU 32 (s.level w cell / expUnit w))

/-- ESF_DIAG: WDOG_AGE is 8 once the watchdog has expired; before, the firmware's service decides it, which the spec leaves
open (R327). -/
def State.diagWord (s : State) : Word :=
  let age := if s.fb ESF_DIAG ESF_DIAG_WDOG_EXP then 8 else (Config.openValue 0xC0034 s.tm.now).toNat % 8
  ESF_DIAG_WDOG_AGE.set (s.rd ESF_DIAG) age

/-! ### Permit inputs (R309–R311) -/

/-- The start-up test after a change of the permit channels, from the state it was in before (R309). -/
def State.permitTest (s : State) (was : Nat) : State :=
  let a := s.pin.permitA
  let b := s.pin.permitB
  let disc := s.f ESF_CTRL ESF_CTRL_DISC * tickMs
  match was with
  | 1 =>
    let s := s.setF ESF_IN ESF_IN_PTEST 1
    if !a && !b then { s with esf := { s.esf with firstClosed := none } }
    else if a && b then
      let late := match s.esf.firstClosed with | some t => decide (t.2 + disc < s.tm.now) | none => false
      let s := { s with esf := { s.esf with firstClosed := none } }
      if late then (s.setF ESF_IN ESF_IN_PTEST 0).addSat ESF_CNT ESF_CNT_DISC 1 else s.setF ESF_IN ESF_IN_PTEST 2
    else match s.esf.firstClosed with
      | some _ => s
      | none => { s with esf := { s.esf with firstClosed := some (b, s.tm.now) } }
  | _ => s

/-- The comparison of the channels after a change: when they began to differ, and the discrepancy's end (R310). -/
def State.permitCompare (s : State) : State :=
  let differ := s.f ESF_IN ESF_IN_PTEST == 2 && s.pin.permitA != s.pin.permitB
  let since := if differ then (match s.esf.diffSince with | some t => some t | none => some s.tm.now) else none
  let s := { s with esf := { s.esf with diffSince := since } }
  if !s.pin.permitA && !s.pin.permitB then s.setF ESF_IN ESF_IN_DISC 0 else s

/-- PERMIT_CHANGE: the filtered permit channels read closed (true) or open (R309–R311). -/
def execPermitChange (a b : Bool) (s : State) : Host.Outcome State Fault Refusal :=
  if s.boot.off then .next { s with pin := { s.pin with permitA := a, permitB := b } }
  else
    let opened := (s.pin.permitA && !a) || (s.pin.permitB && !b)
    let t : State := { s with pin := { s.pin with permitA := a, permitB := b } }
    let s1 := (t.permitTest s.ptest).permitCompare
    let s1 := s1.noteConds s
    .next (if opened && s1.esf.armed then s1.latch [1] else s1)

/-- PERMIT_DISCREPANCY: the channels have differed without a break for longer than DISC ms (R310). -/
def execPermitDiscrepancy (s : State) : Host.Outcome State Fault Refusal :=
  match s.esf.diffSince with
  | none => .next s
  | some t =>
    if s.fb ESF_IN ESF_IN_DISC then .next s
    else
      let s := s.at_ (t + s.f ESF_CTRL ESF_CTRL_DISC * tickMs)
      let s := (s.setF ESF_IN ESF_IN_DISC 1).addSat ESF_CNT ESF_CNT_DISC 1
      .next (if s.esf.armed then s.latch [1] else s)

/-! ### Cover and Hinge fault line (R312, R313) -/

/-- COVER_CHANGE: COVER_N reads high (cover absent) or low (R312). -/
def execCoverChange (high : Bool) (s : State) : Host.Outcome State Fault Refusal :=
  let s1 := { s with pin := { s.pin with coverN := high } }.noteConds s
  .next (if high && !s.pin.coverN && s.esf.armed then s1.latch [2] else s1)

/-- HG_FAULT_FALL: another device drives HG_FAULT_N low; a fall of the line latches HG while armed (R313). -/
def execHgFaultFall (s : State) : Host.Outcome State Fault Refusal :=
  let s1 := { s with pin := { s.pin with hgFaultOthers := true } }.noteConds s
  .next (if s.hgFaultN && s.esf.armed then s1.latch [7] else s1)

/-- HG_FAULT_RELEASE: the last other device releases HG_FAULT_N (R313). -/
def execHgFaultRelease (s : State) : Host.Outcome State Fault Refusal :=
  .next ({ s with pin := { s.pin with hgFaultOthers := false } }.noteConds s)

/-! ### The switch walk (R315–R317) -/

/-- Begin a step of the walk: its switches, its pair requested at its end, STEP. -/
def State.walkStep (s : State) (w : Walk) (ehs els : Bool) : State :=
  let s := { s.switches ehs els with esf := { s.esf with walk := some w } }
  (s.guardRequest w.asked).setF ESF_WALK_STAT ESF_WALK_STAT_STEP w.step

/-- SWITCH_WALK_START: in PRIMED with every condition holding and no failed walk, the walk starts (R315). -/
def execSwitchWalkStart (s : State) : Host.Outcome State Fault Refusal :=
  if s.dev == .primed && s.condAll && !s.esf.walkFailed && s.esf.walk.isNone then
    let s := { s with esf := { s.esf with armed := true, histClear := true } }
    .next (s.walkStep { step := 1, asked := s.tm.now } false false)
  else .next s

/-- MID_ON: the lowest VMID of a closed high-side switch. -/
def State.midOn (s : State) : Int := sx 16 (s.f ESF_SW_THR0 ESF_SW_THR0_MID_ON)

/-- RISE_MAX: the largest VRES rise against an open switch. -/
def State.riseMax (s : State) : Int := s.f ESF_SW_THR0 ESF_SW_THR0_RISE_MAX

/-- RES_ON: VRES of a charged reservoir. -/
def State.resOn (s : State) : Int := sx 16 (s.f ESF_SW_THR1 ESF_SW_THR1_RES_ON)

/-- TRACK: the largest distance of VMID from VRES with the low-side switch closed. -/
def State.track12 (s : State) : Int := s.f ESF_SW_THR1 ESF_SW_THR1_TRACK

/-- A failed step: the walk ends with its reason and row 13 of R66 is taken (R316). [DEDUCED, log 9] -/
def State.walkFail (s : State) (reason : Nat) : State := (s.endWalk reason).enterFault 0x22

/-- Raise EVT_THERMAL (R483). -/
def State.raiseThermal (s : State) (kind : Nat) (more : List Byte) : State :=
  s.raise evThermal (leBytes 4 (kind + s.f THM_STATE THM_STATE_THR * 2 ^ 8 + ux 16 s.tj * 2 ^ 16) ++ more)

/-- THR = 0 in SCANNING takes row 16 of R66 (R476). -/
def State.thermalHold (s : State) : State :=
  if s.scanning && s.f THM_STATE THM_STATE_THR == 0 then (s.goto .thermalHold 0x40).raiseThermal 4 [] else s

/-- Row 21, or row 11 with an MM_PEND quarter, or row 16 with THR = 0 (R66, R175, R476). [DESIGN CHOICE, log 13] -/
def State.row21 (s : State) : State :=
  let s := { s with esf := { s.esf with walk := none } }.goto .scanning 0x21
  if s.f HGE_STATUS HGE_STATUS_MM_PEND ≠ 0 then s.enterFault 0x62 else s.thermalHold

/-- The walk has passed step B and the histogram clear has ended (R316); row 21 also needs every required domain (R493).
[DESIGN CHOICE, log 13] -/
def State.walkPass (s : State) : State :=
  let s := s.addSat ESF_WALK_STAT ESF_WALK_STAT_PASSES 1
  if s.condAll && s.missing.isEmpty && !s.staleBlocks then s.row21 else s.endWalk 7

/-- A step's pair has arrived: the next step, a pass or a failure (R315, R316). -/
def State.walkJudge (s : State) (w : Walk) (vres vmid : Int) : State :=
  let us (f : Fld) := Nat.max 1 (s.f ESF_WALK_CFG f) * tickUs
  match w.step with
  | 1 => s.walkStep { step := 2, asked := s.tm.now + us ESF_WALK_CFG_T_A, vres0 := vres } true false
  | 2 =>
    if vmid < s.midOn then s.walkFail 1
    else if s.riseMax < vres - w.vres0 then s.walkFail 2
    else s.walkStep { step := 3, asked := s.tm.now + us ESF_WALK_CFG_T_B, vres0 := w.vres0, vresA := vres } false true
  | _ =>
    if s.riseMax < vres - w.vresA then s.walkFail 3
    else if s.track12 < (vmid - vres).natAbs then s.walkFail 4
    else if s.esf.histClear then s
    else s.walkPass

/-- WALK_STEP_END: the guard pair of the step in progress has arrived (R315, R316). -/
def execWalkStepEnd (s : State) : Host.Outcome State Fault Refusal :=
  match s.esf.walk with
  | none => .next s
  | some w =>
    match w.pair with
    | none => .next s
    | some (vres, vmid) => .next (s.walkJudge w vres vmid)

/-- WALK_GUARD_TIMEOUT: no guard pair within 100 µs of its request (R316). -/
def execWalkGuardTimeout (s : State) : Host.Outcome State Fault Refusal :=
  match s.esf.walk with
  | none => .next s
  | some w => if w.pair.isSome then .next s else .next ((s.at_ (w.asked + 100 * tickUs)).walkFail 5)

/-- RESERVOIR_CHARGED: a guard pair since the entry to SCANNING shows VRES at RES_ON (R317). -/
def execReservoirCharged (s : State) : Host.Outcome State Fault Refusal :=
  match s.esf.guard with
  | none => .next s
  | some (vres, _, t) =>
    if s.scanning && s.esf.charging && decide (s.fir.entered ≤ t) && decide (s.resOn ≤ vres) then
      .next ({ s with esf := { s.esf with charging := false, reservoir := true },
                      fir := { s.fir with chargedAt := s.tbs } }.setF ESF_WALK_STAT ESF_WALK_STAT_STEP 5)
    else .next s

/-- RESERVOIR_CHARGE_TIMEOUT: the reservoir has not charged within T_C (R317). -/
def execReservoirChargeTimeout (s : State) : Host.Outcome State Fault Refusal :=
  if s.scanning && s.esf.charging then
    let s := s.at_ (s.fir.entered + Nat.max 1 (s.f ESF_WALK_CFG ESF_WALK_CFG_T_C) * 100 * tickUs)
    .next (s.latch [9])
  else .next s

/-! ### Guard pairs (R318) -/

/-- The check of a guard pair in SCANNING, from the first that shows the reservoir charged (R318). -/
def State.guardCheck (s : State) (vres vmid : Int) : State :=
  let judged := s.scanning && (s.esf.reservoir || (s.esf.charging && decide (s.resOn ≤ vres)))
  if !judged then s
  else if s.midOn ≤ vmid ∧ (vmid - vres).natAbs ≤ s.track12 then { s with esf := { s.esf with failRun := 0 } }
  else
    let run := s.esf.failRun + 1
    let s := { s with esf := { s.esf with failRun := run } }
    if 2 ≤ run then (s.addSat ESF_CNT ESF_CNT_GUARD_FAIL 1).latch [9] else s

/-- A guard pair that serves the walk's request. -/
def State.walkPair (s : State) (served : Bool) (vres vmid : Int) : State :=
  match s.esf.walk with
  | some w => if served then { s with esf := { s.esf with walk := some { w with pair := some (vres, vmid) } } } else s
  | none => s

/-- GUARD_CONVERSION: converters 2 and 3 convert VRES and VMID with measured codes (R258, R318). -/
def execGuardConversion (vres vmid : Int) (s : State) : Host.Outcome State Fault Refusal :=
  if !s.refReady then .next s
  else
    let s0 := s
    let served := s.guardServes
    let vres := result16 vres
    let vmid := result16 vmid
    let s := (s.guardPair vres vmid).walkPair served vres vmid
    .next ((s.noteConds s0).guardCheck vres vmid)

/-- GUARD_GAP: no guard pair for 25 µs while armed (R318). -/
def execGuardGap (s : State) : Host.Outcome State Fault Refusal :=
  match s.esf.guard with
  | some (_, _, t) => if s.esf.armed then .next ((s.at_ (t + 25 * tickUs + 1)).latch [8]) else .next s
  | none => .next s

/-! ### Clearing causes (R307) -/

/-- AUTO_CLEAR: an auto-clearable cause whose condition has held for HOLDOFF ms clears (R307). -/
def execAutoClear (code : Nat) (s : State) : Host.Outcome State Fault Refusal :=
  match causeCond code with
  | none => .next s
  | some n =>
    if s.latched code && bit (s.f ESF_CTRL ESF_CTRL_AUTOCLR) code && s.cond n then
      let from_ := Nat.max (Sp.get (fun _ => 0) s.esf.causeAt code) (Sp.get (fun _ => 0) s.esf.condSince n)
      let t := from_ + Nat.max 1 (s.f ESF_CTRL ESF_CTRL_HOLDOFF) * tickMs
      .next ((s.at_ t).unlatch [code])
    else .next s

/-- The latched cause codes. -/
def State.causes (s : State) : List Nat := bitsSet 16 (s.rd ESF_CAUSE).toNat

/-- Whether DEADBOLT_CLEAR may clear a latched cause now (R307). -/
def State.clearable (s : State) (code : Nat) : Bool :=
  if [8, 9, 10, 14].contains code then true
  else if [11, 12, 13, 15].contains code then false
  else match causeCond code with
    | some n => s.cond n
    | none => false

/-- DEADBOLT_CLEAR (R307). -/
def execDeadboltClear (q : Req) (p : List Byte) (s : State) : Host.Outcome State Fault Refusal :=
  .next (s.fixed q 0x0501 p 0 (fun _ => []) (fun s =>
    let stuck := s.causes.filter (fun c => !s.clearable c)
    if stuck = [] then ((s.unlatch s.causes).noteConds s).reply q 0x0501 stOk 0
    else s.reply q 0x0501 stSafetyBlock (bitsOf stuck)))

/-! ### Exposure limits (R323) -/

/-- EXPOSURE_LIMITS (R323). -/
def execExposureLimits (q : Req) (p : List Byte) (s : State) : Host.Outcome State Fault Refusal :=
  let lim (w : Nat) := fld p (16 + 4 * w) 4
  .next (s.fixed q 0x0502 p 12
    (fun s => (List.range 3).map (fun w => par (decide ((s.rd (ESF_EXP_CEIL w)).toNat < lim w)) (16 + 4 * w))
      ++ [chk (s.scanning && (List.range 3).any (fun w => decide ((s.rd (ESF_EXP_LIM w)).toNat < lim w))) stRefused])
    (fun s =>
      let s1 := s.forEach (List.range 3) (fun s w => s.wr (ESF_EXP_LIM w) (BitVec.ofNat 32 (lim w)))
      (s1.noteConds s).reply q 0x0502 stOk 0))

/-! ### Self-tests (R328) -/

/-- The tests of R328 that the variant has, as a mask. -/
def State.selfTests (s : State) : Nat := if s.isMS then 0xF else 0xD

/-- The time a set of tests takes in a frame gap, in µs. -/
def testTime (m : Nat) : Nat := (if bit m 1 then 40 else 0) + (if bit m 2 then 5 else 0) + (if bit m 3 then 10 else 0)

/-- SAFETY_SELF_TEST (R328). -/
def execSafetySelfTest (q : Req) (p : List Byte) (s : State) : Host.Outcome State Fault Refusal :=
  let m := fld p 16 4
  .next (s.fixed q 0x0503 p 4
    (fun s => [par (decide (m &&& s.selfTests ≠ m)) 16, chk (s.jobOf 0x0503) stBusy, chk (s.scanning && bit m 0) stRefused,
      chk (s.scanning && decide (s.gapMin < testTime m)) stBusy])
    (fun s => (s.addJob { req := q, opc := 0x0503, arg := m, gap := s.scanning }).reply q 0x0503 stDeferred 0))

/-- Whether deferred work that waits for a frame gap may run: in the gap, or outside SCANNING (R20, R42). [DEDUCED, log 16] -/
def State.gapOpen (s : State) : Bool :=
  s.inFrameGap || s.dev == .idle || s.dev == .primed || s.dev == .hold

/-- Whether work of an opcode waits that may run now: in a frame gap, only work accepted before that gap (R20, R42, R135).
[DEDUCED, log 16] -/
def State.gapFor (s : State) (opc : Nat) : Bool :=
  s.gapOpen && s.cmd.jobs.any (fun j => j.opc == opc && !(s.scanning && j.inGap))

/-- SAFETY_SELF_TEST_DONE: the accepted self-tests end, and a mask names those that failed (R328). -/
def execSafetySelfTestDone (failed : Nat) (s : State) : Host.Outcome State Fault Refusal :=
  match s.cmd.jobs.find? (fun j => j.opc = 0x0503) with
  | none => .next s
  | some j =>
    if j.gap && !s.gapFor 0x0503 then .next s
    else
      let bad := failed &&& j.arg
      let old := s.f ESF_DIAG ESF_DIAG_TEST_FAIL
      let s1 := s.setF ESF_DIAG ESF_DIAG_TEST_FAIL (old - (old &&& j.arg) + bad)
      .next ((s1.noteConds s).finishJobs 0x0503 stOk 0 (leBytes 4 bad))

/-! ### Watchdog and lockstep (R326, R327) -/

/-- Whether a state is one of those from which rows 9 and 10 of R66 go to FAULT. -/
def afterBoot (d : DevState) : Bool := d == .idle || d == .primed || d == .scanning || d == .hold || d == .thermalHold

/-- A cause that latches in any state after BOOT and, outside FAULT, takes its row to FAULT. -/
def State.coreFault (s : State) (code cause : Nat) : State :=
  s.latchWith [code] (fun s => if afterBoot s.dev then s.enterFault cause else s)

/-- WATCHDOG_EXPIRY: the watchdog has not been serviced for 8 ms (R327). -/
def execWatchdogExpiry (s : State) : Host.Outcome State Fault Refusal :=
  if !runsCommands s.dev || s.fb ESF_DIAG ESF_DIAG_WDOG_EXP then .next s
  else .next ((s.setF ESF_DIAG ESF_DIAG_WDOG_EXP 1).coreFault 11 0x61)

/-- LOCKSTEP_MISMATCH: the comparator reports a mismatch (R326). -/
def execLockstepMismatch (s : State) : Host.Outcome State Fault Refusal :=
  if !runsCommands s.dev then .next s
  else .next ((s.setF ESF_DIAG ESF_DIAG_LOCKSTEP_ERR 1).coreFault 12 0x60)

end Sys2Proof.Machine
end

