-- ==== Sys2Proof/Machine/Zones.lean ====
section
/-! DEFINITION. The zone evaluator, safe reports and safety commands of RD5120-MS (R329–R342). -/

namespace Sys2Proof.Machine

open Reg

/-! ### Reported states (R333, R334) -/

/-- PERIOD of ZON_CTRL in ticks. -/
def State.zonPeriod (s : State) : Nat := s.f ZON_CTRL ZON_CTRL_PERIOD * tickMs

/-- Whether no frame has been evaluated within PERIOD. -/
def State.zonStale (s : State) : Bool :=
  match s.zon.evalAt with
  | none => true
  | some t => decide (t + s.zonPeriod < s.tm.now)

/-- Whether zone z is held OCCUPIED: less than HOLD ms on TBL since the end of its last occupied frame. -/
def State.zonHeld (s : State) (z : Nat) (zone : Zone) : Bool :=
  match Sp.find s.zon.occAt z with
  | some t => decide (s.tbl < t + zone.hold * 1000000)
  | none => false

/-- The reported state of zone z. -/
def State.zoneState (s : State) (z : Nat) : Nat :=
  let zone := s.zoneAt 0x02010000 z
  if !zone.en || !bit (s.f ZON_MASK ZON_MASK_MASK) z then 3
  else if s.zonHeld z zone then 2
  else if s.zonStale then 0
  else Sp.get (fun _ => 0) s.zon.frameState z

/-- ZON_STATE: the reported states of all zones. [DEDUCED, log 47] -/
def State.zonesNow (s : State) : Word :=
  if !s.isMS || !s.domOn 10 then 0
  else BitVec.ofNat 32 ((List.range 16).foldl (fun n z => n + s.zoneState z * 4 ^ z) 0)

/-- ZON_STATE follows the reported states. -/
def State.zonShow (s : State) : State := s.wr ZON_STATE s.zonesNow

/-- SAFETY_STATUS (R308). -/
def execSafetyStatus (q : Req) (p : List Byte) (s : State) : Host.Outcome State Fault Refusal :=
  .next (s.fixed q 0x0500 p 0 (fun _ => []) (fun s =>
    let zon (a : Nat) := if s.isMS then wordBytes (s.rd a) else zeros 4
    s.replyOk q 0x0500 (wordBytes s.condWord ++ wordBytes (s.rd ESF_CAUSE) ++ wordBytes (s.rd ESF_TRIP)
      ++ wordBytes (s.rd ESF_TRIP_LO) ++ wordBytes (s.rd ESF_TRIP_HI) ++ wordBytes s.esfIn ++ wordBytes (s.rd ESF_WALK_STAT)
      ++ wordBytes s.diagWord ++ (List.range 3).flatMap (fun w => wordBytes (s.rd (ESF_EXP_PEAK w)))
      ++ (List.range 3).flatMap (fun w => wordBytes (s.expLevelWord w))
      ++ (if s.isMS then wordBytes s.zonesNow else zeros 4) ++ zon ZON_CMD_STAT ++ zon ZON_CMD)))

/-! ### Evaluation (R331, R332) -/

/-- Whether a cell covers a column. -/
def covers (c : ZCell) (col : Nat) : Bool := decide (c.colLo ≤ col) && decide (col ≤ c.colHi)

/-- The longest test of R332 over the columns from `col` on: whether a run of hit columns reaches MIN_COLS. -/
def State.occupied (s : State) (z : Nat) (zone : Zone) (cells : List ZCell) : Nat → Nat → Nat → Bool
  | 0, _, _ => false
  | n + 1, col, run =>
    if !cells.any (fun c => covers c col) then State.occupied s z zone cells n (col + 1) 0
    else
      let run := if zone.minPts ≤ Sp.get (fun _ => 0) s.zon.hits (z * 4096 + col) then run + 1 else 0
      decide (zone.minCols ≤ run) || State.occupied s z zone cells n (col + 1) run

/-- The doubtful pairs of a zone (R331). -/
def State.doubtful (s : State) (z : Nat) (cells : List ZCell) : Nat :=
  (List.range 4096).foldl (fun n col =>
    let here := cells.filter (fun c => covers c col)
    if here.isEmpty then n
    else if s.zon.outCols.contains col then n + Sp.get (fun _ => 0) s.zon.doubt (z * 4096 + col)
    else n + ((List.range 512).filter (fun ch => here.any (fun c => decide (c.chLo ≤ ch) && decide (ch ≤ c.chHi)))).length) 0

/-- The state of a zone in the frame: 1 CLEAR, 2 OCCUPIED, 0 UNKNOWN (R332, R334). -/
def State.frameState (s : State) (z : Nat) (zone : Zone) : Nat :=
  let cells := s.zoneCells zone
  if s.occupied z zone cells 4096 0 0 then 2 else if zone.unkMax < s.doubtful z cells then 0 else 1

/-- TBL at the end of the last frame. -/
def State.frameEndTbl (s : State) : Nat :=
  match s.fir.frameEnd with
  | some e => s.tbl - (s.tm.now - e) / 64
  | none => s.tbl

/-- Evaluate the frame that has ended (R332). -/
def State.evaluate (s : State) (frame : Nat) (disagree : Bool) : State :=
  let zs := s.zones
  let st := if disagree then [] else zs.map (fun (z : Nat × Zone) => (z.1, s.frameState z.1 z.2))
  let occ := (st.filter (fun x => x.2 == 2)).foldl (fun m x => Sp.ins m x.1 s.frameEndTbl) s.zon.occAt
  let z := { s.zon with frameState := st, occAt := occ, evalAt := some s.tm.now, evalFrame := some frame, due := none,
                        cmpFail := disagree, health12 := s.zon.lastFlags, lastFlags := false, hits := [], doubt := [],
                        outCols := [] }
  let s := { s with zon := z }
  (if disagree then s.addSat ZON_CNT2 ZON_CNT2_CMP_FAIL 1 else s).zonShow

/-! ### Safe reports (R334–R337) -/

/-- The HEALTH word (R335). -/
def State.healthWord (s : State) : Nat :=
  let x := s.f ZON_CTRL ZON_CTRL_TB
  bitsOf ((List.range 15).filter (fun i => match i with
    | 0 => s.scanning
    | 1 => s.f ESF_CAUSE ESF_CAUSE_CAUSE != 0
    | 2 => s.cond 1
    | 3 => s.cond 2
    | 4 => s.cond 3
    | 5 => s.cond 4
    | 6 => s.esf.switchClean
    | 7 => s.portUp .A
    | 8 => s.portUp .B
    | 9 => s.zon.cmpFail
    | 10 => s.netRunning x
    | 11 => s.zonStale
    | 12 => s.zon.health12
    | 13 => s.fb THM_STATE THM_STATE_WARN || decide (s.f THM_STATE THM_STATE_THR < 8)
    | _ => s.fb ZON_CMD_STAT ZON_CMD_STAT_STOP))
  + s.f HNG_ID HNG_ID_INDEX * 2 ^ 16 + s.dev.code * 2 ^ 20

/-- The 64 bytes of a safe report (R334–R336). -/
def State.safeReport (s : State) : List Byte :=
  let x := s.f ZON_CTRL ZON_CTRL_TB
  let t := s.netRead x
  let b := wordBytes (s.rd ZON_ADDR) ++ wordBytes (s.rd ZON_SEQ) ++ leBytes 6 (netSec t)
    ++ leBytes 1 (x + 2 * b2n (s.netRunning x) + 4 * b2n (s.baseState x == 4)) ++ leBytes 1 1 ++ leBytes 4 (netNs t)
    ++ leBytes 4 (s.zon.evalFrame.getD 0xFFFFFFFF) ++ wordBytes s.zonesNow ++ leBytes 4 s.healthWord
    ++ wordBytes (s.rd ZON_CFG_ID) ++ wordBytes (s.rd ZON_CMD) ++ zeros 20
  b ++ leBytes 4 (crcSafe b)

/-- One copy of a report leaves on a port. [DEDUCED, log 46] -/
def State.reportOn (s : State) (data : List Byte) (seq : Nat) (p : Port) : State :=
  if !s.portUp p then s
  else
    match s.destOf p 1 with
    | none => s
    | some (ip, dport) =>
      let sport := s.f (ETHx_UDP_SAFE (portIx (s.cfgPort p))) ETHx_UDP_SAFE_SAFE
      let s0 := s
      s.sendUdp p .safe ip sport dport data false (fun e => s0.timedEntry p 1 (seq % 65536) (fun x => s0.netRead x) .safe e)

/-- Send a safe report on both ports (R337). -/
def State.safeSend (s : State) : State :=
  if !s.isMS || !s.domOn 10 || !s.fb ZON_CTRL ZON_CTRL_EN || s.dev == .off || s.dev == .boot then s
  else
    let s := (s.addWrap ZON_SEQ ZON_SEQ_SEQ 1).zonShow
    let s := { s with zon := { s.zon with reportAt := some s.tm.now } }
    let data := s.safeReport
    s.forEach [Port.A, Port.B] (fun s p => s.reportOn data (s.f ZON_SEQ ZON_SEQ_SEQ) p)

/-- ZONE_EVALUATION: after the last column of a frame, both evaluators compute its zones, and a report follows (R331, R332,
R337). -/
def execZoneEvaluation (disagree : Bool) (s : State) : Host.Outcome State Fault Refusal :=
  match s.zon.due with
  | none => .next s
  | some frame =>
    let busy := s.fir.column.isSome || !s.fir.closing.isEmpty || !s.hge.descs.isEmpty || s.ext.busy.isSome || !s.ext.out.isEmpty
    if !s.isMS || !s.domOn 10 || busy then .next s else .next (s.evaluate frame disagree).safeSend

/-- SAFE_REPORT_PERIODIC: PERIOD ms have passed since the last report (R337). [DEDUCED, log 46] -/
def execSafeReportPeriodic (s : State) : Host.Outcome State Fault Refusal :=
  match s.zon.reportAt with
  | none => .next s
  | some t => .next (s.at_ (t + s.zonPeriod)).safeSend

/-- The time on TBL at which the first held zone is released. -/
def State.holdExpiry (s : State) : Option Nat :=
  let ends := (s.zon.occAt.map (fun (x : Nat × Nat) => x.2 + (s.zoneAt 0x02010000 x.1).hold * 1000000)).filter
    (fun t => decide (s.tbl < t))
  match ends with
  | [] => none
  | t :: l => some (l.foldl Nat.min t)

/-- ZONE_HOLD_EXPIRY: the next HOLD ends and its zone reports its frame state again (R333). -/
def execZoneHoldExpiry (s : State) : Host.Outcome State Fault Refusal :=
  match s.holdExpiry with
  | none => .next s
  | some t => .next (s.at_ (s.tm.now + (t - s.tbl) * 64)).zonShow

/-- A write of ZON_CTRL: a PERIOD outside 10–50 is left out, and reports begin to be timed when EN rises (R337). -/
def State.zonCtrl (s : State) (w : Word) : State :=
  let p := ZON_CTRL_PERIOD.get w
  let rise := ZON_CTRL_EN.get w == 1 && !s.fb ZON_CTRL ZON_CTRL_EN
  let s := if p < 10 ∨ 50 < p then
      (s.wr ZON_CTRL (ZON_CTRL_PERIOD.set w (s.f ZON_CTRL ZON_CTRL_PERIOD))).setF ZON_CNT2 ZON_CNT2_CFG_REJ 1
    else s.wr ZON_CTRL w
  if rise then { s with zon := { s.zon with reportAt := some s.tm.now } } else s

/-! ### ZONE_COMMIT (R330) -/

/-- The staging zone table. -/
def zoneStagingBase : Nat := 0x02000000

/-- A word of an item of the staging table. -/
def State.stagedWord (s : State) (off j : Nat) : Nat := s.memNat (zoneStagingBase + off + 4 * j) 4

/-- The reason a zone descriptor fails, 0 when it passes. [DEDUCED, log 44] -/
def State.zoneReason (s : State) (z : Nat) : Nat :=
  let zone := s.zoneAt zoneStagingBase z
  let w (j : Nat) := s.stagedWord (16 * z) j
  if zone.cells = 0 ∨ 4080 < zone.first + zone.cells then 1
  else if bits (w 0) 24 7 ≠ 0 ∨ bits (w 2) 0 8 ≠ 0 then 2
  else if zone.minPts = 0 ∨ zone.minCols = 0 then 6 else 0

/-- The reason a cell fails, 0 when it passes. -/
def State.cellReason (s : State) (c : Nat) : Nat :=
  let cell := s.cellAt zoneStagingBase c
  let w (j : Nat) := s.stagedWord (0x100 + 16 * c) j
  if bits (w 0) 0 8 ≠ 0 ∨ bits (w 1) 0 14 ≠ 0 ∨ bits (w 2) 0 12 ≠ 0 ∨ bits (w 3) 0 12 ≠ 0 then 2
  else if cell.colHi < cell.colLo then 3
  else if cell.chHi < cell.chLo ∨ s.channels ≤ cell.chHi then 4
  else if cell.far < cell.near then 5 else 0

/-- The first failing cell of a list, with its reason. -/
def State.cellFail (s : State) : List Nat → Option (Nat × Nat)
  | [] => none
  | c :: l => if s.cellReason c = 0 then State.cellFail s l else some (s.cellReason c, c)

/-- The first failure of a list of zones: reason, zone and cell. [DEDUCED, log 44] -/
def State.zoneFail (s : State) : List Nat → Option (Nat × Nat × Nat)
  | [] => none
  | z :: l =>
    let zone := s.zoneAt zoneStagingBase z
    if !zone.en then State.zoneFail s l
    else if s.zoneReason z ≠ 0 then some (s.zoneReason z, z, 0)
    else
      match s.cellFail ((List.range zone.cells).map (zone.first + ·)) with
      | some (r, c) => some (r, z, c)
      | none => State.zoneFail s l

/-- Check the staging table, and copy it when it passes. -/
def State.zoneCopy (s : State) : Bool × State :=
  match s.zoneFail (List.range 16) with
  | some (r, z, c) =>
    (false, ((s.setF ZON_COMMIT_STAT ZON_COMMIT_STAT_REASON r).setF ZON_COMMIT_STAT ZON_COMMIT_STAT_ZONE z).setF
      ZON_COMMIT_STAT ZON_COMMIT_STAT_CELL c)
  | none =>
    let s := s.copyMem zoneStagingBase 0x02010000 0x10000
    let s := { s with zon := { s.zon with occAt := [] } }
    let s := s.setF ZON_COMMIT_STAT ZON_COMMIT_STAT_REASON 0
    (true, (s.wr ZON_CFG_ID (BitVec.ofNat 32 (crcSafe (s.bytes 0x02010000 0x10000)))).zonShow)

/-- ZONE_COMMIT (R330). -/
def execZoneCommit (q : Req) (p : List Byte) (s : State) : Host.Outcome State Fault Refusal :=
  .next (s.fixed q 0x0504 p 0 (fun s => [chk (!s.domOn 10) stRefused]) (fun s =>
    if s.scanning then
      ((s.reply q 0x0504 stDeferred 0).addJob { req := q, opc := 0x0504, gap := true }).setF ZON_COMMIT_STAT ZON_COMMIT_STAT_PEND 1
    else
      let (ok, s) := s.zoneCopy
      if ok then s.reply q 0x0504 stOk 0 else s.badParam q 0x0504 0))

/-- DEFERRED_ZONE_COPY: the check and the copy in the frame gap (R42, R330). -/
def execDeferredZoneCopy (s : State) : Host.Outcome State Fault Refusal :=
  if !s.gapFor 0x0504 then .next s
  else
    let (ok, s) := s.zoneCopy
    .next ((s.setF ZON_COMMIT_STAT ZON_COMMIT_STAT_PEND 0).finishJobs 0x0504 (if ok then stOk else stBadParam) 0 [])

/-! ### Safety commands (R338–R341) -/

/-- The port a request came in on when it came to the safety port. -/
def State.safePort (s : State) (q : Req) : Option Port :=
  match q.via with
  | .hspi => none
  | .udp p _ _ dport => if dport = s.f (ETHx_UDP_SAFE (portIx (s.cfgPort p))) ETHx_UDP_SAFE_SAFE then some p else none

/-- The pending slot of a port. -/
def State.slotOf (s : State) : Port → Option SafeCopy
  | .A => s.zon.slotA
  | .B => s.zon.slotB

/-- The state with a pending slot changed, and its PEND bit. -/
def State.putSlot (s : State) (p : Port) (c : Option SafeCopy) : State :=
  match p with
  | .A => { s with zon := { s.zon with slotA := c } }.setF ZON_CMD_STAT ZON_CMD_STAT_PEND_A (b2n c.isSome)
  | .B => { s with zon := { s.zon with slotB := c } }.setF ZON_CMD_STAT ZON_CMD_STAT_PEND_B (b2n c.isSome)

/-- The checks of a copy (R339). [DEDUCED, log 45] -/
def State.safeChecks (s : State) (p : List Byte) : List Check :=
  let action := fld p 24 2
  let arg := fld p 28 4
  [ ⟨decide (fld p 16 4 ≠ (s.rd ZON_ADDR).toNat), stSafetyBlock, 4⟩,
    ⟨decide (fld p 44 4 ≠ crcSafe (p.take 28)), stSafetyBlock, 5⟩,
    ⟨decide (fld p 20 4 ≤ (s.rd ZON_CMD).toNat), stSafetyBlock, 6⟩,
    par (decide (action = 0 ∨ 3 < action)) 24, par (firstNonZero p 26 2) 26,
    par (if action = 1 then decide (65536 ≤ arg) else decide (arg ≠ 0)) 28, par (firstNonZero p 32 12) 32 ]

/-- A matching pair executes (R341). -/
def State.safeExecute (s : State) (p : List Byte) : State :=
  let s := s.wr ZON_CMD (BitVec.ofNat 32 (fld p 20 4))
  match fld p 24 2 with
  | 1 => (s.setF ZON_MASK ZON_MASK_MASK (fld p 28 4)).zonShow
  | 2 => (s.setF ZON_CMD_STAT ZON_CMD_STAT_STOP 1).latch [13]
  | _ => ((s.setF ZON_CMD_STAT ZON_CMD_STAT_STOP 0).unlatch [13]).noteConds s

/-- Both slots are resolved when both are occupied (R340). -/
def State.safePair (s : State) : State :=
  match s.zon.slotA, s.zon.slotB with
  | some a, some b =>
    let s := (s.putSlot .A none).putSlot .B none
    let near := decide (a.tbl ≤ b.tbl + 8000000) && decide (b.tbl ≤ a.tbl + 8000000)
    if a.payload = b.payload ∧ near then
      (((s.safeExecute a.payload).reply a.req 0x0505 stOk 0)).reply b.req 0x0505 stOk 0
    else
      let s := s.addSat ZON_CNT ZON_CNT_MISMATCH 1
      (s.reply a.req 0x0505 stSafetyBlock 3).reply b.req 0x0505 stSafetyBlock 3
  | _, _ => s

/-- A checked copy enters the slot of its port (R340). -/
def State.safeEnter (s : State) (q : Req) (p : List Byte) (port : Port) : State :=
  let c : SafeCopy := { req := q, payload := p, tbl := s.tbl }
  match s.slotOf port with
  | none => (s.putSlot port (some c)).safePair
  | some old =>
    if old.payload = p then s
    else ((s.putSlot port (some c)).reply old.req 0x0505 stSafetyBlock 2).safePair

/-- SAFE_COMMAND (R338–R341). [DEDUCED, log 45] -/
def execSafeCommand (q : Req) (p : List Byte) (s : State) : Host.Outcome State Fault Refusal :=
  .next (s.command q 0x0505 p (fun s =>
    match s.safePort q with
    | none => s.reply q 0x0505 stSafetyBlock 7
    | some port =>
      checked q 0x0505 p 32 (fun s => chk (!s.domOn 10) stRefused :: s.safeChecks p) (fun s => s.safeEnter q p port) s))

/-- A copy still alone 8 ms after its arrival is dropped (R340). -/
def State.safeAlone (s : State) (port : Port) (c : SafeCopy) : State :=
  let s := s.at_ (s.tm.now + (c.tbl + 8000000 - s.tbl) * 64)
  ((s.putSlot port none).addSat ZON_CNT ZON_CNT_UNPAIRED 1).reply c.req 0x0505 stSafetyBlock 1

/-- SAFE_COMMAND_UNPAIRED: the copy that waits alone is dropped (R340). -/
def execSafeCommandUnpaired (s : State) : Host.Outcome State Fault Refusal :=
  match s.zon.slotA, s.zon.slotB with
  | some c, _ => .next (s.safeAlone .A c)
  | none, some c => .next (s.safeAlone .B c)
  | none, none => .next s

end Sys2Proof.Machine
end

