-- ==== Sys2Proof/Machine/Readback.lean ====
section
/-! DEFINITION. What a register read returns: words computed at the read, registers that are absent or whose domain is off, and the read
snapshot of RS pairs (R4, R5, R14, R49, R72, R73, R371, R539–R541). -/

namespace Sys2Proof.Machine

open Reg

/-! ### Words computed at the read -/

/-- A word with some fields replaced. -/
def withF (w : Word) (l : List (Fld × Nat)) : Word := l.foldl (fun w x => x.1.set w x.2) w

/-- GLB words; GLB_SNAP is the path's (R73, R494, R503). -/
def State.liveGlb (s : State) (sh : Shadow) (a : Nat) : Word :=
  let f := s.boot.shadows
  if a = GLB_ID then
    withF 0 [(GLB_ID_REVISION, f.revision), (GLB_ID_BL_MAX, f.blMax), (GLB_ID_VARIANT, f.variant), (GLB_ID_INDEX, s.index)]
  else if a = GLB_SERIAL 0 then BitVec.ofNat 32 f.serial
  else if a = GLB_SERIAL 1 then BitVec.ofNat 32 (f.serial / 2 ^ 32)
  else if a = GLB_BEHAVIOUR then GLB_BEHAVIOUR_MAX.set (s.rd a) f.blMax
  else if a = GLB_SNAP then withF 0 [(GLB_SNAP_TORN, b2n sh.torn), (GLB_SNAP_PAIR_MISS, b2n sh.miss)]
  else s.rd a

/-- CMD words: what the queues, sessions and the receive FIFO hold (R46, R47, R61). -/
def State.liveCmd (s : State) (a : Nat) : Word :=
  if a = CMD_HSPI_STATUS then
    withF (s.rd a) [(CMD_HSPI_STATUS_RXFREE, s.rxFree), (CMD_HSPI_STATUS_NOTICE_AVAIL, b2n (!s.cmd.notices.isEmpty)),
      (CMD_HSPI_STATUS_ALERT_AVAIL, b2n (!s.cmd.alerts.isEmpty)), (CMD_HSPI_STATUS_REPLY_AVAIL, b2n (!s.cmd.replies.isEmpty))]
  else if a = CMD_AUTH_CTRL then
    withF (s.rd a) [(CMD_AUTH_CTRL_SESSION_HSPI, b2n s.cmd.sessHspi.isSome), (CMD_AUTH_CTRL_SESSION_UDP, b2n s.cmd.sessUdp.isSome)]
  else if a = CMD_EVT_STATUS then
    withF (s.rd a) [(CMD_EVT_STATUS_NOTICE_LEVEL, s.cmd.notices.length), (CMD_EVT_STATUS_ALERT_LEVEL, s.cmd.alerts.length)]
  else s.rd a

/-- PMU_STAT: VIN, and the rails in regulation where something they feed is on (R485, R486). -/
def State.pmuStat (s : State) : Word :=
  let up := s.tm.tblStarted
  withF (s.rd PMU_STAT) [(PMU_STAT_VIN_OK, b2n s.boot.vinOk), (PMU_STAT_OV, b2n (decide (40000 < s.pin.vinMv))), (PMU_STAT_AUX_PG, b2n up),
    (PMU_STAT_VIO_PG, b2n up), (PMU_STAT_VCORE_PG, b2n up), (PMU_STAT_VANA_PG, b2n ([6, 7, 8, 9, 12, 13].any s.domOn)),
    (PMU_STAT_VSER_PG, b2n ([15, 16, 17, 18].any s.domOn))]

/-- PMU words that show fuses and the non-volatile array (R494, R509). [DEDUCED, log 48] -/
def State.livePmu (s : State) (a : Nat) : Word :=
  let f := s.boot.shadows
  if a = PMU_STAT then s.pmuStat
  else if a = PMU_PD_FUSE then BitVec.ofNat 32 (fusedOff f.variant)
  else if a = PMU_BOOT then PMU_BOOT_NEXT.set (s.rd a) s.boot.nvNext
  else if a = PMU_BOOTS then BitVec.ofNat 32 s.boot.nvBoots
  else if a = PMU_FUSE then
    withF (s.rd a) [(PMU_FUSE_SIG_REQ, b2n f.sigReq), (PMU_FUSE_HASH_SET, b2n (!allZero f.keyHash)),
      (PMU_FUSE_CEIL_SET, b2n ((List.range 3).all (fun w => Sp.get (fun _ => 0) f.ceilings w != 0)))]
  else s.rd a

/-- RFE_STAT of an input (R81, R83, R95). -/
def State.liveRfe (s : State) (a : Nat) : Word :=
  let n := (a - RFE_CFG 0) / 0x40
  if a = RFE_STAT n then
    withF (s.rd a) [(RFE_STAT_FIFO_LEVEL, (s.evFifo n).length), (RFE_STAT_MODE_MISMATCH, b2n (s.modeMismatch n)),
      (RFE_STAT_RGND_FAULT, b2n (s.tdc.rgnd.contains (n / 4)))]
  else s.rd a

/-- HGE_CH_XFIFO of a channel: its credit and its bank's crossing FIFO (R158). -/
def State.liveHge (s : State) (a : Nat) : Word :=
  let n := (a - HGE_CH_BINNED 0) / 0x20
  if HGE_CH_BINNED 0 ≤ a ∧ a = HGE_CH_XFIFO n then
    withF (s.rd a) [(HGE_CH_XFIFO_CREDIT, s.credit n), (HGE_CH_XFIFO_BANK_FIFO, (Sp.get (fun _ => []) s.hge.fifo (n / 4)).length)]
  else s.rd a

/-- TIM words that show the time bases (R369–R371). -/
def State.liveTim (s : State) (a : Nat) : Word :=
  let base (x : Nat) : Word :=
    let v := s.netTime x
    if a = TIM_TBx_SECL x then BitVec.ofNat 32 (netSec v)
    else if a = TIM_TBx_SECH x then withF 0 [(TIM_TBx_SECH_SEC_HI, netSec v / 2 ^ 32), (TIM_TBx_SECH_SUBNS, netSub v)]
    else if a = TIM_TBx_NS x then BitVec.ofNat 32 (netNs v)
    else s.rd a
  if a = TIM_TBS_LO then BitVec.ofNat 32 s.tbs
  else if a = TIM_TBS_HI then BitVec.ofNat 32 (s.tbs / 2 ^ 32)
  else if a = TIM_TBL_LO then BitVec.ofNat 32 s.tbl
  else if a = TIM_TBL_HI then BitVec.ofNat 32 (s.tbl / 2 ^ 32)
  else if a < TIM_TBx_SECL 1 then base 0 else base 1

/-- ESF words computed from pins, conditions and charges (R303, R320, R327). -/
def State.liveEsf (s : State) (a : Nat) : Word :=
  if a = ESF_COND then s.condWord
  else if a = ESF_IN then s.esfIn
  else if a = ESF_DIAG then s.diagWord
  else match (List.range 3).find? (fun w => a == ESF_EXP_LVL w) with
    | some w => s.expLevelWord w
    | none => s.rd a

/-- ETHx_NBR_STAT: the remaining TTL of a neighbour entry (R366). -/
def State.liveEth (s : State) (p : Port) (a : Nat) : Word :=
  match (List.range 4).find? (fun e => a == ETHx_NBR_STAT (portIx p) e) with
  | some e =>
    if s.nbrValid (portIx p) e then
      ETHx_NBR_STAT_TTL.set (s.rd a) (((Sp.get (fun _ => 0) (s.eth p).nbrEnd e) - s.tm.now + (tickS - 1)) / tickS)
    else s.rd a
  | none => s.rd a

/-- THM_TS: VALID of a sensor (R471). [DEDUCED, log 48] -/
def State.liveThm (s : State) (a : Nat) : Word :=
  match (List.range 12).find? (fun i => a == THM_TS i) with
  | some i => THM_TS_VALID.set (s.rd a) (b2n (s.tsValid i))
  | none => s.rd a

/-- The word of a register at an instant, as a path with a read-snapshot shadow sees it. [DEDUCED, log 47; DESIGN CHOICE, log 99] -/
def State.live (s : State) (sh : Shadow) (a : Nat) : Word :=
  match blkOf a with
  | some .GLB => s.liveGlb sh a
  | some .CMD => s.liveCmd a
  | some .PMU => s.livePmu a
  | some .RFE => s.liveRfe a
  | some .HGE => s.liveHge a
  | some .TIM => s.liveTim a
  | some .ESF => s.liveEsf a
  | some .ZON => if a = ZON_STATE then s.zonesNow else s.rd a
  | some .ETHA => s.liveEth .A a
  | some .ETHB => s.liveEth .B a
  | some .THM => s.liveThm a
  | _ => s.rd a

/-! ### Absent registers and domains (R4, R5, R539, R540) -/

/-- Whether a register belongs to what the variant lacks: it reads 0 and ignores writes (R4, R5). -/
def State.absent (s : State) (a : Nat) : Bool :=
  fusedChannelReg s.channels a || (blkOf a == some .ZON && !s.isMS)
    || (match domainOf a with | some d => bit (fusedOff s.variant) d | none => false)

/-- Whether a register stands at an address and is present in the variant. -/
def State.isReg (s : State) (a : Nat) : Bool := (cardAt a).isSome && !s.absent a

/-- Whether PD01 has come on since the device left OFF (R369, R502). -/
def State.coreOn (s : State) : Bool := s.tm.tblStarted

/-- Whether the domain of a register is on. -/
def State.regOn (s : State) (a : Nat) : Bool :=
  match domainOf a with
  | some 0 => true
  | some 1 => s.coreOn
  | some d => s.domOn d
  | none => true

/-- Whether an access to an address meets a domain that is off (R540). -/
def State.regDark (s : State) (a : Nat) : Bool := s.isReg a && !s.regOn a

/-- What a register address reads as: 0 at a reserved offset, for what is absent, and while the domain is off (R4, R5, R539, R540).
[DEDUCED, log 100] -/
def State.peek (s : State) (sh : Shadow) (a : Nat) : Word := if s.isReg a && s.regOn a then s.live sh a else 0

/-! ### RS pairs (R73, R371) -/

/-- The cards of RS low words, by the address of their first instance. -/
def rsCards : List Nat :=
  [RFE_LAST_LO 0, TDC_FREF_LAST_LO 0, FIR_KEY_LO, FIR_FSTART_LO, MAD_TRIG_TBS_LO, EVR_TTIME_LO, ESF_TRIP_LO, TIM_TBS_LO, TIM_TBL_LO,
   TIM_EVCAP_LO 0, TIM_TBx_SECL 0, WFL_LANE_BITS_LO 0 0, HNG_CAS_OFS_LO]

/-- Whether an address is an RS low word. -/
def rsLow (a : Nat) : Bool :=
  match cardAt a with
  | some (c, _) => rsCards.contains c.addr
  | none => false

/-- The low word of the pair or group whose high word stands at an address. -/
def rsOf (a : Nat) : Option Nat :=
  if 4 ≤ a && rsLow (a - 4) then some (a - 4)
  else if a = TIM_TBx_NS 0 ∨ a = TIM_TBx_NS 1 then some (a - 8) else none

/-- The addresses of the pair or group of an RS low word. -/
def rsGroup (lo : Nat) : List Nat :=
  if lo = TIM_TBx_SECL 0 ∨ lo = TIM_TBx_SECL 1 then [lo, lo + 4, lo + 8] else [lo, lo + 4]

/-- The shadow of a path. -/
def State.shadow (s : State) : Path → Shadow
  | .hspi => s.cmd.shHspi
  | .cmd => s.cmd.shCmd
  | .dma c => Sp.get (fun _ => {}) s.cmd.shDma c

/-- The state with the shadow of a path replaced. -/
def State.setShadow (s : State) (p : Path) (x : Shadow) : State :=
  match p with
  | .hspi => { s with cmd := { s.cmd with shHspi := x } }
  | .cmd => { s with cmd := { s.cmd with shCmd := x } }
  | .dma c => { s with cmd := { s.cmd with shDma := Sp.put (fun _ => {}) s.cmd.shDma c x } }

/-- The words of a pair or group now. -/
def State.rsNow (s : State) (sh : Shadow) (lo : Nat) : List Word := (rsGroup lo).map (s.peek sh)

/-- A path reads an RS low word: the live word is returned, and the pair is copied into the shadow (R73). -/
def State.readLow (s : State) (p : Path) (a : Nat) : Word × State :=
  let ws := s.rsNow (s.shadow p) a
  (ws.headD 0, s.setShadow p { pair := some a, words := ws })

/-- A path reads an RS high word: the shadow of the same pair, or the live word with PAIR_MISS (R73). -/
def State.readHigh (s : State) (p : Path) (lo a : Nat) : Word × State :=
  let sh := s.shadow p
  if sh.pair = some lo then
    (sh.words.getD ((a - lo) / 4) 0, s.setShadow p { sh with torn := sh.torn || s.rsNow sh lo != sh.words })
  else (s.peek sh a, s.setShadow p { sh with miss := true })

/-- A path reads one register word (R72, R73). -/
def State.readWord (s : State) (p : Path) (a : Nat) : Word × State :=
  if !(s.isReg a && s.regOn a) then (0, s)
  else if rsLow a then s.readLow p a
  else match rsOf a with
    | some lo => s.readHigh p lo a
    | none => (s.peek (s.shadow p) a, s)

/-- A path reads consecutive words, lowest address first. -/
def State.readWords (s : State) (p : Path) (a : Nat) : Nat → List Word × State
  | 0 => ([], s)
  | n + 1 =>
    let (w, s1) := s.readWord p a
    let (ws, s2) := State.readWords s1 p (a + 4) n
    (w :: ws, s2)

/-- RS_LOW_WORD_READ: a path reads the low word of an RS pair (R73). -/
def execRsLowWordRead (path : Path) (a : Nat) (s : State) : Host.Outcome State Fault Refusal :=
  if s.boot.off || !rsLow a then .next s
  else
    let (w, s) := s.readWord path a
    .next { s with cmd := { s.cmd with lastRead := w } }

/-- RS_HIGH_WORD_READ: a path reads a high word of an RS pair (R73). -/
def execRsHighWordRead (path : Path) (a : Nat) (s : State) : Host.Outcome State Fault Refusal :=
  if s.boot.off || (rsOf a).isNone then .next s
  else
    let (w, s) := s.readWord path a
    .next { s with cmd := { s.cmd with lastRead := w } }

end Sys2Proof.Machine
end

