-- ==== Sys2Proof/Machine/Dma.lean ====
section
/-! DEFINITION. DMA channels: sides, regions and spans, the checks at a rise of EN, disabling, loss of a domain and the queue controls
(R432–R441, R445, R447–R449). -/

namespace Sys2Proof.Machine

open Reg

/-! ### Sides of a transfer (R435, R436) -/

/-- One side of a transfer: address, line length, line count, stride and width. -/
structure Side where
  addr : Nat
  len : Nat
  lines : Nat
  stride : Int
  width : Nat
  deriving DecidableEq, Repr

/-- The width code of a side. -/
def State.dmaWidth (s : State) (c j : Nat) : Nat :=
  2 ^ (if j = 0 then s.f (DMA_CH_CFG c) DMA_CH_CFG_SWIDTH else s.f (DMA_CH_CFG c) DMA_CH_CFG_DWIDTH)

/-- A side of a channel: 0 the source, 1 the destination; 0 lines are used as 1. -/
def State.side (s : State) (c j : Nat) : Side :=
  let l := s.rd (DMA_CH_LINE c j)
  { addr := (s.rd (DMA_CH_ADDR c j)).toNat, len := bits l.toNat 0 16, lines := Nat.max 1 (bits l.toNat 16 16),
    stride := sx 32 (s.rd (DMA_CH_STRIDE c j)).toNat, width := s.dmaWidth c j }

/-- The bytes of a side. -/
def Side.total (x : Side) : Nat := x.len * x.lines

/-- The address of a byte of a side, by its place in the byte stream. -/
def Side.at (x : Side) (k : Nat) : Int := x.addr + (k / Nat.max 1 x.len : Nat) * x.stride + (k % Nat.max 1 x.len : Nat)

/-- The first and one past the last address of a side's span (R433). -/
def Side.span (x : Side) : Int × Int :=
  let last := (x.addr : Int) + (x.lines - 1 : Nat) * x.stride
  (min (x.addr : Int) last, max (x.addr : Int) last + x.len)

/-- The queue a channel drains: 1 QMON, 2 QFILT, 0 none. -/
def State.dmaQueue (s : State) (c : Nat) : Nat :=
  let r := s.f (DMA_CH_CFG c) DMA_CH_CFG_REQ
  if r = 1 ∨ r = 2 then r else 0

/-- Bytes of an item of a queue. -/
def itemSize (queue : Nat) : Nat := if queue = 1 then 4 else 8

/-- The burst of a channel, in bytes. -/
def State.burstBytes (s : State) (c : Nat) : Nat := 16 * 2 ^ Nat.min 4 (s.f (DMA_CH_CFG c) DMA_CH_CFG_BLOG)

/-! ### Regions (R433) -/

/-- The regions a memory or register side may lie in. -/
inductive DmaRegion where
  | regs | roRegs
  | win (w : Win)
  deriving DecidableEq, Repr

/-- Whether the engine may only read the registers of a block. -/
def Blk.roDma : Blk → Bool
  | .GLB | .CMD | .PMU | .CLK | .ZON | .ESF | .THM | .DMA => true
  | _ => false

/-- The region of an address. -/
def regionOf (a : Nat) : Option DmaRegion :=
  match blkOf a with
  | some b => some (if b.roDma then .roRegs else .regs)
  | none => (winOf a).map DmaRegion.win

/-- One past the last address of the block or window at an address. -/
def extentOf (a : Nat) : Nat :=
  match blkOf a with
  | some b => b.span.2
  | none => match winOf a with
    | some w => w.stop
    | none => a

/-- Whether the addresses from `a` up to `hi` all lie in a region; adjoining blocks may follow each other. -/
def inRegion (r : DmaRegion) (hi : Nat) : Nat → Nat → Bool
  | 0, _ => false
  | n + 1, a => regionOf a == some r && (decide (hi ≤ extentOf a) || inRegion r hi n (extentOf a))

/-- The region that holds a whole span. -/
def spanRegion (x : Side) : Option DmaRegion :=
  let (lo, hi) := x.span
  if lo < 0 then none
  else match regionOf lo.toNat with
    | some r => if inRegion r hi.toNat 24 lo.toNat then some r else none
    | none => none

/-- Whether a region allows a direction: source or destination. -/
def DmaRegion.allows (r : DmaRegion) (dest : Bool) : Bool :=
  match r with
  | .regs => true
  | .roRegs => !dest
  | .win .warpStaging | .win .zoneStaging | .win .hist | .win .trace => true
  | .win (.remote _) => false
  | .win _ => !dest

/-- Whether a region allows a width. -/
def DmaRegion.takes (r : DmaRegion) (w : Nat) : Bool :=
  match r with
  | .regs | .roRegs => w == 4 || w == 8
  | .win _ => true

/-- The register addresses that a domain holds, as ranges (R535). -/
def domRanges (d : Nat) : List (Nat × Nat) :=
  if 2 ≤ d ∧ d ≤ 5 then [(0x61000 + (d - 2) * 0x1000, 0x62000 + (d - 2) * 0x1000)]
  else if 6 ≤ d ∧ d ≤ 9 then
    let q := d - 6
    [(0x30000 + q * 0x2000, 0x32000 + q * 0x2000), (0x3C000 + q * 0x800, 0x3C800 + q * 0x800),
     (0x3E000 + q * 0x800, 0x3E800 + q * 0x800), (0x40400 + q * 0x200, 0x40600 + q * 0x200),
     (0x41000 + q * 0x800, 0x41800 + q * 0x800)]
  else if d = 10 then [(0x70000, 0x73000), (0xD0400, 0xD0410)]
  else if d = 11 then [(0x38100, 0x38280), (0x50000, 0x50200)]
  else if d = 12 then [(0x90000, 0x98000)]
  else if d = 13 then [(0xA0000, 0xA1400), (0xA8000, 0xA8300)]
  else if d = 14 then [(0xB0000, 0xB0500)]
  else if d = 15 then [(0xD0000, 0xD0400)]
  else if d = 16 then [(0xD8000, 0xD8410)]
  else if d = 17 then [(0xF0000, 0xF0800)]
  else if d = 18 then [(0xF0800, 0xF1000)]
  else []

/-- The addresses of a histogram quarter in the histogram window, as ranges (R178). -/
def histRanges (q : Nat) : List (Nat × Nat) :=
  [0, 1].flatMap (fun set =>
    [(0x10000000 + set * 0x500000, 128 * 10240), (0x10A00000 + set * 0x80000, 131072), (0x10B00000 + set * 0x80000, 131072)].map
      (fun (b : Nat × Nat) => (b.1 + q * b.2, b.1 + (q + 1) * b.2)))

/-- Whether a span meets one of some ranges. -/
def meets (sp : Int × Int) (l : List (Nat × Nat)) : Bool := l.any (fun r => decide (sp.1 < r.2) && decide ((r.1 : Int) < sp.2))

/-- The switched domains in which a span lies; the regions without a domain have none. -/
def spanDomains (r : DmaRegion) (sp : Int × Int) : List Nat :=
  match r with
  | .regs => (List.range 20).filter (fun d => meets sp (domRanges d))
  | .win .warpStaging | .win .warpActive => [11]
  | .win .zoneStaging | .win .zoneActive => [10]
  | .win .recorder => [14]
  | .win .hist => ((List.range 4).filter (fun q => meets sp (histRanges q))).map (2 + ·)
  | _ => []

/-- The domains a side of a channel lies in; PD19 holds the queues (R447). -/
def State.sideDomains (s : State) (c j : Nat) : List Nat :=
  if j = 0 && s.dmaQueue c != 0 then [19]
  else match spanRegion (s.side c j) with
    | some r => spanDomains r (s.side c j).span
    | none => []

/-- Whether an enabled channel has a span in a domain (R447). -/
def State.dmaUses (s : State) (d : Nat) : Bool :=
  s.domOn 19 && (List.range 16).any (fun c => s.dmaEn c && ((s.sideDomains c 0).contains d || (s.sideDomains c 1).contains d))

/-! ### The checks at a rise of EN (R437) -/

/-- Check 1: LEN 0, or the totals differ or reach 2^32. -/
def State.dmaBadSize (s : State) (c : Nat) : Bool :=
  let x := s.side c 0
  let y := s.side c 1
  x.len == 0 || y.len == 0 || x.total != y.total || decide (2 ^ 32 ≤ x.total)

/-- Whether a side is aligned to its width, in a region that allows it. -/
def Side.aligned (x : Side) (queue : Nat) : Bool :=
  if queue ≠ 0 then x.len % x.width == 0 && x.width == itemSize queue
  else x.addr % x.width == 0 && x.len % x.width == 0 && x.stride % x.width == 0 &&
    (match regionOf x.addr with | some r => r.takes x.width | none => true)

/-- Whether a memory or register side lies where R433 lets it: one region, its direction, its domain on and present. -/
def State.placed (s : State) (x : Side) (dest : Bool) : Bool :=
  match spanRegion x with
  | none => false
  | some r =>
    r.allows dest && (spanDomains r x.span).all s.domOn
      && (s.isMS || !(r == .win .zoneStaging || r == .win .zoneActive))

/-- Whether the watermarks break R440. -/
def State.dmaBadWm (s : State) (c : Nat) : Bool :=
  let q := s.dmaQueue c
  let n := s.burstBytes c / itemSize q
  let hi := s.f (DMA_CH_WM c) DMA_CH_WM_HIGH
  decide (hi < n) || decide ((if q = 1 then 1024 else 512) < hi) || decide (hi ≤ s.f (DMA_CH_WM c) DMA_CH_WM_LOW)

/-- The STATUS code of the first check that fails; `none` when the transfer may start. -/
def State.dmaCheck (s : State) (c : Nat) : Option Nat :=
  let q := s.dmaQueue c
  if s.dmaBadSize c then some 5
  else if !((s.side c 0).aligned q && (s.side c 1).aligned 0) then some 6
  else if !((q != 0 || s.placed (s.side c 0) false) && s.placed (s.side c 1) true) then some 7
  else if q ≠ 0 ∧ (List.range 16).any (fun d => d != c && s.dmaEn d && s.dmaQueue d == q) then some 8
  else if q ≠ 0 ∧ s.dmaBadWm c then some 9
  else none

/-- REMAIN and CUR at the start of a lap. -/
def State.dmaLoad (s : State) (c : Nat) : State :=
  let s := s.wr (DMA_CH_REMAIN c) (BitVec.ofNat 32 (s.side c 0).total)
  (s.wr (DMA_CH_CUR c 0) (s.rd (DMA_CH_ADDR c 0))).wr (DMA_CH_CUR c 1) (s.rd (DMA_CH_ADDR c 1))

/-- The period of a channel's TIMER request, in ticks (R439). -/
def State.dmaPeriod (s : State) (c : Nat) : Nat := Nat.max 1 (s.f (DMA_CH_PACE c) DMA_CH_PACE_PERIOD) * 6400

/-- EN of a channel rises (R437). -/
def State.dmaEnable (s : State) (c : Nat) : State :=
  match s.dmaCheck c with
  | some code => (s.setF (DMA_CH_CTRL c) DMA_CH_CTRL_EN 0).setF (DMA_CH_CTRL c) DMA_CH_CTRL_STATUS code
  | none =>
    let s := ((s.setF (DMA_CH_CTRL c) DMA_CH_CTRL_EN 1).setF (DMA_CH_CTRL c) DMA_CH_CTRL_STATUS 1).dmaLoad c
    let r := s.f (DMA_CH_CFG c) DMA_CH_CFG_REQ
    let s := s.setDch c { timerAt := s.tm.now + s.dmaPeriod c }
    if r = 0 then s.setF (DMA_CH_CTRL c) DMA_CH_CTRL_REQ 1
    else if r = 1 ∨ r = 2 then s.watermarks r else s

/-- EN of a channel is written 0 (R445). -/
def State.dmaDisable (s : State) (c : Nat) : State := s.dmaDrop c (if (s.dch c).moved then 4 else 0) true

/-- A domain is lost to the channels that use it (R447). -/
def State.dmaLost (s : State) (d : Nat) : State :=
  if !s.domOn 19 then s
  else s.forEach (List.range 16) (fun s c =>
    if s.dmaEn c && ((s.sideDomains c 0).contains d || (s.sideDomains c 1).contains d) then s.dmaDrop c 12 true else s)

/-- Every DMA register back at reset and both queues empty (R449). -/
def State.dmaReset (s : State) : State :=
  { s.resetRegs 19 with dma := {}, cmd := { s.cmd with shDma := [] } }

/-! ### Queue controls (R434, R448, R449) -/

/-- Empty a queue. -/
def State.dmaFlush (s : State) (queue : Nat) : State :=
  let s := if queue = 1 then { s with dma := { s.dma with qmon := [] } } else { s with dma := { s.dma with qfilt := [] } }
  s.dmaFills.watermarks queue

/-- CNT_CLR: DROP of both queues, MISS and LAPS of every channel. -/
def State.dmaCntClr (s : State) : State :=
  let s := (s.setF DMA_QMON_STAT DMA_QMON_STAT_DROP 0).setF DMA_QFILT_STAT DMA_QFILT_STAT_DROP 0
  s.forEach (List.range 16) (fun s c => s.wr (DMA_CH_CNT c) 0)

/-- A write of DMA_Q_CTRL. -/
def State.dmaQCtrl (s : State) (w : Word) : State :=
  let s := if DMA_Q_CTRL_FLUSH_MON.get w = 1 then s.dmaFlush 1 else s
  let s := if DMA_Q_CTRL_FLUSH_QFILT.get w = 1 then s.dmaFlush 2 else s
  if DMA_Q_CTRL_CNT_CLR.get w = 1 then s.dmaCntClr else s

/-- A write of DMA_CH_CTRL. -/
def State.dmaCtrl (s : State) (c : Nat) (w : Word) : State :=
  let s := if DMA_CH_CTRL_WR_IGNORED.get w = 1 then s.setF (DMA_CH_CTRL c) DMA_CH_CTRL_WR_IGNORED 0 else s
  match s.dmaEn c, DMA_CH_CTRL_EN.get w == 1 with
  | false, true => s.dmaEnable c
  | true, false => s.dmaDisable c
  | _, _ => s

/-- DMA_TIMER_REQUEST: the TIMER request of a channel expires (R439, R441). -/
def execDmaTimerRequest (c : Nat) (s : State) : Host.Outcome State Fault Refusal :=
  if 16 ≤ c || !s.domOn 19 || !s.dmaEn c || s.f (DMA_CH_CFG c) DMA_CH_CFG_REQ != 3 then .next s
  else
    let due := (s.dch c).timerAt
    let s := s.at_ due
    let s := s.setDch c { s.dch c with timerAt := due + s.dmaPeriod c }
    .next (s.dmaPend c)

end Sys2Proof.Machine
end

