-- ==== Sys2Proof/Machine/ProfileTable.lean ====
section
/-! DEFINITION. The profile table of R214: the fields a profile writes, its values, and which fields it locks (R210, R214, R215). -/

namespace Sys2Proof.Machine

open Reg

/-- When a field of the table is locked: never, in WEATHER, or in every profile but CUSTOM. -/
inductive Lock where
  | never | weather | always
  deriving DecidableEq, Repr

/-- A row of R214: the field's registers as first address, stride and count, the field, its values in WIDE, REACH, DENSE, WEATHER
and SERVICE, and its lock. -/
structure PField where
  addr : Nat
  stride : Nat
  count : Nat
  fld : Fld
  vals : List Nat
  lock : Lock
  deriving DecidableEq, Repr

/-- A row whose field stands in one register. -/
def one (addr : Nat) (fld : Fld) (vals : List Nat) (lock : Lock := .never) : PField := ⟨addr, 4, 1, fld, vals, lock⟩

/-- A row whose field stands in TMB_GRP_CFG of every group. -/
def perGroup (fld : Fld) (vals : List Nat) (lock : Lock := .never) : PField := ⟨TMB_GRP_CFG 0, 0x10, 128, fld, vals, lock⟩

/-- The rows of R214 that concern the histogram engine, the fire sequencer and the Tumbler. -/
def profileRows0 : List PField :=
  [one HGE_BIN HGE_BIN_WIDTH [1, 2, 1, 1, 1] .always, one HGE_BIN HGE_BIN_COUNT [5120, 2560, 2560, 5120, 5120] .always,
   one FIR_FLIGHT FIR_FLIGHT_K_M1 [3, 7, 2, 3, 0] .always, one HGE_ZOOM HGE_ZOOM_MIN_CNT [3, 4, 3, 3, 3],
   one HGE_ZOOM HGE_ZOOM_NWIN [2, 4, 1, 2, 4], perGroup TMB_GRP_CFG_KMIN_M1 [0, 0, 0, 1, 0] .weather,
   perGroup TMB_GRP_CFG_KMAX_M1 [1, 1, 1, 3, 0], perGroup TMB_GRP_CFG_WIN [4, 4, 4, 4, 4],
   perGroup TMB_GRP_CFG_TRACK_EN [1, 1, 1, 1, 0]]

/-- The rows of R214 that concern extraction and the allocator. -/
def profileRows1 : List PField :=
  [one EXT_CTRL EXT_CTRL_POLICY [0, 2, 0, 1, 0] .weather, one EXT_CTRL EXT_CTRL_MAX_M1 [0, 1, 0, 0, 3],
   one EXT_CTRL EXT_CTRL_VEIL_EN [0, 0, 0, 1, 1] .weather, one EXT_CTRL EXT_CTRL_VEIL_SUPPRESS [0, 0, 0, 1, 0] .weather,
   one EXT_CTRL EXT_CTRL_NOECHO_REC [0, 0, 0, 0, 1], one EXT_CTRL EXT_CTRL_INTF_EN [1, 1, 1, 1, 1],
   one EXT_DET EXT_DET_NSIG [16, 14, 16, 20, 16], one EXT_CONF EXT_CONF_HALVE [0x0282, 0x0282, 0x0282, 0x0283, 0x0000],
   one FIR_ALC_CTRL FIR_ALC_CTRL_EN [1, 1, 0, 1, 0], one FIR_ALC_CTRL FIR_ALC_CTRL_SMIN [2, 8, 1, 2, 1],
   one FIR_ALC_CTRL FIR_ALC_CTRL_SMAX [8, 37, 4, 8, 3],
   one FIR_ALC_W ⟨0, 32, .rw⟩ [0x04040810, 0x04040810, 0x04040810, 0x04080810, 0x04040810]]

/-- The table of R214. -/
def profileRows : List PField := profileRows0 ++ profileRows1

/-- Whether a row's field stands in the register at an address. -/
def PField.covers (p : PField) (a : Nat) : Bool :=
  decide (p.addr ≤ a) && (a - p.addr) % p.stride == 0 && decide ((a - p.addr) / p.stride < p.count)

/-- Whether a profile locks a row's field. -/
def PField.locked (p : PField) (code : Nat) : Bool :=
  match p.lock with
  | .never => false
  | .weather => code == 4
  | .always => decide (1 ≤ code) && decide (code ≤ 5)

/-- The bits of a register that hold fields of the table, of one kind: locked by a profile, or overridable in it. -/
def profileMask (code a : Nat) (locked : Bool) : Nat :=
  profileRows.foldl (fun m p => if p.covers a && p.locked code == locked then m ||| p.fld.mask else m) 0

/-- The value a profile gives a row's field. -/
def PField.val (p : PField) (code : Nat) : Nat := p.vals.getD (code - 1) 0

/-- The profile in force (R210). -/
def State.profile (s : State) : Nat := s.f FIR_PROFILE FIR_PROFILE_CODE

end Sys2Proof.Machine
end

