-- ==== Sys2Proof/Machine/Servo.lean ====
section
/-! DEFINITION. The steering servo: feedback, control law, trajectories, azimuth, mirror-speed window, trace and encoder
(chapter 09). -/

namespace Sys2Proof.Machine

open Reg

/-! ### Feedback (R229–R232) -/

/-- The azimuth loop (R231). -/
def State.azLoop (s : State) : Nat := s.f SRV_CTRL SRV_CTRL_AZ_LOOP

/-- The type of a loop. -/
def State.loopType (s : State) (x : Nat) : Nat := s.f (SRV_LP_CFG x) SRV_LP_CFG_TYPE

/-- The feedback source of a loop. -/
def State.fbSrc (s : State) (x : Nat) : Nat := s.f (SRV_LP_CFG x) SRV_LP_CFG_FBSRC

/-- The index period in 2 ns units, once two index edges have been seen since the servo started (R229). -/
def State.indexPeriod (s : State) : Option Nat :=
  match s.srv.idxTimes with
  | a :: b :: _ => some (Nat.max (a - b) (s.srv.tickAt - a) / 128)
  | _ => none

/-- The raw feedback of a loop, `none` while it is not valid (R229). -/
def State.rawFeedback (s : State) (x : Nat) : Option Int :=
  let src := s.fbSrc x
  if 1 ≤ src ∧ src ≤ 4 then Sp.find s.srv.results (src - 1)
  else if src = 5 then
    if s.fb SRV_ENC_STAT SRV_ENC_STAT_VALID then some (sx 32 (s.rd (SRV_ENC_POS 0)).toNat) else none
  else if src = 6 then s.indexPeriod.map (fun n => (n : Int))
  else if 8 ≤ src then
    if (s.chain (src - 8)).valid then some (s.chain (src - 8)).y16 else none
  else none

/-- The azimuth of a POSITION loop from its raw feedback (R231). -/
def State.posAz (s : State) (x : Nat) (raw : Int) : Nat :=
  let ofs : Int := s.f SRV_AZ_CFG SRV_AZ_CFG_AZ_OFS
  if s.fbSrc x = 5 then
    let cpt : Int := Nat.max 4 (s.f SRV_ENC_CPT SRV_ENC_CPT_CPT)
    ux 20 (ofs + raw % cpt * 2 ^ 20 / cpt)
  else ux 20 (ofs + asr (raw * sx 32 (s.rd SRV_AZ_K).toNat) 16)

/-- The feedback value of a loop: a POSITION loop's is its azimuth, signed (R231). -/
def State.feedback (s : State) (x : Nat) : Option Int :=
  (s.rawFeedback x).map (fun r => if s.loopType x = 1 then sx 20 (s.posAz x r) else r)

/-- The sampling time t_s on TBS: the tick plus 31.25 ns for a converter, plus 6 ns otherwise (R232). -/
def State.sampleTime (s : State) (x : Nat) : Nat :=
  (s.tbsAt s.srv.tickAt + (if 1 ≤ s.fbSrc x ∧ s.fbSrc x ≤ 4 then 2000 else 384)) % 2 ^ 64

/-- The sample period of a loop in ns (R227). -/
def State.samplePeriod (s : State) (x : Nat) : Nat :=
  (s.f (SRV_LP_CFG x) SRV_LP_CFG_DIV + 1) * s.f SRV_TICK SRV_TICK_PERIOD * 2

/-- A rate limited to the 32-bit word that holds it. [DEDUCED, log 31] -/
def rate32 (r : Int) : Int := satS 32 r

/-- The azimuth and rate of a POSITION loop's sample (R231, R232). -/
def State.posRate (s : State) (x : Nat) (raw : Int) : Nat × Int :=
  let az := s.posAz x raw
  let dz := match s.srv.azPrev with
    | some p => sx 20 (ux 20 ((az : Int) - p))
    | none => 0
  let r := Int.tdiv (dz * 2 ^ 20) (s.samplePeriod x)
  (az, rate32 (s.srv.rateF + asr (r - s.srv.rateF) (Nat.min 12 (s.f SRV_CTRL SRV_CTRL_RATE_SHIFT))))

/-- The azimuth and rate of a SPEED loop's sample (R231). -/
def State.speedRate (s : State) (period : Int) : Nat × Int :=
  let span : Int := bits (s.rd SRV_AZ_K).toNat 0 20
  let el : Int := (s.srv.tickAt - s.srv.idxTimes.headD 0) / 64
  let rate := rate32 (span * 2 ^ 19 / period)
  let swept := asr (rate * el) 20
  (ux 20 ((s.f SRV_AZ_CFG SRV_AZ_CFG_AZ_OFS : Nat) + (if swept < span then swept else span)), rate)

/-- Deliver azimuth, rate and sampling time of a valid sample, or mark the azimuth not valid (R231, R232). -/
def State.deliverAz (s : State) (x : Nat) (raw : Option Int) : State :=
  if x ≠ s.azLoop then s
  else
    match raw with
    | none => s.setF SRV_AZ SRV_AZ_VALID 0
    | some r =>
      let t := s.loopType x
      if t = 1 ∨ t = 2 then
        let (az, rate) := if t = 1 then s.posRate x r else s.speedRate r
        let s := (s.setF SRV_AZ SRV_AZ_AZ az).setF SRV_AZ SRV_AZ_VALID 1
        let s := s.wr SRV_RATE (BitVec.ofNat 32 (ux 32 rate))
        { s with srv := { s.srv with azPrev := some az, rateF := rate, azValid := some (az, rate, s.sampleTime x) } }
      else s.setF SRV_AZ SRV_AZ_VALID 0

/-! ### Setpoint (R240, R241) -/

/-- Whether a loop runs a trajectory. -/
def State.hasTraj (s : State) (x : Nat) : Bool := decide (x < 2) && s.loopType x == 1 && (s.loop x).len != 0

/-- The word of a trajectory entry of the active bank. -/
def State.trajWord (s : State) (x e : Nat) : Word := s.rd (SRV_TRAJ x (s.f (SRV_LP_TRAJ x) SRV_LP_TRAJ_ACTIVE) e)

/-- The setpoint of an entry. -/
def State.trajSp (s : State) (x e : Nat) : Int := sx 20 (SRV_TRAJ_SP.get (s.trajWord x e))

/-- Take a requested swap: ACTIVE toggles, and LEN and STEP written since the last swap take effect (R241). -/
def State.trajSwap (s : State) (x : Nat) : State :=
  if x < 2 ∧ s.fb (SRV_LP_TRAJ x) SRV_LP_TRAJ_SWAP = true then
    let s := s.setF (SRV_LP_TRAJ x) SRV_LP_TRAJ_SWAP 0
    let s := s.setF (SRV_LP_TRAJ x) SRV_LP_TRAJ_ACTIVE (1 - s.f (SRV_LP_TRAJ x) SRV_LP_TRAJ_ACTIVE)
    s.setLoop x { s.loop x with len := s.f (SRV_LP_TRAJ x) SRV_LP_TRAJ_LEN,
                                step := Nat.max 1 (s.f (SRV_LP_TRAJ x) SRV_LP_TRAJ_STEP), entry := 0, samp := 0 }
  else s

/-- Come to a loop's next sample on its trajectory: a wrap to entry 0 takes a swap and may be an index event (R233, R241). -/
def State.trajArrive (s : State) (x : Nat) : State :=
  let l := s.loop x
  if l.len = 0 then s.trajSwap x
  else if l.len ≤ l.entry then
    let s := (s.setLoop x { l with entry := 0, samp := 0 }).trajSwap x
    if x = s.azLoop ∧ s.f SRV_CTRL SRV_CTRL_IDX_SRC = 2 ∧ s.loopType x = 1 then s.frameEvent 1 (s.sampleTime x) else s
  else s

/-- The setpoint and gate of a loop's sample (R240). -/
def State.setpoint (s : State) (x : Nat) : Int × Bool :=
  if s.hasTraj x then
    let l := s.loop x
    let a := s.trajSp x l.entry
    let b := s.trajSp x ((l.entry + 1) % l.len)
    (a + Int.tdiv ((b - a) * l.samp) l.step, bit (s.trajWord x l.entry).toNat 11)
  else (sx 32 (s.rd (SRV_LP_SP x)).toNat, false)

/-- A loop's trajectory after a sample: the next sample of the entry or the next entry. -/
def trajNext (l : Loop) : Loop :=
  if l.len = 0 then l
  else if l.samp + 1 < l.step then { l with samp := l.samp + 1 } else { l with samp := 0, entry := l.entry + 1 }

/-! ### The control law (R235–R238) -/

/-- A product or sum as stored: saturated to 32 bits. -/
def st32 (i : Int) : Int := satS 32 i

/-- A gain of a loop: KP, KI, KD, FF. -/
def State.gain (s : State) (x j : Nat) : Int := sx 32 (s.rd (SRV_LP_K x j)).toNat

/-- One notch sample: its output from its input and states (R235). -/
def State.notchOut (s : State) (x f : Nat) (v : Int) (n : Notch) : Int :=
  let c (j : Nat) : Int := sx 24 (s.f (SRV_LP_NC x f j) SRV_LP_NC_COEF)
  st32 (asr (c 0 * v + c 1 * n.x1 + c 2 * n.x2 - c 3 * n.y1 - c 4 * n.y2) 22)

/-- A notch's states after a sample. -/
def notchNext (v y : Int) (n : Notch) : Notch := { x1 := v, x2 := n.x1, y1 := y, y2 := n.y1 }

/-- A notch whose states all hold one value. -/
def notchAt (v : Int) : Notch := { x1 := v, x2 := v, y1 := v, y2 := v }

/-- Limits of a loop register: the signed upper and lower halves. -/
def State.limits (s : State) (a : Nat) : Int × Int := (sx 16 (bits (s.rd a).toNat 0 16), sx 16 (bits (s.rd a).toNat 16 16))

/-- The manual output of a loop (R235). -/
def State.uMan (s : State) (x : Nat) : Int :=
  let (lo, hi) := s.limits (SRV_LP_OLIM x)
  clampI lo hi (sx 16 (s.f (SRV_LP_MAN x) SRV_LP_MAN_MAN))

/-- The proportional, derivative and feedforward terms of a sample: the nodes before the integrator (R235). -/
def State.terms (s : State) (x : Nat) (sp fb : Int) : Nodes :=
  let l := s.loop x
  let sg : Int := if s.loopType x = 2 then -1 else 1
  let e := st32 (sg * (sp - fb))
  let fb0 := if l.fresh then fb else l.last.fb
  let sp0 := if l.fresh then sp else l.last.sp
  { sp := sp, fb := fb, e := e, p := st32 (asr (s.gain x 0 * e) 16), d := st32 (asr (s.gain x 2 * sg * (fb0 - fb)) 16),
    ff := st32 (asr (s.gain x 3 * sg * (sp - sp0)) 16) }

/-- The integrator after a sample (R235, R237, R238). -/
def State.integral (s : State) (x : Nat) (n : Nodes) (auto first : Bool) : Int :=
  let l := s.loop x
  let (ilo, ihi) := s.limits (SRV_LP_ILIM x)
  if !auto then l.i
  else if first then clampI (ilo * 2 ^ 16) (ihi * 2 ^ 16) ((s.uMan x - n.p - n.d - n.ff) * 2 ^ 16)
  else
    let di := st32 (s.gain x 1 * n.e)
    if (l.hitHi && decide (0 < di)) || (l.hitLo && decide (di < 0)) then l.i
    else clampI (ilo * 2 ^ 16) (ihi * 2 ^ 16) (l.i + di)

/-- One notch of a sample: its output and its new states (R235). -/
def State.notchStep (s : State) (x f : Nat) (v : Int) (n : Notch) (auto : Bool) : Int × Notch :=
  let on := s.fb (SRV_LP_CFG x) (if f = 0 then SRV_LP_CFG_N0_EN else SRV_LP_CFG_N1_EN)
  if on then
    let y := s.notchOut x f v n
    (y, if auto then notchNext v y n else n)
  else (v, notchAt v)

/-- The loop after a valid sample: integrator, notches, output and code (R235). [DEDUCED, log 31] -/
def State.loopLaw (s : State) (x : Nat) (sp fb : Int) (auto : Bool) : Loop :=
  let l := s.loop x
  let first := auto && !l.auto
  let n := s.terms x sp fb
  let i := s.integral x n auto first
  let u0 := st32 (n.p + asr i 16 + n.d + n.ff)
  let (u1, n0) := s.notchStep x 0 u0 (if first then notchAt u0 else l.notch0) auto
  let (u2, n1) := s.notchStep x 1 u1 (if first then notchAt u0 else l.notch1) auto
  let (lo, hi) := s.limits (SRV_LP_OLIM x)
  let u := if auto then clampI lo hi u2 else s.uMan x
  let code := clampI 0 65535 (u + s.f (SRV_LP_OOFS x) SRV_LP_OOFS_OOFS)
  { l with fresh := false, auto := auto, i := i, notch0 := n0, notch1 := n1, hitHi := auto && decide (hi < u2),
           hitLo := auto && decide (u2 < lo), invalid := 0,
           last := { n with u0 := u0, u1 := u1, u2 := u2, u := u, code := code } }

/-- SATURATED, SAT_SEEN and SATEV after an AUTO sample (R236, R248). -/
def State.saturated (s : State) (x : Nat) (l : Loop) : State :=
  let (ilo, ihi) := s.limits (SRV_LP_ILIM x)
  let sat := l.i == ilo * 2 ^ 16 || l.i == ihi * 2 ^ 16 || l.hitHi || l.hitLo
  let was := s.fb (SRV_LP_STAT x) SRV_LP_STAT_SATURATED
  let s := s.setF (SRV_LP_STAT x) SRV_LP_STAT_SATURATED (b2n sat)
  if sat && !was then
    ((s.setF (SRV_LP_STAT x) SRV_LP_STAT_SAT_SEEN 1).addSat (SRV_LP_CNT x) SRV_LP_CNT_SATEV 1).traceTrigger 2
  else s

/-- Drive a loop's sink with its code, unless a lower-numbered loop does (R242). [DEDUCED, log 33] -/
def State.drive (s : State) (x code : Nat) : State :=
  match s.loopSink x with
  | none => s
  | some k =>
    let rivals := (List.range 6).filter (fun y => (s.loop y).running && s.loopSink y == some k)
    let s := if 1 < rivals.length then s.setF SRV_STATUS SRV_STATUS_OUT_CONFLICT 1 else s
    if s.sinkLoop k = some x ∧ s.srv.rampLeft = none then
      { s with srv := { s.srv with sinks := Sp.ins s.srv.sinks k code } }
    else s

/-- The registers that show a loop's sample (R229, R237). -/
def State.showSample (s : State) (x : Nat) (l : Loop) : State :=
  let s := (s.setF (SRV_LP_OUT x) SRV_LP_OUT_CODE l.last.code.toNat).setF (SRV_LP_OUT x) SRV_LP_OUT_U (ux 16 l.last.u)
  let s := s.wr (SRV_LP_MON x 0) (BitVec.ofNat 32 (ux 32 l.last.fb))
  let s := s.wr (SRV_LP_MON x 1) (BitVec.ofNat 32 (ux 32 l.last.e))
  let s := s.wr (SRV_LP_MON x 2) (BitVec.ofNat 32 (ux 32 l.i))
  if l.auto then s.setF (SRV_LP_MAN x) SRV_LP_MAN_MAN (ux 16 l.last.u) else s

/-- Whether a loop is good after a sample (R245). -/
def State.loopGood (s : State) (x : Nat) (valid : Bool) : Bool :=
  let l := s.loop x
  let m := s.f (SRV_LP_ERRMAX x) SRV_LP_ERRMAX_ERRMAX
  l.running && s.fb (SRV_LP_CTRL x) SRV_LP_CTRL_MODE && !s.fb (SRV_LP_STAT x) SRV_LP_STAT_TRIP && valid
    && (m == 0 || decide (l.last.e.natAbs ≤ m))

/-- A loop trips: MANUAL with its last output, TRIP set (R230). -/
def State.loopTrip (s : State) (x : Nat) : State :=
  let s := (s.setF (SRV_LP_CTRL x) SRV_LP_CTRL_MODE 0).setF (SRV_LP_STAT x) SRV_LP_STAT_TRIP 1
  let s := s.setF (SRV_LP_MAN x) SRV_LP_MAN_MAN (ux 16 (s.loop x).last.u)
  let s := s.setF (SRV_LP_STAT x) SRV_LP_STAT_GOOD 0
  let s := s.setLoop x { s.loop x with invalid := 0, auto := false }
  if s.f SRV_TRC_CTRL SRV_TRC_CTRL_SRC_LOOP = x then s.traceTrigger 5 else s

/-- Whether a loop has the four invalid samples in AUTO that trip it. -/
def State.tripDue (s : State) (x : Nat) : Bool :=
  s.fb (SRV_LP_CTRL x) SRV_LP_CTRL_MODE && decide (4 ≤ (s.loop x).invalid)

/-- LOOP_TRIP: four consecutive samples of loop x in AUTO were invalid (R230). -/
def execLoopTrip (x : Nat) (s : State) : Host.Outcome State Fault Refusal :=
  if s.tripDue x then .next (s.loopTrip x) else .next s

/-! ### Trace (R247, R248) -/

/-- The value of a trace node (R247). -/
def State.node (s : State) (sel : Nat) : Int :=
  let x := sel / 32
  let l := s.loop x
  let st := s.rd (SRV_LP_STAT x)
  if 6 ≤ x then 0
  else match sel % 32 with
    | 1 => l.last.sp | 2 => l.last.fb | 3 => l.last.e | 4 => l.last.p | 5 => l.i | 6 => l.last.d | 7 => l.last.ff
    | 8 => l.last.u0 | 9 => l.last.u1 | 10 => l.last.u2 | 11 => l.last.u | 12 => l.last.code
    | 13 => (s.rd SRV_AZ).toNat | 14 => sx 32 (s.rd SRV_RATE).toNat
    | 15 => (bitsOf ((if s.fb SRV_WIN_STAT SRV_WIN_STAT_IN then [0] else []) ++
        (if s.fb SRV_WIN_STAT SRV_WIN_STAT_VERDICT then [1] else []) ++
        (if s.fb SRV_WIN_STAT SRV_WIN_STAT_SPEED_OK then [2] else []) ++
        (if SRV_LP_STAT_GOOD.get st = 1 then [3] else []) ++ (if SRV_LP_STAT_SATURATED.get st = 1 then [4] else []) ++
        (if l.auto then [5] else []) ++ (if SRV_LP_STAT_FB_VALID.get st = 1 then [6] else []) ++
        (if l.gate then [7] else [])) : Nat)
    | _ => 0

/-- The selector byte of record word k. -/
def State.traceSel (s : State) (k : Nat) : Nat := bits (s.rd (SRV_TRC_SEL (k / 4))).toNat (8 * (k % 4)) 8

/-- Write one trace record; a pending trigger makes it the trigger record (R248). -/
def State.traceWrite (s : State) : State :=
  let w := s.f SRV_TRC_STAT SRV_TRC_STAT_WPTR
  let data := (List.range 8).flatMap (fun k => leBytes 4 (ux 32 (s.node (s.traceSel k))))
  let s := (s.setBytes (0x38000000 + 32 * w) data).setF SRV_TRC_STAT SRV_TRC_STAT_WPTR (w + 1)
  if s.f SRV_TRC_STAT SRV_TRC_STAT_STATE = 2 then
    { s with srv := { s.srv with trcAfter := s.srv.trcAfter + 1 } }
  else if s.srv.trcPend then
    let s := { s with srv := { s.srv with trcPend := false, trcAfter := 1 } }
    let s := (s.setF SRV_TRC_STAT SRV_TRC_STAT_STATE 2).setF SRV_TRC_TRIG SRV_TRC_TRIG_TIDX w
    let s := s.setF SRV_TRC_STAT SRV_TRC_STAT_PRE_SHORT (b2n (decide (s.srv.trcCount < s.f SRV_TRC_CTRL SRV_TRC_CTRL_PRE)))
    s.wr SRV_TRC_TSAMP (s.rd SRV_SAMPLE)
  else { s with srv := { s.srv with trcCount := s.srv.trcCount + 1 } }

/-- The records that end the capture, from the trigger record on (R248). -/
def State.tracePost (s : State) : Nat := 32768 - s.f SRV_TRC_CTRL SRV_TRC_CTRL_PRE

/-- Whether the trace still writes records. -/
def State.tracing (s : State) : Bool :=
  let st := s.f SRV_TRC_STAT SRV_TRC_STAT_STATE
  st == 1 || (st == 2 && decide (s.srv.trcAfter < s.tracePost))

/-- The trace at a sample of a loop: level triggers, then one record every DECIM + 1 samples of SRC_LOOP (R248). [DEDUCED, log 33] -/
def State.traceSample (s : State) (x : Nat) : State :=
  if s.f SRV_TRC_CTRL SRV_TRC_CTRL_SRC_LOOP ≠ x ∨ s.tracing = false then s
  else
    let thr := sx 32 (s.rd SRV_TRC_THR).toNat
    let now := s.node (s.traceSel 0)
    let prev := s.srv.trcPrev
    let s := if prev < thr ∧ thr ≤ now then s.traceTrigger 3 else s
    let s := if thr < prev ∧ now ≤ thr then s.traceTrigger 4 else s
    let s := { s with srv := { s.srv with trcPrev := now } }
    if s.srv.trcSkip = 0 then
      { s with srv := { s.srv with trcSkip := s.f SRV_TRC_CTRL SRV_TRC_CTRL_DECIM } }.traceWrite
    else { s with srv := { s.srv with trcSkip := s.srv.trcSkip - 1 } }

/-- Capture ends in DONE; RECS counts the valid records (R248). -/
def State.traceEnd (s : State) : State :=
  let n := s.srv.trcCount + (if s.f SRV_TRC_STAT SRV_TRC_STAT_STATE = 2 then s.srv.trcAfter else 0)
  let s := if s.f SRV_TRC_STAT SRV_TRC_STAT_STATE = 2 then s else s.setF SRV_TRC_TRIG SRV_TRC_TRIG_TIDX 0x7FFF
  (s.setF SRV_TRC_TRIG SRV_TRC_TRIG_RECS (Nat.min 32768 n)).setF SRV_TRC_STAT SRV_TRC_STAT_STATE 3

/-- TRACE_DONE: the records from the trigger record on are written (R248). -/
def execTraceDone (s : State) : Host.Outcome State Fault Refusal :=
  if s.f SRV_TRC_STAT SRV_TRC_STAT_STATE = 2 ∧ s.tracePost ≤ s.srv.trcAfter then .next s.traceEnd else .next s

/-- ARM: the count clears and the trace is ARMED (R248). -/
def State.traceArm (s : State) : State :=
  let s := { s with srv := { s.srv with trcSkip := 0, trcCount := 0, trcAfter := 0, trcPrev := s.node (s.traceSel 0),
                                        trcPend := false } }
  s.wr SRV_TRC_STAT (BitVec.ofNat 32 (2 ^ 29))

/-- STOP: capture ends at once (R248). -/
def State.traceStop (s : State) : State :=
  let st := s.f SRV_TRC_STAT SRV_TRC_STAT_STATE
  if st = 1 ∨ st = 2 then s.traceEnd else s

/-! ### Samples and ticks -/

/-- Whether a loop's sample of the present tick is still to come: every (DIV + 1)-th tick, from the first (R227). -/
def State.sampleDue (s : State) (x : Nat) : Bool :=
  let l := s.loop x
  s.srv.running && l.running && decide (l.tick < s.srv.ticks)
    && (s.srv.ticks - 1) % (s.f (SRV_LP_CFG x) SRV_LP_CFG_DIV + 1) == 0

/-- A sample without valid feedback: the output stays, MISS counts (R230). -/
def State.missSample (s : State) (x : Nat) (auto : Bool) : State :=
  let l := s.loop x
  let s := (s.addSat (SRV_LP_CNT x) SRV_LP_CNT_MISS 1).setF (SRV_LP_STAT x) SRV_LP_STAT_FB_VALID 0
  let s := s.setF (SRV_LP_STAT x) SRV_LP_STAT_GOOD 0
  s.setLoop x { trajNext l with invalid := if auto then l.invalid + 1 else 0, auto := l.auto && auto, tick := s.srv.ticks,
                                gate := (s.setpoint x).2 }

/-- A sample with valid feedback: control law, output, status and azimuth (R231, R235–R238, R242, R245). -/
def State.goodSample (s : State) (x : Nat) (fb : Int) (auto : Bool) : State :=
  let (sp, gate) := s.setpoint x
  let l := { trajNext (s.loopLaw x sp fb auto) with gate := gate, tick := s.srv.ticks }
  let s := s.setF (SRV_LP_STAT x) SRV_LP_STAT_FB_VALID 1
  let s := if auto then s.saturated x l else s
  let s := ((s.setLoop x l).showSample x l).drive x l.last.code.toNat
  s.setF (SRV_LP_STAT x) SRV_LP_STAT_GOOD (b2n (s.loopGood x true))

/-- LOOP_SAMPLE: loop x computes its sample of the present tick (R227–R238, R240, R248). -/
def execLoopSample (x : Nat) (s : State) : Host.Outcome State Fault Refusal :=
  let s := if s.tripDue x then s.loopTrip x else s
  if !s.sampleDue x then .next s
  else
    let s0 := s
    let s := s.trajArrive x
    let auto := s.fb (SRV_LP_CTRL x) SRV_LP_CTRL_MODE
    let raw := s.rawFeedback x
    let s := if s.f (SRV_LP_STAT x) SRV_LP_STAT_STATE = 3 then s
      else s.setF (SRV_LP_STAT x) SRV_LP_STAT_STATE (if auto then 2 else 1)
    let s := match s.feedback x with
      | none => s.missSample x auto
      | some fb => s.goodSample x fb auto
    .next (((s.deliverAz x raw).traceSample x).noteConds s0)

/-- The speed check: redone at samples with GATE = 1, or always without a trajectory (R245). -/
def State.speedCheck (s : State) : Bool :=
  let x := s.azLoop
  if s.hasTraj x && !(s.loop x).gate then s.fb SRV_WIN_STAT SRV_WIN_STAT_SPEED_OK
  else
    let r := (sx 32 (s.rd SRV_RATE).toNat).natAbs
    decide ((s.rd (SRV_WIN_SPD 0)).toNat ≤ r) && decide (r ≤ (s.rd (SRV_WIN_SPD 1)).toNat)

/-- The verdict of a tick (R245). -/
def State.verdict (s : State) : State :=
  let speed := s.speedCheck
  let loops := (bitsSet 6 (s.f SRV_WIN_CFG SRV_WIN_CFG_LOOPS)).all (fun x =>
    (s.loop x).running && s.fb (SRV_LP_CTRL x) SRV_LP_CTRL_MODE && s.fb (SRV_LP_STAT x) SRV_LP_STAT_GOOD)
  let good := s.fb SRV_AZ SRV_AZ_VALID && speed && loops
  let s := (s.setF SRV_WIN_STAT SRV_WIN_STAT_SPEED_OK (b2n speed)).setF SRV_WIN_STAT SRV_WIN_STAT_VERDICT (b2n good)
  { s with srv := { s.srv with goodRun := if good then s.srv.goodRun + 1 else 0,
                               badRun := if good then 0 else s.srv.badRun + 1 } }

/-- SERVO_TICK: the tick recurs, with the codes that the four converters measure at it (R227, R245, R259, R439). -/
def execServoTick (r0 r1 r2 r3 : Int) (s : State) : Host.Outcome State Fault Refusal :=
  if !s.srv.running || !s.pllC then .next s
  else
    let s := s.at_ s.tickNext
    let s := if s.srv.ticks = 0 || s.srv.rampLeft.isSome then s else s.verdict
    let s := (s.addWrap SRV_SAMPLE SRV_SAMPLE_TICKS 1)
    let s := { s with srv := { s.srv with ticks := s.srv.ticks + 1, tickAt := s.tm.now, rampLeft := s.srv.rampLeft.map (· - 1) } }
    .next (((s.tickConversions [r0, r1, r2, r3]).madEvent 7 s.tbs).dmaRequest 5)

/-- SERVO_STOP_RAMP_DONE: the ramp to the SAFE codes is complete and the loops stop (R244). -/
def execServoStopRampDone (s : State) : Host.Outcome State Fault Refusal :=
  if s.srv.running && s.srv.rampLeft == some 0 then
    let s := s.forEach (List.range 6) (fun s x => s.loopStop x)
    let s := (s.setF SRV_STATUS SRV_STATUS_RUNNING 0).setF SRV_AZ SRV_AZ_VALID 0
    .next { s with srv := { s.srv with running := false, rampLeft := none, rampFrom := [], sinks := [] } }.refCheck
  else .next s

/-- MIRROR_WINDOW_EXIT: DEB_OUT bad verdicts in a row (R246). -/
def execMirrorWindowExit (s : State) : Host.Outcome State Fault Refusal :=
  if s.fb SRV_WIN_STAT SRV_WIN_STAT_IN
      && decide (Nat.max 1 (s.f SRV_WIN_CFG SRV_WIN_CFG_DEB_OUT) ≤ s.srv.badRun) then .next s.mirrorOut
  else .next s

/-- MIRROR_WINDOW_ENTRY: DEB_IN good verdicts in a row (R246). -/
def execMirrorWindowEntry (s : State) : Host.Outcome State Fault Refusal :=
  if !s.fb SRV_WIN_STAT SRV_WIN_STAT_IN && s.srv.running && s.srv.rampLeft.isNone
      && decide (Nat.max 1 (s.f SRV_WIN_CFG SRV_WIN_CFG_DEB_IN) ≤ s.srv.goodRun) then
    .next ((s.setF SRV_WIN_STAT SRV_WIN_STAT_IN 1).noteConds s)
  else .next s

/-! ### Encoder and index (R233, R234) -/

/-- ENCODER_EDGE: the filtered quadrature inputs take new levels (R234). [DEDUCED, log 34] -/
def execEncoderEdge (a b : Bool) (s : State) : Host.Outcome State Fault Refusal :=
  let da := a != s.pin.quadA
  let db := b != s.pin.quadB
  let up := if da then a != s.pin.quadB else b == s.pin.quadA
  let s := { s with pin := { s.pin with quadA := a, quadB := b } }
  if !s.domOn 12 || !s.fb SRV_ENC_CFG SRV_ENC_CFG_EN then .next s
  else if da && db then
    .next (((s.setF SRV_ENC_STAT SRV_ENC_STAT_ERR 1).addSat SRV_ENC_STAT SRV_ENC_STAT_ERRS 1).setF SRV_ENC_STAT
      SRV_ENC_STAT_VALID 0)
  else if da || db then
    .next (s.wr (SRV_ENC_POS 0) (s.rd (SRV_ENC_POS 0) + (if up then 1 else -1)))
  else .next s

/-- The decoder at an index edge: the count is copied, may be zeroed, and is valid again (R234). -/
def State.indexCount (s : State) : State :=
  let s := s.setF SRV_ENC_STAT SRV_ENC_STAT_IDX_SEEN 1
  let s := s.wr (SRV_ENC_POS 1) (s.rd (SRV_ENC_POS 0))
  let s := if s.fb SRV_ENC_CFG SRV_ENC_CFG_ZERO then s.wr (SRV_ENC_POS 0) 0 else s
  if s.fb SRV_ENC_CFG SRV_ENC_CFG_EN then s.setF SRV_ENC_STAT SRV_ENC_STAT_VALID 1 else s

/-- The index period at an index edge (R229). -/
def State.indexTime (s : State) : State :=
  let s := match s.srv.idxLast with
    | some t => s.wr SRV_IDX_PER (BitVec.ofNat 32 ((s.tm.now - t) / 128))
    | none => s
  let times := if s.srv.running then (s.tm.now :: s.srv.idxTimes).take 2 else s.srv.idxTimes
  { s with srv := { s.srv with idxLast := some s.tm.now, idxTimes := times } }

/-- QEI_RISING_EDGE: an index edge after the encoder filter (R229, R233, R234). -/
def execQeiRisingEdge (s : State) : Host.Outcome State Fault Refusal :=
  if !s.domOn 12 then .next s
  else
    let s := s.indexCount.indexTime
    .next (if s.f SRV_CTRL SRV_CTRL_IDX_SRC = 1 then s.frameEvent 1 s.tbs else s)

end Sys2Proof.Machine
end

