-- ==== Sys2Proof/Machine/RegWrite.lean ====
section
/-! DEFINITION. What a host write to a register does: the access codes, and each block's own rules (R9, R14, R50, R53, R84, R97, R104,
R107, R108, R126, R128, R146, R156, R180, R182, R183, R209, R215, R224, R226, R227, R237, R239, R241, R244, R248, R250, R252, R263, R268, R272,
R275, R296, R302, R307, R310, R324, R337, R343, R350, R351, R368, R389, R390, R423, R425, R431, R438, R445, R448, R449, R464, R484). -/

namespace Sys2Proof.Machine

open Reg

/-- How a register took a write: done; refused because a rule of its block makes it change nothing; a loop-open write of a closed loop;
a configuration write of a running filter chain (R50, R239, R268). -/
inductive WrRes where
  | done | refused | coef | busy
  deriving DecidableEq, Repr

/-- A write as a register sees it: address, first instance's address, instance indices, the word held, the word the access codes
make of it, and the bits written as 1. -/
structure Wr where
  a : Nat
  base : Nat
  ix : List Nat
  old : Word
  new : Word
  ones : Word
  deriving DecidableEq, Repr

/-- An instance index of a write. -/
def Wr.i (x : Wr) (k : Nat) : Nat := x.ix.getD k 0

/-- Whether a field is written with a 1 in it. -/
def Wr.hit (x : Wr) (f : Fld) : Bool := f.get x.ones != 0

/-- The value written to a field. -/
def Wr.v (x : Wr) (f : Fld) : Nat := f.get x.new

/-- The value a field held. -/
def Wr.o (x : Wr) (f : Fld) : Nat := f.get x.old

/-- The write with a field as it was. -/
def Wr.keep (x : Wr) (f : Fld) : Wr := { x with new := f.set x.new (f.get x.old) }

/-- The write with a field as it was where a test holds. -/
def Wr.keepIf (x : Wr) (f : Fld) (bad : Bool) : Wr := if bad then x.keep f else x

/-- The word that a write makes of a held word by its access codes (R14), `mask` naming the bits it covers (R53). -/
def Card.merge (c : Card) (old w mask : Nat) : Nat :=
  let rw := c.mask (· == .rw) &&& mask
  let one := w &&& mask
  let clr := c.mask (· == .w1c) &&& one
  let kept := old - (old &&& (rw ||| clr))
  (kept ||| (w &&& rw)) ||| (c.mask (· == .w1s) &&& one)

/-- The write holds in the register. -/
def State.put (s : State) (x : Wr) : WrRes × State := (.done, s.wr x.a x.new)

/-- A block's rule makes the write change nothing, and a flag says so. -/
def State.wrRej (s : State) (flag : Nat) (f : Fld) : WrRes × State := (.refused, s.setF flag f 1)

/-- The write holds; in SCANNING the former word stays in force for now (R107, R126, R146, R180, R183). -/
def State.putHeld (s : State) (x : Wr) : WrRes × State :=
  let s := if s.scanning then s.hold x.a else s.release (· == x.a)
  s.put x

/-- Clear registers. -/
def State.zero (s : State) (l : List Nat) : State := s.forEach l (fun s a => s.wr a 0)

/-- Clear a field of several registers. -/
def State.zeroF (s : State) (l : List Nat) (f : Fld) : State := s.forEach l (fun s a => s.setF a f 0)

/-- The quarters that a field names and whose domain, counted from `first`, is on. -/
def State.quartersOn (s : State) (x : Wr) (f : Fld) (first : Nat) : List Nat :=
  (List.range 4).filter (fun q => bit (f.get x.ones) q && s.domOn (first + q))

/-- The channels of some quarters. -/
def quarterChannels (l : List Nat) : List Nat := l.flatMap (fun q => (List.range 128).map (128 * q + ·))

/-! ### Device, command processor, power -/

/-- GLB_BEHAVIOUR (R9). -/
def State.writeGlb (s : State) (x : Wr) : WrRes × State :=
  let v := x.v GLB_BEHAVIOUR_LEVEL
  if x.a ≠ GLB_BEHAVIOUR then s.put x
  else if s.dev = .idle ∧ s.f GLB_BEHAVIOUR GLB_BEHAVIOUR_REQ ≤ v ∧ v ≤ s.boot.shadows.blMax then s.put x else (.refused, s)

/-- CMD_EVT_MASK keeps bits 1 and 2 (R61). -/
def State.writeCmd (s : State) (x : Wr) : WrRes × State :=
  s.put (if x.a = CMD_EVT_MASK then { x with new := x.new ||| 6 } else x)

/-- PMU_BOOT.NEXT is kept in the NV array (R509). -/
def State.writePmu (s : State) (x : Wr) : WrRes × State :=
  let s := if x.a = PMU_BOOT then { s with boot := { s.boot with nvNext := x.v PMU_BOOT_NEXT } } else s
  s.put x

/-! ### Front end -/

/-- Return inputs (R84, R107). -/
def State.writeRfe (s : State) (x : Wr) : WrRes × State :=
  if x.base = RFE_STAT 0 then s.put x
  else s.putHeld (if x.base = RFE_CFG 0 then x.keepIf RFE_CFG_MODE (decide (4 ≤ x.v RFE_CFG_MODE)) else x)

/-- TDC_CNT_CLR (R97, R100). -/
def State.clearTdc (s : State) (x : Wr) : State :=
  let ch := quarterChannels (s.quartersOn x TDC_CNT_CLR_QUARTER 6)
  let s := s.zero (ch.flatMap (fun n => [RFE_CNT_EVT n, RFE_CNT_HIREJ n, RFE_CNT_LOSS n]))
  let s := s.zeroF (ch.map RFE_STAT) RFE_STAT_FIFO_PEAK
  if x.hit TDC_CNT_CLR_FREF then s.zeroF ((List.range 4).map TDC_FREF_STAT) TDC_FREF_STAT_MISS else s

/-- Time-to-digital converters, injector, fire references and correction tables (R97, R104, R107, R108, R543). -/
def State.writeTdc (s : State) (x : Wr) : WrRes × State :=
  if x.a = TDC_CNT_CLR then (.done, s.clearTdc x)
  else if x.a = TDC_TPI_CTRL then
    let s := s.wr x.a x.new
    (.done, if x.hit TDC_TPI_CTRL_GO then s.tpiGo else s)
  else if x.a = TDC_STATUS ∨ x.a = TDC_TPI_TIME ∨ x.base = TDC_FREF_STAT 0 then s.put x
  else if [TDC_CD 0 0, TDC_WALK 0 0, TDC_FREF_CD 0, TDC_FREF_WALK 0].contains x.base then
    if s.scanning then s.wrRej TDC_STATUS TDC_STATUS_WR_IGNORED else s.put x
  else s.putHeld (if x.base = TDC_FREF_CFG 0 then x.keepIf TDC_FREF_CFG_MODE (decide (3 ≤ x.v TDC_FREF_CFG_MODE)) else x)

/-- TMB_CNT_CLR (R128). -/
def State.clearTmb (s : State) (x : Wr) : State :=
  let qs := s.quartersOn x TMB_CNT_CLR_QUARTER 6
  let s := s.zero ((quarterChannels qs).flatMap (fun n => [TMB_CNT_ACC n, TMB_CNT_REJ n, TMB_CNT_TOTREJ n]))
  s.zero (qs.flatMap (fun q => (List.range 32).map (fun g => TMB_GRP_ORDER (32 * q + g))))

/-- The Tumbler (R126, R128). -/
def State.writeTmb (s : State) (x : Wr) : WrRes × State :=
  if x.a = TMB_CNT_CLR then (.done, s.clearTmb x)
  else if x.a = TMB_CTRL then s.put x
  else if x.base = TMB_GRP_CFG 0 then
    let x := x.keepIf TMB_GRP_CFG_WIDTH (x.v TMB_GRP_CFG_WIDTH == 3)
    let (r, t) := s.putHeld x
    (r, if !s.scanning && t.grpWidth (x.i 0) != s.grpWidth (x.i 0) then t.rewidth (x.i 0) else t)
  else s.putHeld x

/-! ### Fire sequencer -/

/-- FIR_ALC_CTRL (R220, R224). -/
def State.writeAlc (s : State) (x : Wr) : WrRes × State :=
  let s := if x.hit FIR_ALC_CTRL_CLR then s.wr FIR_ALC_CNT 0 else s
  if x.v FIR_ALC_CTRL_SMAX < x.v FIR_ALC_CTRL_SMIN ∨ x.v FIR_ALC_CTRL_SMAX = 0 then s.wrRej FIR_ALC_STAT FIR_ALC_STAT_CFG_REJ
  else
    let rise := x.v FIR_ALC_CTRL_EN == 1 && x.o FIR_ALC_CTRL_EN == 0
    (.done, { s.wr x.a x.new with fir := { s.fir with shortAlloc := s.fir.shortAlloc || rise } })

/-- The fire sequencer (R132, R146, R224). -/
def State.writeFir (s : State) (x : Wr) : WrRes × State :=
  if x.a = FIR_CNT_CLR then
    (.done, if x.hit FIR_CNT_CLR_ALL then s.zero ([FIR_CNT_A, FIR_CNT_B] ++ (List.range 16).map FIR_OUT_CNT) else s)
  else if x.a = FIR_ALC_CTRL then s.writeAlc x
  else if [FIR_WARP_CTRL, FIR_PROFILE, FIR_ALC_W, FIR_ALC_STAT].contains x.a then s.put x
  else s.putHeld x

/-! ### Histogram engine and extraction -/

/-- HGE_BIN (R156). -/
def State.writeBin (s : State) (x : Wr) : WrRes × State :=
  let w := x.v HGE_BIN_WIDTH
  let n := x.v HGE_BIN_COUNT
  if s.dev ≠ .idle then s.wrRej HGE_STATUS HGE_STATUS_WR_IGNORED
  else if w = 3 ∨ n < 512 ∨ 5120 < n ∨ 655360 < n * binTicks w then s.wrRej HGE_STATUS HGE_STATUS_CFG_REJ
  else s.put x

/-- HGE_CNT_CLR (R182). -/
def State.clearHge (s : State) (x : Wr) : State :=
  let named := (List.range 4).filter (bit (HGE_CNT_CLR_QUARTER.get x.ones))
  let ch := quarterChannels (s.quartersOn x HGE_CNT_CLR_QUARTER 2)
  let s := s.zero (ch.flatMap (fun n => [HGE_CH_BINNED n, HGE_CH_RATE n, HGE_CH_NOSHOT n, HGE_CH_STAT n]))
  let s := s.zeroF (ch.map HGE_CH_XFIFO) HGE_CH_XFIFO_XFIFO
  let s := (s.zero (named.map HGE_ECC_CNT)).zeroF (named.map HGE_MM_CNT) HGE_MM_CNT_TOTAL
  if x.hit HGE_CNT_CLR_WAIT then s.wr HGE_SET_WAIT 0 else s

/-- The histogram engine (R156, R177, R180, R182). -/
def State.writeHge (s : State) (x : Wr) : WrRes × State :=
  if x.a = HGE_BIN then s.writeBin x
  else if x.a = HGE_CNT_CLR then (.done, s.clearHge x)
  else if x.a = HGE_ZOOM then s.putHeld x
  else if x.a = HGE_ECC_INJ then s.put (x.keepIf HGE_ECC_INJ_MODE (x.v HGE_ECC_INJ_MODE == 3))
  else s.put x

/-- Extraction (R183, R191, R200, R209). -/
def State.writeExt (s : State) (x : Wr) : WrRes × State :=
  if x.a = EXT_STATUS then s.put x
  else if x.a = EXT_CNT_CLR then
    (.done, if x.hit EXT_CNT_CLR_ALL then
      s.zero ([EXT_CNT_REC, EXT_CNT_COL, EXT_CNT_STALL] ++ (List.range s.channels).map EXT_CH_CNT) else s)
  else if x.a = EXT_CTRL then s.putHeld (x.keepIf EXT_CTRL_POLICY (x.v EXT_CTRL_POLICY == 3))
  else if x.a = EXT_WIN ∧ x.v EXT_WIN_WIN_HI < x.v EXT_WIN_WIN_LO then s.wrRej EXT_STATUS EXT_STATUS_CFG_REJ
  else if x.a = EXT_AIR then
    if 100000 < x.v EXT_AIR_NM1 then s.wrRej EXT_STATUS EXT_STATUS_CFG_REJ
    else
      let (r, t) := s.putHeld x
      (r, if s.scanning then t else t.wr EXT_SCALE (BitVec.ofNat 32 (scaleOf (x.v EXT_AIR_NM1))))
  else s.putHeld x

/-! ### Servo -/

/-- Whether a loop is closed: it runs and its MODE reads AUTO (R239). -/
def State.loopClosed (s : State) (x : Nat) : Bool := (s.loop x).running && s.fb (SRV_LP_CTRL x) SRV_LP_CTRL_MODE

/-- A refused loop-open write (R239). -/
def State.coefRej (s : State) : WrRes × State := (.coef, s.setF SRV_STATUS SRV_STATUS_COEF_REJ 1)

/-- A write that breaks a limit of the servo. -/
def State.srvRej (s : State) : WrRes × State := s.wrRej SRV_STATUS SRV_STATUS_CFG_REJ

/-- A write that the servo ignores. -/
def State.srvIgnore (s : State) : WrRes × State := s.wrRej SRV_STATUS SRV_STATUS_WR_IGNORED

/-- The types a loop may have (R226). -/
def typeAllowed (x typ : Nat) : Bool := typ == 0 || typ == 3 || decide (x < 2)

/-- The feedback sources a type may have (R226). -/
def fbAllowed (typ fb : Nat) : Bool :=
  match typ with
  | 0 => true
  | 1 => decide (1 ≤ fb) && decide (fb ≤ 5)
  | 2 => fb == 6
  | _ => (decide (1 ≤ fb) && decide (fb ≤ 4)) || decide (8 ≤ fb)

/-- SRV_LP_CFG: a sink above 8 is refused, and a type or feedback source that R226 does not allow leaves its field (R226, R242). -/
def State.writeLpCfg (s : State) (x : Wr) : WrRes × State :=
  if 8 < x.v SRV_LP_CFG_OUT then s.srvRej
  else
    let badT := !typeAllowed (x.i 0) (x.v SRV_LP_CFG_TYPE)
    let y := x.keepIf SRV_LP_CFG_TYPE badT
    let badF := !fbAllowed (y.v SRV_LP_CFG_TYPE) (y.v SRV_LP_CFG_FBSRC)
    let z := y.keepIf SRV_LP_CFG_FBSRC badF
    let s := if badT || badF then s.setF SRV_STATUS SRV_STATUS_CFG_REJ 1 else s
    if z.new = x.old ∧ x.new ≠ x.old then (.refused, s) else s.put z

/-- A loop-open register of an open loop (R226, R242). -/
def State.writeOpen (s : State) (x : Wr) : WrRes × State :=
  if x.base = SRV_LP_CFG 0 then s.writeLpCfg x
  else if x.base = SRV_LP_ILIM 0 then
    if sx 16 (x.v SRV_LP_ILIM_IHI) < sx 16 (x.v SRV_LP_ILIM_ILO) then s.srvRej else s.put x
  else if x.base = SRV_LP_OLIM 0 then
    if sx 16 (x.v SRV_LP_OLIM_OHI) < sx 16 (x.v SRV_LP_OLIM_OLO) then s.srvRej else s.put x
  else s.put x

/-- SRV_LP_CTRL: a change of MODE may trigger the trace, and RUN starts or stops the loop while the servo runs (R237, R244, R248). -/
def State.writeLpCtrl (s : State) (x : Wr) : WrRes × State :=
  let l := x.i 0
  let t := s.wr x.a x.new
  let t := if x.v SRV_LP_CTRL_MODE ≠ x.o SRV_LP_CTRL_MODE ∧ s.f SRV_TRC_CTRL SRV_TRC_CTRL_SRC_LOOP = l then t.traceTrigger 5 else t
  let runs := s.srv.running && s.srv.rampLeft.isNone
  let t := if runs && x.v SRV_LP_CTRL_RUN == 1 && !(s.loop l).running && s.f (SRV_LP_CFG l) SRV_LP_CFG_TYPE != 0 then t.loopStart l
    else if runs && x.v SRV_LP_CTRL_RUN == 0 && (s.loop l).running then t.loopStop l else t
  (.done, t)

/-- SRV_LP_TRAJ: a swap requested while no trajectory runs takes effect at the next sample, which `trajSwap` finds (R240, R241). -/
def State.writeLpTraj (s : State) (x : Wr) : WrRes × State :=
  if 1024 < x.v SRV_LP_TRAJ_LEN then s.srvRej else s.put x

/-- SRV_TRC_CTRL (R248). -/
def State.writeTrc (s : State) (x : Wr) : WrRes × State :=
  let y := (x.keepIf SRV_TRC_CTRL_TRIG (x.v SRV_TRC_CTRL_TRIG == 7)).keepIf SRV_TRC_CTRL_SRC_LOOP
    (decide (6 ≤ x.v SRV_TRC_CTRL_SRC_LOOP))
  let s := s.wr x.a y.new
  let s := if x.hit SRV_TRC_CTRL_ARM then s.traceArm else s
  let s := if x.hit SRV_TRC_CTRL_FORCE then s.traceTrigger 0 else s
  (.done, if x.hit SRV_TRC_CTRL_STOP then s.traceStop else s)

/-- SRV_STATUS.CNT_CLR (R250). -/
def State.clearSrv (s : State) : State :=
  let s := s.zero ((List.range 6).map SRV_LP_CNT)
  (s.setF SRV_WIN_STAT SRV_WIN_STAT_EXITS 0).setF SRV_ENC_STAT SRV_ENC_STAT_ERRS 0

/-- SRV_CTRL: TUNE_EN acts in IDLE (R233, R244). -/
def State.writeSrvCtrl (s : State) (x : Wr) : WrRes × State :=
  let y := x.keepIf SRV_CTRL_IDX_SRC (x.v SRV_CTRL_IDX_SRC == 3)
  let s := s.wr x.a y.new
  if s.dev ≠ .idle then (.done, s)
  else (.done, (if y.v SRV_CTRL_TUNE_EN = 1 then s.srvStart else s.srvStop).refCheck)

/-- The other registers of the servo (R227, R234, R237, R241). -/
def State.writeSrvRest (s : State) (x : Wr) : WrRes × State :=
  if x.base = SRV_TICK then
    if (List.range 6).any (fun l => s.fb (SRV_LP_CTRL l) SRV_LP_CTRL_MODE) then s.coefRej
    else if x.v SRV_TICK_PERIOD < 1250 then s.srvRej else s.put x
  else if x.base = SRV_ENC_CPT ∧ x.v SRV_ENC_CPT_CPT < 4 then s.srvRej
  else if x.base = SRV_LP_MAN 0 ∧ s.loopClosed (x.i 0) then s.srvIgnore
  else if x.base = SRV_TRAJ 0 0 0 ∧ (s.loop (x.i 0)).running ∧ s.f (SRV_LP_TRAJ (x.i 0)) SRV_LP_TRAJ_ACTIVE = x.i 1 then s.srvIgnore
  else s.put x

/-- The loop-open registers of a loop, by their first addresses (R239). -/
def loopRegs : List Nat :=
  [SRV_LP_CFG 0, SRV_LP_K 0 0, SRV_LP_ILIM 0, SRV_LP_OLIM 0, SRV_LP_OOFS 0] ++ (List.range 5).map (SRV_LP_NC 0 0)

/-- The servo engine (R226, R227, R237, R239–R244, R248, R250). -/
def State.writeSrv (s : State) (x : Wr) : WrRes × State :=
  if x.a = SRV_CTRL then s.writeSrvCtrl x
  else if x.a = SRV_STATUS then (.done, if x.hit SRV_STATUS_CNT_CLR then (s.wr x.a x.new).clearSrv else s.wr x.a x.new)
  else if x.a = SRV_TRC_CTRL then s.writeTrc x
  else if x.base = SRV_LP_CTRL 0 then s.writeLpCtrl x
  else if x.base = SRV_LP_TRAJ 0 then s.writeLpTraj x
  else if loopRegs.contains x.base then
    if s.loopClosed (x.i 0) then s.coefRej else s.writeOpen x
  else s.writeSrvRest x

/-! ### Monitor ADC, filters, recorder -/

/-- Whether a CODE is reserved (R251). -/
def codeReserved (code : Nat) : Bool := (decide (8 ≤ code) && decide (code ≤ 15)) || decide (28 ≤ code)

/-- Whether CODE and DIFF are legal (R252). -/
def codeLegal (code : Nat) (diff : Bool) : Bool := !codeReserved code && (!diff || (code % 2 == 0 && decide (code ≤ 6)))

/-- Whether a channel byte is legal: CODE in [4:0], DIFF in [6] (R251, R252). -/
def chLegal (b : Nat) : Bool := codeLegal (b % 32) (bit b 6)

/-- Whether the four channel bytes of a word are legal. -/
def chWordLegal (w : Nat) : Bool := (List.range 4).all (fun j => chLegal (bits w (8 * j) 8))

/-- Whether the sequencer runs. -/
def State.seqRuns (s : State) : Bool := s.fb MAD_SEQ_STAT MAD_SEQ_STAT_RUN

/-- The reserved bits of a word of a sequence entry, by the word's first address (R260). -/
def entryReserved (base : Nat) : Nat :=
  if base = MAD_ENTRY0 0 then 0x20202020 else if base = MAD_ENTRY1 0 then 0xFFFF0000
  else if base = MAD_ENTRY2 0 then 0xF8 else 0xFFFFFFC0

/-- A write that the monitor ADC refuses for an illegal value. -/
def State.madRej (s : State) : WrRes × State := s.wrRej MAD_STATUS MAD_STATUS_CFG_REJ

/-- MAD_CTRL (R253, R261, R262, R272). -/
def State.writeMadCtrl (s : State) (x : Wr) : WrRes × State :=
  let s := (s.wr x.a x.new).refCheck
  let s := if x.v MAD_CTRL_SEQ_EN = 1 ∧ x.o MAD_CTRL_SEQ_EN = 0 then s.seqStart
    else if x.v MAD_CTRL_SEQ_EN = 0 ∧ x.o MAD_CTRL_SEQ_EN = 1 then s.seqStop else s
  let s := if x.hit MAD_CTRL_CNT_CLR then s.zero [MAD_CNT, MAD_CNT2] else s
  (.done, if x.hit MAD_CTRL_GO then s.madEvent 0 s.tbs else s)

/-- MAD_INJ (R252, R257). -/
def State.writeInj (s : State) (x : Wr) : WrRes × State :=
  if !codeLegal (x.v MAD_INJ_CODE) (x.v MAD_INJ_DIFF == 1) then s.madRej
  else (.done, if x.hit MAD_INJ_GO then (s.wr x.a x.new).injGo else s.wr x.a x.new)

/-- The monitor ADC (R252, R253, R257, R259–R263, R272). -/
def State.writeMad (s : State) (x : Wr) : WrRes × State :=
  if x.a = MAD_CTRL then s.writeMadCtrl x
  else if x.a = MAD_INJ then s.writeInj x
  else if x.a = MAD_STATUS then s.put x
  else if x.a = MAD_TICK_CH then if chWordLegal x.new.toNat then s.put x else s.madRej
  else if s.seqRuns then s.wrRej MAD_STATUS MAD_STATUS_WR_IGNORED
  else if MAD_ENTRY0 0 ≤ x.a ∧ x.ones.toNat &&& entryReserved x.base ≠ 0 then s.madRej
  else if x.base = MAD_ENTRY0 0 ∧ !chWordLegal x.new.toNat then s.madRej
  else s.put x

/-- The configuration and coefficients of a chain, by their first addresses (R268). -/
def chainRegs : List Nat := MFC_CH_CFG 0 :: (List.range 8).map (MFC_CH_FIR 0)

/-- The filter chains (R266, R268, R269, R272). -/
def State.writeMfc (s : State) (x : Wr) : WrRes × State :=
  if x.a = MFC_SYNC then
    (.done, (s.wr x.a x.new).forEach (bitsSet 8 (MFC_SYNC_SYNC.get x.ones)) (fun s c => s.chainReset c))
  else if x.a = MFC_STATUS then
    (.done, if x.hit MFC_STATUS_CNT_CLR then (s.wr x.a x.new).zero ((List.range 8).map MFC_CH_CNT) else s.wr x.a x.new)
  else if x.base = MFC_CH_CTRL 0 then
    let t := s.wr x.a x.new
    (.done, if x.v MFC_CH_CTRL_EN = x.o MFC_CH_CTRL_EN then t
      else if x.v MFC_CH_CTRL_EN = 1 then t.chainReset (x.i 0) else t.chainStop (x.i 0))
  else if chainRegs.contains x.base then
    if s.chainOn (x.i 0) then (.busy, s.setF MFC_STATUS MFC_STATUS_COEF_REJ 1)
    else if x.base = MFC_CH_CFG 0 ∧ (x.v MFC_CH_CFG_DEC_LOG2 = 0 ∨ 8 < x.v MFC_CH_CFG_DEC_LOG2) then
      s.wrRej MFC_STATUS MFC_STATUS_CFG_REJ
    else s.put x
  else s.put x

/-- EVR_CTRL (R285, R302). -/
def State.writeEvrCtrl (s : State) (x : Wr) : WrRes × State :=
  let s := if x.hit EVR_CTRL_CNT_CLR then
      s.zero ([EVR_CNT_TRIG, EVR_CNT_GAPE, EVR_CNT_GAPM, EVR_ECC] ++ (List.range 4).map EVR_MSK_CNT) else s
  (.done, if x.hit EVR_CTRL_FORCE then s.recTrigger 0 s.tbs else s)

/-- EVR_MSK_CFG (R293, R294, R296). -/
def State.writeMask (s : State) (x : Wr) : WrRes × State :=
  let y := (x.keepIf EVR_MSK_CFG_INPUT (x.v EVR_MSK_CFG_INPUT == 3)).keepIf EVR_MSK_CFG_REF (decide (5 ≤ x.v EVR_MSK_CFG_REF))
  let t := s.wr x.a y.new
  (.done, if x.v EVR_MSK_CFG_EN = 1 ∧ x.o EVR_MSK_CFG_EN = 0 then t.maskOn (x.i 0) else t)

/-- The event recorder (R252, R275, R285, R293–R296, R302). -/
def State.writeEvr (s : State) (x : Wr) : WrRes × State :=
  let on := s.fb (EVR_MSK_CFG (x.i 0)) EVR_MSK_CFG_EN
  if x.a = EVR_CTRL then s.writeEvrCtrl x
  else if x.a = EVR_SEG_FREE then
    (.done, s.forEach (bitsSet 8 (EVR_SEG_FREE_FREE.get x.ones)) (fun s g => if s.segStatus g = 2 then s.freeSeg g else s))
  else if x.base = EVR_MSK_CFG 0 then s.writeMask x
  else if x.base = EVR_MSK_SRC 0 ∨ x.base = EVR_MSK_ENV 0 0 then
    if on then s.wrRej EVR_STATE EVR_STATE_WR_IGNORED
    else if x.base = EVR_MSK_SRC 0 ∧ !chLegal (x.v EVR_MSK_SRC_CHBYTE) then
      (.refused, if s.domOn 13 then s.setF MAD_STATUS MAD_STATUS_CFG_REJ 1 else s)
    else s.put x
  else s.put x

/-! ### Emission safety and zones -/

/-- The causes that may clear themselves: PERMIT, COVER, MIRROR, EXPOSURE and HG (R307). -/
def autoClearable : Nat := bitsOf [1, 2, 3, 4, 7]

/-- ESF_CTRL (R304, R307, R310, R313). -/
def State.writeEsfCtrl (s : State) (x : Wr) : WrRes × State :=
  let bad := x.v ESF_CTRL_DISC == 0 || x.v ESF_CTRL_DISC == 31
  let y := x.keepIf ESF_CTRL_DISC bad
  let y := { y with new := ESF_CTRL_AUTOCLR.set y.new (y.v ESF_CTRL_AUTOCLR &&& autoClearable) }
  let s := (s.wr x.a y.new).hgUpdate
  let s := if bad then s.setF ESF_STATUS ESF_STATUS_CFG_REJ 1 else s
  (.done, if x.hit ESF_CTRL_TRIP then s.latch [14] else s)

/-- The fused floor of a segment's weight, at least 1 (R324). -/
def State.floor (s : State) (seg : Nat) : Nat := Nat.max 1 (Sp.get (fun _ => 0) s.boot.shadows.floors seg)

/-- The weight byte m of a register. -/
def wtFld (m : Nat) : Fld := ⟨8 * m, 8, .rw⟩

/-- ESF_EXP_WT: each weight below its floor stays as it was (R324). -/
def State.writeWeight (s : State) (x : Wr) : WrRes × State :=
  if s.scanning then s.wrRej ESF_STATUS ESF_STATUS_WR_IGNORED
  else
    let bad := (List.range 4).filter (fun m => decide (x.v (wtFld m) < s.floor (4 * x.i 0 + m)))
    let y := bad.foldl (fun (y : Wr) m => y.keep (wtFld m)) x
    let s := if bad.isEmpty then s else s.setF ESF_STATUS ESF_STATUS_CFG_REJ 1
    if y.new = x.old ∧ !bad.isEmpty then (.refused, s) else s.put y

/-- The emission-safety monitor (R304, R307, R310, R313, R324). -/
def State.writeEsf (s : State) (x : Wr) : WrRes × State :=
  if x.a = ESF_CTRL then s.writeEsfCtrl x else if x.base = ESF_EXP_WT 0 then s.writeWeight x else s.put x

/-- The zone evaluator (R335, R337). -/
def State.writeZon (s : State) (x : Wr) : WrRes × State :=
  if x.a = ZON_CTRL then (.done, s.zonCtrl x.new)
  else if x.a = ZON_ADDR ∧ s.dev ≠ .idle then (.refused, s)
  else s.put x

/-! ### Backbone ports and time -/

/-- The counters of a port (R368). -/
def portCounters (i : Nat) : List Nat :=
  [ETHx_CNT_RXOK i, ETHx_CNT_RXERR i, ETHx_CNT_RXDROP i, ETHx_CNT_TXOK i, ETHx_CNT_TXERR i, ETHx_CNT_MISC i, ETHx_CNT_PRP i]

/-- ETHx_CNT_CLR (R368). -/
def State.clearPort (s : State) (x : Wr) : State :=
  let s := if x.hit ETHx_CNT_CLR_ALL then s.zero (portCounters (x.i 0)) else s
  if x.hit ETHx_CNT_CLR_STRM ∧ x.i 0 = 0 ∧ s.domOn 10 then (s.wr ETHA_STRM_CNT 0).setF ETHA_STRM_FILL ETHA_STRM_FILL_PEAK 0 else s

/-- ETHx_CBS (R350). -/
def State.writeCbs (s : State) (x : Wr) (p : Port) : WrRes × State :=
  if s.rate p < x.v ETHx_CBS_IDLE_SLOPE ∨ (x.v ETHx_CBS_EN = 1 ∧ x.v ETHx_CBS_IDLE_SLOPE = 0) then (.refused, s.portRej p)
  else s.put x

/-- A setting of a port that takes effect at a rise of EN (R351, R360). -/
def State.writeSetting (s : State) (x : Wr) (p : Port) : WrRes × State :=
  if x.base = ETHx_MTU 0 ∧ (x.v ETHx_MTU_MTU < 1280 ∨ 9194 < x.v ETHx_MTU_MTU) then (.refused, s.portRej p)
  else
    let i := portIx p
    let s := if s.fb (ETHx_CTRL i) ETHx_CTRL_EN then s.setF (ETHx_STATUS i) ETHx_STATUS_PENDING 1 else s
    s.put x

/-- A backbone port (R343, R350, R351, R360, R363, R368). -/
def State.writeEth (s : State) (x : Wr) : WrRes × State :=
  let p := portOf (x.i 0)
  if x.base = ETHx_CTRL 0 then
    let (ok, t) := s.portCtrl p x.new
    (if ok then .done else .refused, t)
  else if x.base = ETHx_CNT_CLR 0 then (.done, s.clearPort x)
  else if x.base = ETHx_CBS 0 then s.writeCbs x p
  else if (portSettings (portIx p)).contains x.a then s.writeSetting x p
  else s.put x

/-- TIM_STATUS.CNT_CLR (R390). -/
def State.clearTim (s : State) : State :=
  let s := s.zero ((List.range 4).map TIM_LQ_CNT ++ (List.range 4).map TIM_EVCAP_CNT ++ (List.range 2).map TIM_TBx_CNT)
  s.setF TIM_STATUS TIM_STATUS_LOST 0

/-- TIM_EVOUT_CFG (R389). -/
def State.writeEvout (s : State) (x : Wr) : WrRes × State :=
  let k := x.i 0
  let t := s.wr x.a x.new
  if x.v TIM_EVOUT_CFG_EN = 1 ∧ x.o TIM_EVOUT_CFG_EN = 0 then (.done, t.evOutStart k)
  else if x.v TIM_EVOUT_CFG_EN = 0 then
    (.done, { t with tm := { t.tm with evOutNext := Sp.del t.tm.evOutNext k, evOutUntil := Sp.del t.tm.evOutUntil k } })
  else (.done, t)

/-- The time registers (R389, R390). -/
def State.writeTim (s : State) (x : Wr) : WrRes × State :=
  if x.a = TIM_STATUS then (.done, if x.hit TIM_STATUS_CNT_CLR then (s.wr x.a x.new).clearTim else s.wr x.a x.new)
  else if x.base = TIM_EVOUT_CFG 0 then s.writeEvout x
  else if x.base = TIM_EVOUT_NS 0 ∧ 10 ^ 9 ≤ x.new.toNat then s.wrRej TIM_STATUS TIM_STATUS_CFG_REJ
  else if x.a = TIM_PPS ∧ x.v TIM_PPS_EN = 0 then (.done, { s.wr x.a x.new with pin := { s.pin with ppsOut := false } })
  else s.put x

/-! ### Weft links, cascade, DMA, calibration, thermal -/

/-- A Weft link (R398, R411, R423, R431). -/
def State.writeWfl (s : State) (x : Wr) : WrRes × State :=
  let l := x.i 0
  if x.base = WFL_CTRL 0 then
    let t := s.wflCtrl l x.new
    (if s.fb x.a WFL_CTRL_EN && WFL_CTRL_MODE.get x.new != WFL_CTRL_MODE.get x.old then .refused else .done, t)
  else if x.base = WFL_TEST 0 then (.done, s.linkInject l (WFL_TEST_INJ.get x.ones))
  else if x.base = WFL_CNT_CLR 0 then (.done, if x.hit WFL_CNT_CLR_ALL then s.wflClear l else s)
  else s.put x

/-- The cascade registers (R419, R425, R431). -/
def State.writeHng (s : State) (x : Wr) : WrRes × State :=
  if x.a = HNG_CNT_CLR then (.done, if x.hit HNG_CNT_CLR_ALL then s.hngClear else s)
  else if x.a = HNG_TAP_CTRL then (.done, s.tapCtrl x.new)
  else if x.base = HNG_TAP_MASK 0 ∧ s.fb HNG_TAP_CTRL HNG_TAP_CTRL_EN then s.wrRej HNG_TAP_CTRL HNG_TAP_CTRL_CFG_REJ
  else s.put x

/-- DMA_CH_CFG, where reserved widths and request sources leave their fields unchanged (R439). -/
def Wr.dmaCfg (x : Wr) : Wr :=
  ((x.keepIf DMA_CH_CFG_REQ (decide (6 ≤ x.v DMA_CH_CFG_REQ))).keepIf DMA_CH_CFG_DWIDTH (decide (5 ≤ x.v DMA_CH_CFG_DWIDTH))).keepIf
    DMA_CH_CFG_SWIDTH (decide (5 ≤ x.v DMA_CH_CFG_SWIDTH))

/-- The DMA engine (R434, R438, R439, R443–R445, R448, R449). -/
def State.writeDma (s : State) (x : Wr) : WrRes × State :=
  let c := x.i 0
  if x.a < DMA_CH_CTRL 0 then
    if x.a = DMA_Q_CTRL then (.done, s.dmaQCtrl x.ones)
    else
      let rise := x.a == DMA_QFILT_CFG && x.v DMA_QFILT_CFG_EN == 1 && x.o DMA_QFILT_CFG_EN == 0
      (.done, if rise then { s.wr x.a x.new with dma := { s.dma with seq := 0 } } else s.wr x.a x.new)
  else if x.base = DMA_CH_CTRL 0 then
    (.done, s.dmaCtrl c (DMA_CH_CTRL_WR_IGNORED.set x.new (DMA_CH_CTRL_WR_IGNORED.get x.ones)))
  else if s.dmaEn c then s.wrRej (DMA_CH_CTRL c) DMA_CH_CTRL_WR_IGNORED
  else s.put (if x.base = DMA_CH_CFG 0 then x.dmaCfg else x)

/-- Calibration and thermal registers (R456, R484). -/
def State.writeCal (s : State) (x : Wr) : WrRes × State :=
  if x.a = CAL_POLICY then (.done, if x.hit CAL_POLICY_CNT_CLR then (s.wr x.a x.new).wr CAL_CNT 0 else s.wr x.a x.new)
  else if x.a = CAL_GAIN_BAND ∧ x.v CAL_GAIN_BAND_FAR < x.v CAL_GAIN_BAND_NEAR then s.wrRej CAL_STATE CAL_STATE_CFG_REJ
  else s.put x

/-- THM_STATE.CNT_CLR (R484). -/
def State.writeThm (s : State) (x : Wr) : WrRes × State :=
  if x.a = THM_STATE ∧ x.hit THM_STATE_CNT_CLR then (.done, (s.wr THM_CNT 0).setF THM_NVLOG THM_NVLOG_SUPPR 0) else s.put x

/-! ### Every block -/

/-- A write by the rules of its block. -/
def State.blockWrite (s : State) (b : Blk) (x : Wr) : WrRes × State :=
  match b with
  | .GLB => s.writeGlb x
  | .CMD => s.writeCmd x
  | .PMU => s.writePmu x
  | .CLK => s.put x
  | .RFE => s.writeRfe x
  | .TDC => s.writeTdc x
  | .TMB => s.writeTmb x
  | .FIR => s.writeFir x
  | .HGE => s.writeHge x
  | .EXT => s.writeExt x
  | .ZON => s.writeZon x
  | .SRV => s.writeSrv x
  | .MAD => s.writeMad x
  | .MFC => s.writeMfc x
  | .EVR => s.writeEvr x
  | .ESF => s.writeEsf x
  | .ETHA | .ETHB => s.writeEth x
  | .TIM => s.writeTim x
  | .WFL => s.writeWfl x
  | .HNG => s.writeHng x
  | .DMA => s.writeDma x
  | .CAL => s.writeCal x
  | .THM => s.writeThm x

/-- The profile whose locks hold: none while PD11 is off (R215, R217). -/
def State.lockCode (s : State) : Nat := if s.domOn 11 then s.profile else 0

/-- A write under the profile locks and its block's rules (R215, R464). -/
def State.lockedWrite (s : State) (b : Blk) (x : Wr) : WrRes × State :=
  let code := s.lockCode
  let lock := if code = 0 then 0 else profileMask code x.a true
  let open_ := if code = 0 then 0 else profileMask code x.a false
  let hit := decide ((x.new ^^^ x.old).toNat &&& lock ≠ 0)
  let y := if hit then { x with new := BitVec.ofNat 32 ((x.new.toNat - (x.new.toNat &&& lock)) ||| (x.old.toNat &&& lock)) } else x
  let (r, t) := s.blockWrite b y
  let t := if hit then t.setF FIR_PROFILE FIR_PROFILE_LOCK_HIT 1 else t
  let t := if (t.rd x.a ^^^ x.old).toNat &&& open_ ≠ 0 then t.setF FIR_PROFILE FIR_PROFILE_MOD 1 else t
  (if hit && y.new == x.old then .refused else r, t)

/-- The write of a word to a register present in the variant, of the bits of a mask. -/
def Card.wrOf (c : Card) (ix : List Nat) (s : State) (a : Nat) (w mask : Word) : Wr :=
  { a := a, base := c.addr, ix := ix, old := s.rd a, new := BitVec.ofNat 32 (c.merge (s.rd a).toNat w.toNat mask.toNat), ones := w &&& mask }

/-- A host write of the bits of a mask to a register: reserved offsets and what the variant lacks ignore it, a dark domain and a
running calibration procedure refuse it (R4, R5, R50, R464, R539). -/
def State.hostWrite (s : State) (a : Nat) (w mask : Word) : WrRes × State :=
  match blkOf a, cardAt a with
  | some b, some (c, ix) =>
    if s.absent a then (.done, s)
    else if !s.regOn a then (.refused, s)
    else if s.calOwns a then (.refused, s.calIgnored)
    else s.lockedWrite b (c.wrOf ix s a w mask)
  | _, _ => (.done, s)

end Sys2Proof.Machine
end

