-- ==== Sys2Proof/Machine/Scan.lean ====
section
/-! DEFINITION. The scan commands: warp-table commits, profiles, start, hold, resume and stop, the frame schedule and the shot key
(R19, R20, R67–R71, R134–R136, R149, R150, R152, R210–R217, R405). -/

namespace Sys2Proof.Machine

open Reg

/-- The refusal of a command whose state is held in PD11 while that is off (R136). -/
def State.dark11 (s : State) : Check := chk (!s.domOn 11) stRefused

/-! ### Applying a profile (R211–R217) -/

/-- The instances of a row's register whose write can land: not fused off, its domain on. -/
def State.rowRegs (s : State) (p : PField) : List Nat :=
  ((List.range p.count).map (fun k => p.addr + p.stride * k)).filter (fun a => s.isReg a && s.regOn a)

/-- Write one row of the table with the value of a profile. [DEDUCED, log 60] -/
def State.rowApply (code : Nat) (s : State) (p : PField) : State :=
  s.forEach (s.rowRegs p) (fun s a => s.setF a p.fld (p.val code))

/-- The number of override entries of a payload. -/
def ovrCount (p : List Byte) : Nat := fld p 17 1

/-- Address, mask and value of an override entry. -/
def ovrAt (p : List Byte) (i : Nat) : Nat × Word × Word :=
  (fld p (20 + 12 * i) 4, BitVec.ofNat 32 (fld p (24 + 12 * i) 4), BitVec.ofNat 32 (fld p (28 + 12 * i) 4))

/-- An override of HGE_BIN keeps the limits of R156, in every state. -/
def State.binOverride (s : State) (x : Wr) : State :=
  let w := x.v HGE_BIN_WIDTH
  let n := x.v HGE_BIN_COUNT
  if w = 3 ∨ n < 512 ∨ 5120 < n ∨ 655360 < n * binTicks w then s.setF HGE_STATUS HGE_STATUS_CFG_REJ 1 else s.wr x.a x.new

/-- One override, as REG_MODIFY under its block's rules (R214). -/
def State.override (s : State) (o : Nat × Word × Word) : State :=
  match blkOf o.1, cardAt o.1 with
  | some b, some (c, ix) =>
    if s.absent o.1 || !s.regOn o.1 then s
    else
      let x := c.wrOf ix s o.1 o.2.2 o.2.1
      if o.1 = HGE_BIN then s.binOverride x else (s.blockWrite b x).2
  | _, _ => s

/-- Whether a register holds a field of the table of R214. -/
def tableReg (a : Nat) : Bool := profileRows.any (fun p => p.covers a)

/-- SERVICE arms the recorder with the parameters of the last REC_ARM, where there is one and PD14 is on (R216). -/
def State.serviceArm (s : State) : State :=
  match s.evr.payload with
  | some w => if s.domOn 14 then s.recArm w else s.setF FIR_PROFILE FIR_PROFILE_REC_MISS 1
  | none => s.setF FIR_PROFILE FIR_PROFILE_REC_MISS 1

/-- Apply a selection: the table, the overrides in order, CODE and MOD, a first-frame allocation, and the recorder for SERVICE
(R214, R216, R220). -/
def State.profileApply (s : State) (p : List Byte) : State :=
  let code := fld p 16 1
  let s := if code = 6 then s else s.forEach profileRows (State.rowApply code)
  let s := s.forEach ((List.range (ovrCount p)).map (ovrAt p)) State.override
  let s := s.release tableReg
  let s := (s.setF FIR_PROFILE FIR_PROFILE_CODE code).setF FIR_PROFILE FIR_PROFILE_MOD (b2n (decide (0 < ovrCount p)))
  let s := s.allocAgain
  if code = 5 then s.serviceArm else s

/-- Whether the active copy breaks R27, or rule 5 or rule 9 of R134, for a window and bin count. -/
def State.activeBad (s : State) (w b : Nat) : Bool :=
  let es := s.entries warpActive s.columns
  s.columns != 0 && (es.any (fun e => decide (e.period < 1000) || decide (e.period * 20 < pMinHalf w b e.dspan)) || s.rule9 es)

/-- Whether a selection's bin setting breaks the limits of the active copy (R27, R211). -/
def State.profileBad (s : State) (p : List Byte) : Bool :=
  let t := s.profileApply p
  s.activeBad t.window t.binB

/-- The checks of one override entry (R211). -/
def State.ovrChecks (s : State) (code : Nat) (p : List Byte) (i : Nat) : List Check :=
  let (a, mask, _) := ovrAt p i
  let ok := profileMask code a false
  [ par (decide (ok = 0) || !s.isReg a) (20 + 12 * i), par (decide (mask.toNat &&& ok ≠ mask.toNat)) (24 + 12 * i) ]

/-- The checks of PROFILE_SELECT (R211). -/
def State.profileChecks (s : State) (p : List Byte) : List Check :=
  let code := fld p 16 1
  [ par (code == 0 || decide (6 < code)) 16, par (decide (16 < ovrCount p)) 17, par (firstNonZero p 18 2) 18 ]
    ++ (List.range (Nat.min 16 (ovrCount p))).flatMap (s.ovrChecks code p) ++ [ par (s.profileBad p) 16 ]

/-- Whether both histogram sets are FREE. -/
def State.setsFree (s : State) : Bool := s.setState 0 == 0 && s.setState 1 == 0

/-- The payload of a selection kept as a number. -/
def profilePayload (arg : Nat) : List Byte := leBytes (4 + 12 * (arg / 256 % 256)) arg

/-- The selection that waits: for a frame gap, or outside SCANNING for the histogram sets. -/
def State.profileJob (s : State) : Option Job := s.cmd.jobs.find? (fun j => j.opc == 0x0301)

/-- A selection outside SCANNING: at once, or as soon as both sets are FREE where it changes HGE_BIN (R212). -/
def State.profileNow (s : State) (q : Req) (p : List Byte) : State :=
  let t := s.profileApply p
  if t.rd HGE_BIN ≠ s.rd HGE_BIN ∧ !s.setsFree then s.addJob { req := q, opc := 0x0301, arg := leNat p }
  else t.reply q 0x0301 stOk 0

/-- A selection in SCANNING waits for the frame gap; the one it replaces reports OK (R212). [DEDUCED, log 59] -/
def State.profileLater (s : State) (q : Req) (p : List Byte) : State :=
  let s := (s.finishJobs 0x0301 stOk 0 []).setF FIR_PROFILE FIR_PROFILE_PEND 1
  (s.addJob { req := q, opc := 0x0301, arg := leNat p, gap := true }).reply q 0x0301 stDeferred 0

/-- The body of PROFILE_SELECT after its length check. [DEDUCED, log 59] -/
def State.profileSelect (s : State) (q : Req) (p : List Byte) : State :=
  match firstBad (s.dark11 :: s.profileChecks p) with
  | some c => s.reply q 0x0301 c.status c.detail
  | none => if s.scanning then s.profileLater q p else s.profileNow q p

/-- PROFILE_SELECT (R210–R216). -/
def execProfileSelect (q : Req) (p : List Byte) (s : State) : Host.Outcome State Fault Refusal :=
  .next (s.command q 0x0301 p (fun s =>
    if p.length < 4 ∨ p.length ≠ 4 + 12 * ovrCount p then s.badLength q 0x0301 else s.profileSelect q p))

/-! ### Commits (R20, R134, R135) -/

/-- End the waiting commits with the outcome of the check on the staging copy. -/
def State.commitEnd (s : State) (fail : Option (Nat × Nat)) : State :=
  let s := s.setF FIR_WARP_ACT FIR_WARP_ACT_PEND 0
  match fail with
  | some r => (s.warpFail r).finishJobs 0x0300 stBadParam 0 []
  | none => s.warpInstall.finishJobs 0x0300 stOk 0 []

/-- The check of R134 on the staging copy under a bin setting. -/
def State.stagedCheck (s : State) (w b : Nat) : Option (Nat × Nat) := s.warpCheck warpStaging s.stagedColumns w b

/-- WARP_COMMIT (R20, R134, R136, R405). -/
def execWarpCommit (q : Req) (p : List Byte) (s : State) : Host.Outcome State Fault Refusal :=
  .next (s.fixed q 0x0300 p 0 (fun s => [s.dark11, chk s.isMember stRefused]) (fun s =>
    match s.stagedCheck s.window s.binB with
    | some r => (s.warpFail r).badParam q 0x0300 0
    | none =>
      if s.scanning then
        ((s.setF FIR_WARP_ACT FIR_WARP_ACT_PEND 1).addJob { req := q, opc := 0x0300, gap := true }).reply q 0x0300 stDeferred 0
      else s.warpInstall.reply q 0x0300 stOk 0))

/-! ### Deferred work of the frame gap (R42, R135, R212, R213) -/

/-- End the waiting selection: applied with OK, or refused. -/
def State.profileEnd (s : State) (j : Job) (ok : Bool) : State :=
  let s := s.setF FIR_PROFILE FIR_PROFILE_PEND 0
  let s := if ok then s.profileApply (profilePayload j.arg) else s
  if j.gap then s.finishJobs 0x0301 (if ok then stOk else stBadParam) (if ok then 0 else 16) []
  else { s with cmd := { s.cmd with jobs := s.cmd.jobs.filter (fun (x : Job) => x.opc != 0x0301) } }.reply j.req 0x0301 stOk 0

/-- A selection and a commit meet (R213). [DESIGN CHOICE, log 17] -/
def State.gapBoth (s : State) (j : Job) : State :=
  let p := profilePayload j.arg
  let t := s.profileApply p
  match s.stagedCheck t.window t.binB with
  | none => (s.profileEnd j true).commitEnd none
  | some r => (s.profileEnd j (!s.profileBad p)).commitEnd (some r)

/-- The deferred commits, and with them a deferred selection (R135, R213). -/
def State.gapCommit (s : State) : State :=
  match s.profileJob with
  | some j => if j.gap && s.gapFor 0x0301 then s.gapBoth j else s.commitEnd (s.stagedCheck s.window s.binB)
  | none => s.commitEnd (s.stagedCheck s.window s.binB)

/-- DEFERRED_WARP_COPY: the commits that wait for the frame gap are checked again and made (R42, R135, R213). -/
def execDeferredWarpCopy (s : State) : Host.Outcome State Fault Refusal :=
  if !s.gapFor 0x0300 || (s.profileJob.isSome && !s.setsFree) then .next s else .next s.gapCommit

/-- DEFERRED_PROFILE_APPLY: the selection that waits takes effect once both sets are FREE, in the frame gap where it was deferred
(R42, R212, R213). -/
def execDeferredProfileApply (s : State) : Host.Outcome State Fault Refusal :=
  match s.profileJob with
  | none => .next s
  | some j =>
    if (j.gap && !s.gapFor 0x0301) || !s.setsFree then .next s
    else if j.gap && s.gapFor 0x0300 then .next (s.gapBoth j)
    else .next (s.profileEnd j true)

/-! ### Starting, holding, stopping (R66–R71) -/

/-- The checks of SCAN_START (R67). -/
def State.startChecks (s : State) : List Check :=
  let fsrc := s.f FIR_SEQ FIR_SEQ_FSRC
  [ chk (s.dev != .idle) stRefused, chk (!s.missing.isEmpty) stRefused,
    chk (s.profile == 0 || s.columns == 0) stBadParam,
    chk ((!s.isMember && fsrc == 2 && !s.fb FIR_SCHED FIR_SCHED_ARMED) || (s.isHead && fsrc == 3)) stBadParam,
    chk ((List.range 4).any (fun l => s.linkOn l && s.linkState l == 8)) stQuarantine,
    chk (s.isHead && (s.cas.hcalDue || !s.cas.hcalTimes.isEmpty)) stBusy,
    chk s.staleBlocks stCalStale, chk (s.fb THM_STATE THM_STATE_HISTORY) stSafetyBlock ]

/-- SCAN_START accepted: FIR_FRAME is set so that the first frame is frame 0, and row 20 is taken (R66, R144). [DEDUCED, log 20] -/
def State.scanStart (s : State) (q : Req) : State :=
  ((s.wr FIR_FRAME 0xFFFFFFFF).goto .primed 0x20).reply q 0x0302 stOk 0

/-- SCAN_START (R66 row 20, R67). -/
def execScanStart (q : Req) (p : List Byte) (s : State) : Host.Outcome State Fault Refusal :=
  .next (s.fixed q 0x0302 p 0 State.startChecks (fun s => s.scanStart q))

/-- SCAN_HOLD in SCANNING: at once between columns, else once the column in progress has fired (R70). [DEDUCED, log 61] -/
def State.scanHold (s : State) (q : Req) : State :=
  if s.cmd.holdReq.isSome then s.reply q 0x0303 stBusy 0
  else if s.fir.column.isNone then (s.goto .hold 0x30).reply q 0x0303 stOk 0
  else { s with fir := { s.fir with holding := true }, cmd := { s.cmd with holdReq := some q } }

/-- SCAN_HOLD (R66 row 18, R68, R70). -/
def execScanHold (q : Req) (p : List Byte) (s : State) : Host.Outcome State Fault Refusal :=
  .next (s.fixed q 0x0303 p 0 (fun s => [chk (!(s.scanning || s.dev == .hold)) stRefused]) (fun s =>
    if s.scanning then s.scanHold q else s.reply q 0x0303 stOk 0))

/-- The TBS time at which the last FIRE pulse ends. -/
def State.pulsesOver (s : State) : Nat := (s.fir.pulses.map (fun (x : Nat × Nat × Nat) => x.2.2)).foldl Nat.max 0

/-- HOLD_ENTRY: the last FIRE pulse of the column in progress has ended, and the hold takes row 18; where hardware has left SCANNING in
the meantime, the request is refused (R41, R70). [DEDUCED, log 61] -/
def execHoldEntry (s : State) : Host.Outcome State Fault Refusal :=
  match s.cmd.holdReq with
  | none => .next s
  | some q =>
    if s.scanning && s.fir.column.isSome then .next s
    else
      let t := { s with cmd := { s.cmd with holdReq := none } }
      if s.scanning then .next (((t.toTbs s.pulsesOver).goto .hold 0x30).reply q 0x0303 stOk 0)
      else .next (t.reply q 0x0303 stRefused 0)

/-- SCAN_RESUME (R66 row 19, R68). -/
def execScanResume (q : Req) (p : List Byte) (s : State) : Host.Outcome State Fault Refusal :=
  .next (s.fixed q 0x0304 p 0 (fun s => [chk (s.dev != .hold) stRefused]) (fun s =>
    (s.goto .primed 0x31).reply q 0x0304 stOk 0))

/-- A walk in progress ends with both switches open and no reason of R316. [DEDUCED, log 14] -/
def State.walkCancel (s : State) : State :=
  if s.esf.walk.isNone then s
  else
    let s := { s.dropGuardReq.setF ESF_WALK_STAT ESF_WALK_STAT_STEP 0 with esf := { s.esf with walk := none, armed := false } }
    s.switches false false

/-- SCAN_STOP takes row 15 (R71). -/
def State.scanStop (s : State) : State := s.walkCancel.goto .idle 0x50

/-- SCAN_STOP (R66 row 15, R68, R71). -/
def execScanStop (q : Req) (p : List Byte) (s : State) : Host.Outcome State Fault Refusal :=
  .next (s.fixed q 0x0305 p 0 (fun _ => []) (fun s =>
    if s.dev = .idle then s.reply q 0x0305 stOk 0 else s.scanStop.reply q 0x0305 stOk 0))

/-! ### Frame schedule and shot key -/

/-- The checks of FRAME_SCHEDULE (R152). -/
def State.scheduleChecks (s : State) (p : List Byte) : List Check :=
  let tb := fld p 16 1
  [ s.dark11, par (decide (1 < tb)) 16, par (firstNonZero p 17 3) 17, par (decide (2 ^ 48 ≤ fld p 20 8)) 20,
    par (decide (10 ^ 9 ≤ fld p 28 4)) 28, par (!s.netRunning tb) 16 ]

/-- FRAME_SCHEDULE (R152). -/
def execFrameSchedule (q : Req) (p : List Byte) (s : State) : Host.Outcome State Fault Refusal :=
  .next (s.fixed q 0x0306 p 16 (fun s => s.scheduleChecks p) (fun s =>
    let s := { s with fir := { s.fir with sched := some (fld p 20 8 * 10 ^ 9 + fld p 28 4, s.tm.now) } }
    let s := (s.setF FIR_SCHED FIR_SCHED_TB (fld p 16 1)).setF FIR_SCHED FIR_SCHED_ARMED 1
    s.reply q 0x0306 stOk 0))

/-- The key that a KEY_SET payload names, and whether it is the fused default. -/
def State.keyOf (s : State) (p : List Byte) : Nat × Bool :=
  if fld p 16 4 % 2 = 1 then (s.boot.shadows.keySeed, true) else (fld p 20 8, false)

/-- A key that waits for the next frame start; the one it replaces reports OK (R150). -/
def State.keyLater (s : State) (q : Req) (p : List Byte) : State :=
  let s := (s.finishJobs 0x0307 stOk 0 []).setF FIR_KEY_STAT FIR_KEY_STAT_PEND 1
  let s := s.addJob { req := q, opc := 0x0307, gap := true }
  { s with fir := { s.fir with keyPending := some (s.keyOf p) } }.reply q 0x0307 stDeferred 0

/-- KEY_SET (R149, R150). -/
def execKeySet (q : Req) (p : List Byte) (s : State) : Host.Outcome State Fault Refusal :=
  .next (s.fixed q 0x0307 p 12 (fun s => [s.dark11, par (decide (2 ≤ fld p 16 4)) 16]) (fun s =>
    if s.scanning then s.keyLater q p
    else { s with fir := { s.fir with keyPending := some (s.keyOf p) } }.applyKey.reply q 0x0307 stOk 0))

end Sys2Proof.Machine
end

