-- ==== Sys2Proof/Machine/Power.lean ====
section
/-! DEFINITION. Power input, power domains, reset and clocks (R24, R65, R66, R109, R127, R136, R181, R208, R217, R249, R271, R301, R342, R367,
R369, R430, R447, R449, R468–R470, R485–R493, R501, R530, R544). -/

namespace Sys2Proof.Machine

open Reg

/-! ### What a domain loses or brings (R492) -/

/-- The inputs of a front-end quarter. -/
def quarterInputs (q : Nat) : List Nat := (List.range 128).map (128 * q + ·)

/-- A front-end quarter without events: pulses, windows of Tumbler groups and FIFOs are empty. -/
def State.quarterEmpty (s : State) (q : Nat) : State :=
  let inCh (k : Nat) : Bool := k / 128 == q
  let inGrp (k : Nat) : Bool := k / 32 == q
  { s with tdc := { s.tdc with pulses := Sp.drop inCh s.tdc.pulses, leadAt := Sp.drop inCh s.tdc.leadAt, leads := Sp.drop inCh s.tdc.leads,
                               fifo := Sp.drop inCh s.tdc.fifo, taken := Sp.drop inCh s.tdc.taken,
                               rgnd := s.tdc.rgnd.filter (fun g => !inGrp g) },
           tmb := { s.tmb with pool := Sp.drop inGrp s.tmb.pool, prevCand := Sp.drop inCh s.tmb.prevCand,
                               lastOut := Sp.drop inCh s.tmb.lastOut } }

/-- Histogram sets that await extraction, or are being scanned, are cleared and FREE (R208). -/
def State.dropSets (s : State) : State :=
  let sets := (s.hge.descs.map (·.1)) ++ (match s.ext.busy with | some (b, _) => [b] | none => [])
  let s := s.forEach sets (fun s set => (s.clearSet set).putSet set 0)
  let s := { s with hge := { s.hge with descs := [], tracks := [] }, ext := {} }
  s.settleRetain

/-- The slots of the safety commands stay over the loss of PD10. [DEDUCED, log 63] -/
def State.zonLost (s : State) : State := { s with zon := { slotA := s.zon.slotA, slotB := s.zon.slotB } }

/-- The trace memory and its registers are held in PD01; a capture under way ends in ABORTED (R248, R249). -/
def State.servoLost (s : State) : State :=
  let keep := [SRV_TRC_STAT, SRV_TRC_TRIG, SRV_TRC_TSAMP].map (fun (a : Nat) => (a, s.rd a))
  let s : State := { s.resetRegs 12 with srv := {} }
  let s : State := s.forEach keep (fun (s : State) (x : Nat × Word) => s.wr x.1 x.2)
  if s.f SRV_TRC_STAT SRV_TRC_STAT_STATE = 1 ∨ s.f SRV_TRC_STAT SRV_TRC_STAT_STATE = 2 then
    s.setF SRV_TRC_STAT SRV_TRC_STAT_STATE 4
  else s

/-- Every block's state in a domain is as it is without power: registers at reset, memory and queues empty. [DEDUCED, log 63] -/
def State.domainLost (s : State) (d : Nat) : State :=
  if d = 12 then s.servoLost
  else
    let s := s.resetRegs d
    if d < 6 then s.clearQuarter (d - 2)
    else if d < 10 then
      (s.quarterEmpty (d - 6)).setF TDC_STATUS TDC_STATUS_DLL_LOCK (s.f TDC_STATUS TDC_STATUS_DLL_LOCK &&& (15 - 2 ^ (d - 6)))
    else if d = 10 then
      { (s.dropSets.zonLost).clearMem 0x02000000 0x02020000 with pkt := { s.pkt with msg := none, held := [] } }
    else if d = 11 then
      { s.clearMem warpStaging 0x01020000 with fir := {}, tdc := { s.tdc with windows := [], missRun := [] } }.setF
        HNG_TABLE_ID HNG_TABLE_ID_ID 0
    else if d = 13 then { s with mad := {} }
    else if d = 14 then { s.clearMem 0x20000000 0x20600000 with evr := { payload := s.evr.payload } }
    else if d = 15 then { s with ethA := {} }
    else if d = 16 then { s with ethB := {} }
    else if d = 17 then { s with wfl := Sp.drop (fun l => decide (l < 2)) s.wfl }
    else if d = 18 then { s with wfl := Sp.drop (fun l => decide (2 ≤ l)) s.wfl }
    else if d = 19 then s.dmaReset
    else s

/-- The quarter's inputs and groups take back the retained calibration set (R109, R469). -/
def State.restoreCal (s : State) (d : Nat) : State :=
  s.forEach (s.cal.kept.filter (fun x => domainOf x.1 == some d)) (fun s x => s.wr x.1 x.2)

/-- Whether a REGINIT address belongs to the retained configuration (R501). -/
def isRetained (a : Nat) : Bool :=
  match blkOf a with
  | some .ETHA => decide (a - 0xD0000 < 0x400)
  | some .ETHB => true
  | some .WFL => (List.range 4).any (fun l => a == WFL_CTRL l)
  | _ => false

/-- A domain's retained entries are applied again in their order (R367, R430, R501). -/
def State.restoreImage (s : State) (d : Nat) : State :=
  s.forEach (s.boot.retained.filter (fun x => domainOf x.1 == some d)) (fun s x =>
    (s.hostWrite x.1 (BitVec.ofNat 32 x.2.2) (BitVec.ofNat 32 x.2.1)).2)

/-- What a domain restores or starts once its registers are at reset (R109, R149, R301, R367, R430, R501). -/
def State.domainRestore (s : State) (d : Nat) : State :=
  if 6 ≤ d ∧ d < 10 then
    let s := s.restoreCal d
    if s.pllT then s.setF TDC_STATUS TDC_STATUS_DLL_LOCK (s.f TDC_STATUS TDC_STATUS_DLL_LOCK ||| 2 ^ (d - 6)) else s
  else if d = 10 then s.setF ETHA_STRM_CFG ETHA_STRM_CFG_STREAM_ID s.boot.streamId
  else if d = 11 then s.wr64 FIR_KEY_LO FIR_KEY_HI s.boot.shadows.keySeed
  else if d = 14 then { s with evr := { s.evr with clearing := true } }
  else if d = 15 ∨ d = 16 then s.restoreImage d
  else if d = 17 then ((s.restoreImage d).linkPower 0).linkPower 1
  else if d = 18 then ((s.restoreImage d).linkPower 2).linkPower 3
  else s

/-- A domain's switch-on completes (R492): registers at reset, clears, reloads, and outside BOOT the stale mark; a domain that holds a field
of the profile table leaves no profile selected (R217, R468). [DEDUCED, log 62; DESIGN CHOICE, log 96] -/
def State.domainUp (s : State) (d : Nat) : State :=
  let s := s.domainLost d
  let s := s.setF PMU_PD_STAT PMU_PD_STAT_ON (s.f PMU_PD_STAT PMU_PD_STAT_ON ||| 2 ^ d)
  let s := s.domainRestore d
  let s := if 2 ≤ d ∧ d ≤ 10 ∧ s.domOn 11 then s.setF FIR_PROFILE FIR_PROFILE_CODE 0 else s
  if s.dev = .boot then s else s.markStale d

/-- The sensors of a domain have no reading that counts (R471). -/
def State.sensorsOff (s : State) (d : Nat) : State :=
  { s with thm := { s.thm with sensorAt := Sp.drop (fun i => sensorDomain i == d) s.thm.sensorAt } }

/-- What must end in an orderly way before a domain's rails go (R271, R447, R463, R470). [DEDUCED, log 62] -/
def State.domainQuit (s : State) (d : Nat) : State :=
  let s := (s.calDomainOff d).dmaLost d
  let s := if d = 15 then s.linkLost .A else if d = 16 then s.linkLost .B else s
  let s := if d = 17 then (s.toLink 0 0).toLink 1 0 else if d = 18 then (s.toLink 2 0).toLink 3 0 else s
  let s := if d = 12 then s.mirrorOut else s
  let a := s.f CAL_STALE CAL_STALE_ACCEPTED
  let s := if 2 ≤ d ∧ d ≤ 9 then s.setF CAL_STALE CAL_STALE_ACCEPTED (a - (a &&& 2 ^ (d - 2))) else s
  s.sensorsOff d

/-- A domain's switch-off completes: outputs isolated, then its rails removed (R492). -/
def State.domainDown (s : State) (d : Nat) : State :=
  let s := (s.domainQuit d).domainLost d
  s.setF PMU_PD_STAT PMU_PD_STAT_ON (s.f PMU_PD_STAT PMU_PD_STAT_ON - (s.f PMU_PD_STAT PMU_PD_STAT_ON &&& 2 ^ d))

/-! ### PWR_DOMAIN (R491, R492) -/

/-- Check 4 of R491: the conditions of a switch-on or a switch-off in their order, each with its DETAIL. -/
def State.domainRules (s : State) (d : Nat) (on : Bool) : List Check :=
  if on then
    let off := (domDeps d).filter (fun e => decide (2 ≤ e) && !s.domOn e)
    [⟨!off.isEmpty, stRefused, off.headD 0⟩]
  else
    let users := (domUsers d).filter s.domOn
    [⟨!users.isEmpty, stRefused, users.headD 0⟩, ⟨s.scanning && s.needs d, stRefused, d⟩,
     ⟨(d == 12 || d == 13) && s.srv.running, stRefused, d⟩, chk (s.dmaUses d) stPwrBusy]

/-- The checks of PWR_DOMAIN (R491). -/
def State.domainChecks (s : State) (p : List Byte) : List Check :=
  let d := fld p 16 1
  let on := fld p 17 1
  [ par (decide (d < 2) || decide (19 < d) || bit (fusedOff s.variant) d) 16, par (decide (1 < on)) 17, par (firstNonZero p 18 2) 18 ]
    ++ s.domainRules d (on == 1)

/-- The switch under way completes and its request is answered. -/
def State.switchEnd (s : State) : State :=
  match s.boot.switching with
  | none => s
  | some (d, on, q) =>
    let s := { s with boot := { s.boot with switching := none } }
    (if on then s.domainUp d else s.domainDown d).reply q 0x0900 stOk 0

/-- PWR_DOMAIN: one switch at a time, so a switch under way completes first (R491, R492). -/
def State.pwrDomain (s : State) (q : Req) (p : List Byte) : State :=
  s.fixed q 0x0900 p 4 (fun s => s.switchEnd.domainChecks p) (fun s =>
    let s := s.switchEnd
    let d := fld p 16 1
    let on := fld p 17 1 == 1
    if s.domOn d = on then s.reply q 0x0900 stOk 0
    else { s with boot := { s.boot with switching := some (d, on, q) } })

/-- PWR_DOMAIN_ON (R491). -/
def execPwrDomainOn (q : Req) (p : List Byte) (s : State) : Host.Outcome State Fault Refusal := .next (s.pwrDomain q p)

/-- PWR_DOMAIN_OFF (R491, R447). -/
def execPwrDomainOff (q : Req) (p : List Byte) (s : State) : Host.Outcome State Fault Refusal := .next (s.pwrDomain q p)

/-- DOMAIN_SWITCH_ON_DONE (R492). -/
def execDomainSwitchOnDone (s : State) : Host.Outcome State Fault Refusal :=
  match s.boot.switching with
  | some (_, true, _) => .next s.switchEnd
  | _ => .next s

/-- DOMAIN_SWITCH_OFF_DONE (R492). -/
def execDomainSwitchOffDone (s : State) : Host.Outcome State Fault Refusal :=
  match s.boot.switching with
  | some (_, false, _) => .next s.switchEnd
  | _ => .next s

/-! ### Entry to BOOT and to OFF (R66, R489, R490, R544) -/

/-- Pin levels with every output idle. -/
def Pins.inputs (p : Pins) : Pins :=
  { p with hgFaultDrive := false, hgSyncOut := false, hgTrigOut := false, gpioOut := 0, ppsOut := false, ehs := false, els := false,
           ready := false, irq0 := false, irq1 := false }

/-- What boot state survives a reset (R509). -/
def Boot.kept (b : Boot) : Boot :=
  { vinOk := b.vinOk, nvNext := b.nvNext, nvBoots := b.nvBoots, fuses := b.fuses, shadows := b.shadows, flashSize := b.flashSize,
    flash := b.flash, pllLostAt := b.pllLostAt }

/-- What the emission-safety monitor holds over a reset: permits, causes, charges (R342, R490). -/
def Esf.kept (e : Esf) : Esf :=
  { e with armed := false, walkFailed := false, walk := none, histClear := false, charging := false, reservoir := false, failRun := 0 }

/-- Whatever stands outside PD00 is at reset, its time bases too unless they count on (R369, R390, R430, R449, R469, R490).
[DESIGN CHOICE, log 99] -/
def State.strip (s : State) (clocks : Bool) : State :=
  { pending := s.pending, regs := Sp.drop (fun a => domainOf a != some 0) s.regs, draws := s.draws,
    tm := if clocks then { now := s.tm.now, tbsStarted := s.tm.tbsStarted, tbs := s.tm.tbs, tblStarted := s.tm.tblStarted, tbl := s.tm.tbl }
          else { now := s.tm.now },
    pin := s.pin.inputs, boot := s.boot.kept, esf := s.esf.kept, thm := s.thm, cmd := { lastReply := s.cmd.lastReply } }

/-- Every domain but the always-on ones is off, and no switch walk runs. -/
def State.stripPmu (s : State) (on : Nat) : State :=
  let s := (s.setF PMU_PD_STAT PMU_PD_STAT_ON on).setF ESF_WALK_STAT ESF_WALK_STAT_STEP 0
  s.forEach (List.range 11) (fun s d => if d = 0 then s else s.sensorsOff d)

/-- Enter BOOT by a row of R66: GLB_STATE with PREV and CAUSE, TRANS_COUNT 0, one boot more, THR at 8, and the causes WATCHDOG, LOCKSTEP and FAULT clear
with their flags (R307, R326, R476, R490, R544). -/
def State.enterBoot (s : State) (cause rst : Nat) : State :=
  let prev := s.dev.code
  let s := (s.strip s.coreOn).stripPmu 3
  let s := { s with boot := { s.boot with nvBoots := (s.boot.nvBoots + 1) % 2 ^ 32, inReset := !s.pin.resetN } }
  let s := s.wr GLB_STATE (BitVec.ofNat 32 (cause * 2 ^ 16 + prev * 2 ^ 8 + 1))
  let s := s.setF PMU_BOOT PMU_BOOT_RST_CAUSE rst
  let s := s.setF THM_STATE THM_STATE_THR 8
  let s := (s.setF ESF_DIAG ESF_DIAG_WDOG_EXP 0).setF ESF_DIAG ESF_DIAG_LOCKSTEP_ERR 0
  s.unlatch [11, 12, 15]

/-- Row 1: OFF without PD00; what the non-volatile array, the flash and the fuses hold stays (R489, R509, R544). -/
def State.powerOff (s : State) : State :=
  let t : State := { pending := s.pending, draws := s.draws, tm := { now := s.tm.now }, pin := { s.pin.inputs with extest := false },
                     boot := { s.boot.kept with off := true, pllLostAt := none }, thm := { nv := s.thm.nv, nvSeq := s.thm.nvSeq } }
  t.nvSync.wr THM_NVLOG_ACK (s.rd THM_NVLOG_ACK)

/-- Row 3: VIN is valid and PORST_N high; PD00 powers up and the device enters BOOT (R342). -/
def State.powerOn (s : State) (rst : Nat) : State :=
  if s.boot.off && !s.boot.thermalOff && s.boot.vinOk && s.pin.porstN then
    { s with thm := { s.thm with onAt := s.tm.now } }.enterBoot 0x01 rst
  else s

/-- Row 2: every domain but PD00 is off (R477). [DEDUCED, log 50] -/
def State.thermalDown (s : State) : State :=
  let s := (s.strip false).stripPmu 1
  { s with boot := { s.boot with off := true, thermalOff := true } }.hgUpdate

/-- VIN_VALID: VIN stands at a level in mV; above 5.7 V it is valid, and from OFF row 3 follows (R485). -/
def execVinValid (mv : Nat) (s : State) : Host.Outcome State Fault Refusal :=
  if mv ≤ 5700 then .next s
  else
    let t := { s with pin := { s.pin with vinMv := mv }, boot := { s.boot with vinOk := true } }
    .next (t.powerOn 1)

/-- VIN_LOSS: VIN falls below 5.3 V, row 1 (R485). -/
def execVinLoss (s : State) : Host.Outcome State Fault Refusal :=
  let t := { s with pin := { s.pin with vinMv := 0 }, boot := { s.boot with vinOk := false } }
  .next t.powerOff

/-- VIN_OVERVOLTAGE: VIN rises above 40 V, and the device keeps operating (R485). -/
def execVinOvervoltage (mv : Nat) (s : State) : Host.Outcome State Fault Refusal :=
  if mv ≤ 40000 ∨ !s.boot.vinOk then .next s else .next { s with pin := { s.pin with vinMv := mv } }

/-- VAUX_CURRENT_LIMIT: VAUX limits its current (R486). -/
def execVauxCurrentLimit (s : State) : Host.Outcome State Fault Refusal :=
  if s.boot.off && !s.boot.thermalOff then .next s else .next (s.setF PMU_STAT PMU_STAT_AUX_OC 1)

/-- PORST_LOW: a recognised low of PORST_N, row 1 (R489). -/
def execPorstLow (s : State) : Host.Outcome State Fault Refusal :=
  let t := { s with pin := { s.pin with porstN := false } }
  .next t.powerOff

/-- PORST_RISE: PORST_N rises, row 3 where VIN is valid (R489). -/
def execPorstRise (s : State) : Host.Outcome State Fault Refusal :=
  let t := { s with pin := { s.pin with porstN := true } }
  .next (t.powerOn 2)

/-- RESET_LOW: a recognised low of RESET_N, row 5 outside OFF (R490). -/
def execResetLow (s : State) : Host.Outcome State Fault Refusal :=
  let t := { s with pin := { s.pin with resetN := false } }
  if s.boot.off then .next t else .next (t.enterBoot 0x02 3)

/-- RESET_RISE: RESET_N rises and boot proceeds (R490). -/
def execResetRise (s : State) : Host.Outcome State Fault Refusal :=
  .next { s with pin := { s.pin with resetN := true }, boot := { s.boot with inReset := false } }

/-- SOFT_RESET: the reply leaves the device, then row 6 (R490). [DEDUCED, log 53] -/
def execSoftReset (q : Req) (p : List Byte) (s : State) : Host.Outcome State Fault Refusal :=
  .next (s.fixed q 0x0104 p 0 (fun _ => []) (fun s => (s.reply q 0x0104 stOk 0).enterBoot 0x03 4))

/-! ### Clocks (R24, R488) -/

/-- The quarters that are on lose their delay-line lock with PLL-T (R96). -/
def State.dllLost (s : State) : State :=
  s.forEach ((List.range 4).filter (fun q => s.domOn (6 + q))) (fun s q =>
    (s.setF TDC_STATUS TDC_STATUS_DLL_LOCK (s.f TDC_STATUS TDC_STATUS_DLL_LOCK &&& (15 - 2 ^ q))).setF
      TDC_STATUS TDC_STATUS_DLL_UNLOCK (s.f TDC_STATUS TDC_STATUS_DLL_UNLOCK ||| 2 ^ q))

/-- With PLL-C unlocked the sinks hold their codes (R244). -/
def State.sinksFreeze (s : State) : State :=
  if !s.domOn 12 then s
  else
    let codes := (List.range 8).map (fun (k : Nat) => (k, s.sinkCode k))
    { s with srv := { s.srv with sinks := codes, frozen := true } }

/-- PLL_LOCK_LOSS: PLL-T, PLL-H or PLL-C loses lock, or REFCLK stops and all three do; CLOCK latches (R24, R304, R488).
[DEDUCED, log 21] -/
def execPllLockLoss (ref t h c : Bool) (s : State) : Host.Outcome State Fault Refusal :=
  let t := (t || ref) && s.fb CLK_STAT CLK_STAT_T_LOCK
  let h := (h || ref) && s.fb CLK_STAT CLK_STAT_H_LOCK
  let c := (c || ref) && s.pllC
  if s.boot.off || !(t || h || c) then .next s
  else
    let lostT := (t || h) && s.pllT
    let s := if ref then { s.setF CLK_STAT CLK_STAT_REF_OK 0 with pin := { s.pin with refclk := false } } else s
    let s := if t then (s.setF CLK_STAT CLK_STAT_T_LOCK 0).setF CLK_STAT CLK_STAT_T_LOST 1 else s
    let s := if h then (s.setF CLK_STAT CLK_STAT_H_LOCK 0).setF CLK_STAT CLK_STAT_H_LOST 1 else s
    let s := if lostT then (s.addSat CLK_CNT CLK_CNT_T_LOSS 1).dllLost else s
    let s := if c then s.sinksFreeze else s
    let s := if c then ((s.setF CLK_STAT CLK_STAT_C_LOCK 0).setF CLK_STAT CLK_STAT_C_LOST 1).addSat CLK_CNT CLK_CNT_C_LOSS 1 else s
    let at' := match s.boot.pllLostAt with | some t => t | none => s.tm.now
    let s := { s with boot := { s.boot with pllLostAt := some at' } }
    .next (s.latch [6])

/-- PLL_LOCK_REGAIN: PLLs lock again; TBS counts on, and DACs that held their codes step to SAFE (R244, R369, R488). -/
def execPllLockRegain (t h c : Bool) (s : State) : Host.Outcome State Fault Refusal :=
  if s.boot.off || s.boot.pllLostAt.isNone then .next s
  else
    let was := s.pllT
    let s := { s.setF CLK_STAT CLK_STAT_REF_OK 1 with pin := { s.pin with refclk := true } }
    let s := if t then s.setF CLK_STAT CLK_STAT_T_LOCK 1 else s
    let s := if h then s.setF CLK_STAT CLK_STAT_H_LOCK 1 else s
    let s := if s.pllT && !was && s.coreOn then s.setF TIM_STATUS TIM_STATUS_TBS_GAP 1 else s
    let s := if c && !s.pllC then
        { s.setF CLK_STAT CLK_STAT_C_LOCK 1 with srv := { s.srv with sinks := [], frozen := false } }
      else s
    .next (if s.pllT && s.pllC then { s with boot := { s.boot with pllLostAt := none } } else s)

/-- PLL_LOCK_TIMEOUT: lock has not returned within 1 ms, row 12 (R66). [DEDUCED, log 21] -/
def execPllLockTimeout (s : State) : Host.Outcome State Fault Refusal :=
  match s.boot.pllLostAt with
  | none => .next s
  | some t =>
    if s.dev = .primed ∨ s.dev = .scanning ∨ s.dev = .hold ∨ s.dev = .thermalHold then
      .next ((s.at_ (t + tickMs)).enterFault 0x63)
    else .next s

/-- EXTEST_LOAD: the EXTEST instruction is loaded; HOST latches and boundary scan has the balls (R304, R530). [DEDUCED, log 70] -/
def execExtestLoad (s : State) : Host.Outcome State Fault Refusal :=
  if s.boot.off then .next s
  else
    let t := s.latch [14]
    .next { t with pin := { t.pin with extest := true, ehs := false, els := false }, fir := { t.fir with pulses := [] } }

end Sys2Proof.Machine
end

