-- ==== Sys2Proof/Machine/Thermal.lean ====
section
/-! DEFINITION. Thermal management and the NV log (R471–R484). -/

namespace Sys2Proof.Machine

open Reg

/-! ### Tj (R471, R472) -/

/-- The hotter of two sensors, the earlier one on a tie. -/
def State.hotter (s : State) (best : Option Nat) (i : Nat) : Option Nat :=
  match best with
  | none => some i
  | some b => if s.tsTemp b < s.tsTemp i then some i else some b

/-- The sensor that sets Tj. [DEDUCED, log 49] -/
def State.hottest (s : State) : Option Nat := ((List.range 12).filter s.tsValid).foldl s.hotter none

/-- Whether neither always-on sensor is valid, once they have had 4 ms to deliver a reading. -/
def State.aonFail (s : State) : Bool := !s.tsValid 10 && !s.tsValid 11 && decide (s.thm.onAt + 4 * tickMs ≤ s.tm.now)

/-- Set Tj from the valid sensors (R472). [DEDUCED, log 49] -/
def State.setTj (s : State) : State :=
  if s.aonFail then (s.setF THM_TJ THM_TJ_TJ (ux 16 s.shutdownLim)).setF THM_STATE THM_STATE_AON_FAIL 1
  else
    let s := s.setF THM_STATE THM_STATE_AON_FAIL 0
    match s.hottest with
    | some i => (s.setF THM_TJ THM_TJ_TJ (ux 16 (s.tsTemp i))).setF THM_TJ THM_TJ_SENSOR i
    | none => s

/-! ### Levels (R473, R475–R477) -/

/-- The warning level (R475). -/
def State.warnLevel (s : State) : State :=
  let on := s.fb THM_STATE THM_STATE_WARN
  if !on && decide (s.warnLim ≤ s.tj) then
    ((s.setF THM_STATE THM_STATE_WARN 1).addSat THM_CNT THM_CNT_WARNS 1).raiseThermal 1 []
  else if on && decide (s.tj ≤ s.warnLim - thermHyst) then (s.setF THM_STATE THM_STATE_WARN 0).raiseThermal 2 []
  else s

/-- A change of THR: its time, STEPS for a fall, the event, and row 16 at 0 in SCANNING (R476). -/
def State.setThr (s : State) (thr : Nat) : State :=
  let old := s.f THM_STATE THM_STATE_THR
  let s := if thr < old then s.addSat THM_CNT THM_CNT_STEPS 1 else s
  ((s.setF THM_STATE THM_STATE_THR thr).raiseThermal 3 []).thermalHold

/-- The state with the throttle timer started now. [DEDUCED, log 18] -/
def State.thrTimer (s : State) (hot : Bool) : State := { s with thm := { s.thm with thrAt := s.tm.now, hot := hot } }

/-- The throttle level is entered or left (R473, R476); rows 16 and 17 follow. [DEDUCED, log 18] -/
def State.throttleLevel (s : State) : State :=
  let s := s.setF THM_STATE THM_STATE_ABOVE (b2n (decide (s.throttleLim ≤ s.tj)))
  let cool := decide (s.tj ≤ s.throttleLim - thermHyst)
  let thr := s.f THM_STATE THM_STATE_THR
  if !s.thm.hot && decide (s.throttleLim ≤ s.tj) then
    let s := s.thrTimer true
    if thr = 0 then s else s.setThr (thr - 1)
  else
    let s := if s.thm.hot && cool then s.thrTimer false else s
    if s.dev = .thermalHold ∧ cool then ((s.thrTimer false).setThr 1).goto .primed 0x41 else s

/-- Tj reaches SHUTDOWN: THERMAL latches, the record is written, and row 2 follows (R304, R477). [DEDUCED, log 50] -/
def State.thermalShutdown (s : State) : State :=
  let body := s.nvBody nvShutdown s.dev.code 4 0
  ((s.latchWith [5] id).nvNow body).thermalDown

/-- The levels after a new Tj: row 4 in OFF after a shutdown once both always-on sensors are valid, else shutdown, warning and throttle. -/
def State.thermalLevels (s : State) : State :=
  if s.boot.thermalOff then
    if s.tj ≤ s.shutdownLim - thermHyst ∧ s.tsValid 10 ∧ s.tsValid 11 then
      s.enterBoot 0x05 5
    else s
  else if s.shutdownLim ≤ s.tj then s.thermalShutdown
  else if runsCommands s.dev then s.warnLevel.throttleLevel
  else s.warnLevel

/-- TEMP_SENSOR_READING: sensor i ends its 1 ms count with a reading in 1/16 °C (R471). -/
def execTempSensorReading (i : Nat) (temp : Int) (s : State) : Host.Outcome State Fault Refusal :=
  if 12 ≤ i ∨ (s.boot.off && !s.boot.thermalOff) then .next s
  else
    let s0 := s
    let s := s.setF (THM_TS i) THM_TS_TEMP (ux 16 (satS 16 temp))
    let s := { s with thm := { s.thm with sensorAt := Sp.ins s.thm.sensorAt i s.tm.now } }
    .next ((s.setTj.noteConds s0).thermalLevels)

/-- THROTTLE_STEP: 250 ms after the last change THR falls while Tj ≥ THROTTLE, or rises while Tj ≤ THROTTLE − 5 °C (R476). -/
def execThrottleStep (s : State) : Host.Outcome State Fault Refusal :=
  if !runsCommands s.dev then .next s
  else
    let s := s.at_ (s.thm.thrAt + 250 * tickMs)
    let thr := s.f THM_STATE THM_STATE_THR
    let s := s.thrTimer s.thm.hot
    if s.throttleLim ≤ s.tj ∧ 0 < thr then .next (s.setThr (thr - 1))
    else if s.tj ≤ s.throttleLim - thermHyst ∧ thr < 8 then .next (s.setThr (thr + 1))
    else .next s

/-! ### Commands -/

/-- THERMAL_STATUS: the THM words from 0x0000 to 0x004F (R483). -/
def execThermalStatus (q : Req) (p : List Byte) (s : State) : Host.Outcome State Fault Refusal :=
  .next (s.fixed q 0x0901 p 0 (fun _ => []) (fun s =>
    s.replyOk q 0x0901 ((List.range 20).flatMap (fun k => wordBytes (s.live {} (THM_TS 0 + 4 * k))))))

/-- The checks of THERMAL_LIMITS (R474). -/
def State.limitChecks (s : State) (p : List Byte) : List Check :=
  let f := s.boot.shadows
  let v (off : Nat) := fldS p off 2
  let bad (off ceil : Nat) := par (decide (sx 16 ceil < v off) || decide (v off < 960)) off
  [ bad 16 f.warn, bad 18 f.throttle, bad 20 f.shutdown,
    par (decide (v 18 < v 16 + thermHyst) || decide (v 20 < v 18 + thermHyst)) 16, par (firstNonZero p 22 2) 22 ]

/-- THERMAL_LIMITS (R474). -/
def execThermalLimits (q : Req) (p : List Byte) (s : State) : Host.Outcome State Fault Refusal :=
  .next (s.fixed q 0x0904 p 8 (fun s => s.limitChecks p) (fun s =>
    let s := (s.setF THM_LIM0 THM_LIM0_WARN (fld p 16 2)).setF THM_LIM0 THM_LIM0_THROTTLE (fld p 18 2)
    ((s.setF THM_LIM1 THM_LIM1_SHUTDOWN (fld p 20 2)).reply q 0x0904 stOk 0).thermalLevels))

/-! ### The NV log (R478–R482) -/

/-- The held record with a SEQ. -/
def State.nvRecord (s : State) (q : Nat) : Option (List Byte) :=
  let r := s.nvSlot ((q - 1) % 128)
  if 0 < q ∧ leAt r 0 4 = q then some r else none

/-- The SEQs the log can hold, rising. -/
def State.nvSeqs (s : State) : List Nat :=
  ((List.range 128).map (fun k => s.thm.nvSeq + 1 + k)).filterMap (fun x => if x ≤ 128 then none else some (x - 128))

/-- The held SHUTDOWN records with a good CRC that are newer than a SEQ. -/
def State.shutdownsAfter (s : State) (ref : Nat) : List Nat :=
  s.nvSeqs.filter (fun q => decide (ref < q) && (match s.nvRecord q with
    | some r => nvGood r && leAt r 4 1 == nvShutdown
    | none => false))

/-- THM_STATE.HISTORY follows the log, and EVT_THERMAL reports the newest record that is not acknowledged (R478). [DEDUCED, log 51] -/
def State.historyCheck (s : State) : State :=
  match (s.shutdownsAfter (s.rd THM_NVLOG_ACK).toNat).getLast? with
  | some q => (s.setF THM_STATE THM_STATE_HISTORY 1).raiseThermal 5 (leBytes 4 q)
  | none => s.setF THM_STATE THM_STATE_HISTORY 0

/-- ACK_THERMAL_EVENT (R479). -/
def execAckThermalEvent (q : Req) (p : List Byte) (s : State) : Host.Outcome State Fault Refusal :=
  let n := fld p 16 4
  .next (s.fixed q 0x0902 p 4 (fun s => [par (!(s.shutdownsAfter (s.rd THM_NVLOG_ACK).toNat).contains n) 16]) (fun s =>
    let newer := !(s.shutdownsAfter n).isEmpty
    let t := (s.nvNow (s.nvBody nvAck s.dev.code 0 n)).setF THM_STATE THM_STATE_HISTORY (b2n newer)
    (t.noteConds s).reply q 0x0902 stOk 0))

/-- The records of an NVLOG_READ. -/
def State.nvRecords (s : State) (first count : Nat) : List (List Byte) :=
  ((s.nvSeqs.filter (fun q => decide (first ≤ q))).filterMap s.nvRecord).take count

/-- NVLOG_READ (R482). -/
def execNvlogRead (q : Req) (p : List Byte) (s : State) : Host.Outcome State Fault Refusal :=
  let n := fld p 20 1
  .next (s.fixed q 0x0903 p 8 (fun _ => [par (n == 0 || decide (125 < n)) 20, par (firstNonZero p 21 3) 21]) (fun s =>
    let rs := s.nvRecords (fld p 16 4) n
    s.replyOk q 0x0903 (leBytes 4 (rs.length + s.nvHeld.length * 256) ++ rs.flatten)))

/-- NVLOG_WRITE: the record at the head of the queue is written (R481). -/
def execNvlogWrite (s : State) : Host.Outcome State Fault Refusal :=
  if s.boot.off && !s.boot.thermalOff then .next s else .next s.nvWriteHead

end Sys2Proof.Machine
end

