-- ==== Sys2Proof/Machine/Image.lean ====
section
/-! DEFINITION. The configuration flash and the boot image: layout, checks, and the flash commands (R496–R499, R503, R506–R509). -/

namespace Sys2Proof.Machine

open Reg

/-! ### The flash (R496) -/

/-- What a flash byte that nothing has written reads as: erased flash (R503). -/
def flashDefault (_ : Nat) : Byte := 0xFF

/-- Bytes of the flash. -/
def State.flashBytes (s : State) (a n : Nat) : List Byte := (List.range n).map (fun i => Sp.get flashDefault s.boot.flash (a + i))

/-- The bytes a slot spans, half the density (R496). -/
def State.slotSize (s : State) : Nat := s.boot.flashSize / 2

/-- Where a slot starts. -/
def State.slotBase (s : State) (slot : Nat) : Nat := slot * s.slotSize

/-- Write bytes into a flash, each byte by a rule of the old and the new one. -/
def flashPut (rule : Byte → Byte → Byte) : List Host.Cell → Nat → List Byte → List Host.Cell
  | m, _, [] => m
  | m, a, b :: bs => flashPut rule (Sp.put flashDefault m a (rule (Sp.get flashDefault m a) b)) (a + 1) bs

/-! ### Header and sections (R497, R498) -/

/-- The section-table entries of a header. -/
def sectionAt (h : List Byte) (i : Nat) : Section :=
  let o := 48 + 16 * i
  { typ := leAt h o 2, optional := leAt h (o + 2) 2 % 2 == 1, off := leAt h (o + 4) 4, len := leAt h (o + 8) 4, crc := leAt h (o + 12) 4 }

/-- The sections of a header. -/
def sections (h : List Byte) : List Section := (List.range (leAt h 14 1)).map (sectionAt h)

/-- The section of a type. -/
def sectionOf (h : List Byte) (typ : Nat) : Option Section := (sections h).find? (fun x => x.typ == typ)

/-- Whether a header breaks check 5 of R503. [DEDUCED, log 66] -/
def headerBad (h : List Byte) (slotSize : Nat) : Bool :=
  let len := leAt h 8 4
  leAt h 4 2 != 1 || leAt h 6 2 != 320 || decide (len < 320) || decide (Nat.min slotSize 0x200000 < len) || decide (2 ≤ leAt h 13 1)
    || !allZero (slice h 28 20) || !allZero (slice h 304 12) || leAt h 316 4 != crc32c (h.take 316)

/-- Whether a section has a length its type allows; an unknown type must be OPTIONAL (R498). -/
def Section.lenOk (x : Section) : Bool :=
  if x.typ = 1 then decide (1 ≤ x.len) && decide (x.len ≤ 1572864)
  else if x.typ = 2 then x.len % 12 == 0 && decide (12 ≤ x.len) && decide (x.len ≤ 12 * 4096)
  else if x.typ = 3 then x.len == 136
  else if x.typ = 4 then x.len == 8
  else if x.typ = 5 then x.len == 32
  else if x.typ = 6 then x.len == 40
  else if x.typ = 0xF0 then x.len == 72
  else x.optional

/-- Whether a section stands where it may, before an end. -/
def Section.placeOk (x : Section) (stop : Nat) : Bool := x.off % 16 == 0 && decide (320 ≤ x.off) && decide (x.off + x.len ≤ stop)

/-- Whether two sections share a byte. -/
def Section.meets (x y : Section) : Bool := decide (x.off < y.off + y.len) && decide (y.off < x.off + x.len)

/-- Whether the sections of a list are of different types and do not overlap. -/
def sectionsApart : List Section → Bool
  | [] => true
  | x :: l => l.all (fun y => x.typ != y.typ && !x.meets y) && sectionsApart l

/-- Whether an image is marked SIGNED. -/
def isSigned (h : List Byte) : Bool := leAt h 13 1 % 2 == 1

/-- Whether a POWER_MASK breaks R33, or its bits 0, 1 and 31 to 20. -/
def powerBad (m : Nat) : Bool :=
  decide (2 ^ 20 ≤ m) || (List.range 20).any (fun d => (decide (d < 2) && !bit m d) || (bit m d && (domDeps d).any (fun e => !bit m e)))

/-- Whether a header breaks check 6 of R503. [DEDUCED, log 66] -/
def layoutBad (h : List Byte) : Bool :=
  let n := leAt h 14 1
  let l := sections h
  let stop := leAt h 8 4 - (if isSigned h then 128 else 0)
  n == 0 || decide (16 < n) || !allZero (slice h (48 + 16 * n) (256 - 16 * n))
    || (List.range n).any (fun i => decide (2 ≤ leAt h (50 + 16 * i) 2))
    || l.any (fun x => !x.lenOk || !x.placeOk stop) || !sectionsApart l || !(l.any (fun x => x.typ == 1)) || powerBad (leAt h 24 4)

/-- The code of R503 for the header checks of a slot; 1 when they pass. -/
def State.headerCode (s : State) (h : List Byte) : Nat :=
  if s.boot.flashSize = 0 then 2
  else if leAt h 0 4 ≠ 0x4D494452 then 4
  else if headerBad h s.slotSize then 5
  else if layoutBad h then 6
  else if leAt h 12 1 = 0 ∨ s.boot.shadows.blMax < leAt h 12 1 then 7
  else 1

/-- The checks of a signature block (R499, R503): 10 and 11, or 1. -/
def signCode (img keyHash : List Byte) : Nat :=
  let o := img.length - 128
  let be (k : Nat) := beNat (slice img (o + 32 * k) 32)
  if sha256 (slice img o 64) ≠ keyHash then 10
  else if ecdsaVerify (sha256 (img.take (img.length - 64))) (be 0) (be 1) (be 2) (be 3) then 1 else 11

/-- The image of a slot, of the length its header gives. -/
def State.slotImage (s : State) (slot : Nat) : List Byte :=
  let base := s.slotBase slot
  s.flashBytes base (leNat (s.flashBytes (base + 8) 4))

/-- The header of a slot. -/
def State.slotHeader (s : State) (slot : Nat) : List Byte := s.flashBytes (s.slotBase slot) 320

/-- The checks of an image's contents. -/
def State.imageCode (s : State) (h img : List Byte) : Nat :=
  if (sections h).any (fun x => crc32c (slice img x.off x.len) != x.crc) then 8
  else if !s.boot.shadows.sigReq then 1
  else if !isSigned h then 9
  else signCode img s.boot.shadows.keyHash

/-- The code of R503 for every check of a slot, in order. -/
def State.slotCode (s : State) (slot : Nat) (readErr : Bool) : Nat :=
  let h := s.slotHeader slot
  let c := s.headerCode h
  if c = 2 then 2 else if readErr then 3 else if c ≠ 1 then c else s.imageCode h (s.slotImage slot)

/-- The state with the code of a slot's last full check. -/
def State.noteCheck (s : State) (slot code : Nat) : State :=
  { s with boot := { s.boot with checked := Sp.ins s.boot.checked slot code } }

/-! ### Flash commands (R506–R509) -/

/-- The checks of a payload that names a slot (R506). -/
def slotChecks (p : List Byte) : List Check := [par (decide (1 < fld p 16 1)) 16, par (firstNonZero p 17 3) 17]

/-- IMAGE_INFO (R506). -/
def execImageInfo (q : Req) (p : List Byte) (s : State) : Host.Outcome State Fault Refusal :=
  let slot := fld p 16 1
  .next (s.fixed q 0x0A00 p 4 (fun _ => slotChecks p) (fun s =>
    let h := s.slotHeader slot
    let last := (Sp.find s.boot.checked slot).getD 0xFF
    let w := s.headerCode h + last * 2 ^ 8 + b2n (s.boot.booted == some slot) * 2 ^ 16 + b2n (s.boot.nvNext == slot) * 2 ^ 17
    s.replyOk q 0x0A00 (leBytes 4 w ++ h)))

/-- Whether a flash operation runs. -/
def State.flashBusy (s : State) : Bool := !s.boot.flashOps.isEmpty

/-- Whether a range touches the booted slot. -/
def State.touchesBooted (s : State) (a n : Nat) : Bool :=
  match s.boot.booted with
  | some b => decide (a < s.slotBase b + s.slotSize) && decide (s.slotBase b < a + n)
  | none => false

/-- The checks of an address and a length in the flash (R507). -/
def State.flashRange (s : State) (a n : Nat) (bad : Bool) : List Check :=
  [par (decide (s.boot.flashSize ≤ a)) 16, par (bad || decide (s.boot.flashSize < a + n)) 20]

/-- FLASH_READ (R507). -/
def execFlashRead (q : Req) (p : List Byte) (s : State) : Host.Outcome State Fault Refusal :=
  let a := fld p 16 4
  let n := fld p 20 4
  .next (s.fixed q 0x0A01 p 8 (fun s => s.flashRange a n (n == 0 || decide (8064 < n)) ++ [chk s.flashBusy stBusy]) (fun s =>
    s.replyOk q 0x0A01 (s.flashBytes a n)))

/-- Start a flash operation. -/
def State.flashStart (s : State) (q : Req) (opc : Nat) (op : FlashOp) : State :=
  let s := { s with boot := { s.boot with flashOps := [op] } }
  (s.addJob { req := q, opc := opc }).reply q opc stDeferred 0

/-- FLASH_ERASE (R507). -/
def execFlashErase (q : Req) (p : List Byte) (s : State) : Host.Outcome State Fault Refusal :=
  let a := fld p 16 4
  let n := fld p 20 4
  .next (s.fixed q 0x0A02 p 8
    (fun s => [par (decide (a % 65536 ≠ 0)) 16] ++ s.flashRange a (65536 * n) (n == 0)
      ++ [⟨s.touchesBooted a (65536 * n), stRefused, 16⟩, chk s.flashBusy stBusy])
    (fun s => s.flashStart q 0x0A02 (.erase a n)))

/-- FLASH_WRITE (R507). -/
def execFlashWrite (q : Req) (p : List Byte) (s : State) : Host.Outcome State Fault Refusal :=
  let a := fld p 16 4
  let n := p.length - 4
  .next (s.command q 0x0A03 p (fun s =>
    if p.length < 5 ∨ 8064 < p.length then s.badLength q 0x0A03
    else
      match firstBad (s.flashRange a n false ++ [⟨s.touchesBooted a n, stRefused, 16⟩, chk s.flashBusy stBusy]) with
      | some c => s.reply q 0x0A03 c.status c.detail
      | none => s.flashStart q 0x0A03 (.write a (p.drop 4))))

/-- FLASH_OPERATION_DONE: an erase or a write ends; what was not erased holds the AND of old and new (R507). -/
def execFlashOperationDone (s : State) : Host.Outcome State Fault Refusal :=
  match s.boot.flashOps with
  | .erase a n :: _ =>
    let m := Sp.drop (fun k => decide (a ≤ k) && decide (k < a + 65536 * n)) s.boot.flash
    .next ({ s with boot := { s.boot with flash := m, flashOps := [] } }.finishJobs 0x0A02 stOk 0 [])
  | .write a data :: _ =>
    let m := flashPut (fun old new => old &&& new) s.boot.flash a data
    .next ({ s with boot := { s.boot with flash := m, flashOps := [] } }.finishJobs 0x0A03 stOk 0 [])
  | _ => .next s

/-- IMAGE_VERIFY (R508). -/
def execImageVerify (q : Req) (p : List Byte) (s : State) : Host.Outcome State Fault Refusal :=
  .next (s.fixed q 0x0A04 p 4 (fun s => slotChecks p ++ [chk s.flashBusy stBusy]) (fun s =>
    s.flashStart q 0x0A04 (.verify (fld p 16 1))))

/-- IMAGE_VERIFY_DONE: the check ends and its code is reported (R508). -/
def execImageVerifyDone (readErr : Bool) (s : State) : Host.Outcome State Fault Refusal :=
  match s.boot.flashOps with
  | .verify slot :: _ =>
    let c := s.slotCode slot readErr
    let s := { s with boot := { s.boot with flashOps := [] } }
    .next ((s.noteCheck slot c).finishJobs 0x0A04 stOk 0 (leBytes 4 c))
  | _ => .next s

/-- IMAGE_SELECT (R509). -/
def execImageSelect (q : Req) (p : List Byte) (s : State) : Host.Outcome State Fault Refusal :=
  .next (s.fixed q 0x0A05 p 4 (fun s => slotChecks p ++ [chk s.flashBusy stBusy]) (fun s =>
    let s := { s with boot := { s.boot with nvNext := fld p 16 1 } }
    (s.setF PMU_BOOT PMU_BOOT_NEXT (fld p 16 1)).reply q 0x0A05 stOk 0))

end Sys2Proof.Machine
end

