-- ==== Sys2Proof/Machine/Boot.lean ====
section
/-! DEFINITION. The boot stages (R494–R505, R342, R403, R478). -/

namespace Sys2Proof.Machine

open Reg

/-- Whether boot is at a stage of R502 and may proceed (R490). -/
def State.atStage (s : State) (n : Nat) : Bool := s.dev == .boot && !s.boot.inReset && s.f GLB_BOOT GLB_BOOT_STAGE == n

/-- The state with a boot stage. -/
def State.stage (s : State) (n : Nat) : State := s.setF GLB_BOOT GLB_BOOT_STAGE n

/-- Boot fails with a stage code of R502: row 7, with no slot booted; without a valid image the recovery code serves HSPI (R503, R507).
[DEDUCED, log 69] -/
def State.bootFail (s : State) (code : Nat) : State :=
  let s := { s with boot := { s.boot with booted := none, recovery := code == 0xF0 } }
  (s.stage code).enterFault 0x11

/-! ### FUSE and CLOCK -/

/-- The exposure limits load the fused ceilings (R342, R495). -/
def State.loadLimits (s : State) : State :=
  s.forEach (List.range 3) (fun s w =>
    let c := BitVec.ofNat 32 (Sp.get (fun _ => 0) s.boot.shadows.ceilings w)
    (s.wr (ESF_EXP_CEIL w) c).wr (ESF_EXP_LIM w) c)

/-- What PD00 takes from the fuses when it powers up (R342, R473). [DEDUCED, log 100] -/
def State.loadPd00 (s : State) : State :=
  let s := s.loadLimits
  let s := s.forEach (List.range 16) (fun s k => s.setF (ESF_EXP_WT (k / 4)) (wtFld (k % 4)) (s.floor k))
  let f := s.boot.shadows
  ((s.setF THM_LIM0 THM_LIM0_WARN f.warn).setF THM_LIM0 THM_LIM0_THROTTLE f.throttle).setF THM_LIM1 THM_LIM1_SHUTDOWN f.shutdown

/-- FUSE_READ: the shadows load, HG_ID is sampled, and the vendor CRC is checked (R403, R494). [DEDUCED, log 67] -/
def execFuseRead (hgId : Nat) (s : State) : Host.Outcome State Fault Refusal :=
  if !s.atStage 1 then .next s
  else
    let fresh := s.f PMU_BOOT PMU_BOOT_RST_CAUSE == 1 || s.f PMU_BOOT PMU_BOOT_RST_CAUSE == 2
    let s := { s with boot := { s.boot with shadows := s.boot.fuses }, pin := { s.pin with hgId := hgId % 8 } }
    let s := (s.setF HNG_ID HNG_ID_INDEX hgId).setF PMU_FUSE PMU_FUSE_CRC_OK (b2n s.boot.fuses.crcGood)
    let s := if fresh then s.loadPd00 else s
    .next (s.stage (if s.boot.fuses.crcGood then 2 else 0xE0))

/-- CLOCK_LOCK: the three PLLs are locked and PD01 is on, or they are not within 10 ms; a lock after 0xE1 returns STAGE to 0x02, which the
next one ends (R369, R502). [DEDUCED, log 69] -/
def execClockLock (locked : Bool) (s : State) : Host.Outcome State Fault Refusal :=
  if !(s.atStage 2 || s.atStage 0xE1) then .next s
  else if !locked then .next (s.stage 0xE1)
  else
    let s := s.forEach [CLK_STAT_REF_OK, CLK_STAT_C_LOCK, CLK_STAT_H_LOCK, CLK_STAT_T_LOCK] (fun s f => s.setF CLK_STAT f 1)
    let t := s.tm
    let t := { t with tbl := if t.tblStarted then t.tbl else 0, tblStarted := true, tbs := if t.tbsStarted then t.tbs else 0,
                      tbsStarted := true }
    let u : State := { s with tm := t, boot := { s.boot with pllLostAt := none }, pin := { s.pin with refclk := true } }
    .next (u.stage (if s.atStage 2 then 3 else 2))

/-! ### FLASH and the slots -/

/-- The flash contents that a list of runs of bytes describes. [DESIGN CHOICE, log 38] -/
def flashOf (runs : List (Nat × List Byte)) : List Host.Cell := runs.foldl (fun m r => flashPut (fun _ b => b) m r.1 r.2) []

/-- SFDP_READ: the flash shows a density in bytes, 0 without a valid table; `content`, where given, is what the fitted flash holds (R496,
log entry 38). -/
def execSfdpRead (density : Nat) (content : Option (List (Nat × List Byte))) (s : State) : Host.Outcome State Fault Refusal :=
  if !s.atStage 3 then .next s
  else
    let size := if density < 0x400000 then 0 else Nat.min density 0x2000000
    let m := match content with | some runs => flashOf runs | none => s.boot.flash
    .next ({ s with boot := { s.boot with flashSize := size, flash := m } }.stage (4 + s.boot.nvNext % 2))

/-- The field of GLB_BOOT with a slot's result. -/
def errFld (slot : Nat) : Fld := if slot = 0 then GLB_BOOT_ERR_A else GLB_BOOT_ERR_B

/-- A slot that passed is booted (R9, R503, R504). -/
def State.bootSlot (s : State) (slot : Nat) (fallback : Bool) : State :=
  let h := s.slotHeader slot
  let s := { s with boot := { s.boot with booted := some slot, image := s.slotImage slot, imageVersion := leAt h 16 4 } }
  let s := (s.setF GLB_BOOT GLB_BOOT_SLOT slot).setF GLB_BOOT GLB_BOOT_FALLBACK (b2n fallback)
  let s := (s.setF GLB_BEHAVIOUR GLB_BEHAVIOUR_LEVEL (leAt h 12 1)).setF GLB_BEHAVIOUR GLB_BEHAVIOUR_REQ (leAt h 12 1)
  (s.wr GLB_FWVER (BitVec.ofNat 32 (leAt h 20 4))).stage (if (sectionOf h 0xF0).isSome then 6 else 7)

/-- The slot that the present stage checks. -/
def State.stageSlot (s : State) : Nat := s.f GLB_BOOT GLB_BOOT_STAGE - 4

/-- SLOT_CHECK: the slot of the present stage is read and checked (R503). -/
def execSlotCheck (readErr : Bool) (s : State) : Host.Outcome State Fault Refusal :=
  if !(s.atStage 4 || s.atStage 5) then .next s
  else
    let slot := s.stageSlot
    let second := s.f GLB_BOOT (errFld (1 - slot)) != 0
    let c := s.slotCode slot readErr
    let s := (s.noteCheck slot c).setF GLB_BOOT (errFld slot) c
    if c = 1 then .next (s.bootSlot slot second)
    else if second then .next (s.bootFail 0xF0)
    else .next (s.stage (5 - slot))

/-- The bytes of a section of the booted image. -/
def State.sectionBytes (s : State) (typ : Nat) : Option (List Byte) :=
  (sectionOf s.boot.image typ).map (fun x => slice s.boot.image x.off x.len)

/-! ### FUSE_PROG (R495) -/

/-- One integrator field: its value after the section has been applied, whether it was programmed, and whether it differs. -/
def fuseField (old new : Nat) (allowed : Bool) : Nat × Bool × Bool :=
  if old = new then (old, false, false)
  else if old = 0 then (if allowed then (new, true, false) else (old, false, false))
  else (old, false, true)

/-- A table of numbers as one number, `w` bits each. -/
def packTable (w n : Nat) (t : List (Nat × Nat)) : Nat := (List.range n).foldl (fun m k => m + Sp.get (fun _ => 0) t k % 2 ^ w * 2 ^ (w * k)) 0

/-- The table that a number packs. -/
def unpackTable (w n x : Nat) : List (Nat × Nat) :=
  (List.range n).foldl (fun t k => Sp.put (fun _ => 0) t k (bits x (w * k) w)) []

/-- The integrator fuses after the section d: their values, whether a field was programmed, and whether one differs (R495).
[DEDUCED, log 67] -/
def fuseMerge (f : Fuses) (d : List Byte) : Fuses × Bool × Bool :=
  let c := fuseField (packTable 32 3 f.ceilings) (leAt d 0 12) true
  let w := fuseField (packTable 8 16 f.floors) (leAt d 12 16) true
  let k := fuseField (leNat f.keyHash) (leAt d 28 32) true
  let g := fuseField (b2n f.sigReq) (leAt d 60 1) (decide (k.1 ≠ 0))
  ({ f with ceilings := unpackTable 32 3 c.1, floors := unpackTable 8 16 w.1, keyHash := leBytes 32 k.1, sigReq := g.1 != 0 },
    c.2.1 || w.2.1 || k.2.1 || g.2.1, c.2.2 || w.2.2 || k.2.2 || g.2.2)

/-- Program the integrator fields from a section. -/
def State.fuseProgram (s : State) (d : List Byte) : State :=
  let m := fuseMerge s.boot.fuses d
  let s := { s with boot := { s.boot with fuses := m.1, shadows := m.1 } }
  let s := if m.2.1 then s.setF GLB_BOOT GLB_BOOT_FUSE_PROG 1 else s
  let s := if m.2.2 then s.setF PMU_FUSE PMU_FUSE_MISMATCH 1 else s
  let s := s.forEach (List.range 16) (fun s i =>
    s.setF (ESF_EXP_WT (i / 4)) (wtFld (i % 4)) (Nat.max (s.floor i) (s.f (ESF_EXP_WT (i / 4)) (wtFld (i % 4)))))
  s.loadLimits

/-- FUSE_PROGRAMMING: the FUSE_PROG section is applied where VIN is at least 9 V (R495). -/
def execFuseProgramming (s : State) : Host.Outcome State Fault Refusal :=
  if !s.atStage 6 then .next s
  else
    match s.sectionBytes 0xF0 with
    | none => .next (s.stage 7)
    | some d =>
      if s.pin.vinMv < 9000 then .next ((s.setF GLB_BOOT GLB_BOOT_FUSE_SKIP 1).stage 7)
      else .next ((s.fuseProgram d).stage 7)

/-! ### POWER, MBIST, LBIST -/

/-- BOOT_POWER: the domains of POWER_MASK come on in ascending order (R502). -/
def execBootPower (s : State) : Host.Outcome State Fault Refusal :=
  if !s.atStage 7 then .next s
  else
    let m := leAt s.boot.image 24 4
    let l := (List.range 20).filter (fun d => decide (2 ≤ d) && bit m d && !bit (fusedOff s.variant) d)
    .next ((s.forEach l State.domainUp).stage 8)

/-- MBIST: every memory in a domain that is on is march-tested and left cleared (R502). -/
def execMbist (pass : Bool) (s : State) : Host.Outcome State Fault Refusal :=
  if !s.atStage 8 then .next s
  else if !pass then .next (s.bootFail 0xF1)
  else .next ({ s with mem := [], hge := { s.hge with ecc := [] }, evr := { s.evr with clearing := false } }.stage 9)

/-- LBIST: the cores and the lockstep comparator are self-tested (R502). -/
def execLbist (pass : Bool) (s : State) : Host.Outcome State Fault Refusal :=
  if !s.atStage 9 then .next s else if pass then .next (s.stage 10) else .next (s.bootFail 0xF2)

/-! ### CONFIG (R500, R501) -/

/-- Count refused fields or skipped entries. -/
def State.initRej (s : State) (n : Nat) : State := s.addSat GLB_BOOT GLB_BOOT_INIT_REJ n

/-- The KEYS section. -/
def State.applyKeys (s : State) : State :=
  match s.sectionBytes 3 with
  | none => s
  | some d =>
    let s := { s with cmd := { s.cmd with keys := (List.range 4).map (fun k => slice d (8 + 32 * k) 32), keyValid := leAt d 0 1 % 16 } }
    (s.setF CMD_AUTH_CTRL CMD_AUTH_CTRL_REQ_HSPI (leAt d 1 1 % 2)).setF CMD_AUTH_CTRL CMD_AUTH_CTRL_REQ_UDP (leAt d 1 1 / 2 % 2)

/-- The offsets of the fields a command would refuse. -/
def refusedFields (l : List Check) : List Nat := (l.filter (fun c => c.bad && c.status == stBadParam)).map (·.detail)

/-- The CASCADE section. -/
def State.applyCascade (s : State) : State :=
  match s.sectionBytes 4 with
  | none => s
  | some d =>
    let bad := refusedFields (s.casChecks d)
    let v (off n : Nat) := if bad.contains off then 0 else fld d off n
    (s.casLoad (v 16 1) (v 17 1) (v 18 1) (v 19 1) (v 20 4)).initRej bad.length

/-- The PTP defaults of a port. -/
def State.applyPtp (s : State) (x : Nat) (sec : List Byte) : State :=
  let d := leBytes 2 x ++ slice sec (16 * x + 2) 14
  let bad := refusedFields (s.ptpChecks d)
  let v (off n dflt : Nat) := if bad.contains off then dflt else fld d off n
  let i (off : Nat) : Int := sx 8 (v off 1 0)
  let e : Ptp := { prio1 := v 24 1 128, prio2 := v 25 1 128, logSync := i 21, logAnnounce := i 22, logDelay := i 23, stepLimit := v 28 4 200 }
  let s := ((s.setF (TIM_TBx_STATE x) TIM_TBx_STATE_DOMAIN (v 20 1 0)).setF (TIM_TBx_STATE x) TIM_TBx_STATE_DELAY (v 18 1 0)).setF
    (TIM_TBx_STATE x) TIM_TBx_STATE_PROFILE (v 19 1 0)
  (s.setPtp x e).initRej bad.length

/-- The PTP section. -/
def State.applyPtps (s : State) : State :=
  match s.sectionBytes 5 with
  | none => s
  | some d => (s.applyPtp 0 d).applyPtp 1 d

/-- The IDENT section. [DEDUCED, log 68] -/
def State.applyIdent (s : State) : State :=
  match s.sectionBytes 6 with
  | none => s
  | some d =>
    let id := leAt d 36 2
    let s := { s with boot := { s.boot with sysName := (d.take 32).takeWhile (· != 0), oui := slice d 32 3, streamId := id } }
    if s.domOn 10 then s.setF ETHA_STRM_CFG ETHA_STRM_CFG_STREAM_ID id else s

/-- A GLB_BEHAVIOUR entry of REGINIT (R9, R500). -/
def State.initLevel (s : State) (mask v : Nat) : State :=
  let w := (s.rd GLB_BEHAVIOUR).toNat
  let level := (w - (w &&& mask) ||| (v &&& mask)) % 16
  if s.f GLB_BEHAVIOUR GLB_BEHAVIOUR_REQ ≤ level ∧ level ≤ s.boot.shadows.blMax then s.setF GLB_BEHAVIOUR GLB_BEHAVIOUR_LEVEL level
  else s.initRej 1

/-- One REGINIT entry, as REG_MODIFY; one that would be refused is skipped (R500). [DEDUCED, log 68] -/
def State.initEntry (s : State) (x : Nat × Nat × Nat) : State :=
  let (a, mask, v) := x
  if a = GLB_BEHAVIOUR then s.initLevel mask v
  else if !(s.isReg a && s.regOn a) then s.initRej 1
  else
    let (r, t) := s.hostWrite a (BitVec.ofNat 32 v) (BitVec.ofNat 32 mask)
    if r = .done then t else t.initRej 1

/-- The REGINIT entries of the image. -/
def State.initEntries (s : State) : List (Nat × Nat × Nat) :=
  match s.sectionBytes 2 with
  | none => []
  | some d => (List.range (d.length / 12)).map (fun i => (leAt d (12 * i) 4, leAt d (12 * i + 4) 4, leAt d (12 * i + 8) 4))

/-- The REGINIT section, and the copy PD01 keeps of it (R500, R501). -/
def State.applyInit (s : State) : State :=
  let l := s.initEntries
  { s with boot := { s.boot with retained := l.filter (fun x => isRetained x.1) } }.forEach l State.initEntry

/-- CONFIG_APPLY: the image is applied, quarters that are on are marked stale, HISTORY follows the NV log, and row 8 is taken
(R468, R476, R478, R500, R502). -/
def execConfigApply (s : State) : Host.Outcome State Fault Refusal :=
  if !s.atStage 10 then .next s
  else
    let s := s.applyKeys.applyCascade.applyPtps.applyIdent.applyInit
    let s := s.forEach ((List.range 10).filter (fun d => decide (2 ≤ d) && s.domOn d)) State.markStale
    let s := (s.thrTimer s.thm.hot).historyCheck
    .next ((s.stage 0x0F).goto .idle 0x10)

end Sys2Proof.Machine
end

