-- ==== Sys2Proof/Machine/Burst.lean ====
section
/-! DEFINITION. One burst of the DMA engine: which channel it serves, its beats, HALF, FULL and the ends by a refused access (R432–R436,
R439–R443, R446). -/

namespace Sys2Proof.Machine

open Reg

/-! ### Choosing a channel (R440, R442) -/

/-- Source bytes of a channel's next burst: a full burst, or what remains. -/
def State.burstLen (s : State) (c : Nat) : Nat := Nat.min (s.burstBytes c) (s.rd (DMA_CH_REMAIN c)).toNat

/-- Whether a channel is enabled and may start a burst now. -/
def State.burstReady (s : State) (c : Nat) : Bool :=
  s.dmaEn c && match s.f (DMA_CH_CFG c) DMA_CH_CFG_REQ with
    | 0 => true
    | 1 => (s.dch c).held && decide (s.burstLen c ≤ s.dma.qmon.length * 4)
    | 2 => (s.dch c).held && decide (s.burstLen c ≤ s.dma.qfilt.length * 8)
    | _ => (s.dch c).pend

/-- The channel served next: high priority first, then in turn after the one served last (R442). -/
def State.burstNext (s : State) : Option Nat :=
  let order := (List.range 16).map (fun k => (s.dma.last + 1 + k) % 16)
  let ready := order.filter s.burstReady
  match ready.find? (fun c => s.fb (DMA_CH_CFG c) DMA_CH_CFG_PRIO) with
  | some c => some c
  | none => ready.head?

/-! ### Beats -/

/-- A beat's outcome: the bytes and the state, or a refusal with its STATUS code. -/
inductive Beat where
  | ok (b : List Byte) (s : State)
  | bad (code : Nat) (s : State)

/-- Whether the state of a window refuses a DMA access now (R179, R299, R433, R446). [DEDUCED, log 94] -/
def State.dmaWinBad (s : State) (w : Win) (a n : Nat) : Bool :=
  match w with
  | .hist => s.scanning || s.histDark a n
  | .trace => s.traceBusy
  | .recorder => s.recFilling a n
  | _ => false

/-- Read a beat of registers or of a window. -/
def State.dmaRead (s : State) (c a n : Nat) : Beat :=
  match winOf a with
  | none =>
    let (ws, s) := s.readWords (.dma c) a (n / 4)
    .ok (ws.flatMap wordBytes) s
  | some w =>
    if s.dmaWinBad w (a / 4 * 4) 4 then .bad 10 s
    else if w = .hist then
      let (b, s) := s.histRead (a / 2 * 2) ((a % 2 + n + 1) / 2)
      .ok (slice b (a % 2) n) s
    else
      let (b, s) := s.winRead a n
      .ok b s

/-- Take items from the queue a channel drains, as bytes. -/
def State.dmaItem (s : State) (q : Nat) : List Byte × State :=
  if q = 1 then
    match s.dma.qmon with
    | [] => ([], s)
    | w :: t => (leBytes 4 w, { s with dma := { s.dma with qmon := t } })
  else
    match s.dma.qfilt with
    | [] => ([], s)
    | w :: t => (leBytes 8 w, { s with dma := { s.dma with qfilt := t } })

/-- Write words to registers, lowest address first; a block that refuses one ends the transfer (R446). -/
def State.dmaRegs : State → Nat → List Byte → Beat
  | s, _, [] => .ok [] s
  | s, a, b0 :: b1 :: b2 :: b3 :: t =>
    let (r, s1) := s.hostWrite a (BitVec.ofNat 32 (leNat [b0, b1, b2, b3])) (BitVec.ofNat 32 0xFFFFFFFF)
    if r = .done then State.dmaRegs s1 (a + 4) t else .bad 11 s1
  | s, _, _ => .ok [] s

/-- Write a beat to registers or to a window. -/
def State.dmaStore (s : State) (a : Nat) (b : List Byte) : Beat :=
  match winOf a with
  | none => s.dmaRegs a b
  | some w => if s.dmaWinBad w (a / 4 * 4) 4 then .bad 10 s else .ok [] (s.winWrite a b)

/-- CUR of a side for a place in its byte stream. -/
def State.dmaCur (s : State) (c j k : Nat) : State := s.wr (DMA_CH_CUR c j) (BitVec.ofNat 32 ((s.side c j).at k % 2 ^ 32).toNat)

/-- An end by a refused access: ERR_ADDR, and the rest drops (R446). [DEDUCED, log 94] -/
def State.dmaRefused (s : State) (c code a : Nat) : State :=
  (s.wr (DMA_CH_ERR_ADDR c) (BitVec.ofNat 32 a)).dmaDrop c code true

/-- Set a HALF or FULL bit; a bit already set is an overrun (R443). -/
def State.dmaMark (s : State) (c : Nat) (full : Bool) : State :=
  let f := if full then DMA_INT_STAT_FULL else DMA_INT_STAT_HALF
  let w := s.f DMA_INT_STAT f
  let s := if bit w c then s.setF DMA_INT_OVR DMA_INT_OVR_OVR (s.f DMA_INT_OVR DMA_INT_OVR_OVR ||| 2 ^ c) else s
  s.setF DMA_INT_STAT f (w ||| 2 ^ c)

/-- The destination's byte count at which HALF is set; 0 when it has a single line. -/
def State.dmaHalf (s : State) (c : Nat) : Nat :=
  let y := s.side c 1
  if y.lines < 2 then 0 else y.lines / 2 * y.len

/-- Write destination beats while the holding register holds one (R436, R443). -/
def State.dmaDrain : Nat → State → Nat → State
  | 0, s, _ => s
  | n + 1, s, c =>
    let d := s.dch c
    let y := s.side c 1
    if d.reg.length < y.width ∨ !s.dmaEn c then s
    else
      let a := (y.at d.dst).toNat
      match s.dmaStore a (d.reg.take y.width) with
      | .bad code s => s.dmaRefused c code a
      | .ok _ s =>
        let d := { d with reg := d.reg.drop y.width, dst := d.dst + y.width, moved := true }
        let s := (s.setDch c d).dmaCur c 1 d.dst
        let s := if d.dst = s.dmaHalf c then s.dmaMark c false else s
        State.dmaDrain n s c

/-- Source beats of a burst (R435, R436). -/
def State.dmaBeats : Nat → State → Nat → Nat → State
  | 0, s, _, _ => s
  | n + 1, s, c, left =>
    let x := s.side c 0
    if left = 0 ∨ !s.dmaEn c then s
    else
      let d := s.dch c
      let q := s.dmaQueue c
      let a := (x.at d.src).toNat
      let beat := if q = 0 then s.dmaRead c a x.width else (let (b, s) := s.dmaItem q; Beat.ok b s)
      match beat with
      | .bad code s => s.dmaRefused c code a
      | .ok b s =>
        let d := { d with reg := d.reg ++ b, src := d.src + x.width, moved := true }
        let s := (s.setDch c d).wr (DMA_CH_REMAIN c) (BitVec.ofNat 32 ((s.rd (DMA_CH_REMAIN c)).toNat - x.width))
        let s := if q = 0 then s.dmaCur c 0 d.src else s
        State.dmaBeats n (State.dmaDrain 16 s c) c (left - x.width)

/-- The end of a transfer or lap: FULL, and DONE or a new lap (R443). -/
def State.dmaLap (s : State) (c : Nat) : State :=
  let s := s.dmaMark c true
  if s.fb (DMA_CH_CFG c) DMA_CH_CFG_CIRC then
    let s := (s.dmaLoad c).addWrap (DMA_CH_CNT c) DMA_CH_CNT_LAPS 1
    s.setDch c { s.dch c with src := 0, dst := 0, reg := [] }
  else s.dmaDrop c 3 false

/-- The state of a channel after a burst. -/
def State.dmaAfter (s : State) (c : Nat) : State :=
  if !s.dmaEn c then s
  else
    let s := if (s.rd (DMA_CH_REMAIN c)).toNat = 0 then s.dmaLap c else s
    if s.dmaEn c then s.setF (DMA_CH_CTRL c) DMA_CH_CTRL_STATUS 1 else s

/-- Run one burst of a channel. -/
def State.dmaBurst (s : State) (c : Nat) : State :=
  let n := s.burstLen c
  let s := { s with dma := { s.dma with last := c } }
  let s := s.setF (DMA_CH_CTRL c) DMA_CH_CTRL_STATUS 2
  let s := if 3 ≤ s.f (DMA_CH_CFG c) DMA_CH_CFG_REQ then
      (s.setDch c { s.dch c with pend := false }).setF (DMA_CH_CTRL c) DMA_CH_CTRL_REQ 0 else s
  let q := s.dmaQueue c
  let s := (State.dmaBeats 256 s c n).dmaAfter c
  if q = 0 then s else s.dmaFills.watermarks q

/-- DMA_BURST: the engine runs one burst of the channel whose turn it is (R442). -/
def execDmaBurst (s : State) : Host.Outcome State Fault Refusal :=
  if !s.domOn 19 || s.boot.off then .next s
  else match s.burstNext with
    | none => .next s
    | some c => .next (s.dmaBurst c)

end Sys2Proof.Machine
end

