-- ==== Sys2Proof/Machine/Writes.lean ====
section
/-! DEFINITION. The register-write commands: a host write reaches the device by one of its access paths. A row that concerns one field
writes that field alone; the other bits of its register are not written. -/

namespace Sys2Proof.Machine

open Reg

/-- Whether a path can write a register now: HSPI outside OFF, the command processor where R54 lets REG_WRITE run, a DMA channel while
PD19 is on and its region allows a destination (R50, R54, R433). -/
def State.pathOpen (s : State) (p : Path) (a : Nat) : Bool :=
  !s.boot.off && match p with
    | .hspi => true
    | .cmd => runsCommands s.dev && s.dev != .fault
    | .dma _ => s.domOn 19 && (match blkOf a with | some b => !b.roDma | none => false)

/-- A refused direct write: WR_ERR, and an authentication failure counts (R45, R50). -/
def State.wrErr (s : State) : State := s.setF CMD_HSPI_STATUS CMD_HSPI_STATUS_WR_ERR 1

/-- A path writes the bits of a mask to a register (R45, R50, R541). -/
def State.pathModify (s : State) (p : Path) (a : Nat) (w mask : Word) : State :=
  if !s.pathOpen p a then s
  else if p = .hspi then
    if (blkOf a).isNone || a % 4 != 0 then s
    else if s.authRequired .hspi then (s.addSat CMD_ERR_COUNT CMD_ERR_COUNT_AUTH_FAIL 1).wrErr
    else
      let (r, t) := s.hostWrite a w mask
      if r = .done then t else t.wrErr
  else (s.hostWrite a w mask).2

/-- A path writes a word to a register. -/
def State.pathWrite (s : State) (p : Path) (a : Nat) (w : Word) : State := s.pathModify p a w (BitVec.ofNat 32 0xFFFFFFFF)

/-- A path writes one field of a register. -/
def State.pathField (s : State) (p : Path) (a : Nat) (f : Fld) (v : Nat) : State :=
  s.pathModify p a (f.set 0 v) (BitVec.ofNat 32 f.mask)

/-- The address of the first instance of the register at an address. -/
def baseOf (a : Nat) : Option Nat := (cardAt a).map (fun (x : Card × List Nat) => x.1.addr)

/-- A path writes a word to a register of a group, named by the first instances of its registers. -/
def State.pathWriteIn (s : State) (p : Path) (group : List Nat) (a : Nat) (w : Word) : State :=
  match baseOf a with
  | some b => if group.contains b then s.pathWrite p a w else s
  | none => s

/-- A path writes one field of a register of an array, named by its first instance. -/
def State.pathFieldIn (s : State) (p : Path) (base a : Nat) (f : Fld) (v : Nat) : State :=
  if baseOf a == some base then s.pathField p a f v else s

/-- The loop-open registers and SRV_TICK (R239). -/
def loopOpenRegs : List Nat := SRV_TICK :: loopRegs

/-- The registers that R263 protects. -/
def sequenceRegs : List Nat := [MAD_TRIG, MAD_TIMER, MAD_ENTRY0 0, MAD_ENTRY1 0, MAD_ENTRY2 0, MAD_ENTRY3 0]

/-- The configuration registers of a DMA channel (R438). -/
def dmaConfigRegs (c : Nat) : List Nat :=
  [DMA_CH_CFG c, DMA_CH_ADDR c 0, DMA_CH_LINE c 0, DMA_CH_STRIDE c 0, DMA_CH_ADDR c 1, DMA_CH_LINE c 1, DMA_CH_STRIDE c 1, DMA_CH_PACE c,
   DMA_CH_WM c]

/-- REGISTER_WRITE: a word is written to a register, under the access codes and its block's rules (R14). -/
def execRegisterWrite (path : Path) (a : Nat) (w : Word) (s : State) : Host.Outcome State Fault Refusal :=
  .next (s.pathWrite path a w)

/-- GLB_BEHAVIOUR_WRITE: a host write of the behaviour level (R9). -/
def execGlbBehaviourWrite (path : Path) (level : Nat) (s : State) : Host.Outcome State Fault Refusal :=
  .next (s.pathField path GLB_BEHAVIOUR GLB_BEHAVIOUR_LEVEL level)

/-- HOST_TRIP: a write of 1 to ESF_CTRL.TRIP (R304). -/
def execHostTrip (path : Path) (s : State) : Host.Outcome State Fault Refusal :=
  .next (s.pathField path ESF_CTRL ESF_CTRL_TRIP 1)

/-- TDC_COUNTER_CLEAR: a write of TDC_CNT_CLR.QUARTER (R97). -/
def execTdcCounterClear (path : Path) (quarters : Nat) (s : State) : Host.Outcome State Fault Refusal :=
  .next (s.pathField path TDC_CNT_CLR TDC_CNT_CLR_QUARTER quarters)

/-- FREF_MISS_CLEAR: a write of 1 to TDC_CNT_CLR.FREF (R97). -/
def execFrefMissClear (path : Path) (s : State) : Host.Outcome State Fault Refusal :=
  .next (s.pathField path TDC_CNT_CLR TDC_CNT_CLR_FREF 1)

/-- TPI_GO: a write of 1 to TDC_TPI_CTRL.GO (R104). -/
def execTpiGo (path : Path) (s : State) : Host.Outcome State Fault Refusal :=
  .next (s.pathField path TDC_TPI_CTRL TDC_TPI_CTRL_GO 1)

/-- TMB_COUNTER_CLEAR: a write of TMB_CNT_CLR.QUARTER (R128). -/
def execTmbCounterClear (path : Path) (quarters : Nat) (s : State) : Host.Outcome State Fault Refusal :=
  .next (s.pathField path TMB_CNT_CLR TMB_CNT_CLR_QUARTER quarters)

/-- FIR_COUNTER_CLEAR: a write of 1 to FIR_CNT_CLR.ALL (R132). -/
def execFirCounterClear (path : Path) (s : State) : Host.Outcome State Fault Refusal :=
  .next (s.pathField path FIR_CNT_CLR FIR_CNT_CLR_ALL 1)

/-- HGE_COUNTER_CLEAR: a write of HGE_CNT_CLR.QUARTER (R182). -/
def execHgeCounterClear (path : Path) (quarters : Nat) (s : State) : Host.Outcome State Fault Refusal :=
  .next (s.pathField path HGE_CNT_CLR HGE_CNT_CLR_QUARTER quarters)

/-- HGE_WAIT_CLEAR: a write of 1 to HGE_CNT_CLR.WAIT (R182). -/
def execHgeWaitClear (path : Path) (s : State) : Host.Outcome State Fault Refusal :=
  .next (s.pathField path HGE_CNT_CLR HGE_CNT_CLR_WAIT 1)

/-- HGE_BIN_WRITE: a write of HGE_BIN (R156). -/
def execHgeBinWrite (path : Path) (w : Word) (s : State) : Host.Outcome State Fault Refusal :=
  .next (s.pathWrite path HGE_BIN w)

/-- EXT_COUNTER_CLEAR: a write of 1 to EXT_CNT_CLR.ALL (R209). -/
def execExtCounterClear (path : Path) (s : State) : Host.Outcome State Fault Refusal :=
  .next (s.pathField path EXT_CNT_CLR EXT_CNT_CLR_ALL 1)

/-- EXT_AIR_WRITE: a write of EXT_AIR.NM1 (R183, R191). [DEDUCED, log 28] -/
def execExtAirWrite (path : Path) (nm1 : Nat) (s : State) : Host.Outcome State Fault Refusal :=
  .next (s.pathField path EXT_AIR EXT_AIR_NM1 nm1)

/-- ALC_COUNTER_CLEAR: a write of 1 to FIR_ALC_CTRL.CLR (R224). -/
def execAlcCounterClear (path : Path) (s : State) : Host.Outcome State Fault Refusal :=
  .next (s.pathField path FIR_ALC_CTRL FIR_ALC_CTRL_CLR 1)

/-- SRV_COUNTER_CLEAR: a write of 1 to SRV_STATUS.CNT_CLR (R250). -/
def execSrvCounterClear (path : Path) (s : State) : Host.Outcome State Fault Refusal :=
  .next (s.pathField path SRV_STATUS SRV_STATUS_CNT_CLR 1)

/-- LOOP_MODE_WRITE: a write of a loop's MODE (R237). -/
def execLoopModeWrite (path : Path) (x : Nat) (auto : Bool) (s : State) : Host.Outcome State Fault Refusal :=
  .next (s.pathFieldIn path (SRV_LP_CTRL 0) (SRV_LP_CTRL x) SRV_LP_CTRL_MODE (b2n auto))

/-- LOOP_MAN_WRITE: a write of a loop's manual output (R237). -/
def execLoopManWrite (path : Path) (x : Nat) (w : Word) (s : State) : Host.Outcome State Fault Refusal :=
  .next (s.pathWriteIn path [SRV_LP_MAN 0] (SRV_LP_MAN x) w)

/-- LOOP_OPEN_REGISTER_WRITE: a write of a loop-open register or SRV_TICK (R239). -/
def execLoopOpenRegisterWrite (path : Path) (a : Nat) (w : Word) (s : State) : Host.Outcome State Fault Refusal :=
  .next (s.pathWriteIn path loopOpenRegs a w)

/-- TRAJECTORY_SWAP_REQUEST: a write of 1 to SRV_LP_TRAJ.SWAP (R241). -/
def execTrajectorySwapRequest (path : Path) (x : Nat) (s : State) : Host.Outcome State Fault Refusal :=
  .next (s.pathFieldIn path (SRV_LP_TRAJ 0) (SRV_LP_TRAJ x) SRV_LP_TRAJ_SWAP 1)

/-- TRAJECTORY_WRITE: a write into a trajectory bank (R241). -/
def execTrajectoryWrite (path : Path) (m b e : Nat) (w : Word) (s : State) : Host.Outcome State Fault Refusal :=
  .next (s.pathWriteIn path [SRV_TRAJ 0 0 0] (SRV_TRAJ m b e) w)

/-- TUNE_EN_WRITE: a write of SRV_CTRL.TUNE_EN (R244). -/
def execTuneEnWrite (path : Path) (on : Bool) (s : State) : Host.Outcome State Fault Refusal :=
  .next (s.pathField path SRV_CTRL SRV_CTRL_TUNE_EN (b2n on))

/-- TRACE_ARM: a write of 1 to SRV_TRC_CTRL.ARM (R248). -/
def execTraceArm (path : Path) (s : State) : Host.Outcome State Fault Refusal :=
  .next (s.pathField path SRV_TRC_CTRL SRV_TRC_CTRL_ARM 1)

/-- TRACE_STOP: a write of 1 to SRV_TRC_CTRL.STOP (R248). -/
def execTraceStop (path : Path) (s : State) : Host.Outcome State Fault Refusal :=
  .next (s.pathField path SRV_TRC_CTRL SRV_TRC_CTRL_STOP 1)

/-- TRACE_FORCE: a write of 1 to SRV_TRC_CTRL.FORCE (R248). -/
def execTraceForce (path : Path) (s : State) : Host.Outcome State Fault Refusal :=
  .next (s.pathField path SRV_TRC_CTRL SRV_TRC_CTRL_FORCE 1)

/-- MAD_GO: a write of 1 to MAD_CTRL.GO (R262). -/
def execMadGo (path : Path) (s : State) : Host.Outcome State Fault Refusal :=
  .next (s.pathField path MAD_CTRL MAD_CTRL_GO 1)

/-- SEQ_EN_WRITE: a write of MAD_CTRL.SEQ_EN (R261). -/
def execSeqEnWrite (path : Path) (on : Bool) (s : State) : Host.Outcome State Fault Refusal :=
  .next (s.pathField path MAD_CTRL MAD_CTRL_SEQ_EN (b2n on))

/-- MAD_COUNTER_CLEAR: a write of 1 to MAD_CTRL.CNT_CLR (R272). -/
def execMadCounterClear (path : Path) (s : State) : Host.Outcome State Fault Refusal :=
  .next (s.pathField path MAD_CTRL MAD_CTRL_CNT_CLR 1)

/-- REF_EN_WRITE: a write of MAD_CTRL.REF_EN (R253). -/
def execRefEnWrite (path : Path) (on : Bool) (s : State) : Host.Outcome State Fault Refusal :=
  .next (s.pathField path MAD_CTRL MAD_CTRL_REF_EN (b2n on))

/-- INJ_GO: a write of MAD_INJ with GO = 1 (R257). -/
def execInjGo (path : Path) (w : Word) (s : State) : Host.Outcome State Fault Refusal :=
  .next (s.pathWrite path MAD_INJ (MAD_INJ_GO.set w 1))

/-- SEQUENCE_TABLE_WRITE: a write to the sequencing table, MAD_TRIG or MAD_TIMER (R263). -/
def execSequenceTableWrite (path : Path) (a : Nat) (w : Word) (s : State) : Host.Outcome State Fault Refusal :=
  .next (s.pathWriteIn path sequenceRegs a w)

/-- MFC_SYNC: a write of MFC_SYNC.SYNC (R266). -/
def execMfcSync (path : Path) (chains : Nat) (s : State) : Host.Outcome State Fault Refusal :=
  .next (s.pathField path Reg.MFC_SYNC MFC_SYNC_SYNC chains)

/-- CHAIN_ENABLE: a write of a chain's EN (R266). -/
def execChainEnable (path : Path) (c : Nat) (on : Bool) (s : State) : Host.Outcome State Fault Refusal :=
  .next (s.pathFieldIn path (MFC_CH_CTRL 0) (MFC_CH_CTRL c) MFC_CH_CTRL_EN (b2n on))

/-- CHAIN_CONFIG_WRITE: a write to a chain's configuration or coefficients (R268). -/
def execChainConfigWrite (path : Path) (a : Nat) (w : Word) (s : State) : Host.Outcome State Fault Refusal :=
  .next (s.pathWriteIn path chainRegs a w)

/-- MFC_COUNTER_CLEAR: a write of 1 to MFC_STATUS.CNT_CLR (R272). -/
def execMfcCounterClear (path : Path) (s : State) : Host.Outcome State Fault Refusal :=
  .next (s.pathField path MFC_STATUS MFC_STATUS_CNT_CLR 1)

/-- EVR_FORCE: a write of 1 to EVR_CTRL.FORCE (R285). -/
def execEvrForce (path : Path) (s : State) : Host.Outcome State Fault Refusal :=
  .next (s.pathField path EVR_CTRL EVR_CTRL_FORCE 1)

/-- EVR_COUNTER_CLEAR: a write of 1 to EVR_CTRL.CNT_CLR (R302). -/
def execEvrCounterClear (path : Path) (s : State) : Host.Outcome State Fault Refusal :=
  .next (s.pathField path EVR_CTRL EVR_CTRL_CNT_CLR 1)

/-- SEGMENT_FREE: a write of EVR_SEG_FREE (R275). -/
def execSegmentFree (path : Path) (segs : Nat) (s : State) : Host.Outcome State Fault Refusal :=
  .next (s.pathField path EVR_SEG_FREE EVR_SEG_FREE_FREE segs)

/-- MASK_CONFIG_WRITE: a write of a mask's source, envelope or configuration (R293, R296). -/
def execMaskConfigWrite (path : Path) (a : Nat) (w : Word) (s : State) : Host.Outcome State Fault Refusal :=
  .next (s.pathWriteIn path [EVR_MSK_CFG 0, EVR_MSK_SRC 0, EVR_MSK_ENV 0 0] a w)

/-- PORT_ENABLE: a write of 1 to ETHx_CTRL.EN (R351). -/
def execPortEnable (path : Path) (port : Port) (s : State) : Host.Outcome State Fault Refusal :=
  .next (s.pathFieldIn path (ETHx_CTRL 0) (ETHx_CTRL (portIx port)) ETHx_CTRL_EN 1)

/-- PORT_DISABLE: a write of 0 to ETHx_CTRL.EN (R365). -/
def execPortDisable (path : Path) (port : Port) (s : State) : Host.Outcome State Fault Refusal :=
  .next (s.pathFieldIn path (ETHx_CTRL 0) (ETHx_CTRL (portIx port)) ETHx_CTRL_EN 0)

/-- PORT_MODE_WRITE: a write of the line mode (R343). -/
def execPortModeWrite (path : Path) (port : Port) (mode : Nat) (s : State) : Host.Outcome State Fault Refusal :=
  .next (s.pathFieldIn path (ETHx_CTRL 0) (ETHx_CTRL (portIx port)) ETHx_CTRL_MODE mode)

/-- PORT_SETTINGS_WRITE: a write to the k-th of a port's address, MTU, VLAN and UDP registers (R351). -/
def execPortSettingsWrite (path : Path) (port : Port) (k : Nat) (w : Word) (s : State) : Host.Outcome State Fault Refusal :=
  .next (match (portSettings (portIx port))[k]? with
    | some a => s.pathWrite path a w
    | none => s)

/-- CBS_WRITE: a write of the credit-based shaper (R350). -/
def execCbsWrite (path : Path) (port : Port) (w : Word) (s : State) : Host.Outcome State Fault Refusal :=
  .next (s.pathWriteIn path [ETHx_CBS 0] (ETHx_CBS (portIx port)) w)

/-- PORT_COUNTER_CLEAR: a write of 1 to ETHx_CNT_CLR.ALL (R368). -/
def execPortCounterClear (path : Path) (port : Port) (s : State) : Host.Outcome State Fault Refusal :=
  .next (s.pathFieldIn path (ETHx_CNT_CLR 0) (ETHx_CNT_CLR (portIx port)) ETHx_CNT_CLR_ALL 1)

/-- STREAM_COUNTER_CLEAR: a write of 1 to ETHA_CNT_CLR.STRM (R368). -/
def execStreamCounterClear (path : Path) (s : State) : Host.Outcome State Fault Refusal :=
  .next (s.pathFieldIn path (ETHx_CNT_CLR 0) (ETHx_CNT_CLR 0) ETHx_CNT_CLR_STRM 1)

/-- TIM_COUNTER_CLEAR: a write of 1 to TIM_STATUS.CNT_CLR (R390). -/
def execTimCounterClear (path : Path) (s : State) : Host.Outcome State Fault Refusal :=
  .next (s.pathField path TIM_STATUS TIM_STATUS_CNT_CLR 1)

/-- TIMED_OUTPUT_ENABLE: a write of TIM_EVOUT_CFG with EN = 1 (R389). -/
def execTimedOutputEnable (path : Path) (k : Nat) (w : Word) (s : State) : Host.Outcome State Fault Refusal :=
  .next (s.pathWriteIn path [TIM_EVOUT_CFG 0] (TIM_EVOUT_CFG k) (TIM_EVOUT_CFG_EN.set w 1))

/-- LINK_ENABLE_WRITE: a write of WFL_CTRL.EN (R398). -/
def execLinkEnableWrite (path : Path) (l : Nat) (on : Bool) (s : State) : Host.Outcome State Fault Refusal :=
  .next (s.pathFieldIn path (WFL_CTRL 0) (WFL_CTRL l) WFL_CTRL_EN (b2n on))

/-- LINK_ERROR_INJECT: a write of WFL_TEST.INJ (R423). -/
def execLinkErrorInject (path : Path) (l lanes : Nat) (s : State) : Host.Outcome State Fault Refusal :=
  .next (s.pathFieldIn path (WFL_TEST 0) (WFL_TEST l) WFL_TEST_INJ lanes)

/-- WFL_COUNTER_CLEAR: a write of 1 to WFL_CNT_CLR.ALL (R431). -/
def execWflCounterClear (path : Path) (l : Nat) (s : State) : Host.Outcome State Fault Refusal :=
  .next (s.pathFieldIn path (WFL_CNT_CLR 0) (WFL_CNT_CLR l) WFL_CNT_CLR_ALL 1)

/-- HNG_COUNTER_CLEAR: a write of 1 to HNG_CNT_CLR.ALL (R431). -/
def execHngCounterClear (path : Path) (s : State) : Host.Outcome State Fault Refusal :=
  .next (s.pathField path HNG_CNT_CLR HNG_CNT_CLR_ALL 1)

/-- TAP_ENABLE: a write of HNG_TAP_CTRL.EN (R425). -/
def execTapEnable (path : Path) (on : Bool) (s : State) : Host.Outcome State Fault Refusal :=
  .next (s.pathField path HNG_TAP_CTRL HNG_TAP_CTRL_EN (b2n on))

/-- DMA_CHANNEL_ENABLE: a write of 1 to DMA_CH_CTRL.EN (R437). -/
def execDmaChannelEnable (path : Path) (c : Nat) (s : State) : Host.Outcome State Fault Refusal :=
  .next (s.pathFieldIn path (DMA_CH_CTRL 0) (DMA_CH_CTRL c) DMA_CH_CTRL_EN 1)

/-- DMA_CHANNEL_DISABLE: a write of 0 to DMA_CH_CTRL.EN (R445). -/
def execDmaChannelDisable (path : Path) (c : Nat) (s : State) : Host.Outcome State Fault Refusal :=
  .next (s.pathFieldIn path (DMA_CH_CTRL 0) (DMA_CH_CTRL c) DMA_CH_CTRL_EN 0)

/-- DMA_CONFIG_WRITE: a write to the k-th configuration register of a channel (R438). -/
def execDmaConfigWrite (path : Path) (c k : Nat) (w : Word) (s : State) : Host.Outcome State Fault Refusal :=
  .next (match (dmaConfigRegs c)[k]? with
    | some a => s.pathWrite path a w
    | none => s)

/-- FLUSH_MON: a write of 1 to DMA_Q_CTRL.FLUSH_MON (R448). -/
def execFlushMon (path : Path) (s : State) : Host.Outcome State Fault Refusal :=
  .next (s.pathField path DMA_Q_CTRL DMA_Q_CTRL_FLUSH_MON 1)

/-- FLUSH_QFILT: a write of 1 to DMA_Q_CTRL.FLUSH_QFILT (R448). -/
def execFlushQfilt (path : Path) (s : State) : Host.Outcome State Fault Refusal :=
  .next (s.pathField path DMA_Q_CTRL DMA_Q_CTRL_FLUSH_QFILT 1)

/-- DMA_COUNTER_CLEAR: a write of 1 to DMA_Q_CTRL.CNT_CLR (R449). -/
def execDmaCounterClear (path : Path) (s : State) : Host.Outcome State Fault Refusal :=
  .next (s.pathField path DMA_Q_CTRL DMA_Q_CTRL_CNT_CLR 1)

/-- QFILT_ENABLE: a write of DMA_QFILT_CFG.EN (R434). -/
def execQfiltEnable (path : Path) (on : Bool) (s : State) : Host.Outcome State Fault Refusal :=
  .next (s.pathField path DMA_QFILT_CFG DMA_QFILT_CFG_EN (b2n on))

/-- CAL_COUNTER_CLEAR: a write of 1 to CAL_POLICY.CNT_CLR (R484). -/
def execCalCounterClear (path : Path) (s : State) : Host.Outcome State Fault Refusal :=
  .next (s.pathField path CAL_POLICY CAL_POLICY_CNT_CLR 1)

/-- THM_COUNTER_CLEAR: a write of 1 to THM_STATE.CNT_CLR (R484). -/
def execThmCounterClear (path : Path) (s : State) : Host.Outcome State Fault Refusal :=
  .next (s.pathField path THM_STATE THM_STATE_CNT_CLR 1)

/-- BOOT_NEXT_WRITE: a write of PMU_BOOT.NEXT (R509). -/
def execBootNextWrite (path : Path) (slot : Nat) (s : State) : Host.Outcome State Fault Refusal :=
  .next (s.pathField path PMU_BOOT PMU_BOOT_NEXT slot)

/-- EXPOSURE_WEIGHT_WRITE: a write of four segment weights (R324). -/
def execExposureWeightWrite (path : Path) (j : Nat) (w : Word) (s : State) : Host.Outcome State Fault Refusal :=
  .next (s.pathWriteIn path [ESF_EXP_WT 0] (ESF_EXP_WT j) w)

/-- PD00_WRITE: a host write to a register held in PD00 completes (R32). -/
def execPd00Write (path : Path) (a : Nat) (w : Word) (s : State) : Host.Outcome State Fault Refusal :=
  .next (if domainOf a == some 0 then s.pathWrite path a w else s)

end Sys2Proof.Machine
end

