-- ==== Sys2Proof/Machine/Command.lean ====
section
/-! DEFINITION. The command processor's own opcodes: identity, state, dumps, sessions, faults, events, registers and windows (R43, R53, R56–R60,
R66, R69, R74–R77, R176, R535–R542). -/

namespace Sys2Proof.Machine

open Reg

/-! ### Identity, state, sessions, events -/

/-- The 32 bytes of GET_IDENTITY (R56). -/
def State.identity (s : State) : List Byte :=
  let f := s.boot.shadows
  let slot := match s.boot.booted with | some b => b | none => 0xFF
  leBytes 1 f.variant ++ leBytes 1 f.revision ++ leBytes 1 f.blMax ++ leBytes 1 (s.f GLB_BEHAVIOUR GLB_BEHAVIOUR_LEVEL)
    ++ leBytes 8 f.serial ++ wordBytes (s.rd GLB_FWVER) ++ leBytes 4 (if s.boot.booted.isSome then s.boot.imageVersion else 0)
    ++ leBytes 1 slot ++ leBytes 1 s.index ++ [0x01, 0x00] ++ wordBytes (s.rd GLB_BOOT) ++ zeros 4

/-- GET_IDENTITY (R56). -/
def execGetIdentity (q : Req) (p : List Byte) (s : State) : Host.Outcome State Fault Refusal :=
  .next (s.fixed q 0x0100 p 0 (fun _ => []) (fun s => s.replyOk q 0x0100 s.identity))

/-- GET_STATE (R56). -/
def execGetState (q : Req) (p : List Byte) (s : State) : Host.Outcome State Fault Refusal :=
  .next (s.fixed q 0x0101 p 0 (fun _ => []) (fun s =>
    s.replyOk q 0x0101 (wordBytes (s.rd GLB_STATE) ++ wordBytes s.condWord ++ leBytes 8 s.tbl)))

/-- Open a session with a fresh nonce; the reply still belongs to the session of its request (R36, R43). [DESIGN CHOICE, log 3] -/
def State.openSession (s : State) (q : Req) : State :=
  let nonce := Config.nonce s.draws
  (s.drawn.replyOk q 0x0103 (leBytes 8 nonce.toNat)).setSession q.via (some { nonce := nonce })

/-- AUTH_SESSION (R43, R56). -/
def execAuthSession (q : Req) (p : List Byte) (s : State) : Host.Outcome State Fault Refusal :=
  .next (s.fixed q 0x0103 p 0 (fun _ => []) (fun s => s.openSession q))

/-- The UDP event destination that a request's sender is. -/
def destOf : Via → Option (Port × Ip × Nat × Nat)
  | .hspi => none
  | .udp p src sport dport => some (p, src, sport, dport)

/-- EVENT_MASK (R58, R61, R63). -/
def execEventMask (q : Req) (p : List Byte) (s : State) : Host.Outcome State Fault Refusal :=
  let mask := fld p 16 4
  let dest := fld p 20 1
  .next (s.fixed q 0x0106 p 8
    (fun _ => [par (decide (1024 ≤ mask)) 16, par (decide (2 < dest) || (dest == 1 && q.via == .hspi)) 20, par (firstNonZero p 21 3) 21])
    (fun s =>
      let old := s.f CMD_EVT_MASK CMD_EVT_MASK_ENABLE
      let dst := if dest = 0 then none else if dest = 1 then destOf q.via else s.cmd.dest
      let s := { s with cmd := { s.cmd with dest := dst } }
      (s.setF CMD_EVT_MASK CMD_EVT_MASK_ENABLE (mask ||| 6)).replyOk q 0x0106 (leBytes 4 old)))

/-! ### FAULT_CLEAR (R66 row 22, R69, R176) -/

/-- Row 22: FAULT clears at the same instant (R307). -/
def State.faultLeave (s : State) (q : Req) : State := ((s.goto .idle 0x70).unlatch [15]).reply q 0x0105 stOk 0

/-- The quarters marked in MM_FAULT or MM_PEND. -/
def State.mmQuarters (s : State) : List Nat := bitsSet 4 (s.f HGE_STATUS HGE_STATUS_MM_FAULT ||| s.f HGE_STATUS HGE_STATUS_MM_PEND)

/-- The march test of the marked quarters, `failed` naming those that do not pass (R176). -/
def State.faultMarch (s : State) (q : Req) (failed : Nat) : State :=
  let qs := s.mmQuarters
  let s := s.forEach qs (fun s k => s.quarterTested k (bit failed k))
  if qs.any (bit failed) then s.reply q 0x0105 stRefused 0
  else ((s.setF HGE_STATUS HGE_STATUS_MM_FAULT 0).setF HGE_STATUS HGE_STATUS_MM_PEND 0).faultLeave q

/-- FAULT_CLEAR; `failed` is the outcome of the march test it may run (R66, R69, R176). -/
def execFaultClear (q : Req) (p : List Byte) (failed : Nat) (s : State) : Host.Outcome State Fault Refusal :=
  .next (s.fixed q 0x0105 p 0 (fun _ => []) (fun s =>
    let cause := s.f GLB_STATE GLB_STATE_CAUSE
    if s.dev ≠ .fault then s.reply q 0x0105 stRefused 0
    else if cause = 0x22 then s.faultLeave q
    else if cause = 0x63 then (if s.pllT && s.pllC then s.faultLeave q else s.reply q 0x0105 stRefused 0)
    else if cause = 0x62 then s.faultMarch q failed
    else s.reply q 0x0105 stRefused 0))

/-! ### Registers (R53, R59, R538–R542) -/

/-- Whether an address is one a register command accepts, and its access of n words ends in the same span (R538). -/
def regChecks (a n : Nat) : List Check :=
  let past := match blkOf a with | some b => decide (b.span.2 < a + 4 * n) | none => true
  [par (decide (a % 4 ≠ 0)) 16, par (blkOf a).isNone 16, par (decide (n = 0 ∨ 256 < n)) 20, par past 20]

/-- REG_READ (R53, R59). -/
def execRegRead (q : Req) (p : List Byte) (s : State) : Host.Outcome State Fault Refusal :=
  .next (s.fixed q 0x0200 p 8 (fun _ => regChecks (fld p 16 4) (fld p 20 4)) (fun s =>
    let (ws, s) := s.readWords .cmd (fld p 16 4) (fld p 20 4)
    s.replyOk q 0x0200 (ws.flatMap wordBytes)))

/-- The writes of a register command: address, value and mask of each word. -/
def regWords (a : Nat) (mask : Word) (ws : List Word) : List (Nat × Word × Word) :=
  (List.range ws.length).map (fun i => (a + 4 * i, ws.getD i 0, mask))

/-- Make register writes in order, up to one that is refused with a status of its own. -/
def State.writeAll : State → List (Nat × Word × Word) → WrRes × State
  | s, [] => (.done, s)
  | s, x :: l =>
    match s.hostWrite x.1 x.2.1 x.2.2 with
    | (.coef, _) => (.coef, s)
    | (.busy, _) => (.busy, s)
    | (_, t) => State.writeAll t l

/-- How a register command takes its writes as a whole: each is tested against the state before the command, and as its turn comes
(R239, R268). [DEDUCED, log 54] -/
def State.writeTest (s : State) (l : List (Nat × Word × Word)) : WrRes × State :=
  if l.any (fun x => (s.hostWrite x.1 x.2.1 x.2.2).1 == .coef) then (.coef, s)
  else if l.any (fun x => (s.hostWrite x.1 x.2.1 x.2.2).1 == .busy) then (.busy, s)
  else s.writeAll l

/-- Make the writes of REG_WRITE or REG_MODIFY and answer with the data of the state after (R53, R239, R268, R540). [DEDUCED, log 54] -/
def State.writeRegs (s : State) (q : Req) (opc : Nat) (l : List (Nat × Word × Word)) (data : State → List Byte) : State :=
  if l.any (fun x => s.regDark x.1) then s.reply q opc stRefused 16
  else
    match s.writeTest l with
    | (.coef, _) => (s.setF SRV_STATUS SRV_STATUS_COEF_REJ 1).reply q opc stLoopClosed 0
    | (.busy, _) => (s.setF MFC_STATUS MFC_STATUS_COEF_REJ 1).reply q opc stBusy 0
    | (_, t) => t.replyOk q opc (data t)

/-- REG_WRITE (R53, R59). -/
def execRegWrite (q : Req) (p : List Byte) (s : State) : Host.Outcome State Fault Refusal :=
  let a := fld p 16 4
  let n := fld p 20 4
  .next (s.command q 0x0201 p (fun s =>
    if p.length < 8 ∨ p.length ≠ 8 + 4 * n then s.badLength q 0x0201
    else
      match firstBad (regChecks a n) with
      | some c => s.reply q 0x0201 c.status c.detail
      | none =>
        let ws := (List.range n).map (fun i => BitVec.ofNat 32 (fld p (24 + 4 * i) 4))
        s.writeRegs q 0x0201 (regWords a (BitVec.ofNat 32 0xFFFFFFFF) ws) (fun _ => [])))

/-- REG_MODIFY (R53, R59). -/
def execRegModify (q : Req) (p : List Byte) (s : State) : Host.Outcome State Fault Refusal :=
  let a := fld p 16 4
  .next (s.fixed q 0x0202 p 12 (fun _ => regChecks a 1) (fun s =>
    s.writeRegs q 0x0202 [(a, BitVec.ofNat 32 (fld p 24 4), BitVec.ofNat 32 (fld p 20 4))]
      (fun t => wordBytes (t.peek (t.shadow .cmd) a))))

/-! ### Windows (R60, R536–R542) -/

/-- Whether a length of MEM_READ is none the rule allows. -/
def lenBad (n : Nat) : Bool := n == 0 || decide (8064 < n) || n % 4 != 0

/-- The checks of MEM_READ (R60, R538, R542). -/
def State.memReadChecks (s : State) (a n : Nat) : List Check :=
  [par (decide (a % 4 ≠ 0)) 16, par (winOf a).isNone 16, par (lenBad n) 20] ++ spanChecks a n 20
    ++ (match winOf a with | some (.remote m) => s.remoteChecks m | _ => s.readChecks a n)

/-- MEM_READ (R60); one of a member's window is answered once the member has (R421). -/
def execMemRead (q : Req) (p : List Byte) (s : State) : Host.Outcome State Fault Refusal :=
  let a := fld p 16 4
  let n := fld p 20 4
  .next (s.fixed q 0x0203 p 8 (fun s => s.memReadChecks a n) (fun s =>
    match winOf a with
    | some (.remote m) => s.remoteRead q m (a - (0x40000000 + m * 0x02000000)) n
    | _ =>
      let (b, s) := s.winRead a n
      s.replyOk q 0x0203 b))

/-- MEM_WRITE (R60). -/
def execMemWrite (q : Req) (p : List Byte) (s : State) : Host.Outcome State Fault Refusal :=
  let a := fld p 16 4
  let n := p.length - 4
  .next (s.command q 0x0204 p (fun s =>
    if p.length < 4 ∨ lenBad n then s.badLength q 0x0204
    else
      match firstBad (spanChecks a n 20 ++ s.writeChecks a n) with
      | some c => s.reply q 0x0204 c.status c.detail
      | none => (s.winWrite a (p.drop 4)).reply q 0x0204 stOk 0))

/-! ### STATE_DUMP (R57, R74–R77) -/

/-- A dump section: id, base address, flags, body. -/
structure DumpSec where
  id : Nat
  base : Nat
  flags : Nat
  body : List Byte
  deriving DecidableEq, Repr

/-- A section version, which the spec does not state: a value fixed for the device. [DESIGN CHOICE, log 72] -/
def secVersion (id : Nat) : Nat := (Config.openValue (0xD0000000 + id) 0).toNat % 65536

/-- The bytes of a section (R77). -/
def DumpSec.bytes (x : DumpSec) : List Byte :=
  leBytes 2 x.id ++ leBytes 2 (secVersion x.id) ++ leBytes 4 x.base ++ leBytes 4 x.body.length ++ leBytes 4 x.flags ++ x.body

/-- The word addresses of a block. -/
def blkWords (b : Blk) : List Nat := (List.range ((b.span.2 - b.span.1) / 4)).map (fun i => b.span.1 + 4 * i)

/-- The section of a register block: every word of its span, 0 where its domain is off (R77, R535). -/
def State.blkSection (s : State) (i : Nat) (b : Blk) : DumpSec :=
  let fused := b == .ZON && !s.isMS
  let off := (blkWords b).all (fun a => match domainOf a with
    | some 0 => false
    | some 1 => !s.coreOn
    | some d => !s.domOn d
    | none => true)
  { id := i + 1, base := b.span.1, flags := b2n off + 2 * b2n fused, body := (blkWords b).flatMap (fun a => wordBytes (s.peek {} a)) }

/-- The section of a window that lies in one domain. -/
def State.winSection (s : State) (id a n d : Nat) : DumpSec :=
  { id := id, base := a, flags := b2n (!s.domOn d), body := if s.domOn d then s.bytes a n else zeros n }

/-- A base address that the spec does not state: a value fixed for the device. [DESIGN CHOICE, log 72] -/
def secBase (id : Nat) : Nat := (Config.openValue (0xD1000000 + id) 0).toNat % 2 ^ 32

/-- The body of the command-processor section, whose layout the spec does not state: free values. -/
def State.cmdBody (s : State) : List Byte :=
  let n := (Config.openValue 0xD2000000 s.draws).toNat % 65536
  (List.range n).map (fun i => BitVec.ofNat 8 (Config.openValue (0xD2000001 + i) s.draws).toNat)

/-- A word of the retained calibration set, 0 where none is held. -/
def State.keptWord (s : State) (a : Nat) : List Byte := wordBytes ((Sp.find s.cal.kept a).getD 0)

/-- The body of the retained calibration set (R77, R469). -/
def State.calBody (s : State) : List Byte :=
  (List.range 512).flatMap (fun n =>
      s.keptWord (RFE_TRIM n) ++ s.keptWord (RFE_SKEW n) ++ leBytes 4 (ux 32 (Sp.get (fun _ => 0) s.cal.keptD n)))
    ++ (List.range 128).flatMap (fun g =>
      (List.range 16).flatMap (fun j => s.keptWord (TDC_CD g j)) ++ (List.range 16).flatMap (fun j => s.keptWord (TDC_WALK g j)))

/-- The sections of a dump in their order (R77). -/
def State.dumpSections (s : State) : List DumpSec :=
  (List.range 24).map (fun i => s.blkSection i (Blk.all.getD i .GLB))
    ++ [s.winSection 0x100 warpActive 0x10000 11, s.winSection 0x101 warpStaging 0x10000 11]
    ++ (if s.isMS then [s.winSection 0x102 0x02000000 0x20000 10] else [])
    ++ [{ id := 0x110, base := secBase 0x110, flags := 0, body := s.cmdBody },
        { id := 0x120, base := secBase 0x120, flags := 0, body := (List.range 128).flatMap s.nvSlot }]
    ++ (if s.f GLB_BEHAVIOUR GLB_BEHAVIOUR_LEVEL = 2 then
          [{ id := 0x121, base := secBase 0x121, flags := 4 * b2n s.cal.empty, body := s.calBody }] else [])

/-- The 64-byte header of a dump whose sections take a number of bytes (R76). -/
def State.dumpHeader (s : State) (id count len : Nat) : List Byte :=
  let (tbl, tbs, glb) := s.cmd.dumpStart
  let level := s.f GLB_BEHAVIOUR GLB_BEHAVIOUR_LEVEL
  leBytes 4 0x44535244 ++ leBytes 2 level ++ leBytes 1 level ++ leBytes 1 s.variant ++ leBytes 4 id ++ leBytes 4 (64 + len + 4)
    ++ leBytes 2 count ++ leBytes 1 (glb % 16) ++ leBytes 1 (glb / 2 ^ 16 % 256) ++ leBytes 8 tbl ++ leBytes 8 s.tbl ++ leBytes 8 tbs
    ++ leBytes 8 s.boot.shadows.serial ++ zeros 12

/-- The bytes of a dump taken now (R76). -/
def State.dumpBytes (s : State) (id : Nat) : List Byte :=
  let secs := s.dumpSections
  let body := secs.flatMap DumpSec.bytes
  let all := s.dumpHeader id secs.length body.length ++ body
  all ++ leBytes 4 (crc32c all)

/-- The CAPTURE function. [DEDUCED, log 73] -/
def State.dumpCapture (s : State) (q : Req) : State :=
  if s.jobOf 0x0102 then s.reply q 0x0102 stBusy 0
  else
    let s := { s with cmd := { s.cmd with dumpStart := (s.tbl, s.tbs, (s.rd GLB_STATE).toNat) } }
    (s.addJob { req := q, opc := 0x0102 }).reply q 0x0102 stDeferred 0

/-- The checks of the READ function (R57). -/
def State.dumpChecks (s : State) (p : List Byte) : List Check :=
  let len := match s.cmd.dump with | some d => d.length | none => 0
  let off := fld p 24 4
  let n := fld p 28 4
  [ par (s.cmd.dump.isNone || fld p 20 4 != s.cmd.dumpId) 20, par (off % 4 != 0 || decide (len ≤ off)) 24,
    par (n == 0 || decide (8064 < n) || decide (len < off + n)) 28 ]

/-- The READ function. -/
def State.dumpRead (s : State) (q : Req) (p : List Byte) : State :=
  match firstBad (s.dumpChecks p) with
  | some c => s.reply q 0x0102 c.status c.detail
  | none => s.replyOk q 0x0102 (slice (s.cmd.dump.getD []) (fld p 24 4) (fld p 28 4))

/-- STATE_DUMP after the checks of R38: FUNCTION names capture or read (R57). -/
def State.stateDump (s : State) (q : Req) (p : List Byte) : State :=
  let f := fld p 16 1
  s.command q 0x0102 p (fun s =>
    if p.length = 0 then s.badLength q 0x0102
    else if 1 < f then s.badParam q 0x0102 16
    else if p.length ≠ (if f = 0 then 4 else 16) then s.badLength q 0x0102
    else if firstNonZero p 17 3 then s.badParam q 0x0102 17
    else if f = 0 then s.dumpCapture q else s.dumpRead q p)

/-- STATE_DUMP_CAPTURE (R57, R74). -/
def execStateDumpCapture (q : Req) (p : List Byte) (s : State) : Host.Outcome State Fault Refusal := .next (s.stateDump q p)

/-- STATE_DUMP_READ (R57). -/
def execStateDumpRead (q : Req) (p : List Byte) (s : State) : Host.Outcome State Fault Refusal := .next (s.stateDump q p)

/-- STATE_DUMP_CAPTURE_DONE: the capture ends and replaces the previous dump (R57, R74–R77). -/
def execStateDumpCaptureDone (s : State) : Host.Outcome State Fault Refusal :=
  if !s.jobOf 0x0102 then .next s
  else
    let id := s.cmd.dumpId + 1
    let d := s.dumpBytes id
    let s := { s.drawn with cmd := { s.cmd with dumpId := id, dump := some d } }
    .next (s.finishJobs 0x0102 stOk 0 (leBytes 4 id ++ leBytes 4 d.length ++ leBytes 4 (crc32c (d.take (d.length - 4)))))

/-! ### HSPI transactions (R46–R51) -/

/-- The two status bytes that every transaction returns first (R46). -/
def State.statusBytes (s : State) : List Byte :=
  let w := (s.live s.cmd.shHspi CMD_HSPI_STATUS).toNat
  [BitVec.ofNat 8 w, BitVec.ofNat 8 (w / 256)]

/-- The state after a transaction that returned the status bytes of the state before it and some more. -/
def State.sayMiso (s s0 : State) (data : List Byte) : State := { s with cmd := { s.cmd with miso := s0.statusBytes ++ data } }

/-- The packet being received is discarded. [DEDUCED, log 52] -/
def State.rxDiscard (s : State) : State :=
  let held := if s.cmd.rxHeld = 0 then 0 else (s.cmd.rxq.map List.length).foldl (· + ·) 0
  { s with cmd := { s.cmd with rx := [], rxHeld := held } }.addSat CMD_ERR_COUNT CMD_ERR_COUNT_HSPI_OVR 1

/-- Bytes enter the receive FIFO; a packet that is whole may go to the queue. [DEDUCED, log 52] -/
def State.rxTake (s : State) (b : List Byte) : State :=
  let held := if 8 ≤ s.cmd.queue.length then s.cmd.rxHeld + b.length else s.cmd.rxHeld
  let rx := s.cmd.rx ++ b
  if rxWhole rx then { s with cmd := { s.cmd with rx := [], rxq := s.cmd.rxq ++ [rx], rxHeld := held } }.rxDrain
  else { s with cmd := { s.cmd with rx := rx, rxHeld := held } }

/-- CMD_WRITE: packet bytes come over HSPI; `midByte` when CS_N rises within a byte (R47). -/
def execCmdWrite (bytes : List Byte) (midByte : Bool) (s : State) : Host.Outcome State Fault Refusal :=
  if s.boot.off || !s.coreOn then .next s
  else
    let t := s.sayMiso s []
    if bytes.isEmpty && !midByte then .next t
    else
      let ovr := decide (s.rxFree < bytes.length)
      let t := if ovr then t.setF CMD_HSPI_STATUS CMD_HSPI_STATUS_OVR 1 else t
      let t := if midByte then t.setF CMD_HSPI_STATUS CMD_HSPI_STATUS_FRAME_ERR 1 else t
      .next (if ovr || midByte then t.rxDiscard else t.rxTake bytes)

/-- REPLY_READ: the reply at the head is presented, and consumed once its last byte is clocked out (R46, R48). -/
def execReplyRead (complete : Bool) (s : State) : Host.Outcome State Fault Refusal :=
  if s.boot.off then .next s
  else
    match s.cmd.replies with
    | [] => .next (s.sayMiso s [0x5A])
    | r :: rest =>
      let t := s.sayMiso s (0xA5 :: r.bytes)
      .next (if complete then { t with cmd := { t.cmd with replies := rest } } else t)

/-- ALERT_READ: as REPLY_READ, of the ALERT queue, whose last event releases IRQ_N[0] (R46, R48, R61). -/
def execAlertRead (complete : Bool) (s : State) : Host.Outcome State Fault Refusal :=
  if s.boot.off then .next s
  else
    match s.cmd.alerts with
    | [] => .next (s.sayMiso s [0x5A])
    | e :: rest =>
      let t := s.sayMiso s (0xA5 :: e.bytes)
      .next (if complete then { t with cmd := { t.cmd with alerts := rest }, pin := { t.pin with irq0 := !rest.isEmpty } } else t)

/-- NOTICE_READ: as REPLY_READ, of the NOTICE queue, whose last event releases IRQ_N[1] (R46, R48, R61). -/
def execNoticeRead (complete : Bool) (s : State) : Host.Outcome State Fault Refusal :=
  if s.boot.off then .next s
  else
    match s.cmd.notices with
    | [] => .next (s.sayMiso s [0x5A])
    | e :: rest =>
      let t := s.sayMiso s (0xA5 :: e.bytes)
      .next (if complete then { t with cmd := { t.cmd with notices := rest }, pin := { t.pin with irq1 := !rest.isEmpty } } else t)

/-- Whether REG_RD serves a register in the present state: in BOOT only GLB and PD00 (R49, R51). -/
def State.rdServed (s : State) (a : Nat) : Bool :=
  s.regOn a && (s.dev != .boot || blkOf a == some .GLB || domainOf a == some 0)

/-- REG_RD: data and a result byte (R46, R49, R51, R541). [DEDUCED, log 56] -/
def execRegRd (a : Nat) (s : State) : Host.Outcome State Fault Refusal :=
  if s.boot.off then .next s
  else if a % 4 ≠ 0 ∨ (blkOf a).isNone then .next (s.sayMiso s (0xA5 :: zeros 4 ++ [0x02]))
  else if (s.isReg a || s.dev == .boot) && !s.rdServed a then .next (s.sayMiso s (0xA5 :: zeros 4 ++ [0x01]))
  else
    let (w, t) := s.readWord .hspi a
    .next (t.sayMiso s (0xA5 :: wordBytes w ++ [0x00]))

/-- REG_WR: a posted write (R50, R541). [DEDUCED, log 56] -/
def execRegWr (a : Nat) (w : Word) (s : State) : Host.Outcome State Fault Refusal :=
  if s.boot.off then .next s else .next ((s.pathWrite .hspi a w).sayMiso s [])

/-- HSPI_STATUS_READ: CMD_HSPI_STATUS as 4 bytes (R46). -/
def execHspiStatusRead (s : State) : Host.Outcome State Fault Refusal :=
  if s.boot.off then .next s
  else .next (s.sayMiso s (wordBytes (s.peek s.cmd.shHspi CMD_HSPI_STATUS)))

end Sys2Proof.Machine
end

