-- ==== Sys2Proof/Machine/Frame.lean ====
section
/-! DEFINITION. The output of a column and the end of a frame, with what the frame gap starts (R143, R207, R218, R360, R412, R413, R417,
R460). -/

namespace Sys2Proof.Machine

open Reg

/-- Whether no column is being fired, awaiting extraction or on its way out. -/
def State.drained (s : State) : Bool :=
  s.fir.column.isNone && s.fir.closing.isEmpty && s.hge.descs.isEmpty && s.ext.busy.isNone && s.ext.out.isEmpty

/-- The last-column registers and counters, at one instant (R193, R207). -/
def State.lastColumn (s : State) (o : OutCol) : State :=
  let n := o.records.length
  let seq := s.f EXT_LAST_COL EXT_LAST_COL_SEQ + 1
  let s := ((s.setF EXT_LAST_COL EXT_LAST_COL_SEQ seq).setF EXT_LAST_COL EXT_LAST_COL_RECORDS n).setF EXT_LAST_COL
    EXT_LAST_COL_COLUMN o.column
  let s := s.wr EXT_LAST_FRAME (BitVec.ofNat 32 o.frame)
  let s := (s.setF EXT_LAST_COLQ EXT_LAST_COLQ_LOWCONF o.lowconf).setF EXT_LAST_COLQ EXT_LAST_COLQ_NOECHO o.noecho
  let s := ((s.setF EXT_LAST_COLQ2 EXT_LAST_COLQ2_SEQ seq).setF EXT_LAST_COLQ2 EXT_LAST_COLQ2_VEIL o.veil).setF EXT_LAST_COLQ2
    EXT_LAST_COLQ2_FAR o.far
  (s.addWrap EXT_CNT_COL EXT_CNT_COL_COLUMNS 1).addWrap EXT_CNT_REC EXT_CNT_REC_RECORDS n

/-- What follows when the last column of a frame has been output: the message closes and the allocation of the next frame starts
(R218, R220, R360). -/
def State.frameOut (s : State) : State :=
  let s := s.closeMsg false
  if s.scanning then s.allocMoment else s

/-- COLUMN_OUTPUT_COMPLETE: the oldest column of the output crossing is complete (R207, R218, R220, R358–R360, R417). -/
def execColumnOutputComplete (s : State) : Host.Outcome State Fault Refusal :=
  match s.ext.out with
  | [] => .next s
  | o :: rest =>
    let s := { s with ext := { s.ext with out := rest } }.lastColumn o
    let s := if o.usable then
        { s with fir := { s.fir with figures := Sp.ins s.fir.figures o.column (o.noecho, o.lowconf, o.far) } }
      else s
    let s := (s.forwardColumn o).packColumn o.header o.records
    .next (if !s.fir.frameOpen && s.drained then s.frameOut else s)

/-- Whether every entry from an index on is blank in this frame. -/
def State.restBlank (s : State) (ix : Nat) : Bool :=
  (List.range (s.columns - ix)).all (fun i => s.shotsOf (s.active (ix + i)) (s.activeNext (ix + i)) (ix + i) == 0)

/-- What the frame gap starts: the calibration, and a head's table and FRAME (R412, R413, R460). -/
def State.startGap (s : State) : State :=
  let s := s.calFrameGap
  let own := (s.rd HNG_TABLE_ID).toNat
  let stale := s.reachable.any (fun m => match s.member m with | some x => x.tableId != own | none => false)
  let s := if s.isHead && stale then s.sendWarp else s
  match s.cas.await with
  | some (_, acks) => { s with cas := { s.cas with await := some (s.tm.now + 50 * tickUs, acks) } }
  | none => if s.isHead && !s.fb FIR_ALC_CTRL FIR_ALC_CTRL_EN then s.sendFrame else s

/-- FRAME_END: the last non-blank column of the frame has closed, or in a frame without one the last period has passed, and the frame
gap begins (R143). -/
def execFrameEnd (s : State) : Host.Outcome State Fault Refusal :=
  if !s.scanning || !s.fir.frameOpen || s.fir.column.isSome || !s.fir.closing.isEmpty then .next s
  else
    let ready := if s.fir.anyFired then s.restBlank s.fir.nextEntry else decide (s.columns ≤ s.fir.nextEntry)
    if !ready then .next s
    else
      let s := match s.fir.anyFired, s.fir.prevStart with
        | false, some (a, p) => s.toTbs (a + p)
        | _, _ => s
      let s := s.endFrame.setF FIR_COL FIR_COL_PHASE 4
      let s := if s.drained then s.allocMoment.closeMsg false else s
      .next s.startGap

end Sys2Proof.Machine
end

