-- ==== Sys2Proof/Machine/Dispatch.lean ====
section
/-! DEFINITION. The meaning of every command, one arm per row of the opcode table. -/

namespace Sys2Proof.Machine

def exec (i : Instr) (s : State) : Host.Outcome State Fault Refusal :=
  match i with
  | .commandPacketArrival via packet => Sys2Proof.Machine.execCommandPacketArrival via packet s
  | .getIdentity q p => Sys2Proof.Machine.execGetIdentity q p s
  | .getState q p => Sys2Proof.Machine.execGetState q p s
  | .stateDumpCapture q p => Sys2Proof.Machine.execStateDumpCapture q p s
  | .stateDumpCaptureDone => Sys2Proof.Machine.execStateDumpCaptureDone s
  | .stateDumpRead q p => Sys2Proof.Machine.execStateDumpRead q p s
  | .authSession q p => Sys2Proof.Machine.execAuthSession q p s
  | .softReset q p => Sys2Proof.Machine.execSoftReset q p s
  | .faultClear q p failed => Sys2Proof.Machine.execFaultClear q p failed s
  | .eventMask q p => Sys2Proof.Machine.execEventMask q p s
  | .regRead q p => Sys2Proof.Machine.execRegRead q p s
  | .regWrite q p => Sys2Proof.Machine.execRegWrite q p s
  | .regModify q p => Sys2Proof.Machine.execRegModify q p s
  | .memRead q p => Sys2Proof.Machine.execMemRead q p s
  | .memWrite q p => Sys2Proof.Machine.execMemWrite q p s
  | .warpCommit q p => Sys2Proof.Machine.execWarpCommit q p s
  | .deferredWarpCopy => Sys2Proof.Machine.execDeferredWarpCopy s
  | .profileSelect q p => Sys2Proof.Machine.execProfileSelect q p s
  | .deferredProfileApply => Sys2Proof.Machine.execDeferredProfileApply s
  | .scanStart q p => Sys2Proof.Machine.execScanStart q p s
  | .scanHold q p => Sys2Proof.Machine.execScanHold q p s
  | .holdEntry => Sys2Proof.Machine.execHoldEntry s
  | .scanResume q p => Sys2Proof.Machine.execScanResume q p s
  | .scanStop q p => Sys2Proof.Machine.execScanStop q p s
  | .frameSchedule q p => Sys2Proof.Machine.execFrameSchedule q p s
  | .keySet q p => Sys2Proof.Machine.execKeySet q p s
  | .calRun q p => Sys2Proof.Machine.execCalRun q p s
  | .calProcedureStep counts => Sys2Proof.Machine.execCalProcedureStep counts s
  | .calProcedureEnd vals => Sys2Proof.Machine.execCalProcedureEnd vals s
  | .calStatus q p => Sys2Proof.Machine.execCalStatus q p s
  | .calAcceptStale q p => Sys2Proof.Machine.execCalAcceptStale q p s
  | .safetyStatus q p => Sys2Proof.Machine.execSafetyStatus q p s
  | .deadboltClear q p => Sys2Proof.Machine.execDeadboltClear q p s
  | .exposureLimits q p => Sys2Proof.Machine.execExposureLimits q p s
  | .safetySelfTest q p => Sys2Proof.Machine.execSafetySelfTest q p s
  | .safetySelfTestDone failed => Sys2Proof.Machine.execSafetySelfTestDone failed s
  | .zoneCommit q p => Sys2Proof.Machine.execZoneCommit q p s
  | .deferredZoneCopy => Sys2Proof.Machine.execDeferredZoneCopy s
  | .safeCommand q p => Sys2Proof.Machine.execSafeCommand q p s
  | .safeCommandUnpaired => Sys2Proof.Machine.execSafeCommandUnpaired s
  | .recArm q p => Sys2Proof.Machine.execRecArm q p s
  | .recDisarm q p => Sys2Proof.Machine.execRecDisarm q p s
  | .recTrigger q p => Sys2Proof.Machine.execRecTrigger q p s
  | .recStatus q p => Sys2Proof.Machine.execRecStatus q p s
  | .recRead q p => Sys2Proof.Machine.execRecRead q p s
  | .timeRead q p => Sys2Proof.Machine.execTimeRead q p s
  | .timeSetValue q p => Sys2Proof.Machine.execTimeSetValue q p s
  | .timeSetStep q p => Sys2Proof.Machine.execTimeSetStep q p s
  | .timeSetFrequency q p => Sys2Proof.Machine.execTimeSetFrequency q p s
  | .ptpConfig q p => Sys2Proof.Machine.execPtpConfig q p s
  | .asymSet q p => Sys2Proof.Machine.execAsymSet q p s
  | .txtsRead q p => Sys2Proof.Machine.execTxtsRead q p s
  | .launchConfig q p => Sys2Proof.Machine.execLaunchConfig q p s
  | .linkStatus q p => Sys2Proof.Machine.execLinkStatus q p s
  | .linkTrain q p => Sys2Proof.Machine.execLinkTrain q p s
  | .linkRelease q p => Sys2Proof.Machine.execLinkRelease q p s
  | .cascadeConfig q p => Sys2Proof.Machine.execCascadeConfig q p s
  | .linkTestPrbs q p => Sys2Proof.Machine.execLinkTestPrbs q p s
  | .linkTestMargin q p => Sys2Proof.Machine.execLinkTestMargin q p s
  | .linkTestDone l r => Sys2Proof.Machine.execLinkTestDone l r s
  | .pwrDomainOn q p => Sys2Proof.Machine.execPwrDomainOn q p s
  | .pwrDomainOff q p => Sys2Proof.Machine.execPwrDomainOff q p s
  | .domainSwitchOnDone => Sys2Proof.Machine.execDomainSwitchOnDone s
  | .domainSwitchOffDone => Sys2Proof.Machine.execDomainSwitchOffDone s
  | .thermalStatus q p => Sys2Proof.Machine.execThermalStatus q p s
  | .ackThermalEvent q p => Sys2Proof.Machine.execAckThermalEvent q p s
  | .nvlogRead q p => Sys2Proof.Machine.execNvlogRead q p s
  | .thermalLimits q p => Sys2Proof.Machine.execThermalLimits q p s
  | .imageInfo q p => Sys2Proof.Machine.execImageInfo q p s
  | .flashRead q p => Sys2Proof.Machine.execFlashRead q p s
  | .flashErase q p => Sys2Proof.Machine.execFlashErase q p s
  | .flashWrite q p => Sys2Proof.Machine.execFlashWrite q p s
  | .flashOperationDone => Sys2Proof.Machine.execFlashOperationDone s
  | .imageVerify q p => Sys2Proof.Machine.execImageVerify q p s
  | .imageVerifyDone readErr => Sys2Proof.Machine.execImageVerifyDone readErr s
  | .imageSelect q p => Sys2Proof.Machine.execImageSelect q p s
  | .cmdWrite bytes midByte => Sys2Proof.Machine.execCmdWrite bytes midByte s
  | .replyRead complete => Sys2Proof.Machine.execReplyRead complete s
  | .alertRead complete => Sys2Proof.Machine.execAlertRead complete s
  | .noticeRead complete => Sys2Proof.Machine.execNoticeRead complete s
  | .regRd a => Sys2Proof.Machine.execRegRd a s
  | .regWr a w => Sys2Proof.Machine.execRegWr a w s
  | .hspiStatusRead => Sys2Proof.Machine.execHspiStatusRead s
  | .registerWrite path a w => Sys2Proof.Machine.execRegisterWrite path a w s
  | .rsLowWordRead path a => Sys2Proof.Machine.execRsLowWordRead path a s
  | .rsHighWordRead path a => Sys2Proof.Machine.execRsHighWordRead path a s
  | .glbBehaviourWrite path level => Sys2Proof.Machine.execGlbBehaviourWrite path level s
  | .hostTrip path => Sys2Proof.Machine.execHostTrip path s
  | .tdcCounterClear path quarters => Sys2Proof.Machine.execTdcCounterClear path quarters s
  | .frefMissClear path => Sys2Proof.Machine.execFrefMissClear path s
  | .tpiGo path => Sys2Proof.Machine.execTpiGo path s
  | .tpiPeriodicTrigger => Sys2Proof.Machine.execTpiPeriodicTrigger s
  | .testPulseInjection => Sys2Proof.Machine.execTestPulseInjection s
  | .tmbCounterClear path quarters => Sys2Proof.Machine.execTmbCounterClear path quarters s
  | .firCounterClear path => Sys2Proof.Machine.execFirCounterClear path s
  | .hgeCounterClear path quarters => Sys2Proof.Machine.execHgeCounterClear path quarters s
  | .hgeWaitClear path => Sys2Proof.Machine.execHgeWaitClear path s
  | .hgeBinWrite path w => Sys2Proof.Machine.execHgeBinWrite path w s
  | .extCounterClear path => Sys2Proof.Machine.execExtCounterClear path s
  | .extAirWrite path nm1 => Sys2Proof.Machine.execExtAirWrite path nm1 s
  | .alcCounterClear path => Sys2Proof.Machine.execAlcCounterClear path s
  | .srvCounterClear path => Sys2Proof.Machine.execSrvCounterClear path s
  | .loopModeWrite path x auto => Sys2Proof.Machine.execLoopModeWrite path x auto s
  | .loopManWrite path x w => Sys2Proof.Machine.execLoopManWrite path x w s
  | .loopOpenRegisterWrite path a w => Sys2Proof.Machine.execLoopOpenRegisterWrite path a w s
  | .trajectorySwapRequest path x => Sys2Proof.Machine.execTrajectorySwapRequest path x s
  | .trajectoryWrite path m b e w => Sys2Proof.Machine.execTrajectoryWrite path m b e w s
  | .tuneEnWrite path on => Sys2Proof.Machine.execTuneEnWrite path on s
  | .traceArm path => Sys2Proof.Machine.execTraceArm path s
  | .traceStop path => Sys2Proof.Machine.execTraceStop path s
  | .traceForce path => Sys2Proof.Machine.execTraceForce path s
  | .traceDone => Sys2Proof.Machine.execTraceDone s
  | .madGo path => Sys2Proof.Machine.execMadGo path s
  | .seqEnWrite path on => Sys2Proof.Machine.execSeqEnWrite path on s
  | .madCounterClear path => Sys2Proof.Machine.execMadCounterClear path s
  | .refEnWrite path on => Sys2Proof.Machine.execRefEnWrite path on s
  | .injGo path w => Sys2Proof.Machine.execInjGo path w s
  | .sequenceTableWrite path a w => Sys2Proof.Machine.execSequenceTableWrite path a w s
  | .mfcSync path chains => Sys2Proof.Machine.execMfcSync path chains s
  | .chainEnable path c on => Sys2Proof.Machine.execChainEnable path c on s
  | .chainConfigWrite path a w => Sys2Proof.Machine.execChainConfigWrite path a w s
  | .mfcCounterClear path => Sys2Proof.Machine.execMfcCounterClear path s
  | .evrForce path => Sys2Proof.Machine.execEvrForce path s
  | .evrCounterClear path => Sys2Proof.Machine.execEvrCounterClear path s
  | .segmentFree path segs => Sys2Proof.Machine.execSegmentFree path segs s
  | .maskConfigWrite path a w => Sys2Proof.Machine.execMaskConfigWrite path a w s
  | .portEnable path port => Sys2Proof.Machine.execPortEnable path port s
  | .portDisable path port => Sys2Proof.Machine.execPortDisable path port s
  | .portModeWrite path port mode => Sys2Proof.Machine.execPortModeWrite path port mode s
  | .portSettingsWrite path port k w => Sys2Proof.Machine.execPortSettingsWrite path port k w s
  | .cbsWrite path port w => Sys2Proof.Machine.execCbsWrite path port w s
  | .portCounterClear path port => Sys2Proof.Machine.execPortCounterClear path port s
  | .streamCounterClear path => Sys2Proof.Machine.execStreamCounterClear path s
  | .timCounterClear path => Sys2Proof.Machine.execTimCounterClear path s
  | .timedOutputEnable path k w => Sys2Proof.Machine.execTimedOutputEnable path k w s
  | .linkEnableWrite path l on => Sys2Proof.Machine.execLinkEnableWrite path l on s
  | .linkErrorInject path l lanes => Sys2Proof.Machine.execLinkErrorInject path l lanes s
  | .wflCounterClear path l => Sys2Proof.Machine.execWflCounterClear path l s
  | .hngCounterClear path => Sys2Proof.Machine.execHngCounterClear path s
  | .tapEnable path on => Sys2Proof.Machine.execTapEnable path on s
  | .dmaChannelEnable path c => Sys2Proof.Machine.execDmaChannelEnable path c s
  | .dmaChannelDisable path c => Sys2Proof.Machine.execDmaChannelDisable path c s
  | .dmaConfigWrite path c k w => Sys2Proof.Machine.execDmaConfigWrite path c k w s
  | .flushMon path => Sys2Proof.Machine.execFlushMon path s
  | .flushQfilt path => Sys2Proof.Machine.execFlushQfilt path s
  | .dmaCounterClear path => Sys2Proof.Machine.execDmaCounterClear path s
  | .qfiltEnable path on => Sys2Proof.Machine.execQfiltEnable path on s
  | .calCounterClear path => Sys2Proof.Machine.execCalCounterClear path s
  | .thmCounterClear path => Sys2Proof.Machine.execThmCounterClear path s
  | .bootNextWrite path slot => Sys2Proof.Machine.execBootNextWrite path slot s
  | .exposureWeightWrite path j w => Sys2Proof.Machine.execExposureWeightWrite path j w s
  | .pd00Write path a w => Sys2Proof.Machine.execPd00Write path a w s
  | .vinValid mv => Sys2Proof.Machine.execVinValid mv s
  | .vinLoss => Sys2Proof.Machine.execVinLoss s
  | .porstLow => Sys2Proof.Machine.execPorstLow s
  | .porstRise => Sys2Proof.Machine.execPorstRise s
  | .resetLow => Sys2Proof.Machine.execResetLow s
  | .resetRise => Sys2Proof.Machine.execResetRise s
  | .fuseRead hgId => Sys2Proof.Machine.execFuseRead hgId s
  | .clockLock locked => Sys2Proof.Machine.execClockLock locked s
  | .sfdpRead density content => Sys2Proof.Machine.execSfdpRead density content s
  | .slotCheck readErr => Sys2Proof.Machine.execSlotCheck readErr s
  | .fuseProgramming => Sys2Proof.Machine.execFuseProgramming s
  | .bootPower => Sys2Proof.Machine.execBootPower s
  | .mbist pass => Sys2Proof.Machine.execMbist pass s
  | .lbist pass => Sys2Proof.Machine.execLbist pass s
  | .configApply => Sys2Proof.Machine.execConfigApply s
  | .pllLockLoss ref t h c => Sys2Proof.Machine.execPllLockLoss ref t h c s
  | .pllLockRegain t h c => Sys2Proof.Machine.execPllLockRegain t h c s
  | .pllLockTimeout => Sys2Proof.Machine.execPllLockTimeout s
  | .dllUnlock q => Sys2Proof.Machine.execDllUnlock q s
  | .extestLoad => Sys2Proof.Machine.execExtestLoad s
  | .returnLeadingEdge n c tap => Sys2Proof.Machine.execReturnLeadingEdge n c tap s
  | .returnTrailingEdge n c tap peak clamp => Sys2Proof.Machine.execReturnTrailingEdge n c tap peak clamp s
  | .totSaturation n peak clamp => Sys2Proof.Machine.execTotSaturation n peak clamp s
  | .rgndFault g present => Sys2Proof.Machine.execRgndFault g present s
  | .frefEdge k c tap tot => Sys2Proof.Machine.execFrefEdge k c tap tot s
  | .frefWindowClose k => Sys2Proof.Machine.execFrefWindowClose k s
  | .tumblerEventEntry n => Sys2Proof.Machine.execTumblerEventEntry n s
  | .coincidenceDecision p => Sys2Proof.Machine.execCoincidenceDecision p s
  | .candidateExpiry p => Sys2Proof.Machine.execCandidateExpiry p s
  | .darkGateEnd => Sys2Proof.Machine.execDarkGateEnd s
  | .freeRunGate => Sys2Proof.Machine.execFreeRunGate s
  | .frameStartEvent => Sys2Proof.Machine.execFrameStartEvent s
  | .scheduleSlot => Sys2Proof.Machine.execScheduleSlot s
  | .frameStart => Sys2Proof.Machine.execFrameStart s
  | .columnStart t => Sys2Proof.Machine.execColumnStart t s
  | .shotFire => Sys2Proof.Machine.execShotFire s
  | .columnClose => Sys2Proof.Machine.execColumnClose s
  | .frameEnd => Sys2Proof.Machine.execFrameEnd s
  | .allocation => Sys2Proof.Machine.execAllocation s
  | .eventBinning q t => Sys2Proof.Machine.execEventBinning q t s
  | .zoomPlacement => Sys2Proof.Machine.execZoomPlacement s
  | .extractionScan => Sys2Proof.Machine.execExtractionScan s
  | .extractionEnd => Sys2Proof.Machine.execExtractionEnd s
  | .columnOutputComplete => Sys2Proof.Machine.execColumnOutputComplete s
  | .histogramClear => Sys2Proof.Machine.execHistogramClear s
  | .servoTick r0 r1 r2 r3 => Sys2Proof.Machine.execServoTick r0 r1 r2 r3 s
  | .loopSample x => Sys2Proof.Machine.execLoopSample x s
  | .loopTrip x => Sys2Proof.Machine.execLoopTrip x s
  | .mirrorWindowExit => Sys2Proof.Machine.execMirrorWindowExit s
  | .mirrorWindowEntry => Sys2Proof.Machine.execMirrorWindowEntry s
  | .servoStopRampDone => Sys2Proof.Machine.execServoStopRampDone s
  | .encoderEdge a b => Sys2Proof.Machine.execEncoderEdge a b s
  | .qeiRisingEdge => Sys2Proof.Machine.execQeiRisingEdge s
  | .referenceReady => Sys2Proof.Machine.execReferenceReady s
  | .guardConversion vres vmid => Sys2Proof.Machine.execGuardConversion vres vmid s
  | .guardGap => Sys2Proof.Machine.execGuardGap s
  | .sequenceConversion r0 r1 r2 r3 => Sys2Proof.Machine.execSequenceConversion r0 r1 r2 r3 s
  | .injectedConversionDone r => Sys2Proof.Machine.execInjectedConversionDone r s
  | .sequencerTrigger => Sys2Proof.Machine.execSequencerTrigger s
  | .madTimerExpiry => Sys2Proof.Machine.execMadTimerExpiry s
  | .filterInput => Sys2Proof.Machine.execFilterInput s
  | .recorderItem => Sys2Proof.Machine.execRecorderItem s
  | .recorderPreReached => Sys2Proof.Machine.execRecorderPreReached s
  | .recorderTrigger => Sys2Proof.Machine.execRecorderTrigger s
  | .captureEnd => Sys2Proof.Machine.execCaptureEnd s
  | .segmentRestart => Sys2Proof.Machine.execSegmentRestart s
  | .lossEpisodeClose monitor => Sys2Proof.Machine.execLossEpisodeClose monitor s
  | .maskSampleTest => Sys2Proof.Machine.execMaskSampleTest s
  | .hgTrigEdge t => Sys2Proof.Machine.execHgTrigEdge t s
  | .permitChange a b => Sys2Proof.Machine.execPermitChange a b s
  | .permitDiscrepancy => Sys2Proof.Machine.execPermitDiscrepancy s
  | .coverChange high => Sys2Proof.Machine.execCoverChange high s
  | .hgFaultFall => Sys2Proof.Machine.execHgFaultFall s
  | .autoClear code => Sys2Proof.Machine.execAutoClear code s
  | .switchWalkStart => Sys2Proof.Machine.execSwitchWalkStart s
  | .walkStepEnd => Sys2Proof.Machine.execWalkStepEnd s
  | .walkGuardTimeout => Sys2Proof.Machine.execWalkGuardTimeout s
  | .reservoirCharged => Sys2Proof.Machine.execReservoirCharged s
  | .reservoirChargeTimeout => Sys2Proof.Machine.execReservoirChargeTimeout s
  | .exposureSubinterval w => Sys2Proof.Machine.execExposureSubinterval w s
  | .watchdogExpiry => Sys2Proof.Machine.execWatchdogExpiry s
  | .lockstepMismatch => Sys2Proof.Machine.execLockstepMismatch s
  | .zoneEvaluation disagree => Sys2Proof.Machine.execZoneEvaluation disagree s
  | .safeReportPeriodic => Sys2Proof.Machine.execSafeReportPeriodic s
  | .linkUp port speed => Sys2Proof.Machine.execLinkUp port speed s
  | .linkDown port => Sys2Proof.Machine.execLinkDown port s
  | .frameReceive port frame => Sys2Proof.Machine.execFrameReceive port frame s
  | .lldpduReceive port frame => Sys2Proof.Machine.execLldpduReceive port frame s
  | .neighbourExpiry port e => Sys2Proof.Machine.execNeighbourExpiry port e s
  | .lldpTransmit port => Sys2Proof.Machine.execLldpTransmit port s
  | .prpSupervision => Sys2Proof.Machine.execPrpSupervision s
  | .dhcpLeaseTimer port => Sys2Proof.Machine.execDhcpLeaseTimer port s
  | .arpRetry port => Sys2Proof.Machine.execArpRetry port s
  | .arpEntryAgeOut port => Sys2Proof.Machine.execArpEntryAgeOut port s
  | .duplicateAddressDetection port linkLocal duplicate => Sys2Proof.Machine.execDuplicateAddressDetection port linkLocal duplicate s
  | .streamMessageClose => Sys2Proof.Machine.execStreamMessageClose s
  | .frameTransmit port => Sys2Proof.Machine.execFrameTransmit port s
  | .timedLaunch port => Sys2Proof.Machine.execTimedLaunch port s
  | .timeAnchor => Sys2Proof.Machine.execTimeAnchor s
  | .ptpSync port d => Sys2Proof.Machine.execPtpSync port d s
  | .ptpDelayMeasurement port ms sm ratio => Sys2Proof.Machine.execPtpDelayMeasurement port ms sm ratio s
  | .ptpAnnounce port dataset => Sys2Proof.Machine.execPtpAnnounce port dataset s
  | .ptpMasterSend port sync => Sys2Proof.Machine.execPtpMasterSend port sync s
  | .ptpMessageTimeout port announce => Sys2Proof.Machine.execPtpMessageTimeout port announce s
  | .timeCrossCheck => Sys2Proof.Machine.execTimeCrossCheck s
  | .ppsInEdge t => Sys2Proof.Machine.execPpsInEdge t s
  | .ppsOutPulse => Sys2Proof.Machine.execPpsOutPulse s
  | .timedOutputPulse k => Sys2Proof.Machine.execTimedOutputPulse k s
  | .terminationDetect l found => Sys2Proof.Machine.execTerminationDetect l found s
  | .linkTrainingDone l ctle => Sys2Proof.Machine.execLinkTrainingDone l ctle s
  | .blockLock l k lock bad stuff => Sys2Proof.Machine.execBlockLock l k lock bad stuff s
  | .alignReceive l count skew => Sys2Proof.Machine.execAlignReceive l count skew s
  | .capxPairReceive l capx0 capx1 => Sys2Proof.Machine.execCapxPairReceive l capx0 capx1 s
  | .capxSend l => Sys2Proof.Machine.execCapxSend l s
  | .linkBringupTimeout l => Sys2Proof.Machine.execLinkBringupTimeout l s
  | .linkLockLoss l receiving => Sys2Proof.Machine.execLinkLockLoss l receiving s
  | .idleFreeze l k => Sys2Proof.Machine.execIdleFreeze l k s
  | .keepaliveSend l => Sys2Proof.Machine.execKeepaliveSend l s
  | .controlBlockReceive l block => Sys2Proof.Machine.execControlBlockReceive l block s
  | .xoff l fill => Sys2Proof.Machine.execXoff l fill s
  | .warp l src dst hdr body crcOk => Sys2Proof.Machine.execWarp l src dst hdr body crcOk s
  | .frame l src dst hdr body crcOk => Sys2Proof.Machine.execFrame l src dst hdr body crcOk s
  | .status l src dst hdr body crcOk => Sys2Proof.Machine.execStatus l src dst hdr body crcOk s
  | .statusPeriodic => Sys2Proof.Machine.execStatusPeriodic s
  | .memberUnreachable m => Sys2Proof.Machine.execMemberUnreachable m s
  | .frameAckTimeout => Sys2Proof.Machine.execFrameAckTimeout s
  | .points l src dst hdr body crcOk => Sys2Proof.Machine.execPoints l src dst hdr body crcOk s
  | .readReq l src dst hdr body crcOk => Sys2Proof.Machine.execReadReq l src dst hdr body crcOk s
  | .readRsp l src dst hdr body crcOk => Sys2Proof.Machine.execReadRsp l src dst hdr body crcOk s
  | .remoteReadTimeout => Sys2Proof.Machine.execRemoteReadTimeout s
  | .timeReq received l => Sys2Proof.Machine.execTimeReq received l s
  | .timeRsp t2 t3 t4 => Sys2Proof.Machine.execTimeRsp t2 t3 t4 s
  | .hingeCalibrationStart => Sys2Proof.Machine.execHingeCalibrationStart s
  | .hcal l src dst hdr body crcOk => Sys2Proof.Machine.execHcal l src dst hdr body crcOk s
  | .hingeCalibrationEnd => Sys2Proof.Machine.execHingeCalibrationEnd s
  | .hgSyncEdge t => Sys2Proof.Machine.execHgSyncEdge t s
  | .tapItemSend => Sys2Proof.Machine.execTapItemSend s
  | .tapMark => Sys2Proof.Machine.execTapMark s
  | .dmaTimerRequest c => Sys2Proof.Machine.execDmaTimerRequest c s
  | .dmaBurst => Sys2Proof.Machine.execDmaBurst s
  | .tempSensorReading sensor temp => Sys2Proof.Machine.execTempSensorReading sensor temp s
  | .throttleStep => Sys2Proof.Machine.execThrottleStep s
  | .nvlogWrite => Sys2Proof.Machine.execNvlogWrite s
  | .hgFaultRelease => Sys2Proof.Machine.execHgFaultRelease s
  | .gpioEdge pin high t => Sys2Proof.Machine.execGpioEdge pin high t s
  | .dllLockReturn q => Sys2Proof.Machine.execDllLockReturn q s
  | .rawtapActive l => Sys2Proof.Machine.execRawtapActive l s
  | .zoneHoldExpiry => Sys2Proof.Machine.execZoneHoldExpiry s
  | .ptpDelayRequest port => Sys2Proof.Machine.execPtpDelayRequest port s
  | .xoffHeldLong l => Sys2Proof.Machine.execXoffHeldLong l s
  | .recorderMemoryCleared => Sys2Proof.Machine.execRecorderMemoryCleared s
  | .vauxCurrentLimit => Sys2Proof.Machine.execVauxCurrentLimit s
  | .vinOvervoltage mv => Sys2Proof.Machine.execVinOvervoltage mv s

end Sys2Proof.Machine
end

