-- ==== Sys2Proof/Machine/Step.lean ====
section
/-! DEFINITION. One step: run the command at the front of the queue, or let one PLL-C cycle pass when none waits. -/

namespace Sys2Proof.Machine

/-- Take the command at the front of the queue and run it with the queue's rest; idle when the queue is empty. -/
def step (s : State) : Host.Outcome State Fault Refusal :=
  match s.pending with
  | [] => .next s.idle
  | c :: rest => exec c { s with pending := rest }

/-- The state with the command that a table word spells put in front of the queue; unchanged where it spells none.
[DESIGN CHOICE, log 95] -/
def State.withFetchWord (s : State) (nbits w : Nat) : State :=
  match decodeTableWord nbits w with
  | some c => { s with pending := c :: s.pending }
  | none => s

end Sys2Proof.Machine
end

