-- ==== Sys2Proof/Safety.lean ====
section
/-! DEFINITION. What a safe state is, and the conditions under which commands act, in the terms the statements use. -/

namespace Sys2Proof

open Machine Machine.Reg

/-- The canonical form of the memory windows: addresses strictly rising, no entry equal to what an unlisted address reads as. -/
abbrev Memory.wf (m : List Host.Cell) : Bool := Sp.wf memDefault m

/-- The register file and the memory windows are in their canonical form. -/
def canonical (s : State) : Bool := Sp.wf resetWord s.regs && Memory.wf s.mem

/-- No light can leave the sensor: every FIRE output is idle and both reservoir switches are open (R65). -/
def dark (s : State) : Bool := s.fireNow.isEmpty && !s.pin.ehs && !s.pin.els

/-- A path can write the register at an address now: the path is open and authorised, the variant has the register, its domain is on, no
procedure owns it, and the operating profile leaves it alone (R4, R5, R45, R50, R215, R464, R540). -/
def takes (s : State) (p : Path) (a : Nat) : Bool :=
  s.pathOpen p a && !(p == .hspi && s.authRequired .hspi) && !s.absent a && s.regOn a && !s.calOwns a
    && (s.lockCode == 0 || (profileMask s.lockCode a true == 0 && profileMask s.lockCode a false == 0))

/-- A write that a block refuses leaves a state of its own; by HSPI it is a refused direct write, which sets WR_ERR (R50). -/
def refusedBy (p : Path) (t : State) : State := if p = .hspi then t.wrErr else t

/-- The command with opcode `opc` of request q leaves the queue in s, and runs in t: outside OFF and BOOT, known, and allowed in the
state (R38, R54). -/
def runs (s : State) (q : Req) (opc : Nat) (p : List Byte) (t : State) : Prop :=
  runsCommands s.dev = true ∧ s.dequeue q opc p = t ∧ t.knownOpcode opc = true ∧ allowedIn opc t.dev = true

/-- The host requests whose payload is empty (R55), with their opcodes (R52). -/
def bareRequests (q : Req) (p : List Byte) (failed : Nat) : List (Instr × Nat) :=
  [(.getIdentity q p, 0x0100), (.getState q p, 0x0101), (.authSession q p, 0x0103), (.softReset q p, 0x0104), 
    (.faultClear q p failed, 0x0105), (.warpCommit q p, 0x0300), (.scanStart q p, 0x0302), (.scanHold q p, 0x0303), 
    (.scanResume q p, 0x0304), (.scanStop q p, 0x0305), (.safetyStatus q p, 0x0500), (.deadboltClear q p, 0x0501), 
    (.zoneCommit q p, 0x0504), (.recDisarm q p, 0x0601), (.recTrigger q p, 0x0602), (.recStatus q p, 0x0603), 
    (.timeRead q p, 0x0700), (.thermalStatus q p, 0x0901)]

/-- The other host requests, with their opcodes (R52). -/
def otherRequests (q : Req) (p : List Byte) : List (Instr × Nat) :=
  [(.stateDumpCapture q p, 0x0102), (.stateDumpRead q p, 0x0102), (.eventMask q p, 0x0106), (.regRead q p, 0x0200), 
    (.regWrite q p, 0x0201), (.regModify q p, 0x0202), (.memRead q p, 0x0203), (.memWrite q p, 0x0204), 
    (.profileSelect q p, 0x0301), (.frameSchedule q p, 0x0306), (.keySet q p, 0x0307), (.calRun q p, 0x0400), 
    (.calStatus q p, 0x0401), (.calAcceptStale q p, 0x0402), (.exposureLimits q p, 0x0502), (.safetySelfTest q p, 0x0503), 
    (.safeCommand q p, 0x0505), (.recArm q p, 0x0600), (.recRead q p, 0x0604), (.timeSetValue q p, 0x0701), 
    (.timeSetStep q p, 0x0701)] ++
  [(.timeSetFrequency q p, 0x0701), (.ptpConfig q p, 0x0702), (.asymSet q p, 0x0703), (.txtsRead q p, 0x0704), 
    (.launchConfig q p, 0x0705), (.linkStatus q p, 0x0800), (.linkTrain q p, 0x0801), (.linkRelease q p, 0x0802), 
    (.cascadeConfig q p, 0x0803), (.linkTestPrbs q p, 0x0804), (.linkTestMargin q p, 0x0804), (.pwrDomainOn q p, 0x0900), 
    (.pwrDomainOff q p, 0x0900), (.ackThermalEvent q p, 0x0902), (.nvlogRead q p, 0x0903), (.thermalLimits q p, 0x0904), 
    (.imageInfo q p, 0x0A00), (.flashRead q p, 0x0A01), (.flashErase q p, 0x0A02), (.flashWrite q p, 0x0A03), 
    (.imageVerify q p, 0x0A04), (.imageSelect q p, 0x0A05)]

/-- The word that a whole-word write of w leaves in the register at an address by its access codes (R14). -/
def written (s : State) (a : Nat) (w : Word) : Word :=
  match cardAt a with
  | some (c, ix) => (c.wrOf ix s a w (BitVec.ofNat 32 0xFFFFFFFF)).new
  | none => 0

/-- A link carries messages in both directions: one of the four, ACTIVE, and no raw tap (R398, R412). -/
def receives (s : State) (l : Nat) : Bool := decide (l < 4) && s.linkActive l && !s.rawTap l

/-- A message has been received on a link, and a member has passed it on: down from WL0, up from a downstream link (R397, R412). -/
def passedOn (s : State) (l : Nat) (m : Msg) : State :=
  let u := s.unfreeze l m.body.length
  if s.isMember && l == 0 then u.sendDown m else if u.isMember && u.isDown l then u.sendMsg 0 m else u

/-- A message with a good CRC has been received on a link and counted in WFL_CNT_RX (R412, R431). -/
def arrived (s : State) (l : Nat) (m : Msg) : State := (passedOn s l m).addWrap (WFL_CNT_RX l) WFL_CNT_RX_MSGS 1

end Sys2Proof
end

