-- ==== Sys2Proof/Certificates/Slice0/Obligations.lean ====
section
/-! DEFINITION. The statements about the device: requests, register writes, happenings, steps and reset. Each names the rules it
formalises; `exec` answers the state that the rules give, so a statement of a result also says that the command completes and what it
leaves as it was. -/

open Sys2Proof Sys2Proof.Machine Sys2Proof.Machine.Reg

/-- R43, R56, R58: the command processor's own requests, once they run with a payload of their fixed length, answer OK with the data the
rules list; AUTH_SESSION opens a session with a fresh nonce, EVENT_MASK sets the mask and the UDP destination. -/
def Obligations.IdentityStateSessionAndMaskRequests : Prop :=
  ∀ (s t : State) (q : Req) (p : List Byte),
    -- GET_IDENTITY
    (runs s q 0x0100 p t → p = [] →
      exec (.getIdentity q p) s = .next (t.answer q 0x0100 0 0
        (leBytes 1 t.boot.shadows.variant ++ leBytes 1 t.boot.shadows.revision ++ leBytes 1 t.boot.shadows.blMax
          ++ leBytes 1 (t.f GLB_BEHAVIOUR GLB_BEHAVIOUR_LEVEL) ++ leBytes 8 t.boot.shadows.serial ++ wordBytes (t.rd GLB_FWVER)
          ++ leBytes 4 (if t.boot.booted.isSome then t.boot.imageVersion else 0) ++ leBytes 1 (t.boot.booted.getD 0xFF)
          ++ leBytes 1 t.index ++ leBytes 2 1 ++ wordBytes (t.rd GLB_BOOT) ++ zeros 4) q.auth)) ∧
    -- GET_STATE
    (runs s q 0x0101 p t → p = [] →
      exec (.getState q p) s = .next (t.answer q 0x0101 0 0
        (wordBytes (t.rd GLB_STATE) ++ wordBytes t.condWord ++ leBytes 8 t.tbl) q.auth)) ∧
    -- AUTH_SESSION
    (runs s q 0x0103 p t → p = [] →
      exec (.authSession q p) s = .next (State.setSession
        (State.answer { t with draws := t.draws + 1 } q 0x0103 0 0 (leBytes 8 (Config.nonce t.draws).toNat) q.auth)
        q.via (some { nonce := Config.nonce t.draws, ctr := 0, lastReq := [], lastReply := none }))) ∧
    -- EVENT_MASK
    (runs s q 0x0106 p t → p.length = 8 → fld p 16 4 < 1024 → fld p 20 1 ≤ 2 → (fld p 20 1 = 1 → q.via ≠ .hspi) →
      allZero (fldBytes p 21 3) = true →
      exec (.eventMask q p) s = .next (State.answer
        (State.setF
          { t with cmd := { t.cmd with dest := if fld p 20 1 = 0 then none else if fld p 20 1 = 1 then destOf q.via else t.cmd.dest } }
          CMD_EVT_MASK CMD_EVT_MASK_ENABLE (fld p 16 4 ||| 6)) q 0x0106 0 0 (leBytes 4 (t.f CMD_EVT_MASK CMD_EVT_MASK_ENABLE)) q.auth))

/-- R66 rows 6 and 22, R69, R176, R490: SOFT_RESET answers and takes row 6; FAULT_CLEAR leaves FAULT where the entry cause allows it, and
answers REFUSED_STATE outside FAULT, after a core fault, without PLL lock and where the march test fails. -/
def Obligations.FaultClearAndSoftReset : Prop :=
  ∀ (s t : State) (q : Req) (failed : Nat),
    (runs s q 0x0104 [] t → exec (.softReset q []) s = .next ((t.answer q 0x0104 0 0 [] q.auth).enterBoot 0x03 4)) ∧
    (runs s q 0x0105 [] t →
      (t.dev = .fault → t.f GLB_STATE GLB_STATE_CAUSE = 0x22 →
        exec (.faultClear q [] failed) s = .next (((t.goto .idle 0x70).unlatch [15]).answer q 0x0105 0 0 [] q.auth)) ∧
      (t.dev = .fault → t.f GLB_STATE GLB_STATE_CAUSE = 0x63 → t.pllT = true → t.pllC = true →
        exec (.faultClear q [] failed) s = .next (((t.goto .idle 0x70).unlatch [15]).answer q 0x0105 0 0 [] q.auth)) ∧
      (t.dev = .fault → t.f GLB_STATE GLB_STATE_CAUSE = 0x63 → (t.pllT && t.pllC) = false →
        exec (.faultClear q [] failed) s = .next (t.answer q 0x0105 3 0 [] q.auth)) ∧
      (∀ u, t.dev = .fault → t.f GLB_STATE GLB_STATE_CAUSE = 0x62 → u = t.forEach t.mmQuarters (fun s k => s.quarterTested k (bit failed k)) →
        (t.mmQuarters.any (bit failed) = false → exec (.faultClear q [] failed) s = .next
          (((((u.setF HGE_STATUS HGE_STATUS_MM_FAULT 0).setF HGE_STATUS HGE_STATUS_MM_PEND 0).goto .idle 0x70).unlatch [15]).answer
            q 0x0105 0 0 [] q.auth)) ∧
        (t.mmQuarters.any (bit failed) = true → exec (.faultClear q [] failed) s = .next (u.answer q 0x0105 3 0 [] q.auth))) ∧
      (t.dev = .fault → (t.f GLB_STATE GLB_STATE_CAUSE = 0x60 ∨ t.f GLB_STATE GLB_STATE_CAUSE = 0x61) →
        exec (.faultClear q [] failed) s = .next (t.answer q 0x0105 3 0 [] q.auth)) ∧
      (t.dev ≠ .fault → exec (.faultClear q [] failed) s = .next (t.answer q 0x0105 3 0 [] q.auth)))

/-- R53, R57, R60: register and window commands and the state dump, once they run and pass their checks: reads return what the command
path reads, writes make the writes of the path, and a dump is captured, completed and read. -/
def Obligations.RegisterWindowAndDumpRequests : Prop :=
  ∀ (s t : State) (q : Req) (p : List Byte),
    -- REG_READ
    (runs s q 0x0200 p t → p.length = 8 → firstBad (regChecks (fld p 16 4) (fld p 20 4)) = none →
      exec (.regRead q p) s = .next ((t.readWords .cmd (fld p 16 4) (fld p 20 4)).2.answer q 0x0200 0 0
        ((t.readWords .cmd (fld p 16 4) (fld p 20 4)).1.flatMap wordBytes) q.auth)) ∧
    -- REG_WRITE
    (∀ l u, runs s q 0x0201 p t → p.length = 8 + 4 * fld p 20 4 → firstBad (regChecks (fld p 16 4) (fld p 20 4)) = none →
      l = (List.range (fld p 20 4)).map (fun i => (fld p 16 4 + 4 * i, BitVec.ofNat 32 (fld p (24 + 4 * i) 4), BitVec.ofNat 32 0xFFFFFFFF)) →
      l.any (fun x => t.regDark x.1) = false → t.writeTest l = (.done, u) →
      exec (.regWrite q p) s = .next (u.answer q 0x0201 0 0 [] q.auth)) ∧
    -- REG_MODIFY
    (∀ u, runs s q 0x0202 p t → p.length = 12 → firstBad (regChecks (fld p 16 4) 1) = none → t.regDark (fld p 16 4) = false →
      t.writeTest [(fld p 16 4, BitVec.ofNat 32 (fld p 24 4), BitVec.ofNat 32 (fld p 20 4))] = (.done, u) →
      exec (.regModify q p) s = .next (u.answer q 0x0202 0 0 (wordBytes (u.peek (u.shadow .cmd) (fld p 16 4))) q.auth)) ∧
    -- MEM_READ of the device's own windows, and of a member's
    (runs s q 0x0203 p t → p.length = 8 → firstBad (t.memReadChecks (fld p 16 4) (fld p 20 4)) = none →
      (∀ m, winOf (fld p 16 4) ≠ some (.remote m)) →
      exec (.memRead q p) s = .next ((t.winRead (fld p 16 4) (fld p 20 4)).2.answer q 0x0203 0 0
        (t.winRead (fld p 16 4) (fld p 20 4)).1 q.auth)) ∧
    (∀ m, runs s q 0x0203 p t → p.length = 8 → firstBad (t.memReadChecks (fld p 16 4) (fld p 20 4)) = none →
      winOf (fld p 16 4) = some (.remote m) →
      exec (.memRead q p) s = .next (t.remoteRead q m (fld p 16 4 - (0x40000000 + m * 0x02000000)) (fld p 20 4))) ∧
    -- MEM_WRITE
    (runs s q 0x0204 p t → 8 ≤ p.length → p.length ≤ 8068 → p.length % 4 = 0 →
      firstBad (spanChecks (fld p 16 4) (p.length - 4) 20 ++ t.writeChecks (fld p 16 4) (p.length - 4)) = none →
      exec (.memWrite q p) s = .next ((t.winWrite (fld p 16 4) (p.drop 4)).answer q 0x0204 0 0 [] q.auth)) ∧
    -- STATE_DUMP, function CAPTURE
    (runs s q 0x0102 p t → p.length = 4 → fld p 16 1 = 0 → allZero (fldBytes p 17 3) = true → t.jobOf 0x0102 = false →
      exec (.stateDumpCapture q p) s = .next (State.answer (State.addJob
        { t with cmd := { t.cmd with dumpStart := (t.tbl, t.tbs, (t.rd GLB_STATE).toNat) } } { req := q, opc := 0x0102 })
        q 0x0102 1 0 [] q.auth)) ∧
    -- STATE_DUMP, function READ
    (∀ d, runs s q 0x0102 p t → p.length = 16 → fld p 16 1 = 1 → allZero (fldBytes p 17 3) = true → t.cmd.dump = some d →
      fld p 20 4 = t.cmd.dumpId → fld p 24 4 % 4 = 0 → 1 ≤ fld p 28 4 → fld p 28 4 ≤ 8064 → fld p 24 4 + fld p 28 4 ≤ d.length →
      exec (.stateDumpRead q p) s = .next (t.answer q 0x0102 0 0 (slice d (fld p 24 4) (fld p 28 4)) q.auth)) ∧
    -- the capture ends
    (s.jobOf 0x0102 = true →
      exec .stateDumpCaptureDone s = .next (State.finishJobs
        { s with draws := s.draws + 1,
                 cmd := { s.cmd with dumpId := s.cmd.dumpId + 1, dump := some (s.dumpBytes (s.cmd.dumpId + 1)) } } 0x0102 0 0
        (leBytes 4 (s.cmd.dumpId + 1) ++ leBytes 4 (s.dumpBytes (s.cmd.dumpId + 1)).length
          ++ leBytes 4 (crc32c ((s.dumpBytes (s.cmd.dumpId + 1)).take ((s.dumpBytes (s.cmd.dumpId + 1)).length - 4))))))

/-- R38, R39, R44, R45, R545: the acceptance steps of a packet that arrives, in their order: what each step drops or refuses, and that a
packet which passes all five joins the queue with nothing else changed. -/
def Obligations.PacketAcceptanceSteps : Prop :=
  ∀ (s : State) (via : Via) (pkt : List Byte),
    runsCommands s.dev = true → (s.boot.recovery = true → via = .hspi) →
    -- step 1: the magic
    (leAt pkt 0 2 ≠ 0x5244 →
      exec (.commandPacketArrival via pkt) s = .next (s.addSat CMD_ERR_COUNT CMD_ERR_COUNT_BAD_MAGIC 1)) ∧
    (leAt pkt 0 2 = 0x5244 →
      -- step 2: version, and a counter without AUTH
      (leAt pkt 2 1 ≠ 1 →
        exec (.commandPacketArrival via pkt) s = .next (s.answer (reqOf via pkt) (leAt pkt 4 2) 6 2 [] false)) ∧
      (leAt pkt 2 1 = 1 → leAt pkt 3 1 % 2 = 0 → leAt pkt 12 4 ≠ 0 →
        exec (.commandPacketArrival via pkt) s = .next (s.answer (reqOf via pkt) (leAt pkt 4 2) 6 12 [] false)) ∧
      (leAt pkt 2 1 = 1 → leAt pkt 3 1 % 2 = 0 → leAt pkt 12 4 = 0 →
        -- step 3: the length
        (8192 < leAt pkt 8 4 ∨ pkt.length ≠ 16 + leAt pkt 8 4 →
          exec (.commandPacketArrival via pkt) s = .next (s.answer (reqOf via pkt) (leAt pkt 4 2) 5 8 [] false)) ∧
        (leAt pkt 8 4 ≤ 8192 → pkt.length = 16 + leAt pkt 8 4 →
          -- step 4: authentication where the transport requires it
          (s.authRequired via = true → leAt pkt 4 2 ∉ [0x0100, 0x0101, 0x0103] →
            exec (.commandPacketArrival via pkt) s = .next ((s.addSat CMD_ERR_COUNT CMD_ERR_COUNT_AUTH_FAIL 1).answer (reqOf via pkt)
              (leAt pkt 4 2) 7 0 [] false)) ∧
          (s.authRequired via = false ∨ leAt pkt 4 2 ∈ [0x0100, 0x0101, 0x0103] →
            -- step 5: the opcode
            (s.knownOpcode (leAt pkt 4 2) = false →
              exec (.commandPacketArrival via pkt) s = .next (s.answer (reqOf via pkt) (leAt pkt 4 2) 4 0 [] false)) ∧
            -- the queue
            (s.knownOpcode (leAt pkt 4 2) = true → s.cmd.queue.length < 8 →
              exec (.commandPacketArrival via pkt) s = .next { s with cmd := { s.cmd with queue :=
                s.cmd.queue ++ [{ req := reqOf via pkt, opc := leAt pkt 4 2, payload := pkt.drop 16 }] } }) ∧
            (s.knownOpcode (leAt pkt 4 2) = true → s.cmd.queue.length = 8 →
              exec (.commandPacketArrival via pkt) s = .next ((s.addSat CMD_ERR_COUNT CMD_ERR_COUNT_QUEUE_FULL 1).answer (reqOf via pkt)
                (leAt pkt 4 2) 2 0 [] false))))) ∧
      -- an authenticated packet: trailer, repeat, counter
      (leAt pkt 2 1 = 1 → leAt pkt 3 1 % 2 = 1 → leAt pkt 8 4 ≤ 8192 → pkt.length = 16 + leAt pkt 8 4 + 16 →
        ((s.trailerOk (reqOf via pkt) pkt = false ∨ (s.repeats (reqOf via pkt) pkt = false ∧ s.fresh (reqOf via pkt) = false)) →
          exec (.commandPacketArrival via pkt) s = .next ((s.addSat CMD_ERR_COUNT CMD_ERR_COUNT_AUTH_FAIL 1).answer (reqOf via pkt)
            (leAt pkt 4 2) 7 0 [] false)) ∧
        (∀ r, s.trailerOk (reqOf via pkt) pkt = true → s.repeats (reqOf via pkt) pkt = true →
          (s.session via).bind (·.lastReply) = some r → exec (.commandPacketArrival via pkt) s = .next (s.deliver r)) ∧
        (s.trailerOk (reqOf via pkt) pkt = true → s.repeats (reqOf via pkt) pkt = false → s.fresh (reqOf via pkt) = true →
          s.knownOpcode (leAt pkt 4 2) = true → s.cmd.queue.length < 8 →
          ∃ u, exec (.commandPacketArrival via pkt) s = .next u ∧
            u.cmd.queue = s.cmd.queue ++ [{ req := reqOf via pkt, opc := leAt pkt 4 2, payload := slice pkt 16 (leAt pkt 8 4) }] ∧
            (u.session via).map (fun x => (x.ctr, x.lastReq)) = some (leAt pkt 12 4, pkt) ∧ u.regs = s.regs ∧ u.mem = s.mem)))

/-- R46–R51, R541: each HSPI transaction outside OFF returns two status bytes and its data. Packet bytes that fit enter the receive FIFO;
what does not fit is discarded with OVR. The queues present their head, which leaves once its last byte is out; the last event releases
its interrupt line. REG_RD returns a word and a result byte. -/
def Obligations.HspiTransactions : Prop :=
  ∀ (s : State), s.boot.off = false →
    -- CMD_WRITE
    (∀ bytes, s.coreOn = true → bytes ≠ [] → bytes.length ≤ s.rxFree →
      exec (.cmdWrite bytes false) s = .next ((s.sayMiso s []).rxTake bytes)) ∧
    (∀ bytes, s.coreOn = true → bytes ≠ [] → s.rxFree < bytes.length →
      exec (.cmdWrite bytes false) s = .next (((s.sayMiso s []).setF CMD_HSPI_STATUS CMD_HSPI_STATUS_OVR 1).rxDiscard)) ∧
    (∀ bytes, s.coreOn = true → bytes.length ≤ s.rxFree →
      exec (.cmdWrite bytes true) s = .next (((s.sayMiso s []).setF CMD_HSPI_STATUS CMD_HSPI_STATUS_FRAME_ERR 1).rxDiscard)) ∧
    -- REPLY_READ, ALERT_READ, NOTICE_READ
    (∀ r rest, s.cmd.replies = r :: rest →
      exec (.replyRead false) s = .next (s.sayMiso s (0xA5 :: r.bytes)) ∧
      exec (.replyRead true) s = .next { s with cmd := { s.cmd with miso := s.statusBytes ++ 0xA5 :: r.bytes, replies := rest } }) ∧
    (∀ e rest, s.cmd.alerts = e :: rest →
      exec (.alertRead false) s = .next (s.sayMiso s (0xA5 :: e.bytes)) ∧
      exec (.alertRead true) s = .next { s with cmd := { s.cmd with miso := s.statusBytes ++ 0xA5 :: e.bytes, alerts := rest },
                                                pin := { s.pin with irq0 := !rest.isEmpty } }) ∧
    (∀ e rest, s.cmd.notices = e :: rest →
      exec (.noticeRead false) s = .next (s.sayMiso s (0xA5 :: e.bytes)) ∧
      exec (.noticeRead true) s = .next { s with cmd := { s.cmd with miso := s.statusBytes ++ 0xA5 :: e.bytes, notices := rest },
                                                 pin := { s.pin with irq1 := !rest.isEmpty } }) ∧
    (∀ c, (s.cmd.replies = [] → exec (.replyRead c) s = .next (s.sayMiso s [0x5A])) ∧
      (s.cmd.alerts = [] → exec (.alertRead c) s = .next (s.sayMiso s [0x5A])) ∧
      (s.cmd.notices = [] → exec (.noticeRead c) s = .next (s.sayMiso s [0x5A]))) ∧
    -- REG_RD
    (∀ a, (a % 4 ≠ 0 ∨ blkOf a = none) → exec (.regRd a) s = .next (s.sayMiso s (0xA5 :: zeros 4 ++ [0x02]))) ∧
    (∀ a, a % 4 = 0 → blkOf a ≠ none → s.isReg a = true → s.rdServed a = false →
      exec (.regRd a) s = .next (s.sayMiso s (0xA5 :: zeros 4 ++ [0x01]))) ∧
    (∀ a, a % 4 = 0 → blkOf a ≠ none → s.rdServed a = true →
      exec (.regRd a) s = .next ((s.readWord .hspi a).2.sayMiso s (0xA5 :: wordBytes (s.readWord .hspi a).1 ++ [0x00]))) ∧
    -- REG_WR of a register that takes the write
    (∀ a w b c ix t, takes s .hspi a = true → a % 4 = 0 → blkOf a = some b → cardAt a = some (c, ix) →
      s.blockWrite b (c.wrOf ix s a w (BitVec.ofNat 32 0xFFFFFFFF)) = (.done, t) →
      exec (.regWr a w) s = .next (t.sayMiso s [])) ∧
    -- status read
    exec .hspiStatusRead s = .next (s.sayMiso s (wordBytes (s.peek s.cmd.shHspi CMD_HSPI_STATUS)))

/-- R14, R50, R73: a write that a register takes by any path is the write of its block. The low word of an RS pair is read live and the
pair is kept in the path's shadow; the high word of the same pair then comes from the shadow, and of another pair live with PAIR_MISS. -/
def Obligations.PathWritesAndSnapshotReads : Prop :=
  ∀ (s : State) (path : Path) (a : Nat),
    (∀ w b c ix t, takes s path a = true → a % 4 = 0 → blkOf a = some b → cardAt a = some (c, ix) →
      s.blockWrite b (c.wrOf ix s a w (BitVec.ofNat 32 0xFFFFFFFF)) = (.done, t) → exec (.registerWrite path a w) s = .next t) ∧
    (s.boot.off = false → rsLow a = true → s.isReg a = true → s.regOn a = true →
      ∃ u, exec (.rsLowWordRead path a) s = .next u ∧ u.cmd.lastRead = s.peek (s.shadow path) a ∧
        (u.shadow path).pair = some a ∧ (u.shadow path).words = (rsGroup a).map (s.peek (s.shadow path)) ∧
        u.regs = s.regs ∧ u.mem = s.mem ∧ u.tm = s.tm ∧ u.pin = s.pin) ∧
    (∀ lo, s.boot.off = false → rsOf a = some lo → rsLow a = false → s.isReg a = true → s.regOn a = true →
      ∃ u, exec (.rsHighWordRead path a) s = .next u ∧ u.regs = s.regs ∧ u.mem = s.mem ∧ u.tm = s.tm ∧ u.pin = s.pin ∧
        ((s.shadow path).pair = some lo → u.cmd.lastRead = (s.shadow path).words.getD ((a - lo) / 4) 0 ∧
          (u.shadow path).miss = (s.shadow path).miss ∧
          (u.shadow path).torn = ((s.shadow path).torn || s.rsNow (s.shadow path) lo != (s.shadow path).words)) ∧
        ((s.shadow path).pair ≠ some lo → u.cmd.lastRead = s.peek (s.shadow path) a ∧ (u.shadow path).miss = true ∧
          (u.shadow path).torn = (s.shadow path).torn))

/-- R66 rows 15, 18, 19 and 20, R67, R68, R70, R71: the commands that start, hold, resume and stop scanning, and when they change nothing. -/
def Obligations.ScanStartHoldResumeStop : Prop :=
  ∀ (s t : State) (q : Req),
    -- SCAN_START from IDLE with every condition of R67
    (runs s q 0x0302 [] t → t.dev = .idle → t.missing = [] → t.profile ≠ 0 → t.columns ≠ 0 →
      (t.isMember = false → t.f FIR_SEQ FIR_SEQ_FSRC = 2 → t.fb FIR_SCHED FIR_SCHED_ARMED = true) →
      (t.isHead = true → t.f FIR_SEQ FIR_SEQ_FSRC ≠ 3) → (∀ l, l < 4 → t.linkOn l = true → t.linkState l ≠ 8) →
      (t.isHead = true → t.cas.hcalDue = false ∧ t.cas.hcalTimes = []) → t.staleBlocks = false →
      t.fb THM_STATE THM_STATE_HISTORY = false →
      exec (.scanStart q []) s = .next (((t.wr FIR_FRAME 0xFFFFFFFF).goto .primed 0x20).answer q 0x0302 0 0 [] q.auth)) ∧
    -- SCAN_HOLD: between columns, in a column, and in HOLD already
    (runs s q 0x0303 [] t → t.dev = .scanning → t.cmd.holdReq = none → t.fir.column = none →
      exec (.scanHold q []) s = .next ((t.goto .hold 0x30).answer q 0x0303 0 0 [] q.auth)) ∧
    (∀ c, runs s q 0x0303 [] t → t.dev = .scanning → t.cmd.holdReq = none → t.fir.column = some c →
      exec (.scanHold q []) s = .next { t with fir := { t.fir with holding := true }, cmd := { t.cmd with holdReq := some q } }) ∧
    (runs s q 0x0303 [] t → t.dev = .hold → exec (.scanHold q []) s = .next (t.answer q 0x0303 0 0 [] q.auth)) ∧
    -- the hold that waited for its column: entered once the last pulse has ended, or refused where hardware has left SCANNING
    (∀ r, s.cmd.holdReq = some r → s.dev = .scanning → s.fir.column = none →
      exec .holdEntry s = .next (((State.toTbs { s with cmd := { s.cmd with holdReq := none } } s.pulsesOver).goto .hold 0x30).answer
        r 0x0303 0 0 [] r.auth)) ∧
    (∀ r, s.cmd.holdReq = some r → s.dev ≠ .scanning →
      exec .holdEntry s = .next (State.answer { s with cmd := { s.cmd with holdReq := none } } r 0x0303 3 0 [] r.auth)) ∧
    -- SCAN_RESUME
    (runs s q 0x0304 [] t → t.dev = .hold →
      exec (.scanResume q []) s = .next ((t.goto .primed 0x31).answer q 0x0304 0 0 [] q.auth)) ∧
    (runs s q 0x0304 [] t → t.dev ≠ .hold → exec (.scanResume q []) s = .next (t.answer q 0x0304 3 0 [] q.auth)) ∧
    -- SCAN_STOP
    (runs s q 0x0305 [] t → t.dev ≠ .idle →
      exec (.scanStop q []) s = .next ((t.walkCancel.goto .idle 0x50).answer q 0x0305 0 0 [] q.auth)) ∧
    (runs s q 0x0305 [] t → t.dev = .idle → exec (.scanStop q []) s = .next (t.answer q 0x0305 0 0 [] q.auth))

/-- R42, R134–R136, R149, R150, R152, R210–R213, R405: warp commits, profile selections, frame schedules and shot keys: at once outside
SCANNING, deferred to a frame gap or a frame start in SCANNING, and made there. -/
def Obligations.CommitProfileScheduleAndKey : Prop :=
  ∀ (s t : State) (q : Req) (p : List Byte),
    -- WARP_COMMIT
    (runs s q 0x0300 [] t → t.domOn 11 = true → t.isMember = false → t.stagedCheck t.window t.binB = none →
      (t.dev ≠ .scanning → exec (.warpCommit q []) s = .next (t.warpInstall.answer q 0x0300 0 0 [] q.auth)) ∧
      (t.dev = .scanning → exec (.warpCommit q []) s = .next
        (((t.setF FIR_WARP_ACT FIR_WARP_ACT_PEND 1).addJob { req := q, opc := 0x0300, gap := true }).answer q 0x0300 1 0 [] q.auth))) ∧
    (∀ r, runs s q 0x0300 [] t → t.domOn 11 = true → t.isMember = false → t.stagedCheck t.window t.binB = some r →
      exec (.warpCommit q []) s = .next ((t.warpFail r).answer q 0x0300 6 0 [] q.auth)) ∧
    (runs s q 0x0300 [] t → (t.domOn 11 && !t.isMember) = false →
      exec (.warpCommit q []) s = .next (t.answer q 0x0300 3 0 [] q.auth)) ∧
    -- the deferred commit, alone
    (s.gapFor 0x0300 = true → s.profileJob = none → exec .deferredWarpCopy s = .next s.gapCommit) ∧
    -- PROFILE_SELECT
    (runs s q 0x0301 p t → p.length = 4 + 12 * fld p 17 1 → t.domOn 11 = true → firstBad (t.profileChecks p) = none →
      (t.dev = .scanning → exec (.profileSelect q p) s = .next ((State.addJob ((t.finishJobs 0x0301 0 0 []).setF FIR_PROFILE
        FIR_PROFILE_PEND 1) { req := q, opc := 0x0301, arg := leNat p, gap := true }).answer q 0x0301 1 0 [] q.auth)) ∧
      (t.dev ≠ .scanning → t.setState 0 = 0 → t.setState 1 = 0 →
        exec (.profileSelect q p) s = .next ((t.profileApply p).answer q 0x0301 0 0 [] q.auth))) ∧
    -- the deferred selection, alone
    (∀ j, s.profileJob = some j → j.gap = true → s.gapFor 0x0301 = true → s.gapFor 0x0300 = false → s.setState 0 = 0 → s.setState 1 = 0 →
      exec .deferredProfileApply s = .next
        (((s.setF FIR_PROFILE FIR_PROFILE_PEND 0).profileApply (profilePayload j.arg)).finishJobs 0x0301 0 0 [])) ∧
    -- FRAME_SCHEDULE
    (runs s q 0x0306 p t → p.length = 16 → t.domOn 11 = true → fld p 16 1 ≤ 1 → allZero (fldBytes p 17 3) = true →
      fld p 20 8 < 2 ^ 48 → fld p 28 4 < 10 ^ 9 → t.netRunning (fld p 16 1) = true →
      exec (.frameSchedule q p) s = .next (State.answer (State.setF (State.setF
        { t with fir := { t.fir with sched := some (fld p 20 8 * 10 ^ 9 + fld p 28 4, t.tm.now) } } FIR_SCHED FIR_SCHED_TB (fld p 16 1))
        FIR_SCHED FIR_SCHED_ARMED 1) q 0x0306 0 0 [] q.auth)) ∧
    -- KEY_SET
    (runs s q 0x0307 p t → p.length = 12 → t.domOn 11 = true → fld p 16 4 < 2 →
      (t.dev ≠ .scanning → exec (.keySet q p) s = .next
        ((State.applyKey { t with fir := { t.fir with keyPending := some (t.keyOf p) } }).answer q 0x0307 0 0 [] q.auth)) ∧
      (t.dev = .scanning → ∃ u, u = State.addJob ((t.finishJobs 0x0307 0 0 []).setF FIR_KEY_STAT FIR_KEY_STAT_PEND 1)
          { req := q, opc := 0x0307, gap := true } ∧
        exec (.keySet q p) s = .next
          (State.answer { u with fir := { u.fir with keyPending := some (u.keyOf p) } } q 0x0307 1 0 [] q.auth)))

/-- R458–R461, R465–R466, R470: CAL_RUN is accepted in the mode its state gives, a procedure's steps each take 4 µs, a complete procedure
ends with its results written or with CAL_FAILED, and CAL_STATUS and CAL_ACCEPT_STALE do what their rules say. -/
def Obligations.CalibrationRequestsAndProcedures : Prop :=
  ∀ (s t : State) (q : Req) (p : List Byte) (r : CalRun),
    -- CAL_RUN outside SCANNING, by stealing and in a gap
    (∀ mode phase, runs s q 0x0400 p t → p.length = 68 → firstBad (t.calRunChecks p) = none →
      (t.dev ≠ .scanning ∧ mode = .direct ∧ phase = 3 ∨
        t.dev = .scanning ∧ t.fb CAL_POLICY CAL_POLICY_STEAL = true ∧ mode = .steal ∧ phase = 2 ∨
        t.dev = .scanning ∧ t.fb CAL_POLICY CAL_POLICY_STEAL = false ∧ mode = .gap ∧ phase = 1) →
      r = { proc := fld p 16 1, fref := fld p 17 1 == 1, segs := fld p 18 2, mask := fld p 20 64, mode := mode, started := mode != .gap } →
      ∃ u, u = (t.answer q 0x0400 1 0 [] q.auth).addJob { req := q, opc := 0x0400 } ∧
        exec (.calRun q p) s = .next (State.calShow { u with cal := { u.cal with run := some r } } (fld p 16 1) phase)) ∧
    -- a step of a procedure that has started, outside SCANNING or in its gap
    (∀ counts, s.cal.run = some r → calEmits r.proc = false → r.steps < calSteps r.proc r.mask → r.started = true → r.mode = .gap →
      exec (.calProcedureStep counts) s = .next ((s.at_ (s.tm.now + 4 * tickUs)).calStepDone r counts)) ∧
    (∀ counts, s.cal.run = some r → calEmits r.proc = false → r.steps < calSteps r.proc r.mask → r.started = true → r.mode = .direct →
      exec (.calProcedureStep counts) s = .next (((s.at_ (s.tm.now + 4 * tickUs)).calShow r.proc 3).calStepDone r counts)) ∧
    -- a step in a stolen column with 4 µs left
    (∀ counts a b, s.cal.run = some r → calEmits r.proc = false → r.steps < calSteps r.proc r.mask → r.mode = .steal →
      r.window = some (a, b) → Nat.max a s.tbs + 4 * tickUs ≤ b →
      exec (.calProcedureStep counts) s = .next ((s.toTbs (Nat.max a s.tbs + 4 * tickUs)).calStepDone r counts)) ∧
    -- the end of a complete procedure (MEMTEST also records its quarters)
    (∀ vals d, s.cal.run = some r → calComplete r = true → r.proc ≠ 8 → (s.calOut r vals).fail = some d →
      exec (.calProcedureEnd vals) s = .next (s.calFinish r.proc 0x0011 d (s.calOut r vals).q0 (s.calOut r vals).q1)) ∧
    (∀ vals, s.cal.run = some r → calComplete r = true → r.proc ≠ 8 → (s.calOut r vals).fail = none →
      exec (.calProcedureEnd vals) s = .next ((((s.calWrite (s.calOut r vals).words).calKeep r (s.calOut r vals)).markDone r).calFinish
        r.proc 0 0 (s.calOut r vals).q0 (s.calOut r vals).q1)) ∧
    -- CAL_STATUS
    (runs s q 0x0401 p t → p.length = 4 → 1 ≤ fld p 16 1 → fld p 16 1 ≤ 8 → allZero (fldBytes p 17 3) = true →
      ∃ e, e = (Sp.find t.cal.ends (fld p 16 1)).getD { status := 0xFFFF, detail := 0, runs := 0, tbl := 0, q0 := 0, q1 := 0 } ∧
        exec (.calStatus q p) s = .next (t.answer q 0x0401 0 0 (leBytes 2 e.status ++ leBytes 2 e.detail ++ leBytes 4 e.runs
          ++ leBytes 8 e.tbl ++ leBytes 4 e.q0 ++ leBytes 4 e.q1) q.auth)) ∧
    -- CAL_ACCEPT_STALE: bits 2 to 9 of the mask are domains 2 to 9
    (runs s q 0x0402 p t → p.length = 4 → fld p 16 4 % 4 = 0 → fld p 16 4 < 1024 →
      exec (.calAcceptStale q p) s = .next ((t.setF CAL_STALE CAL_STALE_ACCEPTED
        (t.f CAL_STALE CAL_STALE_ACCEPTED ||| (fld p 16 4 / 4 &&& t.f CAL_STALE CAL_STALE_STALE))).answer q 0x0402 0 0 [] q.auth))

/-- R307, R308, R323, R328: the emission-safety requests: the status words, the clear of the Deadbolt where no latched cause is stuck, the
exposure limits under their ceilings, and the self-tests with their result. -/
def Obligations.SafetyRequests : Prop :=
  ∀ (s t : State) (q : Req) (p : List Byte),
    -- SAFETY_STATUS
    (runs s q 0x0500 [] t → t.isMS = true →
      exec (.safetyStatus q []) s = .next (t.answer q 0x0500 0 0 (wordBytes t.condWord ++ wordBytes (t.rd ESF_CAUSE)
        ++ wordBytes (t.rd ESF_TRIP) ++ wordBytes (t.rd ESF_TRIP_LO) ++ wordBytes (t.rd ESF_TRIP_HI) ++ wordBytes t.esfIn
        ++ wordBytes (t.rd ESF_WALK_STAT) ++ wordBytes t.diagWord ++ (List.range 3).flatMap (fun w => wordBytes (t.rd (ESF_EXP_PEAK w)))
        ++ (List.range 3).flatMap (fun w => wordBytes (t.expLevelWord w)) ++ wordBytes t.zonesNow ++ wordBytes (t.rd ZON_CMD_STAT)
        ++ wordBytes (t.rd ZON_CMD)) q.auth)) ∧
    -- DEADBOLT_CLEAR
    (runs s q 0x0501 [] t → t.causes.all t.clearable = true →
      exec (.deadboltClear q []) s = .next (((t.unlatch t.causes).noteConds t).answer q 0x0501 0 0 [] q.auth)) ∧
    (runs s q 0x0501 [] t → t.causes.all t.clearable = false →
      exec (.deadboltClear q []) s = .next
        (t.answer q 0x0501 0x20 (bitsOf (t.causes.filter (fun c => !t.clearable c))) [] q.auth)) ∧
    -- EXPOSURE_LIMITS
    (runs s q 0x0502 p t → p.length = 12 → (∀ w, w < 3 → fld p (16 + 4 * w) 4 ≤ (t.rd (ESF_EXP_CEIL w)).toNat) →
      (t.dev = .scanning → ∀ w, w < 3 → fld p (16 + 4 * w) 4 ≤ (t.rd (ESF_EXP_LIM w)).toNat) →
      ∃ u, u = ((t.wr (ESF_EXP_LIM 0) (BitVec.ofNat 32 (fld p 16 4))).wr (ESF_EXP_LIM 1) (BitVec.ofNat 32 (fld p 20 4))).wr (ESF_EXP_LIM 2)
          (BitVec.ofNat 32 (fld p 24 4)) ∧
        exec (.exposureLimits q p) s = .next ((u.noteConds t).answer q 0x0502 0 0 [] q.auth)) ∧
    -- SAFETY_SELF_TEST outside SCANNING
    (runs s q 0x0503 p t → p.length = 4 → fld p 16 4 &&& t.selfTests = fld p 16 4 → t.jobOf 0x0503 = false → t.dev ≠ .scanning →
      exec (.safetySelfTest q p) s = .next
        ((t.addJob { req := q, opc := 0x0503, arg := fld p 16 4, gap := false }).answer q 0x0503 1 0 [] q.auth)) ∧
    -- its end: TEST_FAIL of the tests run shows which failed
    (∀ j failed u, s.cmd.jobs.find? (fun j => j.opc = 0x0503) = some j → j.gap = false →
      u = s.setF ESF_DIAG ESF_DIAG_TEST_FAIL (s.f ESF_DIAG ESF_DIAG_TEST_FAIL - (s.f ESF_DIAG ESF_DIAG_TEST_FAIL &&& j.arg)
        + (failed &&& j.arg)) →
      exec (.safetySelfTestDone failed) s = .next ((u.noteConds s).finishJobs 0x0503 0 0 (leBytes 4 (failed &&& j.arg))))

/-- R330, R338–R341: zone commits at once outside SCANNING and in the gap in SCANNING, and safety commands that wait for their copy. -/
def Obligations.ZoneCommitAndSafeCommand : Prop :=
  ∀ (s t : State) (q : Req) (p : List Byte),
    -- ZONE_COMMIT outside SCANNING: copied, or refused with its reason in ZON_COMMIT_STAT
    (runs s q 0x0504 [] t → t.domOn 10 = true → t.dev ≠ .scanning → t.zoneCopy.1 = true →
      exec (.zoneCommit q []) s = .next (t.zoneCopy.2.answer q 0x0504 0 0 [] q.auth)) ∧
    (runs s q 0x0504 [] t → t.domOn 10 = true → t.dev ≠ .scanning → t.zoneCopy.1 = false →
      exec (.zoneCommit q []) s = .next (t.zoneCopy.2.answer q 0x0504 6 0 [] q.auth)) ∧
    -- in SCANNING, and then in the gap
    (runs s q 0x0504 [] t → t.domOn 10 = true → t.dev = .scanning →
      exec (.zoneCommit q []) s = .next (((t.answer q 0x0504 1 0 [] q.auth).addJob { req := q, opc := 0x0504, gap := true }).setF
        ZON_COMMIT_STAT ZON_COMMIT_STAT_PEND 1)) ∧
    (s.gapFor 0x0504 = true → exec .deferredZoneCopy s = .next
      ((s.zoneCopy.2.setF ZON_COMMIT_STAT ZON_COMMIT_STAT_PEND 0).finishJobs 0x0504 (if s.zoneCopy.1 then 0 else 6) 0 [])) ∧
    -- SAFE_COMMAND on its own port, checked: the first copy waits in the port's slot
    (∀ port u, runs s q 0x0505 p t → t.safePort q = some port → p.length = 32 → t.domOn 10 = true → firstBad (t.safeChecks p) = none →
      t.slotOf port = none → u = t.putSlot port (some { req := q, payload := p, tbl := t.tbl }) →
      exec (.safeCommand q p) s = .next u.safePair) ∧
    (runs s q 0x0505 p t → t.safePort q = none → exec (.safeCommand q p) s = .next (t.answer q 0x0505 0x20 7 [] q.auth)) ∧
    -- a copy left alone
    (∀ c, s.zon.slotA = some c ∨ (s.zon.slotA = none ∧ s.zon.slotB = some c) →
      ∃ port u, port = (if s.zon.slotA = some c then Port.A else Port.B) ∧ u = s.at_ (s.tm.now + (c.tbl + 8000000 - s.tbl) * 64) ∧
        exec .safeCommandUnpaired s = .next
          (((u.putSlot port none).addSat ZON_CNT ZON_CNT_UNPAIRED 1).answer c.req 0x0505 0x20 1 [] c.req.auth))

/-- R282, R283, R289, R290, R297, R298: the recorder's requests: a checked REC_ARM loads its 22 words and starts filling segment 0,
REC_DISARM ends the capture, REC_TRIGGER meets the trigger rules at once, and REC_STATUS and REC_READ return words and units. -/
def Obligations.RecorderRequests : Prop :=
  ∀ (s t : State) (q : Req) (p : List Byte),
    (runs s q 0x0600 p t → p.length = 88 → t.domOn 14 = true → t.evr.clearing = false → (t.recState = 0 ∨ 5 ≤ t.recState) →
      firstBad (t.armChecks ((List.range 22).map (fun i => fld p (16 + 4 * i) 4))) = none →
      exec (.recArm q p) s = .next ((t.recArm ((List.range 22).map (fun i => fld p (16 + 4 * i) 4))).answer q 0x0600 0 0 [] q.auth)) ∧
    (runs s q 0x0601 [] t → exec (.recDisarm q []) s = .next (t.recDisarm.answer q 0x0601 0 0 [] q.auth)) ∧
    (runs s q 0x0602 [] t → t.recState ≠ 0 → t.recState ≠ 5 → exec (.recTrigger q []) s = .next
      ((t.meetTrigger 0 t.tbs).2.answer q 0x0602 0 (t.meetTrigger 0 t.tbs).1 [] q.auth)) ∧
    (runs s q 0x0602 [] t → (t.recState = 0 ∨ t.recState = 5) → exec (.recTrigger q []) s = .next (t.answer q 0x0602 3 0 [] q.auth)) ∧
    (runs s q 0x0603 [] t → exec (.recStatus q []) s = .next
      (t.answer q 0x0603 0 0 ((List.range 48).flatMap (fun i => wordBytes (t.rd (0xB0000 + 4 * i)))) q.auth)) ∧
    (runs s q 0x0604 p t → p.length = 12 → firstBad (t.recReadChecks p) = none →
      exec (.recRead q p) s = .next (t.answer q 0x0604 0 0 ((List.range (fld p 24 4 / 16)).flatMap (fun k =>
        t.bytes (0x20000000 + 16 * (fld p 16 1 * t.segS + (t.f (EVR_SEG_INFO (fld p 16 1)) EVR_SEG_INFO_START - fld p 16 1 * t.segS
          + (fld p 20 4 / 16 + k)) % t.segS)) 16)) q.auth))

/-- R279, R281, R284–R288, R293–R296, R301: what happens in the recorder while it runs: PRE reached, the oldest trigger met, items and gap
records written, a capture ended and held, the next segment filled 1 µs after it is FREE, mask samples tested. -/
def Obligations.RecorderRuns : Prop :=
  ∀ (s : State),
    -- RECORDER_PRE_REACHED: FILLING goes to ARMED once PRE units are written
    (s.recState = 1 → s.f EVR_PRE EVR_PRE_PRE ≤ s.evr.fill → exec .recorderPreReached s = .next (s.setF EVR_STATE EVR_STATE_STATE 2)) ∧
    -- RECORDER_TRIGGER
    (∀ src x rest, s.evr.triggers = (src, x) :: rest →
      exec .recorderTrigger s = .next (State.meetTrigger { s with evr := { s.evr with triggers := rest } } src x).2) ∧
    -- RECORDER_ITEM: rows before monitor records before events
    ((s.recState ≠ 3 ∨ s.evr.left ≠ 0) →
      (∀ r rest, s.evr.rowq = r :: rest →
        exec .recorderItem s = .next (State.putRow { s with evr := { s.evr with rowq := rest } } r)) ∧
      (∀ a b rest, s.evr.rowq = [] → s.evr.monq = (a, b) :: rest →
        exec .recorderItem s = .next (State.putRecord { s with evr := { s.evr with monq := rest } } a b)) ∧
      (∀ a b rest, s.evr.rowq = [] → s.evr.monq = [] → s.evr.evq = (a, b) :: rest →
        exec .recorderItem s = .next (State.putRecord { s with evr := { s.evr with evq := rest } } a b))) ∧
    -- CAPTURE_END: DONE, or REARM where the configuration says so; the segment is held with its units
    (s.recState = 3 → s.evr.left = 0 →
      ∃ u, u = s.setF EVR_STATE EVR_STATE_STATE (if s.fb EVR_SRC EVR_SRC_REARM then 4 else 5) ∧
        exec .captureEnd s = .next (u.holdSegment
          (Nat.min s.evr.before (u.segS - s.f EVR_POST EVR_POST_POST - 1) + 1 + s.f EVR_POST EVR_POST_POST) 0)) ∧
    -- SEGMENT_RESTART
    (∀ g, g = (s.recSeg + 1) % 2 ^ s.f EVR_SRC EVR_SRC_NSEG_LOG2 → s.recState = 4 → s.segStatus g = 0 →
      exec .segmentRestart s = .next ((s.at_ (Nat.max s.evr.endAt (Sp.get (fun _ => 0) s.evr.freeAt g) + 64000)).fillSegment g)) ∧
    -- LOSS_EPISODE_CLOSE of the monitor and of the event stream, with the FIFO low and after 16 µs
    (∀ l, s.evr.lossM = some l → s.evr.monq.length ≤ 32 →
      exec (.lossEpisodeClose true) s = .next (State.gapRecord { s with evr := { s.evr with lossM := none } } 2 l)) ∧
    (∀ l, s.evr.lossE = some l → s.evr.evq.length ≤ 128 →
      exec (.lossEpisodeClose false) s = .next (State.gapRecord { s with evr := { s.evr with lossE := none } } 1 l)) ∧
    (∀ l, s.evr.lossE = some l → 128 < s.evr.evq.length → ∃ u, u = s.at_ (l.began + 16 * tickUs) ∧
      exec (.lossEpisodeClose false) s = .next (State.gapRecord { u with evr := { u.evr with lossE := none } } 1 l)) ∧
    -- MASK_SAMPLE_TEST
    (∀ x rest, s.evr.samples = x :: rest →
      exec .maskSampleTest s = .next (State.maskTest { s with evr := { s.evr with samples := rest } } x)) ∧
    -- RECORDER_MEMORY_CLEARED
    exec .recorderMemoryCleared s = .next { s with evr := { s.evr with clearing := false } }

/-- R372, R375, R376, R380, R384, R385: the time requests: TIME_READ's bytes; TIME_SET of TBS and of the network bases, by value, by step
and by frequency; PTP_CONFIG, ASYM_SET, TXTS_READ and LAUNCH_CONFIG. -/
def Obligations.TimeRequests : Prop :=
  ∀ (s t : State) (q : Req) (p : List Byte),
    (runs s q 0x0700 [] t → exec (.timeRead q []) s = .next (t.answer q 0x0700 0 0
      (leBytes 8 t.tbs ++ leBytes 8 t.tbl ++ netBytes (t.netRead 0) ++ wordBytes (t.rd (TIM_TBx_STATE 0)) ++ netBytes (t.netRead 1)
        ++ wordBytes (t.rd (TIM_TBx_STATE 1))) q.auth)) ∧
    (runs s q 0x0701 p t → p.length = 16 → firstBad (t.timeSetChecks p) = none →
      -- TIME_SET with OP 0, of TBS and of a network base
      (fld p 17 1 = 0 → fld p 16 1 = 0 → exec (.timeSetValue q p) s = .next
        ((State.discipline { t with tm := { t.tm with tbs := fld p 20 8 * 2 ^ 32 } }).answer q 0x0701 0 0 [] q.auth)) ∧
      (fld p 17 1 = 0 → fld p 16 1 ≠ 0 → exec (.timeSetValue q p) s = .next
        ((t.netStepped (fld p 16 1 - 1) ((fld p 20 8 * 10 ^ 9 + fld p 28 4) * 2 ^ 48)).discipline.answer q 0x0701 0 0 [] q.auth)) ∧
      -- OP 1
      (fld p 17 1 = 1 → fld p 16 1 = 0 → exec (.timeSetStep q p) s = .next
        ((State.discipline { t with tm := { t.tm with tbs := (((t.tm.tbs : Int) + sx 64 (fld p 20 8) * 2 ^ 32) % 2 ^ 96).toNat } }).answer
          q 0x0701 0 0 [] q.auth)) ∧
      (fld p 17 1 = 1 → fld p 16 1 ≠ 0 → exec (.timeSetStep q p) s = .next
        ((t.netStepped (fld p 16 1 - 1) (((t.netFrom (fld p 16 1 - 1) : Int) + sx 64 (fld p 20 8) * 2 ^ 48)
          % (2 ^ 48 * 10 ^ 9 * 2 ^ 48)).toNat).discipline.answer q 0x0701 0 0 [] q.auth)) ∧
      -- OP 2
      (fld p 17 1 = 2 → fld p 16 1 = 0 → exec (.timeSetFrequency q p) s = .next
        ((t.wr TIM_TBS_FREQ (BitVec.ofNat 32 (fld p 20 8))).discipline.answer q 0x0701 0 0 [] q.auth)) ∧
      (fld p 17 1 = 2 → fld p 16 1 ≠ 0 → t.netRunning (fld p 16 1 - 1) = true → exec (.timeSetFrequency q p) s = .next
        ((t.wr (TIM_TBx_RATE (fld p 16 1 - 1)) (BitVec.ofNat 32 (fld p 20 8))).discipline.answer q 0x0701 0 0 [] q.auth))) ∧
    -- PTP_CONFIG: a running base returns to FREE
    (∀ e w, runs s q 0x0702 p t → p.length = 16 → firstBad (t.ptpChecks p) = none →
      e = { prio1 := fld p 24 1, prio2 := fld p 25 1, logSync := fldS p 21 1, logAnnounce := fldS p 22 1, logDelay := fldS p 23 1,
            stepLimit := fld p 28 4 } →
      w = fld p 20 1 * 2 ^ 24 + fld p 17 1 * 2 ^ 22 + fld p 18 1 * 2 ^ 21 + fld p 19 1 * 2 ^ 20
        + (if t.netRunning (fld p 16 1) then 9 else 0) →
      exec (.ptpConfig q p) s = .next
        ((((t.setPtp (fld p 16 1) e).wr (TIM_TBx_STATE (fld p 16 1)) (BitVec.ofNat 32 w)).discipline).answer q 0x0702 0 0 [] q.auth)) ∧
    -- ASYM_SET, where the base is not in HOLDOVER for cause 3
    (∀ u, runs s q 0x0703 p t → p.length = 8 → fld p 16 1 ≤ 1 → allZero (fldBytes p 17 3) = true →
      u = (t.wr (TIM_TBx_ASYM (fld p 16 1)) (BitVec.ofNat 32 (fld p 20 4))).setF (TIM_TBx_STATE (fld p 16 1)) TIM_TBx_STATE_ASYM_SUSPECT 0 →
      u.baseState (fld p 16 1) ≠ 4 → exec (.asymSet q p) s = .next (u.answer q 0x0703 0 0 [] q.auth)) ∧
    -- TXTS_READ
    (∀ n, runs s q 0x0704 p t → p.length = 4 → 1 ≤ fld p 16 4 → fld p 16 4 ≤ 16 → n = Nat.min (fld p 16 4) t.tm.txts.length →
      exec (.txtsRead q p) s = .next ((State.setF { t with tm := { t.tm with txts := t.tm.txts.drop n } } TIM_STATUS TIM_STATUS_LEVEL
        (t.tm.txts.drop n).length).answer q 0x0704 0 0 (leBytes 4 (n + 256 * (t.tm.txts.drop n).length) ++ (t.tm.txts.take n).flatMap id)
        q.auth)) ∧
    -- LAUNCH_CONFIG
    (runs s q 0x0705 p t → p.length = 8 → fld p 16 1 ≤ 1 → fld p 17 1 ≤ 1 → fld p 18 1 ≤ 7 → fld p 19 1 ≤ 1 →
      (fld p 18 1 % 2 = 1 → t.netRunning (fld p 19 1) = true) → fld p 20 4 ≤ 100000000 →
      exec (.launchConfig q p) s = .next ((t.wr (TIM_LQ_CFG (2 * fld p 16 1 + fld p 17 1)) (BitVec.ofNat 32
        (fld p 18 1 % 2 * 2 ^ 31 + fld p 18 1 / 2 % 2 * 2 ^ 30 + fld p 18 1 / 4 % 2 * 2 ^ 29 + fld p 19 1 * 2 ^ 28 + fld p 20 4))).answer
        q 0x0705 0 0 [] q.auth))

/-- R398, R404, R406, R422–R424, R428: the link and cascade requests: status words, training and release of links, the cascade's
configuration in IDLE, and the link tests with their end. -/
def Obligations.LinkAndCascadeRequests : Prop :=
  ∀ (s t : State) (q : Req) (p : List Byte) (l : Nat),
    l = fld p 16 1 →
    -- LINK_STATUS
    (runs s q 0x0800 p t → p.length = 4 → t.linkOn l = true → allZero (fldBytes p 17 3) = true →
      exec (.linkStatus q p) s = .next (t.answer q 0x0800 0 0 (wordBytes (t.rd (WFL_STATE l))
        ++ (List.range 8).flatMap (fun j => wordBytes (t.rd (WFL_PCAP l j)))
        ++ (List.range 4).flatMap (fun k => wordBytes (t.rd (WFL_LANE_STAT l k)))) q.auth)) ∧
    -- LINK_TRAIN of the links that a mask names
    (runs s q 0x0801 p t → p.length = 4 → (bitsSet 8 l).all t.linkOn = true → allZero (fldBytes p 17 3) = true →
      exec (.linkTrain q p) s = .next
        ((t.forEach (bitsSet 4 l) (fun s k => (s.setF (WFL_CTRL k) WFL_CTRL_EN 1).startLink k)).answer q 0x0801 0 0 [] q.auth)) ∧
    -- LINK_RELEASE
    (runs s q 0x0802 p t → p.length = 4 → t.linkOn l = true → allZero (fldBytes p 17 3) = true →
      exec (.linkRelease q p) s = .next (((t.setF (WFL_CTRL l) WFL_CTRL_EN 0).toLink l 0).answer q 0x0802 0 0 [] q.auth)) ∧
    -- CASCADE_CONFIG
    (∀ u, runs s q 0x0803 p t → t.dev = .idle → p.length = 8 → firstBad (t.casChecks p) = none →
      u = (t.casLoad l (fld p 17 1) (fld p 18 1) (fld p 19 1) (fld p 20 4)).holdUnused.lostUp →
      exec (.cascadeConfig q p) s = .next ((u.forEach (List.range 4)
        (fun s k => if s.fb (WFL_CTRL k) WFL_CTRL_EN then s.sendCapx k else s)).readyCheck.answer q 0x0803 0 0 [] q.auth)) ∧
    (runs s q 0x0803 p t → t.dev ≠ .idle → exec (.cascadeConfig q p) s = .next (t.answer q 0x0803 3 0 [] q.auth)) ∧
    -- LINK_TEST, a PRBS, which takes a link that is not DOWN to TEST, and a margin scan
    (∀ u v, runs s q 0x0804 p t → p.length = 8 → firstBad (t.linkTestChecks p) = none → fld p 17 1 ≠ 4 →
      u = State.forEach ((State.setF ((t.answer q 0x0804 1 0 [] q.auth).addJob { req := q, opc := 0x0804, arg := l }) (WFL_TEST l)
          WFL_TEST_KIND (fld p 17 1)).setF (WFL_TEST l) WFL_TEST_RUN 1) (bitsSet 4 (fld p 18 1))
          (fun s k => ((s.wr (WFL_LANE_ERR l k) 0).wr (WFL_LANE_BITS_LO l k) 0).wr (WFL_LANE_BITS_HI l k) 0) →
      v = (if u.linkState l = 0 then u else u.toLink l 9) →
      exec (.linkTestPrbs q p) s = .next
        (v.putLink l { v.link l with test := some (fld p 17 1, fld p 18 1, v.tm.now + fld p 20 4 * tickMs) })) ∧
    (∀ u, runs s q 0x0804 p t → p.length = 8 → firstBad (t.linkTestChecks p) = none → fld p 17 1 = 4 →
      u = (State.setF ((t.answer q 0x0804 1 0 [] q.auth).addJob { req := q, opc := 0x0804, arg := l }) (WFL_TEST l)
          WFL_TEST_KIND 4).setF (WFL_TEST l) WFL_TEST_RUN 1 →
      exec (.linkTestMargin q p) s = .next (u.putLink l { u.link l with
        test := some (4, fld p 18 1, u.tm.now + (bitsSet 4 (fld p 18 1)).length * 8400 * tickUs) })) ∧
    -- its end, on a link that was not taken to TEST
    (∀ r kind lanes e u v, (s.link l).test = some (kind, lanes, e) →
      u = State.setF ((s.at_ e).putLink l { (s.at_ e).link l with test := none }) (WFL_TEST l) WFL_TEST_RUN 0 →
      v = State.laneResults l kind lanes r [0, 1, 2, 3] ([], u) → v.2.linkState l ≠ 9 →
      exec (.linkTestDone l r) s = .next (v.2.finishJobs 0x0804 0 0 v.1))

/-- R474, R476, R479–R483, R491, R492: the power and thermal requests: domain switches and their end, thermal words, the acknowledgement
of a shutdown record, the NV log and the thermal limits. -/
def Obligations.PowerAndThermalRequests : Prop :=
  ∀ (s t : State) (q : Req) (p : List Byte),
    -- PWR_DOMAIN of a domain whose state changes: the switch begins, and ends with its reply
    (runs s q 0x0900 p t → p.length = 4 → t.boot.switching = none → firstBad (t.domainChecks p) = none →
      (fld p 17 1 = 1 → t.domOn (fld p 16 1) = false →
        exec (.pwrDomainOn q p) s = .next { t with boot := { t.boot with switching := some (fld p 16 1, true, q) } }) ∧
      (fld p 17 1 = 0 → t.domOn (fld p 16 1) = true →
        exec (.pwrDomainOff q p) s = .next { t with boot := { t.boot with switching := some (fld p 16 1, false, q) } }) ∧
      (fld p 17 1 = 1 → t.domOn (fld p 16 1) = true → exec (.pwrDomainOn q p) s = .next (t.answer q 0x0900 0 0 [] q.auth)) ∧
      (fld p 17 1 = 0 → t.domOn (fld p 16 1) = false → exec (.pwrDomainOff q p) s = .next (t.answer q 0x0900 0 0 [] q.auth))) ∧
    (∀ d r, s.boot.switching = some (d, true, r) → exec .domainSwitchOnDone s = .next
      ((State.domainUp { s with boot := { s.boot with switching := none } } d).answer r 0x0900 0 0 [] r.auth)) ∧
    (∀ d r, s.boot.switching = some (d, false, r) → exec .domainSwitchOffDone s = .next
      ((State.domainDown { s with boot := { s.boot with switching := none } } d).answer r 0x0900 0 0 [] r.auth)) ∧
    -- THERMAL_STATUS
    (runs s q 0x0901 [] t → exec (.thermalStatus q []) s = .next
      (t.answer q 0x0901 0 0 ((List.range 20).flatMap (fun k => wordBytes (t.live {} (THM_TS 0 + 4 * k)))) q.auth)) ∧
    -- ACK_THERMAL_EVENT
    (∀ n u, runs s q 0x0902 p t → p.length = 4 → n = fld p 16 4 → n ∈ t.shutdownsAfter (t.rd THM_NVLOG_ACK).toNat →
      u = (t.nvNow (t.nvBody nvAck t.dev.code 0 n)).setF THM_STATE THM_STATE_HISTORY (if t.shutdownsAfter n = [] then 0 else 1) →
      exec (.ackThermalEvent q p) s = .next ((u.noteConds t).answer q 0x0902 0 0 [] q.auth)) ∧
    -- NVLOG_READ
    (∀ rs, runs s q 0x0903 p t → p.length = 8 → 1 ≤ fld p 20 1 → fld p 20 1 ≤ 125 → allZero (fldBytes p 21 3) = true →
      rs = t.nvRecords (fld p 16 4) (fld p 20 1) →
      exec (.nvlogRead q p) s = .next (t.answer q 0x0903 0 0 (leBytes 4 (rs.length + t.nvHeld.length * 256) ++ rs.flatten) q.auth)) ∧
    -- THERMAL_LIMITS: each from 60 °C to its fuse, rising by 5 °C
    (runs s q 0x0904 p t → p.length = 8 → 960 ≤ fldS p 16 2 → fldS p 16 2 ≤ sx 16 t.boot.shadows.warn → fldS p 16 2 + 80 ≤ fldS p 18 2 →
      fldS p 18 2 ≤ sx 16 t.boot.shadows.throttle → fldS p 18 2 + 80 ≤ fldS p 20 2 → fldS p 20 2 ≤ sx 16 t.boot.shadows.shutdown →
      allZero (fldBytes p 22 2) = true →
      exec (.thermalLimits q p) s = .next (State.thermalLevels ((((t.setF THM_LIM0 THM_LIM0_WARN (fld p 16 2)).setF THM_LIM0 THM_LIM0_THROTTLE
        (fld p 18 2)).setF THM_LIM1 THM_LIM1_SHUTDOWN (fld p 20 2)).answer q 0x0904 0 0 [] q.auth)))

/-- R506–R509: the image and flash requests: a slot's header and codes, flash read, erased and written (a write of what was not erased
leaves the AND of old and new bytes), a slot's check, and the slot booted next. -/
def Obligations.ImageAndFlashRequests : Prop :=
  ∀ (s t : State) (q : Req) (p : List Byte),
    (runs s q 0x0A00 p t → p.length = 4 → fld p 16 1 ≤ 1 → allZero (fldBytes p 17 3) = true →
      exec (.imageInfo q p) s = .next (t.answer q 0x0A00 0 0 (leBytes 4 (t.headerCode (t.slotHeader (fld p 16 1))
        + (Sp.find t.boot.checked (fld p 16 1)).getD 0xFF * 2 ^ 8 + (if t.boot.booted = some (fld p 16 1) then 1 else 0) * 2 ^ 16
        + (if t.boot.nvNext = fld p 16 1 then 1 else 0) * 2 ^ 17) ++ t.slotHeader (fld p 16 1)) q.auth)) ∧
    (runs s q 0x0A01 p t → p.length = 8 → 1 ≤ fld p 20 4 → fld p 20 4 ≤ 8064 → fld p 16 4 + fld p 20 4 ≤ t.boot.flashSize →
      t.boot.flashOps = [] →
      exec (.flashRead q p) s = .next (t.answer q 0x0A01 0 0 (t.flashBytes (fld p 16 4) (fld p 20 4)) q.auth)) ∧
    (runs s q 0x0A02 p t → p.length = 8 → fld p 16 4 % 65536 = 0 → 1 ≤ fld p 20 4 →
      fld p 16 4 + 65536 * fld p 20 4 ≤ t.boot.flashSize → t.touchesBooted (fld p 16 4) (65536 * fld p 20 4) = false → t.boot.flashOps = [] →
      exec (.flashErase q p) s = .next ((State.addJob { t with boot := { t.boot with flashOps := [.erase (fld p 16 4) (fld p 20 4)] } }
        { req := q, opc := 0x0A02 }).answer q 0x0A02 1 0 [] q.auth)) ∧
    (runs s q 0x0A03 p t → 5 ≤ p.length → p.length ≤ 8064 → fld p 16 4 + (p.length - 4) ≤ t.boot.flashSize →
      t.touchesBooted (fld p 16 4) (p.length - 4) = false → t.boot.flashOps = [] →
      exec (.flashWrite q p) s = .next ((State.addJob { t with boot := { t.boot with flashOps := [.write (fld p 16 4) (p.drop 4)] } }
        { req := q, opc := 0x0A03 }).answer q 0x0A03 1 0 [] q.auth)) ∧
    -- the operation ends
    (∀ a n rest, s.boot.flashOps = .erase a n :: rest → exec .flashOperationDone s = .next (State.finishJobs
      { s with boot := { s.boot with flash := Sp.drop (fun k => decide (a ≤ k) && decide (k < a + 65536 * n)) s.boot.flash, flashOps := [] } }
      0x0A02 0 0 [])) ∧
    (∀ a data rest, s.boot.flashOps = .write a data :: rest → exec .flashOperationDone s = .next (State.finishJobs
      { s with boot := { s.boot with flash := flashPut (fun old new => old &&& new) s.boot.flash a data, flashOps := [] } } 0x0A03 0 0 [])) ∧
    -- IMAGE_VERIFY and its end
    (runs s q 0x0A04 p t → p.length = 4 → fld p 16 1 ≤ 1 → allZero (fldBytes p 17 3) = true → t.boot.flashOps = [] →
      exec (.imageVerify q p) s = .next ((State.addJob { t with boot := { t.boot with flashOps := [.verify (fld p 16 1)] } }
        { req := q, opc := 0x0A04 }).answer q 0x0A04 1 0 [] q.auth)) ∧
    (∀ slot rest readErr u, s.boot.flashOps = .verify slot :: rest → u = { s with boot := { s.boot with flashOps := [] } } →
      exec (.imageVerifyDone readErr) s = .next
        ((u.noteCheck slot (s.slotCode slot readErr)).finishJobs 0x0A04 0 0 (leBytes 4 (s.slotCode slot readErr)))) ∧
    -- IMAGE_SELECT
    (runs s q 0x0A05 p t → p.length = 4 → fld p 16 1 ≤ 1 → allZero (fldBytes p 17 3) = true → t.boot.flashOps = [] →
      exec (.imageSelect q p) s = .next ((State.setF { t with boot := { t.boot with nvNext := fld p 16 1 } } PMU_BOOT PMU_BOOT_NEXT
        (fld p 16 1)).answer q 0x0A05 0 0 [] q.auth))

/-- R9, R97, R104, R128, R132, R156, R182, R183, R191, R209, R224, R304: the register writes of the device, the safety monitor, the
converters, the Tumbler, the fire sequencer, the histogram engine and extraction that a path can make: what each sets and clears. -/
def Obligations.FrontEndRegisterWrites : Prop :=
  ∀ (s : State) (path : Path), canonical s = true →
    -- GLB_BEHAVIOUR_WRITE, in IDLE, between the required level and the fused maximum
    (∀ v, takes s path GLB_BEHAVIOUR = true → s.dev = .idle → s.f GLB_BEHAVIOUR GLB_BEHAVIOUR_REQ ≤ v → v ≤ s.boot.shadows.blMax → v < 16 →
      exec (.glbBehaviourWrite path v) s = .next (s.setF GLB_BEHAVIOUR GLB_BEHAVIOUR_LEVEL v)) ∧
    -- HOST_TRIP, with DISC and AUTOCLR legal, as every write keeps them
    (takes s path ESF_CTRL = true → s.f ESF_CTRL ESF_CTRL_DISC ≠ 0 → s.f ESF_CTRL ESF_CTRL_DISC ≠ 31 →
      s.f ESF_CTRL ESF_CTRL_AUTOCLR &&& autoClearable = s.f ESF_CTRL ESF_CTRL_AUTOCLR →
      exec (.hostTrip path) s = .next (s.hgUpdate.latch [14])) ∧
    -- TDC_COUNTER_CLEAR: the counters of the quarters named whose domain is on
    (∀ m l, takes s path TDC_CNT_CLR = true → m < 16 →
      l = quarterChannels ((List.range 4).filter (fun k => bit m k && s.domOn (6 + k))) →
      exec (.tdcCounterClear path m) s = .next
        ((s.zero (l.flatMap (fun n => [RFE_CNT_EVT n, RFE_CNT_HIREJ n, RFE_CNT_LOSS n]))).zeroF (l.map RFE_STAT) RFE_STAT_FIFO_PEAK)) ∧
    -- FREF_MISS_CLEAR: MISS of every fire reference
    (takes s path TDC_CNT_CLR = true →
      exec (.frefMissClear path) s = .next (s.zeroF ((List.range 4).map TDC_FREF_STAT) TDC_FREF_STAT_MISS)) ∧
    -- TPI_GO
    (takes s path TDC_TPI_CTRL = true → s.tpiOn = true → s.fb TDC_TPI_CTRL TDC_TPI_CTRL_SRC = false →
      exec (.tpiGo path) s = .next s.tpiTrigger) ∧
    -- TMB_COUNTER_CLEAR
    (∀ m l, takes s path TMB_CNT_CLR = true → m < 16 → l = (List.range 4).filter (fun k => bit m k && s.domOn (6 + k)) →
      exec (.tmbCounterClear path m) s = .next
        ((s.zero ((quarterChannels l).flatMap (fun n => [TMB_CNT_ACC n, TMB_CNT_REJ n, TMB_CNT_TOTREJ n]))).zero
          (l.flatMap (fun k => (List.range 32).map (fun g => TMB_GRP_ORDER (32 * k + g)))))) ∧
    -- FIR_COUNTER_CLEAR
    (takes s path FIR_CNT_CLR = true →
      exec (.firCounterClear path) s = .next (s.zero ([FIR_CNT_A, FIR_CNT_B] ++ (List.range 16).map FIR_OUT_CNT))) ∧
    -- HGE_COUNTER_CLEAR
    (∀ m l n, takes s path HGE_CNT_CLR = true → m < 16 →
      l = quarterChannels ((List.range 4).filter (fun k => bit m k && s.domOn (2 + k))) → n = (List.range 4).filter (bit m) →
      exec (.hgeCounterClear path m) s = .next
        ((((s.zero (l.flatMap (fun c => [HGE_CH_BINNED c, HGE_CH_RATE c, HGE_CH_NOSHOT c, HGE_CH_STAT c]))).zeroF (l.map HGE_CH_XFIFO)
          HGE_CH_XFIFO_XFIFO).zero (n.map HGE_ECC_CNT)).zeroF (n.map HGE_MM_CNT) HGE_MM_CNT_TOTAL)) ∧
    -- HGE_WAIT_CLEAR
    (takes s path HGE_CNT_CLR = true → exec (.hgeWaitClear path) s = .next (s.wr HGE_SET_WAIT 0)) ∧
    -- EXT_COUNTER_CLEAR
    (takes s path EXT_CNT_CLR = true →
      exec (.extCounterClear path) s = .next
        (s.zero ([EXT_CNT_REC, EXT_CNT_COL, EXT_CNT_STALL] ++ (List.range s.channels).map EXT_CH_CNT))) ∧
    -- EXT_AIR_WRITE outside SCANNING: the scale follows
    (∀ v u, takes s path EXT_AIR = true → v ≤ 100000 → s.dev ≠ .scanning → u = s.release (· == EXT_AIR) →
      exec (.extAirWrite path v) s = .next
        ((u.setF EXT_AIR EXT_AIR_NM1 v).wr EXT_SCALE (BitVec.ofNat 32 (scaleOf v)))) ∧
    (∀ v, takes s path EXT_AIR = true → 100000 < v → v < 2 ^ EXT_AIR_NM1.w →
      exec (.extAirWrite path v) s = .next (refusedBy path (s.setF EXT_STATUS EXT_STATUS_CFG_REJ 1))) ∧
    -- ALC_COUNTER_CLEAR, with SMIN and SMAX legal, as every write keeps them
    (takes s path FIR_ALC_CTRL = true → s.f FIR_ALC_CTRL FIR_ALC_CTRL_SMIN ≤ s.f FIR_ALC_CTRL FIR_ALC_CTRL_SMAX →
      s.f FIR_ALC_CTRL FIR_ALC_CTRL_SMAX ≠ 0 → exec (.alcCounterClear path) s = .next (s.wr FIR_ALC_CNT 0))

/-- R156: a write of HGE_BIN in IDLE with a legal width and count sets the bins, and every other write of it sets a sticky flag and leaves
it as it is. -/
def Obligations.BinSettingWrite : Prop :=
  ∀ (s : State) (path : Path) (w : Word) (width count : Nat), takes s path HGE_BIN = true →
    width = HGE_BIN_WIDTH.get w → count = HGE_BIN_COUNT.get w →
    (s.dev = .idle → width ≤ 2 → 512 ≤ count → count ≤ 5120 → count * (64 * 2 ^ width) ≤ 655360 →
      ∃ t, exec (.hgeBinWrite path w) s = .next t ∧ (canonical s = true →
        t.f HGE_BIN HGE_BIN_WIDTH = width ∧ t.f HGE_BIN HGE_BIN_COUNT = count ∧ ∀ a, a ≠ HGE_BIN → t.rd a = s.rd a)) ∧
    (s.dev = .idle → (width = 3 ∨ count < 512 ∨ 5120 < count ∨ 655360 < count * (64 * 2 ^ width)) →
      exec (.hgeBinWrite path w) s = .next (refusedBy path (s.setF HGE_STATUS HGE_STATUS_CFG_REJ 1))) ∧
    (s.dev ≠ .idle → exec (.hgeBinWrite path w) s = .next (refusedBy path (s.setF HGE_STATUS HGE_STATUS_WR_IGNORED 1)))

/-- R239, R241, R263, R268, R293, R296, R324, R350, R351, R438: the protected word writes: a write of a manual output, a loop-open
register, a trajectory bank, a sequence register, a chain's configuration, a mask's source, a port's setting or shaper, a channel's
configuration or exposure weights that its rule allows holds the written word; one that the rule protects leaves the register and sets
the flag it names. -/
def Obligations.ProtectedWordWrites : Prop :=
  ∀ (s : State) (path : Path) (w : Word),
    -- LOOP_MAN_WRITE
    (∀ x, x < 6 → takes s path (SRV_LP_MAN x) = true →
      (s.loopClosed x = false → exec (.loopManWrite path x w) s = .next (s.wr (SRV_LP_MAN x) (written s (SRV_LP_MAN x) w))) ∧
      (s.loopClosed x = true → exec (.loopManWrite path x w) s = .next (refusedBy path (s.setF SRV_STATUS SRV_STATUS_WR_IGNORED 1)))) ∧
    -- LOOP_OPEN_REGISTER_WRITE of SRV_TICK
    (takes s path SRV_TICK = true →
      ((∀ x < 6, s.fb (SRV_LP_CTRL x) SRV_LP_CTRL_MODE = false) → 1250 ≤ SRV_TICK_PERIOD.get w →
        exec (.loopOpenRegisterWrite path SRV_TICK w) s = .next (s.wr SRV_TICK (written s SRV_TICK w))) ∧
      ((∃ x < 6, s.fb (SRV_LP_CTRL x) SRV_LP_CTRL_MODE = true) →
        exec (.loopOpenRegisterWrite path SRV_TICK w) s = .next (refusedBy path (s.setF SRV_STATUS SRV_STATUS_COEF_REJ 1)))) ∧
    -- LOOP_OPEN_REGISTER_WRITE of loop x: a coefficient, an offset or a notch coefficient, an ordered limit, or a configuration
    (∀ x a, x < 6 → takes s path a = true → s.loopClosed x = false →
      ((∃ k < 4, a = SRV_LP_K x k) ∨ a = SRV_LP_OOFS x ∨ (∃ j < 2, ∃ k < 5, a = SRV_LP_NC x j k) ∨
        (a = SRV_LP_ILIM x ∧ sx 16 (SRV_LP_ILIM_ILO.get w) ≤ sx 16 (SRV_LP_ILIM_IHI.get w)) ∨
        (a = SRV_LP_OLIM x ∧ sx 16 (SRV_LP_OLIM_OLO.get w) ≤ sx 16 (SRV_LP_OLIM_OHI.get w)) ∨
        (a = SRV_LP_CFG x ∧ SRV_LP_CFG_OUT.get w ≤ 8 ∧ typeAllowed x (SRV_LP_CFG_TYPE.get w) = true ∧
          fbAllowed (SRV_LP_CFG_TYPE.get w) (SRV_LP_CFG_FBSRC.get w) = true)) →
      exec (.loopOpenRegisterWrite path a w) s = .next (s.wr a (written s a w))) ∧
    (∀ x a, x < 6 → takes s path a = true → s.loopClosed x = true → a ∈ [SRV_LP_CFG x, SRV_LP_ILIM x, SRV_LP_OLIM x, SRV_LP_OOFS x] →
      exec (.loopOpenRegisterWrite path a w) s = .next (refusedBy path (s.setF SRV_STATUS SRV_STATUS_COEF_REJ 1))) ∧
    -- TRAJECTORY_WRITE
    (∀ m b e a, m < 2 → b < 2 → e < 1024 → a = SRV_TRAJ m b e → takes s path a = true →
      (((s.loop m).running = true → s.f (SRV_LP_TRAJ m) SRV_LP_TRAJ_ACTIVE ≠ b) →
        exec (.trajectoryWrite path m b e w) s = .next (s.wr a (written s a w))) ∧
      ((s.loop m).running = true → s.f (SRV_LP_TRAJ m) SRV_LP_TRAJ_ACTIVE = b →
        exec (.trajectoryWrite path m b e w) s = .next (refusedBy path (s.setF SRV_STATUS SRV_STATUS_WR_IGNORED 1)))) ∧
    -- SEQUENCE_TABLE_WRITE
    (∀ a, takes s path a = true → a ∈ [MAD_TRIG, MAD_TIMER] →
      (s.seqRuns = false → exec (.sequenceTableWrite path a w) s = .next (s.wr a (written s a w))) ∧
      (s.seqRuns = true → exec (.sequenceTableWrite path a w) s = .next (refusedBy path (s.setF MAD_STATUS MAD_STATUS_WR_IGNORED 1)))) ∧
    (∀ k a, k < 64 → takes s path a = true → s.seqRuns = false →
      ((a = MAD_ENTRY0 k ∧ chWordLegal (written s a w).toNat = true ∧ w.toNat &&& 0x20202020 = 0) ∨
        (a = MAD_ENTRY1 k ∧ w.toNat &&& 0xFFFF0000 = 0) ∨ (a = MAD_ENTRY2 k ∧ w.toNat &&& 0xF8 = 0) ∨
        (a = MAD_ENTRY3 k ∧ w.toNat &&& 0xFFFFFFC0 = 0)) →
      exec (.sequenceTableWrite path a w) s = .next (s.wr a (written s a w))) ∧
    -- CHAIN_CONFIG_WRITE
    (∀ c a, c < 8 → takes s path a = true →
      (s.chainOn c = false → ((∃ k < 8, a = MFC_CH_FIR c k) ∨
          (a = MFC_CH_CFG c ∧ 0 < MFC_CH_CFG_DEC_LOG2.get w ∧ MFC_CH_CFG_DEC_LOG2.get w ≤ 8)) →
        exec (.chainConfigWrite path a w) s = .next (s.wr a (written s a w))) ∧
      (s.chainOn c = true → a = MFC_CH_CFG c →
        exec (.chainConfigWrite path a w) s = .next (refusedBy path (s.setF MFC_STATUS MFC_STATUS_COEF_REJ 1)))) ∧
    -- MASK_CONFIG_WRITE
    (∀ m a, m < 4 → takes s path a = true →
      (s.fb (EVR_MSK_CFG m) EVR_MSK_CFG_EN = false →
        ((a = EVR_MSK_SRC m ∧ chLegal (EVR_MSK_SRC_CHBYTE.get w) = true) ∨ ∃ k < 32, a = EVR_MSK_ENV m k) →
        exec (.maskConfigWrite path a w) s = .next (s.wr a (written s a w))) ∧
      (s.fb (EVR_MSK_CFG m) EVR_MSK_CFG_EN = true → a = EVR_MSK_SRC m →
        exec (.maskConfigWrite path a w) s = .next (refusedBy path (s.setF EVR_STATE EVR_STATE_WR_IGNORED 1))) ∧
      (a = EVR_MSK_CFG m → EVR_MSK_CFG_INPUT.get w ≠ 3 → EVR_MSK_CFG_REF.get w < 5 → EVR_MSK_CFG_EN.get w = 0 →
        exec (.maskConfigWrite path a w) s = .next (s.wr a (written s a w)))) ∧
    -- PORT_SETTINGS_WRITE: a disabled port holds it; an enabled one also shows PENDING
    (∀ port k a, (portSettings (portIx port))[k]? = some a → takes s path a = true →
      (a = ETHx_MTU (portIx port) → 1280 ≤ ETHx_MTU_MTU.get w ∧ ETHx_MTU_MTU.get w ≤ 9194) →
      exec (.portSettingsWrite path port k w) s = .next
        ((if s.fb (ETHx_CTRL (portIx port)) ETHx_CTRL_EN then s.setF (ETHx_STATUS (portIx port)) ETHx_STATUS_PENDING 1 else s).wr
          a (written s a w))) ∧
    -- CBS_WRITE
    (∀ port a, a = ETHx_CBS (portIx port) → takes s path a = true →
      (ETHx_CBS_IDLE_SLOPE.get w ≤ s.rate port → (ETHx_CBS_EN.get w = 1 → ETHx_CBS_IDLE_SLOPE.get w ≠ 0) →
        exec (.cbsWrite path port w) s = .next (s.wr a (written s a w))) ∧
      (s.rate port < ETHx_CBS_IDLE_SLOPE.get w →
        exec (.cbsWrite path port w) s = .next (refusedBy path (s.setF (ETHx_STATUS (portIx port)) ETHx_STATUS_CFG_REJ 1)))) ∧
    -- DMA_CONFIG_WRITE
    (∀ c k a, c < 16 → (dmaConfigRegs c)[k]? = some a → takes s path a = true →
      (s.dmaEn c = false → (k = 0 → DMA_CH_CFG_REQ.get w < 6 ∧ DMA_CH_CFG_DWIDTH.get w < 5 ∧ DMA_CH_CFG_SWIDTH.get w < 5) →
        exec (.dmaConfigWrite path c k w) s = .next (s.wr a (written s a w))) ∧
      (s.dmaEn c = true →
        exec (.dmaConfigWrite path c k w) s = .next (refusedBy path (s.setF (DMA_CH_CTRL c) DMA_CH_CTRL_WR_IGNORED 1)))) ∧
    -- EXPOSURE_WEIGHT_WRITE
    (∀ j a, j < 4 → a = ESF_EXP_WT j → takes s path a = true →
      (s.dev ≠ .scanning → (∀ m < 4, s.floor (4 * j + m) ≤ bits w.toNat (8 * m) 8) →
        exec (.exposureWeightWrite path j w) s = .next (s.wr a (written s a w))) ∧
      (s.dev = .scanning →
        exec (.exposureWeightWrite path j w) s = .next (refusedBy path (s.setF ESF_STATUS ESF_STATUS_WR_IGNORED 1)))) ∧
    -- PD00_WRITE: a register of PD00 is written as every register is
    (∀ a b c ix t, domainOf a = some 0 → takes s path a = true → a % 4 = 0 → blkOf a = some b → cardAt a = some (c, ix) →
      s.blockWrite b (c.wrOf ix s a w (BitVec.ofNat 32 0xFFFFFFFF)) = (.done, t) → exec (.pd00Write path a w) s = .next t)

/-- R250, R272, R302, R368, R390, R431, R449, R484: a counter clear that the block takes sets its counters to zero and changes nothing
else, but that a write of MAD_CTRL also settles whether the reference is on. -/
def Obligations.CounterClears : Prop :=
  ∀ (s : State) (path : Path), canonical s = true →
    (takes s path SRV_STATUS = true → exec (.srvCounterClear path) s = .next
      (((s.zero ((List.range 6).map SRV_LP_CNT)).setF SRV_WIN_STAT SRV_WIN_STAT_EXITS 0).setF SRV_ENC_STAT SRV_ENC_STAT_ERRS 0)) ∧
    (takes s path MAD_CTRL = true → exec (.madCounterClear path) s = .next (s.refCheck.zero [MAD_CNT, MAD_CNT2])) ∧
    (takes s path MFC_STATUS = true → exec (.mfcCounterClear path) s = .next (s.zero ((List.range 8).map MFC_CH_CNT))) ∧
    (takes s path EVR_CTRL = true → exec (.evrCounterClear path) s = .next
      (s.zero ([EVR_CNT_TRIG, EVR_CNT_GAPE, EVR_CNT_GAPM, EVR_ECC] ++ (List.range 4).map EVR_MSK_CNT))) ∧
    (∀ port, takes s path (ETHx_CNT_CLR (portIx port)) = true → exec (.portCounterClear path port) s = .next
      (s.zero ([ETHx_CNT_RXOK, ETHx_CNT_RXERR, ETHx_CNT_RXDROP, ETHx_CNT_TXOK, ETHx_CNT_TXERR, ETHx_CNT_MISC, ETHx_CNT_PRP].map
        (· (portIx port))))) ∧
    (takes s path (ETHx_CNT_CLR 0) = true → s.domOn 10 = true → exec (.streamCounterClear path) s = .next
      ((s.wr ETHA_STRM_CNT 0).setF ETHA_STRM_FILL ETHA_STRM_FILL_PEAK 0)) ∧
    (takes s path TIM_STATUS = true → exec (.timCounterClear path) s = .next
      ((s.zero ((List.range 4).map TIM_LQ_CNT ++ (List.range 4).map TIM_EVCAP_CNT ++ (List.range 2).map TIM_TBx_CNT)).setF
        TIM_STATUS TIM_STATUS_LOST 0)) ∧
    (∀ l, l < 4 → takes s path (WFL_CNT_CLR l) = true → exec (.wflCounterClear path l) s = .next
      (((s.zero [WFL_CNT_A l, WFL_CNT_B l, WFL_CNT_RX l, WFL_CNT_TX l]).setF (WFL_STATE l) WFL_STATE_RETRIES 0).zero
        ((List.range 4).flatMap (fun k => [WFL_LANE_ERR l k, WFL_LANE_BITS_LO l k, WFL_LANE_BITS_HI l k])))) ∧
    (takes s path HNG_CNT_CLR = true → exec (.hngCounterClear path) s = .next (s.zero [HNG_CNT, HNG_CNT2, HNG_TAP_SENT, HNG_TAP_LOST])) ∧
    (takes s path DMA_Q_CTRL = true → exec (.dmaCounterClear path) s = .next
      (((s.setF DMA_QMON_STAT DMA_QMON_STAT_DROP 0).setF DMA_QFILT_STAT DMA_QFILT_STAT_DROP 0).zero ((List.range 16).map DMA_CH_CNT))) ∧
    (takes s path CAL_POLICY = true → exec (.calCounterClear path) s = .next (s.wr CAL_CNT 0)) ∧
    (takes s path THM_STATE = true → exec (.thmCounterClear path) s = .next ((s.wr THM_CNT 0).setF THM_NVLOG THM_NVLOG_SUPPR 0))

/-- R233, R237, R241, R244, R248: the servo's writes: a loop's MODE, the trajectory swap, TUNE_EN, and the trace's arm, stop and force. -/
def Obligations.ServoWrites : Prop :=
  ∀ (s u : State) (path : Path),
    -- LOOP_MODE_WRITE: the MODE is held, a change of it triggers the trace where the trace is armed on it, and while the servo runs the
    -- loop is started or stopped where RUN does not agree with it
    (∀ x auto t r run, x < 6 → takes s path (SRV_LP_CTRL x) = true → u = s.setF (SRV_LP_CTRL x) SRV_LP_CTRL_MODE (b2n auto) →
      t = (if s.fb (SRV_LP_CTRL x) SRV_LP_CTRL_MODE ≠ auto ∧ s.f SRV_TRC_CTRL SRV_TRC_CTRL_SRC_LOOP = x then u.traceTrigger 5 else u) →
      r = (s.srv.running && s.srv.rampLeft.isNone) → run = s.fb (SRV_LP_CTRL x) SRV_LP_CTRL_RUN →
      exec (.loopModeWrite path x auto) s = .next
        (if r && run && !(s.loop x).running && s.f (SRV_LP_CFG x) SRV_LP_CFG_TYPE != 0 then t.loopStart x
          else if r && !run && (s.loop x).running then t.loopStop x else t)) ∧
    -- TRAJECTORY_SWAP_REQUEST
    (∀ x, x < 2 → takes s path (SRV_LP_TRAJ x) = true → s.f (SRV_LP_TRAJ x) SRV_LP_TRAJ_LEN ≤ 1024 →
      exec (.trajectorySwapRequest path x) s = .next (s.setF (SRV_LP_TRAJ x) SRV_LP_TRAJ_SWAP 1)) ∧
    -- TUNE_EN_WRITE: in IDLE it starts or stops the servo
    (∀ on, canonical s = true → takes s path SRV_CTRL = true → s.f SRV_CTRL SRV_CTRL_IDX_SRC ≠ 3 → u = s.setF SRV_CTRL SRV_CTRL_TUNE_EN (b2n on) →
      exec (.tuneEnWrite path on) s = .next (if s.dev = .idle then (if on then u.srvStart else u.srvStop).refCheck else u)) ∧
    -- TRACE_ARM, TRACE_STOP, TRACE_FORCE
    (canonical s = true → takes s path SRV_TRC_CTRL = true → s.f SRV_TRC_CTRL SRV_TRC_CTRL_TRIG ≠ 7 →
      s.f SRV_TRC_CTRL SRV_TRC_CTRL_SRC_LOOP < 6 →
      exec (.traceArm path) s = .next
        (State.wr { s with srv := { s.srv with trcSkip := 0, trcCount := 0, trcAfter := 0, trcPrev := s.node (s.traceSel 0), trcPend := false } }
          SRV_TRC_STAT 0x20000000) ∧
      exec (.traceStop path) s = .next (if s.f SRV_TRC_STAT SRV_TRC_STAT_STATE = 1 ∨ s.f SRV_TRC_STAT SRV_TRC_STAT_STATE = 2
        then s.traceEnd else s) ∧
      exec (.traceForce path) s = .next (if s.f SRV_TRC_STAT SRV_TRC_STAT_STATE = 1 ∧ s.f SRV_TRC_CTRL SRV_TRC_CTRL_TRIG = 0
        then { s with srv := { s.srv with trcPend := true } } else s))

/-- R253, R257, R261, R262, R266, R275, R285: the monitor's, the filters' and the recorder's writes: GO, the sequencer's enable, the
reference's enable, an injected conversion, chain synchronisation and enables, a forced trigger and freed segments. -/
def Obligations.MonitorFilterRecorderWrites : Prop :=
  ∀ (s u : State) (path : Path), canonical s = true →
    -- MAD_GO
    (takes s path MAD_CTRL = true → exec (.madGo path) s = .next (s.refCheck.madEvent 0 s.refCheck.tbs)) ∧
    -- SEQ_EN_WRITE
    (takes s path MAD_CTRL = true → u = (s.setF MAD_CTRL MAD_CTRL_SEQ_EN 1).refCheck → s.f MAD_CTRL MAD_CTRL_SEQ_EN = 0 →
      exec (.seqEnWrite path true) s = .next u.seqStart) ∧
    (takes s path MAD_CTRL = true → u = (s.setF MAD_CTRL MAD_CTRL_SEQ_EN 0).refCheck → s.f MAD_CTRL MAD_CTRL_SEQ_EN = 1 →
      exec (.seqEnWrite path false) s = .next u.seqStop) ∧
    -- REF_EN_WRITE
    (∀ on, takes s path MAD_CTRL = true →
      exec (.refEnWrite path on) s = .next (s.setF MAD_CTRL MAD_CTRL_REF_EN (b2n on)).refCheck) ∧
    -- INJ_GO
    (∀ w, takes s path MAD_INJ = true → codeLegal (MAD_INJ_CODE.get w) (MAD_INJ_DIFF.get w == 1) = true →
      u = s.wr MAD_INJ (written s MAD_INJ (MAD_INJ_GO.set w 1)) → exec (.injGo path w) s = .next u.injGo) ∧
    (∀ w, takes s path MAD_INJ = true → codeLegal (MAD_INJ_CODE.get w) (MAD_INJ_DIFF.get w == 1) = false →
      exec (.injGo path w) s = .next (refusedBy path (s.setF MAD_STATUS MAD_STATUS_CFG_REJ 1))) ∧
    -- MFC_SYNC: the named chains start again
    (∀ m, takes s path Reg.MFC_SYNC = true → m < 256 →
      exec (.mfcSync path m) s = .next (s.forEach (bitsSet 8 m) (fun s c => s.chainReset c))) ∧
    -- CHAIN_ENABLE: a change of EN resets or stops the chain
    (∀ c on, c < 8 → takes s path (MFC_CH_CTRL c) = true → u = s.setF (MFC_CH_CTRL c) MFC_CH_CTRL_EN (b2n on) →
      exec (.chainEnable path c on) s = .next
        (if s.f (MFC_CH_CTRL c) MFC_CH_CTRL_EN = b2n on then u else if on then u.chainReset c else u.chainStop c)) ∧
    -- EVR_FORCE
    (takes s path EVR_CTRL = true → exec (.evrForce path) s = .next (s.recTrigger 0 s.tbs)) ∧
    -- SEGMENT_FREE: the held segments named become FREE
    (∀ m, takes s path EVR_SEG_FREE = true → m < 256 →
      exec (.segmentFree path m) s = .next (s.forEach (bitsSet 8 m) (fun s g => if s.segStatus g = 2 then s.freeSeg g else s)))

/-- R343, R351, R389, R398, R423, R425, R434, R437, R445, R448, R509: the writes that switch the outward blocks: ports, timed outputs, Weft
links, the tap, DMA channels and queues, and the next boot slot. -/
def Obligations.OutwardBlockWrites : Prop :=
  ∀ (s u : State) (path : Path),
    -- PORT_ENABLE of a disabled port whose PRP setting fits
    (∀ port, takes s path (ETHx_CTRL (portIx port)) = true → s.lineMode port ≤ 5 → s.fb (ETHx_CTRL (portIx port)) ETHx_CTRL_EN = false →
      u = s.setF (ETHx_CTRL (portIx port)) ETHx_CTRL_EN 1 → s.prpFits (u.rd (ETHx_CTRL (portIx port))) port = true →
      canonical s = true → exec (.portEnable path port) s = .next (u.portStart port)) ∧
    -- PORT_DISABLE of an enabled port: the final LLDPDU, then the link is lost
    (∀ port, takes s path (ETHx_CTRL (portIx port)) = true → s.lineMode port ≤ 5 → s.fb (ETHx_CTRL (portIx port)) ETHx_CTRL_EN = true →
      u = (s.lldpLast port).linkLost port → exec (.portDisable path port) s = .next
        (u.wr (ETHx_CTRL (portIx port)) (ETHx_CTRL_EN.set (s.rd (ETHx_CTRL (portIx port))) 0))) ∧
    -- PORT_MODE_WRITE of a disabled port
    (∀ port m, takes s path (ETHx_CTRL (portIx port)) = true → s.fb (ETHx_CTRL (portIx port)) ETHx_CTRL_EN = false →
      (m ≤ 5 → exec (.portModeWrite path port m) s = .next (s.setF (ETHx_CTRL (portIx port)) ETHx_CTRL_MODE m)) ∧
      (5 < m → m < 8 →
        exec (.portModeWrite path port m) s = .next (refusedBy path (s.setF (ETHx_STATUS (portIx port)) ETHx_STATUS_CFG_REJ 1)))) ∧
    -- TIMED_OUTPUT_ENABLE of an output that is off
    (∀ k w, k < 4 → takes s path (TIM_EVOUT_CFG k) = true → s.f (TIM_EVOUT_CFG k) TIM_EVOUT_CFG_EN = 0 →
      u = s.wr (TIM_EVOUT_CFG k) (written s (TIM_EVOUT_CFG k) (TIM_EVOUT_CFG_EN.set w 1)) →
      exec (.timedOutputEnable path k w) s = .next (u.evOutStart k)) ∧
    -- LINK_ENABLE_WRITE
    (∀ l, l < 4 → takes s path (WFL_CTRL l) = true →
      (s.fb (WFL_CTRL l) WFL_CTRL_EN = false → u = s.setF (WFL_CTRL l) WFL_CTRL_EN 1 →
        exec (.linkEnableWrite path l true) s = .next (u.startLink l)) ∧
      (s.fb (WFL_CTRL l) WFL_CTRL_EN = true → u = s.setF (WFL_CTRL l) WFL_CTRL_EN 0 →
        exec (.linkEnableWrite path l false) s = .next (u.toLink l 0))) ∧
    -- LINK_ERROR_INJECT on a link that does not carry a raw tap
    (∀ l m, l < 4 → takes s path (WFL_TEST l) = true → m < 16 → s.linkState l ≠ 9 →
      exec (.linkErrorInject path l m) s = .next (s.putLink l { s.link l with inj := (s.link l).inj ||| m })) ∧
    -- TAP_ENABLE
    (takes s path HNG_TAP_CTRL = true → s.tapRefused = false → s.fb HNG_TAP_CTRL HNG_TAP_CTRL_EN = false →
      exec (.tapEnable path true) s = .next
        (State.setF { s with cas := { s.cas with markAt := s.tm.now } } HNG_TAP_CTRL HNG_TAP_CTRL_EN 1)) ∧
    (takes s path HNG_TAP_CTRL = true → exec (.tapEnable path false) s = .next
      (State.setF { s with cas := { s.cas with markAt := if s.fb HNG_TAP_CTRL HNG_TAP_CTRL_EN then s.cas.markAt else s.tm.now } }
        HNG_TAP_CTRL HNG_TAP_CTRL_EN 0)) ∧
    -- DMA_CHANNEL_ENABLE and DMA_CHANNEL_DISABLE
    (∀ c, c < 16 → takes s path (DMA_CH_CTRL c) = true →
      (s.dmaEn c = false → exec (.dmaChannelEnable path c) s = .next (s.dmaEnable c)) ∧
      (s.dmaEn c = true → exec (.dmaChannelDisable path c) s = .next (s.dmaDisable c)) ∧
      (s.dmaEn c = true → exec (.dmaChannelEnable path c) s = .next s) ∧
      (s.dmaEn c = false → exec (.dmaChannelDisable path c) s = .next s)) ∧
    -- FLUSH_MON and FLUSH_QFILT
    (takes s path DMA_Q_CTRL = true → exec (.flushMon path) s = .next (s.dmaFlush 1) ∧ exec (.flushQfilt path) s = .next (s.dmaFlush 2)) ∧
    -- QFILT_ENABLE
    (∀ on, takes s path DMA_QFILT_CFG = true → u = s.setF DMA_QFILT_CFG DMA_QFILT_CFG_EN (b2n on) →
      exec (.qfiltEnable path on) s = .next
        (if on && !s.fb DMA_QFILT_CFG DMA_QFILT_CFG_EN then { u with dma := { u.dma with seq := 0 } } else u)) ∧
    -- BOOT_NEXT_WRITE
    (∀ slot, takes s path PMU_BOOT = true → slot < 2 → exec (.bootNextWrite path slot) s = .next
      (State.setF { s with boot := { s.boot with nvNext := slot } } PMU_BOOT PMU_BOOT_NEXT slot))

/-- R227–R238, R244–R248: what happens in the running servo: its tick, a loop's sample and trip, the mirror-speed window, the stop ramp
and the end of a trace. -/
def Obligations.ServoHappenings : Prop :=
  ∀ (s u v w : State),
    -- SERVO_TICK: the tick counts, the four converters' codes go on, the sequencer and the DMA engine see source 7 and request 5
    (∀ r0 r1 r2 r3, s.srv.running = true → s.pllC = true → u = s.at_ s.tickNext →
      v = (if u.srv.ticks = 0 ∨ u.srv.rampLeft ≠ none then u else u.verdict).addWrap SRV_SAMPLE SRV_SAMPLE_TICKS 1 →
      w = { v with srv := { v.srv with ticks := v.srv.ticks + 1, tickAt := v.tm.now, rampLeft := v.srv.rampLeft.map (· - 1) } } →
      exec (.servoTick r0 r1 r2 r3) s = .next (((w.tickConversions [r0, r1, r2, r3]).madEvent 7 w.tbs).dmaRequest 5)) ∧
    (∀ r0 r1 r2 r3, (s.srv.running = false ∨ s.pllC = false) → exec (.servoTick r0 r1 r2 r3) s = .next s) ∧
    -- LOOP_SAMPLE of a loop whose sample is due: with a feedback value it computes, without one it counts a miss
    (∀ x fb, s.tripDue x = false → s.sampleDue x = true → u = s.trajArrive x → u.f (SRV_LP_STAT x) SRV_LP_STAT_STATE ≠ 3 →
      v = u.setF (SRV_LP_STAT x) SRV_LP_STAT_STATE (if u.fb (SRV_LP_CTRL x) SRV_LP_CTRL_MODE then 2 else 1) →
      (v.feedback x = some fb → exec (.loopSample x) s = .next
        ((((v.goodSample x fb (u.fb (SRV_LP_CTRL x) SRV_LP_CTRL_MODE)).deliverAz x (u.rawFeedback x)).traceSample x).noteConds s)) ∧
      (v.feedback x = none → exec (.loopSample x) s = .next
        ((((v.missSample x (u.fb (SRV_LP_CTRL x) SRV_LP_CTRL_MODE)).deliverAz x (u.rawFeedback x)).traceSample x).noteConds s))) ∧
    -- LOOP_TRIP: four invalid samples in a row
    (∀ x, (s.tripDue x = true → exec (.loopTrip x) s = .next (s.loopTrip x)) ∧ (s.tripDue x = false → exec (.loopTrip x) s = .next s)) ∧
    -- MIRROR_WINDOW_EXIT and MIRROR_WINDOW_ENTRY
    (s.fb SRV_WIN_STAT SRV_WIN_STAT_IN = true → s.f SRV_WIN_CFG SRV_WIN_CFG_DEB_OUT ≤ s.srv.badRun → 1 ≤ s.srv.badRun →
      exec .mirrorWindowExit s = .next s.mirrorOut) ∧
    (s.fb SRV_WIN_STAT SRV_WIN_STAT_IN = false → s.srv.running = true → s.srv.rampLeft = none →
      s.f SRV_WIN_CFG SRV_WIN_CFG_DEB_IN ≤ s.srv.goodRun → 1 ≤ s.srv.goodRun →
      exec .mirrorWindowEntry s = .next ((s.setF SRV_WIN_STAT SRV_WIN_STAT_IN 1).noteConds s)) ∧
    -- SERVO_STOP_RAMP_DONE: the six loops stop, and the servo with them
    (s.srv.running = true → s.srv.rampLeft = some 0 →
      u = ((s.forEach (List.range 6) (fun s x => s.loopStop x)).setF SRV_STATUS SRV_STATUS_RUNNING 0).setF SRV_AZ SRV_AZ_VALID 0 →
      exec .servoStopRampDone s = .next
        (State.refCheck { u with srv := { u.srv with running := false, rampLeft := none, rampFrom := [], sinks := [] } })) ∧
    -- TRACE_DONE
    (s.f SRV_TRC_STAT SRV_TRC_STAT_STATE = 2 → s.tracePost ≤ s.srv.trcAfter → exec .traceDone s = .next s.traceEnd)

/-- R229, R233, R234: the encoder inputs. One input that changes moves the position by one, up when the input that changed now differs
from the other as in the count-up sequence; two at once set ERR, count ERRS and drop VALID; and nothing else changes but the pins. With the
encoder off only the pins change. An index edge counts and is timed, and starts a frame where IDX_SRC says so. -/
def Obligations.EncoderInputs : Prop :=
  ∀ (s t u : State) (a b : Bool), t = { s with pin := { s.pin with quadA := a, quadB := b } } →
    (s.domOn 12 = false ∨ s.fb SRV_ENC_CFG SRV_ENC_CFG_EN = false → exec (.encoderEdge a b) s = .next t) ∧
    (s.domOn 12 = true → s.fb SRV_ENC_CFG SRV_ENC_CFG_EN = true →
      (a ≠ s.pin.quadA → b ≠ s.pin.quadB → exec (.encoderEdge a b) s = .next
        (((t.setF SRV_ENC_STAT SRV_ENC_STAT_ERR 1).addSat SRV_ENC_STAT SRV_ENC_STAT_ERRS 1).setF SRV_ENC_STAT SRV_ENC_STAT_VALID 0)) ∧
      (a ≠ s.pin.quadA → b = s.pin.quadB → exec (.encoderEdge a b) s = .next
        (t.wr (SRV_ENC_POS 0) (s.rd (SRV_ENC_POS 0) + (if a ≠ b then 1 else -1)))) ∧
      (a = s.pin.quadA → b ≠ s.pin.quadB → exec (.encoderEdge a b) s = .next
        (t.wr (SRV_ENC_POS 0) (s.rd (SRV_ENC_POS 0) + (if a = b then 1 else -1)))) ∧
      (a = s.pin.quadA → b = s.pin.quadB → exec (.encoderEdge a b) s = .next t)) ∧
    (s.domOn 12 = true → u = s.indexCount.indexTime →
      exec .qeiRisingEdge s = .next (if u.f SRV_CTRL SRV_CTRL_IDX_SRC = 1 then u.frameEvent 1 u.tbs else u)) ∧
    (s.domOn 12 = false → exec .qeiRisingEdge s = .next s)

/-- R253, R257, R258, R261, R262, R264–R266: what happens in the monitor and its filters: the reference ready after 40 µs, sequencer
conversions, triggers accepted at a waiting entry and missed elsewhere, the timer, injected conversions and results arriving at a chain. -/
def Obligations.MonitorHappenings : Prop :=
  ∀ (s u v w : State),
    -- REFERENCE_READY
    (∀ t, s.refDue = some t → s.fb MAD_STATUS MAD_STATUS_REF_RDY = false → u = (s.at_ t).setF MAD_STATUS MAD_STATUS_REF_RDY 1 →
      exec .referenceReady s = .next { u with mad := { u.mad with guardDue := u.tm.now } }) ∧
    -- SEQUENCE_CONVERSION of an entry that does not wait
    (∀ r0 r1 r2 r3 e cs due start, e = s.f MAD_SEQ_STAT MAD_SEQ_STAT_ENTRY → cs = s.entryConvs e → due = s.mad.seqDue → s.domOn 13 = true →
      s.fb MAD_SEQ_STAT MAD_SEQ_STAT_RUN = true → s.fb MAD_SEQ_STAT MAD_SEQ_STAT_WAITING = false → (cs = [] ∨ s.refReady = true) →
      start = (if cs = [] then due else s.convStart cs (Nat.max due (s.refDue.getD 0))) →
      u = (if due < start then (s.at_ start).addSat MAD_CNT2 MAD_CNT2_SLIP 1 else s.at_ start) →
      v = u.forEach cs (fun s j => s.seqResult e start [r0, r1, r2, r3] j) →
      exec (.sequenceConversion r0 r1 r2 r3) s = .next (State.seqAdvance
        { v with mad := { v.mad with seqDue := start + Nat.max 16 (v.f (MAD_ENTRY2 e) MAD_ENTRY2_SPACE) * adcCycle } } e)) ∧
    -- SEQUENCER_TRIGGER
    (∀ src (t : Nat) rest due, due = adcCeil (((s.tm.now : Int) + ((t : Int) - s.tbs)).toNat + 1600) + s.f MAD_TRIG MAD_TRIG_DELAY * adcCycle →
      s.mad.triggers = (src, t) :: rest → u = { s with mad := { s.mad with triggers := rest } } →
      (s.fb MAD_SEQ_STAT MAD_SEQ_STAT_RUN = true → s.fb MAD_SEQ_STAT MAD_SEQ_STAT_WAITING = true →
        v = (u.wr64 MAD_TRIG_TBS_LO MAD_TRIG_TBS_HI t).setF MAD_SEQ_STAT MAD_SEQ_STAT_WAITING 0 →
        w = State.maskRef { v with mad := { v.mad with seqDue := due } } 4 t →
        exec .sequencerTrigger s = .next (w.forEach (bitsSet 8 (w.f MFC_SYNC MFC_SYNC_TRIG_SYNC)) (fun s c => s.chainReset c))) ∧
      (s.fb MAD_SEQ_STAT MAD_SEQ_STAT_RUN = false ∨ s.fb MAD_SEQ_STAT MAD_SEQ_STAT_WAITING = false →
        exec .sequencerTrigger s = .next (u.addSat MAD_CNT2 MAD_CNT2_TRIG_MISS 1))) ∧
    -- MAD_TIMER_EXPIRY
    (∀ p due, p = s.f MAD_TIMER MAD_TIMER_PERIOD → s.domOn 13 = true → p ≠ 0 → due = s.mad.timerAt + Nat.max 16 p * adcCycle →
      u = s.at_ due → exec .madTimerExpiry s = .next (State.madEvent { u with mad := { u.mad with timerAt := due } } 4 u.tbs)) ∧
    -- INJECTED_CONVERSION_DONE
    (∀ r j code diff done, s.mad.inj = some (j, code, diff, done) → u = s.at_ done →
      v = State.madResult { u with mad := { u.mad with inj := none } } 3 j code diff (result16 r) →
      exec (.injectedConversionDone r) s = .next
        (((v.setF MAD_INJ_RES MAD_INJ_RES_RESULT (ux 16 (result16 r))).setF MAD_INJ_RES MAD_INJ_RES_CONV j).setF
          MAD_INJ_RES MAD_INJ_RES_VALID 1)) ∧
    -- FILTER_INPUT
    (∀ c x rest, s.mad.inputs = (c, x) :: rest → u = { s with mad := { s.mad with inputs := rest } } →
      exec .filterInput s = .next (if u.chainOn c then u.chainInput c x else u))

/-- R81, R83, R85–R89, R96, R104, R106: the return inputs. A leading edge 3 ns or more after the last opens a pulse, an earlier one counts DEAD, but on a mismatched input;
a trailing edge ends the pulse with its ToT, and 4,095 ticks without one write the event with TOT_SAT. An offset fault is seen, a delay
line's lock is lost and regained, and the injector triggers and drives its pulse. -/
def Obligations.ReturnInputs : Prop :=
  ∀ (s u : State) (n c tap : Nat),
    -- RETURN_LEADING_EDGE
    (∀ t, s.inputLive n = true → s.pulse n = none → u = s.toTbs (c * 64 + tap) → t = u.edgeTime (u.cdWords (n / 4)) c tap →
      (∀ l, Sp.find u.tdc.leadAt n = some l → t < l + 192 → ∀ x, x = { u with tdc := { u.tdc with pulses := Sp.ins u.tdc.pulses n { lead := t, dead := true } } } →
        exec (.returnLeadingEdge n c tap) s = .next (if x.modeMismatch n then x else x.addSat (RFE_CNT_LOSS n) RFE_CNT_LOSS_DEAD 1)) ∧
      ((∀ l, Sp.find u.tdc.leadAt n = some l → l + 192 ≤ t) → ∃ x, exec (.returnLeadingEdge n c tap) s = .next { u with tdc := x } ∧
        x.pulses = Sp.ins u.tdc.pulses n { lead := t } ∧ x.leadAt = Sp.ins u.tdc.leadAt n t ∧
        x.leads = Sp.put (fun _ => []) u.tdc.leads n ((Sp.get (fun _ => []) u.tdc.leads n).filter (fun l => t < l + 65536) ++ [t]) ∧
        x.fifo = u.tdc.fifo ∧ x.windows = u.tdc.windows)) ∧
    (∀ p, s.pulse n = some p → exec (.returnLeadingEdge n c tap) s = .next s) ∧
    -- RETURN_TRAILING_EDGE
    (∀ p t peak clamp, s.pulse n = some p → t = (s.toTbs (c * 64 + tap)).edgeTime ((s.toTbs (c * 64 + tap)).cdWords (n / 4)) c tap →
      u = { s.toTbs (c * 64 + tap) with tdc := { (s.toTbs (c * 64 + tap)).tdc with pulses := Sp.del (s.toTbs (c * 64 + tap)).tdc.pulses n } } →
      (p.dead = false → p.written = false → exec (.returnTrailingEdge n c tap peak clamp) s = .next
        (u.finishPulse n p.lead (Nat.min 4095 (t - p.lead)) peak (decide (4095 ≤ t - p.lead)) clamp)) ∧
      ((p.dead = true ∨ p.written = true) → exec (.returnTrailingEdge n c tap peak clamp) s = .next
        (if clamp then u.setF (RFE_STAT n) RFE_STAT_OVLD 1 else u))) ∧
    -- TOT_SATURATION
    (∀ p peak clamp, s.pulse n = some p → p.dead = false → p.written = false → u = s.toTbs (p.lead + 4095) →
      exec (.totSaturation n peak clamp) s = .next
        (State.finishPulse { u with tdc := { u.tdc with pulses := Sp.ins u.tdc.pulses n { p with written := true } } } n p.lead 4095 peak true clamp)) ∧
    -- RGND_FAULT of a group whose quarter is on
    (∀ g present others, s.inputOn (4 * g) = true → others = s.tdc.rgnd.filter (· ≠ g) →
      u = { s with tdc := { s.tdc with rgnd := if present then insertNat g others else others } } →
      exec (.rgndFault g present) s = .next (if present && u.groupWatched g
        then u.forEach (List.range 4) (fun s i => s.setF (RFE_STAT (4 * g + i)) RFE_STAT_RGND_SEEN 1) else u)) ∧
    -- DLL_UNLOCK and DLL_LOCK_RETURN
    (∀ q, q < 4 → s.domOn (6 + q) = true →
      u = s.setF TDC_STATUS TDC_STATUS_DLL_LOCK (s.f TDC_STATUS TDC_STATUS_DLL_LOCK &&& (15 - 2 ^ q)) →
      exec (.dllUnlock q) s = .next (u.setF TDC_STATUS TDC_STATUS_DLL_UNLOCK (u.f TDC_STATUS TDC_STATUS_DLL_UNLOCK ||| 2 ^ q))) ∧
    (∀ q, q < 4 → s.domOn (6 + q) = true → s.pllT = true → exec (.dllLockReturn q) s = .next
      (s.setF TDC_STATUS TDC_STATUS_DLL_LOCK (s.f TDC_STATUS TDC_STATUS_DLL_LOCK ||| 2 ^ q))) ∧
    -- TPI_PERIODIC_TRIGGER and TEST_PULSE_INJECTION
    (s.tpiOn = true → s.fb TDC_TPI_CTRL TDC_TPI_CTRL_SRC = true → s.f TDC_TPI_CTRL TDC_TPI_CTRL_PERIOD ≠ 0 → s.cal.run = none →
      exec .tpiPeriodicTrigger s = .next s.tpiTrigger) ∧
    (∀ t recent inj, s.tdc.injAt = some t → u = s.toTbs t → recent = u.tdc.inj.filter (fun w => t < w.2 + 2 ^ 17) →
      inj = recent ++ [(t, t + Nat.max 8 (u.f TDC_TPI_CTRL TDC_TPI_CTRL_WIDTH) * 4)] →
      exec .testPulseInjection s = .next
        (State.addWrap { u with tdc := { u.tdc with injAt := none, inj := inj } } TDC_TPI_COUNT TDC_TPI_COUNT_COUNT 1))

/-- R99–R102, R322: the fire references. The first edge inside a capture window is the window's hit: LAST, LAST_TOT and AVG follow it, and
a ToT over the limit trips PULSE while armed. The window's close passes the record by the mode, a miss counts MISS and sets LOST after 16. -/
def Obligations.FireReferences : Prop :=
  ∀ (s u v : State) (k : Nat) (w : FWin),
    (∀ c tap tot raw t ws, raw = s.edgeTime s.frefCdWords c tap →
      s.tdc.windows.find? (fun w => w.k = k ∧ w.first ≤ raw ∧ raw ≤ w.last) = some w → w.hit = none → s.frefMode k ≠ 0 →
      u = s.toTbs (c * 64 + tap) →
      t = tbs64 (raw - u.walk u.frefWalkWords (Nat.min 4095 tot) - sx 16 (u.ef (TDC_FREF_DLY k) TDC_FREF_DLY_PATH)) →
      ws = u.tdc.windows.map (fun (x : FWin) => if x = w then { x with hit := some (t, Nat.min 4095 tot) } else x) →
      v = { u with tdc := { u.tdc with windows := ws, missRun := Sp.put (fun _ => 0) u.tdc.missRun k 0 } } →
      ∃ x, x = (((v.wr64 (TDC_FREF_LAST_LO k) (TDC_FREF_LAST_HI k) t).setF (TDC_FREF_STAT k) TDC_FREF_STAT_LAST_TOT (Nat.min 4095 tot)).setF
          (TDC_FREF_AVG k) TDC_FREF_AVG_AVG (avgNext
            (((v.wr64 (TDC_FREF_LAST_LO k) (TDC_FREF_LAST_HI k) t).setF (TDC_FREF_STAT k) TDC_FREF_STAT_LAST_TOT (Nat.min 4095 tot)).f
              (TDC_FREF_AVG k) TDC_FREF_AVG_AVG) ((t : Int) - w.edge))) ∧
        exec (.frefEdge k c tap tot) s = .next
          (if x.esf.armed && bits (x.rd ESF_FREF_LIM).toNat (8 * k) 8 != 0 && decide (bits (x.rd ESF_FREF_LIM).toNat (8 * k) 8 * 16 < Nat.min 4095 tot)
            then x.latch [10] else x)) ∧
    (∀ h, s.tdc.windows.find? (fun w => w.k = k) = some w → u = s.toTbs w.last →
      v = { u with tdc := { u.tdc with windows := u.tdc.windows.erase w } } →
      v.fir.shots.find? (fun h => h.serial = w.serial ∧ h.ix = w.ix) = some h →
      (v.frefMode k = 0 → exec (.frefWindowClose k) s = .next
        (if w.primary then v.passRecord h (w.edge + v.ef (TDC_FREF_DLY k) TDC_FREF_DLY_NOMINAL) 0 false else v)) ∧
      (∀ t tot, v.frefMode k ≠ 0 → w.hit = some (t, tot) → exec (.frefWindowClose k) s = .next
        ((if w.primary then v.passRecord h t tot false else v).tallySkew h (some t))) ∧
      (∀ run x y, v.frefMode k ≠ 0 → w.hit = none → run = Sp.get (fun _ => 0) v.tdc.missRun k + 1 →
        x = v.addSat (TDC_FREF_STAT k) TDC_FREF_STAT_MISS 1 →
        y = (if 16 ≤ run then State.setF { x with tdc := { x.tdc with missRun := Sp.put (fun _ => 0) x.tdc.missRun k run } } (TDC_FREF_STAT k) TDC_FREF_STAT_LOST 1
          else { x with tdc := { x.tdc with missRun := Sp.put (fun _ => 0) x.tdc.missRun k run } }) →
        exec (.frefWindowClose k) s = .next
          ((((if w.primary then y.passRecord h (w.edge + y.f (TDC_FREF_AVG k) TDC_FREF_AVG_AVG / 16) 0 true else y).postCharge h k).tallySkew
            h none).noteConds u)))

/-- R95, R111–R121: the Tumbler. An event leaves its input's FIFO 4 ns or more after the last, passes a bypassed group, counts as TOTREJ
below TOT_MIN, and joins the group's pool otherwise. A macropixel's oldest undecided event is decided W + 4 ns after it entered: accepted
with its partners where they meet the demand, marked decided where they do not; a decided one expires at 2W + 8 ns. Ambient gates end and
free-running ones begin. -/
def Obligations.TumblerHappenings : Prop :=
  ∀ (s u v : State),
    -- TUMBLER_EVENT_ENTRY
    (∀ n e rest, Sp.get (fun _ => []) s.tdc.fifo n = e :: rest → s.inputOn n = true →
      u = s.at_ (match Sp.find s.tdc.taken n with | some t => t + 256 | none => 0) →
      v = { u with tdc := { u.tdc with fifo := Sp.put (fun _ => []) u.tdc.fifo n rest, taken := Sp.ins u.tdc.taken n u.tm.now } } →
      (v.bypass (n / 4) = true → exec (.tumblerEventEntry n) s = .next (v.emit { e with hits := 1 })) ∧
      (v.bypass (n / 4) = false → e.tot < v.ef (TMB_GRP_CFG (n / 4)) TMB_GRP_CFG_TOT_MIN →
        exec (.tumblerEventEntry n) s = .next (v.addWrap (TMB_CNT_TOTREJ n) TMB_CNT_TOTREJ_TOTREJ 1)) ∧
      (v.bypass (n / 4) = false → v.ef (TMB_GRP_CFG (n / 4)) TMB_GRP_CFG_TOT_MIN ≤ e.tot →
        exec (.tumblerEventEntry n) s = .next (v.setPool (n / 4) (v.pool (n / 4) ++ [{ ev := e, entry := v.tm.now }])))) ∧
    -- COINCIDENCE_DECISION
    (∀ p g w mine c ps x, g = p / 4 → w = s.coWin g → mine = (s.pool g).filter (fun x => s.primary x.ev.chan = p) →
      mine.find? (fun x => !x.decided) = some c → u = s.at_ (c.entry + w + 256) →
      v = (if (match Sp.find u.tmb.prevCand p with | some t => decide (c.ev.time < t) | none => false)
        then u.addSat (TMB_GRP_ORDER g) TMB_GRP_ORDER_ORDER 1 else u) →
      x = { v with tmb := { v.tmb with prevCand := Sp.ins v.tmb.prevCand p c.ev.time } } →
      ps = (((List.range (x.grpWidth g)).map (p + ·)).filter (· ≠ c.ev.chan)).filterMap (partnerOf mine (c.entry + w + 256) c.ev.time w) →
      (1 + ps.length < x.demand p → exec (.coincidenceDecision p) s = .next
        (x.setPool g ((x.pool g).map (fun y => if y = c then { y with decided := true } else y)))) ∧
      (∀ y, x.demand p ≤ 1 + ps.length → y = x.setPool g (poolWithout (x.pool g) (c :: ps)) →
        (∀ t, Sp.find y.tmb.lastOut p = some t → y.tm.now < t + 256 →
          exec (.coincidenceDecision p) s = .next (y.forEach (c :: ps) (fun s z => s.reject z.ev.chan))) ∧
        (∀ z, (∀ t, Sp.find y.tmb.lastOut p = some t → t + 256 ≤ y.tm.now) →
          z = { y with tmb := { y.tmb with lastOut := Sp.ins y.tmb.lastOut p y.tm.now } } →
          exec (.coincidenceDecision p) s = .next
            (z.emit (acceptedEvent p (x.demand p) (z.efb (TMB_GRP_CFG g) TMB_GRP_CFG_TSEL) c.ev (ps.map (·.ev))))))) ∧
    -- CANDIDATE_EXPIRY
    (∀ p g c, g = p / 4 → (s.pool g).find? (fun x => s.primary x.ev.chan = p ∧ x.decided) = some c → u = s.at_ (c.entry + 2 * s.coWin g + 512) →
      exec (.candidateExpiry p) s = .next ((u.setPool g ((u.pool g).erase c)).reject c.ev.chan)) ∧
    -- DARK_GATE_END
    (∀ t len stolen, s.tmb.gate = some (t, len, stolen) → u = { s.toTbs t with tmb := { (s.toTbs t).tmb with gate := none } } →
      exec .darkGateEnd s = .next (if stolen then u else u.forEach u.groupsOn (fun s g => s.gateGroup t len g))) ∧
    -- FREE_RUN_GATE
    (∀ len next, s.dev ≠ .scanning → s.dev ≠ .off → s.dev ≠ .boot → s.fb TMB_CTRL TMB_CTRL_FREE_RUN = true → u = s.at_ s.tmb.freeAt →
      len = Nat.min (Nat.max 4 (u.ef TMB_AMB_CTRL TMB_AMB_CTRL_DG_LEN) * 16) 1008 →
      next = u.tm.now + Nat.max 1 (u.f TMB_CTRL TMB_CTRL_FREE_PERIOD) * tickUs →
      exec .freeRunGate s = .next { u with tmb := { u.tmb with gate := some (u.tbs + len * 64, len, false), freeAt := next } })

/-- R137, R140–R143, R151–R153, R167: the frame's course. The oldest frame-start event meets the sequencer, a schedule slot gives one, an
accepted event starts the frame, a column starts at its period (blank, waiting for a FREE set, or firing), and the frame ends when its last
column has closed. -/
def Obligations.FrameCourse : Prop :=
  ∀ (s u : State),
    -- FRAME_START_EVENT
    (∀ src t rest, s.fir.events = (src, t) :: rest → u = { s with fir := { s.fir with events := rest } } →
      exec .frameStartEvent s = .next (if s.scanning then u.meetEvent t else u)) ∧
    (∀ t, s.fir.events = [] → s.scanning = true → s.fsrc = 0 → s.fir.frameOpen = false → s.fir.go = none →
      t = (match s.fir.frameEnd with | some e => e + s.gapMin * tickUs | none => s.fir.entered) → u = s.at_ t →
      exec .frameStartEvent s = .next (u.meetEvent u.tbs)) ∧
    -- SCHEDULE_SLOT: the next multiple of the period after the present time
    (∀ t0 t1 x cur m, s.fir.sched = some (t0, t1) → x = s.f FIR_SCHED FIR_SCHED_TB → cur = s.netTime x / 2 ^ 16 →
      m = (if t0 * 2 ^ 32 ≤ cur then (cur - t0 * 2 ^ 32) / (s.framePer * 2 ^ 32) + 1 else 0) → u = s.toNet x ((t0 + m * s.framePer) * 2 ^ 48) →
      exec .scheduleSlot s = .next (if t1 + 100 * tickUs ≤ u.tm.now then u.frameEvent 2 u.tbs else u)) ∧
    -- FRAME_START
    (∀ t, s.fir.go = some t → s.scanning = true → s.fir.frameOpen = false → exec .frameStart s = .next ((s.toTbs t).startFrame t)) ∧
    -- COLUMN_START, in a frame by periods
    (∀ t ix e n start, ix = s.fir.nextEntry → s.scanning = true → s.fir.frameOpen = true → s.fir.column = none → s.fir.holding = false →
      s.esf.charging = false → s.esf.histClear = false → ix < s.columns → s.efb FIR_SEQ FIR_SEQ_CMODE = false → e = s.active ix →
      start = grid (match s.fir.prevStart with | some (a, p) => a + p | none => Nat.max (s.rd64 FIR_FSTART_LO FIR_FSTART_HI) s.fir.chargedAt) →
      u = s.toTbs start → n = u.shotsOf e (u.activeNext ix) ix →
      -- a blank column
      (n = 0 → exec (.columnStart t) s = .next (u.nextColumn start (e.period * 640))) ∧
      -- no set is FREE: the column waits
      (n ≠ 0 → u.setState u.hge.nextSet ≠ 0 → exec (.columnStart t) s = .next { u with fir := { u.fir with waited := true } }) ∧
      -- it starts on time, with its shots
      (n ≠ 0 → u.setState u.hge.nextSet = 0 → u.steal e n = (false, false, u) → u.fir.waited = false →
        ∃ x c, exec (.columnStart t) s = .next x ∧ x.fir.column = some c ∧ x.fir.anyFired = true ∧ x.fir.serial = u.fir.serial + 1 ∧
          x.hge.nextSet = 1 - u.hge.nextSet ∧ c.entry = ix ∧ c.start = start ∧ c.period = e.period * 640 ∧ c.shots = n ∧
          c.coarse = coarseOf e n ∧ c.set = u.hge.nextSet ∧ c.stolen = false ∧ c.silent = false ∧ c.fired = 0)) ∧
    -- ALLOCATION: a member allocates nothing; a device of its own or a head allocates where it is due, and a head sends what is due
    (s.isMember = true → exec .allocation s = .next { s with fir := { s.fir with allocDue := false } }) ∧
    (s.isMember = false → u = (if s.fir.allocDue then s.allocate else s) →
      exec .allocation s = .next (if (s.fir.allocDue || u.cas.due) && u.scanning then u.sendFrame else u)) ∧
    -- FRAME_END, in a frame that fired
    (s.scanning = true → s.fir.frameOpen = true → s.fir.column = none → s.fir.closing = [] → s.fir.anyFired = true →
      s.restBlank s.fir.nextEntry = true → u = s.endFrame.setF FIR_COL FIR_COL_PHASE 4 →
      exec .frameEnd s = .next (if u.drained then u.allocMoment.closeMsg false else u).startGap)

/-- R18, R125, R129, R139, R148, R151, R170, R320: a shot fires at the later of its place in the column and the spacing after the last
edge, unless its charge would exceed a limit, which trips EXPOSURE; and the oldest fired column closes, giving its set to extraction. -/
def Obligations.ShotsAndColumnClose : Prop :=
  ∀ (s u v : State) (c : Column),
    (∀ lf d mask e1 e2 az segs, s.fir.column = some c → s.scanning = true → u = (if c.fired = 0 then s.releaseColumn else s) →
      lf = lfsrSteps 11 c.lfsr → d = ditherOf c.dspan lf → mask = u.shotMask c → e1 = c.start + (c.fired * c.interval + d) * 32 →
      e2 = (match u.fir.prevEdge with | some p => p + iMin mask * 32 | none => 0) → v = u.toTbs (Nat.max e1 e2) →
      az = v.azAt (Nat.max e1 e2) (v.active c.entry).az → segs = v.firing mask c.pset →
      (v.overCharge (az / 2 ^ 14) segs = true → exec .shotFire s = .next (v.latch [4])) ∧
      (∀ h w, v.overCharge (az / 2 ^ 14) segs = false → w = (if e1 < e2 then v.addSat FIR_CNT_A FIR_CNT_A_SPACE 1 else v) →
        h = { serial := c.serial, set := c.set, ix := c.fired, dither := d, segmask := mask, edge := Nat.max e1 e2, fire := 0,
              zoom := decide (c.coarse ≤ c.fired), entry := c.entry, width := segs, sector := az / 2 ^ 14 : Shot } →
        exec .shotFire s = .next (((w.fireShot c h).afterShot { c with lfsr := lf, fired := c.fired + 1 }).noteConds v))) ∧
    -- COLUMN_CLOSE
    (∀ rest d x shots, s.fir.closing = c :: rest → s.tdc.windows.any (fun w => w.serial = c.serial) = false → u = s.toTbs (s.closeAt c) →
      d = { u.shotSummary c with amb := (u.liveChannels.map (fun n => (n, u.ambient n))).filter (fun y => y.2 ≠ 0), windowEnd := u.tbs, shots := c.fired } →
      shots = ((u.fir.shots.map (fun (h : Shot) => if h.serial = d.serial then { h with closed := true } else h)).filter
        (fun h => !h.closed || decide (u.tbs < h.edge + 2097152))) →
      v = State.setF { u with fir := { u.fir with closing := rest, lastClose := u.tbs, shots := shots } } FIR_LAST_FOLD FIR_LAST_FOLD_FOLD d.fold →
      x = { v.putSet d.set 2 with hge := { (v.putSet d.set 2).hge with descs := Sp.ins (v.putSet d.set 2).hge.descs d.set d } } →
      exec .columnClose s = .next (x.forEach x.liveChannels (fun s n =>
        if bit (s.rflags d.set n) 0 then s.addSat (HGE_CH_STAT n) HGE_CH_STAT_SAT_COLS 1 else s)))

/-- R157–R163, R166, R168, R174, R183, R206, R207: the histogram engine and extraction. The event at the head of a bank's FIFO is binned,
held or refused by the rate limit; the zoom windows are placed; an entry to SCANNING clears both sets; the oldest closed set is scanned;
its end frees the set, or stalls on a full crossing; and the oldest column of the crossing is complete. -/
def Obligations.HistogramAndExtraction : Prop :=
  ∀ (s u : State),
    -- EVENT_BINNING
    (∀ q t e rest, s.bankFifo q = e :: rest → u = s.at_ t →
      (u.held157 e = true → exec (.eventBinning q t) s = .next u) ∧
      (∀ v, u.held157 e = false → v = { u with hge := { u.hge with fifo := Sp.put (fun _ => []) u.hge.fifo q rest } } →
        exec (.eventBinning q t) s = .next (if v.admits e.chan then (v.charge1 e.chan).binEvent e
          else v.addWrap (HGE_CH_RATE e.chan) HGE_CH_RATE_RATE 1))) ∧
    -- ZOOM_PLACEMENT
    (∀ c n, s.toPlace = some c → n = Nat.min 4 (s.ef HGE_ZOOM HGE_ZOOM_NWIN) →
      u = (s.forEach s.liveChannels (fun s x => s.placeChannel c.set n x)).updColumn c.serial (fun c => { c with placed := true }) →
      exec .zoomPlacement s = .next { u with hge := { u.hge with tracks := Sp.drop (fun k => k / 512 == c.set) u.hge.tracks } }) ∧
    -- HISTOGRAM_CLEAR
    (s.esf.histClear = true → u = s.clearMem 0x10000000 0x10C00000 →
      exec .histogramClear s = .next { u with esf := { u.esf with histClear := false }, hge := { u.hge with ecc := [], tracks := [] } }) ∧
    -- EXTRACTION_SCAN
    (∀ c, s.nextScan = some c → s.ext.busy = none → s.domOn 10 = true → exec .extractionScan s = .next (s.scanColumn c)) ∧
    -- EXTRACTION_END
    (∀ set out, s.ext.busy = some (set, out) → s.crossing < 1024 → u = (s.putSet set 0).setF EXT_STATUS EXT_STATUS_BUSY 0 →
      ∃ v, v = { u with ext := { busy := none, stalled := false, out := u.ext.out ++ [out] }, hge := { u.hge with descs := Sp.del u.hge.descs set } } ∧
        exec .extractionEnd s = .next (if v.scanning then v else v.settleRetain)) ∧
    (∀ set out, s.ext.busy = some (set, out) → 1024 ≤ s.crossing →
      u = (if s.ext.stalled then s else (s.setF EXT_STATUS EXT_STATUS_STALLED 1).addSat EXT_CNT_STALL EXT_CNT_STALL_STALLS 1) →
      exec .extractionEnd s = .next { u with ext := { u.ext with stalled := true } }) ∧
    -- COLUMN_OUTPUT_COMPLETE
    (∀ o rest, s.ext.out = o :: rest → u = State.lastColumn { s with ext := { s.ext with out := rest } } o →
      ∃ v w, v = (if o.usable then { u with fir := { u.fir with figures := Sp.ins u.fir.figures o.column (o.noecho, o.lowconf, o.far) } } else u) ∧
        w = (v.forwardColumn o).packColumn o.header o.records ∧
        exec .columnOutputComplete s = .next (if !w.fir.frameOpen && w.drained then w.frameOut else w))

/-- R304, R307, R309–R313, R315–R318, R321, R326, R327: the safety inputs and limits. A permit channel that opens, a cover that leaves, a
falling HG_FAULT_N, an elapsed discrepancy, an uncharged reservoir and a missing guard pair each trip their cause while armed; a cause
that may clear itself clears after HOLDOFF; a sub-interval ends; the watchdog and the lockstep comparator stop the core. -/
def Obligations.SafetyInputs : Prop :=
  ∀ (s u v : State),
    -- PERMIT_CHANGE
    (∀ a b, s.boot.off = false → u = { s with pin := { s.pin with permitA := a, permitB := b } } →
      v = ((u.permitTest s.ptest).permitCompare).noteConds s →
      ((s.pin.permitA = true ∧ a = false) ∨ (s.pin.permitB = true ∧ b = false) → exec (.permitChange a b) s = .next (if v.esf.armed then v.latch [1] else v)) ∧
      ((s.pin.permitA = true → a = true) → (s.pin.permitB = true → b = true) → exec (.permitChange a b) s = .next v)) ∧
    -- PERMIT_DISCREPANCY
    (∀ t, s.esf.diffSince = some t → s.fb ESF_IN ESF_IN_DISC = false →
      u = ((s.at_ (t + s.f ESF_CTRL ESF_CTRL_DISC * tickMs)).setF ESF_IN ESF_IN_DISC 1) → v = u.addSat ESF_CNT ESF_CNT_DISC 1 →
      exec .permitDiscrepancy s = .next (if v.esf.armed then v.latch [1] else v)) ∧
    -- COVER_CHANGE
    (∀ high, u = State.noteConds { s with pin := { s.pin with coverN := high } } s →
      exec (.coverChange high) s = .next (if high && !s.pin.coverN && s.esf.armed then u.latch [2] else u)) ∧
    -- HG_FAULT_FALL and HG_FAULT_RELEASE
    (u = State.noteConds { s with pin := { s.pin with hgFaultOthers := true } } s →
      exec .hgFaultFall s = .next (if s.hgFaultN && s.esf.armed then u.latch [7] else u)) ∧
    exec .hgFaultRelease s = .next (State.noteConds { s with pin := { s.pin with hgFaultOthers := false } } s) ∧
    -- RESERVOIR_CHARGED and RESERVOIR_CHARGE_TIMEOUT
    (∀ vres vmid t, s.esf.guard = some (vres, vmid, t) → s.scanning = true → s.esf.charging = true → s.fir.entered ≤ t → s.resOn ≤ vres →
      u = { s with esf := { s.esf with charging := false, reservoir := true }, fir := { s.fir with chargedAt := s.tbs } } →
      exec .reservoirCharged s = .next (u.setF ESF_WALK_STAT ESF_WALK_STAT_STEP 5)) ∧
    (s.scanning = true → s.esf.charging = true →
      u = s.at_ (s.fir.entered + Nat.max 1 (s.f ESF_WALK_CFG ESF_WALK_CFG_T_C) * 100 * tickUs) →
      exec .reservoirChargeTimeout s = .next (u.latch [9])) ∧
    -- GUARD_CONVERSION and GUARD_GAP
    (∀ vres vmid, s.refReady = true → u = (s.guardPair (result16 vres) (result16 vmid)).walkPair s.guardServes (result16 vres) (result16 vmid) →
      exec (.guardConversion vres vmid) s = .next ((u.noteConds s).guardCheck (result16 vres) (result16 vmid))) ∧
    (∀ vres vmid t, s.esf.guard = some (vres, vmid, t) → s.esf.armed = true →
      exec .guardGap s = .next ((s.at_ (t + 25 * tickUs + 1)).latch [8])) ∧
    -- AUTO_CLEAR
    (∀ code n, causeCond code = some n → s.latched code = true → bit (s.f ESF_CTRL ESF_CTRL_AUTOCLR) code = true → s.cond n = true →
      u = s.at_ (Nat.max (Sp.get (fun _ => 0) s.esf.causeAt code) (Sp.get (fun _ => 0) s.esf.condSince n)
        + Nat.max 1 (s.f ESF_CTRL ESF_CTRL_HOLDOFF) * tickMs) →
      exec (.autoClear code) s = .next (u.unlatch [code])) ∧
    -- EXPOSURE_SUBINTERVAL
    (∀ w n, w < 3 → s.pllT = true → n = (s.slot w + 1) % 17 →
      u = { s with esf := { s.esf with slots := Sp.put (fun _ => 0) s.esf.slots w n,
                                       charges := Sp.drop (fun k => k / 17 / 1024 == w && k % 17 == n) s.esf.charges } } →
      exec (.exposureSubinterval w) s = .next (u.noteConds s)) ∧
    -- WATCHDOG_EXPIRY and LOCKSTEP_MISMATCH, in a state that runs commands
    (runsCommands s.dev = true → s.fb ESF_DIAG ESF_DIAG_WDOG_EXP = false →
      exec .watchdogExpiry s = .next ((s.setF ESF_DIAG ESF_DIAG_WDOG_EXP 1).coreFault 11 0x61)) ∧
    (runsCommands s.dev = true → exec .lockstepMismatch s = .next ((s.setF ESF_DIAG ESF_DIAG_LOCKSTEP_ERR 1).coreFault 12 0x60))

/-- R315, R316: the switch walk starts in PRIMED when every condition holds and no walk has failed, arming the deadbolt; each step is
judged by its guard pair, and a step without one for 100 µs fails the walk with reason 5. -/
def Obligations.SwitchWalk : Prop :=
  ∀ (s u : State),
    (s.dev = .primed → s.condAll = true → s.esf.walkFailed = false → s.esf.walk = none →
      u = { s with esf := { s.esf with armed := true, histClear := true } } →
      exec .switchWalkStart s = .next (u.walkStep { step := 1, asked := u.tm.now } false false)) ∧
    ((s.dev ≠ .primed ∨ s.condAll = false ∨ s.esf.walkFailed = true ∨ s.esf.walk ≠ none) → exec .switchWalkStart s = .next s) ∧
    (∀ w vres vmid, s.esf.walk = some w → w.pair = some (vres, vmid) → exec .walkStepEnd s = .next (s.walkJudge w vres vmid)) ∧
    (∀ w, s.esf.walk = some w → w.pair = none →
      exec .walkStepEnd s = .next s ∧ exec .walkGuardTimeout s = .next ((s.at_ (w.asked + 100 * tickUs)).walkFail 5))

/-- R331–R333, R337, R340, R360: zones after each frame, their reports and holds, and the open stream message's closing. -/
def Obligations.ZoneHappenings : Prop :=
  ∀ (s : State),
    (∀ frame disagree, s.zon.due = some frame → s.isMS = true → s.domOn 10 = true → s.fir.column = none → s.fir.closing = [] →
      s.hge.descs = [] → s.ext.busy = none → s.ext.out = [] →
      exec (.zoneEvaluation disagree) s = .next (s.evaluate frame disagree).safeSend) ∧
    (∀ t, s.zon.reportAt = some t → exec .safeReportPeriodic s = .next (s.at_ (t + s.zonPeriod)).safeSend) ∧
    (∀ t, s.holdExpiry = some t → exec .zoneHoldExpiry s = .next (s.at_ (s.tm.now + (t - s.tbl) * 64)).zonShow) ∧
    (∀ m, s.pkt.msg = some m → exec .streamMessageClose s = .next
      ((s.at_ (m.openedAt + Nat.max 1 (s.f ETHA_STRM_CFG ETHA_STRM_CFG_HOLD) * tickUs)).closeMsg false))

/-- R344, R345, R349–R354, R363, R365, R366, R386, R387: the backbone ports. A port's link comes up and is lost; a frame in transmission ends
and the next starts when its credit and the timed windows allow; a timed frame is launched at its time; LLDPDUs and supervision frames are
sent and neighbours expire; frames are received; and the address clients (DHCP, duplicate detection, ARP) act on their timers. -/
def Obligations.PortHappenings : Prop :=
  ∀ (s u : State) (port : Port),
    -- LINK_UP
    (∀ speed st v w, st = ETHx_STATUS (portIx port) → s.domOn (portDom port) = true → s.fb (ETHx_CTRL (portIx port)) ETHx_CTRL_EN = true →
      s.rate port ≠ 0 → s.fb st ETHx_STATUS_LINK = false →
      u = ((s.setF st ETHx_STATUS_SPEED (if s.lineMode port = 1 then Nat.min 2 speed else 0)).setF st ETHx_STATUS_LINK 1).raisePort port →
      v = (u.prp && s.portUp (portOf (1 - portIx port))) → w = (if v then u else u.addressUp port) →
      exec (.linkUp port speed) s = .next (if w.lldpOn port then w.sendLldp port (w.lldpTtl port) else w)) ∧
    -- LINK_DOWN: the queues are flushed and LINK falls
    (s.fb (ETHx_STATUS (portIx port)) ETHx_STATUS_LINK = true → exec (.linkDown port) s = .next
      (((s.flushPort port).setF (ETHx_STATUS (portIx port)) ETHx_STATUS_LINK 0).raisePort port)) ∧
    (s.fb (ETHx_STATUS (portIx port)) ETHx_STATUS_LINK = false → exec (.linkDown port) s = .next s) ∧
    -- FRAME_TRANSMIT
    (s.portUp port = true → u = (if (s.eth port).sending.isSome then (s.at_ (s.eth port).sendEnd).settleSend port else s) →
      (u.nextSend port = none → exec (.frameTransmit port) s = .next u) ∧
      (∀ e v, u.nextSend port = some e → v = u.at_ (u.tm.now + u.creditWait port e) →
        exec (.frameTransmit port) s = .next (if v.clearOfTimed port e then v.startSend port e else u))) ∧
    -- TIMED_LAUNCH
    (∀ e t q, s.portUp port = true → s.nextTimed port = some (e, t) → e.cls = .timed q →
      u = (if (s.eth port).sending.isSome then ((s.at_ t).at_ (s.eth port).sendEnd).settleSend port else s.at_ t) →
      exec (.timedLaunch port) s = .next (u.launch port q e (e.late || (timedSending (s.eth port) && decide (t < (s.eth port).sendEnd))))) ∧
    -- LLDP_TRANSMIT, NEIGHBOUR_EXPIRY, PRP_SUPERVISION
    (s.lldpOn port = true →
      u = s.at_ ((s.eth port).lldpAt + Nat.max 1 (s.f (ETHx_LLDP_CFG (portIx port)) ETHx_LLDP_CFG_TX_INT) * tickS) →
      exec (.lldpTransmit port) s = .next (u.sendLldp port (u.lldpTtl port))) ∧
    (∀ e t, Sp.find (s.eth port).nbrEnd e = some t → exec (.neighbourExpiry port e) s = .next ((s.at_ t).nbrClear port e)) ∧
    (s.prp = true → u = s.at_ ((s.tm.now / (2 * tickS) + 1) * (2 * tickS)) →
      exec .prpSupervision s = .next (u.sendPrp .A .mgmt 0x01154E000100 .prpSup 46 true id)) ∧
    -- FRAME_RECEIVE and LLDPDU_RECEIVE
    (∀ frame, exec (.frameReceive port frame) s = .next (s.macIn port frame)) ∧
    (∀ frame l, frame.body = .lldp l → exec (.lldpduReceive port frame) s = .next (s.macIn port frame)) ∧
    -- DHCP_LEASE_TIMER: renew at T1, rebind at T2, start again at the end
    (∀ c, c = s.cfgPort port →
      ((s.eth c).dhcpState = 3 → u = s.at_ (s.eth c).leaseT1 →
        exec (.dhcpLeaseTimer port) s = .next ((u.setEth c { u.eth c with dhcpState := 4 }).sendDhcp port .request)) ∧
      ((s.eth c).dhcpState = 4 → u = s.at_ (s.eth c).leaseT2 →
        exec (.dhcpLeaseTimer port) s = .next ((u.setEth c { u.eth c with dhcpState := 5 }).sendDhcp port .request)) ∧
      ((s.eth c).dhcpState = 5 → exec (.dhcpLeaseTimer port) s = .next ((s.at_ (s.eth c).leaseEnd).dhcpStart port))) ∧
    -- DUPLICATE_ADDRESS_DETECTION
    (∀ c x linkLocal, c = s.cfgPort port → x = s.eth c → x.dad.contains (if linkLocal then 0 else 1) = true →
      (u = s.setEth c { x with dad := x.dad.erase (if linkLocal then 0 else 1), llaBad := if linkLocal then true else x.llaBad, gBad := if linkLocal then x.gBad else true } →
        exec (.duplicateAddressDetection port linkLocal true) s = .next (u.setF (ETHx_STATUS (portIx c)) ETHx_STATUS_DAD_FAIL 1)) ∧
      (u = s.setEth c { x with dad := x.dad.erase (if linkLocal then 0 else 1), llaBad := if linkLocal then false else x.llaBad, gBad := if linkLocal then x.gBad else false } →
        exec (.duplicateAddressDetection port linkLocal false) s = .next
          (u.setF (ETHx_STATUS (portIx c)) (if linkLocal then ETHx_STATUS_ADDR6_LL else ETHx_STATUS_ADDR6_G) 1))) ∧
    -- ARP_RETRY and ARP_ENTRY_AGE_OUT
    (∀ ip t rest, (s.eth port).resolving = (ip, t) :: rest → u = s.at_ (t + tickS) →
      exec (.arpRetry port) s = .next ((u.setEth port { u.eth port with resolving := rest }).startResolve port ip)) ∧
    (∀ e rest, (s.eth port).arp = e :: rest → u = s.at_ (e.at_ + 60 * tickS) →
      exec (.arpEntryAgeOut port) s = .next (u.setEth port { u.eth port with arp := rest }))

/-- R373, R374, R381, R388, R389: the time bases by themselves: an anchor each microsecond, PPS_IN captured and steering where it is the
source, the two network bases compared each millisecond, PPS_OUT raised at a whole second and a timed output at its time. -/
def Obligations.TimeHappenings : Prop :=
  ∀ (s u v w : State),
    -- TIME_ANCHOR
    (∀ kept, u = s.at_ ((s.tm.now / tickUs + 1) * tickUs) → kept = u.tm.anchors.filter (fun a => decide (u.tbs ≤ a.1 + 256 * tickUs)) →
      exec .timeAnchor s = .next (State.discipline { u with tm := { u.tm with anchors := (u.tbs, u.netTime 0, u.netTime 1) :: kept } })) ∧
    -- PPS_IN_EDGE
    (∀ t, u = (s.toTbs t).capture 1 t → v = { u with tm := { u.tm with ppsLast := some t } } →
      (u.tm.ppsLast = none → exec (.ppsInEdge t) s = .next v) ∧
      (∀ l, u.tm.ppsLast = some l → (v.f TIM_TBS_DISC TIM_TBS_DISC_SRC ≠ 3 ∨ t - l < 63936000000 ∨ 64064000000 < t - l) →
        exec (.ppsInEdge t) s = .next v) ∧
      (∀ l, u.tm.ppsLast = some l → v.f TIM_TBS_DISC TIM_TBS_DISC_SRC = 3 → 63936000000 ≤ t - l → t - l ≤ 64064000000 →
        exec (.ppsInEdge t) s = .next (v.freqSteer ((2 ^ 32 + v.tbsFreq) * 64000000000 / ((t - l : Nat) : Int) - 2 ^ 32)))) ∧
    -- TIME_CROSS_CHECK
    (∀ d run, s.fb TIM_XCHK TIM_XCHK_EN = true → (s.baseState 0 = 3 ∨ s.baseState 0 = 4) → (s.baseState 1 = 3 ∨ s.baseState 1 = 4) →
      u = s.at_ ((s.tm.now / tickMs + 1) * tickMs) → d = satS 16 (((u.netTime 0 : Int) - u.netTime 1).tdiv (2 ^ 48)) →
      v = u.setF TIM_XCHK TIM_XCHK_DIFF (ux 16 d) → run = (if v.f TIM_XCHK TIM_XCHK_LIMIT < d.natAbs then v.tm.xchkRun + 1 else 0) →
      w = { v with tm := { v.tm with xchkRun := run } } →
      exec .timeCrossCheck s = .next (if 3 ≤ run ∧ w.fb TIM_XCHK TIM_XCHK_FAIL = false then (w.setF TIM_XCHK TIM_XCHK_FAIL 1).raiseTime 3 0 d else w)) ∧
    -- PPS_OUT_PULSE
    (∀ x until_, x = s.f TIM_PPS TIM_PPS_TB → s.fb TIM_PPS TIM_PPS_EN = true → s.netRunning x = true →
      u = s.toNet x ((netSec (s.netTime x) + 1) * 10 ^ 9 * 2 ^ 48) → until_ = u.tm.now + Nat.max 1 (u.f TIM_PPS TIM_PPS_WIDTH) * tickUs →
      exec .ppsOutPulse s = .next { u with pin := { u.pin with ppsOut := true }, tm := { u.tm with ppsOutUntil := until_ } }) ∧
    -- TIMED_OUTPUT_PULSE
    (∀ k x due next until_, k < 4 → x = s.f (TIM_EVOUT_CFG k) TIM_EVOUT_CFG_TB → Sp.find s.tm.evOutNext k = some due →
      s.fb (TIM_EVOUT_CFG k) TIM_EVOUT_CFG_EN = true → s.netRunning x = true → u = s.toNet x (due * 2 ^ 48) →
      next = (if u.evOutPeriod k = 0 then Sp.del u.tm.evOutNext k else Sp.ins u.tm.evOutNext k (due + u.evOutPeriod k)) →
      until_ = u.tm.now + Nat.max 1 (u.f (TIM_EVOUT_CFG k) TIM_EVOUT_CFG_WIDTH) * 6400 →
      exec (.timedOutputPulse k) s = .next { u with tm := { u.tm with evOutNext := next, evOutUntil := Sp.ins u.tm.evOutUntil k until_ },
                                                    pin := { u.pin with gpioOut := u.pin.gpioOut ||| 2 ^ (8 + k) } })

/-- R377–R379: PTP. A slave port follows its master's Sync, measures its path delay, takes the better dataset and holds over when messages
stop; a master port sends Sync and Announce. -/
def Obligations.PtpHappenings : Prop :=
  ∀ (s u v : State) (port : Port) (x : Nat), x = portIx port →
    -- PTP_SYNC
    (∀ d o, s.slave x = true → (s.ptp x).master ≠ none → u = State.ptpEnter (s.setPtp x { s.ptp x with syncAt := some s.tm.now }) x →
      o = d - sx 32 (u.rd (TIM_TBx_MPD x)).toNat - sx 32 (u.rd (TIM_TBx_ASYM x)).toNat →
      v = (u.word32 o).2.wr (TIM_TBx_OFS x) (u.word32 o).1 →
      exec (.ptpSync port d) s = .next (if v.baseState x = 4 then v else (v.ptpOffset x o).discipline)) ∧
    -- PTP_DELAY_REQUEST
    (s.slave x = true → s.portUp port = true → u = (s.ptpSeq x).2 → v = u.setPtp x { u.ptp x with delayPending := true } →
      exec (.ptpDelayRequest port) s = .next (if v.fb (TIM_TBx_STATE x) TIM_TBx_STATE_DELAY
        then v.sendPtp port 2 (v.ptpHeader port 2 54 0 (s.ptpSeq x).1 5 (v.ptp x).logDelay ++ zeros 20)
        else v.sendPtp port 1 (v.ptpHeader port 1 44 0 (s.ptpSeq x).1 1 (v.ptp x).logDelay ++ zeros 10))) ∧
    -- PTP_DELAY_MEASUREMENT: the first one loads the mean path delay; later ones are filtered where they are near it
    (∀ ms sm ratio e raw nr near, e = s.ptp x → s.slave x = true → e.delayPending = true → raw = (ms + sm).tdiv 2 →
      nr = (if s.fb (TIM_TBx_STATE x) TIM_TBx_STATE_PROFILE then ratio else e.nbrRatio) →
      near = decide ((raw - sx 32 (s.rd (TIM_TBx_MPD_REF x)).toNat).natAbs ≤ e.stepLimit * 16) →
      u = s.setPtp x { e with delayPending := false, rawLast := raw, nbrRatio := nr, rawGood := if near then e.rawGood + 1 else 0 } →
      (e.mpdValid = false → exec (.ptpDelayMeasurement port ms sm ratio) s = .next (u.mpdFilter x raw true)) ∧
      (e.mpdValid = true → near = true → (u.baseState x ≠ 4 ∨ u.f (TIM_TBx_STATE x) TIM_TBx_STATE_HCAUSE ≠ 3) →
        exec (.ptpDelayMeasurement port ms sm ratio) s = .next (u.mpdFilter x raw false)) ∧
      (e.mpdValid = true → near = false → (u.baseState x = 2 ∨ u.baseState x = 3) →
        exec (.ptpDelayMeasurement port ms sm ratio) s = .next
          ((((u.holdover x 3).setF (TIM_TBx_STATE x) TIM_TBx_STATE_ASYM_SUSPECT 1).raiseTime 2 x
            ((raw - sx 32 (s.rd (TIM_TBx_MPD_REF x)).toNat).tdiv 16)).discipline))) ∧
    -- PTP_ANNOUNCE
    (∀ dataset, s.slave x = true → u = s.setPtp x { s.ptp x with master := some dataset, annAt := some s.tm.now } →
      ((s.ptp x).master = none → exec (.ptpAnnounce port dataset) s = .next u) ∧
      (∀ m, (s.ptp x).master = some m → (slice m 6 8 = slice dataset 6 8 ∨ betterDataset dataset m = true) →
        exec (.ptpAnnounce port dataset) s = .next u) ∧
      (∀ m, (s.ptp x).master = some m → slice m 6 8 ≠ slice dataset 6 8 → betterDataset dataset m = false →
        exec (.ptpAnnounce port dataset) s = .next s)) ∧
    -- PTP_MESSAGE_TIMEOUT
    (∀ announce t, (if announce then (s.ptp x).annAt else (s.ptp x).syncAt) = some t → s.slave x = true → (s.baseState x = 2 ∨ s.baseState x = 3) →
      u = s.at_ (t + 3 * 64 * logNs (if announce then (s.ptp x).logAnnounce else (s.ptp x).logSync)) →
      exec (.ptpMessageTimeout port announce) s = .next (((u.holdover x (if announce then 2 else 1)).raiseTime 1 x 0).discipline)) ∧
    -- PTP_MASTER_SEND
    (s.role x = 2 → s.portUp port = true → u = (s.ptpSeq x).2 →
      exec (.ptpMasterSend port true) s = .next (u.sendPtp port 0 (u.ptpHeader port 0 44 0x0200 (s.ptpSeq x).1 0 (s.ptp x).logSync ++ zeros 10)) ∧
      exec (.ptpMasterSend port false) s = .next
        (u.sendPtp port 11 (u.ptpHeader port 11 64 0 (s.ptpSeq x).1 5 (s.ptp x).logAnnounce ++ zeros 13 ++ beBytes 1 (s.ptp x).prio1
          ++ beBytes 4 0xF8FEFFFF ++ beBytes 1 (s.ptp x).prio2 ++ clockId (u.mac port) ++ beBytes 2 0 ++ beBytes 1 0xA0)))

/-- R439, R441, R442: the DMA engine: a channel's timer gives a request each period, and the engine runs one burst of the channel whose turn
it is; with PD19 off it does nothing. -/
def Obligations.DmaHappenings : Prop :=
  ∀ (s u : State),
    (∀ c, c < 16 → s.domOn 19 = true → s.dmaEn c = true → s.f (DMA_CH_CFG c) DMA_CH_CFG_REQ = 3 → u = s.at_ (s.dch c).timerAt →
      exec (.dmaTimerRequest c) s = .next (State.dmaPend (u.setDch c { u.dch c with timerAt := (s.dch c).timerAt + u.dmaPeriod c }) c)) ∧
    (∀ c, s.domOn 19 = true → s.boot.off = false → s.burstNext = some c → exec .dmaBurst s = .next (s.dmaBurst c)) ∧
    (s.domOn 19 = true → s.burstNext = none → exec .dmaBurst s = .next s) ∧
    (∀ c, s.domOn 19 = false → exec (.dmaTimerRequest c) s = .next s ∧ exec .dmaBurst s = .next s)

/-- R391, R394–R401, R411, R426, R427: a Weft link's states. A termination found goes to TRAIN, phase lock to BLOCK, lock of every lane to
ALIGN and its sets to DESKEW and CAPX; a bring-up without CAPX for 10 ms goes back to DETECT and counts a retry, a lost lock goes back to
TRAIN. CAPX pairs, KEEPALIVE blocks, XOFF and XON are sent and received, lanes freeze, and a raw tap sends its items and marks. -/
def Obligations.WeftLinkStates : Prop :=
  ∀ (s u v : State) (l : Nat),
    -- TERMINATION_DETECT
    (∀ found, s.linkOn l = true → s.linkState l = 1 → u = s.at_ ((s.link l).tryAt + 100 * tickUs) →
      v = u.putLink l { u.link l with tryAt := u.tm.now } → exec (.terminationDetect l found) s = .next (if found then v.toLink l 2 else v)) ∧
    -- LINK_TRAINING_DONE
    (∀ ctle, s.linkOn l = true → s.linkState l = 2 → s.rawTap l = false →
      u = s.forEach (List.range 4) (fun s k =>
        (s.setF (WFL_LANE_STAT l k) WFL_LANE_STAT_CTLE (if s.fb (WFL_LANE_CFG l k) WFL_LANE_CFG_CTLE_MAN
          then s.f (WFL_LANE_CFG l k) WFL_LANE_CFG_CTLE else ctle.getD k 0)).setF (WFL_LANE_STAT l k) WFL_LANE_STAT_PHASE_LOCK 1) →
      exec (.linkTrainingDone l ctle) s = .next (u.toLink l 3)) ∧
    -- BLOCK_LOCK
    (∀ k lock bad stuff, k < 4 → s.linkOn l = true → lockedState (s.linkState l) = true → s.rawTap l = false →
      u = ((s.addSat (WFL_CNT_B l) WFL_CNT_B_HDR bad).addSat (WFL_CNT_B l) WFL_CNT_B_STUFF stuff).setF (WFL_LANE_STAT l k)
        WFL_LANE_STAT_BLOCK_LOCK (b2n lock) →
      exec (.blockLock l k lock bad stuff) s = .next
        (if lock then (if u.linkState l = 3 ∧ u.allLocked l then u.toLink l 4 else u) else u.toLink l 2)) ∧
    -- ALIGN_RECEIVE in ALIGN, and in DESKEW with a set that agrees with the last
    (∀ count skew, s.linkOn l = true → s.rawTap l = false → u = s.putLink l { s.link l with align := some (count, skew) } →
      (s.linkState l = 4 → v = u.toLink l 5 →
        exec (.alignReceive l count skew) s = .next (v.putLink l { v.link l with align := some (count, skew) })) ∧
      (s.linkState l = 5 → v = u.forEach (List.range 4) (fun s k => s.setF (WFL_LANE_STAT l k) WFL_LANE_STAT_SKEW (skew.getD k 0)) →
        exec (.alignReceive l count skew) s = .next (if alignAgrees (s.link l).align count skew then v.toLink l 6 else v))) ∧
    -- LINK_BRINGUP_TIMEOUT, LINK_LOCK_LOSS, RAWTAP_ACTIVE
    (s.linkOn l = true → bringUp (s.linkState l) = true → s.rawTap l = false → exec (.linkBringupTimeout l) s = .next
      (((s.at_ ((s.link l).upAt + 10 * tickMs)).toLink l 1).addSat (WFL_STATE l) WFL_STATE_RETRIES 1)) ∧
    (∀ receiving, s.linkOn l = true → lockedState (s.linkState l) = true → s.rawTap l = false → exec (.linkLockLoss l receiving) s = .next
      ((if receiving && s.linkState l == 7 then s.addSat (WFL_CNT_A l) WFL_CNT_A_CRC 1 else s).toLink l 2)) ∧
    (s.linkOn l = true → s.linkState l = 2 → s.rawTap l = true → exec (.rawtapActive l) s = .next ((s.at_ ((s.link l).since + tickMs)).toLink l 7)) ∧
    -- CAPX_SEND and CAPX_PAIR_RECEIVE
    (s.linkOn l = true → s.linkState l ∈ [6, 7, 8] → s.rawTap l = false → exec (.capxSend l) s = .next
      ((s.at_ ((s.link l).capxAt + (if s.linkState l = 6 then 100 * tickUs else tickMs))).sendCapx l)) ∧
    (∀ capx0 capx1, s.linkOn l = true → s.linkState l ∈ [6, 7, 8] → s.rawTap l = false →
      u = s.forEach (List.range 4) (fun s j => (s.wr (WFL_PCAP l j) (BitVec.ofNat 32 (leAt capx0 (4 * j) 4))).wr (WFL_PCAP l (4 + j))
        (BitVec.ofNat 32 (leAt capx1 (4 * j) 4))) →
      v = u.putLink l { u.link l with upAt := u.tm.now } →
      exec (.capxPairReceive l capx0 capx1) s = .next ((((if (v.capxOutcome l).1 = 6 then v
        else v.setF (WFL_STATE l) WFL_STATE_QCAUSE (v.capxOutcome l).2).toLink l (v.capxOutcome l).1).setHops).lostUp)) ∧
    -- CONTROL_BLOCK_RECEIVE: a bad block counts; XOFF and XON take effect while ACTIVE
    (∀ block, s.linkOn l = true → 4 ≤ s.linkState l → s.linkState l ≤ 8 → s.rawTap l = false →
      ((crc8 (block.take 15) ≠ leAt block 15 1 ∨ leAt block 0 1 ∉ ctlTypes) →
        exec (.controlBlockReceive l block) s = .next (s.addSat (WFL_CNT_A l) WFL_CNT_A_CTLBAD 1)) ∧
      (crc8 (block.take 15) = leAt block 15 1 → leAt block 0 1 = 0x51 → s.linkState l = 7 →
        exec (.controlBlockReceive l block) s = .next ((s.setF (WFL_STATUS l) WFL_STATUS_TX_XOFF 1).xoffSync l)) ∧
      (crc8 (block.take 15) = leAt block 15 1 → leAt block 0 1 = 0x50 → s.linkState l = 7 →
        exec (.controlBlockReceive l block) s = .next ((s.xon l).xoffSync l))) ∧
    -- XOFF: at 40 blocks, and XON at 16
    (∀ fill, receives s l = true →
      (40 ≤ fill → s.fb (WFL_STATUS l) WFL_STATUS_RX_XOFF = false → exec (.xoff l fill) s = .next
        (((s.setF (WFL_STATUS l) WFL_STATUS_RX_XOFF 1).sendBlock l (ctlBlock 0x51 [])).xoffSync l)) ∧
      (fill ≤ 16 → s.fb (WFL_STATUS l) WFL_STATUS_RX_XOFF = true → exec (.xoff l fill) s = .next
        (((s.setF (WFL_STATUS l) WFL_STATUS_RX_XOFF 0).sendBlock l (ctlBlock 0x50 [])).xoffSync l))) ∧
    (∀ t, (s.link l).xoffAt = some t → exec (.xoffHeldLong l) s = .next ((s.at_ (t + tickMs + 1)).setF (WFL_STATUS l) WFL_STATUS_XOFF_LONG 1)) ∧
    -- IDLE_FREEZE and KEEPALIVE_SEND
    (∀ k, k < 4 → s.linkOn l = true → lockedState (s.linkState l) = true → s.rawTap l = false →
      exec (.idleFreeze l k) s = .next (s.setF (WFL_LANE_STAT l k) WFL_LANE_STAT_FROZEN 1)) ∧
    (s.linkOn l = true → lockedState (s.linkState l) = true → s.rawTap l = false → u = s.at_ ((s.link l).kaAt + tickMs) →
      exec (.keepaliveSend l) s = .next
        ((u.putLink l { u.link l with kaAt := u.tm.now }).sendBlock l (ctlBlock 0x2D (List.replicate 14 0xA5)))) ∧
    -- TAP_ITEM_SEND and TAP_MARK on the tap's raw link
    (∀ b n rest, l = s.f HNG_TAP_CTRL HNG_TAP_CTRL_LINK → s.evr.tap ≠ [] → s.linkActive l = true → s.rawTap l = true →
      tapBlock s.evr.tap = (b, n, rest) → u = { s with evr := { s.evr with tap := rest } } →
      exec .tapItemSend s = .next ((u.sendBlock l b).addWrap HNG_TAP_SENT HNG_TAP_SENT_ITEMS n)) ∧
    (l = s.f HNG_TAP_CTRL HNG_TAP_CTRL_LINK → s.fb HNG_TAP_CTRL HNG_TAP_CTRL_EN = true → s.linkActive l = true → s.rawTap l = true →
      u = s.at_ (s.cas.markAt + tickUs) → v = { u with cas := { u.cas with markAt := u.tm.now } } →
      exec .tapMark s = .next (v.sendBlock l (ctlBlock 0x82 (leBytes 8 v.tbs ++ wordBytes (v.rd HNG_TAP_LOST)
        ++ leBytes 1 (v.index + 16 * v.f HNG_TAP_CTRL HNG_TAP_CTRL_STAGE)))))

/-- R397, R410, R412–R415, R417, R419, R421: the messages between devices. A message is passed on and counted; one with a bad CRC counts
CRC and does nothing else; a member obeys what its head sends and a head what its members send, and WARP and POINTS from the other side do
nothing more. -/
def Obligations.CascadeMessages : Prop :=
  ∀ (s u : State) (l src dst : Nat) (hdr body : List Byte), receives s l = true →
    -- WARP
    (u = arrived s l ⟨1, src, dst, hdr, body, true⟩ → exec (.warp l src dst hdr body true) s = .next
      (if u.fromHead l then (u.takeWarp (leAt hdr 4 2) body).sendStatus else u)) ∧
    -- FRAME: the counts are held for the next frame and acknowledged
    (∀ counts, u = arrived s l ⟨2, src, dst, hdr, body, true⟩ → u.fromHead l = true →
      counts = (List.range (body.length / 2)).map (fun i => (leAt body (2 * i) 2 % 256, leAt body (2 * i) 2 / 256 % 2 == 1)) →
      exec (.frame l src dst hdr body true) s = .next
        (State.sendStatus { u with cas := { u.cas with held := some (leAt hdr 0 4, leAt hdr 4 4, counts), ack := leAt hdr 0 4 } })) ∧
    -- STATUS
    (∀ x v, u = arrived s l ⟨3, src, dst, hdr, body, true⟩ → u.toHead l = true → 1 ≤ src → src < 8 →
      x = { seen := u.tm.now, tableId := leAt hdr 0 4, ack := leAt hdr 4 4, word := leAt body 0 4 : Member } →
      v = ((u.noteMember src x (body.drop 4)).noteRefusal src x.word).noteAck src x →
      exec (.status l src dst hdr body true) s = .next
        (if bit x.word 15 && !u.memberBit src 15 then v.raiseLink 6 0 0 0 src else v).readyCheck) ∧
    -- POINTS
    (u = arrived s l ⟨4, src, dst, hdr, body, true⟩ → exec (.points l src dst hdr body true) s = .next
      (if u.toHead l then u.packColumn (body.take 32) (bodyRecords body) else u)) ∧
    -- READ_REQ for this member
    (∀ c, u = arrived s l ⟨5, src, dst, hdr, body, true⟩ → u.fromHead l = true → dst = u.index →
      (firstBad (spanChecks (leAt hdr 0 4) (leAt hdr 4 4) 20 ++ u.readChecks (leAt hdr 0 4) (leAt hdr 4 4)) = none →
        exec (.readReq l src dst hdr body true) s = .next ((u.winRead (leAt hdr 0 4) (leAt hdr 4 4)).2.sendMsg 0
          ⟨6, (u.winRead (leAt hdr 0 4) (leAt hdr 4 4)).2.index, 0, leBytes 2 stOk ++ leBytes 2 0 ++ zeros 4, (u.winRead (leAt hdr 0 4) (leAt hdr 4 4)).1, true⟩)) ∧
      (firstBad (spanChecks (leAt hdr 0 4) (leAt hdr 4 4) 20 ++ u.readChecks (leAt hdr 0 4) (leAt hdr 4 4)) = some c →
        exec (.readReq l src dst hdr body true) s = .next
          (u.sendMsg 0 ⟨6, u.index, 0, leBytes 2 c.status ++ leBytes 2 c.detail ++ zeros 4, [], true⟩))) ∧
    -- READ_RSP
    (∀ q rest v, u = arrived s l ⟨6, src, dst, hdr, body, true⟩ → u.toHead l = true → takeRead src u.cas.reads = some (q, rest) →
      v = { u with cas := { u.cas with reads := rest } } → exec (.readRsp l src dst hdr body true) s = .next
        (if leAt hdr 0 2 = stOk then v.replyOk q 0x0203 body else v.reply q 0x0203 (leAt hdr 0 2) (leAt hdr 2 2))) ∧
    -- HCAL
    (∀ ts v till, u = arrived s l ⟨7, src, dst, hdr, body, true⟩ → u.fromHead l = true → ts = (List.range 32).map (fun k => leAt body (8 * k) 8) →
      v = u.setF HNG_LAT HNG_LAT_LAT (leAt hdr 0 2) → till = v.tm.now + (diff48 (ts.getLastD 0) (u.casTime u.tbs)).toNat + 50 * tickUs →
      exec (.hcal l src dst hdr body true) s = .next
        { v with cas := { v.cas with hcalTimes := ts, hcalSync := [], hcalTrig := [], hcalUntil := till } }) ∧
    -- a bad CRC
    (u = passedOn s l ⟨1, src, dst, hdr, body, false⟩ → exec (.warp l src dst hdr body false) s = .next (u.addSat (WFL_CNT_A l) WFL_CNT_A_CRC 1)) ∧
    (u = passedOn s l ⟨3, src, dst, hdr, body, false⟩ → exec (.status l src dst hdr body false) s = .next (u.addSat (WFL_CNT_A l) WFL_CNT_A_CRC 1)) ∧
    (u = passedOn s l ⟨2, src, dst, hdr, body, false⟩ → exec (.frame l src dst hdr body false) s = .next (u.addSat (WFL_CNT_A l) WFL_CNT_A_CRC 1)) ∧
    (u = passedOn s l ⟨4, src, dst, hdr, body, false⟩ → exec (.points l src dst hdr body false) s = .next (u.addSat (WFL_CNT_A l) WFL_CNT_A_CRC 1)) ∧
    (u = passedOn s l ⟨5, src, dst, hdr, body, false⟩ → exec (.readReq l src dst hdr body false) s = .next (u.addSat (WFL_CNT_A l) WFL_CNT_A_CRC 1)) ∧
    (u = passedOn s l ⟨6, src, dst, hdr, body, false⟩ → exec (.readRsp l src dst hdr body false) s = .next (u.addSat (WFL_CNT_A l) WFL_CNT_A_CRC 1)) ∧
    (u = passedOn s l ⟨7, src, dst, hdr, body, false⟩ → exec (.hcal l src dst hdr body false) s = .next (u.addSat (WFL_CNT_A l) WFL_CNT_A_CRC 1))

/-- R412, R413, R418, R419, R421, R429: the cascade's clocks. A member sends STATUS and its next time request; a member silent for 20 ms
becomes unreachable; a head's waits for acknowledgements and for a read end; TIME_REQ and TIME_RSP set the member's clock; a hinge
calibration starts, and ends with its compensation loaded or failed. The equal stamps of an answered TIME_REQ are the model's
reading (log 15). -/
def Obligations.CascadeTimesAndCalibration : Prop :=
  ∀ s u v w : State,
    -- STATUS_PERIODIC
    (s.isMember = true → s.linkActive 0 = true → exec .statusPeriodic s = .next (s.at_ (s.cas.statusAt + 10 * tickMs)).sendStatus) ∧
    -- MEMBER_UNREACHABLE
    (∀ m x, s.member m = some x → bit (s.f HNG_CAS_STAT HNG_CAS_STAT_REACH) m = true → u = s.at_ (x.seen + 20 * tickMs) →
      v = u.setF HNG_CAS_STAT HNG_CAS_STAT_REACH (s.f HNG_CAS_STAT HNG_CAS_STAT_REACH - 2 ^ m) →
      exec (.memberUnreachable m) s = .next (State.awaitCheck
        { v with cas := { v.cas with thr := Sp.del v.cas.thr m, headroom := Sp.del v.cas.headroom m } }).readyCheck) ∧
    -- FRAME_ACK_TIMEOUT: the members still waited for are LAG, and one EVT_LINK each
    (∀ t acks late, s.cas.await = some (t, acks) → u = s.at_ t → late = u.reachable.filter (fun m => !acks.contains m) →
      v = { u with cas := { u.cas with await := none } } →
      exec .frameAckTimeout s = .next (((v.setF HNG_CAS_STAT HNG_CAS_STAT_LAG (bitsOf late)).addSat HNG_CNT HNG_CNT_LATE 1).forEach late
        (fun s m => s.raiseLink 5 0 0 0 m))) ∧
    -- REMOTE_READ_TIMEOUT
    (∀ q m t rest, s.cas.reads = (q, m, t) :: rest → u = s.at_ t → exec .remoteReadTimeout s = .next
      (State.reply { u with cas := { s.cas with reads := rest } } q 0x0203 stBusy 0)) ∧
    -- TIME_REQ received and sent
    (∀ l t, s.linkActive l = true → s.rawTap l = false → l < 4 → t = leBytes 6 (s.casTime s.tbs) →
      exec (.timeReq true l) s = .next (s.sendBlock l (ctlBlock 0x71 (t ++ t)))) ∧
    (∀ l, s.isMember = true → s.linkActive 0 = true → u = s.at_ (s.cas.reqAt + tickMs) →
      v = { u with cas := { u.cas with reqAt := u.tm.now, t1 := some (u.tbs % 2 ^ 48) } } →
      exec (.timeReq false l) s = .next (v.sendBlock 0 (ctlBlock 0x70 (leBytes 6 (u.tbs % 2 ^ 48))))) ∧
    -- TIME_RSP: the offset from the four stamps
    (∀ t1 t2 t3 t4, s.cas.t1 = some t1 → s.isMember = true → s.linkActive 0 = true → u = s.at_ (s.tm.now + (t4 - s.tbs)) →
      exec (.timeRsp t2 t3 t4) s = .next (u.casUpdate t1 (diff48 t2 t1 - (diff48 t4 t1 - diff48 t3 t2).tdiv 2))) ∧
    -- HINGE_CALIBRATION_START: 32 pulses 10 µs apart, the first 100 µs ahead
    (∀ ts, s.isHead = true → s.cas.hcalDue = true → s.cas.hcalTimes = [] → (s.dev = .idle ∨ s.dev = .primed) →
      (∀ m ∈ s.expected, s.reachable.contains m = true ∧ s.memberBit m 8 = true) →
      ts = (List.range 32).map (fun k => (s.tbs + 100 * tickUs + k * 10 * tickUs) % 2 ^ 64) →
      u = { s with cas := { s.cas with hcalDue := false, hcalTimes := ts, hcalSync := [], hcalTrig := [], hcalUntil := s.tm.now + 460 * tickUs } } →
      exec .hingeCalibrationStart s = .next
        (u.sendDown ⟨7, 0, 0, leBytes 2 (u.f HNG_LAT HNG_LAT_LAT) ++ zeros 6, ts.flatMap (leBytes 8), true⟩)) ∧
    -- HINGE_CALIBRATION_END: failed with too few stamps, too wide a spread or too little latency, else loaded
    (∀ sync trig, s.cas.hcalTimes ≠ [] → u = s.at_ s.cas.hcalUntil →
      sync = meanSpread (u.hcalDiffs u.cas.hcalSync (u.cas.hcalTimes.take 16)) →
      trig = meanSpread (u.hcalDiffs u.cas.hcalTrig (u.cas.hcalTimes.drop 16)) →
      v = { u with cas := { u.cas with hcalTimes := [], hcalSync := [], hcalTrig := [] } } →
      ((u.cas.hcalSync.length ≠ 16 ∨ u.cas.hcalTrig.length ≠ 16 ∨ 64 < sync.2 ∨ 64 < trig.2 ∨ (u.f HNG_LAT HNG_LAT_LAT : Int) - sync.1 < 1024) →
        w = (v.setF HNG_CAS_STAT HNG_CAS_STAT_HCAL_FAIL 1).addSat HNG_CNT2 HNG_CNT2_HCAL_FAILS 1 →
        exec .hingeCalibrationEnd s = .next (if w.isHead then w.raiseLink 6 0 0 0 0 else w)) ∧
      (u.cas.hcalSync.length = 16 → u.cas.hcalTrig.length = 16 → sync.2 ≤ 64 → trig.2 ≤ 64 → 1024 ≤ (u.f HNG_LAT HNG_LAT_LAT : Int) - sync.1 →
        0 ≤ sync.1 → sync.1 < 65536 → 0 ≤ trig.1 → trig.1 < 65536 →
        w = ((((v.openNat HNG_COMP).2.setF HNG_COMP HNG_COMP_SYNC_DLY sync.1.toNat).setF HNG_COMP HNG_COMP_TRIG_DLY trig.1.toNat).setF
          HNG_CAS_STAT HNG_CAS_STAT_HCAL_DONE 1).setF HNG_CAS_STAT HNG_CAS_STAT_HCAL_FAIL 0 →
        exec .hingeCalibrationEnd s = .next (if u.fb HNG_CAS_STAT HNG_CAS_STAT_HCAL_DONE then w.readyCheck else w.sendStatus.readyCheck)))

/-- R31, R262, R291, R292, R388, R419, R420: the edges of the hinge and of the pins. A stamped edge is captured; while a hinge calibration
runs it is one of its stamps, otherwise HG_SYNC is a frame-start event and HG_TRIG a recorder and a monitor trigger, each at its compensated
time. A GPIO edge sets the pin's level, is captured when it rises, and is a monitor trigger of the selected pin and polarity. -/
def Obligations.HingeAndPinEdges : Prop :=
  ∀ (s u v : State) (t : Nat),
    -- HG_SYNC_EDGE
    (u = (s.toTbs t).capture 2 t →
      (u.hcalPulses = true → exec (.hgSyncEdge t) s = .next { u with cas := { u.cas with hcalSync := u.cas.hcalSync ++ [t] } }) ∧
      (u.hcalPulses = false → exec (.hgSyncEdge t) s = .next
        (u.frameEvent 3 (t + u.f HNG_LAT HNG_LAT_LAT - u.f HNG_COMP HNG_COMP_SYNC_DLY)))) ∧
    -- HG_TRIG_EDGE
    (u = (s.toTbs t).capture 3 t →
      (u.hcalPulses = true → exec (.hgTrigEdge t) s = .next { u with cas := { u.cas with hcalTrig := u.cas.hcalTrig ++ [t] } }) ∧
      (u.hcalPulses = false → exec (.hgTrigEdge t) s = .next
        ((u.recTrigger 3 (t - u.f HNG_COMP HNG_COMP_TRIG_DLY)).madEvent 6 t))) ∧
    -- GPIO_EDGE: rising and falling
    (∀ pin, pin < 16 → bit s.pin.gpioIn pin = false → u = s.toTbs t →
      v = State.capture { u with pin := { u.pin with gpioIn := u.pin.gpioIn + 2 ^ pin } } (16 + pin) t →
      exec (.gpioEdge pin true t) s = .next
        (if v.f MAD_TRIG MAD_TRIG_GPIO = pin ∧ v.fb MAD_TRIG MAD_TRIG_GPIO_POL = false then v.madEvent 5 t else v)) ∧
    (∀ pin, pin < 16 → bit s.pin.gpioIn pin = true → u = s.toTbs t →
      v = { u with pin := { u.pin with gpioIn := u.pin.gpioIn - 2 ^ pin } } →
      exec (.gpioEdge pin false t) s = .next
        (if v.f MAD_TRIG MAD_TRIG_GPIO = pin ∧ v.fb MAD_TRIG MAD_TRIG_GPIO_POL = true then v.madEvent 5 t else v))

/-- R66 rows 1, 3 and 5, R304, R485, R486, R489, R490, R530: the supply and the reset pins. A valid VIN or the rise of PORST_N leaves OFF for
BOOT with its reset cause, the loss of VIN and a low of PORST_N power the device off, a low of RESET_N enters BOOT with cause 0x02 and its
rise lets boot go on; an overvoltage and a current limit only show; EXTEST latches HOST and takes the enables low. -/
def Obligations.SupplyAndResetPins : Prop :=
  ∀ s u v : State,
    -- VIN_VALID
    (∀ mv, 5700 < mv → u = { s with pin := { s.pin with vinMv := mv }, boot := { s.boot with vinOk := true } } →
      (s.boot.off = true → s.boot.thermalOff = false → s.pin.porstN = true → v = { u with thm := { u.thm with onAt := u.tm.now } } →
        exec (.vinValid mv) s = .next (v.enterBoot 0x01 1)) ∧
      ((s.boot.off = false ∨ s.boot.thermalOff = true ∨ s.pin.porstN = false) → exec (.vinValid mv) s = .next u)) ∧
    -- VIN_LOSS, VIN_OVERVOLTAGE, VAUX_CURRENT_LIMIT
    (u = { s with pin := { s.pin with vinMv := 0 }, boot := { s.boot with vinOk := false } } → exec .vinLoss s = .next u.powerOff) ∧
    (∀ mv, 40000 < mv → s.boot.vinOk = true → exec (.vinOvervoltage mv) s = .next { s with pin := { s.pin with vinMv := mv } }) ∧
    ((s.boot.off = false ∨ s.boot.thermalOff = true) → exec .vauxCurrentLimit s = .next (s.setF PMU_STAT PMU_STAT_AUX_OC 1)) ∧
    -- PORST_LOW and PORST_RISE
    (u = { s with pin := { s.pin with porstN := false } } → exec .porstLow s = .next u.powerOff) ∧
    (u = { s with pin := { s.pin with porstN := true } } →
      (s.boot.off = true → s.boot.thermalOff = false → s.boot.vinOk = true → v = { u with thm := { u.thm with onAt := u.tm.now } } →
        exec .porstRise s = .next (v.enterBoot 0x01 2)) ∧
      ((s.boot.off = false ∨ s.boot.thermalOff = true ∨ s.boot.vinOk = false) → exec .porstRise s = .next u)) ∧
    -- RESET_LOW and RESET_RISE
    (u = { s with pin := { s.pin with resetN := false } } →
      (s.boot.off = true → exec .resetLow s = .next u) ∧ (s.boot.off = false → exec .resetLow s = .next (u.enterBoot 0x02 3))) ∧
    (exec .resetRise s = .next { s with pin := { s.pin with resetN := true }, boot := { s.boot with inReset := false } }) ∧
    -- EXTEST_LOAD
    (s.boot.off = false → u = s.latch [14] → exec .extestLoad s = .next
      { u with pin := { u.pin with extest := true, ehs := false, els := false }, fir := { u.fir with pulses := [] } })

/-- R24, R66 row 12, R244, R304, R369, R488: the clocks. A PLL that loses lock clears its lock bit, sets its lost bit, is counted, and
latches CLOCK; losing PLL-T or PLL-H takes the delay lines' lock too, and PLL-C freezes the drives. Lock regained sets the bits again, and a
loss that lasts 1 ms in an operating state is a fault of cause 0x63. Which loss starts the 1 ms is the model's reading (log 21). -/
def Obligations.ClockEvents : Prop :=
  ∀ s u v : State, s.boot.off = false →
    -- PLL_LOCK_LOSS of PLL-T alone, PLL-H alone, PLL-C alone
    (s.fb CLK_STAT CLK_STAT_T_LOCK = true → s.fb CLK_STAT CLK_STAT_H_LOCK = true →
      u = (((s.setF CLK_STAT CLK_STAT_T_LOCK 0).setF CLK_STAT CLK_STAT_T_LOST 1).addSat CLK_CNT CLK_CNT_T_LOSS 1).dllLost →
      v = { u with boot := { u.boot with pllLostAt := some (u.boot.pllLostAt.getD u.tm.now) } } →
      exec (.pllLockLoss false true false false) s = .next (v.latch [6])) ∧
    (s.fb CLK_STAT CLK_STAT_T_LOCK = true → s.fb CLK_STAT CLK_STAT_H_LOCK = true →
      u = (((s.setF CLK_STAT CLK_STAT_H_LOCK 0).setF CLK_STAT CLK_STAT_H_LOST 1).addSat CLK_CNT CLK_CNT_T_LOSS 1).dllLost →
      v = { u with boot := { u.boot with pllLostAt := some (u.boot.pllLostAt.getD u.tm.now) } } →
      exec (.pllLockLoss false false true false) s = .next (v.latch [6])) ∧
    (s.fb CLK_STAT CLK_STAT_C_LOCK = true →
      u = ((s.sinksFreeze.setF CLK_STAT CLK_STAT_C_LOCK 0).setF CLK_STAT CLK_STAT_C_LOST 1).addSat CLK_CNT CLK_CNT_C_LOSS 1 →
      v = { u with boot := { u.boot with pllLostAt := some (u.boot.pllLostAt.getD u.tm.now) } } →
      exec (.pllLockLoss false false false true) s = .next (v.latch [6])) ∧
    -- PLL_LOCK_REGAIN of PLL-T, and of PLL-C, the last PLL that was lost
    (∀ t, s.boot.pllLostAt = some t → s.pllT = false → u = { s.setF CLK_STAT CLK_STAT_REF_OK 1 with pin := { s.pin with refclk := true } } →
      v = (u.setF CLK_STAT CLK_STAT_T_LOCK 1).setF TIM_STATUS TIM_STATUS_TBS_GAP 1 → (u.setF CLK_STAT CLK_STAT_T_LOCK 1).pllT = true →
      (u.setF CLK_STAT CLK_STAT_T_LOCK 1).coreOn = true → v.pllT = true → v.pllC = true →
      exec (.pllLockRegain true false false) s = .next { v with boot := { v.boot with pllLostAt := none } }) ∧
    (∀ t, s.boot.pllLostAt = some t → s.pllT = true → u = { s.setF CLK_STAT CLK_STAT_REF_OK 1 with pin := { s.pin with refclk := true } } →
      u.pllC = false → v = { u.setF CLK_STAT CLK_STAT_C_LOCK 1 with srv := { u.srv with sinks := [], frozen := false } } →
      v.pllT = true → v.pllC = true → exec (.pllLockRegain false false true) s = .next { v with boot := { v.boot with pllLostAt := none } }) ∧
    -- PLL_LOCK_TIMEOUT
    (∀ t, s.boot.pllLostAt = some t → (s.dev = .primed ∨ s.dev = .scanning ∨ s.dev = .hold ∨ s.dev = .thermalHold) →
      exec .pllLockTimeout s = .next ((s.at_ (t + tickMs)).enterFault 0x63))

/-- R369, R403, R478, R495, R496, R500, R502, R503: the stages of BOOT. Each row ends its own stage: FUSE, CLOCK, FLASH, the two slots,
FUSE_PROG, POWER, MBIST, LBIST and CONFIG, after which row 8 enters IDLE; 0xE0, 0xE1, 0xF0, 0xF1 and 0xF2 are its failures. SFDP_READ's
optional content is the model's choice (log 38). -/
def Obligations.BootStages : Prop :=
  ∀ s u v w : State,
    -- FUSE_READ
    (∀ hgId, s.atStage 1 = true → u = { s with boot := { s.boot with shadows := s.boot.fuses }, pin := { s.pin with hgId := hgId % 8 } } →
      v = (u.setF HNG_ID HNG_ID_INDEX hgId).setF PMU_FUSE PMU_FUSE_CRC_OK (b2n s.boot.fuses.crcGood) →
      w = (if s.f PMU_BOOT PMU_BOOT_RST_CAUSE = 1 ∨ s.f PMU_BOOT PMU_BOOT_RST_CAUSE = 2 then v.loadPd00 else v) →
      exec (.fuseRead hgId) s = .next (w.stage (if w.boot.fuses.crcGood then 2 else 0xE0))) ∧
    -- CLOCK_LOCK: no lock, and lock, which starts the time bases unless they run
    ((s.atStage 2 = true ∨ s.atStage 0xE1 = true) → exec (.clockLock false) s = .next (s.stage 0xE1)) ∧
    (∀ x, (s.atStage 2 = true ∨ s.atStage 0xE1 = true) →
      u = s.forEach [CLK_STAT_REF_OK, CLK_STAT_C_LOCK, CLK_STAT_H_LOCK, CLK_STAT_T_LOCK] (fun s f => s.setF CLK_STAT f 1) →
      x = (if u.tm.tblStarted then u.tm.tbl else 0, if u.tm.tbsStarted then u.tm.tbs else 0) →
      v = { u with tm := { u.tm with tbl := x.1, tblStarted := true, tbs := x.2, tbsStarted := true } } →
      w = { v with boot := { v.boot with pllLostAt := none }, pin := { v.pin with refclk := true } } →
      exec (.clockLock true) s = .next (w.stage (if u.atStage 2 then 3 else 2))) ∧
    -- SFDP_READ
    (∀ density, s.atStage 3 = true →
      u = { s with boot := { s.boot with flashSize := if density < 0x400000 then 0 else Nat.min density 0x2000000 } } →
      exec (.sfdpRead density none) s = .next (u.stage (4 + s.boot.nvNext % 2))) ∧
    -- SLOT_CHECK: a slot that passes is booted; the first that fails hands on to the second, and the second that fails is 0xF0
    (∀ readErr slot c, (s.atStage 4 = true ∨ s.atStage 5 = true) → slot = s.stageSlot → c = s.slotCode slot readErr →
      u = (s.noteCheck slot c).setF GLB_BOOT (errFld slot) c →
      (c = 1 → exec (.slotCheck readErr) s = .next (u.bootSlot slot (s.f GLB_BOOT (errFld (1 - slot)) != 0))) ∧
      (c ≠ 1 → s.f GLB_BOOT (errFld (1 - slot)) = 0 → exec (.slotCheck readErr) s = .next (u.stage (5 - slot))) ∧
      (c ≠ 1 → s.f GLB_BOOT (errFld (1 - slot)) ≠ 0 → exec (.slotCheck readErr) s = .next (u.bootFail 0xF0))) ∧
    -- FUSE_PROGRAMMING
    (s.atStage 6 = true → s.sectionBytes 0xF0 = none → exec .fuseProgramming s = .next (s.stage 7)) ∧
    (∀ d, s.atStage 6 = true → s.sectionBytes 0xF0 = some d →
      (s.pin.vinMv < 9000 → exec .fuseProgramming s = .next ((s.setF GLB_BOOT GLB_BOOT_FUSE_SKIP 1).stage 7)) ∧
      (9000 ≤ s.pin.vinMv → exec .fuseProgramming s = .next ((s.fuseProgram d).stage 7))) ∧
    -- BOOT_POWER
    (∀ l, s.atStage 7 = true →
      l = (List.range 20).filter (fun d => decide (2 ≤ d) && bit (leAt s.boot.image 24 4) d && !bit (fusedOff s.variant) d) →
      exec .bootPower s = .next ((s.forEach l State.domainUp).stage 8)) ∧
    -- MBIST and LBIST
    (s.atStage 8 = true → exec (.mbist false) s = .next (s.bootFail 0xF1) ∧
      (u = { s with mem := [], hge := { s.hge with ecc := [] }, evr := { s.evr with clearing := false } } →
        exec (.mbist true) s = .next (u.stage 9))) ∧
    (s.atStage 9 = true → exec (.lbist true) s = .next (s.stage 10) ∧ exec (.lbist false) s = .next (s.bootFail 0xF2)) ∧
    -- CONFIG_APPLY: the image's settings, the stale marks, the history, and row 8
    (s.atStage 10 = true → u = s.applyKeys.applyCascade.applyPtps.applyIdent.applyInit →
      v = u.forEach ((List.range 10).filter (fun d => decide (2 ≤ d) && u.domOn d)) State.markStale →
      w = (v.thrTimer v.thm.hot).historyCheck →
      exec .configApply s = .next ((w.stage 0x0F).goto .idle 0x10))

/-- R471, R476, R481: the thermal unit's clocks. A sensor's reading is kept with its time and sets Tj, the conditions and the levels; 250 ms
after the last change THR falls by 1 at or above THROTTLE and rises by 1 at 5 °C below it; the record at the head of the log's queue is
written, unless 16 went in the last second and it is a TRIP or FAULT. The moment the 250 ms begin is the model's reading (log 18). -/
def Obligations.ThermalAndLogClocks : Prop :=
  ∀ s u v : State,
    -- TEMP_SENSOR_READING
    (∀ i temp, i < 12 → (s.boot.off = false ∨ s.boot.thermalOff = true) → u = s.setF (THM_TS i) THM_TS_TEMP (ux 16 (satS 16 temp)) →
      v = { u with thm := { u.thm with sensorAt := Sp.ins u.thm.sensorAt i u.tm.now } } →
      exec (.tempSensorReading i temp) s = .next (v.setTj.noteConds s).thermalLevels) ∧
    -- THROTTLE_STEP
    (∀ thr, runsCommands s.dev = true → u = s.at_ (s.thm.thrAt + 250 * tickMs) → thr = u.f THM_STATE THM_STATE_THR → v = u.thrTimer u.thm.hot →
      (v.throttleLim ≤ v.tj → 0 < thr → exec .throttleStep s = .next (v.setThr (thr - 1))) ∧
      (v.tj ≤ v.throttleLim - 80 → thr < 8 → exec .throttleStep s = .next (v.setThr (thr + 1))) ∧
      (v.throttleLim - 80 < v.tj → v.tj < v.throttleLim → exec .throttleStep s = .next v)) ∧
    -- NVLOG_WRITE
    (∀ body rest recent, (s.boot.off = false ∨ s.boot.thermalOff = true) → s.thm.queue = body :: rest →
      recent = s.thm.writes.filter (fun t => decide (s.tm.now < t + tickS)) →
      u = { s with thm := { s.thm with queue := rest, writes := recent } } →
      ((recent.length < 16 ∨ leAt body 0 1 ≠ nvTrip ∧ leAt body 0 1 ≠ nvFault) → exec .nvlogWrite s = .next (u.nvStore body).nvSync) ∧
      (16 ≤ recent.length → (leAt body 0 1 = nvTrip ∨ leAt body 0 1 = nvFault) →
        exec .nvlogWrite s = .next (u.addSat THM_NVLOG THM_NVLOG_SUPPR 1).nvSync))

/-- A step takes the command at the front of the queue and runs it with the queue's rest: the queue is first in, first out. With no command
waiting, one cycle of PLL-C, 128 ticks of the base time, passes, and in OFF nothing changes: that an empty queue lets time pass is the
model's choice (log 4). -/
def Obligations.StepRunsTheFrontCommand : Prop :=
  (∀ (s : State) (c : Instr) (rest : List Instr), step { s with pending := c :: rest } = exec c { s with pending := rest }) ∧
    ∀ s : State, s.pending = [] → (s.boot.off = true → step s = .next s) ∧ (s.boot.off = false → step s = .next (s.advance 128))

/-- R38 steps 5 to 7, R51, R54, R55: the host requests that do not run. In OFF and BOOT a request does nothing. Elsewhere it leaves the
command queue, and an opcode that the variant does not have is answered with BAD_OPCODE, one that the state does not allow with
REFUSED_STATE, and a payload where there is none with BAD_LENGTH, DETAIL 8; nothing else changes. -/
def Obligations.RequestsThatDoNotRun : Prop :=
  ∀ (s t : State) (q : Req) (p : List Byte) (failed : Nat) (c : Instr) (opc : Nat),
    (c, opc) ∈ bareRequests q p failed ++ otherRequests q p →
      (runsCommands s.dev = false → exec c s = .next s) ∧
      (runsCommands s.dev = true → s.dequeue q opc p = t → t.knownOpcode opc = false →
        exec c s = .next (t.answer q opc 4 0 [] q.auth)) ∧
      (runsCommands s.dev = true → s.dequeue q opc p = t → t.knownOpcode opc = true → allowedIn opc t.dev = false →
        exec c s = .next (t.answer q opc 3 0 [] q.auth)) ∧
      ((c, opc) ∈ bareRequests q p failed → runs s q opc p t → p ≠ [] → exec c s = .next (t.answer q opc 5 8 [] q.auth))

/-- Reset: the device is in BOOT by row 3 of R66 with cause 0x01 and its first stage, every register holds its card's reset value, every
byte of the windows reads 0, no command waits, and the sensor is dark. The windows' zeros are the model's choice (log 5). -/
def Obligations.ResetState : Prop :=
  State.reset.dev = .boot ∧ State.reset.rd GLB_STATE = 0x00010001 ∧ State.reset.f GLB_BOOT GLB_BOOT_STAGE = 1 ∧ State.reset.pending = [] ∧
    dark State.reset = true ∧ canonical State.reset = true ∧ (∀ a, State.reset.rd a = resetWord a) ∧ (∀ a, State.reset.byte a = 0)

/-- Every step keeps the canonical form of the register file and of the memory windows, so that equal contents are equal data. -/
def Obligations.StepKeepsCanonicalForm : Prop :=
  ∀ s t : State, canonical s = true → step s = .next t → canonical t = true

/-- Every command, in every state and with every operand, answers a next state: none ends in a fault or a refusal, none touches the queue
of waiting commands, and none takes the device time back. -/
def Obligations.EveryCommandCompletes : Prop :=
  ∀ (c : Instr) (s : State), ∃ t, exec c s = .next t ∧ t.pending = s.pending ∧ s.tm.now ≤ t.tm.now

/-- R14: what a whole-word write leaves in each field of a register by the field's access code. A field that is read-only, write-only or
half of a snapshot pair keeps what it held, a read/write field takes the written value, a bit of a W1C field clears where 1 is written, and
a bit of a W1S field sets where 1 is written. -/
def Obligations.AccessCodesOfAWrite : Prop :=
  ∀ (s : State) (a : Nat) (w : Word) (c : Card) (ix : List Nat) (f : Fld), cardAt a = some (c, ix) → f ∈ c.flds →
    (f.acc = .rw → f.get (written s a w) = f.get w) ∧
    (f.acc = .ro ∨ f.acc = .wo ∨ f.acc = .rs → f.get (written s a w) = f.get (s.rd a)) ∧
    (∀ i, f.acc = .w1c → bit (f.get (written s a w)) i = (bit (f.get (s.rd a)) i && !bit (f.get w) i)) ∧
    (∀ i, f.acc = .w1s → bit (f.get (written s a w)) i = (bit (f.get (s.rd a)) i || bit (f.get w) i))

/-- R72: reading registers changes no state but the snapshot latch of the path that reads, and reading a register that is neither half of a
snapshot pair, or one that is absent or whose domain is off, changes nothing; absent and dark registers read 0. -/
def Obligations.RegisterReadsChangeOnlyTheLatch : Prop :=
  ∀ (s : State) (p : Path) (a n : Nat),
    (∃ sh, (s.readWord p a).2 = s.setShadow p sh ∨ (s.readWord p a).2 = s) ∧
    (∃ x y z, (s.readWords p a n).2 = { s with cmd := { s.cmd with shHspi := x, shCmd := y, shDma := z } }) ∧
    (s.readWords p a n).1.length = n ∧
    (rsLow a = false → rsOf a = none → (s.readWord p a).2 = s) ∧
    (s.isReg a = false ∨ s.regOn a = false → s.readWord p a = (0, s))

/-- R65, R304, R306: a cause that latches while the Deadbolt is armed makes the sensor dark at once: every FIRE output idle and both switches
commanded open. -/
def Obligations.LatchWhileArmedMakesDark : Prop :=
  ∀ (s : State) (codes : List Nat) (c : Nat), s.esf.armed = true → c ∈ codes → s.latched c = false → dark (s.latch codes) = true

/-- R466: CAL_STATUS reads the last end of one procedure, with 0xFFFF where it has not run, and refuses a procedure outside 1 to 8 with
DETAIL 16 and a reserved byte that is not 0 with DETAIL 17. -/
def Obligations.CalibrationStatusReply : Prop :=
  ∀ (s t : State) (q : Req) (p : List Byte) (e : CalEnd), runs s q 0x0401 p t →
    (p.length = 4 → 1 ≤ fld p 16 1 → fld p 16 1 ≤ 8 → allZero (fldBytes p 17 3) = true → Sp.find t.cal.ends (fld p 16 1) = some e →
      exec (.calStatus q p) s = .next (t.answer q 0x0401 0 0 (leBytes 2 e.status ++ leBytes 2 e.detail ++ leBytes 4 e.runs
        ++ leBytes 8 e.tbl ++ leBytes 4 e.q0 ++ leBytes 4 e.q1) q.auth)) ∧
    (p.length = 4 → 1 ≤ fld p 16 1 → fld p 16 1 ≤ 8 → allZero (fldBytes p 17 3) = true → Sp.find t.cal.ends (fld p 16 1) = none →
      exec (.calStatus q p) s = .next (t.answer q 0x0401 0 0 ([0xFF, 0xFF] ++ List.replicate 22 0) q.auth)) ∧
    (p.length = 4 → (fld p 16 1 = 0 ∨ 8 < fld p 16 1) → exec (.calStatus q p) s = .next (t.answer q 0x0401 6 16 [] q.auth)) ∧
    (p.length = 4 → 1 ≤ fld p 16 1 → fld p 16 1 ≤ 8 → allZero (fldBytes p 17 3) = false →
      exec (.calStatus q p) s = .next (t.answer q 0x0401 6 17 [] q.auth)) ∧
    (p.length ≠ 4 → exec (.calStatus q p) s = .next (t.answer q 0x0401 5 8 [] q.auth))

/-- R475: the warning level. Entering it sets THM_STATE.WARN, adds 1 to THM_CNT.WARNS and raises EVT_THERMAL; leaving it, 5 °C lower, clears
WARN and raises EVT_THERMAL. -/
def Obligations.WarningLevel : Prop :=
  ∀ s t : State, canonical s = true →
    (s.fb THM_STATE THM_STATE_WARN = false → s.warnLim ≤ s.tj →
      s.warnLevel = ((s.setF THM_STATE THM_STATE_WARN 1).addSat THM_CNT THM_CNT_WARNS 1).raiseThermal 1 [] ∧
      (bit (s.f CMD_EVT_MASK CMD_EVT_MASK_ENABLE) evThermal = true → t = s.warnLevel →
        t.fb THM_STATE THM_STATE_WARN = true ∧ t.f THM_CNT THM_CNT_WARNS = Nat.min (s.f THM_CNT THM_CNT_WARNS + 1) 65535 ∧
        t.f CMD_EVT_SEQ CMD_EVT_SEQ_NEXT_SEQ = (s.f CMD_EVT_SEQ CMD_EVT_SEQ_NEXT_SEQ + 1) % 65536)) ∧
    (s.fb THM_STATE THM_STATE_WARN = true → s.tj ≤ s.warnLim - 80 →
      s.warnLevel = (s.setF THM_STATE THM_STATE_WARN 0).raiseThermal 2 [])

/-- R441: a TIMER, FRAME or TICK request that arrives while the channel's last burst is outstanding is not kept and adds 1 to
DMA_CH_CNT.MISS; one that arrives otherwise is kept, and MISS stays. -/
def Obligations.DmaRequestsMissed : Prop :=
  ∀ (s t u : State) (c req : Nat), canonical s = true → s.domOn 19 = true → c < 16 → s.dmaEn c = true →
    s.f (DMA_CH_CFG c) DMA_CH_CFG_REQ = req →
    (req = 4 ∨ req = 5 → (s.dch c).pend = true → ((s.dmaRequest req).dch c).pend = true ∧
      (s.dmaRequest req).f (DMA_CH_CNT c) DMA_CH_CNT_MISS = Nat.min (s.f (DMA_CH_CNT c) DMA_CH_CNT_MISS + 1) 65535) ∧
    (req = 4 ∨ req = 5 → (s.dch c).pend = false → ((s.dmaRequest req).dch c).pend = true ∧
      (s.dmaRequest req).f (DMA_CH_CNT c) DMA_CH_CNT_MISS = s.f (DMA_CH_CNT c) DMA_CH_CNT_MISS) ∧
    (req = 3 → t = s.at_ (s.dch c).timerAt → u = t.setDch c { t.dch c with timerAt := (s.dch c).timerAt + t.dmaPeriod c } →
      (t.dch c).pend = true → exec (.dmaTimerRequest c) s = .next (u.addSat (DMA_CH_CNT c) DMA_CH_CNT_MISS 1))
end

