-- ==== Sys2Proof/Laws/Bits.lean ====
section
/-! SUPPORT. Reading and writing bit fields: what a field holds after a write of it or of another, and what a masked register write makes
of the word it meets. -/

namespace Sys2Proof.Machine

theorem bits_lt (x lo w : Nat) : bits x lo w < 2 ^ w := Nat.mod_lt _ (Nat.two_pow_pos w)

/-- A number as the parts above, in and below a field. -/
theorem split_field (x lo w : Nat) : x = x / 2 ^ (lo + w) * 2 ^ (lo + w) + bits x lo w * 2 ^ lo + x % 2 ^ lo := by
  have h1 : x = x / 2 ^ lo * 2 ^ lo + x % 2 ^ lo := by rw [Nat.mul_comm]; exact (Nat.div_add_mod x _).symm
  have h2 : x / 2 ^ lo = x / 2 ^ (lo + w) * 2 ^ w + bits x lo w := by
    have e : x / 2 ^ (lo + w) = x / 2 ^ lo / 2 ^ w := by rw [Nat.pow_add, Nat.div_div_eq_div_mul]
    rw [e, Nat.mul_comm]; exact (Nat.div_add_mod (x / 2 ^ lo) _).symm
  calc x = x / 2 ^ lo * 2 ^ lo + x % 2 ^ lo := h1
    _ = (x / 2 ^ (lo + w) * 2 ^ w + bits x lo w) * 2 ^ lo + x % 2 ^ lo := by rw [← h2]
    _ = _ := by rw [Nat.add_mul, Nat.mul_assoc, Nat.pow_add, Nat.mul_comm (2 ^ w)]

theorem withBits_eq (x lo w v : Nat) : withBits x lo w v = x / 2 ^ (lo + w) * 2 ^ (lo + w) + v % 2 ^ w * 2 ^ lo + x % 2 ^ lo := by
  have h := split_field x lo w
  unfold withBits
  generalize bits x lo w * 2 ^ lo = m at *
  generalize x / 2 ^ (lo + w) * 2 ^ (lo + w) = h' at *
  omega

theorem bits_withBits (x lo w v : Nat) : bits (withBits x lo w v) lo w = v % 2 ^ w := by
  rw [withBits_eq]; unfold bits
  have hl : x % 2 ^ lo < 2 ^ lo := Nat.mod_lt _ (Nat.two_pow_pos lo)
  have e : x / 2 ^ (lo + w) * 2 ^ (lo + w) + v % 2 ^ w * 2 ^ lo + x % 2 ^ lo
      = x % 2 ^ lo + 2 ^ lo * (x / 2 ^ (lo + w) * 2 ^ w + v % 2 ^ w) := by rw [Nat.pow_add]; ring
  rw [e, Nat.add_mul_div_left _ _ (Nat.two_pow_pos lo), Nat.div_eq_of_lt hl, Nat.zero_add, Nat.mul_comm, Nat.mul_add_mod, Nat.mod_mod]

theorem withBits_lt {x lo w v : Nat} (hx : x < 2 ^ 32) (hf : lo + w ≤ 32) : withBits x lo w v < 2 ^ 32 := by
  rw [withBits_eq]
  have hl : x % 2 ^ lo < 2 ^ lo := Nat.mod_lt _ (Nat.two_pow_pos lo)
  have hv : v % 2 ^ w < 2 ^ w := Nat.mod_lt _ (Nat.two_pow_pos w)
  have hmid : v % 2 ^ w * 2 ^ lo + x % 2 ^ lo < 2 ^ (lo + w) := by
    have : (v % 2 ^ w + 1) * 2 ^ lo ≤ 2 ^ w * 2 ^ lo := Nat.mul_le_mul_right _ hv
    rw [Nat.pow_add, Nat.mul_comm (2 ^ lo)]; nlinarith
  have hq : x / 2 ^ (lo + w) < 2 ^ (32 - (lo + w)) := by
    rw [Nat.div_lt_iff_lt_mul (Nat.two_pow_pos _), ← Nat.pow_add]; rwa [Nat.sub_add_cancel hf]
  have : (x / 2 ^ (lo + w) + 1) * 2 ^ (lo + w) ≤ 2 ^ (32 - (lo + w)) * 2 ^ (lo + w) := Nat.mul_le_mul_right _ hq
  rw [← Nat.pow_add, Nat.sub_add_cancel hf] at this
  nlinarith

theorem Fld.get_set (f : Fld) (w : Word) (v : Nat) (hf : f.lo + f.w ≤ 32) : f.get (f.set w v) = v % 2 ^ f.w := by
  unfold Fld.get Fld.set
  rw [BitVec.toNat_ofNat, Nat.mod_eq_of_lt (withBits_lt w.isLt hf), bits_withBits]

/-- Two fields are disjoint. -/
theorem bits_withBits_of_disjoint {x lo w lo' w' v : Nat} (h : lo + w ≤ lo' ∨ lo' + w' ≤ lo) :
    bits (withBits x lo w v) lo' w' = bits x lo' w' := by
  have hl : x % 2 ^ lo < 2 ^ lo := Nat.mod_lt _ (Nat.two_pow_pos lo)
  have hv : v % 2 ^ w < 2 ^ w := Nat.mod_lt _ (Nat.two_pow_pos w)
  rcases h with h | h
  · -- the other field lies above
    obtain ⟨k, rfl⟩ := Nat.exists_eq_add_of_le h
    have hmid : v % 2 ^ w * 2 ^ lo + x % 2 ^ lo < 2 ^ (lo + w) := by
      have : (v % 2 ^ w + 1) * 2 ^ lo ≤ 2 ^ w * 2 ^ lo := Nat.mul_le_mul_right _ hv
      rw [Nat.pow_add, Nat.mul_comm (2 ^ lo)]; nlinarith
    have key : withBits x lo w v / 2 ^ (lo + w) = x / 2 ^ (lo + w) := by
      rw [withBits_eq, Nat.add_assoc, Nat.add_comm, Nat.mul_comm (x / 2 ^ (lo + w)), Nat.add_mul_div_left _ _ (Nat.two_pow_pos _),
        Nat.div_eq_of_lt hmid, Nat.zero_add]
    unfold bits
    rw [Nat.pow_add 2 (lo + w) k, ← Nat.div_div_eq_div_mul, ← Nat.div_div_eq_div_mul, key]
  · -- the other field lies below
    have key : withBits x lo w v % 2 ^ lo = x % 2 ^ lo := by
      rw [withBits_eq, Nat.pow_add]
      have e : x / (2 ^ lo * 2 ^ w) * (2 ^ lo * 2 ^ w) + v % 2 ^ w * 2 ^ lo + x % 2 ^ lo
        = 2 ^ lo * (x / (2 ^ lo * 2 ^ w) * 2 ^ w + v % 2 ^ w) + x % 2 ^ lo := by ring
      rw [e, Nat.mul_add_mod, Nat.mod_mod]
    have low : ∀ y, bits y lo' w' = y % 2 ^ lo / 2 ^ lo' % 2 ^ w' := by
      intro y
      unfold bits
      obtain ⟨k, rfl⟩ := Nat.exists_eq_add_of_le h
      rw [show lo' + w' + k = lo' + (w' + k) by omega, Nat.pow_add 2 lo' (w' + k), Nat.mod_mul_right_div_self, Nat.pow_add 2 w' k,
        Nat.mod_mul_right_mod]
    rw [low, low, key]

theorem Fld.get_set_of_disjoint {f g : Fld} (w : Word) (v : Nat) (hf : f.lo + f.w ≤ 32) (h : f.lo + f.w ≤ g.lo ∨ g.lo + g.w ≤ f.lo) :
    g.get (f.set w v) = g.get w := by
  unfold Fld.get Fld.set
  rw [BitVec.toNat_ofNat, Nat.mod_eq_of_lt (withBits_lt w.isLt hf), bits_withBits_of_disjoint h]

theorem mask_testBit (f : Fld) (i : Nat) : f.mask.testBit i = (decide (f.lo ≤ i) && decide (i < f.lo + f.w)) := by
  unfold Fld.mask
  rw [Nat.mul_comm, Nat.testBit_two_pow_mul, Nat.testBit_two_pow_sub_one]
  by_cases h : f.lo ≤ i
  · simp only [h, decide_true, Bool.true_and]
    congr 1
    apply propext
    omega
  · simp [h]

theorem withBits_testBit (x lo w v i : Nat) : (withBits x lo w v).testBit i =
    if lo ≤ i ∧ i < lo + w then v.testBit (i - lo) else x.testBit i := by
  have e1 : ∀ y, y.testBit i = (bits y i 1 == 1) := by
    intro y; unfold bits; rw [Nat.testBit_eq_decide_div_mod_eq]; simp [beq_eq_decide]
  split
  · rename_i h
    have e : bits (withBits x lo w v) lo w = v % 2 ^ w := bits_withBits x lo w v
    have : (withBits x lo w v).testBit i = (bits (withBits x lo w v) lo w).testBit (i - lo) := by
      unfold bits
      rw [Nat.testBit_mod_two_pow, Nat.testBit_div_two_pow]
      have : i - lo < w := by omega
      simp [this, Nat.sub_add_cancel h.1]
    rw [this, e, Nat.testBit_mod_two_pow]
    have : i - lo < w := by omega
    simp [this]
  · rename_i h
    rw [e1, e1, bits_withBits_of_disjoint]
    omega

theorem sub_and_testBit (x m i : Nat) : (x - (x &&& m)).testBit i = (x.testBit i && !m.testBit i) := by
  induction i generalizing x m with
  | zero =>
    have h1 : (x &&& m) ≤ x := Nat.and_le_left
    have h2 : (x &&& m).testBit 0 = (x.testBit 0 && m.testBit 0) := Nat.testBit_and x m 0
    have h3 : x / 2 &&& m / 2 = (x &&& m) / 2 := (Nat.and_div_two).symm
    have h4 : x / 2 &&& m / 2 ≤ x / 2 := Nat.and_le_left
    simp only [Nat.testBit_zero] at *
    generalize x &&& m = a at *
    by_cases hx : x % 2 = 1 <;> by_cases hm : m % 2 = 1 <;> simp_all <;> omega
  | succ i ih =>
    rw [Nat.testBit_succ, Nat.testBit_succ, Nat.testBit_succ, ← ih]
    congr 1
    have h1 : (x &&& m) ≤ x := Nat.and_le_left
    have h2 : (x &&& m).testBit 0 = (x.testBit 0 && m.testBit 0) := Nat.testBit_and x m 0
    have h3 : x / 2 &&& m / 2 = (x &&& m) / 2 := (Nat.and_div_two).symm
    rw [h3]
    simp only [Nat.testBit_zero] at *
    generalize x &&& m = a at *
    by_cases hx : x % 2 = 1 <;> by_cases hm : m % 2 = 1 <;> simp_all <;> omega

/-- A written field of an all-zero word, masked by its own mask, bit by bit. -/
theorem bits_testBit (x lo w i : Nat) : (bits x lo w).testBit i = (decide (i < w) && x.testBit (lo + i)) := by
  unfold bits; rw [Nat.testBit_mod_two_pow, Nat.testBit_div_two_pow, Nat.add_comm]

theorem Fld.mask_lt (f : Fld) (hf : f.lo + f.w ≤ 32) : f.mask < 2 ^ 32 := by
  have h : f.mask < 2 ^ (f.lo + f.w) := by
    apply Nat.lt_pow_two_of_testBit; intro i hi; rw [mask_testBit]; simp; omega
  exact Nat.lt_of_lt_of_le h (Nat.pow_le_pow_right (by decide) hf)

theorem Fld.set_toNat (f : Fld) (w : Word) (v : Nat) (hf : f.lo + f.w ≤ 32) : (f.set w v).toNat = withBits w.toNat f.lo f.w v := by
  unfold Fld.set; rw [BitVec.toNat_ofNat, Nat.mod_eq_of_lt (withBits_lt w.isLt hf)]

/-- A masked write of one field that the card gives as writable replaces exactly that field. -/
theorem Card.wrOf_new_rw {c : Card} {f : Fld} (ix : List Nat) (s : State) (a v : Nat) (hf : f.lo + f.w ≤ 32)
    (hm : c.mask (· == .rw) &&& f.mask = f.mask) (hc : c.mask (· == .w1c) &&& f.mask = 0) (hs : c.mask (· == .w1s) &&& f.mask = 0) :
    (c.wrOf ix s a (f.set 0 v) (BitVec.ofNat 32 f.mask)).new = f.set (s.rd a) v := by
  unfold Card.wrOf Card.merge Fld.set
  simp only [BitVec.toNat_ofNat, Nat.mod_eq_of_lt (f.mask_lt hf)]
  rw [Nat.mod_eq_of_lt (withBits_lt (by decide) hf)]
  congr 1
  apply Nat.eq_of_testBit_eq
  intro i
  have tm : ∀ i, (c.mask (· == .rw) &&& f.mask).testBit i = f.mask.testBit i := fun i => by rw [hm]
  have tc : ∀ i, (c.mask (· == .w1c) &&& f.mask).testBit i = false := fun i => by rw [hc]; exact Nat.zero_testBit i
  have ts : ∀ i, (c.mask (· == .w1s) &&& f.mask).testBit i = false := fun i => by rw [hs]; exact Nat.zero_testBit i
  have tm := tm i; have tc := tc i; have ts := ts i
  simp only [Nat.testBit_and, mask_testBit] at tm tc ts
  simp only [Nat.testBit_or, sub_and_testBit, Nat.testBit_and, mask_testBit, withBits_testBit]
  generalize (c.mask (· == .rw)).testBit i = A at *
  generalize (c.mask (· == .w1c)).testBit i = B at *
  generalize (c.mask (· == .w1s)).testBit i = C at *
  generalize hd1 : decide (f.lo ≤ i) = D1 at *
  generalize hd2 : decide (i < f.lo + f.w) = D2 at *
  have hp : (f.lo ≤ i ∧ i < f.lo + f.w) = (D1 = true ∧ D2 = true) := by rw [← hd1, ← hd2]; simp
  simp only [hp]
  clear hp hd1 hd2
  cases D1 <;> cases D2 <;> simp_all

/-- A masked write of one field that the card gives neither as writable nor as cleared or set by 1 leaves the word. -/
theorem Card.wrOf_new_wo {c : Card} {f : Fld} (ix : List Nat) (s : State) (a v : Nat) (hf : f.lo + f.w ≤ 32)
    (hm : c.mask (· == .rw) &&& f.mask = 0) (hc : c.mask (· == .w1c) &&& f.mask = 0) (hs : c.mask (· == .w1s) &&& f.mask = 0) :
    (c.wrOf ix s a (f.set 0 v) (BitVec.ofNat 32 f.mask)).new = s.rd a := by
  unfold Card.wrOf Card.merge
  simp only [BitVec.toNat_ofNat, Nat.mod_eq_of_lt (f.mask_lt hf), f.set_toNat _ _ hf]
  have z : ((0 : Word)).toNat = 0 := rfl
  rw [z]
  have e1 : ∀ y, c.mask (· == .w1s) &&& (withBits 0 f.lo f.w y &&& f.mask) = 0 := by
    intro y; rw [Nat.and_comm _ f.mask, ← Nat.and_assoc, hs, Nat.zero_and]
  have e2 : ∀ y, c.mask (· == .w1c) &&& (withBits 0 f.lo f.w y &&& f.mask) = 0 := by
    intro y; rw [Nat.and_comm _ f.mask, ← Nat.and_assoc, hc, Nat.zero_and]
  simp [e1, e2, hm]

/-- The bits of a field that a masked write of it writes as 1. -/
theorem Card.wrOf_ones (c : Card) {f : Fld} (ix : List Nat) (s : State) (a v : Nat) (hf : f.lo + f.w ≤ 32) :
    f.get (c.wrOf ix s a (f.set 0 v) (BitVec.ofNat 32 f.mask)).ones = v % 2 ^ f.w := by
  unfold Card.wrOf Fld.get
  simp only [BitVec.toNat_and, BitVec.toNat_ofNat, Nat.mod_eq_of_lt (f.mask_lt hf), f.set_toNat _ _ hf]
  have z : ((0 : Word)).toNat = 0 := rfl
  rw [z]
  apply Nat.eq_of_testBit_eq; intro i
  rw [bits_testBit, Nat.testBit_and, mask_testBit, withBits_testBit, Nat.testBit_mod_two_pow]
  by_cases h : i < f.w <;> simp [h]

/-- A masked write of one field writes no bit of another field as 1. -/
theorem Card.wrOf_ones_of_disjoint (c : Card) {f g : Fld} (ix : List Nat) (s : State) (a v : Nat) (hf : f.lo + f.w ≤ 32)
    (h : f.lo + f.w ≤ g.lo ∨ g.lo + g.w ≤ f.lo) :
    g.get (c.wrOf ix s a (f.set 0 v) (BitVec.ofNat 32 f.mask)).ones = 0 := by
  unfold Card.wrOf Fld.get
  simp only [BitVec.toNat_and, BitVec.toNat_ofNat, Nat.mod_eq_of_lt (f.mask_lt hf), f.set_toNat _ _ hf]
  apply Nat.eq_of_testBit_eq; intro i
  rw [bits_testBit, Nat.testBit_and, mask_testBit, Nat.zero_testBit]
  by_cases h1 : i < g.w <;> simp [h1]
  omega

/-- Writing a field's own value changes nothing. -/
theorem Fld.set_get (f : Fld) (w : Word) : f.set w (f.get w) = w := by
  unfold Fld.set Fld.get
  have e : withBits w.toNat f.lo f.w (bits w.toNat f.lo f.w) = w.toNat := by
    apply Nat.eq_of_testBit_eq; intro i
    rw [withBits_testBit, bits_testBit]
    split
    · rename_i h
      have h1 : i - f.lo < f.w := by omega
      have h2 : f.lo + (i - f.lo) = i := by omega
      simp only [h1, h2, decide_true, Bool.true_and]
    · rfl
  rw [e]; simp

/-- A whole-word write sets a field that the card gives as writable to what the word holds there. -/
theorem Card.wrOf_new_word {c : Card} {f : Fld} (ix : List Nat) (s : State) (a : Nat) (w : Word) (hf : f.lo + f.w ≤ 32)
    (hm : c.mask (· == .rw) &&& f.mask = f.mask) (hc : c.mask (· == .w1c) &&& f.mask = 0) (hs : c.mask (· == .w1s) &&& f.mask = 0) :
    f.get (c.wrOf ix s a w (BitVec.ofNat 32 0xFFFFFFFF)).new = f.get w := by
  unfold Card.wrOf Card.merge Fld.get
  have e : (BitVec.ofNat 32 0xFFFFFFFF).toNat = 2 ^ 32 - 1 := rfl
  simp only [BitVec.toNat_ofNat, e]
  apply Nat.eq_of_testBit_eq; intro i
  rw [bits_testBit, bits_testBit]
  by_cases h : i < f.w
  swap
  · simp [h]
  have tm : ∀ i, (c.mask (· == .rw) &&& f.mask).testBit i = f.mask.testBit i := fun i => by rw [hm]
  have tc : ∀ i, (c.mask (· == .w1c) &&& f.mask).testBit i = false := fun i => by rw [hc]; exact Nat.zero_testBit i
  have ts : ∀ i, (c.mask (· == .w1s) &&& f.mask).testBit i = false := fun i => by rw [hs]; exact Nat.zero_testBit i
  have tm := tm (f.lo + i); have tc := tc (f.lo + i); have ts := ts (f.lo + i)
  have h1 : f.lo + i < 32 := by omega
  have h2 : f.lo + i < f.lo + f.w := by omega
  simp only [Nat.testBit_and, mask_testBit, Nat.le_add_right, h2, decide_true, Bool.and_self, Bool.and_true] at tm tc ts
  simp only [Nat.testBit_mod_two_pow, Nat.testBit_or, sub_and_testBit, Nat.testBit_and, Nat.testBit_two_pow_sub_one, tm, tc, ts, h1]
  simp

end Sys2Proof.Machine
end

