-- ==== Sys2Proof/Laws/Table.lean ====
section
/-! SUPPORT. The laws of the sparse tables: reading after a write, and that every operation keeps the canonical form. -/

namespace Sys2Proof.Machine

variable {α : Type}

@[simp] theorem Sp.find_ins (m : List (Nat × α)) (k j : Nat) (v : α) :
    Sp.find (Sp.ins m k v) j = if j = k then some v else Sp.find m j := by
  induction m with
  | nil => simp [Sp.ins, Sp.find]
  | cons p t ih =>
    obtain ⟨a, x⟩ := p
    simp only [Sp.ins]
    split
    · simp [Sp.find]
    · split
      · subst_vars; simp only [Sp.find]; split <;> rfl
      · simp only [Sp.find, ih]
        split
        · rename_i h1 h2 h3; subst h3; split
          · rename_i h4; exact absurd h4.symm h2
          · rfl
        · rfl

/-- The keys of a canonical table lie above those before them. -/
theorem Sp.wf_tail [DecidableEq α] {d : Nat → α} {p : Nat × α} {t : List (Nat × α)} (h : Sp.wf d (p :: t) = true) :
    Sp.wf d t = true := by
  obtain ⟨a, v⟩ := p; simp only [Sp.wf, Bool.and_eq_true] at h; exact h.2

theorem Sp.wf_head [DecidableEq α] {d : Nat → α} {a : Nat} {v : α} {t : List (Nat × α)} (h : Sp.wf d ((a, v) :: t) = true) :
    v ≠ d a ∧ ∀ p ∈ t, a < p.1 := by
  simp only [Sp.wf, Bool.and_eq_true, decide_eq_true_eq, List.all_eq_true] at h
  exact h.1

theorem Sp.find_below {m : List (Nat × α)} {k : Nat} (h : ∀ p ∈ m, k < p.1) : Sp.find m k = none := by
  induction m with
  | nil => rfl
  | cons p t ih =>
    obtain ⟨a, x⟩ := p
    have ha : k < a := h (a, x) (List.mem_cons_self ..)
    simp only [Sp.find]
    rw [if_neg (by omega), ih (fun q hq => h q (List.mem_cons_of_mem _ hq))]

theorem Sp.find_del [DecidableEq α] {d : Nat → α} {m : List (Nat × α)} (h : Sp.wf d m = true) (k j : Nat) :
    Sp.find (Sp.del m k) j = if j = k then none else Sp.find m j := by
  induction m with
  | nil => simp [Sp.del, Sp.find]
  | cons p t ih =>
    obtain ⟨a, x⟩ := p
    have hh := Sp.wf_head h
    simp only [Sp.del]
    split
    · rename_i e; subst e
      split
      · rename_i e; subst e; exact Sp.find_below hh.2
      · rename_i e; simp [Sp.find, e]
    · rename_i e
      simp only [Sp.find, ih (Sp.wf_tail h)]
      split
      · rename_i e2; subst e2; rw [if_neg (fun q => e q.symm)]
      · rfl

theorem Sp.mem_ins {m : List (Nat × α)} {k : Nat} {v : α} {p : Nat × α} (h : p ∈ Sp.ins m k v) : p = (k, v) ∨ p ∈ m := by
  induction m with
  | nil => simpa [Sp.ins] using h
  | cons q t ih =>
    obtain ⟨a, x⟩ := q
    simp only [Sp.ins] at h
    split at h
    · simpa using h
    · split at h
      · rcases List.mem_cons.1 h with h | h
        · exact .inl h
        · exact .inr (List.mem_cons_of_mem _ h)
      · rcases List.mem_cons.1 h with h | h
        · exact .inr (by rw [h]; exact List.mem_cons_self ..)
        · rcases ih h with h | h
          · exact .inl h
          · exact .inr (List.mem_cons_of_mem _ h)

theorem Sp.mem_del {m : List (Nat × α)} {k : Nat} {p : Nat × α} (h : p ∈ Sp.del m k) : p ∈ m := by
  induction m with
  | nil => simp [Sp.del] at h
  | cons q t ih =>
    obtain ⟨a, x⟩ := q
    simp only [Sp.del] at h
    split at h
    · exact List.mem_cons_of_mem _ h
    · rcases List.mem_cons.1 h with h | h
      · rw [h]; exact List.mem_cons_self ..
      · exact List.mem_cons_of_mem _ (ih h)

theorem Sp.wf_cons [DecidableEq α] {d : Nat → α} {a : Nat} {v : α} {t : List (Nat × α)} (hv : v ≠ d a) (hk : ∀ p ∈ t, a < p.1)
    (ht : Sp.wf d t = true) : Sp.wf d ((a, v) :: t) = true := by
  simp only [Sp.wf, Bool.and_eq_true, decide_eq_true_eq, List.all_eq_true]
  exact ⟨⟨hv, hk⟩, ht⟩

theorem Sp.ins_wf [DecidableEq α] {d : Nat → α} {m : List (Nat × α)} {k : Nat} {v : α} (h : Sp.wf d m = true) (hv : v ≠ d k) :
    Sp.wf d (Sp.ins m k v) = true := by
  induction m with
  | nil => exact Sp.wf_cons hv (by simp) rfl
  | cons p t ih =>
    obtain ⟨a, x⟩ := p
    have hh := Sp.wf_head h
    simp only [Sp.ins]
    split
    · rename_i hlt
      refine Sp.wf_cons hv (fun p hp => ?_) h
      rcases List.mem_cons.1 hp with e | e
      · rw [e]; exact hlt
      · exact Nat.lt_trans hlt (hh.2 p e)
    · split
      · rename_i e; subst e; exact Sp.wf_cons hv hh.2 (Sp.wf_tail h)
      · rename_i h1 h2
        refine Sp.wf_cons hh.1 (fun p hp => ?_) (ih (Sp.wf_tail h))
        rcases Sp.mem_ins hp with e | e
        · rw [e]; simp only; omega
        · exact hh.2 p e

theorem Sp.del_wf [DecidableEq α] {d : Nat → α} {m : List (Nat × α)} {k : Nat} (h : Sp.wf d m = true) : Sp.wf d (Sp.del m k) = true := by
  induction m with
  | nil => rfl
  | cons p t ih =>
    obtain ⟨a, x⟩ := p
    have hh := Sp.wf_head h
    simp only [Sp.del]
    split
    · exact Sp.wf_tail h
    · exact Sp.wf_cons hh.1 (fun p hp => hh.2 p (Sp.mem_del hp)) (ih (Sp.wf_tail h))

/-- A write keeps the canonical form. -/
theorem Sp.put_wf [DecidableEq α] {d : Nat → α} {m : List (Nat × α)} {k : Nat} {v : α} (h : Sp.wf d m = true) :
    Sp.wf d (Sp.put d m k v) = true := by
  simp only [Sp.put]
  split
  · exact Sp.del_wf h
  · rename_i hv; exact Sp.ins_wf h hv

/-- Dropping entries keeps the canonical form. -/
theorem Sp.drop_wf [DecidableEq α] {d : Nat → α} {m : List (Nat × α)} {p : Nat → Bool} (h : Sp.wf d m = true) :
    Sp.wf d (Sp.drop p m) = true := by
  induction m with
  | nil => rfl
  | cons q t ih =>
    obtain ⟨a, x⟩ := q
    have hh := Sp.wf_head h
    have it := ih (Sp.wf_tail h)
    simp only [Sp.drop, List.filter_cons] at it ⊢
    split
    · exact Sp.wf_cons hh.1 (fun r hr => hh.2 r (List.mem_filter.1 hr).1) it
    · exact it

/-- What a canonical table reads as after a write. -/
theorem Sp.get_put [DecidableEq α] {d : Nat → α} {m : List (Nat × α)} (h : Sp.wf d m = true) (k j : Nat) (v : α) :
    Sp.get d (Sp.put d m k v) j = if j = k then v else Sp.get d m j := by
  simp only [Sp.get, Sp.put]
  split
  · rename_i e
    rw [Sp.find_del h]
    split
    · rename_i q; subst q; simp [e]
    · rfl
  · rw [Sp.find_ins]; split <;> rfl

/-- A write that leaves the table as it is: the value that its key already reads as. -/
theorem Sp.get_eq_of_find {d : Nat → α} {m : List (Nat × α)} {k : Nat} {v : α} (h : Sp.find m k = some v) : Sp.get d m k = v := by
  simp [Sp.get, h]

end Sys2Proof.Machine
end

