-- ==== Sys2Proof/Laws/Keeps.lean ====
section
/-! SUPPORT. `Keeps s t`: what every operation of the model does for the state as a whole. The queue stays, the register file and the
memory windows keep their canonical form, and the device time does not go back. -/

namespace Sys2Proof.Machine

/-- From s to t the queue is unchanged, canonical tables stay canonical, and time does not run backwards. -/
structure Keeps (s t : State) : Prop where
  pending : t.pending = s.pending
  regs : Sp.wf resetWord s.regs = true → Sp.wf resetWord t.regs = true
  mem : Sp.wf memDefault s.mem = true → Sp.wf memDefault t.mem = true
  now : s.tm.now ≤ t.tm.now

/-- An outcome keeps a state when its next state does. -/
def KeepsOut (s : State) : Host.Outcome State Fault Refusal → Prop
  | .next t => Keeps s t
  | _ => True

theorem Keeps.rfl (s : State) : Keeps s s := ⟨.refl _, id, id, Nat.le_refl _⟩

theorem Keeps.trans {a b c : State} (h : Keeps a b) (k : Keeps b c) : Keeps a c :=
  ⟨k.pending.trans h.pending, k.regs ∘ h.regs, k.mem ∘ h.mem, Nat.le_trans h.now k.now⟩

theorem KeepsOut.next {s t : State} (h : Keeps s t) : KeepsOut s (.next t) := h

theorem KeepsOut.ite {s : State} {p : Prop} [Decidable p] {x y : Host.Outcome State Fault Refusal} (hx : KeepsOut s x)
    (hy : KeepsOut s y) : KeepsOut s (if p then x else y) := by split <;> assumption

theorem Keeps.ite {s x y : State} {p : Prop} [Decidable p] (hx : Keeps s x) (hy : Keeps s y) : Keeps s (if p then x else y) := by
  split <;> assumption

/-- An update that writes none of the four fields. -/
theorem Keeps.upd {s0 s : State} {a1 a2 a3 a4 a5 a6 a7 a8 a9 a10 a11 a12 a13 a14 a15 a16 a17 a18 a19 a20 a21 a22 a23
    a24} : Keeps s0 (.mk s.pending s.regs s.mem a1 s.tm a2 a3 a4 a5 a6 a7 a8 a9 a10 a11 a12 a13 a14 a15 a16 a17 a18 a19 a20 a21 a22 a23
      a24) ↔ Keeps s0 s :=
  ⟨fun h => ⟨h.pending, h.regs, h.mem, h.now⟩, fun h => ⟨h.pending, h.regs, h.mem, h.now⟩⟩

/-- An update of the time bases that leaves the device time as it is or moves it on. -/
theorem Keeps.updTm {s0 s : State} {t : TimeSt} (h : Keeps s0 s) (ht : s0.tm.now ≤ t.now) {a1 a2 a3 a4 a5 a6 a7 a8 a9 a10 a11 a12 a13 a14
    a15 a16 a17 a18 a19 a20 a21 a22 a23 a24} : Keeps s0 (.mk s.pending s.regs s.mem a1 t a2 a3 a4 a5 a6 a7 a8 a9 a10 a11 a12 a13 a14 a15
      a16 a17 a18 a19 a20 a21 a22 a23 a24) := ⟨h.pending, h.regs, h.mem, ht⟩

theorem Keeps.forEach {α : Type} {s0 s : State} {l : List α} {g : State → α → State} (h : Keeps s0 s)
    (hg : ∀ x a, Keeps s0 x → Keeps s0 (g x a)) : Keeps s0 (s.forEach l g) := by
  induction l generalizing s with
  | nil => exact h
  | cons a l ih => exact ih (hg s a h)

theorem Keeps.foldl {α : Type} {s0 s : State} {l : List α} {g : State → α → State} (h : Keeps s0 s)
    (hg : ∀ x a, Keeps s0 x → Keeps s0 (g x a)) : Keeps s0 (l.foldl g s) := by
  induction l generalizing s with
  | nil => exact h
  | cons a l ih => exact ih (hg s a h)

theorem Keeps.foldlPair {α β : Type} {s0 : State} {b : β × State} {l : List α} {g : β × State → α → β × State} (h : Keeps s0 b.2)
    (hg : ∀ x a, Keeps s0 x.2 → Keeps s0 (g x a).2) : Keeps s0 (l.foldl g b).2 := by
  induction l generalizing b with
  | nil => exact h
  | cons a l ih => exact ih (hg b a h)

/-- An update of the memory windows that keeps their form. -/
theorem Keeps.updMem {s0 s : State} (h : Keeps s0 s) {m : List Host.Cell} (hm : Sp.wf memDefault s.mem = true → Sp.wf memDefault m = true)
    {a1 a2 a3 a4 a5 a6 a7 a8 a9 a10 a11 a12 a13 a14 a15 a16 a17 a18 a19 a20 a21 a22 a23 a24} :
    Keeps s0 (.mk s.pending s.regs m a1 s.tm a2 a3 a4 a5 a6 a7 a8 a9 a10 a11 a12 a13 a14 a15 a16 a17 a18 a19 a20 a21 a22 a23 a24) :=
  h.trans ⟨.refl _, id, hm, Nat.le_refl _⟩

theorem State.wr_keeps {s0 s : State} {a : Nat} {w : Word} (h : Keeps s0 s) : Keeps s0 (s.wr a w) :=
  h.trans ⟨.refl _, fun k => Sp.put_wf k, id, Nat.le_refl _⟩

theorem State.resetRegs_keeps {s0 s : State} {d : Nat} (h : Keeps s0 s) : Keeps s0 (s.resetRegs d) :=
  h.trans ⟨.refl _, fun k => Sp.drop_wf (p := fun a => domainOf a == some d) k, id, Nat.le_refl _⟩

theorem State.setByte_keeps {s0 s : State} {a : Nat} {b : Byte} (h : Keeps s0 s) : Keeps s0 (s.setByte a b) :=
  h.trans ⟨.refl _, id, fun k => Sp.put_wf k, Nat.le_refl _⟩

theorem State.clearMem_keeps {s0 s : State} {lo hi : Nat} (h : Keeps s0 s) : Keeps s0 (s.clearMem lo hi) :=
  h.trans ⟨.refl _, id, fun k => Sp.drop_wf (p := fun a => decide (lo ≤ a) && decide (a < hi)) k, Nat.le_refl _⟩

theorem State.setBytes_keeps {s0 s : State} {a : Nat} {bs : List Byte} (h : Keeps s0 s) : Keeps s0 (s.setBytes a bs) := by
  induction bs generalizing s a with
  | nil => exact h
  | cons b bs ih => exact ih (State.setByte_keeps h)

end Sys2Proof.Machine
end

