-- ==== Sys2Proof/Laws/State.lean ====
section
/-! SUPPORT. The laws of the shared updates of State: which field each leaves alone, and what a register or a window byte reads as after a
write. -/

namespace Sys2Proof.Machine

/-! ### wr -/

@[simp] theorem State.wr_pending (s : State) (a : Nat) (w : Word) : (s.wr a w).pending = s.pending := rfl

@[simp] theorem State.wr_mem (s : State) (a : Nat) (w : Word) : (s.wr a w).mem = s.mem := rfl

@[simp] theorem State.wr_draws (s : State) (a : Nat) (w : Word) : (s.wr a w).draws = s.draws := rfl

@[simp] theorem State.wr_tm (s : State) (a : Nat) (w : Word) : (s.wr a w).tm = s.tm := rfl

@[simp] theorem State.wr_ptpA (s : State) (a : Nat) (w : Word) : (s.wr a w).ptpA = s.ptpA := rfl

@[simp] theorem State.wr_ptpB (s : State) (a : Nat) (w : Word) : (s.wr a w).ptpB = s.ptpB := rfl

@[simp] theorem State.wr_pin (s : State) (a : Nat) (w : Word) : (s.wr a w).pin = s.pin := rfl

@[simp] theorem State.wr_cmd (s : State) (a : Nat) (w : Word) : (s.wr a w).cmd = s.cmd := rfl

@[simp] theorem State.wr_boot (s : State) (a : Nat) (w : Word) : (s.wr a w).boot = s.boot := rfl

@[simp] theorem State.wr_esf (s : State) (a : Nat) (w : Word) : (s.wr a w).esf = s.esf := rfl

@[simp] theorem State.wr_zon (s : State) (a : Nat) (w : Word) : (s.wr a w).zon = s.zon := rfl

@[simp] theorem State.wr_ethA (s : State) (a : Nat) (w : Word) : (s.wr a w).ethA = s.ethA := rfl

@[simp] theorem State.wr_ethB (s : State) (a : Nat) (w : Word) : (s.wr a w).ethB = s.ethB := rfl

@[simp] theorem State.wr_pkt (s : State) (a : Nat) (w : Word) : (s.wr a w).pkt = s.pkt := rfl

@[simp] theorem State.wr_thm (s : State) (a : Nat) (w : Word) : (s.wr a w).thm = s.thm := rfl

@[simp] theorem State.wr_fir (s : State) (a : Nat) (w : Word) : (s.wr a w).fir = s.fir := rfl

@[simp] theorem State.wr_srv (s : State) (a : Nat) (w : Word) : (s.wr a w).srv = s.srv := rfl

@[simp] theorem State.wr_cal (s : State) (a : Nat) (w : Word) : (s.wr a w).cal = s.cal := rfl

@[simp] theorem State.wr_hge (s : State) (a : Nat) (w : Word) : (s.wr a w).hge = s.hge := rfl

@[simp] theorem State.wr_tdc (s : State) (a : Nat) (w : Word) : (s.wr a w).tdc = s.tdc := rfl

@[simp] theorem State.wr_tmb (s : State) (a : Nat) (w : Word) : (s.wr a w).tmb = s.tmb := rfl

@[simp] theorem State.wr_dma (s : State) (a : Nat) (w : Word) : (s.wr a w).dma = s.dma := rfl

@[simp] theorem State.wr_cas (s : State) (a : Nat) (w : Word) : (s.wr a w).cas = s.cas := rfl

@[simp] theorem State.wr_ext (s : State) (a : Nat) (w : Word) : (s.wr a w).ext = s.ext := rfl

@[simp] theorem State.wr_mad (s : State) (a : Nat) (w : Word) : (s.wr a w).mad = s.mad := rfl

@[simp] theorem State.wr_evr (s : State) (a : Nat) (w : Word) : (s.wr a w).evr = s.evr := rfl

@[simp] theorem State.wr_wfl (s : State) (a : Nat) (w : Word) : (s.wr a w).wfl = s.wfl := rfl

/-! ### setF -/

@[simp] theorem State.setF_pending (s : State) (a : Nat) (f : Fld) (v : Nat) : (s.setF a f v).pending = s.pending := rfl

@[simp] theorem State.setF_mem (s : State) (a : Nat) (f : Fld) (v : Nat) : (s.setF a f v).mem = s.mem := rfl

@[simp] theorem State.setF_draws (s : State) (a : Nat) (f : Fld) (v : Nat) : (s.setF a f v).draws = s.draws := rfl

@[simp] theorem State.setF_tm (s : State) (a : Nat) (f : Fld) (v : Nat) : (s.setF a f v).tm = s.tm := rfl

@[simp] theorem State.setF_ptpA (s : State) (a : Nat) (f : Fld) (v : Nat) : (s.setF a f v).ptpA = s.ptpA := rfl

@[simp] theorem State.setF_ptpB (s : State) (a : Nat) (f : Fld) (v : Nat) : (s.setF a f v).ptpB = s.ptpB := rfl

@[simp] theorem State.setF_pin (s : State) (a : Nat) (f : Fld) (v : Nat) : (s.setF a f v).pin = s.pin := rfl

@[simp] theorem State.setF_cmd (s : State) (a : Nat) (f : Fld) (v : Nat) : (s.setF a f v).cmd = s.cmd := rfl

@[simp] theorem State.setF_boot (s : State) (a : Nat) (f : Fld) (v : Nat) : (s.setF a f v).boot = s.boot := rfl

@[simp] theorem State.setF_esf (s : State) (a : Nat) (f : Fld) (v : Nat) : (s.setF a f v).esf = s.esf := rfl

@[simp] theorem State.setF_zon (s : State) (a : Nat) (f : Fld) (v : Nat) : (s.setF a f v).zon = s.zon := rfl

@[simp] theorem State.setF_ethA (s : State) (a : Nat) (f : Fld) (v : Nat) : (s.setF a f v).ethA = s.ethA := rfl

@[simp] theorem State.setF_ethB (s : State) (a : Nat) (f : Fld) (v : Nat) : (s.setF a f v).ethB = s.ethB := rfl

@[simp] theorem State.setF_pkt (s : State) (a : Nat) (f : Fld) (v : Nat) : (s.setF a f v).pkt = s.pkt := rfl

@[simp] theorem State.setF_thm (s : State) (a : Nat) (f : Fld) (v : Nat) : (s.setF a f v).thm = s.thm := rfl

@[simp] theorem State.setF_fir (s : State) (a : Nat) (f : Fld) (v : Nat) : (s.setF a f v).fir = s.fir := rfl

@[simp] theorem State.setF_srv (s : State) (a : Nat) (f : Fld) (v : Nat) : (s.setF a f v).srv = s.srv := rfl

@[simp] theorem State.setF_cal (s : State) (a : Nat) (f : Fld) (v : Nat) : (s.setF a f v).cal = s.cal := rfl

@[simp] theorem State.setF_hge (s : State) (a : Nat) (f : Fld) (v : Nat) : (s.setF a f v).hge = s.hge := rfl

@[simp] theorem State.setF_tdc (s : State) (a : Nat) (f : Fld) (v : Nat) : (s.setF a f v).tdc = s.tdc := rfl

@[simp] theorem State.setF_tmb (s : State) (a : Nat) (f : Fld) (v : Nat) : (s.setF a f v).tmb = s.tmb := rfl

@[simp] theorem State.setF_dma (s : State) (a : Nat) (f : Fld) (v : Nat) : (s.setF a f v).dma = s.dma := rfl

@[simp] theorem State.setF_cas (s : State) (a : Nat) (f : Fld) (v : Nat) : (s.setF a f v).cas = s.cas := rfl

@[simp] theorem State.setF_ext (s : State) (a : Nat) (f : Fld) (v : Nat) : (s.setF a f v).ext = s.ext := rfl

@[simp] theorem State.setF_mad (s : State) (a : Nat) (f : Fld) (v : Nat) : (s.setF a f v).mad = s.mad := rfl

@[simp] theorem State.setF_evr (s : State) (a : Nat) (f : Fld) (v : Nat) : (s.setF a f v).evr = s.evr := rfl

@[simp] theorem State.setF_wfl (s : State) (a : Nat) (f : Fld) (v : Nat) : (s.setF a f v).wfl = s.wfl := rfl

/-! ### addSat -/

@[simp] theorem State.addSat_pending (s : State) (a : Nat) (f : Fld) (n : Nat) : (s.addSat a f n).pending = s.pending := rfl

@[simp] theorem State.addSat_mem (s : State) (a : Nat) (f : Fld) (n : Nat) : (s.addSat a f n).mem = s.mem := rfl

@[simp] theorem State.addSat_draws (s : State) (a : Nat) (f : Fld) (n : Nat) : (s.addSat a f n).draws = s.draws := rfl

@[simp] theorem State.addSat_tm (s : State) (a : Nat) (f : Fld) (n : Nat) : (s.addSat a f n).tm = s.tm := rfl

@[simp] theorem State.addSat_ptpA (s : State) (a : Nat) (f : Fld) (n : Nat) : (s.addSat a f n).ptpA = s.ptpA := rfl

@[simp] theorem State.addSat_ptpB (s : State) (a : Nat) (f : Fld) (n : Nat) : (s.addSat a f n).ptpB = s.ptpB := rfl

@[simp] theorem State.addSat_pin (s : State) (a : Nat) (f : Fld) (n : Nat) : (s.addSat a f n).pin = s.pin := rfl

@[simp] theorem State.addSat_cmd (s : State) (a : Nat) (f : Fld) (n : Nat) : (s.addSat a f n).cmd = s.cmd := rfl

@[simp] theorem State.addSat_boot (s : State) (a : Nat) (f : Fld) (n : Nat) : (s.addSat a f n).boot = s.boot := rfl

@[simp] theorem State.addSat_esf (s : State) (a : Nat) (f : Fld) (n : Nat) : (s.addSat a f n).esf = s.esf := rfl

@[simp] theorem State.addSat_zon (s : State) (a : Nat) (f : Fld) (n : Nat) : (s.addSat a f n).zon = s.zon := rfl

@[simp] theorem State.addSat_ethA (s : State) (a : Nat) (f : Fld) (n : Nat) : (s.addSat a f n).ethA = s.ethA := rfl

@[simp] theorem State.addSat_ethB (s : State) (a : Nat) (f : Fld) (n : Nat) : (s.addSat a f n).ethB = s.ethB := rfl

@[simp] theorem State.addSat_pkt (s : State) (a : Nat) (f : Fld) (n : Nat) : (s.addSat a f n).pkt = s.pkt := rfl

@[simp] theorem State.addSat_thm (s : State) (a : Nat) (f : Fld) (n : Nat) : (s.addSat a f n).thm = s.thm := rfl

@[simp] theorem State.addSat_fir (s : State) (a : Nat) (f : Fld) (n : Nat) : (s.addSat a f n).fir = s.fir := rfl

@[simp] theorem State.addSat_srv (s : State) (a : Nat) (f : Fld) (n : Nat) : (s.addSat a f n).srv = s.srv := rfl

@[simp] theorem State.addSat_cal (s : State) (a : Nat) (f : Fld) (n : Nat) : (s.addSat a f n).cal = s.cal := rfl

@[simp] theorem State.addSat_hge (s : State) (a : Nat) (f : Fld) (n : Nat) : (s.addSat a f n).hge = s.hge := rfl

@[simp] theorem State.addSat_tdc (s : State) (a : Nat) (f : Fld) (n : Nat) : (s.addSat a f n).tdc = s.tdc := rfl

@[simp] theorem State.addSat_tmb (s : State) (a : Nat) (f : Fld) (n : Nat) : (s.addSat a f n).tmb = s.tmb := rfl

@[simp] theorem State.addSat_dma (s : State) (a : Nat) (f : Fld) (n : Nat) : (s.addSat a f n).dma = s.dma := rfl

@[simp] theorem State.addSat_cas (s : State) (a : Nat) (f : Fld) (n : Nat) : (s.addSat a f n).cas = s.cas := rfl

@[simp] theorem State.addSat_ext (s : State) (a : Nat) (f : Fld) (n : Nat) : (s.addSat a f n).ext = s.ext := rfl

@[simp] theorem State.addSat_mad (s : State) (a : Nat) (f : Fld) (n : Nat) : (s.addSat a f n).mad = s.mad := rfl

@[simp] theorem State.addSat_evr (s : State) (a : Nat) (f : Fld) (n : Nat) : (s.addSat a f n).evr = s.evr := rfl

@[simp] theorem State.addSat_wfl (s : State) (a : Nat) (f : Fld) (n : Nat) : (s.addSat a f n).wfl = s.wfl := rfl

/-! ### addWrap -/

@[simp] theorem State.addWrap_pending (s : State) (a : Nat) (f : Fld) (n : Nat) : (s.addWrap a f n).pending = s.pending := rfl

@[simp] theorem State.addWrap_mem (s : State) (a : Nat) (f : Fld) (n : Nat) : (s.addWrap a f n).mem = s.mem := rfl

@[simp] theorem State.addWrap_draws (s : State) (a : Nat) (f : Fld) (n : Nat) : (s.addWrap a f n).draws = s.draws := rfl

@[simp] theorem State.addWrap_tm (s : State) (a : Nat) (f : Fld) (n : Nat) : (s.addWrap a f n).tm = s.tm := rfl

@[simp] theorem State.addWrap_ptpA (s : State) (a : Nat) (f : Fld) (n : Nat) : (s.addWrap a f n).ptpA = s.ptpA := rfl

@[simp] theorem State.addWrap_ptpB (s : State) (a : Nat) (f : Fld) (n : Nat) : (s.addWrap a f n).ptpB = s.ptpB := rfl

@[simp] theorem State.addWrap_pin (s : State) (a : Nat) (f : Fld) (n : Nat) : (s.addWrap a f n).pin = s.pin := rfl

@[simp] theorem State.addWrap_cmd (s : State) (a : Nat) (f : Fld) (n : Nat) : (s.addWrap a f n).cmd = s.cmd := rfl

@[simp] theorem State.addWrap_boot (s : State) (a : Nat) (f : Fld) (n : Nat) : (s.addWrap a f n).boot = s.boot := rfl

@[simp] theorem State.addWrap_esf (s : State) (a : Nat) (f : Fld) (n : Nat) : (s.addWrap a f n).esf = s.esf := rfl

@[simp] theorem State.addWrap_zon (s : State) (a : Nat) (f : Fld) (n : Nat) : (s.addWrap a f n).zon = s.zon := rfl

@[simp] theorem State.addWrap_ethA (s : State) (a : Nat) (f : Fld) (n : Nat) : (s.addWrap a f n).ethA = s.ethA := rfl

@[simp] theorem State.addWrap_ethB (s : State) (a : Nat) (f : Fld) (n : Nat) : (s.addWrap a f n).ethB = s.ethB := rfl

@[simp] theorem State.addWrap_pkt (s : State) (a : Nat) (f : Fld) (n : Nat) : (s.addWrap a f n).pkt = s.pkt := rfl

@[simp] theorem State.addWrap_thm (s : State) (a : Nat) (f : Fld) (n : Nat) : (s.addWrap a f n).thm = s.thm := rfl

@[simp] theorem State.addWrap_fir (s : State) (a : Nat) (f : Fld) (n : Nat) : (s.addWrap a f n).fir = s.fir := rfl

@[simp] theorem State.addWrap_srv (s : State) (a : Nat) (f : Fld) (n : Nat) : (s.addWrap a f n).srv = s.srv := rfl

@[simp] theorem State.addWrap_cal (s : State) (a : Nat) (f : Fld) (n : Nat) : (s.addWrap a f n).cal = s.cal := rfl

@[simp] theorem State.addWrap_hge (s : State) (a : Nat) (f : Fld) (n : Nat) : (s.addWrap a f n).hge = s.hge := rfl

@[simp] theorem State.addWrap_tdc (s : State) (a : Nat) (f : Fld) (n : Nat) : (s.addWrap a f n).tdc = s.tdc := rfl

@[simp] theorem State.addWrap_tmb (s : State) (a : Nat) (f : Fld) (n : Nat) : (s.addWrap a f n).tmb = s.tmb := rfl

@[simp] theorem State.addWrap_dma (s : State) (a : Nat) (f : Fld) (n : Nat) : (s.addWrap a f n).dma = s.dma := rfl

@[simp] theorem State.addWrap_cas (s : State) (a : Nat) (f : Fld) (n : Nat) : (s.addWrap a f n).cas = s.cas := rfl

@[simp] theorem State.addWrap_ext (s : State) (a : Nat) (f : Fld) (n : Nat) : (s.addWrap a f n).ext = s.ext := rfl

@[simp] theorem State.addWrap_mad (s : State) (a : Nat) (f : Fld) (n : Nat) : (s.addWrap a f n).mad = s.mad := rfl

@[simp] theorem State.addWrap_evr (s : State) (a : Nat) (f : Fld) (n : Nat) : (s.addWrap a f n).evr = s.evr := rfl

@[simp] theorem State.addWrap_wfl (s : State) (a : Nat) (f : Fld) (n : Nat) : (s.addWrap a f n).wfl = s.wfl := rfl

/-! ### wr64 -/

@[simp] theorem State.wr64_pending (s : State) (lo hi v : Nat) : (s.wr64 lo hi v).pending = s.pending := rfl

@[simp] theorem State.wr64_mem (s : State) (lo hi v : Nat) : (s.wr64 lo hi v).mem = s.mem := rfl

@[simp] theorem State.wr64_draws (s : State) (lo hi v : Nat) : (s.wr64 lo hi v).draws = s.draws := rfl

@[simp] theorem State.wr64_tm (s : State) (lo hi v : Nat) : (s.wr64 lo hi v).tm = s.tm := rfl

@[simp] theorem State.wr64_ptpA (s : State) (lo hi v : Nat) : (s.wr64 lo hi v).ptpA = s.ptpA := rfl

@[simp] theorem State.wr64_ptpB (s : State) (lo hi v : Nat) : (s.wr64 lo hi v).ptpB = s.ptpB := rfl

@[simp] theorem State.wr64_pin (s : State) (lo hi v : Nat) : (s.wr64 lo hi v).pin = s.pin := rfl

@[simp] theorem State.wr64_cmd (s : State) (lo hi v : Nat) : (s.wr64 lo hi v).cmd = s.cmd := rfl

@[simp] theorem State.wr64_boot (s : State) (lo hi v : Nat) : (s.wr64 lo hi v).boot = s.boot := rfl

@[simp] theorem State.wr64_esf (s : State) (lo hi v : Nat) : (s.wr64 lo hi v).esf = s.esf := rfl

@[simp] theorem State.wr64_zon (s : State) (lo hi v : Nat) : (s.wr64 lo hi v).zon = s.zon := rfl

@[simp] theorem State.wr64_ethA (s : State) (lo hi v : Nat) : (s.wr64 lo hi v).ethA = s.ethA := rfl

@[simp] theorem State.wr64_ethB (s : State) (lo hi v : Nat) : (s.wr64 lo hi v).ethB = s.ethB := rfl

@[simp] theorem State.wr64_pkt (s : State) (lo hi v : Nat) : (s.wr64 lo hi v).pkt = s.pkt := rfl

@[simp] theorem State.wr64_thm (s : State) (lo hi v : Nat) : (s.wr64 lo hi v).thm = s.thm := rfl

@[simp] theorem State.wr64_fir (s : State) (lo hi v : Nat) : (s.wr64 lo hi v).fir = s.fir := rfl

@[simp] theorem State.wr64_srv (s : State) (lo hi v : Nat) : (s.wr64 lo hi v).srv = s.srv := rfl

@[simp] theorem State.wr64_cal (s : State) (lo hi v : Nat) : (s.wr64 lo hi v).cal = s.cal := rfl

@[simp] theorem State.wr64_hge (s : State) (lo hi v : Nat) : (s.wr64 lo hi v).hge = s.hge := rfl

@[simp] theorem State.wr64_tdc (s : State) (lo hi v : Nat) : (s.wr64 lo hi v).tdc = s.tdc := rfl

@[simp] theorem State.wr64_tmb (s : State) (lo hi v : Nat) : (s.wr64 lo hi v).tmb = s.tmb := rfl

@[simp] theorem State.wr64_dma (s : State) (lo hi v : Nat) : (s.wr64 lo hi v).dma = s.dma := rfl

@[simp] theorem State.wr64_cas (s : State) (lo hi v : Nat) : (s.wr64 lo hi v).cas = s.cas := rfl

@[simp] theorem State.wr64_ext (s : State) (lo hi v : Nat) : (s.wr64 lo hi v).ext = s.ext := rfl

@[simp] theorem State.wr64_mad (s : State) (lo hi v : Nat) : (s.wr64 lo hi v).mad = s.mad := rfl

@[simp] theorem State.wr64_evr (s : State) (lo hi v : Nat) : (s.wr64 lo hi v).evr = s.evr := rfl

@[simp] theorem State.wr64_wfl (s : State) (lo hi v : Nat) : (s.wr64 lo hi v).wfl = s.wfl := rfl

/-! ### setByte -/

@[simp] theorem State.setByte_pending (s : State) (a : Nat) (b : Byte) : (s.setByte a b).pending = s.pending := rfl

@[simp] theorem State.setByte_regs (s : State) (a : Nat) (b : Byte) : (s.setByte a b).regs = s.regs := rfl

@[simp] theorem State.setByte_draws (s : State) (a : Nat) (b : Byte) : (s.setByte a b).draws = s.draws := rfl

@[simp] theorem State.setByte_tm (s : State) (a : Nat) (b : Byte) : (s.setByte a b).tm = s.tm := rfl

@[simp] theorem State.setByte_ptpA (s : State) (a : Nat) (b : Byte) : (s.setByte a b).ptpA = s.ptpA := rfl

@[simp] theorem State.setByte_ptpB (s : State) (a : Nat) (b : Byte) : (s.setByte a b).ptpB = s.ptpB := rfl

@[simp] theorem State.setByte_pin (s : State) (a : Nat) (b : Byte) : (s.setByte a b).pin = s.pin := rfl

@[simp] theorem State.setByte_cmd (s : State) (a : Nat) (b : Byte) : (s.setByte a b).cmd = s.cmd := rfl

@[simp] theorem State.setByte_boot (s : State) (a : Nat) (b : Byte) : (s.setByte a b).boot = s.boot := rfl

@[simp] theorem State.setByte_esf (s : State) (a : Nat) (b : Byte) : (s.setByte a b).esf = s.esf := rfl

@[simp] theorem State.setByte_zon (s : State) (a : Nat) (b : Byte) : (s.setByte a b).zon = s.zon := rfl

@[simp] theorem State.setByte_ethA (s : State) (a : Nat) (b : Byte) : (s.setByte a b).ethA = s.ethA := rfl

@[simp] theorem State.setByte_ethB (s : State) (a : Nat) (b : Byte) : (s.setByte a b).ethB = s.ethB := rfl

@[simp] theorem State.setByte_pkt (s : State) (a : Nat) (b : Byte) : (s.setByte a b).pkt = s.pkt := rfl

@[simp] theorem State.setByte_thm (s : State) (a : Nat) (b : Byte) : (s.setByte a b).thm = s.thm := rfl

@[simp] theorem State.setByte_fir (s : State) (a : Nat) (b : Byte) : (s.setByte a b).fir = s.fir := rfl

@[simp] theorem State.setByte_srv (s : State) (a : Nat) (b : Byte) : (s.setByte a b).srv = s.srv := rfl

@[simp] theorem State.setByte_cal (s : State) (a : Nat) (b : Byte) : (s.setByte a b).cal = s.cal := rfl

@[simp] theorem State.setByte_hge (s : State) (a : Nat) (b : Byte) : (s.setByte a b).hge = s.hge := rfl

@[simp] theorem State.setByte_tdc (s : State) (a : Nat) (b : Byte) : (s.setByte a b).tdc = s.tdc := rfl

@[simp] theorem State.setByte_tmb (s : State) (a : Nat) (b : Byte) : (s.setByte a b).tmb = s.tmb := rfl

@[simp] theorem State.setByte_dma (s : State) (a : Nat) (b : Byte) : (s.setByte a b).dma = s.dma := rfl

@[simp] theorem State.setByte_cas (s : State) (a : Nat) (b : Byte) : (s.setByte a b).cas = s.cas := rfl

@[simp] theorem State.setByte_ext (s : State) (a : Nat) (b : Byte) : (s.setByte a b).ext = s.ext := rfl

@[simp] theorem State.setByte_mad (s : State) (a : Nat) (b : Byte) : (s.setByte a b).mad = s.mad := rfl

@[simp] theorem State.setByte_evr (s : State) (a : Nat) (b : Byte) : (s.setByte a b).evr = s.evr := rfl

@[simp] theorem State.setByte_wfl (s : State) (a : Nat) (b : Byte) : (s.setByte a b).wfl = s.wfl := rfl

/-! ### resetRegs -/

@[simp] theorem State.resetRegs_pending (s : State) (d : Nat) : (s.resetRegs d).pending = s.pending := rfl

@[simp] theorem State.resetRegs_mem (s : State) (d : Nat) : (s.resetRegs d).mem = s.mem := rfl

@[simp] theorem State.resetRegs_draws (s : State) (d : Nat) : (s.resetRegs d).draws = s.draws := rfl

@[simp] theorem State.resetRegs_tm (s : State) (d : Nat) : (s.resetRegs d).tm = s.tm := rfl

@[simp] theorem State.resetRegs_ptpA (s : State) (d : Nat) : (s.resetRegs d).ptpA = s.ptpA := rfl

@[simp] theorem State.resetRegs_ptpB (s : State) (d : Nat) : (s.resetRegs d).ptpB = s.ptpB := rfl

@[simp] theorem State.resetRegs_pin (s : State) (d : Nat) : (s.resetRegs d).pin = s.pin := rfl

@[simp] theorem State.resetRegs_cmd (s : State) (d : Nat) : (s.resetRegs d).cmd = s.cmd := rfl

@[simp] theorem State.resetRegs_boot (s : State) (d : Nat) : (s.resetRegs d).boot = s.boot := rfl

@[simp] theorem State.resetRegs_esf (s : State) (d : Nat) : (s.resetRegs d).esf = s.esf := rfl

@[simp] theorem State.resetRegs_zon (s : State) (d : Nat) : (s.resetRegs d).zon = s.zon := rfl

@[simp] theorem State.resetRegs_ethA (s : State) (d : Nat) : (s.resetRegs d).ethA = s.ethA := rfl

@[simp] theorem State.resetRegs_ethB (s : State) (d : Nat) : (s.resetRegs d).ethB = s.ethB := rfl

@[simp] theorem State.resetRegs_pkt (s : State) (d : Nat) : (s.resetRegs d).pkt = s.pkt := rfl

@[simp] theorem State.resetRegs_thm (s : State) (d : Nat) : (s.resetRegs d).thm = s.thm := rfl

@[simp] theorem State.resetRegs_fir (s : State) (d : Nat) : (s.resetRegs d).fir = s.fir := rfl

@[simp] theorem State.resetRegs_srv (s : State) (d : Nat) : (s.resetRegs d).srv = s.srv := rfl

@[simp] theorem State.resetRegs_cal (s : State) (d : Nat) : (s.resetRegs d).cal = s.cal := rfl

@[simp] theorem State.resetRegs_hge (s : State) (d : Nat) : (s.resetRegs d).hge = s.hge := rfl

@[simp] theorem State.resetRegs_tdc (s : State) (d : Nat) : (s.resetRegs d).tdc = s.tdc := rfl

@[simp] theorem State.resetRegs_tmb (s : State) (d : Nat) : (s.resetRegs d).tmb = s.tmb := rfl

@[simp] theorem State.resetRegs_dma (s : State) (d : Nat) : (s.resetRegs d).dma = s.dma := rfl

@[simp] theorem State.resetRegs_cas (s : State) (d : Nat) : (s.resetRegs d).cas = s.cas := rfl

@[simp] theorem State.resetRegs_ext (s : State) (d : Nat) : (s.resetRegs d).ext = s.ext := rfl

@[simp] theorem State.resetRegs_mad (s : State) (d : Nat) : (s.resetRegs d).mad = s.mad := rfl

@[simp] theorem State.resetRegs_evr (s : State) (d : Nat) : (s.resetRegs d).evr = s.evr := rfl

@[simp] theorem State.resetRegs_wfl (s : State) (d : Nat) : (s.resetRegs d).wfl = s.wfl := rfl

/-! ### clearMem -/

@[simp] theorem State.clearMem_pending (s : State) (lo hi : Nat) : (s.clearMem lo hi).pending = s.pending := rfl

@[simp] theorem State.clearMem_regs (s : State) (lo hi : Nat) : (s.clearMem lo hi).regs = s.regs := rfl

@[simp] theorem State.clearMem_draws (s : State) (lo hi : Nat) : (s.clearMem lo hi).draws = s.draws := rfl

@[simp] theorem State.clearMem_tm (s : State) (lo hi : Nat) : (s.clearMem lo hi).tm = s.tm := rfl

@[simp] theorem State.clearMem_ptpA (s : State) (lo hi : Nat) : (s.clearMem lo hi).ptpA = s.ptpA := rfl

@[simp] theorem State.clearMem_ptpB (s : State) (lo hi : Nat) : (s.clearMem lo hi).ptpB = s.ptpB := rfl

@[simp] theorem State.clearMem_pin (s : State) (lo hi : Nat) : (s.clearMem lo hi).pin = s.pin := rfl

@[simp] theorem State.clearMem_cmd (s : State) (lo hi : Nat) : (s.clearMem lo hi).cmd = s.cmd := rfl

@[simp] theorem State.clearMem_boot (s : State) (lo hi : Nat) : (s.clearMem lo hi).boot = s.boot := rfl

@[simp] theorem State.clearMem_esf (s : State) (lo hi : Nat) : (s.clearMem lo hi).esf = s.esf := rfl

@[simp] theorem State.clearMem_zon (s : State) (lo hi : Nat) : (s.clearMem lo hi).zon = s.zon := rfl

@[simp] theorem State.clearMem_ethA (s : State) (lo hi : Nat) : (s.clearMem lo hi).ethA = s.ethA := rfl

@[simp] theorem State.clearMem_ethB (s : State) (lo hi : Nat) : (s.clearMem lo hi).ethB = s.ethB := rfl

@[simp] theorem State.clearMem_pkt (s : State) (lo hi : Nat) : (s.clearMem lo hi).pkt = s.pkt := rfl

@[simp] theorem State.clearMem_thm (s : State) (lo hi : Nat) : (s.clearMem lo hi).thm = s.thm := rfl

@[simp] theorem State.clearMem_fir (s : State) (lo hi : Nat) : (s.clearMem lo hi).fir = s.fir := rfl

@[simp] theorem State.clearMem_srv (s : State) (lo hi : Nat) : (s.clearMem lo hi).srv = s.srv := rfl

@[simp] theorem State.clearMem_cal (s : State) (lo hi : Nat) : (s.clearMem lo hi).cal = s.cal := rfl

@[simp] theorem State.clearMem_hge (s : State) (lo hi : Nat) : (s.clearMem lo hi).hge = s.hge := rfl

@[simp] theorem State.clearMem_tdc (s : State) (lo hi : Nat) : (s.clearMem lo hi).tdc = s.tdc := rfl

@[simp] theorem State.clearMem_tmb (s : State) (lo hi : Nat) : (s.clearMem lo hi).tmb = s.tmb := rfl

@[simp] theorem State.clearMem_dma (s : State) (lo hi : Nat) : (s.clearMem lo hi).dma = s.dma := rfl

@[simp] theorem State.clearMem_cas (s : State) (lo hi : Nat) : (s.clearMem lo hi).cas = s.cas := rfl

@[simp] theorem State.clearMem_ext (s : State) (lo hi : Nat) : (s.clearMem lo hi).ext = s.ext := rfl

@[simp] theorem State.clearMem_mad (s : State) (lo hi : Nat) : (s.clearMem lo hi).mad = s.mad := rfl

@[simp] theorem State.clearMem_evr (s : State) (lo hi : Nat) : (s.clearMem lo hi).evr = s.evr := rfl

@[simp] theorem State.clearMem_wfl (s : State) (lo hi : Nat) : (s.clearMem lo hi).wfl = s.wfl := rfl

/-! ### drawn -/

@[simp] theorem State.drawn_pending (s : State) : (s.drawn).pending = s.pending := rfl

@[simp] theorem State.drawn_regs (s : State) : (s.drawn).regs = s.regs := rfl

@[simp] theorem State.drawn_mem (s : State) : (s.drawn).mem = s.mem := rfl

@[simp] theorem State.drawn_tm (s : State) : (s.drawn).tm = s.tm := rfl

@[simp] theorem State.drawn_ptpA (s : State) : (s.drawn).ptpA = s.ptpA := rfl

@[simp] theorem State.drawn_ptpB (s : State) : (s.drawn).ptpB = s.ptpB := rfl

@[simp] theorem State.drawn_pin (s : State) : (s.drawn).pin = s.pin := rfl

@[simp] theorem State.drawn_cmd (s : State) : (s.drawn).cmd = s.cmd := rfl

@[simp] theorem State.drawn_boot (s : State) : (s.drawn).boot = s.boot := rfl

@[simp] theorem State.drawn_esf (s : State) : (s.drawn).esf = s.esf := rfl

@[simp] theorem State.drawn_zon (s : State) : (s.drawn).zon = s.zon := rfl

@[simp] theorem State.drawn_ethA (s : State) : (s.drawn).ethA = s.ethA := rfl

@[simp] theorem State.drawn_ethB (s : State) : (s.drawn).ethB = s.ethB := rfl

@[simp] theorem State.drawn_pkt (s : State) : (s.drawn).pkt = s.pkt := rfl

@[simp] theorem State.drawn_thm (s : State) : (s.drawn).thm = s.thm := rfl

@[simp] theorem State.drawn_fir (s : State) : (s.drawn).fir = s.fir := rfl

@[simp] theorem State.drawn_srv (s : State) : (s.drawn).srv = s.srv := rfl

@[simp] theorem State.drawn_cal (s : State) : (s.drawn).cal = s.cal := rfl

@[simp] theorem State.drawn_hge (s : State) : (s.drawn).hge = s.hge := rfl

@[simp] theorem State.drawn_tdc (s : State) : (s.drawn).tdc = s.tdc := rfl

@[simp] theorem State.drawn_tmb (s : State) : (s.drawn).tmb = s.tmb := rfl

@[simp] theorem State.drawn_dma (s : State) : (s.drawn).dma = s.dma := rfl

@[simp] theorem State.drawn_cas (s : State) : (s.drawn).cas = s.cas := rfl

@[simp] theorem State.drawn_ext (s : State) : (s.drawn).ext = s.ext := rfl

@[simp] theorem State.drawn_mad (s : State) : (s.drawn).mad = s.mad := rfl

@[simp] theorem State.drawn_evr (s : State) : (s.drawn).evr = s.evr := rfl

@[simp] theorem State.drawn_wfl (s : State) : (s.drawn).wfl = s.wfl := rfl

/-! ### Reading after a write -/

/-- Writing what a key reads as leaves a canonical table as it is. -/
theorem Sp.put_get {α : Type} [DecidableEq α] {d : Nat → α} {m : List (Nat × α)} (h : Sp.wf d m = true) (k : Nat) :
    Sp.put d m k (Sp.get d m k) = m := by
  induction m with
  | nil => simp [Sp.put, Sp.get, Sp.find, Sp.del]
  | cons p t ih =>
    obtain ⟨a, x⟩ := p
    have hh := Sp.wf_head h
    have it := ih (Sp.wf_tail h)
    by_cases e : k = a
    · subst e
      simp only [Sp.get, Sp.find, if_true, Option.getD_some, Sp.put, if_neg hh.1, Sp.ins, Nat.lt_irrefl, if_false]
    · have g : Sp.get d ((a, x) :: t) k = Sp.get d t k := by simp only [Sp.get, Sp.find, if_neg e]
      rw [g]
      by_cases v : Sp.get d t k = d k
      · simp only [Sp.put, v, if_true, Sp.del, if_neg e] at it ⊢
        rw [it]
      · have hk : ¬ k < a := by
          intro hlt
          apply v
          have : Sp.find t k = none := Sp.find_below (fun p hp => Nat.lt_trans hlt (hh.2 p hp))
          simp [Sp.get, this]
        simp only [Sp.put, if_neg v, Sp.ins, if_neg hk, if_neg e] at it ⊢
        rw [it]

/-- The two parts of the canonical form. -/
theorem canonical_iff {s : State} : canonical s = true ↔ Sp.wf resetWord s.regs = true ∧ Sp.wf memDefault s.mem = true := by
  simp [canonical, Memory.wf]

/-- What an operation keeps includes the canonical form. -/
theorem Keeps.canonical {s t : State} (k : Keeps s t) (h : Sys2Proof.canonical s = true) : Sys2Proof.canonical t = true :=
  canonical_iff.2 ⟨k.regs (canonical_iff.1 h).1, k.mem (canonical_iff.1 h).2⟩

theorem State.rd_wr {s : State} (h : Sp.wf resetWord s.regs = true) (a b : Nat) (w : Word) :
    (s.wr a w).rd b = if b = a then w else s.rd b := Sp.get_put h a b w

theorem State.wr_regs_wf {s : State} (h : Sp.wf resetWord s.regs = true) (a : Nat) (w : Word) :
    Sp.wf resetWord (s.wr a w).regs = true := Sp.put_wf h

/-- Writing the word a register holds changes nothing. -/
theorem State.wr_rd {s : State} (h : canonical s = true) (a : Nat) : s.wr a (s.rd a) = s := by
  have e : Sp.put resetWord s.regs a (s.rd a) = s.regs := Sp.put_get (canonical_iff.1 h).1 a
  unfold State.wr; rw [e]

/-- A field after a write of it. -/
theorem State.f_setF_self {s : State} (h : Sp.wf resetWord s.regs = true) (a : Nat) (g : Fld) (v : Nat) (hg : g.lo + g.w ≤ 32) :
    (s.setF a g v).f a g = v % 2 ^ g.w := by
  unfold State.f State.setF; rw [State.rd_wr h, if_pos rfl, Fld.get_set g _ _ hg]

/-- A field after a write of a disjoint field of its register. -/
theorem State.f_setF_disjoint {s : State} (h : Sp.wf resetWord s.regs = true) (a : Nat) {g k : Fld} (v : Nat) (hg : g.lo + g.w ≤ 32)
    (hd : g.lo + g.w ≤ k.lo ∨ k.lo + k.w ≤ g.lo) : (s.setF a g v).f a k = s.f a k := by
  unfold State.f State.setF; rw [State.rd_wr h, if_pos rfl, Fld.get_set_of_disjoint _ _ hg hd]

/-- A register after a write of a field of another. -/
theorem State.rd_setF_ne {s : State} (h : Sp.wf resetWord s.regs = true) {a b : Nat} (g : Fld) (v : Nat) (hb : b ≠ a) :
    (s.setF a g v).rd b = s.rd b := by unfold State.setF; rw [State.rd_wr h, if_neg hb]

theorem State.byte_setByte {s : State} (h : Sp.wf memDefault s.mem = true) (a c : Nat) (b : Byte) :
    (s.setByte a b).byte c = if c = a then b else s.byte c := Sp.get_put h a c b

/-- A byte outside the written range after a write of bytes. -/
theorem State.byte_setBytes_out {s : State} (h : Sp.wf memDefault s.mem = true) (bs : List Byte) (a c : Nat)
    (hc : c < a ∨ a + bs.length ≤ c) : (s.setBytes a bs).byte c = s.byte c := by
  induction bs generalizing s a with
  | nil => rfl
  | cons b bs ih =>
    simp only [List.length_cons] at hc
    have h2 : Sp.wf memDefault (s.setByte a b).mem = true := Sp.put_wf h
    rw [State.setBytes, ih h2 (a + 1) (by omega), State.byte_setByte h, if_neg (by omega)]

/-- A byte inside the written range after a write of bytes. -/
theorem State.byte_setBytes_in {s : State} (h : Sp.wf memDefault s.mem = true) (bs : List Byte) (a i : Nat) (hi : i < bs.length) :
    (s.setBytes a bs).byte (a + i) = bs[i] := by
  induction bs generalizing s a i with
  | nil => simp at hi
  | cons b bs ih =>
    have h2 : Sp.wf memDefault (s.setByte a b).mem = true := Sp.put_wf h
    rw [State.setBytes]
    cases i with
    | zero => rw [State.byte_setBytes_out h2 bs (a + 1) (a + 0) (by omega), State.byte_setByte h, if_pos (Nat.add_zero a)]; rfl
    | succ i =>
      rw [show a + (i + 1) = (a + 1) + i by omega, ih h2 (a + 1) i (by simpa using hi)]; rfl

end Sys2Proof.Machine
end

