-- ==== Sys2Proof/Laws/Commands.lean ====
section
/-! SUPPORT. What the shared frame of commands and the shared path of register writes do, for the statements that cite them: a command
that runs is its body on the state after the queue, and a write that a register takes is its block's write. -/

namespace Sys2Proof

open Machine Machine.Reg

variable {s t : State} {q : Req} {opc : Nat} {p : List Byte}

/-- A command that runs executes its body. -/
theorem Machine.State.command_runs (h : runs s q opc p t) (body : State → State) : s.command q opc p body = body t := by
  obtain ⟨h1, h2, h3, h4⟩ := h
  unfold State.command
  simp only [h1, h2, h3, h4, Bool.not_true, Bool.false_eq_true, if_false]

/-- A command of fixed length that runs and passes its checks executes its body. -/
theorem Machine.State.fixed_runs (h : runs s q opc p t) {len : Nat} (hl : p.length = len) {checks : State → List Check}
    (hc : firstBad (checks t) = none) (body : State → State) : s.fixed q opc p len checks body = body t := by
  unfold State.fixed
  rw [State.command_runs h]
  unfold checked
  simp only [hl, ne_eq, not_true_eq_false, if_false, hc]

/-- No check of a list fails. -/
theorem Machine.firstBad_none {l : List Check} : firstBad l = none ↔ ∀ c ∈ l, c.bad = false := by
  unfold firstBad
  rw [List.find?_eq_none]
  simp

/-- A masked write that a register takes is its block's write, with WR_ERR where HSPI makes it and the block refuses it. -/
theorem Machine.State.pathModify_of_takes {p : Path} {a : Nat} {w m : Word} {b : Blk} {c : Card} {ix : List Nat} {r : WrRes}
    (h : takes s p a = true) (hb : blkOf a = some b) (hc : cardAt a = some (c, ix)) (ha : a % 4 = 0)
    (hw : s.blockWrite b (c.wrOf ix s a w m) = (r, t)) : s.pathModify p a w m = if r = .done then t else refusedBy p t := by
  simp only [takes, Bool.and_eq_true, Bool.not_eq_true', Bool.and_eq_false_iff, Bool.or_eq_true, beq_iff_eq] at h
  obtain ⟨⟨⟨⟨⟨h1, h2⟩, h3⟩, h4⟩, h5⟩, h6⟩ := h
  have hh : s.hostWrite a w m = (r, t) := by
    have key : s.lockedWrite b (c.wrOf ix s a w m) = (r, t) := by
      unfold State.lockedWrite
      have e1 : (if s.lockCode = 0 then 0 else profileMask s.lockCode (c.wrOf ix s a w m).a true) = 0 := by
        rcases h6 with h6 | ⟨h6, _⟩
        · simp [h6]
        · split
          · rfl
          · exact h6
      have e2 : (if s.lockCode = 0 then 0 else profileMask s.lockCode (c.wrOf ix s a w m).a false) = 0 := by
        rcases h6 with h6 | ⟨_, h6⟩
        · simp [h6]
        · split
          · rfl
          · exact h6
      simp only [e1, e2, Nat.and_zero, ne_eq, not_true_eq_false, decide_false, Bool.false_eq_true, if_false, hw, Bool.false_and]
    unfold State.hostWrite
    simp only [hb, hc, h3, h4, h5, Bool.false_eq_true, if_false, Bool.not_true, key]
  unfold State.pathModify
  simp only [h1, Bool.not_true, Bool.false_eq_true, if_false, hb, ha, hh, Option.isNone_some, bne_self_eq_false, Bool.or_self]
  unfold refusedBy
  split
  · rename_i hp
    rcases h2 with h2 | h2
    · simp [hp] at h2
    · simp only [h2, Bool.false_eq_true, if_false]
  · split <;> rfl

/-- A masked write that a register takes and that completes is its block's write. -/
theorem Machine.State.pathModify_takes {p : Path} {a : Nat} {w m : Word} {b : Blk} {c : Card} {ix : List Nat}
    (h : takes s p a = true) (hb : blkOf a = some b) (hc : cardAt a = some (c, ix)) (ha : a % 4 = 0)
    (hw : s.blockWrite b (c.wrOf ix s a w m) = (.done, t)) : s.pathModify p a w m = t := by
  rw [State.pathModify_of_takes h hb hc ha hw, if_pos rfl]

/-- A masked write that a register takes and that its block refuses. -/
theorem Machine.State.pathModify_refused {p : Path} {a : Nat} {w m : Word} {b : Blk} {c : Card} {ix : List Nat} {r : WrRes}
    (h : takes s p a = true) (hb : blkOf a = some b) (hc : cardAt a = some (c, ix)) (ha : a % 4 = 0)
    (hw : s.blockWrite b (c.wrOf ix s a w m) = (r, t)) (hr : r ≠ .done) : s.pathModify p a w m = refusedBy p t := by
  rw [State.pathModify_of_takes h hb hc ha hw, if_neg hr]

/-- A write of one field that a register takes and that completes is its block's write. -/
theorem Machine.State.pathField_takes {p : Path} {a : Nat} {f : Fld} {v : Nat} {b : Blk} {c : Card} {ix : List Nat}
    (h : takes s p a = true) (hb : blkOf a = some b) (hc : cardAt a = some (c, ix)) (ha : a % 4 = 0)
    (hw : s.blockWrite b (c.wrOf ix s a (f.set 0 v) (BitVec.ofNat 32 f.mask)) = (.done, t)) : s.pathField p a f v = t :=
  State.pathModify_takes h hb hc ha hw

/-- A write of one field of an array's register that the register takes and that completes is its block's write. -/
theorem Machine.State.pathFieldIn_takes {p : Path} {a base : Nat} {f : Fld} {v : Nat} {b : Blk} {c : Card} {ix : List Nat}
    (h : takes s p a = true) (hb : blkOf a = some b) (hc : cardAt a = some (c, ix)) (ha : a % 4 = 0) (hbase : c.addr = base)
    (hw : s.blockWrite b (c.wrOf ix s a (f.set 0 v) (BitVec.ofNat 32 f.mask)) = (.done, t)) : s.pathFieldIn p base a f v = t := by
  unfold State.pathFieldIn baseOf
  simp only [hc, Option.map_some, hbase, beq_self_eq_true, if_true]
  exact State.pathField_takes h hb hc ha hw

/-- A whole-word write that a register of a group takes and that completes is its block's write. -/
theorem Machine.State.pathWriteIn_takes {p : Path} {a : Nat} {w : Word} {g : List Nat} {b : Blk} {c : Card} {ix : List Nat}
    (h : takes s p a = true) (hb : blkOf a = some b) (hc : cardAt a = some (c, ix)) (ha : a % 4 = 0) (hg : g.contains c.addr = true)
    (hw : s.blockWrite b (c.wrOf ix s a w (BitVec.ofNat 32 0xFFFFFFFF)) = (.done, t)) : s.pathWriteIn p g a w = t := by
  unfold State.pathWriteIn baseOf
  simp only [hc, Option.map_some, hg, if_true]
  exact State.pathModify_takes h hb hc ha hw

/-- A path's write of one field that the card gives as writable: what the block's write of it is told. -/
theorem Machine.State.pathField_writes {p : Path} {a : Nat} {f : Fld} {v : Nat} {b : Blk} {c : Card} {ix : List Nat}
    (h : takes s p a = true) (hb : blkOf a = some b) (hc : cardAt a = some (c, ix)) (ha : a % 4 = 0)
    (hm : f.lo + f.w ≤ 32 ∧ c.mask (· == .rw) &&& f.mask = f.mask ∧ c.mask (· == .w1c) &&& f.mask = 0 ∧ c.mask (· == .w1s) &&& f.mask = 0)
    (hw : ∀ x : Wr, x.a = a → x.base = c.addr → x.ix = ix → x.old = s.rd a → x.new = f.set (s.rd a) v → f.get x.ones = v % 2 ^ f.w →
      (∀ g : Fld, f.lo + f.w ≤ g.lo ∨ g.lo + g.w ≤ f.lo → g.get x.ones = 0) → s.blockWrite b x = (.done, t)) :
    s.pathField p a f v = t :=
  State.pathField_takes h hb hc ha (hw _ rfl rfl rfl rfl (Card.wrOf_new_rw ix s a v hm.1 hm.2.1 hm.2.2.1 hm.2.2.2)
    (Card.wrOf_ones c ix s a v hm.1) fun _ hg => Card.wrOf_ones_of_disjoint c ix s a v hm.1 hg)

/-- A path's write of one field that acts but holds nothing: what the block's write of it is told. -/
theorem Machine.State.pathField_pulses {p : Path} {a : Nat} {f : Fld} {v : Nat} {b : Blk} {c : Card} {ix : List Nat}
    (h : takes s p a = true) (hb : blkOf a = some b) (hc : cardAt a = some (c, ix)) (ha : a % 4 = 0)
    (hm : f.lo + f.w ≤ 32 ∧ c.mask (· == .rw) &&& f.mask = 0 ∧ c.mask (· == .w1c) &&& f.mask = 0 ∧ c.mask (· == .w1s) &&& f.mask = 0)
    (hw : ∀ x : Wr, x.a = a → x.base = c.addr → x.ix = ix → x.old = s.rd a → x.new = s.rd a → f.get x.ones = v % 2 ^ f.w →
      (∀ g : Fld, f.lo + f.w ≤ g.lo ∨ g.lo + g.w ≤ f.lo → g.get x.ones = 0) → s.blockWrite b x = (.done, t)) :
    s.pathField p a f v = t :=
  State.pathField_takes h hb hc ha (hw _ rfl rfl rfl rfl (Card.wrOf_new_wo ix s a v hm.1 hm.2.1 hm.2.2.1 hm.2.2.2)
    (Card.wrOf_ones c ix s a v hm.1) fun _ hg => Card.wrOf_ones_of_disjoint c ix s a v hm.1 hg)

/-- A path's whole-word write that its block holds. -/
theorem Machine.State.pathWrite_holds {s : State} {p : Path} {a : Nat} {w : Word} {b : Blk} {c : Card} {ix : List Nat}
    (h : takes s p a = true) (hb : blkOf a = some b) (hc : cardAt a = some (c, ix)) (ha : a % 4 = 0)
    (hw : ∀ x : Wr, x.a = a → x.base = c.addr → x.ix = ix → x.old = s.rd a → x.new = written s a w →
       (∀ f : Fld, f.lo + f.w ≤ 32 → c.mask (· == .rw) &&& f.mask = f.mask → c.mask (· == .w1c) &&& f.mask = 0 → c.mask (· == .w1s) &&& f.mask = 0 → f.get x.new = f.get w) →
       x.ones = w → s.blockWrite b x = (.done, s.wr a x.new)) : s.pathWrite p a w = s.wr a (written s a w) := by
  have hwr : written s a w = (c.wrOf ix s a w (BitVec.ofNat 32 0xFFFFFFFF)).new := by unfold written; rw [hc]
  refine (State.pathModify_takes h hb hc ha (hw _ rfl rfl rfl rfl hwr.symm (fun f h1 h2 h3 h4 => Card.wrOf_new_word ix s a w h1 h2 h3 h4) ?_)).trans ?_
  · exact BitVec.and_allOnes
  · rw [hwr]

/-- A path's whole-word write that its block refuses. -/
theorem Machine.State.pathWrite_refused {s t : State} {p : Path} {a : Nat} {w : Word} {b : Blk} {c : Card} {ix : List Nat} {r : WrRes}
    (h : takes s p a = true) (hb : blkOf a = some b) (hc : cardAt a = some (c, ix)) (ha : a % 4 = 0) (hr : r ≠ .done)
    (hw : ∀ x : Wr, x.a = a → x.base = c.addr → x.ix = ix → x.old = s.rd a → x.new = written s a w →
       (∀ f : Fld, f.lo + f.w ≤ 32 → c.mask (· == .rw) &&& f.mask = f.mask → c.mask (· == .w1c) &&& f.mask = 0 → c.mask (· == .w1s) &&& f.mask = 0 → f.get x.new = f.get w) →
       x.ones = w → s.blockWrite b x = (r, t)) : s.pathWrite p a w = refusedBy p t := by
  have hwr : written s a w = (c.wrOf ix s a w (BitVec.ofNat 32 0xFFFFFFFF)).new := by unfold written; rw [hc]
  refine (State.pathModify_refused h hb hc ha (hw _ rfl rfl rfl rfl hwr.symm (fun f h1 h2 h3 h4 => Card.wrOf_new_word ix s a w h1 h2 h3 h4) ?_) hr)
  · exact BitVec.and_allOnes

/-- A write to a group that names the register is the write. -/
theorem Machine.State.pathWriteIn_of {s : State} {p : Path} {g : List Nat} {a : Nat} {w : Word} {c : Card} {ix : List Nat} {t : State}
    (hc : cardAt a = some (c, ix)) (hg : g.contains c.addr = true) (h : s.pathWrite p a w = t) : s.pathWriteIn p g a w = t := by
  unfold State.pathWriteIn baseOf; simp only [hc, Option.map_some, hg, if_true, h]


end Sys2Proof
end

