-- ==== Sys2Proof/Laws/KeepsOps.lean ====
section
/-! SUPPORT. Every operation and meaning of Machine/Ops.lean keeps the queue, the canonical forms and the order of time. -/

namespace Sys2Proof.Machine

open Reg

theorem State.setF_keeps {s0 : State} {s : State} {a : Nat} {fld : Fld} {v : Nat} (hK : Keeps s0 s) : Keeps s0 (s.setF a fld v) := by
  unfold State.setF
  repeat' first | with_reducible assumption | with_reducible apply State.wr_keeps

theorem State.addSat_keeps {s0 : State} {s : State} {a : Nat} {fld : Fld} {n : Nat} (hK : Keeps s0 s) :
    Keeps s0 (s.addSat a fld n) := by
  unfold State.addSat
  repeat' first | with_reducible assumption | with_reducible apply State.setF_keeps

theorem State.addWrap_keeps {s0 : State} {s : State} {a : Nat} {fld : Fld} {n : Nat} (hK : Keeps s0 s) :
    Keeps s0 (s.addWrap a fld n) := by
  unfold State.addWrap
  repeat' first | with_reducible assumption | with_reducible apply State.setF_keeps

theorem State.wr64_keeps {s0 : State} {s : State} {lo : Nat} {hi : Nat} {v : Nat} (hK : Keeps s0 s) : Keeps s0 (s.wr64 lo hi v) := by
  unfold State.wr64
  repeat' first | with_reducible assumption | with_reducible apply State.wr_keeps

theorem State.hold_keeps {s0 : State} {s : State} {a : Nat} (hK : Keeps s0 s) : Keeps s0 (s.hold a) := by
  unfold State.hold
  repeat' first | with_reducible assumption | simp -zeta only [Keeps.upd] | split

theorem State.release_keeps {s0 : State} {s : State} {cls : Nat → Bool} (hK : Keeps s0 s) : Keeps s0 (s.release cls) := by
  unfold State.release
  repeat' first | with_reducible assumption | simp -zeta only [Keeps.upd]

theorem State.copyMem_keeps {s0 : State} {s : State} {src : Nat} {dst : Nat} {n : Nat} (hK : Keeps s0 s) :
    Keeps s0 (s.copyMem src dst n) := by
  unfold State.copyMem
  repeat' first
    | with_reducible assumption
    | (with_reducible first
        | apply State.clearMem_keeps | apply Keeps.forEach | apply State.setByte_keeps | intro _ _ _ | intro _ _)

theorem State.setNet_keeps {s0 : State} {s : State} {x : Nat} {v : Nat} (hK : Keeps s0 s) : Keeps s0 (s.setNet x v) := by
  unfold State.setNet
  repeat' first
    | with_reducible assumption
    | extract_lets +onlyGivenNames x
      first
      | have hx : Keeps s0 x := by
          dsimp -zeta only [x]
          repeat' first
            | with_reducible assumption
            | (with_reducible first | apply Keeps.ite | apply Keeps.now | apply Nat.le_add_right_of_le)
            | simp -zeta only [Keeps.upd]
            | split
            | apply Keeps.updTm
        clear_value x
      | have hx : s0.tm.now ≤ x.now := by
          dsimp -zeta only [x]
          repeat' first | with_reducible assumption | (with_reducible first | apply Keeps.now | apply Nat.le_add_right_of_le)
        clear_value x
      | clear_value x
    | (with_reducible first | apply Keeps.ite | apply Keeps.now | apply Nat.le_add_right_of_le)
    | simp -zeta only [Keeps.upd]
    | split
    | apply Keeps.updTm

theorem State.setPtp_keeps {s0 : State} {s : State} {x : Nat} {p : Ptp} (hK : Keeps s0 s) : Keeps s0 (s.setPtp x p) := by
  unfold State.setPtp
  repeat' first | with_reducible assumption | with_reducible apply Keeps.ite | simp -zeta only [Keeps.upd]

theorem State.netStep_keeps {s0 : State} {s : State} {x : Nat} {dt : Nat} (hK : Keeps s0 s) : Keeps s0 (s.netStep x dt) := by
  unfold State.netStep
  repeat' first | with_reducible assumption | with_reducible apply State.setNet_keeps

theorem State.pulsesEnd_keeps {s0 : State} {s : State} (hK : Keeps s0 s) : Keeps s0 (s.pulsesEnd) := by
  unfold State.pulsesEnd
  repeat' first
    | with_reducible assumption
    | extract_lets +onlyGivenNames x
      first
      | have hx : Keeps s0 x := by
          dsimp -zeta only [x]
          repeat' first
            | with_reducible assumption
            | (with_reducible first | apply Keeps.ite | apply Keeps.now | apply Nat.le_add_right_of_le)
            | simp -zeta only [Keeps.upd]
            | split
            | apply Keeps.updTm
        clear_value x
      | have hx : s0.tm.now ≤ x.now := by
          dsimp -zeta only [x]
          repeat' first | with_reducible assumption | (with_reducible first | apply Keeps.now | apply Nat.le_add_right_of_le)
        clear_value x
      | clear_value x
    | (with_reducible first | apply Keeps.ite | apply Keeps.now | apply Nat.le_add_right_of_le)
    | simp -zeta only [Keeps.upd]
    | split
    | apply Keeps.updTm

theorem State.advance_keeps {s0 : State} {s : State} {dt : Nat} (hK : Keeps s0 s) : Keeps s0 (s.advance dt) := by
  unfold State.advance
  repeat' first
    | with_reducible assumption
    | extract_lets +onlyGivenNames x
      first
      | have hx : Keeps s0 x := by
          dsimp -zeta only [x]
          repeat' first
            | with_reducible assumption
            | (with_reducible first
                | apply State.pulsesEnd_keeps | apply Keeps.forEach | apply State.netStep_keeps | intro _ _ _ | apply Keeps.ite
                | apply Keeps.now | apply Nat.le_add_right_of_le)
            | simp -zeta only [Keeps.upd]
            | split
            | apply Keeps.updTm
        clear_value x
      | have hx : s0.tm.now ≤ x.now := by
          dsimp -zeta only [x]
          repeat' first
            | with_reducible assumption
            | (with_reducible first
                | apply State.pulsesEnd_keeps | apply Keeps.forEach | apply State.netStep_keeps | intro _ _ _ | apply Keeps.now
                | apply Nat.le_add_right_of_le)
        clear_value x
      | clear_value x
    | (with_reducible first
        | apply State.pulsesEnd_keeps | apply Keeps.forEach | apply State.netStep_keeps | intro _ _ _ | apply Keeps.ite
        | apply Keeps.now | apply Nat.le_add_right_of_le)
    | simp -zeta only [Keeps.upd]
    | split
    | apply Keeps.updTm

theorem State.at__keeps {s0 : State} {s : State} {t : Nat} (hK : Keeps s0 s) : Keeps s0 (s.at_ t) := by
  unfold State.at_
  repeat' first
    | with_reducible assumption
    | (with_reducible first | apply State.advance_keeps | apply Keeps.ite)

theorem State.idle_keeps {s0 : State} {s : State} (hK : Keeps s0 s) : Keeps s0 (s.idle) := by
  unfold State.idle
  repeat' first
    | with_reducible assumption
    | (with_reducible first | apply State.advance_keeps | apply Keeps.ite)

theorem State.toTbs_keeps {s0 : State} {s : State} {t : Nat} (hK : Keeps s0 s) : Keeps s0 (s.toTbs t) := by
  unfold State.toTbs
  repeat' first | with_reducible assumption | with_reducible apply State.at__keeps

theorem State.toNet_keeps {s0 : State} {s : State} {x : Nat} {due : Nat} (hK : Keeps s0 s) : Keeps s0 (s.toNet x due) := by
  unfold State.toNet
  repeat' first | with_reducible assumption | with_reducible apply State.advance_keeps

theorem State.setEth_keeps {s0 : State} {s : State} {p : Port} {e : Eth} (hK : Keeps s0 s) : Keeps s0 (s.setEth p e) := by
  unfold State.setEth
  repeat' first | with_reducible assumption | simp -zeta only [Keeps.upd] | split

theorem State.drawn_keeps {s0 : State} {s : State} (hK : Keeps s0 s) : Keeps s0 (s.drawn) := by
  unfold State.drawn
  repeat' first | with_reducible assumption | simp -zeta only [Keeps.upd]

end Sys2Proof.Machine
end

