-- ==== Sys2Proof/Laws/KeepsNet.lean ====
section
/-! SUPPORT. Every operation and meaning of Machine/Net.lean keeps the queue, the canonical forms and the order of time. -/

namespace Sys2Proof.Machine

open Reg

theorem State.enqueue_keeps {s0 : State} {s : State} {p : Port} {e : TxEntry} (hK : Keeps s0 s) : Keeps s0 (s.enqueue p e) := by
  unfold State.enqueue
  repeat' first
    | with_reducible assumption
    | (with_reducible first | apply State.setEth_keeps | apply Keeps.ite)
    | simp -zeta only [Keeps.upd]

theorem State.sendBody_keeps {s0 : State} {s : State} {p : Port} {c : TxClass} {dst : Nat} {body : Body} {payload : Nat} {prpSeq
    : Option Nat} {e : TxEntry → TxEntry} (hK : Keeps s0 s) :
    Keeps s0 (s.sendBody p c dst body payload prpSeq e) := by
  unfold State.sendBody
  repeat' first
    | with_reducible assumption
    | with_reducible apply State.enqueue_keeps
    | simp -zeta only [Keeps.upd]
    | split

theorem State.sendPrp_keeps {s0 : State} {s : State} {p : Port} {c : TxClass} {dst : Nat} {body : Body} {payload : Nat} {inPrp
    : Bool} {e : TxEntry → TxEntry} (hK : Keeps s0 s) :
    Keeps s0 (s.sendPrp p c dst body payload inPrp e) := by
  unfold State.sendPrp
  repeat' first
    | with_reducible assumption
    | (with_reducible first | apply State.sendBody_keeps | apply Keeps.ite)
    | simp -zeta only [Keeps.upd]

theorem State.noRes_keeps {s0 : State} {s : State} {p : Port} (hK : Keeps s0 s) : Keeps s0 (s.noRes p) := by
  unfold State.noRes
  repeat' first | with_reducible assumption | with_reducible apply State.addSat_keeps

theorem State.startResolve_keeps {s0 : State} {s : State} {p : Port} {ip : Ip} (hK : Keeps s0 s) :
    Keeps s0 (s.startResolve p ip) := by
  unfold State.startResolve
  repeat' first
    | with_reducible assumption
    | (with_reducible first | apply State.setEth_keeps | apply State.sendPrp_keeps | apply Keeps.ite)
    | simp -zeta only [Keeps.upd]

theorem State.sendUdp_keeps {s0 : State} {s : State} {p : Port} {c : TxClass} {dst : Ip} {sport : Nat} {dport : Nat} {payload
    : List Byte} {inPrp : Bool} {e : TxEntry → TxEntry} (hK : Keeps s0 s) :
    Keeps s0 (s.sendUdp p c dst sport dport payload inPrp e) := by
  unfold State.sendUdp
  repeat' first
    | with_reducible assumption
    | (with_reducible first
        | apply State.noRes_keeps | apply State.sendPrp_keeps | apply State.startResolve_keeps | apply Keeps.ite)
    | split

end Sys2Proof.Machine
end

