-- ==== Sys2Proof/Laws/KeepsReport.lean ====
section
/-! SUPPORT. Every operation and meaning of Machine/Report.lean keeps the queue, the canonical forms and the order of time. -/

namespace Sys2Proof.Machine

open Reg

theorem State.setSession_keeps {s0 : State} {s : State} {v : Via} {x : Option Session} (hK : Keeps s0 s) :
    Keeps s0 (s.setSession v x) := by
  unfold State.setSession
  repeat' first | with_reducible assumption | simp -zeta only [Keeps.upd] | split

theorem State.deliver_keeps {s0 : State} {s : State} {r : Reply} (hK : Keeps s0 s) : Keeps s0 (s.deliver r) := by
  unfold State.deliver
  repeat' first
    | with_reducible assumption
    | (with_reducible first | apply State.sendUdp_keeps | apply Keeps.ite)
    | simp -zeta only [Keeps.upd]
    | split

theorem State.answer_keeps {s0 : State} {s : State} {q : Req} {opc : Nat} {status : Nat} {detail : Nat} {data : List Byte} {auth
    : Bool} (hK : Keeps s0 s) :
    Keeps s0 (s.answer q opc status detail data auth) := by
  unfold State.answer
  repeat' first
    | with_reducible assumption
    | (with_reducible first | apply State.setSession_keeps | apply State.deliver_keeps | apply Keeps.ite)
    | simp -zeta only [Keeps.upd]

theorem State.reply_keeps {s0 : State} {s : State} {q : Req} {opc : Nat} {status : Nat} {detail : Nat} (hK : Keeps s0 s) :
    Keeps s0 (s.reply q opc status detail) := by
  unfold State.reply
  repeat' first | with_reducible assumption | with_reducible apply State.answer_keeps

theorem State.replyOk_keeps {s0 : State} {s : State} {q : Req} {opc : Nat} {data : List Byte} (hK : Keeps s0 s) :
    Keeps s0 (s.replyOk q opc data) := by
  unfold State.replyOk
  repeat' first | with_reducible assumption | with_reducible apply State.answer_keeps

theorem State.badParam_keeps {s0 : State} {s : State} {q : Req} {opc : Nat} {detail : Nat} (hK : Keeps s0 s) :
    Keeps s0 (s.badParam q opc detail) := by
  unfold State.badParam
  repeat' first | with_reducible assumption | with_reducible apply State.reply_keeps

theorem State.badLength_keeps {s0 : State} {s : State} {q : Req} {opc : Nat} (hK : Keeps s0 s) : Keeps s0 (s.badLength q opc) := by
  unfold State.badLength
  repeat' first | with_reducible assumption | with_reducible apply State.reply_keeps

theorem State.sendEvent_keeps {s0 : State} {s : State} {e : Event} (hK : Keeps s0 s) : Keeps s0 (s.sendEvent e) := by
  unfold State.sendEvent
  repeat' first
    | with_reducible assumption
    | (with_reducible first | apply State.sendUdp_keeps | apply Keeps.ite)
    | split

theorem State.queueEvent_keeps {s0 : State} {s : State} {e : Event} (hK : Keeps s0 s) : Keeps s0 (s.queueEvent e) := by
  unfold State.queueEvent
  repeat' first
    | with_reducible assumption
    | (with_reducible first | apply State.addSat_keeps | apply State.setF_keeps | apply Keeps.ite)
    | simp -zeta only [Keeps.upd]

theorem State.raise_keeps {s0 : State} {s : State} {num : Nat} {data : List Byte} (hK : Keeps s0 s) :
    Keeps s0 (s.raise num data) := by
  unfold State.raise
  repeat' first
    | with_reducible assumption
    | (with_reducible first
        | apply State.addWrap_keeps | apply State.sendEvent_keeps | apply State.queueEvent_keeps | apply Keeps.ite)

theorem State.addJob_keeps {s0 : State} {s : State} {j : Job} (hK : Keeps s0 s) : Keeps s0 (s.addJob j) := by
  unfold State.addJob
  repeat' first | with_reducible assumption | simp -zeta only [Keeps.upd]

theorem State.reportJob_keeps {s0 : State} {s : State} {j : Job} {status : Nat} {detail : Nat} {data : List Byte} (hK
    : Keeps s0 s) :
    Keeps s0 (s.reportJob j status detail data) := by
  unfold State.reportJob
  repeat' first | with_reducible assumption | with_reducible apply State.raise_keeps

theorem State.finishJobs_keeps {s0 : State} {s : State} {opc : Nat} {status : Nat} {detail : Nat} {data : List Byte} (hK
    : Keeps s0 s) :
    Keeps s0 (s.finishJobs opc status detail data) := by
  unfold State.finishJobs
  repeat' first
    | with_reducible assumption
    | (with_reducible first | apply Keeps.forEach | apply State.reportJob_keeps | intro _ _ _ | intro _ _)
    | simp -zeta only [Keeps.upd]

theorem State.discardGapJobs_keeps {s0 : State} {s : State} (hK : Keeps s0 s) : Keeps s0 (s.discardGapJobs) := by
  unfold State.discardGapJobs
  repeat' first
    | with_reducible assumption
    | (with_reducible first | apply Keeps.forEach | apply State.reportJob_keeps | intro _ _ _ | intro _ _)
    | simp -zeta only [Keeps.upd]

theorem State.nvSync_keeps {s0 : State} {s : State} (hK : Keeps s0 s) : Keeps s0 (s.nvSync) := by
  unfold State.nvSync
  repeat' first | with_reducible assumption | with_reducible apply State.setF_keeps

theorem State.nvStore_keeps {s0 : State} {s : State} {body : List Byte} (hK : Keeps s0 s) : Keeps s0 (s.nvStore body) := by
  unfold State.nvStore
  repeat' first
    | with_reducible assumption
    | (with_reducible first | apply State.setF_keeps | apply Keeps.foldl | apply Keeps.ite | intro _ _ _ | intro _ _)
    | simp -zeta only [Keeps.upd]

theorem State.nvWriteHead_keeps {s0 : State} {s : State} (hK : Keeps s0 s) : Keeps s0 (s.nvWriteHead) := by
  unfold State.nvWriteHead
  repeat' first
    | with_reducible assumption
    | (with_reducible first | apply State.nvSync_keeps | apply State.addSat_keeps | apply State.nvStore_keeps | apply Keeps.ite)
    | simp -zeta only [Keeps.upd]
    | split

theorem State.nvFlush_keeps {s0 : State} {s : State} (hK : Keeps s0 s) : Keeps s0 (s.nvFlush) := by
  unfold State.nvFlush
  repeat' first
    | with_reducible assumption
    | (with_reducible first | apply State.nvWriteHead_keeps | apply Keeps.foldl | intro _ _ _ | intro _ _)

theorem State.nvQueue_keeps {s0 : State} {s : State} {body : List Byte} (hK : Keeps s0 s) : Keeps s0 (s.nvQueue body) := by
  unfold State.nvQueue
  repeat' first
    | with_reducible assumption
    | (with_reducible first | apply State.nvSync_keeps | apply State.addSat_keeps | apply Keeps.ite)
    | simp -zeta only [Keeps.upd]

theorem State.nvNow_keeps {s0 : State} {s : State} {body : List Byte} (hK : Keeps s0 s) : Keeps s0 (s.nvNow body) := by
  unfold State.nvNow
  repeat' first
    | with_reducible assumption
    | (with_reducible first | apply State.nvSync_keeps | apply State.nvStore_keeps | apply State.nvFlush_keeps)

end Sys2Proof.Machine
end

