-- ==== Sys2Proof/Laws/KeepsTaps.lean ====
section
/-! SUPPORT. Every operation and meaning of Machine/Taps.lean keeps the queue, the canonical forms and the order of time. -/

namespace Sys2Proof.Machine

open Reg

theorem State.refCheck_keeps {s0 : State} {s : State} (hK : Keeps s0 s) : Keeps s0 (s.refCheck) := by
  unfold State.refCheck
  repeat' first
    | with_reducible assumption
    | extract_lets +onlyGivenNames x
      first
      | have hx : Keeps s0 x := by
          dsimp -zeta only [x]
          repeat' first
            | with_reducible assumption
            | (with_reducible first | apply State.setF_keeps | apply Keeps.ite)
            | simp -zeta only [Keeps.upd]
            | split
        clear_value x
      | clear_value x
    | (with_reducible first | apply State.setF_keeps | apply Keeps.ite)
    | simp -zeta only [Keeps.upd]
    | split

theorem State.madEvent_keeps {s0 : State} {s : State} {src : Nat} {t : Nat} (hK : Keeps s0 s) : Keeps s0 (s.madEvent src t) := by
  unfold State.madEvent
  repeat' first | with_reducible assumption | with_reducible apply Keeps.ite | simp -zeta only [Keeps.upd]

theorem State.recTrigger_keeps {s0 : State} {s : State} {src : Nat} {t : Nat} (hK : Keeps s0 s) : Keeps s0 (s.recTrigger src t) := by
  unfold State.recTrigger
  repeat' first
    | with_reducible assumption
    | extract_lets +onlyGivenNames x
      first
      | have hx : Keeps s0 x := by
          dsimp -zeta only [x]
          repeat' first | with_reducible assumption | with_reducible apply Keeps.ite | simp -zeta only [Keeps.upd] | split
        clear_value x
      | clear_value x
    | with_reducible apply Keeps.ite
    | simp -zeta only [Keeps.upd]
    | split

theorem State.maskRef_keeps {s0 : State} {s : State} {code : Nat} {t : Nat} (hK : Keeps s0 s) : Keeps s0 (s.maskRef code t) := by
  unfold State.maskRef
  repeat' first | with_reducible assumption | simp -zeta only [Keeps.upd]

theorem State.loseEvent_keeps {s0 : State} {s : State} {t : Nat} (hK : Keeps s0 s) : Keeps s0 (s.loseEvent t) := by
  unfold State.loseEvent
  repeat' first
    | with_reducible assumption
    | (with_reducible first | apply State.addWrap_keeps | apply Keeps.ite)
    | simp -zeta only [Keeps.upd]

theorem State.loseMonitor_keeps {s0 : State} {s : State} {t : Nat} (hK : Keeps s0 s) : Keeps s0 (s.loseMonitor t) := by
  unfold State.loseMonitor
  repeat' first
    | with_reducible assumption
    | (with_reducible first | apply State.addWrap_keeps | apply Keeps.ite)
    | simp -zeta only [Keeps.upd]

theorem State.tapItem_keeps {s0 : State} {s : State} {i : TapItem} (hK : Keeps s0 s) : Keeps s0 (s.tapItem i) := by
  unfold State.tapItem
  repeat' first
    | with_reducible assumption
    | (with_reducible first | apply State.addWrap_keeps | apply Keeps.ite)
    | simp -zeta only [Keeps.upd]
    | split

theorem State.recEvent_keeps {s0 : State} {s : State} {stage : Nat} {e : Ev} (hK : Keeps s0 s) : Keeps s0 (s.recEvent stage e) := by
  unfold State.recEvent
  repeat' first
    | with_reducible assumption
    | (with_reducible first | apply State.loseEvent_keeps | apply State.tapItem_keeps | apply Keeps.ite)
    | simp -zeta only [Keeps.upd]

theorem State.maskSample_keeps {s0 : State} {s : State} {tests : State → Nat → Bool} {value : Int} {t : Nat} (hK : Keeps s0 s) :
    Keeps s0 (s.maskSample tests value t) := by
  unfold State.maskSample
  repeat' first
    | with_reducible assumption
    | (with_reducible first | apply Keeps.forEach | apply Keeps.ite | intro _ _ _ | intro _ _)
    | simp -zeta only [Keeps.upd]
    | split

theorem State.monPut_keeps {s0 : State} {s : State} {wordA : Nat} {t : Nat} {chosen : Bool} {tests : State → Nat → Bool} {value
    : Int} (hK : Keeps s0 s) :
    Keeps s0 (s.monPut wordA t chosen tests value) := by
  unfold State.monPut
  repeat' first
    | with_reducible assumption
    | (with_reducible first | apply State.loseMonitor_keeps | apply State.maskSample_keeps | apply Keeps.ite)
    | simp -zeta only [Keeps.upd]

theorem State.recResult_keeps {s0 : State} {s : State} {kind : Nat} {conv : Nat} {code : Nat} {diff : Bool} {result : Int} {t
    : Nat} (hK : Keeps s0 s) :
    Keeps s0 (s.recResult kind conv code diff result t) := by
  unfold State.recResult
  repeat' first
    | with_reducible assumption
    | (with_reducible first | apply State.monPut_keeps | apply Keeps.ite)

theorem State.recFilter_keeps {s0 : State} {s : State} {chain : Nat} {out : Int} {y16 : Int} {valid : Bool} {t : Nat} (hK
    : Keeps s0 s) :
    Keeps s0 (s.recFilter chain out y16 valid t) := by
  unfold State.recFilter
  repeat' first
    | with_reducible assumption
    | (with_reducible first | apply State.monPut_keeps | apply Keeps.ite)

theorem State.recWindow_keeps {s0 : State} {s : State} {azimuth : Nat} {levels : List (Nat × Nat)} (hK : Keeps s0 s) :
    Keeps s0 (s.recWindow azimuth levels) := by
  unfold State.recWindow
  repeat' first
    | with_reducible assumption
    | extract_lets +onlyGivenNames x
      first
      | have hx : Keeps s0 x := by
          dsimp -zeta only [x]
          repeat' first
            | with_reducible assumption
            | (with_reducible first | apply Keeps.forEach | apply Keeps.foldl | apply Keeps.ite | intro _ _ _ | intro _ _)
            | simp -zeta only [Keeps.upd]
            | split
        clear_value x
      | clear_value x
    | (with_reducible first | apply Keeps.forEach | apply Keeps.foldl | apply Keeps.ite | intro _ _ _ | intro _ _)
    | simp -zeta only [Keeps.upd]
    | split

theorem State.recRow_keeps {s0 : State} {s : State} {column : Nat} {frame : Nat} {width : Nat} {bins : Nat} {tfirst : Nat}
    {stolen : Bool} {data : List Byte} (hK : Keeps s0 s) :
    Keeps s0 (s.recRow column frame width bins tfirst stolen data) := by
  unfold State.recRow
  repeat' first
    | with_reducible assumption
    | extract_lets +onlyGivenNames x
      first
      | have hx : Keeps s0 x := by
          dsimp -zeta only [x]
          repeat' first | with_reducible assumption | simp -zeta only [Keeps.upd]
        clear_value x
      | clear_value x
    | simp -zeta only [Keeps.upd]

end Sys2Proof.Machine
end

