-- ==== Sys2Proof/Laws/KeepsTrip.lean ====
section
/-! SUPPORT. Every operation and meaning of Machine/Trip.lean keeps the queue, the canonical forms and the order of time. -/

namespace Sys2Proof.Machine

open Reg

theorem State.cutEmission_keeps {s0 : State} {s : State} (hK : Keeps s0 s) : Keeps s0 (s.cutEmission) := by
  unfold State.cutEmission
  repeat' first | with_reducible assumption | simp -zeta only [Keeps.upd]

theorem State.switches_keeps {s0 : State} {s : State} {ehs : Bool} {els : Bool} (hK : Keeps s0 s) :
    Keeps s0 (s.switches ehs els) := by
  unfold State.switches
  repeat' first | with_reducible assumption | simp -zeta only [Keeps.upd]

theorem State.hgUpdate_keeps {s0 : State} {s : State} (hK : Keeps s0 s) : Keeps s0 (s.hgUpdate) := by
  unfold State.hgUpdate
  repeat' first
    | with_reducible assumption
    | extract_lets +onlyGivenNames x
      first
      | have hx : Keeps s0 x := by
          dsimp -zeta only [x]
          repeat' first | with_reducible assumption | with_reducible apply Keeps.ite | simp -zeta only [Keeps.upd]
        clear_value x
      | clear_value x
    | with_reducible apply Keeps.ite
    | simp -zeta only [Keeps.upd]

theorem State.noteConds_keeps {s0 : State} {s1 : State} {s0b : State} (hK : Keeps s0 s1) : Keeps s0 (s1.noteConds s0b) := by
  unfold State.noteConds
  repeat' first
    | with_reducible assumption
    | (with_reducible first | apply Keeps.forEach | apply Keeps.ite | intro _ _ _ | intro _ _)
    | simp -zeta only [Keeps.upd]

theorem State.endFrame_keeps {s0 : State} {s : State} (hK : Keeps s0 s) : Keeps s0 (s.endFrame) := by
  unfold State.endFrame
  repeat' first
    | with_reducible assumption
    | (with_reducible first | apply State.setF_keeps | apply Keeps.ite)
    | simp -zeta only [Keeps.upd]

theorem State.putSet_keeps {s0 : State} {s : State} {set : Nat} {st : Nat} (hK : Keeps s0 s) : Keeps s0 (s.putSet set st) := by
  unfold State.putSet
  repeat' first | with_reducible assumption | with_reducible apply State.setF_keeps

theorem State.clearSet_keeps {s0 : State} {s : State} {set : Nat} (hK : Keeps s0 s) : Keeps s0 (s.clearSet set) := by
  unfold State.clearSet
  repeat' first | with_reducible assumption | with_reducible apply State.clearMem_keeps

theorem State.closeColumn_keeps {s0 : State} {s : State} (hK : Keeps s0 s) : Keeps s0 (s.closeColumn) := by
  unfold State.closeColumn
  repeat' first
    | with_reducible assumption
    | extract_lets +onlyGivenNames x
      first
      | have hx : Keeps s0 x := by
          dsimp -zeta only [x]
          repeat' first | with_reducible assumption | with_reducible apply Keeps.ite | simp -zeta only [Keeps.upd] | split
        clear_value x
      | clear_value x
    | with_reducible apply Keeps.ite
    | simp -zeta only [Keeps.upd]
    | split

theorem State.settleRetain_keeps {s0 : State} {s : State} (hK : Keeps s0 s) : Keeps s0 (s.settleRetain) := by
  unfold State.settleRetain
  repeat' first
    | with_reducible assumption
    | (with_reducible first
        | apply Keeps.forEach | apply State.setByte_keeps | apply State.setF_keeps | apply State.wr_keeps | apply Keeps.ite
        | intro _ _ _ | intro _ _)
    | simp -zeta only [Keeps.upd]
    | split

theorem State.abandonColumn_keeps {s0 : State} {s : State} (hK : Keeps s0 s) : Keeps s0 (s.abandonColumn) := by
  unfold State.abandonColumn
  repeat' first
    | with_reducible assumption
    | extract_lets +onlyGivenNames x
      first
      | have hx : Keeps s0 x := by
          dsimp -zeta only [x]
          repeat' first
            | with_reducible assumption
            | (with_reducible first | apply State.putSet_keeps | apply State.clearSet_keeps)
            | simp -zeta only [Keeps.upd]
            | split
        clear_value x
      | clear_value x
    | (with_reducible first | apply State.putSet_keeps | apply State.clearSet_keeps)
    | simp -zeta only [Keeps.upd]
    | split

theorem State.calIdle_keeps {s0 : State} {s : State} (hK : Keeps s0 s) : Keeps s0 (s.calIdle) := by
  unfold State.calIdle
  repeat' first | with_reducible assumption | with_reducible apply State.setF_keeps

theorem State.calAbandon_keeps {s0 : State} {s : State} {status : Nat} (hK : Keeps s0 s) : Keeps s0 (s.calAbandon status) := by
  unfold State.calAbandon
  repeat' first
    | with_reducible assumption
    | (with_reducible first | apply State.calIdle_keeps | apply State.addSat_keeps | apply State.finishJobs_keeps)
    | simp -zeta only [Keeps.upd]
    | split

theorem State.calLeave_keeps {s0 : State} {s : State} {nxt : DevState} (hK : Keeps s0 s) : Keeps s0 (s.calLeave nxt) := by
  unfold State.calLeave
  repeat' first
    | with_reducible assumption
    | (with_reducible first | apply State.calAbandon_keeps | apply Keeps.ite)
    | simp -zeta only [Keeps.upd]
    | split

theorem State.calEnter_keeps {s0 : State} {s : State} (hK : Keeps s0 s) : Keeps s0 (s.calEnter) := by
  unfold State.calEnter
  repeat' first
    | with_reducible assumption
    | (with_reducible first | apply State.calAbandon_keeps | apply Keeps.ite)
    | split

theorem State.setLoop_keeps {s0 : State} {s : State} {x : Nat} {l : Loop} (hK : Keeps s0 s) : Keeps s0 (s.setLoop x l) := by
  unfold State.setLoop
  repeat' first | with_reducible assumption | simp -zeta only [Keeps.upd]

theorem State.loopStart_keeps {s0 : State} {s : State} {x : Nat} (hK : Keeps s0 s) : Keeps s0 (s.loopStart x) := by
  unfold State.loopStart
  repeat' first
    | with_reducible assumption
    | (with_reducible first | apply State.setLoop_keeps | apply State.setF_keeps | apply Keeps.ite)

theorem State.loopStop_keeps {s0 : State} {s : State} {x : Nat} (hK : Keeps s0 s) : Keeps s0 (s.loopStop x) := by
  unfold State.loopStop
  repeat' first
    | with_reducible assumption
    | (with_reducible first | apply State.setF_keeps | apply State.setLoop_keeps)
    | simp -zeta only [Keeps.upd]

theorem State.srvStart_keeps {s0 : State} {s : State} (hK : Keeps s0 s) : Keeps s0 (s.srvStart) := by
  unfold State.srvStart
  repeat' first
    | with_reducible assumption
    | (with_reducible first
        | apply State.setF_keeps | apply Keeps.forEach | apply State.loopStart_keeps | apply State.loopStop_keeps
        | apply Keeps.ite | intro _ _ _ | intro _ _)
    | simp -zeta only [Keeps.upd]
    | split

theorem State.winOut_keeps {s0 : State} {s : State} (hK : Keeps s0 s) : Keeps s0 (s.winOut) := by
  unfold State.winOut
  repeat' first
    | with_reducible assumption
    | (with_reducible first | apply State.addSat_keeps | apply State.setF_keeps | apply Keeps.ite)

theorem State.srvStop_keeps {s0 : State} {s : State} (hK : Keeps s0 s) : Keeps s0 (s.srvStop) := by
  unfold State.srvStop
  repeat' first
    | with_reducible assumption
    | (with_reducible first
        | apply Keeps.forEach | apply State.setF_keeps | apply State.winOut_keeps | apply Keeps.ite | intro _ _ _ | intro _ _)
    | simp -zeta only [Keeps.upd]
    | split

theorem State.leaveScanning_keeps {s0 : State} {s : State} {nxt : DevState} (hK : Keeps s0 s) : Keeps s0 (s.leaveScanning nxt) := by
  unfold State.leaveScanning
  repeat' first
    | with_reducible assumption
    | extract_lets +onlyGivenNames x
      first
      | have hx : Keeps s0 x := by
          dsimp -zeta only [x]
          repeat' first
            | with_reducible assumption
            | (with_reducible first
                | apply State.cutEmission_keeps | apply State.setF_keeps | apply State.abandonColumn_keeps
                | apply State.closeColumn_keeps | apply State.endFrame_keeps | apply State.calLeave_keeps
                | apply State.settleRetain_keeps | apply Keeps.ite)
            | simp -zeta only [Keeps.upd]
        clear_value x
      | clear_value x
    | (with_reducible first
        | apply State.cutEmission_keeps | apply State.setF_keeps | apply State.abandonColumn_keeps | apply State.closeColumn_keeps
        | apply State.endFrame_keeps | apply State.calLeave_keeps | apply State.settleRetain_keeps | apply Keeps.ite)
    | simp -zeta only [Keeps.upd]

theorem State.enterScanning_keeps {s0 : State} {s : State} (hK : Keeps s0 s) : Keeps s0 (s.enterScanning) := by
  unfold State.enterScanning
  repeat' first
    | with_reducible assumption
    | (with_reducible first
        | apply State.switches_keeps | apply State.setF_keeps | apply Keeps.forEach | apply State.putSet_keeps
        | apply State.calEnter_keeps | apply Keeps.ite | intro _ _ _ | intro _ _)
    | simp -zeta only [Keeps.upd]

theorem State.applyKey_keeps {s0 : State} {s : State} (hK : Keeps s0 s) : Keeps s0 (s.applyKey) := by
  unfold State.applyKey
  repeat' first
    | with_reducible assumption
    | (with_reducible first | apply State.wr64_keeps | apply State.setF_keeps | apply State.finishJobs_keeps)
    | simp -zeta only [Keeps.upd]
    | split

theorem State.discardPending_keeps {s0 : State} {s : State} (hK : Keeps s0 s) : Keeps s0 (s.discardPending) := by
  unfold State.discardPending
  repeat' first
    | with_reducible assumption
    | (with_reducible first
        | apply Keeps.forEach | apply State.setF_keeps | apply State.discardGapJobs_keeps | intro _ _ _ | intro _ _)
    | simp -zeta only [Keeps.upd]

theorem State.setDev_keeps {s0 : State} {s : State} {nxt : DevState} {cause : Nat} (hK : Keeps s0 s) :
    Keeps s0 (s.setDev nxt cause) := by
  unfold State.setDev
  repeat' first
    | with_reducible assumption
    | extract_lets +onlyGivenNames x
      first
      | have hx : Keeps s0 x := by
          dsimp -zeta only [x]
          repeat' first | with_reducible assumption | with_reducible apply State.wr_keeps | simp -zeta only [Keeps.upd]
        clear_value x
      | clear_value x
    | with_reducible apply State.wr_keeps
    | simp -zeta only [Keeps.upd]

theorem State.goto_keeps {s0 : State} {s : State} {nxt : DevState} {cause : Nat} (hK : Keeps s0 s) : Keeps s0 (s.goto nxt cause) := by
  unfold State.goto
  repeat' first
    | with_reducible assumption
    | (with_reducible first
        | apply State.leaveScanning_keeps | apply State.setDev_keeps | apply State.enterScanning_keeps
        | apply State.srvStart_keeps | apply State.srvStop_keeps | apply State.raise_keeps | apply State.recTrigger_keeps
        | apply State.refCheck_keeps | apply State.applyKey_keeps | apply Keeps.ite)
    | simp -zeta only [Keeps.upd]

theorem State.setCauses_keeps {s0 : State} {s : State} {codes : List Nat} (hK : Keeps s0 s) : Keeps s0 (s.setCauses codes) := by
  unfold State.setCauses
  repeat' first
    | with_reducible assumption
    | extract_lets +onlyGivenNames x
      first
      | have hx : Keeps s0 x := by
          dsimp -zeta only [x]
          repeat' first
            | with_reducible assumption
            | (with_reducible first | apply State.wr_keeps | apply Keeps.foldl | intro _ _ _ | intro _ _)
            | simp -zeta only [Keeps.upd]
            | split
        clear_value x
      | clear_value x
    | (with_reducible first | apply State.wr_keeps | apply Keeps.foldl | intro _ _ _ | intro _ _)
    | simp -zeta only [Keeps.upd]
    | split

theorem State.dropGuardReq_keeps {s0 : State} {s : State} (hK : Keeps s0 s) : Keeps s0 (s.dropGuardReq) := by
  unfold State.dropGuardReq
  repeat' first | with_reducible assumption | simp -zeta only [Keeps.upd]

theorem State.endWalk_keeps {s0 : State} {s : State} {reason : Nat} (hK : Keeps s0 s) : Keeps s0 (s.endWalk reason) := by
  unfold State.endWalk
  repeat' first
    | with_reducible assumption
    | (with_reducible first | apply State.dropGuardReq_keeps | apply State.setF_keeps | apply State.switches_keeps)
    | simp -zeta only [Keeps.upd]
    | split

theorem State.startTrip_keeps {s0 : State} {s : State} {first : Nat} (hK : Keeps s0 s) : Keeps s0 (s.startTrip first) := by
  unfold State.startTrip
  repeat' first
    | with_reducible assumption
    | (with_reducible first
        | apply State.addSat_keeps | apply State.setF_keeps | apply State.wr64_keeps | apply State.nvQueue_keeps
        | apply State.recTrigger_keeps | apply State.cutEmission_keeps | apply Keeps.ite)

theorem State.raiseSafety_keeps {s0 : State} {s : State} (hK : Keeps s0 s) : Keeps s0 (s.raiseSafety) := by
  unfold State.raiseSafety
  repeat' first | with_reducible assumption | with_reducible apply State.raise_keeps

theorem State.tripRow_keeps {s0 : State} {s : State} (hK : Keeps s0 s) : Keeps s0 (s.tripRow) := by
  unfold State.tripRow
  repeat' first | with_reducible assumption | (with_reducible first | apply State.goto_keeps | apply Keeps.ite)

theorem State.latchWith_keeps {s0 : State} {s : State} {codes : List Nat} {change : State → State} (hK : Keeps s0 s) (hchange
    : ∀ x0, Keeps s0 x0 → Keeps s0 (change x0)) :
    Keeps s0 (s.latchWith codes change) := by
  unfold State.latchWith
  repeat' first
    | with_reducible assumption
    | extract_lets +onlyGivenNames x
      first
      | have hx : Keeps s0 x := by
          dsimp -zeta only [x]
          repeat' first
            | with_reducible assumption
            | (with_reducible first
                | apply hchange | apply State.hgUpdate_keeps | apply State.setCauses_keeps | apply State.startTrip_keeps
                | apply State.endWalk_keeps | apply State.raiseSafety_keeps | apply Keeps.foldl | apply Keeps.ite | intro _ _ _
                | intro _ _)
            | split
        clear_value x
      | clear_value x
    | (with_reducible first
        | apply hchange | apply State.hgUpdate_keeps | apply State.setCauses_keeps | apply State.startTrip_keeps
        | apply State.endWalk_keeps | apply State.raiseSafety_keeps | apply Keeps.foldl | apply Keeps.ite | intro _ _ _
        | intro _ _)
    | split

theorem State.latch_keeps {s0 : State} {s : State} {codes : List Nat} (hK : Keeps s0 s) : Keeps s0 (s.latch codes) := by
  unfold State.latch
  repeat' first
    | with_reducible assumption
    | (with_reducible first | apply State.latchWith_keeps | apply State.tripRow_keeps | intro _ _ _ | intro _ _)

theorem State.unlatch_keeps {s0 : State} {s : State} {codes : List Nat} (hK : Keeps s0 s) : Keeps s0 (s.unlatch codes) := by
  unfold State.unlatch
  repeat' first
    | with_reducible assumption
    | (with_reducible first | apply State.hgUpdate_keeps | apply State.wr_keeps)

theorem State.enterFault_keeps {s0 : State} {s : State} {cause : Nat} (hK : Keeps s0 s) : Keeps s0 (s.enterFault cause) := by
  unfold State.enterFault
  repeat' first
    | with_reducible assumption
    | (with_reducible first
        | apply State.nvQueue_keeps | apply State.cutEmission_keeps | apply State.calAbandon_keeps | apply State.endWalk_keeps
        | apply State.discardPending_keeps | apply State.goto_keeps | apply State.latch_keeps | apply State.raise_keeps
        | apply Keeps.ite)
    | split

end Sys2Proof.Machine
end

