-- ==== Sys2Proof/Laws/KeepsHooks.lean ====
section
/-! SUPPORT. Every operation and meaning of Machine/Hooks.lean keeps the queue, the canonical forms and the order of time. -/

namespace Sys2Proof.Machine

open Reg

theorem State.openNat_keeps {s0 : State} {s : State} {place : Nat} (hK : Keeps s0 s) : Keeps s0 (s.openNat place).2 := by
  unfold State.openNat
  repeat' first | with_reducible assumption | with_reducible apply State.drawn_keeps

theorem State.openNat_keepsE {s0 : State} {s : State} {place : Nat} {rK} {tK : State} (eK : s.openNat place = (rK, tK)) (hK
    : Keeps s0 s) : Keeps s0 tK := by
  have qK : Keeps s0 (s.openNat place).2 := State.openNat_keeps hK
  rw [eK] at qK; exact qK

theorem State.setDch_keeps {s0 : State} {s : State} {c : Nat} {d : DmaCh} (hK : Keeps s0 s) : Keeps s0 (s.setDch c d) := by
  unfold State.setDch
  repeat' first | with_reducible assumption | simp -zeta only [Keeps.upd]

theorem State.dmaPend_keeps {s0 : State} {s : State} {c : Nat} (hK : Keeps s0 s) : Keeps s0 (s.dmaPend c) := by
  unfold State.dmaPend
  repeat' first
    | with_reducible assumption
    | (with_reducible first | apply State.addSat_keeps | apply State.setF_keeps | apply State.setDch_keeps | apply Keeps.ite)
    | simp -zeta only [Keeps.upd]

theorem State.dmaRequest_keeps {s0 : State} {s : State} {req : Nat} (hK : Keeps s0 s) : Keeps s0 (s.dmaRequest req) := by
  unfold State.dmaRequest
  repeat' first
    | with_reducible assumption
    | (with_reducible first | apply Keeps.forEach | apply State.dmaPend_keeps | apply Keeps.ite | intro _ _ _ | intro _ _)

theorem State.watermarks_keeps {s0 : State} {s : State} {req : Nat} (hK : Keeps s0 s) : Keeps s0 (s.watermarks req) := by
  unfold State.watermarks
  repeat' first
    | with_reducible assumption
    | (with_reducible first
        | apply Keeps.forEach | apply State.setF_keeps | apply State.setDch_keeps | apply Keeps.ite | intro _ _ _ | intro _ _)
    | simp -zeta only [Keeps.upd]

theorem State.dmaFills_keeps {s0 : State} {s : State} (hK : Keeps s0 s) : Keeps s0 (s.dmaFills) := by
  unfold State.dmaFills
  repeat' first | with_reducible assumption | with_reducible apply State.setF_keeps

theorem State.toQmon_keeps {s0 : State} {s : State} {kind : Nat} {code : Nat} {diff : Bool} {conv : Nat} {result : Int} (hK
    : Keeps s0 s) :
    Keeps s0 (s.toQmon kind code diff conv result) := by
  unfold State.toQmon
  repeat' first
    | with_reducible assumption
    | (with_reducible first
        | apply State.addSat_keeps | apply State.watermarks_keeps | apply State.dmaFills_keeps | apply Keeps.ite)
    | simp -zeta only [Keeps.upd]
    | split

theorem State.toQfilt_keeps {s0 : State} {s : State} {chain : Nat} {out : Int} {valid : Bool} (hK : Keeps s0 s) :
    Keeps s0 (s.toQfilt chain out valid) := by
  unfold State.toQfilt
  repeat' first
    | with_reducible assumption
    | (with_reducible first
        | apply State.addSat_keeps | apply State.watermarks_keeps | apply State.dmaFills_keeps | apply Keeps.ite)
    | simp -zeta only [Keeps.upd]
    | split

theorem State.dmaDrop_keeps {s0 : State} {s : State} {c : Nat} {status : Nat} {open_ : Bool} (hK : Keeps s0 s) :
    Keeps s0 (s.dmaDrop c status open_) := by
  unfold State.dmaDrop
  repeat' first
    | with_reducible assumption
    | (with_reducible first
        | apply State.setDch_keeps | apply State.setF_keeps | apply Keeps.forEach | apply State.openNat_keeps
        | apply State.openNat_keepsE (by assumption) | apply State.wr_keeps | apply Keeps.ite | intro _ _ _ | intro _ _)
    | split

theorem State.capture_keeps {s0 : State} {s : State} {src : Nat} {t : Nat} (hK : Keeps s0 s) : Keeps s0 (s.capture src t) := by
  unfold State.capture
  repeat' first
    | with_reducible assumption
    | (with_reducible first
        | apply Keeps.forEach | apply State.addSat_keeps | apply State.wr64_keeps | apply Keeps.ite | intro _ _ _ | intro _ _)

theorem State.frameEvent_keeps {s0 : State} {s : State} {src : Nat} {t : Nat} (hK : Keeps s0 s) : Keeps s0 (s.frameEvent src t) := by
  unfold State.frameEvent
  repeat' first | with_reducible assumption | with_reducible apply Keeps.ite | simp -zeta only [Keeps.upd]

theorem State.traceTrigger_keeps {s0 : State} {s : State} {src : Nat} (hK : Keeps s0 s) : Keeps s0 (s.traceTrigger src) := by
  unfold State.traceTrigger
  repeat' first | with_reducible assumption | with_reducible apply Keeps.ite | simp -zeta only [Keeps.upd]

theorem State.mirrorOut_keeps {s0 : State} {s : State} (hK : Keeps s0 s) : Keeps s0 (s.mirrorOut) := by
  unfold State.mirrorOut
  repeat' first
    | with_reducible assumption
    | (with_reducible first
        | apply State.traceTrigger_keeps | apply State.winOut_keeps | apply State.latch_keeps | apply Keeps.ite)

end Sys2Proof.Machine
end

