-- ==== Sys2Proof/Laws/KeepsOperands.lean ====
section
/-! SUPPORT. Every operation and meaning of Machine/Operands.lean keeps the queue, the canonical forms and the order of time. -/

namespace Sys2Proof.Machine

open Reg

theorem State.acceptCtr_keeps {s0 : State} {s : State} {q : Req} {pkt : List Byte} (hK : Keeps s0 s) :
    Keeps s0 (s.acceptCtr q pkt) := by
  unfold State.acceptCtr
  repeat' first
    | with_reducible assumption
    | with_reducible apply State.setSession_keeps
    | simp -zeta only [Keeps.upd]

theorem State.refuseEarly_keeps {s0 : State} {s : State} {q : Req} {opc : Nat} {status : Nat} {detail : Nat} (hK : Keeps s0 s) :
    Keeps s0 (s.refuseEarly q opc status detail) := by
  unfold State.refuseEarly
  repeat' first | with_reducible assumption | with_reducible apply State.answer_keeps

theorem State.authFail_keeps {s0 : State} {s : State} {q : Req} {opc : Nat} (hK : Keeps s0 s) : Keeps s0 (s.authFail q opc) := by
  unfold State.authFail
  repeat' first
    | with_reducible assumption
    | (with_reducible first | apply State.refuseEarly_keeps | apply State.addSat_keeps)

theorem State.enqueuePacket_keeps {s0 : State} {s : State} {q : Req} {opc : Nat} {payload : List Byte} (hK : Keeps s0 s) :
    Keeps s0 (s.enqueuePacket q opc payload) := by
  unfold State.enqueuePacket
  repeat' first
    | with_reducible assumption
    | (with_reducible first | apply State.reply_keeps | apply State.addSat_keeps | apply Keeps.ite)
    | simp -zeta only [Keeps.upd]

theorem State.acceptOpcode_keeps {s0 : State} {s : State} {q : Req} {opc : Nat} {payload : List Byte} (hK : Keeps s0 s) :
    Keeps s0 (s.acceptOpcode q opc payload) := by
  unfold State.acceptOpcode
  repeat' first
    | with_reducible assumption
    | (with_reducible first | apply State.reply_keeps | apply State.enqueuePacket_keeps | apply Keeps.ite)

theorem State.acceptAuth_keeps {s0 : State} {s : State} {q : Req} {opc : Nat} {pkt : List Byte} (hK : Keeps s0 s) :
    Keeps s0 (s.acceptAuth q opc pkt) := by
  unfold State.acceptAuth
  repeat' first
    | with_reducible assumption
    | (with_reducible first
        | apply State.authFail_keeps | apply State.deliver_keeps | apply State.acceptOpcode_keeps | apply State.acceptCtr_keeps
        | apply Keeps.ite)
    | split

theorem State.accept_keeps {s0 : State} {s : State} {via : Via} {pkt : List Byte} (hK : Keeps s0 s) :
    Keeps s0 (s.accept via pkt) := by
  unfold State.accept
  repeat' first
    | with_reducible assumption
    | (with_reducible first
        | apply State.addSat_keeps | apply State.refuseEarly_keeps | apply State.acceptAuth_keeps | apply State.authFail_keeps
        | apply State.acceptOpcode_keeps | apply Keeps.ite)
    | split

theorem execCommandPacketArrival_keeps {s0 : State} {via : Via} {packet : List Byte} {s : State} (hK : Keeps s0 s) :
    KeepsOut s0 (execCommandPacketArrival via packet s) := by
  unfold execCommandPacketArrival
  repeat' first
    | with_reducible assumption
    | (with_reducible first | apply KeepsOut.next | apply State.accept_keeps)

theorem State.rxStep_keeps {s0 : State} {s : State} (hK : Keeps s0 s) : Keeps s0 (s.rxStep) := by
  unfold State.rxStep
  repeat' first
    | with_reducible assumption
    | (with_reducible first | apply State.accept_keeps | apply Keeps.foldl | apply Keeps.ite | intro _ _ _ | intro _ _)
    | simp -zeta only [Keeps.upd]
    | split

theorem State.rxDrain_keeps {s0 : State} {s : State} (hK : Keeps s0 s) : Keeps s0 (s.rxDrain) := by
  unfold State.rxDrain
  repeat' first
    | with_reducible assumption
    | (with_reducible first | apply State.rxStep_keeps | apply Keeps.foldl | intro _ _ _ | intro _ _)

theorem State.dequeue_keeps {s0 : State} {s : State} {q : Req} {opc : Nat} {p : List Byte} (hK : Keeps s0 s) :
    Keeps s0 (s.dequeue q opc p) := by
  unfold State.dequeue
  repeat' first
    | with_reducible assumption
    | (with_reducible first | apply State.rxDrain_keeps | apply Keeps.ite)
    | simp -zeta only [Keeps.upd]
    | split

theorem State.command_keeps {s0 : State} {s : State} {q : Req} {opc : Nat} {p : List Byte} {body : State → State} (hK
    : Keeps s0 s) (hbody : ∀ x0, Keeps s0 x0 → Keeps s0 (body x0)) :
    Keeps s0 (s.command q opc p body) := by
  unfold State.command
  repeat' first
    | with_reducible assumption
    | (with_reducible first | apply hbody | apply State.dequeue_keeps | apply State.reply_keeps | apply Keeps.ite)

theorem checked_keeps {s0 : State} {q : Req} {opc : Nat} {p : List Byte} {len : Nat} {checks : State → List Check} {body
    : State → State} {s : State} (hK : Keeps s0 s) (hbody : ∀ x0, Keeps s0 x0 → Keeps s0 (body x0)) :
    Keeps s0 (checked q opc p len checks body s) := by
  unfold checked
  repeat' first
    | with_reducible assumption
    | (with_reducible first | apply hbody | apply State.badLength_keeps | apply State.reply_keeps | apply Keeps.ite)
    | split

theorem State.fixed_keeps {s0 : State} {s : State} {q : Req} {opc : Nat} {p : List Byte} {len : Nat} {checks
    : State → List Check} {body : State → State} (hK : Keeps s0 s) (hbody : ∀ x0, Keeps s0 x0 → Keeps s0 (body x0)) :
    Keeps s0 (s.fixed q opc p len checks body) := by
  unfold State.fixed
  repeat' first
    | with_reducible assumption
    | (with_reducible first | apply hbody | apply State.command_keeps | apply checked_keeps | intro _ _ _ | intro _ _)

end Sys2Proof.Machine
end

