-- ==== Sys2Proof/Laws/KeepsTime.lean ====
section
/-! SUPPORT. Every operation and meaning of Machine/Time.lean keeps the queue, the canonical forms and the order of time. -/

namespace Sys2Proof.Machine

open Reg

theorem State.setBase_keeps {s0 : State} {s : State} {x : Nat} {st : Nat} (hK : Keeps s0 s) : Keeps s0 (s.setBase x st) := by
  unfold State.setBase
  repeat' first | with_reducible assumption | with_reducible apply State.setF_keeps

theorem State.raiseTime_keeps {s0 : State} {s : State} {kind : Nat} {base : Nat} {value : Int} (hK : Keeps s0 s) :
    Keeps s0 (s.raiseTime kind base value) := by
  unfold State.raiseTime
  repeat' first | with_reducible assumption | with_reducible apply State.raise_keeps

theorem State.freqJudge_keeps {s0 : State} {s : State} {err : Int} (hK : Keeps s0 s) : Keeps s0 (s.freqJudge err) := by
  unfold State.freqJudge
  repeat' first
    | with_reducible assumption
    | extract_lets +onlyGivenNames x
      first
      | have hx : Keeps s0 x := by
          dsimp -zeta only [x]
          repeat' first
            | with_reducible assumption
            | (with_reducible first | apply State.setF_keeps | apply Keeps.ite | apply Keeps.now | apply Nat.le_add_right_of_le)
            | simp -zeta only [Keeps.upd]
            | split
            | apply Keeps.updTm
        clear_value x
      | have hx : s0.tm.now ≤ x.now := by
          dsimp -zeta only [x]
          repeat' first
            | with_reducible assumption
            | (with_reducible first | apply State.setF_keeps | apply Keeps.now | apply Nat.le_add_right_of_le)
        clear_value x
      | clear_value x
    | (with_reducible first | apply State.setF_keeps | apply Keeps.ite | apply Keeps.now | apply Nat.le_add_right_of_le)
    | simp -zeta only [Keeps.upd]
    | split
    | apply Keeps.updTm

theorem State.freqSteer_keeps {s0 s : State} {t : Int} (h : Keeps s0 s) : Keeps s0 (s.freqSteer t) := by
  have q : ∀ {y : State} {x b c : Int} {w : Word}, Keeps s0 y →
      Keeps s0 (if x = b ∧ c ≠ b then y else State.wr { y with tm := { y.tm with lastFreqAt := y.tm.now } } TIM_TBS_FREQ w) := by
    intro y x b c w hy
    apply Keeps.ite hy
    apply State.wr_keeps
    apply Keeps.updTm hy
    exact hy.now
  have hy := State.setF_keeps (a := TIM_TBS_DISC) (fld := TIM_TBS_DISC_HOLD) (v := 0)
    (State.freqJudge_keeps (err := (clampI (-858993) 858993 t - s.tbsFreq)) h)
  exact q hy

theorem State.freqHold_keeps {s0 : State} {s : State} (hK : Keeps s0 s) : Keeps s0 (s.freqHold) := by
  unfold State.freqHold
  repeat' first
    | with_reducible assumption
    | extract_lets +onlyGivenNames x
      first
      | have hx : Keeps s0 x := by
          dsimp -zeta only [x]
          repeat' first
            | with_reducible assumption
            | (with_reducible first | apply State.setF_keeps | apply Keeps.ite | apply Keeps.now | apply Nat.le_add_right_of_le)
            | simp -zeta only [Keeps.upd]
            | split
            | apply Keeps.updTm
        clear_value x
      | have hx : s0.tm.now ≤ x.now := by
          dsimp -zeta only [x]
          repeat' first
            | with_reducible assumption
            | (with_reducible first | apply State.setF_keeps | apply Keeps.now | apply Nat.le_add_right_of_le)
        clear_value x
      | clear_value x
    | (with_reducible first | apply State.setF_keeps | apply Keeps.ite | apply Keeps.now | apply Nat.le_add_right_of_le)
    | simp -zeta only [Keeps.upd]
    | split
    | apply Keeps.updTm

theorem State.discipline_keeps {s0 : State} {s : State} (hK : Keeps s0 s) : Keeps s0 (s.discipline) := by
  unfold State.discipline
  repeat' first
    | with_reducible assumption
    | (with_reducible first | apply State.freqHold_keeps | apply State.freqSteer_keeps | apply Keeps.ite)
    | split

theorem execTimeAnchor_keeps {s0 s : State} (h : Keeps s0 s) : KeepsOut s0 (execTimeAnchor s) := by
  unfold execTimeAnchor
  extract_lets +onlyGivenNames x k
  have hx : Keeps s0 x := State.at__keeps h
  clear_value x k
  apply State.discipline_keeps
  apply Keeps.updTm hx
  exact hx.now

theorem execPpsInEdge_keeps {s0 : State} {t : Nat} {s : State} (hK : Keeps s0 s) : KeepsOut s0 (execPpsInEdge t s) := by
  unfold execPpsInEdge
  repeat' first
    | with_reducible assumption
    | extract_lets +onlyGivenNames x
      first
      | have hx : Keeps s0 x := by
          dsimp -zeta only [x]
          repeat' first
            | with_reducible assumption
            | (with_reducible first
                | apply KeepsOut.next | apply KeepsOut.ite | apply State.capture_keeps | apply State.toTbs_keeps
                | apply State.freqSteer_keeps | intro _ _ | apply Keeps.ite | apply Keeps.now | apply Nat.le_add_right_of_le)
            | simp -zeta only [Keeps.upd]
            | split
            | apply Keeps.updTm
        clear_value x
      | have hx : s0.tm.now ≤ x.now := by
          dsimp -zeta only [x]
          repeat' first
            | with_reducible assumption
            | (with_reducible first
                | apply KeepsOut.next | apply KeepsOut.ite | apply State.capture_keeps | apply State.toTbs_keeps
                | apply State.freqSteer_keeps | intro _ _ | apply Keeps.now | apply Nat.le_add_right_of_le)
        clear_value x
      | clear_value x
    | (with_reducible first
        | apply KeepsOut.next | apply KeepsOut.ite | apply State.capture_keeps | apply State.toTbs_keeps
        | apply State.freqSteer_keeps | intro _ _ | apply Keeps.ite | apply Keeps.now | apply Nat.le_add_right_of_le)
    | simp -zeta only [Keeps.upd]
    | split
    | apply Keeps.updTm

theorem execTimeRead_keeps {s0 : State} {q : Req} {p : List Byte} {s : State} (hK : Keeps s0 s) :
    KeepsOut s0 (execTimeRead q p s) := by
  unfold execTimeRead
  repeat' first
    | with_reducible assumption
    | (with_reducible first | apply KeepsOut.next | apply State.fixed_keeps | apply State.replyOk_keeps | intro _ _ _ | intro _ _)

theorem State.netStepped_keeps {s0 : State} {s : State} {x : Nat} {v : Nat} (hK : Keeps s0 s) : Keeps s0 (s.netStepped x v) := by
  unfold State.netStepped
  repeat' first
    | with_reducible assumption
    | (with_reducible first | apply State.addSat_keeps | apply State.setBase_keeps | apply State.setNet_keeps)

theorem State.timeSetValue_keeps {s0 : State} {s : State} {tb : Nat} {a : Nat} {b : Nat} (hK : Keeps s0 s) :
    Keeps s0 (s.timeSetValue tb a b) := by
  unfold State.timeSetValue
  repeat' first
    | with_reducible assumption
    | extract_lets +onlyGivenNames x
      first
      | have hx : Keeps s0 x := by
          dsimp -zeta only [x]
          repeat' first
            | with_reducible assumption
            | (with_reducible first
                | apply State.netStepped_keeps | apply Keeps.ite | apply Keeps.now | apply Nat.le_add_right_of_le)
            | simp -zeta only [Keeps.upd]
            | split
            | apply Keeps.updTm
        clear_value x
      | have hx : s0.tm.now ≤ x.now := by
          dsimp -zeta only [x]
          repeat' first
            | with_reducible assumption
            | (with_reducible first | apply State.netStepped_keeps | apply Keeps.now | apply Nat.le_add_right_of_le)
        clear_value x
      | clear_value x
    | (with_reducible first | apply State.netStepped_keeps | apply Keeps.ite | apply Keeps.now | apply Nat.le_add_right_of_le)
    | simp -zeta only [Keeps.upd]
    | split
    | apply Keeps.updTm

theorem State.timeSetStep_keeps {s0 : State} {s : State} {tb : Nat} {a : Nat} (hK : Keeps s0 s) : Keeps s0 (s.timeSetStep tb a) := by
  unfold State.timeSetStep
  repeat' first
    | with_reducible assumption
    | extract_lets +onlyGivenNames x
      first
      | have hx : Keeps s0 x := by
          dsimp -zeta only [x]
          repeat' first
            | with_reducible assumption
            | (with_reducible first
                | apply State.netStepped_keeps | apply Keeps.ite | apply Keeps.now | apply Nat.le_add_right_of_le)
            | simp -zeta only [Keeps.upd]
            | split
            | apply Keeps.updTm
        clear_value x
      | have hx : s0.tm.now ≤ x.now := by
          dsimp -zeta only [x]
          repeat' first
            | with_reducible assumption
            | (with_reducible first | apply State.netStepped_keeps | apply Keeps.now | apply Nat.le_add_right_of_le)
        clear_value x
      | clear_value x
    | (with_reducible first | apply State.netStepped_keeps | apply Keeps.ite | apply Keeps.now | apply Nat.le_add_right_of_le)
    | simp -zeta only [Keeps.upd]
    | split
    | apply Keeps.updTm

theorem State.timeSetFreq_keeps {s0 : State} {s : State} {tb : Nat} {a : Nat} (hK : Keeps s0 s) : Keeps s0 (s.timeSetFreq tb a) := by
  unfold State.timeSetFreq
  repeat' first
    | with_reducible assumption
    | (with_reducible first | apply State.wr_keeps | apply State.setBase_keeps | apply State.setNet_keeps | apply Keeps.ite)

theorem State.timeSet_keeps {s0 : State} {s : State} {q : Req} {p : List Byte} (hK : Keeps s0 s) : Keeps s0 (s.timeSet q p) := by
  unfold State.timeSet
  repeat' first
    | with_reducible assumption
    | (with_reducible first
        | apply State.fixed_keeps | apply State.timeSetValue_keeps | apply State.timeSetStep_keeps | apply State.timeSetFreq_keeps
        | apply State.reply_keeps | apply State.discipline_keeps | intro _ _ _ | intro _ _)
    | split

theorem execTimeSetValue_keeps {s0 : State} {q : Req} {p : List Byte} {s : State} (hK : Keeps s0 s) :
    KeepsOut s0 (execTimeSetValue q p s) := by
  unfold execTimeSetValue
  repeat' first
    | with_reducible assumption
    | (with_reducible first | apply KeepsOut.next | apply State.timeSet_keeps)

theorem execTimeSetStep_keeps {s0 : State} {q : Req} {p : List Byte} {s : State} (hK : Keeps s0 s) :
    KeepsOut s0 (execTimeSetStep q p s) := by
  unfold execTimeSetStep
  repeat' first
    | with_reducible assumption
    | (with_reducible first | apply KeepsOut.next | apply State.timeSet_keeps)

theorem execTimeSetFrequency_keeps {s0 : State} {q : Req} {p : List Byte} {s : State} (hK : Keeps s0 s) :
    KeepsOut s0 (execTimeSetFrequency q p s) := by
  unfold execTimeSetFrequency
  repeat' first
    | with_reducible assumption
    | (with_reducible first | apply KeepsOut.next | apply State.timeSet_keeps)

theorem execPtpConfig_keeps {s0 : State} {q : Req} {p : List Byte} {s : State} (hK : Keeps s0 s) :
    KeepsOut s0 (execPtpConfig q p s) := by
  unfold execPtpConfig
  repeat' first
    | with_reducible assumption
    | (with_reducible first
        | apply KeepsOut.next | apply KeepsOut.ite | apply State.fixed_keeps | apply State.reply_keeps
        | apply State.discipline_keeps | apply State.wr_keeps | apply State.setPtp_keeps | apply Keeps.ite | intro _ _ _
        | intro _ _)

theorem execAsymSet_keeps {s0 : State} {q : Req} {p : List Byte} {s : State} (hK : Keeps s0 s) :
    KeepsOut s0 (execAsymSet q p s) := by
  unfold execAsymSet
  repeat' first
    | with_reducible assumption
    | (with_reducible first
        | apply KeepsOut.next | apply KeepsOut.ite | apply State.fixed_keeps | apply State.wr_keeps | apply State.setF_keeps
        | apply State.setBase_keeps | apply State.setPtp_keeps | apply State.reply_keeps | apply Keeps.ite | intro _ _ _
        | intro _ _)
    | simp -zeta only [Keeps.upd]

theorem State.word32_keeps {s0 : State} {s : State} {i : Int} (hK : Keeps s0 s) : Keeps s0 (s.word32 i).2 := by
  unfold State.word32
  repeat' first
    | with_reducible assumption
    | (with_reducible first | apply State.openNat_keeps | apply State.openNat_keepsE (by assumption) | apply Keeps.ite)
    | split

theorem State.word32_keepsE {s0 : State} {s : State} {i : Int} {rK} {tK : State} (eK : s.word32 i = (rK, tK)) (hK : Keeps s0 s)
    : Keeps s0 tK := by
  have qK : Keeps s0 (s.word32 i).2 := State.word32_keeps hK
  rw [eK] at qK; exact qK

theorem State.holdover_keeps {s0 : State} {s : State} {x : Nat} {cause : Nat} (hK : Keeps s0 s) : Keeps s0 (s.holdover x cause) := by
  unfold State.holdover
  repeat' first
    | with_reducible assumption
    | (with_reducible first
        | apply State.setF_keeps | apply State.setBase_keeps | apply State.setPtp_keeps | apply State.addSat_keeps)
    | simp -zeta only [Keeps.upd]

theorem State.ptpStep_keeps {s0 : State} {s : State} {x : Nat} {d : Int} (hK : Keeps s0 s) : Keeps s0 (s.ptpStep x d) := by
  unfold State.ptpStep
  repeat' first
    | with_reducible assumption
    | (with_reducible first | apply State.addSat_keeps | apply State.setNet_keeps)

theorem State.ptpSlew_keeps {s0 : State} {s : State} {x : Nat} {d : Int} (hK : Keeps s0 s) : Keeps s0 (s.ptpSlew x d) := by
  unfold State.ptpSlew
  repeat' first
    | with_reducible assumption
    | with_reducible apply State.setPtp_keeps
    | simp -zeta only [Keeps.upd]

theorem State.ptpTrack_keeps {s0 : State} {s : State} {x : Nat} {o : Int} (hK : Keeps s0 s) : Keeps s0 (s.ptpTrack x o) := by
  unfold State.ptpTrack
  repeat' first
    | with_reducible assumption
    | (with_reducible first
        | apply State.wr_keeps | apply State.setPtp_keeps | apply State.ptpSlew_keeps | apply State.setBase_keeps
        | apply Keeps.ite)
    | simp -zeta only [Keeps.upd]

theorem State.ptpOffset_keeps {s0 : State} {s : State} {x : Nat} {o : Int} (hK : Keeps s0 s) : Keeps s0 (s.ptpOffset x o) := by
  unfold State.ptpOffset
  repeat' first
    | with_reducible assumption
    | (with_reducible first
        | apply State.setPtp_keeps | apply State.ptpStep_keeps | apply State.setBase_keeps | apply State.ptpTrack_keeps
        | apply Keeps.ite)
    | simp -zeta only [Keeps.upd]

theorem State.ptpEnter_keeps {s0 : State} {s : State} {x : Nat} (hK : Keeps s0 s) : Keeps s0 (s.ptpEnter x) := by
  unfold State.ptpEnter
  repeat' first
    | with_reducible assumption
    | (with_reducible first | apply State.setPtp_keeps | apply State.setBase_keeps | apply State.setNet_keeps | apply Keeps.ite)
    | simp -zeta only [Keeps.upd]

theorem execPtpSync_keeps {s0 : State} {port : Port} {d : Int} {s : State} (hK : Keeps s0 s) :
    KeepsOut s0 (execPtpSync port d s) := by
  unfold execPtpSync
  repeat' first
    | with_reducible assumption
    | (with_reducible first
        | apply KeepsOut.next | apply KeepsOut.ite | apply State.setPtp_keeps | apply State.ptpEnter_keeps
        | apply State.word32_keeps | apply State.word32_keepsE (by assumption) | apply State.wr_keeps
        | apply State.discipline_keeps | apply State.ptpOffset_keeps | apply Keeps.ite)
    | simp -zeta only [Keeps.upd]
    | split

theorem State.mpdFilter_keeps {s0 : State} {s : State} {x : Nat} {raw : Int} {first : Bool} (hK : Keeps s0 s) :
    Keeps s0 (s.mpdFilter x raw first) := by
  unfold State.mpdFilter
  repeat' first
    | with_reducible assumption
    | (with_reducible first
        | apply State.word32_keeps | apply State.word32_keepsE (by assumption) | apply State.setPtp_keeps | apply State.wr_keeps
        | apply Keeps.ite)
    | simp -zeta only [Keeps.upd]
    | split

theorem execPtpDelayMeasurement_keeps {s0 : State} {port : Port} {ms : Int} {sm : Int} {ratio : Int} {s : State} (hK
    : Keeps s0 s) :
    KeepsOut s0 (execPtpDelayMeasurement port ms sm ratio s) := by
  unfold execPtpDelayMeasurement
  repeat' first
    | with_reducible assumption
    | (with_reducible first
        | apply KeepsOut.next | apply KeepsOut.ite | apply State.setPtp_keeps | apply State.mpdFilter_keeps
        | apply State.setBase_keeps | apply State.setF_keeps | apply State.holdover_keeps | apply State.discipline_keeps
        | apply State.raiseTime_keeps | apply Keeps.ite)
    | simp -zeta only [Keeps.upd]
    | split

theorem execPtpAnnounce_keeps {s0 : State} {port : Port} {dataset : List Byte} {s : State} (hK : Keeps s0 s) :
    KeepsOut s0 (execPtpAnnounce port dataset s) := by
  unfold execPtpAnnounce
  repeat' first
    | with_reducible assumption
    | extract_lets +onlyGivenNames x
      first
      | have hx : Keeps s0 x := by
          dsimp -zeta only [x]
          repeat' first
            | with_reducible assumption
            | (with_reducible first | apply KeepsOut.next | apply KeepsOut.ite | apply State.setPtp_keeps | apply Keeps.ite)
            | simp -zeta only [Keeps.upd]
            | split
        clear_value x
      | clear_value x
    | (with_reducible first | apply KeepsOut.next | apply KeepsOut.ite | apply State.setPtp_keeps | apply Keeps.ite)
    | simp -zeta only [Keeps.upd]
    | split

theorem execPtpMessageTimeout_keeps {s0 : State} {port : Port} {announce : Bool} {s : State} (hK : Keeps s0 s) :
    KeepsOut s0 (execPtpMessageTimeout port announce s) := by
  unfold execPtpMessageTimeout
  repeat' first
    | with_reducible assumption
    | extract_lets +onlyGivenNames x
      first
      | have hx : Keeps s0 x := by
          dsimp -zeta only [x]
          repeat' first
            | with_reducible assumption
            | (with_reducible first
                | apply KeepsOut.next | apply KeepsOut.ite | apply State.at__keeps | apply State.discipline_keeps
                | apply State.raiseTime_keeps | apply State.holdover_keeps | apply Keeps.ite)
            | split
        clear_value x
      | clear_value x
    | (with_reducible first
        | apply KeepsOut.next | apply KeepsOut.ite | apply State.at__keeps | apply State.discipline_keeps
        | apply State.raiseTime_keeps | apply State.holdover_keeps | apply Keeps.ite)
    | split

theorem State.sendPtp_keeps {s0 : State} {s : State} {p : Port} {typ : Nat} {msg : List Byte} (hK : Keeps s0 s) :
    Keeps s0 (s.sendPtp p typ msg) := by
  unfold State.sendPtp
  repeat' first | with_reducible assumption | with_reducible apply State.sendBody_keeps

theorem State.ptpSeq_keeps {s0 : State} {s : State} {x : Nat} (hK : Keeps s0 s) : Keeps s0 (s.ptpSeq x).2 := by
  unfold State.ptpSeq
  repeat' first
    | with_reducible assumption
    | with_reducible apply State.setPtp_keeps
    | simp -zeta only [Keeps.upd]

theorem State.ptpSeq_keepsE {s0 : State} {s : State} {x : Nat} {rK} {tK : State} (eK : s.ptpSeq x = (rK, tK)) (hK : Keeps s0 s)
    : Keeps s0 tK := by
  have qK : Keeps s0 (s.ptpSeq x).2 := State.ptpSeq_keeps hK
  rw [eK] at qK; exact qK

theorem execPtpMasterSend_keeps {s0 : State} {port : Port} {sync : Bool} {s : State} (hK : Keeps s0 s) :
    KeepsOut s0 (execPtpMasterSend port sync s) := by
  unfold execPtpMasterSend
  repeat' first
    | with_reducible assumption
    | (with_reducible first
        | apply KeepsOut.next | apply KeepsOut.ite | apply State.ptpSeq_keeps | apply State.ptpSeq_keepsE (by assumption)
        | apply State.sendPtp_keeps | apply Keeps.ite)
    | split

theorem execPtpDelayRequest_keeps {s0 : State} {port : Port} {s : State} (hK : Keeps s0 s) :
    KeepsOut s0 (execPtpDelayRequest port s) := by
  unfold execPtpDelayRequest
  repeat' first
    | with_reducible assumption
    | (with_reducible first
        | apply KeepsOut.next | apply KeepsOut.ite | apply State.ptpSeq_keeps | apply State.ptpSeq_keepsE (by assumption)
        | apply State.setPtp_keeps | apply State.sendPtp_keeps | apply Keeps.ite)
    | simp -zeta only [Keeps.upd]
    | split

theorem State.ptpFollow_keeps {s0 : State} {s : State} {p : Port} {msg : List Byte} (hK : Keeps s0 s) :
    Keeps s0 (s.ptpFollow p msg) := by
  unfold State.ptpFollow
  repeat' first | with_reducible assumption | with_reducible apply State.sendPtp_keeps | split

theorem State.ptpAnswer_keeps {s0 : State} {s : State} {p : Port} {msg : List Byte} (hK : Keeps s0 s) :
    Keeps s0 (s.ptpAnswer p msg) := by
  unfold State.ptpAnswer
  repeat' first
    | with_reducible assumption
    | (with_reducible first | apply State.sendPtp_keeps | apply Keeps.ite)
    | split

theorem execTimeCrossCheck_keeps {s0 s : State} (h : Keeps s0 s) : KeepsOut s0 (execTimeCrossCheck s) := by
  have q : ∀ {y : State} {run : Nat}, Keeps s0 y → Keeps s0 { y with tm := { y.tm with xchkRun := run } } := by
    intro y run hy
    apply Keeps.updTm hy
    exact hy.now
  unfold execTimeCrossCheck
  extract_lets +onlyGivenNames ok
  refine .ite (q h) ?_
  extract_lets +onlyGivenNames x d y run
  have hy : Keeps s0 y := State.setF_keeps (State.at__keeps h)
  clear_value run y d x ok
  exact .ite (State.raiseTime_keeps (State.setF_keeps (q hy))) (q hy)

theorem execPpsOutPulse_keeps {s0 : State} {s : State} (hK : Keeps s0 s) : KeepsOut s0 (execPpsOutPulse s) := by
  unfold execPpsOutPulse
  repeat' first
    | with_reducible assumption
    | extract_lets +onlyGivenNames x
      first
      | have hx : Keeps s0 x := by
          dsimp -zeta only [x]
          repeat' first
            | with_reducible assumption
            | (with_reducible first
                | apply KeepsOut.next | apply KeepsOut.ite | apply State.toNet_keeps | intro _ _ | apply Keeps.ite
                | apply Keeps.now | apply Nat.le_add_right_of_le)
            | simp -zeta only [Keeps.upd]
            | split
            | apply Keeps.updTm
        clear_value x
      | have hx : s0.tm.now ≤ x.now := by
          dsimp -zeta only [x]
          repeat' first
            | with_reducible assumption
            | (with_reducible first
                | apply KeepsOut.next | apply KeepsOut.ite | apply State.toNet_keeps | intro _ _ | apply Keeps.now
                | apply Nat.le_add_right_of_le)
        clear_value x
      | clear_value x
    | (with_reducible first
        | apply KeepsOut.next | apply KeepsOut.ite | apply State.toNet_keeps | intro _ _ | apply Keeps.ite | apply Keeps.now
        | apply Nat.le_add_right_of_le)
    | simp -zeta only [Keeps.upd]
    | split
    | apply Keeps.updTm

theorem State.evOutStart_keeps {s0 : State} {s : State} {k : Nat} (hK : Keeps s0 s) : Keeps s0 (s.evOutStart k) := by
  unfold State.evOutStart
  repeat' first
    | with_reducible assumption
    | extract_lets +onlyGivenNames x
      first
      | have hx : Keeps s0 x := by
          dsimp -zeta only [x]
          repeat' first
            | with_reducible assumption
            | (with_reducible first | apply State.setF_keeps | apply Keeps.ite | apply Keeps.now | apply Nat.le_add_right_of_le)
            | simp -zeta only [Keeps.upd]
            | split
            | apply Keeps.updTm
        clear_value x
      | have hx : s0.tm.now ≤ x.now := by
          dsimp -zeta only [x]
          repeat' first
            | with_reducible assumption
            | (with_reducible first | apply State.setF_keeps | apply Keeps.now | apply Nat.le_add_right_of_le)
        clear_value x
      | clear_value x
    | (with_reducible first | apply State.setF_keeps | apply Keeps.ite | apply Keeps.now | apply Nat.le_add_right_of_le)
    | simp -zeta only [Keeps.upd]
    | split
    | apply Keeps.updTm

theorem execTimedOutputPulse_keeps {s0 : State} {k : Nat} {s : State} (hK : Keeps s0 s) :
    KeepsOut s0 (execTimedOutputPulse k s) := by
  unfold execTimedOutputPulse
  repeat' first
    | with_reducible assumption
    | extract_lets +onlyGivenNames x
      first
      | have hx : Keeps s0 x := by
          dsimp -zeta only [x]
          repeat' first
            | with_reducible assumption
            | (with_reducible first
                | apply KeepsOut.next | apply KeepsOut.ite | apply State.toNet_keeps | intro _ _ | apply Keeps.ite
                | apply Keeps.now | apply Nat.le_add_right_of_le)
            | simp -zeta only [Keeps.upd]
            | split
            | apply Keeps.updTm
        clear_value x
      | have hx : s0.tm.now ≤ x.now := by
          dsimp -zeta only [x]
          repeat' first
            | with_reducible assumption
            | (with_reducible first
                | apply KeepsOut.next | apply KeepsOut.ite | apply State.toNet_keeps | intro _ _ | apply Keeps.now
                | apply Nat.le_add_right_of_le)
        clear_value x
      | clear_value x
    | (with_reducible first
        | apply KeepsOut.next | apply KeepsOut.ite | apply State.toNet_keeps | intro _ _ | apply Keeps.ite | apply Keeps.now
        | apply Nat.le_add_right_of_le)
    | simp -zeta only [Keeps.upd]
    | split
    | apply Keeps.updTm

theorem State.txtsLevel_keeps {s0 : State} {s : State} (hK : Keeps s0 s) : Keeps s0 (s.txtsLevel) := by
  unfold State.txtsLevel
  repeat' first | with_reducible assumption | with_reducible apply State.setF_keeps

theorem State.txtsPut_keeps {s0 : State} {s : State} {base : Nat} {entry : List Byte} (hK : Keeps s0 s) :
    Keeps s0 (s.txtsPut base entry) := by
  unfold State.txtsPut
  repeat' first
    | with_reducible assumption
    | extract_lets +onlyGivenNames x
      first
      | have hx : Keeps s0 x := by
          dsimp -zeta only [x]
          repeat' first
            | with_reducible assumption
            | (with_reducible first
                | apply State.txtsLevel_keeps | apply State.setF_keeps | apply State.addSat_keeps | apply State.raiseTime_keeps
                | apply Keeps.ite | apply Keeps.now | apply Nat.le_add_right_of_le)
            | simp -zeta only [Keeps.upd]
            | split
            | apply Keeps.updTm
        clear_value x
      | have hx : s0.tm.now ≤ x.now := by
          dsimp -zeta only [x]
          repeat' first
            | with_reducible assumption
            | (with_reducible first
                | apply State.txtsLevel_keeps | apply State.setF_keeps | apply State.addSat_keeps | apply State.raiseTime_keeps
                | apply Keeps.now | apply Nat.le_add_right_of_le)
        clear_value x
      | clear_value x
    | (with_reducible first
        | apply State.txtsLevel_keeps | apply State.setF_keeps | apply State.addSat_keeps | apply State.raiseTime_keeps
        | apply Keeps.ite | apply Keeps.now | apply Nat.le_add_right_of_le)
    | simp -zeta only [Keeps.upd]
    | split
    | apply Keeps.updTm

theorem execTxtsRead_keeps {s0 : State} {q : Req} {p : List Byte} {s : State} (hK : Keeps s0 s) :
    KeepsOut s0 (execTxtsRead q p s) := by
  unfold execTxtsRead
  repeat' first
    | with_reducible assumption
    | extract_lets +onlyGivenNames x
      first
      | have hx : Keeps s0 x := by
          dsimp -zeta only [x]
          repeat' first
            | with_reducible assumption
            | (with_reducible first
                | apply KeepsOut.next | apply KeepsOut.ite | apply State.fixed_keeps | apply State.txtsLevel_keeps
                | apply State.replyOk_keeps | intro _ _ | apply Keeps.ite | apply Keeps.now | apply Nat.le_add_right_of_le)
            | simp -zeta only [Keeps.upd]
            | split
            | apply Keeps.updTm
        clear_value x
      | have hx : s0.tm.now ≤ x.now := by
          dsimp -zeta only [x]
          repeat' first
            | with_reducible assumption
            | (with_reducible first
                | apply KeepsOut.next | apply KeepsOut.ite | apply State.fixed_keeps | apply State.txtsLevel_keeps
                | apply State.replyOk_keeps | intro _ _ | apply Keeps.now | apply Nat.le_add_right_of_le)
        clear_value x
      | clear_value x
    | (with_reducible first
        | apply KeepsOut.next | apply KeepsOut.ite | apply State.fixed_keeps | apply State.txtsLevel_keeps
        | apply State.replyOk_keeps | intro _ _ | apply Keeps.ite | apply Keeps.now | apply Nat.le_add_right_of_le)
    | simp -zeta only [Keeps.upd]
    | split
    | apply Keeps.updTm

theorem execLaunchConfig_keeps {s0 : State} {q : Req} {p : List Byte} {s : State} (hK : Keeps s0 s) :
    KeepsOut s0 (execLaunchConfig q p s) := by
  unfold execLaunchConfig
  repeat' first
    | with_reducible assumption
    | (with_reducible first
        | apply KeepsOut.next | apply State.fixed_keeps | apply State.reply_keeps | apply State.wr_keeps | intro _ _ _
        | intro _ _)
    | split

end Sys2Proof.Machine
end

