-- ==== Sys2Proof/Laws/KeepsPorts.lean ====
section
/-! SUPPORT. Every operation and meaning of Machine/Ports.lean keeps the queue, the canonical forms and the order of time. -/

namespace Sys2Proof.Machine

open Reg

theorem State.raisePort_keeps {s0 : State} {s : State} {p : Port} (hK : Keeps s0 s) : Keeps s0 (s.raisePort p) := by
  unfold State.raisePort
  repeat' first | with_reducible assumption | with_reducible apply State.raise_keeps

theorem State.strmFill_keeps {s0 : State} {s : State} (hK : Keeps s0 s) : Keeps s0 (s.strmFill) := by
  unfold State.strmFill
  repeat' first | with_reducible assumption | with_reducible apply State.setF_keeps

theorem State.freeFrame_keeps {s0 : State} {s : State} {e : TxEntry} (hK : Keeps s0 s) : Keeps s0 (s.freeFrame e) := by
  unfold State.freeFrame
  repeat' first
    | with_reducible assumption
    | with_reducible apply State.strmFill_keeps
    | simp -zeta only [Keeps.upd]
    | split

theorem State.settleSend_keeps {s0 : State} {s : State} {p : Port} (hK : Keeps s0 s) : Keeps s0 (s.settleSend p) := by
  unfold State.settleSend
  repeat' first
    | with_reducible assumption
    | extract_lets +onlyGivenNames x
      first
      | have hx : Keeps s0 x := by
          dsimp -zeta only [x]
          repeat' first
            | with_reducible assumption
            | (with_reducible first
                | apply State.setEth_keeps | apply State.freeFrame_keeps | apply State.addWrap_keeps | apply Keeps.ite)
            | simp -zeta only [Keeps.upd]
            | split
        clear_value x
      | clear_value x
    | (with_reducible first
        | apply State.setEth_keeps | apply State.freeFrame_keeps | apply State.addWrap_keeps | apply Keeps.ite)
    | simp -zeta only [Keeps.upd]
    | split

theorem State.creditSync_keeps {s0 : State} {s : State} {p : Port} (hK : Keeps s0 s) : Keeps s0 (s.creditSync p) := by
  unfold State.creditSync
  repeat' first
    | with_reducible assumption
    | with_reducible apply State.setEth_keeps
    | simp -zeta only [Keeps.upd]

theorem State.creditUse_keeps {s0 : State} {s : State} {p : Port} {dur : Nat} (hK : Keeps s0 s) : Keeps s0 (s.creditUse p dur) := by
  unfold State.creditUse
  repeat' first
    | with_reducible assumption
    | with_reducible apply State.setEth_keeps
    | simp -zeta only [Keeps.upd]

theorem State.startSend_keeps {s0 : State} {s : State} {p : Port} {e : TxEntry} (hK : Keeps s0 s) : Keeps s0 (s.startSend p e) := by
  unfold State.startSend
  repeat' first
    | with_reducible assumption
    | (with_reducible first
        | apply State.creditUse_keeps | apply State.creditSync_keeps | apply State.setEth_keeps | apply State.ptpFollow_keeps
        | apply Keeps.ite)
    | simp -zeta only [Keeps.upd]
    | split

theorem execFrameTransmit_keeps {s0 : State} {port : Port} {s : State} (hK : Keeps s0 s) :
    KeepsOut s0 (execFrameTransmit port s) := by
  unfold execFrameTransmit
  repeat' first
    | with_reducible assumption
    | extract_lets +onlyGivenNames x
      first
      | have hx : Keeps s0 x := by
          dsimp -zeta only [x]
          repeat' first
            | with_reducible assumption
            | (with_reducible first
                | apply KeepsOut.next | apply KeepsOut.ite | apply State.settleSend_keeps | apply State.at__keeps
                | apply State.startSend_keeps | apply Keeps.ite)
            | split
        clear_value x
      | clear_value x
    | (with_reducible first
        | apply KeepsOut.next | apply KeepsOut.ite | apply State.settleSend_keeps | apply State.at__keeps
        | apply State.startSend_keeps | apply Keeps.ite)
    | split

theorem State.launch_keeps {s0 : State} {s : State} {p : Port} {q : Nat} {e : TxEntry} {late : Bool} (hK : Keeps s0 s) :
    Keeps s0 (s.launch p q e late) := by
  unfold State.launch
  repeat' first
    | with_reducible assumption
    | (with_reducible first
        | apply State.freeFrame_keeps | apply State.addSat_keeps | apply State.setEth_keeps | apply State.txtsPut_keeps
        | apply State.startSend_keeps | apply Keeps.ite)
    | simp -zeta only [Keeps.upd]

theorem execTimedLaunch_keeps {s0 : State} {port : Port} {s : State} (hK : Keeps s0 s) : KeepsOut s0 (execTimedLaunch port s) := by
  unfold execTimedLaunch
  repeat' first
    | with_reducible assumption
    | (with_reducible first
        | apply KeepsOut.next | apply KeepsOut.ite | apply State.at__keeps | apply State.settleSend_keeps
        | apply State.launch_keeps | apply Keeps.ite)
    | split

theorem State.sendLldp_keeps {s0 : State} {s : State} {p : Port} {ttl : Nat} (hK : Keeps s0 s) : Keeps s0 (s.sendLldp p ttl) := by
  unfold State.sendLldp
  repeat' first
    | with_reducible assumption
    | (with_reducible first | apply State.setEth_keeps | apply State.sendBody_keeps)
    | simp -zeta only [Keeps.upd]

theorem execLldpTransmit_keeps {s0 : State} {port : Port} {s : State} (hK : Keeps s0 s) : KeepsOut s0 (execLldpTransmit port s) := by
  unfold execLldpTransmit
  repeat' first
    | with_reducible assumption
    | (with_reducible first
        | apply KeepsOut.next | apply KeepsOut.ite | apply State.at__keeps | apply State.sendLldp_keeps | apply Keeps.ite)

theorem State.nbrClear_keeps {s0 : State} {s : State} {p : Port} {e : Nat} (hK : Keeps s0 s) : Keeps s0 (s.nbrClear p e) := by
  unfold State.nbrClear
  repeat' first
    | with_reducible assumption
    | (with_reducible first | apply State.setEth_keeps | apply Keeps.forEach | apply State.wr_keeps | intro _ _ _ | intro _ _)
    | simp -zeta only [Keeps.upd]

theorem State.nbrLoad_keeps {s0 : State} {s : State} {p : Port} {e : Nat} {l : Lldp} (hK : Keeps s0 s) :
    Keeps s0 (s.nbrLoad p e l) := by
  unfold State.nbrLoad
  repeat' first
    | with_reducible assumption
    | (with_reducible first | apply State.setEth_keeps | apply State.wr_keeps | apply Keeps.forEach | intro _ _ _ | intro _ _)
    | simp -zeta only [Keeps.upd]

theorem State.neighbour_keeps {s0 : State} {s : State} {p : Port} {l : Lldp} (hK : Keeps s0 s) : Keeps s0 (s.neighbour p l) := by
  unfold State.neighbour
  repeat' first
    | with_reducible assumption
    | extract_lets +onlyGivenNames x
      first
      | have hx : Keeps s0 x := by
          dsimp -zeta only [x]
          repeat' first
            | with_reducible assumption
            | (with_reducible first
                | apply State.nbrClear_keeps | apply State.nbrLoad_keeps | apply State.addSat_keeps | apply Keeps.ite)
            | split
        clear_value x
      | clear_value x
    | (with_reducible first | apply State.nbrClear_keeps | apply State.nbrLoad_keeps | apply State.addSat_keeps | apply Keeps.ite)
    | split

theorem execNeighbourExpiry_keeps {s0 : State} {port : Port} {e : Nat} {s : State} (hK : Keeps s0 s) :
    KeepsOut s0 (execNeighbourExpiry port e s) := by
  unfold execNeighbourExpiry
  repeat' first
    | with_reducible assumption
    | (with_reducible first | apply KeepsOut.next | apply State.nbrClear_keeps | apply State.at__keeps)
    | split

theorem State.gainIp4_keeps {s0 : State} {s : State} {p : Port} {addr : Nat} (hK : Keeps s0 s) : Keeps s0 (s.gainIp4 p addr) := by
  unfold State.gainIp4
  repeat' first
    | with_reducible assumption
    | (with_reducible first | apply State.wr_keeps | apply State.setF_keeps | apply State.sendPrp_keeps | apply Keeps.ite)

theorem State.sendDhcp_keeps {s0 : State} {s : State} {p : Port} {m : Dhcp} (hK : Keeps s0 s) : Keeps s0 (s.sendDhcp p m) := by
  unfold State.sendDhcp
  repeat' first | with_reducible assumption | with_reducible apply State.sendPrp_keeps

theorem State.dhcpStart_keeps {s0 : State} {s : State} {p : Port} (hK : Keeps s0 s) : Keeps s0 (s.dhcpStart p) := by
  unfold State.dhcpStart
  repeat' first
    | with_reducible assumption
    | (with_reducible first | apply State.setEth_keeps | apply State.sendDhcp_keeps | apply State.gainIp4_keeps)
    | simp -zeta only [Keeps.upd]

theorem State.dhcpBind_keeps {s0 : State} {s : State} {p : Port} {addr : Nat} {pfx : Nat} {gw : Nat} {t1 : Nat} {t2 : Nat}
    {lease : Nat} (hK : Keeps s0 s) :
    Keeps s0 (s.dhcpBind p addr pfx gw t1 t2 lease) := by
  unfold State.dhcpBind
  repeat' first
    | with_reducible assumption
    | (with_reducible first | apply State.setEth_keeps | apply State.gainIp4_keeps | apply Keeps.ite)
    | simp -zeta only [Keeps.upd]

theorem State.dhcpReceive_keeps {s0 : State} {s : State} {p : Port} {m : Dhcp} (hK : Keeps s0 s) : Keeps s0 (s.dhcpReceive p m) := by
  unfold State.dhcpReceive
  repeat' first
    | with_reducible assumption
    | (with_reducible first
        | apply State.sendDhcp_keeps | apply State.setEth_keeps | apply State.dhcpBind_keeps | apply State.dhcpStart_keeps
        | apply Keeps.ite)
    | simp -zeta only [Keeps.upd]
    | split

theorem execDhcpLeaseTimer_keeps {s0 s : State} {port : Port} (h : Keeps s0 s) : KeepsOut s0 (execDhcpLeaseTimer port s) := by
  unfold execDhcpLeaseTimer
  extract_lets c x enter
  have ht : ∀ t n, Keeps s0 t → Keeps s0 (enter t n) := fun t n k => State.setEth_keeps k
  split
  · exact State.sendDhcp_keeps (ht _ _ (State.at__keeps h))
  · exact State.sendDhcp_keeps (ht _ _ (State.at__keeps h))
  · exact State.dhcpStart_keeps (State.at__keeps h)
  · exact h

theorem State.dadStart_keeps {s0 : State} {s : State} {p : Port} (hK : Keeps s0 s) : Keeps s0 (s.dadStart p) := by
  unfold State.dadStart
  repeat' first
    | with_reducible assumption
    | (with_reducible first
        | apply State.setF_keeps | apply State.setEth_keeps | apply Keeps.forEach | apply State.sendPrp_keeps | apply Keeps.ite
        | intro _ _ _ | intro _ _)
    | simp -zeta only [Keeps.upd]

theorem execDuplicateAddressDetection_keeps {s0 : State} {port : Port} {linkLocal : Bool} {duplicate : Bool} {s : State} (hK
    : Keeps s0 s) :
    KeepsOut s0 (execDuplicateAddressDetection port linkLocal duplicate s) := by
  unfold execDuplicateAddressDetection
  repeat' first
    | with_reducible assumption
    | (with_reducible first
        | apply KeepsOut.next | apply KeepsOut.ite | apply State.setEth_keeps | apply State.setF_keeps | apply Keeps.ite)
    | simp -zeta only [Keeps.upd]

theorem State.arpLearn_keeps {s0 : State} {s : State} {p : Port} {ip : Ip} {mac : Nat} (hK : Keeps s0 s) :
    Keeps s0 (s.arpLearn p ip mac) := by
  unfold State.arpLearn
  repeat' first
    | with_reducible assumption
    | (with_reducible first | apply State.setEth_keeps | apply Keeps.ite)
    | simp -zeta only [Keeps.upd]

theorem execArpRetry_keeps {s0 : State} {port : Port} {s : State} (hK : Keeps s0 s) : KeepsOut s0 (execArpRetry port s) := by
  unfold execArpRetry
  repeat' first
    | with_reducible assumption
    | extract_lets +onlyGivenNames x
      first
      | have hx : Keeps s0 x := by
          dsimp -zeta only [x]
          repeat' first
            | with_reducible assumption
            | (with_reducible first
                | apply KeepsOut.next | apply State.at__keeps | apply State.startResolve_keeps | apply State.setEth_keeps)
            | simp -zeta only [Keeps.upd]
            | split
        clear_value x
      | clear_value x
    | (with_reducible first
        | apply KeepsOut.next | apply State.at__keeps | apply State.startResolve_keeps | apply State.setEth_keeps)
    | simp -zeta only [Keeps.upd]
    | split

theorem execArpEntryAgeOut_keeps {s0 : State} {port : Port} {s : State} (hK : Keeps s0 s) :
    KeepsOut s0 (execArpEntryAgeOut port s) := by
  unfold execArpEntryAgeOut
  repeat' first
    | with_reducible assumption
    | (with_reducible first | apply KeepsOut.next | apply State.at__keeps | apply State.setEth_keeps)
    | simp -zeta only [Keeps.upd]
    | split

theorem State.flushPort_keeps {s0 : State} {s : State} {p : Port} (hK : Keeps s0 s) : Keeps s0 (s.flushPort p) := by
  unfold State.flushPort
  repeat' first
    | with_reducible assumption
    | (with_reducible first
        | apply State.settleSend_keeps | apply State.setEth_keeps | apply Keeps.forEach | apply State.addSat_keeps
        | apply State.freeFrame_keeps | intro _ _ _ | intro _ _)
    | simp -zeta only [Keeps.upd]

theorem State.addressUp_keeps {s0 : State} {s : State} {p : Port} (hK : Keeps s0 s) : Keeps s0 (s.addressUp p) := by
  unfold State.addressUp
  repeat' first
    | with_reducible assumption
    | (with_reducible first
        | apply State.dhcpStart_keeps | apply State.gainIp4_keeps | apply State.setEth_keeps | apply State.dadStart_keeps
        | apply Keeps.ite)
    | simp -zeta only [Keeps.upd]

theorem execLinkUp_keeps {s0 : State} {port : Port} {speed : Nat} {s : State} (hK : Keeps s0 s) :
    KeepsOut s0 (execLinkUp port speed s) := by
  unfold execLinkUp
  repeat' first
    | with_reducible assumption
    | (with_reducible first
        | apply KeepsOut.next | apply KeepsOut.ite | apply State.setF_keeps | apply State.raisePort_keeps
        | apply State.addressUp_keeps | apply State.sendLldp_keeps | apply Keeps.ite)
    | split

theorem State.linkLost_keeps {s0 : State} {s : State} {p : Port} (hK : Keeps s0 s) : Keeps s0 (s.linkLost p) := by
  unfold State.linkLost
  repeat' first
    | with_reducible assumption
    | (with_reducible first
        | apply State.raisePort_keeps | apply State.setF_keeps | apply State.flushPort_keeps | apply Keeps.ite)

theorem execLinkDown_keeps {s0 : State} {port : Port} {s : State} (hK : Keeps s0 s) : KeepsOut s0 (execLinkDown port s) := by
  unfold execLinkDown
  repeat' first
    | with_reducible assumption
    | (with_reducible first | apply KeepsOut.next | apply State.linkLost_keeps)

theorem State.lldpLast_keeps {s0 : State} {s : State} {p : Port} (hK : Keeps s0 s) : Keeps s0 (s.lldpLast p) := by
  unfold State.lldpLast
  repeat' first
    | with_reducible assumption
    | (with_reducible first | apply State.addWrap_keeps | apply State.setEth_keeps | apply Keeps.ite)
    | simp -zeta only [Keeps.upd]

theorem execPrpSupervision_keeps {s0 : State} {s : State} (hK : Keeps s0 s) : KeepsOut s0 (execPrpSupervision s) := by
  unfold execPrpSupervision
  repeat' first
    | with_reducible assumption
    | (with_reducible first
        | apply KeepsOut.next | apply KeepsOut.ite | apply State.at__keeps | apply State.sendPrp_keeps | apply Keeps.ite)

theorem State.prpReceive_keeps {s0 : State} {s : State} {p : Port} {f : Frame} (hK : Keeps s0 s) :
    Keeps s0 (s.prpReceive p f).2 := by
  unfold State.prpReceive
  repeat' first
    | with_reducible assumption
    | extract_lets +onlyGivenNames x
      first
      | have hx : Keeps s0 x := by
          dsimp -zeta only [x]
          repeat' first
            | with_reducible assumption
            | (with_reducible first | apply State.addSat_keeps | apply Keeps.ite)
            | simp -zeta only [Keeps.upd]
            | split
        clear_value x
      | clear_value x
    | (with_reducible first | apply State.addSat_keeps | apply Keeps.ite)
    | simp -zeta only [Keeps.upd]
    | split

theorem State.prpReceive_keepsE {s0 : State} {s : State} {p : Port} {f : Frame} {rK} {tK : State} (eK : s.prpReceive p f =
    (rK, tK)) (hK : Keeps s0 s) : Keeps s0 tK := by
  have qK : Keeps s0 (s.prpReceive p f).2 := State.prpReceive_keeps hK
  rw [eK] at qK; exact qK

theorem State.echoReply_keeps {s0 : State} {s : State} {p : Port} {f : Frame} {src : Ip} {dst : Ip} {data : List Byte} (hK
    : Keeps s0 s) :
    Keeps s0 (s.echoReply p f src dst data) := by
  unfold State.echoReply
  repeat' first
    | with_reducible assumption
    | (with_reducible first | apply State.setEth_keeps | apply State.sendPrp_keeps | apply Keeps.ite)
    | simp -zeta only [Keeps.upd]

theorem State.dispatchFrame_keeps {s0 : State} {s : State} {p : Port} {f : Frame} (hK : Keeps s0 s) :
    Keeps s0 (s.dispatchFrame p f) := by
  unfold State.dispatchFrame
  repeat' first
    | with_reducible assumption
    | (with_reducible first
        | apply State.accept_keeps | apply State.arpLearn_keeps | apply State.sendPrp_keeps | apply State.echoReply_keeps
        | apply State.dhcpReceive_keeps | apply State.neighbour_keeps | apply State.ptpAnswer_keeps | apply Keeps.ite)
    | split

theorem State.filtered_keeps {s0 : State} {s : State} {p : Port} (hK : Keeps s0 s) : Keeps s0 (s.filtered p) := by
  unfold State.filtered
  repeat' first | with_reducible assumption | with_reducible apply State.addSat_keeps

theorem State.frameIn_keeps {s0 : State} {s : State} {p : Port} {f : Frame} (hK : Keeps s0 s) : Keeps s0 (s.frameIn p f) := by
  unfold State.frameIn
  repeat' first
    | with_reducible assumption
    | (with_reducible first
        | apply State.filtered_keeps | apply State.prpReceive_keeps | apply State.prpReceive_keepsE (by assumption)
        | apply State.dispatchFrame_keeps | apply State.addWrap_keeps | apply Keeps.ite)
    | split

theorem State.macIn_keeps {s0 : State} {s : State} {p : Port} {f : Frame} (hK : Keeps s0 s) : Keeps s0 (s.macIn p f) := by
  unfold State.macIn
  repeat' first
    | with_reducible assumption
    | (with_reducible first | apply State.addSat_keeps | apply State.frameIn_keeps | apply Keeps.ite)
    | split

theorem execFrameReceive_keeps {s0 : State} {port : Port} {frame : Frame} {s : State} (hK : Keeps s0 s) :
    KeepsOut s0 (execFrameReceive port frame s) := by
  unfold execFrameReceive
  repeat' first
    | with_reducible assumption
    | (with_reducible first | apply KeepsOut.next | apply State.macIn_keeps)

theorem execLldpduReceive_keeps {s0 : State} {port : Port} {frame : Frame} {s : State} (hK : Keeps s0 s) :
    KeepsOut s0 (execLldpduReceive port frame s) := by
  unfold execLldpduReceive
  repeat' first
    | with_reducible assumption
    | (with_reducible first | apply KeepsOut.next | apply State.macIn_keeps)
    | split

theorem State.portStart_keeps {s0 : State} {s : State} {p : Port} (hK : Keeps s0 s) : Keeps s0 (s.portStart p) := by
  unfold State.portStart
  repeat' first
    | with_reducible assumption
    | (with_reducible first
        | apply State.setEth_keeps | apply State.openNat_keeps | apply State.openNat_keepsE (by assumption)
        | apply State.setF_keeps | apply State.wr_keeps | apply Keeps.foldl | intro _ _ _ | intro _ _)
    | simp -zeta only [Keeps.upd]
    | split

theorem State.portRej_keeps {s0 : State} {s : State} {p : Port} (hK : Keeps s0 s) : Keeps s0 (s.portRej p) := by
  unfold State.portRej
  repeat' first | with_reducible assumption | with_reducible apply State.setF_keeps

theorem State.portCtrl_keeps {s0 : State} {s : State} {p : Port} {w : Word} (hK : Keeps s0 s) : Keeps s0 (s.portCtrl p w).2 := by
  unfold State.portCtrl
  repeat' first
    | with_reducible assumption
    | extract_lets +onlyGivenNames x
      first
      | have hx : Keeps s0 x := by
          dsimp -zeta only [x]
          repeat' first
            | with_reducible assumption
            | (with_reducible first
                | apply State.portRej_keeps | apply State.portStart_keeps | apply State.wr_keeps | apply State.lldpLast_keeps
                | apply State.linkLost_keeps | apply Keeps.ite)
            | split
        clear_value x
      | clear_value x
    | (with_reducible first
        | apply State.portRej_keeps | apply State.portStart_keeps | apply State.wr_keeps | apply State.lldpLast_keeps
        | apply State.linkLost_keeps | apply Keeps.ite)
    | split

theorem State.portCtrl_keepsE {s0 : State} {s : State} {p : Port} {w : Word} {rK} {tK : State} (eK : s.portCtrl p w = (rK, tK))
    (hK : Keeps s0 s) : Keeps s0 tK := by
  have qK : Keeps s0 (s.portCtrl p w).2 := State.portCtrl_keeps hK
  rw [eK] at qK; exact qK

end Sys2Proof.Machine
end

