-- ==== Sys2Proof/Laws/KeepsStream.lean ====
section
/-! SUPPORT. Every operation and meaning of Machine/Stream.lean keeps the queue, the canonical forms and the order of time. -/

namespace Sys2Proof.Machine

open Reg

theorem State.openMsg_keeps {s0 : State} {s : State} {tfirst : Nat} {cont : Bool} (hK : Keeps s0 s) :
    Keeps s0 (s.openMsg tfirst cont) := by
  unfold State.openMsg
  repeat' first
    | with_reducible assumption
    | (with_reducible first | apply State.addWrap_keeps | apply State.strmFill_keeps | apply Keeps.ite)
    | simp -zeta only [Keeps.upd]

theorem State.queueMsg_keeps {s0 : State} {s : State} {p : Port} {id : Nat} {m : OpenMsg} {data : List Byte} (hK : Keeps s0 s) :
    Keeps s0 (s.queueMsg p id m data) := by
  unfold State.queueMsg
  repeat' first
    | with_reducible assumption
    | (with_reducible first | apply State.creditSync_keeps | apply State.sendUdp_keeps | apply Keeps.ite)
    | simp -zeta only [Keeps.upd]
    | split

theorem State.closeMsg_keeps {s0 : State} {s : State} {split : Bool} (hK : Keeps s0 s) : Keeps s0 (s.closeMsg split) := by
  unfold State.closeMsg
  repeat' first
    | with_reducible assumption
    | (with_reducible first
        | apply State.strmFill_keeps | apply Keeps.forEach | apply State.queueMsg_keeps | apply Keeps.ite | intro _ _ _
        | intro _ _)
    | simp -zeta only [Keeps.upd]
    | split

theorem State.msgPut_keeps {s0 : State} {s : State} {b : List Byte} {cols : Nat} (hK : Keeps s0 s) : Keeps s0 (s.msgPut b cols) := by
  unfold State.msgPut
  repeat' first
    | with_reducible assumption
    | extract_lets +onlyGivenNames x
      first
      | have hx : Keeps s0 x := by
          dsimp -zeta only [x]
          repeat' first | with_reducible assumption | with_reducible apply Keeps.ite | simp -zeta only [Keeps.upd] | split
        clear_value x
      | clear_value x
    | with_reducible apply Keeps.ite
    | simp -zeta only [Keeps.upd]
    | split

theorem State.packRecords_keeps {s0 s : State} {hdr : List Byte} {t n : Nat} {r : List (List Byte)} (h : Keeps s0 s) :
    Keeps s0 (State.packRecords hdr t n r s) := by
  induction n generalizing s r with
  | zero => exact h
  | succ n ih => exact Keeps.ite (State.msgPut_keeps h) (ih (State.msgPut_keeps (State.openMsg_keeps (State.closeMsg_keeps (State.msgPut_keeps h)))))

theorem State.packColumn_keeps {s0 : State} {s : State} {hdr : List Byte} {recs : List (List Byte)} (hK : Keeps s0 s) :
    Keeps s0 (s.packColumn hdr recs) := by
  unfold State.packColumn
  repeat' first
    | with_reducible assumption
    | (with_reducible first
        | apply State.closeMsg_keeps | apply State.openMsg_keeps | apply State.packRecords_keeps | apply State.msgPut_keeps
        | apply Keeps.ite)

theorem execStreamMessageClose_keeps {s0 : State} {s : State} (hK : Keeps s0 s) : KeepsOut s0 (execStreamMessageClose s) := by
  unfold execStreamMessageClose
  repeat' first
    | with_reducible assumption
    | (with_reducible first | apply KeepsOut.next | apply State.closeMsg_keeps | apply State.at__keeps)
    | split

end Sys2Proof.Machine
end

