-- ==== Sys2Proof/Laws/KeepsTumbler.lean ====
section
/-! SUPPORT. Every operation and meaning of Machine/Tumbler.lean keeps the queue, the canonical forms and the order of time. -/

namespace Sys2Proof.Machine

open Reg

theorem State.rewidth_keeps {s0 : State} {s : State} {g : Nat} (hK : Keeps s0 s) : Keeps s0 (s.rewidth g) := by
  unfold State.rewidth
  repeat' first
    | with_reducible assumption
    | (with_reducible first | apply Keeps.forEach | apply State.setF_keeps | apply Keeps.ite | intro _ _ _ | intro _ _)

theorem State.latchSteps_keeps {s0 : State} {s : State} (hK : Keeps s0 s) : Keeps s0 (s.latchSteps) := by
  unfold State.latchSteps
  repeat' first
    | with_reducible assumption
    | extract_lets +onlyGivenNames x
      first
      | have hx : Keeps s0 x := by
          dsimp -zeta only [x]
          repeat' first
            | with_reducible assumption
            | (with_reducible first | apply Keeps.forEach | apply State.setF_keeps | intro _ _ _ | intro _ _)
            | simp -zeta only [Keeps.upd]
        clear_value x
      | clear_value x
    | (with_reducible first | apply Keeps.forEach | apply State.setF_keeps | intro _ _ _ | intro _ _)
    | simp -zeta only [Keeps.upd]

theorem State.gateGroup_keeps {s0 : State} {s : State} {end_ : Nat} {len : Nat} {g : Nat} (hK : Keeps s0 s) :
    Keeps s0 (s.gateGroup end_ len g) := by
  unfold State.gateGroup
  repeat' first
    | with_reducible assumption
    | (with_reducible first | apply Keeps.forEach | apply State.setF_keeps | apply Keeps.ite | intro _ _ _ | intro _ _)

theorem execDarkGateEnd_keeps {s0 : State} {s : State} (hK : Keeps s0 s) : KeepsOut s0 (execDarkGateEnd s) := by
  unfold execDarkGateEnd
  repeat' first
    | with_reducible assumption
    | (with_reducible first
        | apply KeepsOut.next | apply KeepsOut.ite | apply State.toTbs_keeps | apply Keeps.forEach | apply State.gateGroup_keeps
        | apply Keeps.ite | intro _ _ _ | intro _ _)
    | simp -zeta only [Keeps.upd]
    | split

theorem execFreeRunGate_keeps {s0 : State} {s : State} (hK : Keeps s0 s) : KeepsOut s0 (execFreeRunGate s) := by
  unfold execFreeRunGate
  repeat' first
    | with_reducible assumption
    | (with_reducible first | apply KeepsOut.next | apply KeepsOut.ite | apply State.at__keeps | apply Keeps.ite)
    | simp -zeta only [Keeps.upd]
    | split

theorem State.setPool_keeps {s0 : State} {s : State} {g : Nat} {l : List TEv} (hK : Keeps s0 s) : Keeps s0 (s.setPool g l) := by
  unfold State.setPool
  repeat' first | with_reducible assumption | simp -zeta only [Keeps.upd]

theorem State.toBank_keeps {s0 : State} {s : State} {e : Ev} (hK : Keeps s0 s) : Keeps s0 (s.toBank e) := by
  unfold State.toBank
  repeat' first
    | with_reducible assumption
    | (with_reducible first | apply State.addSat_keeps | apply Keeps.ite)
    | simp -zeta only [Keeps.upd]

theorem State.emit_keeps {s0 : State} {s : State} {e : Ev} (hK : Keeps s0 s) : Keeps s0 (s.emit e) := by
  unfold State.emit
  repeat' first
    | with_reducible assumption
    | (with_reducible first | apply State.toBank_keeps | apply State.recEvent_keeps | apply State.addWrap_keeps)

theorem State.reject_keeps {s0 : State} {s : State} {n : Nat} (hK : Keeps s0 s) : Keeps s0 (s.reject n) := by
  unfold State.reject
  repeat' first | with_reducible assumption | with_reducible apply State.addWrap_keeps

theorem execTumblerEventEntry_keeps {s0 : State} {n : Nat} {s : State} (hK : Keeps s0 s) :
    KeepsOut s0 (execTumblerEventEntry n s) := by
  unfold execTumblerEventEntry
  repeat' first
    | with_reducible assumption
    | (with_reducible first
        | apply KeepsOut.next | apply KeepsOut.ite | apply State.at__keeps | apply State.emit_keeps | apply State.addWrap_keeps
        | apply State.setPool_keeps | apply Keeps.ite)
    | simp -zeta only [Keeps.upd]
    | split

theorem execCoincidenceDecision_keeps {s0 : State} {p : Nat} {s : State} (hK : Keeps s0 s) :
    KeepsOut s0 (execCoincidenceDecision p s) := by
  unfold execCoincidenceDecision
  repeat' first
    | with_reducible assumption
    | extract_lets +onlyGivenNames x
      first
      | have hx : Keeps s0 x := by
          dsimp -zeta only [x]
          repeat' first
            | with_reducible assumption
            | (with_reducible first
                | apply KeepsOut.next | apply KeepsOut.ite | apply State.at__keeps | apply State.addSat_keeps
                | apply State.setPool_keeps | apply Keeps.forEach | apply State.reject_keeps | apply State.emit_keeps
                | apply Keeps.ite | intro _ _ _ | intro _ _)
            | simp -zeta only [Keeps.upd]
            | split
        clear_value x
      | clear_value x
    | (with_reducible first
        | apply KeepsOut.next | apply KeepsOut.ite | apply State.at__keeps | apply State.addSat_keeps | apply State.setPool_keeps
        | apply Keeps.forEach | apply State.reject_keeps | apply State.emit_keeps | apply Keeps.ite | intro _ _ _ | intro _ _)
    | simp -zeta only [Keeps.upd]
    | split

theorem execCandidateExpiry_keeps {s0 : State} {p : Nat} {s : State} (hK : Keeps s0 s) : KeepsOut s0 (execCandidateExpiry p s) := by
  unfold execCandidateExpiry
  repeat' first
    | with_reducible assumption
    | extract_lets +onlyGivenNames x
      first
      | have hx : Keeps s0 x := by
          dsimp -zeta only [x]
          repeat' first
            | with_reducible assumption
            | (with_reducible first
                | apply KeepsOut.next | apply State.at__keeps | apply State.reject_keeps | apply State.setPool_keeps)
            | split
        clear_value x
      | clear_value x
    | (with_reducible first | apply KeepsOut.next | apply State.at__keeps | apply State.reject_keeps | apply State.setPool_keeps)
    | split

end Sys2Proof.Machine
end

