-- ==== Sys2Proof/Laws/KeepsInput.lean ====
section
/-! SUPPORT. Every operation and meaning of Machine/Input.lean keeps the queue, the canonical forms and the order of time. -/

namespace Sys2Proof.Machine

open Reg

theorem State.writeEvent_keeps {s0 : State} {s : State} {e : Ev} (hK : Keeps s0 s) : Keeps s0 (s.writeEvent e) := by
  unfold State.writeEvent
  repeat' first
    | with_reducible assumption
    | (with_reducible first
        | apply State.addSat_keeps | apply State.setF_keeps | apply State.recEvent_keeps | apply State.wr64_keeps
        | apply State.addWrap_keeps | apply Keeps.ite)
    | simp -zeta only [Keeps.upd]

theorem State.finishPulse_keeps {s0 : State} {s : State} {n : Nat} {raw : Nat} {tot : Nat} {peak : Nat} {sat : Bool} {clamp
    : Bool} (hK : Keeps s0 s) :
    Keeps s0 (s.finishPulse n raw tot peak sat clamp) := by
  unfold State.finishPulse
  repeat' first
    | with_reducible assumption
    | (with_reducible first
        | apply State.setF_keeps | apply State.addSat_keeps | apply State.addWrap_keeps | apply State.writeEvent_keeps
        | apply Keeps.ite)
    | split

theorem execReturnLeadingEdge_keeps {s0 : State} {n : Nat} {c : Nat} {tap : Nat} {s : State} (hK : Keeps s0 s) :
    KeepsOut s0 (execReturnLeadingEdge n c tap s) := by
  unfold execReturnLeadingEdge
  repeat' first
    | with_reducible assumption
    | (with_reducible first
        | apply KeepsOut.next | apply KeepsOut.ite | apply State.toTbs_keeps | apply State.addSat_keeps | apply Keeps.ite)
    | simp -zeta only [Keeps.upd]
    | split

theorem execReturnTrailingEdge_keeps {s0 : State} {n : Nat} {c : Nat} {tap : Nat} {peak : Nat} {clamp : Bool} {s : State} (hK
    : Keeps s0 s) :
    KeepsOut s0 (execReturnTrailingEdge n c tap peak clamp s) := by
  unfold execReturnTrailingEdge
  repeat' first
    | with_reducible assumption
    | (with_reducible first
        | apply KeepsOut.next | apply KeepsOut.ite | apply State.toTbs_keeps | apply State.setF_keeps
        | apply State.finishPulse_keeps | apply Keeps.ite)
    | simp -zeta only [Keeps.upd]
    | split

theorem execTotSaturation_keeps {s0 : State} {n : Nat} {peak : Nat} {clamp : Bool} {s : State} (hK : Keeps s0 s) :
    KeepsOut s0 (execTotSaturation n peak clamp s) := by
  unfold execTotSaturation
  repeat' first
    | with_reducible assumption
    | (with_reducible first
        | apply KeepsOut.next | apply KeepsOut.ite | apply State.toTbs_keeps | apply State.finishPulse_keeps | apply Keeps.ite)
    | simp -zeta only [Keeps.upd]
    | split

theorem execRgndFault_keeps {s0 : State} {g : Nat} {present : Bool} {s : State} (hK : Keeps s0 s) :
    KeepsOut s0 (execRgndFault g present s) := by
  unfold execRgndFault
  repeat' first
    | with_reducible assumption
    | (with_reducible first
        | apply KeepsOut.next | apply KeepsOut.ite | apply Keeps.forEach | apply State.setF_keeps | apply Keeps.ite | intro _ _ _
        | intro _ _)
    | simp -zeta only [Keeps.upd]

theorem execDllUnlock_keeps {s0 : State} {q : Nat} {s : State} (hK : Keeps s0 s) : KeepsOut s0 (execDllUnlock q s) := by
  unfold execDllUnlock
  repeat' first
    | with_reducible assumption
    | (with_reducible first | apply KeepsOut.next | apply KeepsOut.ite | apply State.setF_keeps | apply Keeps.ite)
    | split

theorem execDllLockReturn_keeps {s0 : State} {q : Nat} {s : State} (hK : Keeps s0 s) : KeepsOut s0 (execDllLockReturn q s) := by
  unfold execDllLockReturn
  repeat' first
    | with_reducible assumption
    | (with_reducible first | apply KeepsOut.next | apply KeepsOut.ite | apply State.setF_keeps | apply Keeps.ite)
    | split

theorem State.tpiTrigger_keeps {s0 : State} {s : State} (hK : Keeps s0 s) : Keeps s0 (s.tpiTrigger) := by
  unfold State.tpiTrigger
  repeat' first
    | with_reducible assumption
    | with_reducible apply Keeps.ite
    | simp -zeta only [Keeps.upd]
    | split

theorem State.tpiGo_keeps {s0 : State} {s : State} (hK : Keeps s0 s) : Keeps s0 (s.tpiGo) := by
  unfold State.tpiGo
  repeat' first
    | with_reducible assumption
    | (with_reducible first | apply State.tpiTrigger_keeps | apply Keeps.ite)

theorem execTpiPeriodicTrigger_keeps {s0 : State} {s : State} (hK : Keeps s0 s) : KeepsOut s0 (execTpiPeriodicTrigger s) := by
  unfold execTpiPeriodicTrigger
  repeat' first
    | with_reducible assumption
    | (with_reducible first | apply KeepsOut.next | apply KeepsOut.ite | apply State.tpiTrigger_keeps | apply Keeps.ite)

theorem execTestPulseInjection_keeps {s0 : State} {s : State} (hK : Keeps s0 s) : KeepsOut s0 (execTestPulseInjection s) := by
  unfold execTestPulseInjection
  repeat' first
    | with_reducible assumption
    | (with_reducible first | apply KeepsOut.next | apply State.toTbs_keeps | apply State.addWrap_keeps)
    | simp -zeta only [Keeps.upd]
    | split

end Sys2Proof.Machine
end

