-- ==== Sys2Proof/Laws/KeepsFire.lean ====
section
/-! SUPPORT. Every operation and meaning of Machine/Fire.lean keeps the queue, the canonical forms and the order of time. -/

namespace Sys2Proof.Machine

open Reg

theorem State.allocAgain_keeps {s0 : State} {s : State} (hK : Keeps s0 s) : Keeps s0 (s.allocAgain) := by
  unfold State.allocAgain
  repeat' first
    | with_reducible assumption
    | with_reducible apply Keeps.ite
    | simp -zeta only [Keeps.upd]
    | split

theorem State.warpCopy_keeps {s0 : State} {s : State} (hK : Keeps s0 s) : Keeps s0 (s.warpCopy) := by
  unfold State.warpCopy
  repeat' first
    | with_reducible assumption
    | (with_reducible first
        | apply State.copyMem_keeps | apply State.addWrap_keeps | apply State.setF_keeps | apply State.wr_keeps
        | apply State.allocAgain_keeps)

theorem State.warpFail_keeps {s0 : State} {s : State} {r : Nat × Nat} (hK : Keeps s0 s) : Keeps s0 (s.warpFail r) := by
  unfold State.warpFail
  repeat' first | with_reducible assumption | with_reducible apply State.setF_keeps

theorem State.updColumn_keeps {s0 : State} {s : State} {serial : Nat} {g : Column → Column} (hK : Keeps s0 s) :
    Keeps s0 (s.updColumn serial g) := by
  unfold State.updColumn
  repeat' first | with_reducible assumption | with_reducible apply Keeps.ite | simp -zeta only [Keeps.upd]

theorem State.nextColumn_keeps {s0 : State} {s : State} {start : Nat} {period : Nat} (hK : Keeps s0 s) :
    Keeps s0 (s.nextColumn start period) := by
  unfold State.nextColumn
  repeat' first
    | with_reducible assumption
    | (with_reducible first | apply State.setF_keeps | apply Keeps.ite)
    | simp -zeta only [Keeps.upd]

theorem State.steal_keeps {s0 : State} {s : State} {e : WarpEntry} {n : Nat} (hK : Keeps s0 s) : Keeps s0 (s.steal e n).2.2 := by
  unfold State.steal
  repeat' first
    | with_reducible assumption
    | extract_lets +onlyGivenNames x
      first
      | have hx : Keeps s0 x := by
          dsimp -zeta only [x]
          repeat' first
            | with_reducible assumption
            | (with_reducible first | apply State.addSat_keeps | apply Keeps.ite)
            | simp -zeta only [Keeps.upd]
            | split
        clear_value x
      | clear_value x
    | (with_reducible first | apply State.addSat_keeps | apply Keeps.ite)
    | simp -zeta only [Keeps.upd]
    | split

theorem State.steal_keepsE {s0 : State} {s : State} {e : WarpEntry} {n : Nat} {rK qK} {tK : State} (eK : s.steal e n =
    (rK, qK, tK)) (hK : Keeps s0 s) : Keeps s0 tK := by
  have qK : Keeps s0 (s.steal e n).2.2 := State.steal_keeps hK
  rw [eK] at qK; exact qK

theorem State.openRecords_keeps {s0 : State} {s : State} {c : Column} (hK : Keeps s0 s) : Keeps s0 (s.openRecords c) := by
  unfold State.openRecords
  repeat' first
    | with_reducible assumption
    | (with_reducible first
        | apply Keeps.forEach | apply State.clearMem_keeps | apply State.setBytes_keeps | intro _ _ _ | intro _ _)

theorem State.openFirstSat_keeps {s0 : State} {s : State} {set : Nat} (hK : Keeps s0 s) : Keeps s0 (s.openFirstSat set) := by
  unfold State.openFirstSat
  repeat' first
    | with_reducible assumption
    | (with_reducible first | apply Keeps.forEach | apply State.setBytes_keeps | intro _ _ _ | intro _ _)

theorem execColumnStart_keeps {s0 : State} {t : Nat} {s : State} (hK : Keeps s0 s) : KeepsOut s0 (execColumnStart t s) := by
  unfold execColumnStart
  repeat' first
    | with_reducible assumption
    | (with_reducible first
        | apply KeepsOut.next | apply KeepsOut.ite | apply State.toTbs_keeps | apply State.steal_keeps
        | apply State.steal_keepsE (by assumption) | apply State.nextColumn_keeps | apply State.addSat_keeps
        | apply State.setF_keeps | apply State.openFirstSat_keeps | apply State.openRecords_keeps | apply State.putSet_keeps
        | apply Keeps.ite)
    | simp -zeta only [Keeps.upd]
    | split

theorem State.notePeak_keeps {s0 : State} {s : State} {w : Nat} {cell : Nat} (hK : Keeps s0 s) : Keeps s0 (s.notePeak w cell) := by
  unfold State.notePeak
  repeat' first | with_reducible assumption | (with_reducible first | apply State.setF_keeps | apply Keeps.ite)

theorem State.addCharge_keeps {s0 : State} {s : State} {cell : Nat} {q : Nat} (hK : Keeps s0 s) : Keeps s0 (s.addCharge cell q) := by
  unfold State.addCharge
  repeat' first
    | with_reducible assumption
    | (with_reducible first | apply Keeps.forEach | apply State.notePeak_keeps | intro _ _ _ | intro _ _)
    | simp -zeta only [Keeps.upd]

theorem execExposureSubinterval_keeps {s0 : State} {w : Nat} {s : State} (hK : Keeps s0 s) :
    KeepsOut s0 (execExposureSubinterval w s) := by
  unfold execExposureSubinterval
  repeat' first
    | with_reducible assumption
    | (with_reducible first | apply KeepsOut.next | apply KeepsOut.ite | apply State.noteConds_keeps | apply Keeps.ite)
    | simp -zeta only [Keeps.upd]

theorem State.releaseColumn_keeps {s0 : State} {s : State} (hK : Keeps s0 s) : Keeps s0 (s.releaseColumn) := by
  unfold State.releaseColumn
  repeat' first
    | with_reducible assumption
    | (with_reducible first
        | apply State.release_keeps | apply Keeps.forEach | apply State.rewidth_keeps | intro _ _ _ | intro _ _)

theorem State.openWindows_keeps {s0 : State} {s : State} {h : Shot} (hK : Keeps s0 s) : Keeps s0 (s.openWindows h) := by
  unfold State.openWindows
  repeat' first
    | with_reducible assumption
    | extract_lets +onlyGivenNames x
      first
      | have hx : Keeps s0 x := by
          dsimp -zeta only [x]
          repeat' first
            | with_reducible assumption
            | (with_reducible first | apply Keeps.forEach | intro _ _ _ | intro _ _)
            | simp -zeta only [Keeps.upd]
        clear_value x
      | clear_value x
    | (with_reducible first | apply Keeps.forEach | intro _ _ _ | intro _ _)
    | simp -zeta only [Keeps.upd]

theorem State.firstShot_keeps {s0 : State} {s : State} {c : Column} (hK : Keeps s0 s) : Keeps s0 (s.firstShot c) := by
  unfold State.firstShot
  repeat' first
    | with_reducible assumption
    | (with_reducible first
        | apply State.openFirstSat_keeps | apply State.openRecords_keeps | apply State.putSet_keeps
        | apply State.latchSteps_keeps)

theorem State.shotNotice_keeps {s0 : State} {s : State} {h : Shot} (hK : Keeps s0 s) : Keeps s0 (s.shotNotice h) := by
  unfold State.shotNotice
  repeat' first
    | with_reducible assumption
    | (with_reducible first
        | apply State.maskRef_keeps | apply State.madEvent_keeps | apply State.recTrigger_keeps | apply Keeps.ite)

theorem State.fireShot_keeps {s0 : State} {s : State} {c : Column} {h : Shot} (hK : Keeps s0 s) : Keeps s0 (s.fireShot c h) := by
  unfold State.fireShot
  repeat' first
    | with_reducible assumption
    | (with_reducible first
        | apply State.firstShot_keeps | apply Keeps.forEach | apply State.addCharge_keeps | apply State.addWrap_keeps
        | apply State.shotNotice_keeps | apply State.openWindows_keeps | apply Keeps.ite | intro _ _ _ | intro _ _)
    | simp -zeta only [Keeps.upd]

theorem State.afterShot_keeps {s0 : State} {s : State} {c : Column} (hK : Keeps s0 s) : Keeps s0 (s.afterShot c) := by
  unfold State.afterShot
  repeat' first
    | with_reducible assumption
    | (with_reducible first | apply State.setF_keeps | apply State.nextColumn_keeps | apply Keeps.ite)
    | simp -zeta only [Keeps.upd]

theorem execShotFire_keeps {s0 : State} {s : State} (hK : Keeps s0 s) : KeepsOut s0 (execShotFire s) := by
  unfold execShotFire
  repeat' first
    | with_reducible assumption
    | (with_reducible first
        | apply KeepsOut.next | apply KeepsOut.ite | apply State.releaseColumn_keeps | apply State.toTbs_keeps
        | apply State.latch_keeps | apply State.addSat_keeps | apply State.fireShot_keeps | apply State.noteConds_keeps
        | apply State.afterShot_keeps | apply Keeps.ite)
    | simp -zeta only [Keeps.upd]
    | split

theorem execFrefEdge_keeps {s0 : State} {k : Nat} {c : Nat} {tap : Nat} {tot : Nat} {s : State} (hK : Keeps s0 s) :
    KeepsOut s0 (execFrefEdge k c tap tot s) := by
  unfold execFrefEdge
  repeat' first
    | with_reducible assumption
    | extract_lets +onlyGivenNames x
      first
      | have hx : Keeps s0 x := by
          dsimp -zeta only [x]
          repeat' first
            | with_reducible assumption
            | (with_reducible first
                | apply KeepsOut.next | apply KeepsOut.ite | apply State.toTbs_keeps | apply State.wr64_keeps
                | apply State.setF_keeps | apply State.latch_keeps | apply Keeps.ite)
            | simp -zeta only [Keeps.upd]
            | split
        clear_value x
      | clear_value x
    | (with_reducible first
        | apply KeepsOut.next | apply KeepsOut.ite | apply State.toTbs_keeps | apply State.wr64_keeps | apply State.setF_keeps
        | apply State.latch_keeps | apply Keeps.ite)
    | simp -zeta only [Keeps.upd]
    | split

theorem State.postCharge_keeps {s0 : State} {s : State} {h : Shot} {k : Nat} (hK : Keeps s0 s) : Keeps s0 (s.postCharge h k) := by
  unfold State.postCharge
  repeat' first
    | with_reducible assumption
    | (with_reducible first
        | apply Keeps.forEach | apply State.addCharge_keeps | apply State.latch_keeps | apply Keeps.ite | intro _ _ _ | intro _ _)

theorem State.tapShot_keeps {s0 : State} {s : State} {h : Shot} {fire : Nat} {miss : Bool} (hK : Keeps s0 s) :
    Keeps s0 (s.tapShot h fire miss) := by
  unfold State.tapShot
  repeat' first
    | with_reducible assumption
    | (with_reducible first | apply State.tapItem_keeps | apply Keeps.ite)

theorem State.passRecord_keeps {s0 : State} {s : State} {h : Shot} {fire : Nat} {tot : Nat} {miss : Bool} (hK : Keeps s0 s) :
    Keeps s0 (s.passRecord h fire tot miss) := by
  unfold State.passRecord
  repeat' first
    | with_reducible assumption
    | (with_reducible first
        | apply State.tapShot_keeps | apply State.updColumn_keeps | apply State.setF_keeps | apply State.addSat_keeps
        | apply Keeps.ite)
    | simp -zeta only [Keeps.upd]

theorem State.tallySkew_keeps {s0 : State} {s : State} {h : Shot} {hit : Option Nat} (hK : Keeps s0 s) :
    Keeps s0 (s.tallySkew h hit) := by
  unfold State.tallySkew
  repeat' first
    | with_reducible assumption
    | extract_lets +onlyGivenNames x
      first
      | have hx : Keeps s0 x := by
          dsimp -zeta only [x]
          repeat' first | with_reducible assumption | with_reducible apply Keeps.ite | simp -zeta only [Keeps.upd] | split
        clear_value x
      | clear_value x
    | with_reducible apply Keeps.ite
    | simp -zeta only [Keeps.upd]
    | split

theorem execFrefWindowClose_keeps {s0 s : State} {k : Nat} (hK : Keeps s0 s) : KeepsOut s0 (execFrefWindowClose k s) := by
  unfold execFrefWindowClose
  split
  · exact hK
  · rename_i w hw
    extract_lets +onlyGivenNames x y z0 z
    have hz : Keeps s0 z := Keeps.upd.2 (State.toTbs_keeps hK)
    clear_value z y
    split
    · exact hz
    · rename_i h hh
      extract_lets +onlyGivenNames pass
      have hp : ∀ {t f n m}, Keeps s0 t → Keeps s0 (pass t f n m) := fun ht => Keeps.ite (State.passRecord_keeps ht) ht
      clear_value pass
      apply KeepsOut.ite (KeepsOut.next (hp hz))
      split
      · exact State.tallySkew_keeps (hp hz)
      · apply State.noteConds_keeps
        apply State.tallySkew_keeps
        apply State.postCharge_keeps
        apply hp
        have hv := State.addSat_keeps (a := TDC_FREF_STAT k) (fld := TDC_FREF_STAT_MISS) (n := 1) hz
        exact Keeps.ite (State.setF_keeps (Keeps.upd.2 hv)) (Keeps.upd.2 hv)

theorem execColumnClose_keeps {s0 : State} {s : State} (hK : Keeps s0 s) : KeepsOut s0 (execColumnClose s) := by
  unfold execColumnClose
  repeat' first
    | with_reducible assumption
    | (with_reducible first
        | apply KeepsOut.next | apply KeepsOut.ite | apply State.toTbs_keeps | apply State.setF_keeps | apply State.putSet_keeps
        | apply Keeps.forEach | apply State.addSat_keeps | apply Keeps.ite | intro _ _ _ | intro _ _)
    | simp -zeta only [Keeps.upd]
    | split

theorem State.meetEvent_keeps {s0 : State} {s : State} {t : Nat} (hK : Keeps s0 s) : Keeps s0 (s.meetEvent t) := by
  unfold State.meetEvent
  repeat' first
    | with_reducible assumption
    | (with_reducible first | apply State.addSat_keeps | apply Keeps.ite)
    | simp -zeta only [Keeps.upd]
    | split

theorem execFrameStartEvent_keeps {s0 : State} {s : State} (hK : Keeps s0 s) : KeepsOut s0 (execFrameStartEvent s) := by
  unfold execFrameStartEvent
  repeat' first
    | with_reducible assumption
    | (with_reducible first
        | apply KeepsOut.next | apply KeepsOut.ite | apply State.meetEvent_keeps | apply State.at__keeps | apply Keeps.ite)
    | simp -zeta only [Keeps.upd]
    | split

theorem execScheduleSlot_keeps {s0 : State} {s : State} (hK : Keeps s0 s) : KeepsOut s0 (execScheduleSlot s) := by
  unfold execScheduleSlot
  repeat' first
    | with_reducible assumption
    | (with_reducible first
        | apply KeepsOut.next | apply KeepsOut.ite | apply State.toNet_keeps | apply State.frameEvent_keeps | apply Keeps.ite)
    | split

theorem State.fillCredits_keeps {s0 : State} {s : State} (hK : Keeps s0 s) : Keeps s0 (s.fillCredits) := by
  unfold State.fillCredits
  repeat' first | with_reducible assumption | simp -zeta only [Keeps.upd]

theorem State.takeCounts_keeps {s0 : State} {s : State} (hK : Keeps s0 s) : Keeps s0 (s.takeCounts) := by
  unfold State.takeCounts
  repeat' first
    | with_reducible assumption
    | (with_reducible first | apply State.setF_keeps | apply State.addSat_keeps | apply Keeps.ite)
    | simp -zeta only [Keeps.upd]
    | split

theorem State.gapCalStop_keeps {s0 : State} {s : State} (hK : Keeps s0 s) : Keeps s0 (s.gapCalStop) := by
  unfold State.gapCalStop
  repeat' first
    | with_reducible assumption
    | (with_reducible first | apply State.calAbandon_keeps | apply Keeps.ite)
    | split

theorem State.numberFrame_keeps {s0 : State} {s : State} {t : Nat} (hK : Keeps s0 s) : Keeps s0 (s.numberFrame t) := by
  unfold State.numberFrame
  repeat' first
    | with_reducible assumption
    | (with_reducible first | apply State.setF_keeps | apply State.addWrap_keeps | apply State.wr64_keeps | apply Keeps.ite)
    | split

theorem State.openFrame_keeps {s0 : State} {s : State} {t : Nat} (hK : Keeps s0 s) : Keeps s0 (s.openFrame t) := by
  unfold State.openFrame
  repeat' first
    | with_reducible assumption
    | with_reducible apply State.setF_keeps
    | simp -zeta only [Keeps.upd]

theorem State.driveSync_keeps {s0 : State} {s : State} (hK : Keeps s0 s) : Keeps s0 (s.driveSync) := by
  unfold State.driveSync
  repeat' first | with_reducible assumption | with_reducible apply Keeps.ite | simp -zeta only [Keeps.upd]

theorem State.clearFrameMM_keeps {s0 : State} {s : State} (hK : Keeps s0 s) : Keeps s0 (s.clearFrameMM) := by
  unfold State.clearFrameMM
  repeat' first
    | with_reducible assumption
    | (with_reducible first | apply Keeps.forEach | apply State.setF_keeps | intro _ _ _ | intro _ _)

theorem State.recStart_keeps {s0 : State} {s : State} {t : Nat} (hK : Keeps s0 s) : Keeps s0 (s.recStart t) := by
  unfold State.recStart
  repeat' first
    | with_reducible assumption
    | (with_reducible first | apply State.maskRef_keeps | apply State.recTrigger_keeps)

theorem State.startFrame_keeps {s0 : State} {s : State} {t : Nat} (hK : Keeps s0 s) : Keeps s0 (s.startFrame t) := by
  unfold State.startFrame
  repeat' first
    | with_reducible assumption
    | (with_reducible first
        | apply State.applyKey_keeps | apply State.numberFrame_keeps | apply State.gapCalStop_keeps
        | apply State.fillCredits_keeps | apply State.takeCounts_keeps | apply State.release_keeps | apply State.driveSync_keeps
        | apply State.openFrame_keeps | apply State.clearFrameMM_keeps | apply State.recStart_keeps | apply State.madEvent_keeps
        | apply State.traceTrigger_keeps | apply State.capture_keeps | apply State.dmaRequest_keeps)

theorem execFrameStart_keeps {s0 : State} {s : State} (hK : Keeps s0 s) : KeepsOut s0 (execFrameStart s) := by
  unfold execFrameStart
  repeat' first
    | with_reducible assumption
    | (with_reducible first
        | apply KeepsOut.next | apply KeepsOut.ite | apply State.startFrame_keeps | apply State.toTbs_keeps | apply Keeps.ite)
    | split

theorem State.allocate_keeps {s0 : State} {s : State} (hK : Keeps s0 s) : Keeps s0 (s.allocate) := by
  unfold State.allocate
  repeat' first
    | with_reducible assumption
    | extract_lets +onlyGivenNames x
      first
      | have hx : Keeps s0 x := by
          dsimp -zeta only [x]
          repeat' first
            | with_reducible assumption
            | (with_reducible first | apply State.setF_keeps | apply Keeps.foldl | apply Keeps.ite | intro _ _ _ | intro _ _)
            | simp -zeta only [Keeps.upd]
            | split
        clear_value x
      | clear_value x
    | (with_reducible first | apply State.setF_keeps | apply Keeps.foldl | apply Keeps.ite | intro _ _ _ | intro _ _)
    | simp -zeta only [Keeps.upd]
    | split

theorem State.allocMoment_keeps {s0 : State} {s : State} (hK : Keeps s0 s) : Keeps s0 (s.allocMoment) := by
  unfold State.allocMoment
  repeat' first | with_reducible assumption | with_reducible apply Keeps.ite | simp -zeta only [Keeps.upd]

end Sys2Proof.Machine
end

