-- ==== Sys2Proof/Laws/KeepsRecorder.lean ====
section
/-! SUPPORT. Every operation and meaning of Machine/Recorder.lean keeps the queue, the canonical forms and the order of time. -/

namespace Sys2Proof.Machine

open Reg

theorem State.setRec284_keeps {s0 : State} {s : State} {st : Nat} (hK : Keeps s0 s) : Keeps s0 (s.setRec284 st) := by
  unfold State.setRec284
  repeat' first | with_reducible assumption | with_reducible apply State.setF_keeps

theorem State.freeSeg_keeps {s0 : State} {s : State} {g : Nat} (hK : Keeps s0 s) : Keeps s0 (s.freeSeg g) := by
  unfold State.freeSeg
  repeat' first
    | with_reducible assumption
    | extract_lets +onlyGivenNames x
      first
      | have hx : Keeps s0 x := by
          dsimp -zeta only [x]
          repeat' first | with_reducible assumption | with_reducible apply State.wr_keeps | simp -zeta only [Keeps.upd]
        clear_value x
      | clear_value x
    | with_reducible apply State.wr_keeps
    | simp -zeta only [Keeps.upd]

theorem State.recNotice_keeps {s0 : State} {s : State} {kind : Nat} {which : Nat} {code : Nat} {t : Nat} (hK : Keeps s0 s) :
    Keeps s0 (s.recNotice kind which code t) := by
  unfold State.recNotice
  repeat' first | with_reducible assumption | with_reducible apply State.raise_keeps

theorem State.putUnit_keeps {s0 : State} {s : State} {b : List Byte} (hK : Keeps s0 s) : Keeps s0 (s.putUnit b) := by
  unfold State.putUnit
  repeat' first
    | with_reducible assumption
    | (with_reducible first | apply State.setBytes_keeps | apply State.wr_keeps | apply Keeps.ite)
    | simp -zeta only [Keeps.upd]

theorem State.putRecord_keeps {s0 : State} {s : State} {a : Nat} {b : Nat} (hK : Keeps s0 s) : Keeps s0 (s.putRecord a b) := by
  unfold State.putRecord
  repeat' first
    | with_reducible assumption
    | (with_reducible first | apply State.putUnit_keeps | apply Keeps.ite)

theorem State.putUnits_keeps {s0 s : State} {n : Nat} {b : List Byte} (h : Keeps s0 s) : Keeps s0 (State.putUnits n b s) := by
  induction n generalizing s b with
  | zero => exact h
  | succ n ih => exact Keeps.ite h (ih (State.putUnit_keeps h))

theorem State.putRow_keeps {s0 : State} {s : State} {b : List Byte} (hK : Keeps s0 s) : Keeps s0 (s.putRow b) := by
  unfold State.putRow
  repeat' first
    | with_reducible assumption
    | extract_lets +onlyGivenNames x
      first
      | have hx : Keeps s0 x := by
          dsimp -zeta only [x]
          repeat' first
            | with_reducible assumption
            | (with_reducible first | apply State.putUnits_keeps | apply Keeps.ite)
            | simp -zeta only [Keeps.upd]
        clear_value x
      | clear_value x
    | (with_reducible first | apply State.putUnits_keeps | apply Keeps.ite)
    | simp -zeta only [Keeps.upd]

theorem State.holdSegment_keeps {s0 : State} {s : State} {held : Nat} {cause : Nat} (hK : Keeps s0 s) :
    Keeps s0 (s.holdSegment held cause) := by
  unfold State.holdSegment
  repeat' first
    | with_reducible assumption
    | (with_reducible first | apply State.setF_keeps | apply State.recNotice_keeps)
    | simp -zeta only [Keeps.upd]

theorem execCaptureEnd_keeps {s0 : State} {s : State} (hK : Keeps s0 s) : KeepsOut s0 (execCaptureEnd s) := by
  unfold execCaptureEnd
  repeat' first
    | with_reducible assumption
    | (with_reducible first
        | apply KeepsOut.next | apply KeepsOut.ite | apply State.setRec284_keeps | apply State.holdSegment_keeps
        | apply Keeps.ite)

theorem State.fillSegment_keeps {s0 : State} {s : State} {g : Nat} (hK : Keeps s0 s) : Keeps s0 (s.fillSegment g) := by
  unfold State.fillSegment
  repeat' first
    | with_reducible assumption
    | extract_lets +onlyGivenNames x
      first
      | have hx : Keeps s0 x := by
          dsimp -zeta only [x]
          repeat' first
            | with_reducible assumption
            | (with_reducible first | apply State.wr_keeps | apply State.setRec284_keeps | apply State.setF_keeps)
            | simp -zeta only [Keeps.upd]
        clear_value x
      | clear_value x
    | (with_reducible first | apply State.wr_keeps | apply State.setRec284_keeps | apply State.setF_keeps)
    | simp -zeta only [Keeps.upd]

theorem execSegmentRestart_keeps {s0 : State} {s : State} (hK : Keeps s0 s) : KeepsOut s0 (execSegmentRestart s) := by
  unfold execSegmentRestart
  repeat' first
    | with_reducible assumption
    | (with_reducible first
        | apply KeepsOut.next | apply KeepsOut.ite | apply State.fillSegment_keeps | apply State.at__keeps | apply Keeps.ite)

theorem State.tapPreempt_keeps {s0 : State} {s : State} (hK : Keeps s0 s) : Keeps s0 (s.tapPreempt) := by
  unfold State.tapPreempt
  repeat' first | with_reducible assumption | (with_reducible first | apply State.setF_keeps | apply Keeps.ite)

theorem State.preReached_keeps {s0 : State} {s : State} (hK : Keeps s0 s) : Keeps s0 (s.preReached) := by
  unfold State.preReached
  repeat' first
    | with_reducible assumption
    | (with_reducible first | apply State.setRec284_keeps | apply Keeps.ite)

theorem State.recArm_keeps {s0 : State} {s : State} {w : List Nat} (hK : Keeps s0 s) : Keeps s0 (s.recArm w) := by
  unfold State.recArm
  repeat' first
    | with_reducible assumption
    | (with_reducible first
        | apply Keeps.forEach | apply State.freeSeg_keeps | apply State.wr_keeps | apply State.preReached_keeps
        | apply State.fillSegment_keeps | apply State.tapPreempt_keeps | apply Keeps.ite | intro _ _ _ | intro _ _)
    | simp -zeta only [Keeps.upd]
    | split

theorem execRecArm_keeps {s0 : State} {q : Req} {p : List Byte} {s : State} (hK : Keeps s0 s) : KeepsOut s0 (execRecArm q p s) := by
  unfold execRecArm
  repeat' first
    | with_reducible assumption
    | (with_reducible first
        | apply KeepsOut.next | apply State.fixed_keeps | apply State.reply_keeps | apply State.recArm_keeps | intro _ _ _
        | intro _ _)

theorem State.recDisarm_keeps {s0 : State} {s : State} (hK : Keeps s0 s) : Keeps s0 (s.recDisarm) := by
  unfold State.recDisarm
  repeat' first
    | with_reducible assumption
    | (with_reducible first
        | apply State.freeSeg_keeps | apply State.holdSegment_keeps | apply State.setF_keeps | apply State.setRec284_keeps
        | apply Keeps.ite)
    | simp -zeta only [Keeps.upd]

theorem execRecDisarm_keeps {s0 : State} {q : Req} {p : List Byte} {s : State} (hK : Keeps s0 s) :
    KeepsOut s0 (execRecDisarm q p s) := by
  unfold execRecDisarm
  repeat' first
    | with_reducible assumption
    | (with_reducible first
        | apply KeepsOut.next | apply State.fixed_keeps | apply State.reply_keeps | apply State.recDisarm_keeps | intro _ _ _
        | intro _ _)

theorem State.driveTrig_keeps {s0 : State} {s : State} (hK : Keeps s0 s) : Keeps s0 (s.driveTrig) := by
  unfold State.driveTrig
  repeat' first | with_reducible assumption | simp -zeta only [Keeps.upd]

theorem State.acceptTrigger_keeps {s0 : State} {s : State} {src : Nat} {t : Nat} (hK : Keeps s0 s) :
    Keeps s0 (s.acceptTrigger src t) := by
  unfold State.acceptTrigger
  repeat' first
    | with_reducible assumption
    | (with_reducible first
        | apply State.putRecord_keeps | apply State.setF_keeps | apply State.wr64_keeps | apply State.recNotice_keeps
        | apply State.setRec284_keeps | apply Keeps.ite)
    | simp -zeta only [Keeps.upd]

theorem State.meetTrigger_keeps {s0 : State} {s : State} {src : Nat} {t : Nat} (hK : Keeps s0 s) :
    Keeps s0 (s.meetTrigger src t).2 := by
  unfold State.meetTrigger
  repeat' first
    | with_reducible assumption
    | extract_lets +onlyGivenNames x
      first
      | have hx : Keeps s0 x := by
          dsimp -zeta only [x]
          repeat' first
            | with_reducible assumption
            | (with_reducible first
                | apply State.preReached_keeps | apply State.addSat_keeps | apply State.driveTrig_keeps
                | apply State.acceptTrigger_keeps | apply Keeps.ite)
            | split
        clear_value x
      | clear_value x
    | (with_reducible first
        | apply State.preReached_keeps | apply State.addSat_keeps | apply State.driveTrig_keeps | apply State.acceptTrigger_keeps
        | apply Keeps.ite)
    | split

theorem State.meetTrigger_keepsE {s0 : State} {s : State} {src : Nat} {t : Nat} {rK} {tK : State} (eK : s.meetTrigger src t =
    (rK, tK)) (hK : Keeps s0 s) : Keeps s0 tK := by
  have qK : Keeps s0 (s.meetTrigger src t).2 := State.meetTrigger_keeps hK
  rw [eK] at qK; exact qK

theorem execRecorderTrigger_keeps {s0 : State} {s : State} (hK : Keeps s0 s) : KeepsOut s0 (execRecorderTrigger s) := by
  unfold execRecorderTrigger
  repeat' first
    | with_reducible assumption
    | (with_reducible first
        | apply KeepsOut.next | apply State.meetTrigger_keeps | apply State.meetTrigger_keepsE (by assumption))
    | simp -zeta only [Keeps.upd]
    | split

theorem execRecTrigger_keeps {s0 : State} {q : Req} {p : List Byte} {s : State} (hK : Keeps s0 s) :
    KeepsOut s0 (execRecTrigger q p s) := by
  unfold execRecTrigger
  repeat' first
    | with_reducible assumption
    | (with_reducible first
        | apply KeepsOut.next | apply State.fixed_keeps | apply State.meetTrigger_keeps
        | apply State.meetTrigger_keepsE (by assumption) | apply State.reply_keeps | intro _ _ _ | intro _ _)
    | split

theorem execRecorderPreReached_keeps {s0 : State} {s : State} (hK : Keeps s0 s) : KeepsOut s0 (execRecorderPreReached s) := by
  unfold execRecorderPreReached
  repeat' first
    | with_reducible assumption
    | (with_reducible first | apply KeepsOut.next | apply State.preReached_keeps)

theorem State.takeItem_keeps {s0 : State} {s : State} (hK : Keeps s0 s) : Keeps s0 (s.takeItem) := by
  unfold State.takeItem
  repeat' first
    | with_reducible assumption
    | (with_reducible first | apply State.putRow_keeps | apply State.putRecord_keeps)
    | simp -zeta only [Keeps.upd]
    | split

theorem execRecorderItem_keeps {s0 : State} {s : State} (hK : Keeps s0 s) : KeepsOut s0 (execRecorderItem s) := by
  unfold execRecorderItem
  repeat' first
    | with_reducible assumption
    | (with_reducible first | apply KeepsOut.next | apply KeepsOut.ite | apply State.takeItem_keeps | apply Keeps.ite)

theorem State.gapRecord_keeps {s0 : State} {s : State} {stream : Nat} {l : Loss} (hK : Keeps s0 s) :
    Keeps s0 (s.gapRecord stream l) := by
  unfold State.gapRecord
  repeat' first | with_reducible assumption | with_reducible apply State.putRecord_keeps

theorem execLossEpisodeClose_keeps {s0 : State} {monitor : Bool} {s : State} (hK : Keeps s0 s) :
    KeepsOut s0 (execLossEpisodeClose monitor s) := by
  unfold execLossEpisodeClose
  repeat' first
    | with_reducible assumption
    | (with_reducible first
        | apply KeepsOut.next | apply KeepsOut.ite | apply State.at__keeps | apply State.gapRecord_keeps | apply Keeps.ite)
    | simp -zeta only [Keeps.upd]
    | split

theorem execRecorderMemoryCleared_keeps {s0 : State} {s : State} (hK : Keeps s0 s) : KeepsOut s0 (execRecorderMemoryCleared s) := by
  unfold execRecorderMemoryCleared
  repeat' first | with_reducible assumption | with_reducible apply KeepsOut.next | simp -zeta only [Keeps.upd]

theorem State.maskFail_keeps {s0 : State} {s : State} {x : MaskSample} {high : Bool} (hK : Keeps s0 s) :
    Keeps s0 (s.maskFail x high) := by
  unfold State.maskFail
  repeat' first
    | with_reducible assumption
    | (with_reducible first | apply State.addSat_keeps | apply State.wr_keeps)

theorem State.maskStop_keeps {s0 : State} {s : State} (hK : Keeps s0 s) : Keeps s0 (s.maskStop) := by
  unfold State.maskStop
  repeat' first
    | with_reducible assumption
    | (with_reducible first
        | apply State.setRec284_keeps | apply State.holdSegment_keeps | apply State.setF_keeps | apply Keeps.ite)

theorem State.maskViolation_keeps {s0 : State} {s : State} {x : MaskSample} {high : Bool} (hK : Keeps s0 s) :
    Keeps s0 (s.maskViolation x high) := by
  unfold State.maskViolation
  repeat' first
    | with_reducible assumption
    | (with_reducible first
        | apply State.addSat_keeps | apply State.putRecord_keeps | apply State.recNotice_keeps | apply State.meetTrigger_keeps
        | apply State.maskStop_keeps | apply Keeps.ite)

theorem State.maskTest_keeps {s0 : State} {s : State} {x : MaskSample} (hK : Keeps s0 s) : Keeps s0 (s.maskTest x) := by
  unfold State.maskTest
  repeat' first
    | with_reducible assumption
    | (with_reducible first | apply State.maskFail_keeps | apply State.maskViolation_keeps | apply Keeps.ite)
    | simp -zeta only [Keeps.upd]
    | split

theorem execMaskSampleTest_keeps {s0 : State} {s : State} (hK : Keeps s0 s) : KeepsOut s0 (execMaskSampleTest s) := by
  unfold execMaskSampleTest
  repeat' first
    | with_reducible assumption
    | (with_reducible first | apply KeepsOut.next | apply State.maskTest_keeps)
    | simp -zeta only [Keeps.upd]
    | split

theorem State.maskOn_keeps {s0 : State} {s : State} {m : Nat} (hK : Keeps s0 s) : Keeps s0 (s.maskOn m) := by
  unfold State.maskOn
  repeat' first | with_reducible assumption | simp -zeta only [Keeps.upd]

theorem execRecStatus_keeps {s0 : State} {q : Req} {p : List Byte} {s : State} (hK : Keeps s0 s) :
    KeepsOut s0 (execRecStatus q p s) := by
  unfold execRecStatus
  repeat' first
    | with_reducible assumption
    | (with_reducible first | apply KeepsOut.next | apply State.fixed_keeps | apply State.replyOk_keeps | intro _ _ _ | intro _ _)

theorem execRecRead_keeps {s0 : State} {q : Req} {p : List Byte} {s : State} (hK : Keeps s0 s) :
    KeepsOut s0 (execRecRead q p s) := by
  unfold execRecRead
  repeat' first
    | with_reducible assumption
    | (with_reducible first | apply KeepsOut.next | apply State.fixed_keeps | apply State.replyOk_keeps | intro _ _ _ | intro _ _)

end Sys2Proof.Machine
end

