-- ==== Sys2Proof/Laws/KeepsWindows.lean ====
section
/-! SUPPORT. Every operation and meaning of Machine/Windows.lean keeps the queue, the canonical forms and the order of time. -/

namespace Sys2Proof.Machine

open Reg

theorem State.histRead2_keeps {s0 : State} {s : State} {a : Nat} (hK : Keeps s0 s) : Keeps s0 (s.histRead2 a).2 := by
  unfold State.histRead2
  repeat' first
    | with_reducible assumption
    | extract_lets +onlyGivenNames x
      first
      | have hx : Keeps s0 x := by
          dsimp -zeta only [x]
          repeat' first | with_reducible assumption | (with_reducible first | apply State.addSat_keeps | apply Keeps.ite) | split
        clear_value x
      | clear_value x
    | (with_reducible first | apply State.addSat_keeps | apply Keeps.ite)
    | split

theorem State.histRead_keeps {s0 s : State} {a n : Nat} (h : Keeps s0 s) : Keeps s0 (s.histRead a n).2 := by
  induction n generalizing s a with
  | zero => exact h
  | succ n ih => have k := ih (a := a + 2) (State.histRead2_keeps (a := a) h); exact k

theorem State.histRead_keepsE {s0 : State} {y0 : State} {y1 : Nat} {y2 : Nat} {rK} {tK : State} (eK : y0.histRead y1 y2 =
    (rK, tK)) (hK : Keeps s0 y0) : Keeps s0 tK := by
  have qK : Keeps s0 (y0.histRead y1 y2).2 := State.histRead_keeps hK
  rw [eK] at qK; exact qK

theorem State.histWrite1_keeps {s0 : State} {s : State} {a : Nat} {b : Byte} (hK : Keeps s0 s) : Keeps s0 (s.histWrite1 a b) := by
  unfold State.histWrite1
  repeat' first
    | with_reducible assumption
    | extract_lets +onlyGivenNames x
      first
      | have hx : Keeps s0 x := by
          dsimp -zeta only [x]
          repeat' first
            | with_reducible assumption
            | (with_reducible first | apply State.setByte_keeps | apply Keeps.ite)
            | simp -zeta only [Keeps.upd]
        clear_value x
      | clear_value x
    | (with_reducible first | apply State.setByte_keeps | apply Keeps.ite)
    | simp -zeta only [Keeps.upd]

theorem State.packetRead_keeps {s0 : State} {s : State} {a : Nat} {n : Nat} (hK : Keeps s0 s) : Keeps s0 (s.packetRead a n).2 := by
  unfold State.packetRead
  repeat' first | with_reducible assumption | with_reducible apply State.drawn_keeps

theorem State.packetRead_keepsE {s0 : State} {s : State} {a : Nat} {n : Nat} {rK} {tK : State} (eK : s.packetRead a n =
    (rK, tK)) (hK : Keeps s0 s) : Keeps s0 tK := by
  have qK : Keeps s0 (s.packetRead a n).2 := State.packetRead_keeps hK
  rw [eK] at qK; exact qK

theorem State.winRead_keeps {s0 : State} {s : State} {a : Nat} {n : Nat} (hK : Keeps s0 s) : Keeps s0 (s.winRead a n).2 := by
  unfold State.winRead
  repeat' first
    | with_reducible assumption
    | (with_reducible first
        | apply State.histRead_keeps | apply State.histRead_keepsE (by assumption) | apply State.packetRead_keeps
        | apply State.packetRead_keepsE (by assumption) | apply Keeps.ite)
    | split

theorem State.winRead_keepsE {s0 : State} {s : State} {a : Nat} {n : Nat} {rK} {tK : State} (eK : s.winRead a n = (rK, tK)) (hK
    : Keeps s0 s) : Keeps s0 tK := by
  have qK : Keeps s0 (s.winRead a n).2 := State.winRead_keeps hK
  rw [eK] at qK; exact qK

theorem State.histWrite_keeps {s0 s : State} {a : Nat} {l : List Byte} (h : Keeps s0 s) : Keeps s0 (s.histWrite a l) := by
  induction l generalizing s a with
  | nil => exact h
  | cons b l ih => exact ih (State.histWrite1_keeps h)

theorem State.winWrite_keeps {s0 : State} {s : State} {a : Nat} {data : List Byte} (hK : Keeps s0 s) :
    Keeps s0 (s.winWrite a data) := by
  unfold State.winWrite
  repeat' first
    | with_reducible assumption
    | (with_reducible first | apply State.histWrite_keeps | apply State.setBytes_keeps | apply Keeps.ite)
    | split

end Sys2Proof.Machine
end

