-- ==== Sys2Proof/Laws/KeepsWeft.lean ====
section
/-! SUPPORT. Every operation and meaning of Machine/Weft.lean keeps the queue, the canonical forms and the order of time. -/

namespace Sys2Proof.Machine

open Reg

theorem State.putLink_keeps {s0 : State} {s : State} {l : Nat} {x : Link} (hK : Keeps s0 s) : Keeps s0 (s.putLink l x) := by
  unfold State.putLink
  repeat' first | with_reducible assumption | simp -zeta only [Keeps.upd]

theorem State.sendBlock_keeps {s0 : State} {s : State} {l : Nat} {b : List Byte} (hK : Keeps s0 s) : Keeps s0 (s.sendBlock l b) := by
  unfold State.sendBlock
  repeat' first
    | with_reducible assumption
    | with_reducible apply State.putLink_keeps
    | simp -zeta only [Keeps.upd]

theorem State.sendNow_keeps {s0 : State} {s : State} {l : Nat} {m : Msg} (hK : Keeps s0 s) : Keeps s0 (s.sendNow l m) := by
  unfold State.sendNow
  repeat' first
    | with_reducible assumption
    | (with_reducible first | apply State.addWrap_keeps | apply State.putLink_keeps | apply Keeps.ite)
    | simp -zeta only [Keeps.upd]

theorem State.sendMsg_keeps {s0 : State} {s : State} {l : Nat} {m : Msg} (hK : Keeps s0 s) : Keeps s0 (s.sendMsg l m) := by
  unfold State.sendMsg
  repeat' first
    | with_reducible assumption
    | (with_reducible first | apply State.putLink_keeps | apply State.sendNow_keeps | apply Keeps.ite)
    | simp -zeta only [Keeps.upd]
    | split

theorem State.sendDown_keeps {s0 : State} {s : State} {m : Msg} (hK : Keeps s0 s) : Keeps s0 (s.sendDown m) := by
  unfold State.sendDown
  repeat' first
    | with_reducible assumption
    | (with_reducible first | apply Keeps.forEach | apply State.sendMsg_keeps | intro _ _ _ | intro _ _)

theorem State.sendStatus_keeps {s0 : State} {s : State} (hK : Keeps s0 s) : Keeps s0 (s.sendStatus) := by
  unfold State.sendStatus
  repeat' first
    | with_reducible assumption
    | (with_reducible first | apply State.sendMsg_keeps | apply Keeps.ite)
    | simp -zeta only [Keeps.upd]

theorem State.raiseLink_keeps {s0 : State} {s : State} {kind : Nat} {l : Nat} {st : Nat} {qcause : Nat} {ix : Nat} (hK
    : Keeps s0 s) :
    Keeps s0 (s.raiseLink kind l st qcause ix) := by
  unfold State.raiseLink
  repeat' first | with_reducible assumption | with_reducible apply State.raise_keeps

theorem State.clearLanes_keeps {s0 : State} {s : State} {l : Nat} (hK : Keeps s0 s) : Keeps s0 (s.clearLanes l) := by
  unfold State.clearLanes
  repeat' first
    | with_reducible assumption
    | (with_reducible first | apply Keeps.forEach | apply State.setF_keeps | intro _ _ _ | intro _ _)

theorem State.moveLink_keeps {s0 : State} {s : State} {l : Nat} {st : Nat} (hK : Keeps s0 s) : Keeps s0 (s.moveLink l st) := by
  unfold State.moveLink
  repeat' first
    | with_reducible assumption
    | (with_reducible first | apply State.setF_keeps | apply State.putLink_keeps | apply State.clearLanes_keeps | apply Keeps.ite)
    | simp -zeta only [Keeps.upd]

theorem State.linkEvent_keeps {s0 : State} {s : State} {l : Nat} {old : Nat} {st : Nat} (hK : Keeps s0 s) :
    Keeps s0 (s.linkEvent l old st) := by
  unfold State.linkEvent
  repeat' first
    | with_reducible assumption
    | (with_reducible first | apply State.raiseLink_keeps | apply Keeps.ite)

theorem State.setLink_keeps {s0 : State} {s : State} {l : Nat} {st : Nat} (hK : Keeps s0 s) : Keeps s0 (s.setLink l st) := by
  unfold State.setLink
  repeat' first
    | with_reducible assumption
    | (with_reducible first | apply State.linkEvent_keeps | apply State.moveLink_keeps | apply Keeps.ite)

theorem State.setHops_keeps {s0 : State} {s : State} (hK : Keeps s0 s) : Keeps s0 (s.setHops) := by
  unfold State.setHops
  repeat' first | with_reducible assumption | (with_reducible first | apply State.setF_keeps | apply Keeps.ite)

theorem State.lostUp_keeps {s0 : State} {s : State} (hK : Keeps s0 s) : Keeps s0 (s.lostUp) := by
  unfold State.lostUp
  repeat' first
    | with_reducible assumption
    | (with_reducible first
        | apply State.setF_keeps | apply Keeps.forEach | apply State.setLink_keeps | apply Keeps.ite | intro _ _ _ | intro _ _)
    | split

theorem State.toLink_keeps {s0 : State} {s : State} {l : Nat} {st : Nat} (hK : Keeps s0 s) : Keeps s0 (s.toLink l st) := by
  unfold State.toLink
  repeat' first
    | with_reducible assumption
    | (with_reducible first
        | apply State.lostUp_keeps | apply State.setHops_keeps | apply State.setLink_keeps | apply State.sendStatus_keeps
        | apply Keeps.ite)

theorem State.startLink_keeps {s0 : State} {s : State} {l : Nat} (hK : Keeps s0 s) : Keeps s0 (s.startLink l) := by
  unfold State.startLink
  repeat' first
    | with_reducible assumption
    | (with_reducible first | apply State.toLink_keeps | apply Keeps.ite)

theorem State.wflCtrl_keeps {s0 : State} {s : State} {l : Nat} {w : Word} (hK : Keeps s0 s) : Keeps s0 (s.wflCtrl l w) := by
  unfold State.wflCtrl
  repeat' first
    | with_reducible assumption
    | (with_reducible first
        | apply State.setF_keeps | apply State.wr_keeps | apply State.startLink_keeps | apply State.toLink_keeps
        | apply Keeps.ite)

theorem State.linkPower_keeps {s0 : State} {s : State} {l : Nat} (hK : Keeps s0 s) : Keeps s0 (s.linkPower l) := by
  unfold State.linkPower
  repeat' first
    | with_reducible assumption
    | (with_reducible first | apply State.startLink_keeps | apply Keeps.ite)

theorem State.holdUnused_keeps {s0 : State} {s : State} (hK : Keeps s0 s) : Keeps s0 (s.holdUnused) := by
  unfold State.holdUnused
  repeat' first
    | with_reducible assumption
    | (with_reducible first | apply Keeps.forEach | apply State.toLink_keeps | apply Keeps.ite | intro _ _ _ | intro _ _)

theorem execTerminationDetect_keeps {s0 : State} {l : Nat} {found : Bool} {s : State} (hK : Keeps s0 s) :
    KeepsOut s0 (execTerminationDetect l found s) := by
  unfold execTerminationDetect
  repeat' first
    | with_reducible assumption
    | (with_reducible first
        | apply KeepsOut.next | apply KeepsOut.ite | apply State.at__keeps | apply State.putLink_keeps | apply State.toLink_keeps
        | apply Keeps.ite)
    | simp -zeta only [Keeps.upd]
    | split

theorem execLinkTrainingDone_keeps {s0 : State} {l : Nat} {ctle : List Nat} {s : State} (hK : Keeps s0 s) :
    KeepsOut s0 (execLinkTrainingDone l ctle s) := by
  unfold execLinkTrainingDone
  repeat' first
    | with_reducible assumption
    | (with_reducible first
        | apply KeepsOut.next | apply KeepsOut.ite | apply Keeps.forEach | apply State.setF_keeps | apply State.toLink_keeps
        | apply Keeps.ite | intro _ _ _ | intro _ _)
    | split

theorem execBlockLock_keeps {s0 : State} {l : Nat} {k : Nat} {lock : Bool} {bad : Nat} {stuff : Nat} {s : State} (hK
    : Keeps s0 s) :
    KeepsOut s0 (execBlockLock l k lock bad stuff s) := by
  unfold execBlockLock
  repeat' first
    | with_reducible assumption
    | (with_reducible first
        | apply KeepsOut.next | apply KeepsOut.ite | apply State.addSat_keeps | apply State.setF_keeps | apply State.toLink_keeps
        | apply Keeps.ite)
    | split

theorem execAlignReceive_keeps {s0 : State} {l : Nat} {count : Nat} {skew : List Nat} {s : State} (hK : Keeps s0 s) :
    KeepsOut s0 (execAlignReceive l count skew s) := by
  unfold execAlignReceive
  repeat' first
    | with_reducible assumption
    | (with_reducible first
        | apply KeepsOut.next | apply KeepsOut.ite | apply State.putLink_keeps | apply State.toLink_keeps | apply Keeps.forEach
        | apply State.setF_keeps | apply Keeps.ite | intro _ _ _ | intro _ _)
    | simp -zeta only [Keeps.upd]
    | split

theorem execLinkBringupTimeout_keeps {s0 : State} {l : Nat} {s : State} (hK : Keeps s0 s) :
    KeepsOut s0 (execLinkBringupTimeout l s) := by
  unfold execLinkBringupTimeout
  repeat' first
    | with_reducible assumption
    | (with_reducible first
        | apply KeepsOut.next | apply KeepsOut.ite | apply State.at__keeps | apply State.addSat_keeps | apply State.toLink_keeps
        | apply Keeps.ite)
    | split

theorem execLinkLockLoss_keeps {s0 : State} {l : Nat} {receiving : Bool} {s : State} (hK : Keeps s0 s) :
    KeepsOut s0 (execLinkLockLoss l receiving s) := by
  unfold execLinkLockLoss
  repeat' first
    | with_reducible assumption
    | (with_reducible first
        | apply KeepsOut.next | apply KeepsOut.ite | apply State.addSat_keeps | apply State.toLink_keeps | apply Keeps.ite)
    | split

theorem execRawtapActive_keeps {s0 : State} {l : Nat} {s : State} (hK : Keeps s0 s) : KeepsOut s0 (execRawtapActive l s) := by
  unfold execRawtapActive
  repeat' first
    | with_reducible assumption
    | (with_reducible first
        | apply KeepsOut.next | apply KeepsOut.ite | apply State.toLink_keeps | apply State.at__keeps | apply Keeps.ite)
    | split

theorem State.sendCapx_keeps {s0 : State} {s : State} {l : Nat} (hK : Keeps s0 s) : Keeps s0 (s.sendCapx l) := by
  unfold State.sendCapx
  repeat' first
    | with_reducible assumption
    | (with_reducible first | apply State.putLink_keeps | apply State.sendBlock_keeps | apply Keeps.ite)
    | simp -zeta only [Keeps.upd]

theorem execCapxSend_keeps {s0 : State} {l : Nat} {s : State} (hK : Keeps s0 s) : KeepsOut s0 (execCapxSend l s) := by
  unfold execCapxSend
  repeat' first
    | with_reducible assumption
    | (with_reducible first
        | apply KeepsOut.next | apply KeepsOut.ite | apply State.sendCapx_keeps | apply State.at__keeps | apply Keeps.ite)

theorem execCapxPairReceive_keeps {s0 : State} {l : Nat} {capx0 : List Byte} {capx1 : List Byte} {s : State} (hK : Keeps s0 s) :
    KeepsOut s0 (execCapxPairReceive l capx0 capx1 s) := by
  unfold execCapxPairReceive
  repeat' first
    | with_reducible assumption
    | (with_reducible first
        | apply KeepsOut.next | apply KeepsOut.ite | apply Keeps.forEach | apply State.wr_keeps | apply State.putLink_keeps
        | apply State.setF_keeps | apply State.lostUp_keeps | apply State.setHops_keeps | apply State.toLink_keeps
        | apply Keeps.ite | intro _ _ _ | intro _ _)
    | simp -zeta only [Keeps.upd]
    | split

theorem State.xoffSync_keeps {s0 : State} {s : State} {l : Nat} (hK : Keeps s0 s) : Keeps s0 (s.xoffSync l) := by
  unfold State.xoffSync
  repeat' first
    | with_reducible assumption
    | (with_reducible first | apply State.putLink_keeps | apply Keeps.ite)
    | simp -zeta only [Keeps.upd]
    | split

theorem State.xon_keeps {s0 : State} {s : State} {l : Nat} (hK : Keeps s0 s) : Keeps s0 (s.xon l) := by
  unfold State.xon
  repeat' first
    | with_reducible assumption
    | (with_reducible first
        | apply State.setF_keeps | apply State.putLink_keeps | apply Keeps.forEach | apply State.sendNow_keeps | intro _ _ _
        | intro _ _)
    | simp -zeta only [Keeps.upd]

theorem execControlBlockReceive_keeps {s0 : State} {l : Nat} {block : List Byte} {s : State} (hK : Keeps s0 s) :
    KeepsOut s0 (execControlBlockReceive l block s) := by
  unfold execControlBlockReceive
  repeat' first
    | with_reducible assumption
    | (with_reducible first
        | apply KeepsOut.next | apply KeepsOut.ite | apply State.addSat_keeps | apply State.xoffSync_keeps
        | apply State.setF_keeps | apply State.xon_keeps | apply Keeps.ite)
    | split

theorem execXoff_keeps {s0 : State} {l : Nat} {fill : Nat} {s : State} (hK : Keeps s0 s) : KeepsOut s0 (execXoff l fill s) := by
  unfold execXoff
  repeat' first
    | with_reducible assumption
    | (with_reducible first
        | apply KeepsOut.next | apply KeepsOut.ite | apply State.xoffSync_keeps | apply State.sendBlock_keeps
        | apply State.setF_keeps | apply Keeps.ite)
    | split

theorem execXoffHeldLong_keeps {s0 : State} {l : Nat} {s : State} (hK : Keeps s0 s) : KeepsOut s0 (execXoffHeldLong l s) := by
  unfold execXoffHeldLong
  repeat' first
    | with_reducible assumption
    | (with_reducible first | apply KeepsOut.next | apply State.setF_keeps | apply State.at__keeps)
    | split

theorem execIdleFreeze_keeps {s0 : State} {l : Nat} {k : Nat} {s : State} (hK : Keeps s0 s) :
    KeepsOut s0 (execIdleFreeze l k s) := by
  unfold execIdleFreeze
  repeat' first
    | with_reducible assumption
    | (with_reducible first | apply KeepsOut.next | apply KeepsOut.ite | apply State.setF_keeps | apply Keeps.ite)
    | split

theorem execKeepaliveSend_keeps {s0 : State} {l : Nat} {s : State} (hK : Keeps s0 s) : KeepsOut s0 (execKeepaliveSend l s) := by
  unfold execKeepaliveSend
  repeat' first
    | with_reducible assumption
    | (with_reducible first
        | apply KeepsOut.next | apply KeepsOut.ite | apply State.at__keeps | apply State.putLink_keeps
        | apply State.sendBlock_keeps | apply Keeps.ite)
    | simp -zeta only [Keeps.upd]
    | split

theorem State.unfreeze_keeps {s0 : State} {s : State} {l : Nat} {n : Nat} (hK : Keeps s0 s) : Keeps s0 (s.unfreeze l n) := by
  unfold State.unfreeze
  repeat' first
    | with_reducible assumption
    | (with_reducible first
        | apply State.openNat_keeps | apply State.openNat_keepsE (by assumption) | apply Keeps.forEach | apply State.setF_keeps
        | intro _ _ _ | intro _ _)
    | split

theorem execLinkStatus_keeps {s0 : State} {q : Req} {p : List Byte} {s : State} (hK : Keeps s0 s) :
    KeepsOut s0 (execLinkStatus q p s) := by
  unfold execLinkStatus
  repeat' first
    | with_reducible assumption
    | (with_reducible first | apply KeepsOut.next | apply State.fixed_keeps | apply State.replyOk_keeps | intro _ _ _ | intro _ _)

theorem execLinkTrain_keeps {s0 : State} {q : Req} {p : List Byte} {s : State} (hK : Keeps s0 s) :
    KeepsOut s0 (execLinkTrain q p s) := by
  unfold execLinkTrain
  repeat' first
    | with_reducible assumption
    | (with_reducible first
        | apply KeepsOut.next | apply State.fixed_keeps | apply Keeps.forEach | apply State.startLink_keeps
        | apply State.setF_keeps | apply State.reply_keeps | intro _ _ _ | intro _ _)

theorem execLinkRelease_keeps {s0 : State} {q : Req} {p : List Byte} {s : State} (hK : Keeps s0 s) :
    KeepsOut s0 (execLinkRelease q p s) := by
  unfold execLinkRelease
  repeat' first
    | with_reducible assumption
    | (with_reducible first
        | apply KeepsOut.next | apply State.fixed_keeps | apply State.reply_keeps | apply State.toLink_keeps
        | apply State.setF_keeps | intro _ _ _ | intro _ _)

theorem State.linkTest_keeps {s0 : State} {s : State} {q : Req} {p : List Byte} (hK : Keeps s0 s) : Keeps s0 (s.linkTest q p) := by
  unfold State.linkTest
  repeat' first
    | with_reducible assumption
    | (with_reducible first
        | apply State.fixed_keeps | apply State.addJob_keeps | apply State.reply_keeps | apply State.setF_keeps
        | apply Keeps.forEach | apply State.wr_keeps | apply State.toLink_keeps | apply State.putLink_keeps | apply Keeps.ite
        | intro _ _ _ | intro _ _)
    | simp -zeta only [Keeps.upd]

theorem execLinkTestPrbs_keeps {s0 : State} {q : Req} {p : List Byte} {s : State} (hK : Keeps s0 s) :
    KeepsOut s0 (execLinkTestPrbs q p s) := by
  unfold execLinkTestPrbs
  repeat' first
    | with_reducible assumption
    | (with_reducible first | apply KeepsOut.next | apply State.linkTest_keeps)

theorem execLinkTestMargin_keeps {s0 : State} {q : Req} {p : List Byte} {s : State} (hK : Keeps s0 s) :
    KeepsOut s0 (execLinkTestMargin q p s) := by
  unfold execLinkTestMargin
  repeat' first
    | with_reducible assumption
    | (with_reducible first | apply KeepsOut.next | apply State.linkTest_keeps)

theorem State.laneResult_keeps {s0 : State} {s : State} {l : Nat} {kind : Nat} {k : Nat} {a : Nat} {b : Nat} {c : Nat} (hK
    : Keeps s0 s) :
    Keeps s0 (s.laneResult l kind k a b c).2 := by
  unfold State.laneResult
  repeat' first
    | with_reducible assumption
    | extract_lets +onlyGivenNames x
      first
      | have hx : Keeps s0 x := by
          dsimp -zeta only [x]
          repeat' first
            | with_reducible assumption
            | (with_reducible first | apply State.setF_keeps | apply State.wr64_keeps | apply State.wr_keeps | apply Keeps.ite)
            | split
        clear_value x
      | clear_value x
    | (with_reducible first | apply State.setF_keeps | apply State.wr64_keeps | apply State.wr_keeps | apply Keeps.ite)
    | split

theorem State.laneResults_keeps {s0 : State} {l kind lanes : Nat} {r : List (Nat × Nat × Nat)} {ks : List Nat} {x : List Byte × State}
    (h : Keeps s0 x.2) : Keeps s0 (State.laneResults l kind lanes r ks x).2 := by
  induction ks generalizing x with
  | nil => exact h
  | cons k ks ih =>
    apply ih
    show Keeps s0 (if bit lanes k = true then _ else _ : List Byte × State).2
    split
    · exact State.laneResult_keeps h
    · exact h

theorem execLinkTestDone_keeps {s0 s : State} {l : Nat} {r : List (Nat × Nat × Nat)} (h : Keeps s0 s) : KeepsOut s0 (execLinkTestDone l r s) := by
  unfold execLinkTestDone
  split
  · exact h
  · rename_i kind lanes t e
    extract_lets +onlyGivenNames x y z w
    have hw : Keeps s0 w := State.setF_keeps (State.putLink_keeps (State.at__keeps h))
    clear_value w z y x
    have k := State.laneResults_keeps (l := l) (kind := kind) (lanes := lanes) (r := r) (ks := [0, 1, 2, 3]) (x := ([], w)) hw
    split
    rename_i d u e
    rw [e] at k
    extract_lets +onlyGivenNames v
    have hv : Keeps s0 v := Keeps.ite (State.toLink_keeps k) k
    exact State.finishJobs_keeps hv

theorem State.linkInject_keeps {s0 : State} {s : State} {l : Nat} {mask : Nat} (hK : Keeps s0 s) :
    Keeps s0 (s.linkInject l mask) := by
  unfold State.linkInject
  repeat' first
    | with_reducible assumption
    | (with_reducible first | apply State.putLink_keeps | apply Keeps.ite)
    | simp -zeta only [Keeps.upd]
    | split

theorem State.wflClear_keeps {s0 : State} {s : State} {l : Nat} (hK : Keeps s0 s) : Keeps s0 (s.wflClear l) := by
  unfold State.wflClear
  repeat' first
    | with_reducible assumption
    | (with_reducible first | apply Keeps.forEach | apply State.wr_keeps | apply State.setF_keeps | intro _ _ _ | intro _ _)

end Sys2Proof.Machine
end

