-- ==== Sys2Proof/Laws/KeepsCascade.lean ====
section
/-! SUPPORT. Every operation and meaning of Machine/Cascade.lean keeps the queue, the canonical forms and the order of time. -/

namespace Sys2Proof.Machine

open Reg

theorem State.receive_keeps {s0 : State} {s : State} {l : Nat} {m : Msg} {act : State → State} (hK : Keeps s0 s) (hact
    : ∀ x0, Keeps s0 x0 → Keeps s0 (act x0)) :
    Keeps s0 (s.receive l m act) := by
  unfold State.receive
  repeat' first
    | with_reducible assumption
    | (with_reducible first
        | apply hact | apply State.unfreeze_keeps | apply State.sendDown_keeps | apply State.sendMsg_keeps
        | apply State.addSat_keeps | apply State.addWrap_keeps | apply Keeps.ite)
    | split

theorem State.sendWarp_keeps {s0 : State} {s : State} (hK : Keeps s0 s) : Keeps s0 (s.sendWarp) := by
  unfold State.sendWarp
  repeat' first
    | with_reducible assumption
    | (with_reducible first | apply State.setF_keeps | apply State.sendDown_keeps | apply Keeps.ite)

theorem State.warpInstall_keeps {s0 : State} {s : State} (hK : Keeps s0 s) : Keeps s0 (s.warpInstall) := by
  unfold State.warpInstall
  repeat' first
    | with_reducible assumption
    | (with_reducible first | apply State.sendWarp_keeps | apply State.warpCopy_keeps)

theorem State.takeWarp_keeps {s0 : State} {s : State} {columns : Nat} {body : List Byte} (hK : Keeps s0 s) :
    Keeps s0 (s.takeWarp columns body) := by
  unfold State.takeWarp
  repeat' first
    | with_reducible assumption
    | extract_lets +onlyGivenNames x
      first
      | have hx : Keeps s0 x := by
          dsimp -zeta only [x]
          repeat' first
            | with_reducible assumption
            | (with_reducible first
                | apply State.setBytes_keeps | apply State.clearMem_keeps | apply State.warpFail_keeps | apply State.addWrap_keeps
                | apply State.setF_keeps | apply State.wr_keeps | apply Keeps.ite)
            | simp -zeta only [Keeps.upd]
            | split
        clear_value x
      | clear_value x
    | (with_reducible first
        | apply State.setBytes_keeps | apply State.clearMem_keeps | apply State.warpFail_keeps | apply State.addWrap_keeps
        | apply State.setF_keeps | apply State.wr_keeps | apply Keeps.ite)
    | simp -zeta only [Keeps.upd]
    | split

theorem execWarp_keeps {s0 : State} {l : Nat} {src : Nat} {dst : Nat} {hdr : List Byte} {body : List Byte} {crcOk : Bool} {s
    : State} (hK : Keeps s0 s) :
    KeepsOut s0 (execWarp l src dst hdr body crcOk s) := by
  unfold execWarp
  repeat' first
    | with_reducible assumption
    | (with_reducible first
        | apply KeepsOut.next | apply KeepsOut.ite | apply State.receive_keeps | apply State.sendStatus_keeps
        | apply State.takeWarp_keeps | apply Keeps.ite | intro _ _ _ | intro _ _)

theorem State.awaitCheck_keeps {s0 : State} {s : State} (hK : Keeps s0 s) : Keeps s0 (s.awaitCheck) := by
  unfold State.awaitCheck
  repeat' first
    | with_reducible assumption
    | extract_lets +onlyGivenNames x
      first
      | have hx : Keeps s0 x := by
          dsimp -zeta only [x]
          repeat' first
            | with_reducible assumption
            | (with_reducible first | apply State.setF_keeps | apply Keeps.ite)
            | simp -zeta only [Keeps.upd]
            | split
        clear_value x
      | clear_value x
    | (with_reducible first | apply State.setF_keeps | apply Keeps.ite)
    | simp -zeta only [Keeps.upd]
    | split

theorem State.sendFrame_keeps {s0 : State} {s : State} (hK : Keeps s0 s) : Keeps s0 (s.sendFrame) := by
  unfold State.sendFrame
  repeat' first
    | with_reducible assumption
    | (with_reducible first | apply State.sendDown_keeps | apply State.awaitCheck_keeps | apply Keeps.ite)
    | simp -zeta only [Keeps.upd]

theorem execFrame_keeps {s0 : State} {l : Nat} {src : Nat} {dst : Nat} {hdr : List Byte} {body : List Byte} {crcOk : Bool} {s
    : State} (hK : Keeps s0 s) :
    KeepsOut s0 (execFrame l src dst hdr body crcOk s) := by
  unfold execFrame
  repeat' first
    | with_reducible assumption
    | (with_reducible first
        | apply KeepsOut.next | apply KeepsOut.ite | apply State.receive_keeps | apply State.sendStatus_keeps | apply Keeps.ite
        | intro _ _ _ | intro _ _)
    | simp -zeta only [Keeps.upd]

theorem execFrameAckTimeout_keeps {s0 : State} {s : State} (hK : Keeps s0 s) : KeepsOut s0 (execFrameAckTimeout s) := by
  unfold execFrameAckTimeout
  repeat' first
    | with_reducible assumption
    | (with_reducible first
        | apply KeepsOut.next | apply State.at__keeps | apply State.addSat_keeps | apply State.setF_keeps | apply Keeps.forEach
        | apply State.raiseLink_keeps | intro _ _ _ | intro _ _)
    | simp -zeta only [Keeps.upd]
    | split

theorem execAllocation_keeps {s0 : State} {s : State} (hK : Keeps s0 s) : KeepsOut s0 (execAllocation s) := by
  unfold execAllocation
  repeat' first
    | with_reducible assumption
    | (with_reducible first
        | apply KeepsOut.next | apply KeepsOut.ite | apply State.allocate_keeps | apply State.sendFrame_keeps | apply Keeps.ite)
    | simp -zeta only [Keeps.upd]
    | split

theorem State.readyCheck_keeps {s0 : State} {s : State} (hK : Keeps s0 s) : Keeps s0 (s.readyCheck) := by
  unfold State.readyCheck
  repeat' first
    | with_reducible assumption
    | (with_reducible first | apply State.setF_keeps | apply State.raiseLink_keeps | apply Keeps.ite)

theorem State.noteMember_keeps {s0 : State} {s : State} {m : Nat} {x : Member} {room : List Byte} (hK : Keeps s0 s) :
    Keeps s0 (s.noteMember m x room) := by
  unfold State.noteMember
  repeat' first
    | with_reducible assumption
    | with_reducible apply State.setF_keeps
    | simp -zeta only [Keeps.upd]
    | split

theorem State.noteRefusal_keeps {s0 : State} {s : State} {m : Nat} {word : Nat} (hK : Keeps s0 s) :
    Keeps s0 (s.noteRefusal m word) := by
  unfold State.noteRefusal
  repeat' first
    | with_reducible assumption
    | (with_reducible first | apply State.setF_keeps | apply State.raiseLink_keeps | apply Keeps.ite)
    | split

theorem State.noteAck_keeps {s0 : State} {s : State} {m : Nat} {x : Member} (hK : Keeps s0 s) : Keeps s0 (s.noteAck m x) := by
  unfold State.noteAck
  repeat' first
    | with_reducible assumption
    | (with_reducible first | apply State.awaitCheck_keeps | apply Keeps.ite)
    | simp -zeta only [Keeps.upd]
    | split

theorem execStatus_keeps {s0 : State} {l : Nat} {src : Nat} {dst : Nat} {hdr : List Byte} {body : List Byte} {crcOk : Bool} {s
    : State} (hK : Keeps s0 s) :
    KeepsOut s0 (execStatus l src dst hdr body crcOk s) := by
  unfold execStatus
  repeat' first
    | with_reducible assumption
    | (with_reducible first
        | apply KeepsOut.next | apply KeepsOut.ite | apply State.receive_keeps | apply State.noteAck_keeps
        | apply State.noteRefusal_keeps | apply State.noteMember_keeps | apply State.raiseLink_keeps
        | apply State.readyCheck_keeps | apply Keeps.ite | intro _ _ _ | intro _ _)
    | split

theorem execStatusPeriodic_keeps {s0 : State} {s : State} (hK : Keeps s0 s) : KeepsOut s0 (execStatusPeriodic s) := by
  unfold execStatusPeriodic
  repeat' first
    | with_reducible assumption
    | (with_reducible first
        | apply KeepsOut.next | apply KeepsOut.ite | apply State.sendStatus_keeps | apply State.at__keeps | apply Keeps.ite)
    | split

theorem execMemberUnreachable_keeps {s0 : State} {m : Nat} {s : State} (hK : Keeps s0 s) :
    KeepsOut s0 (execMemberUnreachable m s) := by
  unfold execMemberUnreachable
  repeat' first
    | with_reducible assumption
    | (with_reducible first
        | apply KeepsOut.next | apply KeepsOut.ite | apply State.at__keeps | apply State.setF_keeps | apply State.readyCheck_keeps
        | apply State.awaitCheck_keeps | apply Keeps.ite)
    | simp -zeta only [Keeps.upd]
    | split

theorem execTimeReq_keeps {s0 : State} {received : Bool} {l : Nat} {s : State} (hK : Keeps s0 s) :
    KeepsOut s0 (execTimeReq received l s) := by
  unfold execTimeReq
  repeat' first
    | with_reducible assumption
    | (with_reducible first
        | apply KeepsOut.next | apply KeepsOut.ite | apply State.sendBlock_keeps | apply State.at__keeps | apply Keeps.ite)
    | simp -zeta only [Keeps.upd]
    | split

theorem State.casShow_keeps {s0 : State} {s : State} {ofs : Int} (hK : Keeps s0 s) : Keeps s0 (s.casShow ofs) := by
  unfold State.casShow
  repeat' first
    | with_reducible assumption
    | (with_reducible first
        | apply State.wr64_keeps | apply State.word32_keeps | apply State.word32_keepsE (by assumption) | apply State.wr_keeps)
    | split

theorem State.casUpdate_keeps {s0 : State} {s : State} {t1 : Nat} {meas : Int} (hK : Keeps s0 s) :
    Keeps s0 (s.casUpdate t1 meas) := by
  unfold State.casUpdate
  repeat' first
    | with_reducible assumption
    | (with_reducible first | apply State.casShow_keeps | apply State.setF_keeps | apply State.sendStatus_keeps | apply Keeps.ite)
    | simp -zeta only [Keeps.upd]
    | split

theorem execTimeRsp_keeps {s0 : State} {t2 : Nat} {t3 : Nat} {t4 : Nat} {s : State} (hK : Keeps s0 s) :
    KeepsOut s0 (execTimeRsp t2 t3 t4 s) := by
  unfold execTimeRsp
  repeat' first
    | with_reducible assumption
    | (with_reducible first
        | apply KeepsOut.next | apply KeepsOut.ite | apply State.at__keeps | apply State.casUpdate_keeps | apply Keeps.ite)
    | split

theorem State.forwardColumn_keeps {s0 : State} {s : State} {o : OutCol} (hK : Keeps s0 s) : Keeps s0 (s.forwardColumn o) := by
  unfold State.forwardColumn
  repeat' first
    | with_reducible assumption
    | (with_reducible first | apply State.addSat_keeps | apply State.sendMsg_keeps | apply Keeps.ite)
    | split

theorem execPoints_keeps {s0 : State} {l : Nat} {src : Nat} {dst : Nat} {hdr : List Byte} {body : List Byte} {crcOk : Bool} {s
    : State} (hK : Keeps s0 s) :
    KeepsOut s0 (execPoints l src dst hdr body crcOk s) := by
  unfold execPoints
  repeat' first
    | with_reducible assumption
    | (with_reducible first
        | apply KeepsOut.next | apply KeepsOut.ite | apply State.receive_keeps | apply State.packColumn_keeps | apply Keeps.ite
        | intro _ _ _ | intro _ _)

theorem State.remoteRead_keeps {s0 : State} {s : State} {q : Req} {m : Nat} {off : Nat} {n : Nat} (hK : Keeps s0 s) :
    Keeps s0 (s.remoteRead q m off n) := by
  unfold State.remoteRead
  repeat' first
    | with_reducible assumption
    | (with_reducible first | apply State.replyOk_keeps | apply State.sendDown_keeps)
    | simp -zeta only [Keeps.upd]
    | split

theorem execReadReq_keeps {s0 : State} {l : Nat} {src : Nat} {dst : Nat} {hdr : List Byte} {body : List Byte} {crcOk : Bool} {s
    : State} (hK : Keeps s0 s) :
    KeepsOut s0 (execReadReq l src dst hdr body crcOk s) := by
  unfold execReadReq
  repeat' first
    | with_reducible assumption
    | (with_reducible first
        | apply KeepsOut.next | apply KeepsOut.ite | apply State.receive_keeps | apply State.winRead_keeps
        | apply State.winRead_keepsE (by assumption) | apply State.sendMsg_keeps | apply Keeps.ite | intro _ _ _ | intro _ _)
    | split

theorem execReadRsp_keeps {s0 : State} {l : Nat} {src : Nat} {dst : Nat} {hdr : List Byte} {body : List Byte} {crcOk : Bool} {s
    : State} (hK : Keeps s0 s) :
    KeepsOut s0 (execReadRsp l src dst hdr body crcOk s) := by
  unfold execReadRsp
  repeat' first
    | with_reducible assumption
    | (with_reducible first
        | apply KeepsOut.next | apply KeepsOut.ite | apply State.receive_keeps | apply State.replyOk_keeps
        | apply State.reply_keeps | apply Keeps.ite | intro _ _ _ | intro _ _)
    | simp -zeta only [Keeps.upd]
    | split

theorem execRemoteReadTimeout_keeps {s0 : State} {s : State} (hK : Keeps s0 s) : KeepsOut s0 (execRemoteReadTimeout s) := by
  unfold execRemoteReadTimeout
  repeat' first
    | with_reducible assumption
    | extract_lets +onlyGivenNames x
      first
      | have hx : Keeps s0 x := by
          dsimp -zeta only [x]
          repeat' first
            | with_reducible assumption
            | (with_reducible first | apply KeepsOut.next | apply State.reply_keeps | apply State.at__keeps)
            | simp -zeta only [Keeps.upd]
            | split
        clear_value x
      | clear_value x
    | (with_reducible first | apply KeepsOut.next | apply State.reply_keeps | apply State.at__keeps)
    | simp -zeta only [Keeps.upd]
    | split

theorem execHingeCalibrationStart_keeps {s0 : State} {s : State} (hK : Keeps s0 s) : KeepsOut s0 (execHingeCalibrationStart s) := by
  unfold execHingeCalibrationStart
  repeat' first
    | with_reducible assumption
    | (with_reducible first | apply KeepsOut.next | apply KeepsOut.ite | apply State.sendDown_keeps | apply Keeps.ite)
    | simp -zeta only [Keeps.upd]
    | split

theorem execHcal_keeps {s0 : State} {l : Nat} {src : Nat} {dst : Nat} {hdr : List Byte} {body : List Byte} {crcOk : Bool} {s
    : State} (hK : Keeps s0 s) :
    KeepsOut s0 (execHcal l src dst hdr body crcOk s) := by
  unfold execHcal
  repeat' first
    | with_reducible assumption
    | extract_lets +onlyGivenNames x
      first
      | have hx : Keeps s0 x := by
          dsimp -zeta only [x]
          repeat' first
            | with_reducible assumption
            | (with_reducible first
                | apply KeepsOut.next | apply KeepsOut.ite | apply State.receive_keeps | apply State.setF_keeps | apply Keeps.ite
                | intro _ _ _ | intro _ _)
            | simp -zeta only [Keeps.upd]
        clear_value x
      | clear_value x
    | (with_reducible first
        | apply KeepsOut.next | apply KeepsOut.ite | apply State.receive_keeps | apply State.setF_keeps | apply Keeps.ite
        | intro _ _ _ | intro _ _)
    | simp -zeta only [Keeps.upd]

theorem execHingeCalibrationEnd_keeps {s0 : State} {s : State} (hK : Keeps s0 s) : KeepsOut s0 (execHingeCalibrationEnd s) := by
  unfold execHingeCalibrationEnd
  repeat' first
    | with_reducible assumption
    | (with_reducible first
        | apply KeepsOut.next | apply KeepsOut.ite | apply State.at__keeps | apply State.addSat_keeps | apply State.setF_keeps
        | apply State.raiseLink_keeps | apply State.openNat_keeps | apply State.openNat_keepsE (by assumption)
        | apply State.readyCheck_keeps | apply State.sendStatus_keeps | apply Keeps.ite)
    | simp -zeta only [Keeps.upd]
    | split

theorem execHgSyncEdge_keeps {s0 : State} {t : Nat} {s : State} (hK : Keeps s0 s) : KeepsOut s0 (execHgSyncEdge t s) := by
  unfold execHgSyncEdge
  repeat' first
    | with_reducible assumption
    | (with_reducible first
        | apply KeepsOut.next | apply KeepsOut.ite | apply State.capture_keeps | apply State.toTbs_keeps
        | apply State.frameEvent_keeps | apply Keeps.ite)
    | simp -zeta only [Keeps.upd]

theorem execHgTrigEdge_keeps {s0 : State} {t : Nat} {s : State} (hK : Keeps s0 s) : KeepsOut s0 (execHgTrigEdge t s) := by
  unfold execHgTrigEdge
  repeat' first
    | with_reducible assumption
    | (with_reducible first
        | apply KeepsOut.next | apply KeepsOut.ite | apply State.capture_keeps | apply State.toTbs_keeps
        | apply State.madEvent_keeps | apply State.recTrigger_keeps | apply Keeps.ite)
    | simp -zeta only [Keeps.upd]

theorem execGpioEdge_keeps {s0 : State} {pin : Nat} {high : Bool} {t : Nat} {s : State} (hK : Keeps s0 s) :
    KeepsOut s0 (execGpioEdge pin high t s) := by
  unfold execGpioEdge
  repeat' first
    | with_reducible assumption
    | (with_reducible first
        | apply KeepsOut.next | apply KeepsOut.ite | apply State.toTbs_keeps | apply State.capture_keeps
        | apply State.madEvent_keeps | apply Keeps.ite)
    | simp -zeta only [Keeps.upd]

theorem State.casRoleSet_keeps {s0 : State} {s : State} (hK : Keeps s0 s) : Keeps s0 (s.casRoleSet) := by
  unfold State.casRoleSet
  repeat' first
    | with_reducible assumption
    | (with_reducible first | apply State.setF_keeps | apply State.setHops_keeps | apply Keeps.ite)

theorem State.casLoad_keeps {s0 : State} {s : State} {role : Nat} {topo : Nat} {mem : Nat} {fwd : Nat} {epoch : Nat} (hK
    : Keeps s0 s) :
    Keeps s0 (s.casLoad role topo mem fwd epoch) := by
  unfold State.casLoad
  repeat' first
    | with_reducible assumption
    | (with_reducible first | apply State.setF_keeps | apply State.wr_keeps | apply State.casRoleSet_keeps | apply Keeps.ite)
    | simp -zeta only [Keeps.upd]

theorem execCascadeConfig_keeps {s0 : State} {q : Req} {p : List Byte} {s : State} (hK : Keeps s0 s) :
    KeepsOut s0 (execCascadeConfig q p s) := by
  unfold execCascadeConfig
  repeat' first
    | with_reducible assumption
    | (with_reducible first
        | apply KeepsOut.next | apply KeepsOut.ite | apply State.command_keeps | apply State.reply_keeps | apply checked_keeps
        | apply State.casLoad_keeps | apply State.lostUp_keeps | apply State.holdUnused_keeps | apply Keeps.forEach
        | apply State.sendCapx_keeps | apply State.readyCheck_keeps | apply Keeps.ite | intro _ _ _ | intro _ _)

theorem State.tapCtrl_keeps {s0 : State} {s : State} {w : Word} (hK : Keeps s0 s) : Keeps s0 (s.tapCtrl w) := by
  unfold State.tapCtrl
  repeat' first
    | with_reducible assumption
    | (with_reducible first | apply State.setF_keeps | apply State.wr_keeps | apply Keeps.ite)
    | simp -zeta only [Keeps.upd]

theorem execTapItemSend_keeps {s0 : State} {s : State} (hK : Keeps s0 s) : KeepsOut s0 (execTapItemSend s) := by
  unfold execTapItemSend
  repeat' first
    | with_reducible assumption
    | (with_reducible first
        | apply KeepsOut.next | apply KeepsOut.ite | apply State.addWrap_keeps | apply State.sendBlock_keeps | apply Keeps.ite)
    | simp -zeta only [Keeps.upd]
    | split

theorem execTapMark_keeps {s0 : State} {s : State} (hK : Keeps s0 s) : KeepsOut s0 (execTapMark s) := by
  unfold execTapMark
  repeat' first
    | with_reducible assumption
    | (with_reducible first
        | apply KeepsOut.next | apply KeepsOut.ite | apply State.at__keeps | apply State.sendBlock_keeps | apply Keeps.ite)
    | simp -zeta only [Keeps.upd]
    | split

theorem State.hngClear_keeps {s0 : State} {s : State} (hK : Keeps s0 s) : Keeps s0 (s.hngClear) := by
  unfold State.hngClear
  repeat' first
    | with_reducible assumption
    | (with_reducible first | apply Keeps.forEach | apply State.wr_keeps | intro _ _ _ | intro _ _)

end Sys2Proof.Machine
end

