-- ==== Sys2Proof/Laws/KeepsHist.lean ====
section
/-! SUPPORT. Every operation and meaning of Machine/Hist.lean keeps the queue, the canonical forms and the order of time. -/

namespace Sys2Proof.Machine

open Reg

theorem State.setMark_keeps {s0 : State} {s : State} {k : Nat} {v : Nat} (hK : Keeps s0 s) : Keeps s0 (s.setMark k v) := by
  unfold State.setMark
  repeat' first | with_reducible assumption | simp -zeta only [Keeps.upd]

theorem State.countCE_keeps {s0 : State} {s : State} {bank : Nat} (hK : Keeps s0 s) : Keeps s0 (s.countCE bank) := by
  unfold State.countCE
  repeat' first | with_reducible assumption | with_reducible apply State.addSat_keeps

theorem State.countUE_keeps {s0 : State} {s : State} {bank : Nat} (hK : Keeps s0 s) : Keeps s0 (s.countUE bank) := by
  unfold State.countUE
  repeat' first | with_reducible assumption | with_reducible apply State.addSat_keeps

theorem State.setRec_keeps {s0 : State} {s : State} {set : Nat} {c : Nat} {off : Nat} {v : Nat} (hK : Keeps s0 s) :
    Keeps s0 (s.setRec set c off v) := by
  unfold State.setRec
  repeat' first | with_reducible assumption | with_reducible apply State.setBytes_keeps

theorem State.addRec_keeps {s0 : State} {s : State} {set : Nat} {c : Nat} {off : Nat} {n : Nat} (hK : Keeps s0 s) :
    Keeps s0 (s.addRec set c off n) := by
  unfold State.addRec
  repeat' first | with_reducible assumption | with_reducible apply State.setRec_keeps

theorem State.orFlags_keeps {s0 : State} {s : State} {set : Nat} {c : Nat} {m : Nat} (hK : Keeps s0 s) :
    Keeps s0 (s.orFlags set c m) := by
  unfold State.orFlags
  repeat' first | with_reducible assumption | with_reducible apply State.setBytes_keeps | split

theorem State.memFaultBank_keeps {s0 : State} {s : State} {set : Nat} {bank : Nat} (hK : Keeps s0 s) :
    Keeps s0 (s.memFaultBank set bank) := by
  unfold State.memFaultBank
  repeat' first
    | with_reducible assumption
    | (with_reducible first | apply Keeps.forEach | apply State.orFlags_keeps | intro _ _ _ | intro _ _)

theorem State.meetUE_keeps {s0 : State} {s : State} {k : Nat} (hK : Keeps s0 s) : Keeps s0 (s.meetUE k) := by
  unfold State.meetUE
  repeat' first
    | with_reducible assumption
    | (with_reducible first | apply State.memFaultBank_keeps | apply State.countUE_keeps | apply Keeps.ite)
    | simp -zeta only [Keeps.upd]

theorem State.bump_keeps {s0 : State} {s : State} {r : Region} {set : Nat} {c : Nat} {b : Nat} (hK : Keeps s0 s) :
    Keeps s0 (s.bump r set c b) := by
  unfold State.bump
  repeat' first
    | with_reducible assumption
    | (with_reducible first
        | apply State.orFlags_keeps | apply State.addRec_keeps | apply State.setRec_keeps | apply State.setBytes_keeps
        | apply Keeps.ite)

theorem State.inc_keeps {s0 : State} {s : State} {r : Region} {set : Nat} {c : Nat} {b : Nat} (hK : Keeps s0 s) :
    Keeps s0 (s.inc r set c b) := by
  unfold State.inc
  repeat' first
    | with_reducible assumption
    | (with_reducible first
        | apply State.addRec_keeps | apply State.meetUE_keeps | apply State.bump_keeps | apply State.setMark_keeps
        | apply State.countCE_keeps | apply Keeps.ite)

theorem State.injectEcc_keeps {s0 : State} {s : State} {set : Nat} {c : Nat} {b : Nat} (hK : Keeps s0 s) :
    Keeps s0 (s.injectEcc set c b) := by
  unfold State.injectEcc
  repeat' first
    | with_reducible assumption
    | (with_reducible first | apply State.setF_keeps | apply State.setMark_keeps | apply Keeps.ite)

theorem State.coarseInc_keeps {s0 : State} {s : State} {set : Nat} {c : Nat} {b : Nat} (hK : Keeps s0 s) :
    Keeps s0 (s.coarseInc set c b) := by
  unfold State.coarseInc
  repeat' first
    | with_reducible assumption
    | extract_lets +onlyGivenNames x
      first
      | have hx : Keeps s0 x := by
          dsimp -zeta only [x]
          repeat' first
            | with_reducible assumption
            | (with_reducible first | apply State.injectEcc_keeps | apply State.inc_keeps | apply Keeps.ite)
            | simp -zeta only [Keeps.upd]
            | split
        clear_value x
      | clear_value x
    | (with_reducible first | apply State.injectEcc_keeps | apply State.inc_keeps | apply Keeps.ite)
    | simp -zeta only [Keeps.upd]
    | split

theorem State.update_keeps {s0 : State} {s : State} {e : Ev} {h : Shot} {d : Nat} (hK : Keeps s0 s) :
    Keeps s0 (s.update e h d).2 := by
  unfold State.update
  repeat' first
    | with_reducible assumption
    | (with_reducible first | apply State.coarseInc_keeps | apply State.addRec_keeps | apply State.inc_keeps | apply Keeps.ite)
    | split

theorem State.keyed_keeps {s0 s : State} {e : Ev} {l : List (Shot × Nat)} (h : Keeps s0 s) : Keeps s0 (s.keyed e l).2 :=
  Keeps.foldlPair h fun _ _ k => State.update_keeps k

theorem State.keyed_keepsE {s0 : State} {s : State} {e : Ev} {l : List (Shot × Nat)} {rK} {tK : State} (eK : s.keyed e l =
    (rK, tK)) (hK : Keeps s0 s) : Keeps s0 tK := by
  have qK : Keeps s0 (s.keyed e l).2 := State.keyed_keeps hK
  rw [eK] at qK; exact qK

theorem State.unkeyed_keeps {s0 : State} {s : State} {e : Ev} (hK : Keeps s0 s) : Keeps s0 (s.unkeyed e).2 := by
  unfold State.unkeyed
  repeat' first
    | with_reducible assumption
    | extract_lets +onlyGivenNames x
      first
      | have hx : Keeps s0 x := by
          dsimp -zeta only [x]
          repeat' first
            | with_reducible assumption
            | (with_reducible first | apply State.inc_keeps | apply Keeps.foldl | apply Keeps.ite | intro _ _ _ | intro _ _)
            | split
        clear_value x
      | clear_value x
    | (with_reducible first | apply State.inc_keeps | apply Keeps.foldl | apply Keeps.ite | intro _ _ _ | intro _ _)
    | split

theorem State.unkeyed_keepsE {s0 : State} {s : State} {e : Ev} {rK} {tK : State} (eK : s.unkeyed e = (rK, tK)) (hK : Keeps s0 s)
    : Keeps s0 tK := by
  have qK : Keeps s0 (s.unkeyed e).2 := State.unkeyed_keeps hK
  rw [eK] at qK; exact qK

theorem State.countEvent_keeps {s0 : State} {s : State} {c : Nat} {sets : List Nat} (hK : Keeps s0 s) :
    Keeps s0 (s.countEvent c sets) := by
  unfold State.countEvent
  repeat' first
    | with_reducible assumption
    | (with_reducible first | apply Keeps.forEach | apply State.addRec_keeps | intro _ _ _ | intro _ _)

theorem State.binEvent_keeps {s0 : State} {s : State} {e : Ev} (hK : Keeps s0 s) : Keeps s0 (s.binEvent e) := by
  unfold State.binEvent
  repeat' first
    | with_reducible assumption
    | (with_reducible first
        | apply State.addWrap_keeps | apply State.keyed_keeps | apply State.keyed_keepsE (by assumption)
        | apply State.unkeyed_keeps | apply State.unkeyed_keepsE (by assumption) | apply State.countEvent_keeps | apply Keeps.ite)
    | split

theorem State.charge1_keeps {s0 : State} {s : State} {c : Nat} (hK : Keeps s0 s) : Keeps s0 (s.charge1 c) := by
  unfold State.charge1
  repeat' first
    | with_reducible assumption
    | extract_lets +onlyGivenNames x
      first
      | have hx : Keeps s0 x := by
          dsimp -zeta only [x]
          repeat' first | with_reducible assumption | simp -zeta only [Keeps.upd]
        clear_value x
      | clear_value x
    | simp -zeta only [Keeps.upd]

theorem execEventBinning_keeps {s0 : State} {q : Nat} {t : Nat} {s : State} (hK : Keeps s0 s) :
    KeepsOut s0 (execEventBinning q t s) := by
  unfold execEventBinning
  repeat' first
    | with_reducible assumption
    | (with_reducible first
        | apply KeepsOut.next | apply KeepsOut.ite | apply State.at__keeps | apply State.binEvent_keeps
        | apply State.charge1_keeps | apply State.addWrap_keeps | apply Keeps.ite)
    | simp -zeta only [Keeps.upd]
    | split

theorem State.placeChannel_keeps {s0 : State} {s : State} {set : Nat} {nwin : Nat} {c : Nat} (hK : Keeps s0 s) :
    Keeps s0 (s.placeChannel set nwin c) := by
  unfold State.placeChannel
  repeat' first
    | with_reducible assumption
    | (with_reducible first
        | apply State.orFlags_keeps | apply Keeps.forEach | apply State.setRec_keeps | intro _ _ _ | intro _ _)
    | split

theorem execZoomPlacement_keeps {s0 : State} {s : State} (hK : Keeps s0 s) : KeepsOut s0 (execZoomPlacement s) := by
  unfold execZoomPlacement
  repeat' first
    | with_reducible assumption
    | (with_reducible first
        | apply KeepsOut.next | apply Keeps.forEach | apply State.placeChannel_keeps | apply State.updColumn_keeps | intro _ _ _
        | intro _ _)
    | simp -zeta only [Keeps.upd]
    | split

theorem execHistogramClear_keeps {s0 : State} {s : State} (hK : Keeps s0 s) : KeepsOut s0 (execHistogramClear s) := by
  unfold execHistogramClear
  repeat' first
    | with_reducible assumption
    | (with_reducible first | apply KeepsOut.next | apply KeepsOut.ite | apply State.clearMem_keeps | apply Keeps.ite)
    | simp -zeta only [Keeps.upd]

end Sys2Proof.Machine
end

