-- ==== Sys2Proof/Laws/KeepsExtract.lean ====
section
/-! SUPPORT. Every operation and meaning of Machine/Extract.lean keeps the queue, the canonical forms and the order of time. -/

namespace Sys2Proof.Machine

open Reg

theorem State.windowTest_keeps {s0 : State} {s : State} {a : Scan} {set : Nat} {c : Nat} (hK : Keeps s0 s) :
    Keeps s0 (s.windowTest a set c) := by
  unfold State.windowTest
  repeat' first | with_reducible assumption | (with_reducible first | apply State.setF_keeps | apply Keeps.ite)

theorem State.scanMarks_keeps {s0 : State} {s : State} {set : Nat} (hK : Keeps s0 s) : Keeps s0 (s.scanMarks set) := by
  unfold State.scanMarks
  repeat' first
    | with_reducible assumption
    | extract_lets +onlyGivenNames x
      first
      | have hx : Keeps s0 x := by
          dsimp -zeta only [x]
          repeat' first
            | with_reducible assumption
            | (with_reducible first
                | apply Keeps.forEach | apply State.countCE_keeps | apply State.meetUE_keeps | apply Keeps.ite | intro _ _ _
                | intro _ _)
            | simp -zeta only [Keeps.upd]
        clear_value x
      | clear_value x
    | (with_reducible first
        | apply Keeps.forEach | apply State.countCE_keeps | apply State.meetUE_keeps | apply Keeps.ite | intro _ _ _ | intro _ _)
    | simp -zeta only [Keeps.upd]

theorem State.countMismatch_keeps {s0 : State} {s : State} {col : Column} {c : Nat} {kind : Nat} (hK : Keeps s0 s) :
    Keeps s0 (s.countMismatch col c kind) := by
  unfold State.countMismatch
  repeat' first
    | with_reducible assumption
    | (with_reducible first
        | apply State.addSat_keeps | apply State.orFlags_keeps | apply State.wr_keeps | apply State.raise_keeps)
    | split

theorem State.conservation_keeps {s0 : State} {s : State} {col : Column} (hK : Keeps s0 s) : Keeps s0 (s.conservation col) := by
  unfold State.conservation
  repeat' first
    | with_reducible assumption
    | (with_reducible first | apply Keeps.forEach | apply State.countMismatch_keeps | intro _ _ _ | intro _ _)
    | split

theorem State.mismatchLimit_keeps {s0 : State} {s : State} {s0b : State} (hK : Keeps s0 s) : Keeps s0 (s.mismatchLimit s0b) := by
  unfold State.mismatchLimit
  repeat' first
    | with_reducible assumption
    | (with_reducible first | apply State.enterFault_keeps | apply State.setF_keeps | apply State.raise_keeps | apply Keeps.ite)
    | split

theorem State.scanClear_keeps {s0 s : State} {col : Column} (h : Keeps s0 s) : Keeps s0 (s.scanClear col) :=
  h.updMem (fun k => Sp.drop_wf k)

theorem State.zoneColumn_keeps {s0 : State} {s : State} {col : Nat} {chans : List ChanOut} {pts : List Point} (hK : Keeps s0 s)
    :
    Keeps s0 (s.zoneColumn col chans pts) := by
  unfold State.zoneColumn
  repeat' first
    | with_reducible assumption
    | extract_lets +onlyGivenNames x
      first
      | have hx : Keeps s0 x := by
          dsimp -zeta only [x]
          repeat' first
            | with_reducible assumption
            | (with_reducible first | apply Keeps.forEach | apply Keeps.ite | intro _ _ _ | intro _ _)
            | simp -zeta only [Keeps.upd]
            | split
        clear_value x
      | clear_value x
    | (with_reducible first | apply Keeps.forEach | apply Keeps.ite | intro _ _ _ | intro _ _)
    | simp -zeta only [Keeps.upd]
    | split

theorem State.firstOf_keeps {s0 : State} {s : State} {col : Column} (hK : Keeps s0 s) : Keeps s0 (s.firstOf col).2.2 := by
  unfold State.firstOf
  repeat' first
    | with_reducible assumption
    | (with_reducible first | apply State.openNat_keeps | apply State.openNat_keepsE (by assumption))
    | split

theorem State.firstOf_keepsE {s0 : State} {s : State} {col : Column} {rK qK} {tK : State} (eK : s.firstOf col = (rK, qK, tK))
    (hK : Keeps s0 s) : Keeps s0 tK := by
  have qK : Keeps s0 (s.firstOf col).2.2 := State.firstOf_keeps hK
  rw [eK] at qK; exact qK

theorem State.stolenOut_keeps {s0 : State} {s : State} {col : Column} (hK : Keeps s0 s) : Keeps s0 (s.stolenOut col).2 := by
  unfold State.stolenOut
  repeat' first
    | with_reducible assumption
    | (with_reducible first | apply State.firstOf_keeps | apply State.firstOf_keepsE (by assumption))
    | split

theorem State.columnOut_keeps {s0 : State} {s : State} {col : Column} {outs : List ChanOut} {consensus : Bool} {veil : Nat} (hK
    : Keeps s0 s) :
    Keeps s0 (s.columnOut col outs consensus veil).2 := by
  unfold State.columnOut
  repeat' first
    | with_reducible assumption
    | (with_reducible first
        | apply State.firstOf_keeps | apply State.firstOf_keepsE (by assumption) | apply Keeps.foldl | intro _ _ _ | intro _ _)
    | split

theorem State.columnOut_keepsE {s0 : State} {s : State} {col : Column} {outs : List ChanOut} {consensus : Bool} {veil : Nat}
    {rK} {tK : State} (eK : s.columnOut col outs consensus veil = (rK, tK)) (hK : Keeps s0 s) : Keeps s0 tK := by
  have qK : Keeps s0 (s.columnOut col outs consensus veil).2 := State.columnOut_keeps hK
  rw [eK] at qK; exact qK

theorem State.countChannels_keeps {s0 : State} {s : State} {outs : List ChanOut} (hK : Keeps s0 s) :
    Keeps s0 (s.countChannels outs) := by
  unfold State.countChannels
  repeat' first
    | with_reducible assumption
    | (with_reducible first | apply Keeps.forEach | apply State.addSat_keeps | apply Keeps.ite | intro _ _ _ | intro _ _)

theorem State.tallyGain_keeps {s0 : State} {s : State} {a : Scan} {col : Column} (hK : Keeps s0 s) :
    Keeps s0 (s.tallyGain a col) := by
  unfold State.tallyGain
  repeat' first
    | with_reducible assumption
    | extract_lets +onlyGivenNames x
      first
      | have hx : Keeps s0 x := by
          dsimp -zeta only [x]
          repeat' first
            | with_reducible assumption
            | (with_reducible first | apply Keeps.foldl | apply Keeps.ite | intro _ _ _ | intro _ _)
            | simp -zeta only [Keeps.upd]
            | split
        clear_value x
      | clear_value x
    | (with_reducible first | apply Keeps.foldl | apply Keeps.ite | intro _ _ _ | intro _ _)
    | simp -zeta only [Keeps.upd]
    | split

theorem State.extractPlain_keeps {s0 : State} {s : State} {a : Scan} {col : Column} (hK : Keeps s0 s) :
    Keeps s0 (s.extractPlain a col).2 := by
  unfold State.extractPlain
  repeat' first
    | with_reducible assumption
    | (with_reducible first
        | apply Keeps.forEach | apply State.windowTest_keeps | apply State.columnOut_keeps
        | apply State.columnOut_keepsE (by assumption) | apply State.zoneColumn_keeps | apply State.countChannels_keeps
        | intro _ _ _ | intro _ _)
    | split

theorem State.extractColumn_keeps {s0 : State} {s : State} {col : Column} (hK : Keeps s0 s) : Keeps s0 (s.extractColumn col).2 := by
  unfold State.extractColumn
  repeat' first
    | with_reducible assumption
    | (with_reducible first
        | apply State.stolenOut_keeps | apply State.tallyGain_keeps | apply State.extractPlain_keeps | apply Keeps.ite)
    | split

theorem State.extractColumn_keepsE {s0 : State} {s : State} {col : Column} {rK} {tK : State} (eK : s.extractColumn col =
    (rK, tK)) (hK : Keeps s0 s) : Keeps s0 tK := by
  have qK : Keeps s0 (s.extractColumn col).2 := State.extractColumn_keeps hK
  rw [eK] at qK; exact qK

theorem State.releaseScan_keeps {s0 : State} {s : State} (hK : Keeps s0 s) : Keeps s0 (s.releaseScan) := by
  unfold State.releaseScan
  repeat' first
    | with_reducible assumption
    | (with_reducible first | apply State.release_keeps | apply State.wr_keeps | apply Keeps.ite)

theorem State.rowOf_keeps {s0 : State} {s : State} {col : Column} {t : Nat} (hK : Keeps s0 s) : Keeps s0 (s.rowOf col t) := by
  unfold State.rowOf
  repeat' first
    | with_reducible assumption
    | (with_reducible first | apply State.recRow_keeps | apply Keeps.ite)

theorem State.windowSample_keeps {s0 : State} {s : State} {col : Column} (hK : Keeps s0 s) : Keeps s0 (s.windowSample col) := by
  unfold State.windowSample
  repeat' first
    | with_reducible assumption
    | (with_reducible first | apply State.recWindow_keeps | apply Keeps.ite)

theorem State.scanColumn_keeps {s0 : State} {s : State} {col : Column} (hK : Keeps s0 s) : Keeps s0 (s.scanColumn col) := by
  unfold State.scanColumn
  repeat' first
    | with_reducible assumption
    | (with_reducible first
        | apply State.setF_keeps | apply State.putSet_keeps | apply State.releaseScan_keeps | apply State.conservation_keeps
        | apply State.scanMarks_keeps | apply State.firstOf_keeps | apply State.firstOf_keepsE (by assumption)
        | apply State.rowOf_keeps | apply State.extractColumn_keeps | apply State.extractColumn_keepsE (by assumption)
        | apply State.windowSample_keeps | apply State.scanClear_keeps | apply State.mismatchLimit_keeps)
    | simp -zeta only [Keeps.upd]
    | split

theorem execExtractionScan_keeps {s0 : State} {s : State} (hK : Keeps s0 s) : KeepsOut s0 (execExtractionScan s) := by
  unfold execExtractionScan
  repeat' first
    | with_reducible assumption
    | (with_reducible first | apply KeepsOut.next | apply KeepsOut.ite | apply State.scanColumn_keeps | apply Keeps.ite)
    | split

theorem execExtractionEnd_keeps {s0 : State} {s : State} (hK : Keeps s0 s) : KeepsOut s0 (execExtractionEnd s) := by
  unfold execExtractionEnd
  repeat' first
    | with_reducible assumption
    | (with_reducible first
        | apply KeepsOut.next | apply KeepsOut.ite | apply State.addSat_keeps | apply State.setF_keeps | apply State.putSet_keeps
        | apply State.settleRetain_keeps | apply Keeps.ite)
    | simp -zeta only [Keeps.upd]
    | split

end Sys2Proof.Machine
end

