-- ==== Sys2Proof/Laws/KeepsCalib.lean ====
section
/-! SUPPORT. Every operation and meaning of Machine/Calib.lean keeps the queue, the canonical forms and the order of time. -/

namespace Sys2Proof.Machine

open Reg

theorem State.calFinish_keeps {s0 : State} {s : State} {proc : Nat} {status : Nat} {detail : Nat} {q0 : Nat} {q1 : Nat} (hK
    : Keeps s0 s) :
    Keeps s0 (s.calFinish proc status detail q0 q1) := by
  unfold State.calFinish
  repeat' first
    | with_reducible assumption
    | (with_reducible first
        | apply State.setF_keeps | apply State.calIdle_keeps | apply State.wr_keeps | apply State.finishJobs_keeps)
    | simp -zeta only [Keeps.upd]

theorem State.calFinishOpen_keeps {s0 : State} {s : State} {proc : Nat} {status : Nat} {detail : Nat} (hK : Keeps s0 s) :
    Keeps s0 (s.calFinishOpen proc status detail) := by
  unfold State.calFinishOpen
  repeat' first
    | with_reducible assumption
    | (with_reducible first
        | apply State.openNat_keeps | apply State.openNat_keepsE (by assumption) | apply State.calFinish_keeps)
    | split

theorem State.calDrop_keeps {s0 : State} {s : State} {status : Nat} {detail : Nat} (hK : Keeps s0 s) :
    Keeps s0 (s.calDrop status detail) := by
  unfold State.calDrop
  repeat' first
    | with_reducible assumption
    | (with_reducible first | apply State.finishJobs_keeps | apply State.calIdle_keeps)
    | simp -zeta only [Keeps.upd]

theorem State.calShow_keeps {s0 : State} {s : State} {proc : Nat} {phase : Nat} (hK : Keeps s0 s) :
    Keeps s0 (s.calShow proc phase) := by
  unfold State.calShow
  repeat' first | with_reducible assumption | with_reducible apply State.setF_keeps

theorem execCalRun_keeps {s0 : State} {q : Req} {p : List Byte} {s : State} (hK : Keeps s0 s) : KeepsOut s0 (execCalRun q p s) := by
  unfold execCalRun
  repeat' first
    | with_reducible assumption
    | (with_reducible first
        | apply KeepsOut.next | apply KeepsOut.ite | apply State.fixed_keeps | apply State.addJob_keeps | apply State.reply_keeps
        | apply State.calShow_keeps | apply Keeps.ite | intro _ _ _ | intro _ _)
    | simp -zeta only [Keeps.upd]
    | split

theorem State.calStepDone_keeps {s0 : State} {s : State} {r : CalRun} {counts : List (Nat × Nat)} (hK : Keeps s0 s) :
    Keeps s0 (s.calStepDone r counts) := by
  unfold State.calStepDone
  repeat' first
    | with_reducible assumption
    | (with_reducible first | apply State.setF_keeps | apply State.calFinishOpen_keeps | apply Keeps.ite)
    | simp -zeta only [Keeps.upd]
    | split

theorem execCalProcedureStep_keeps {s0 : State} {counts : List (Nat × Nat)} {s : State} (hK : Keeps s0 s) :
    KeepsOut s0 (execCalProcedureStep counts s) := by
  unfold execCalProcedureStep
  repeat' first
    | with_reducible assumption
    | (with_reducible first
        | apply KeepsOut.next | apply KeepsOut.ite | apply State.calStepDone_keeps | apply State.toTbs_keeps
        | apply State.at__keeps | apply State.calDrop_keeps | apply State.calShow_keeps | apply Keeps.ite)
    | simp -zeta only [Keeps.upd]
    | split

theorem State.clearQuarter_keeps {s0 : State} {s : State} {q : Nat} (hK : Keeps s0 s) : Keeps s0 (s.clearQuarter q) := by
  unfold State.clearQuarter
  repeat' first
    | with_reducible assumption
    | extract_lets +onlyGivenNames x
      first
      | have hx : Keeps s0 x := by
          dsimp -zeta only [x]
          repeat' first
            | with_reducible assumption
            | (with_reducible first | apply Keeps.forEach | apply State.clearMem_keeps | intro _ _ _ | intro _ _)
            | simp -zeta only [Keeps.upd]
        clear_value x
      | clear_value x
    | (with_reducible first | apply Keeps.forEach | apply State.clearMem_keeps | intro _ _ _ | intro _ _)
    | simp -zeta only [Keeps.upd]

theorem State.quarterTested_keeps {s0 : State} {s : State} {q : Nat} {failed : Bool} (hK : Keeps s0 s) :
    Keeps s0 (s.quarterTested q failed) := by
  unfold State.quarterTested
  repeat' first
    | with_reducible assumption
    | (with_reducible first | apply State.clearQuarter_keeps | apply State.setF_keeps | apply State.wr_keeps | apply Keeps.ite)
    | split

theorem State.markDone_keeps {s0 : State} {s : State} {r : CalRun} (hK : Keeps s0 s) : Keeps s0 (s.markDone r) := by
  unfold State.markDone
  repeat' first
    | with_reducible assumption
    | (with_reducible first | apply Keeps.forEach | apply State.wr_keeps | apply Keeps.ite | intro _ _ _ | intro _ _)
    | split

theorem State.calWrite_keeps {s0 : State} {s : State} {words : List (Nat × Word)} (hK : Keeps s0 s) :
    Keeps s0 (s.calWrite words) := by
  unfold State.calWrite
  repeat' first
    | with_reducible assumption
    | (with_reducible first
        | apply Keeps.forEach | apply State.wr_keeps | apply State.hold_keeps | apply Keeps.ite | intro _ _ _ | intro _ _)

theorem State.calKeep_keeps {s0 : State} {s : State} {r : CalRun} {o : CalOut} (hK : Keeps s0 s) : Keeps s0 (s.calKeep r o) := by
  unfold State.calKeep
  repeat' first
    | with_reducible assumption
    | extract_lets +onlyGivenNames x
      first
      | have hx : Keeps s0 x := by
          dsimp -zeta only [x]
          repeat' first
            | with_reducible assumption
            | (with_reducible first | apply Keeps.foldl | apply Keeps.ite | intro _ _ _ | intro _ _)
            | simp -zeta only [Keeps.upd]
        clear_value x
      | clear_value x
    | (with_reducible first | apply Keeps.foldl | apply Keeps.ite | intro _ _ _ | intro _ _)
    | simp -zeta only [Keeps.upd]

theorem execCalProcedureEnd_keeps {s0 : State} {vals : List (Nat × List Int)} {s : State} (hK : Keeps s0 s) :
    KeepsOut s0 (execCalProcedureEnd vals s) := by
  unfold execCalProcedureEnd
  repeat' first
    | with_reducible assumption
    | extract_lets +onlyGivenNames x
      first
      | have hx : Keeps s0 x := by
          dsimp -zeta only [x]
          repeat' first
            | with_reducible assumption
            | (with_reducible first
                | apply KeepsOut.next | apply KeepsOut.ite | apply Keeps.forEach | apply State.quarterTested_keeps
                | apply State.calFinish_keeps | apply State.markDone_keeps | apply State.calKeep_keeps
                | apply State.calWrite_keeps | apply Keeps.ite | intro _ _ _ | intro _ _)
            | split
        clear_value x
      | clear_value x
    | (with_reducible first
        | apply KeepsOut.next | apply KeepsOut.ite | apply Keeps.forEach | apply State.quarterTested_keeps
        | apply State.calFinish_keeps | apply State.markDone_keeps | apply State.calKeep_keeps | apply State.calWrite_keeps
        | apply Keeps.ite | intro _ _ _ | intro _ _)
    | split

theorem State.calFrameGap_keeps {s0 : State} {s : State} (hK : Keeps s0 s) : Keeps s0 (s.calFrameGap) := by
  unfold State.calFrameGap
  repeat' first
    | with_reducible assumption
    | (with_reducible first
        | apply State.calDrop_keeps | apply State.calShow_keeps | apply State.calAbandon_keeps | apply Keeps.ite)
    | simp -zeta only [Keeps.upd]
    | split

theorem execCalStatus_keeps {s0 : State} {q : Req} {p : List Byte} {s : State} (hK : Keeps s0 s) :
    KeepsOut s0 (execCalStatus q p s) := by
  unfold execCalStatus
  repeat' first
    | with_reducible assumption
    | (with_reducible first | apply KeepsOut.next | apply State.fixed_keeps | apply State.replyOk_keeps | intro _ _ _ | intro _ _)

theorem execCalAcceptStale_keeps {s0 : State} {q : Req} {p : List Byte} {s : State} (hK : Keeps s0 s) :
    KeepsOut s0 (execCalAcceptStale q p s) := by
  unfold execCalAcceptStale
  repeat' first
    | with_reducible assumption
    | (with_reducible first
        | apply KeepsOut.next | apply State.fixed_keeps | apply State.reply_keeps | apply State.setF_keeps | intro _ _ _
        | intro _ _)
    | split

theorem State.calIgnored_keeps {s0 : State} {s : State} (hK : Keeps s0 s) : Keeps s0 (s.calIgnored) := by
  unfold State.calIgnored
  repeat' first | with_reducible assumption | with_reducible apply State.setF_keeps

theorem State.calDomainOff_keeps {s0 : State} {s : State} {d : Nat} (hK : Keeps s0 s) : Keeps s0 (s.calDomainOff d) := by
  unfold State.calDomainOff
  repeat' first
    | with_reducible assumption
    | (with_reducible first | apply State.calAbandon_keeps | apply Keeps.ite)
    | split

theorem State.markStale_keeps {s0 : State} {s : State} {d : Nat} (hK : Keeps s0 s) : Keeps s0 (s.markStale d) := by
  unfold State.markStale
  repeat' first
    | with_reducible assumption
    | (with_reducible first | apply State.setF_keeps | apply State.wr_keeps | apply Keeps.ite)
    | split

end Sys2Proof.Machine
end

