-- ==== Sys2Proof/Laws/KeepsMonitor.lean ====
section
/-! SUPPORT. Every operation and meaning of Machine/Monitor.lean keeps the queue, the canonical forms and the order of time. -/

namespace Sys2Proof.Machine

open Reg

theorem State.adcBusy_keeps {s0 : State} {s : State} {j : Nat} {start : Nat} (hK : Keeps s0 s) : Keeps s0 (s.adcBusy j start) := by
  unfold State.adcBusy
  repeat' first | with_reducible assumption | simp -zeta only [Keeps.upd]

theorem State.crossingPut_keeps {s0 : State} {s : State} {j : Nat} (hK : Keeps s0 s) : Keeps s0 (s.crossingPut j) := by
  unfold State.crossingPut
  repeat' first
    | with_reducible assumption
    | extract_lets +onlyGivenNames x
      first
      | have hx : Keeps s0 x := by
          dsimp -zeta only [x]
          repeat' first
            | with_reducible assumption
            | (with_reducible first | apply State.addSat_keeps | apply Keeps.ite)
            | simp -zeta only [Keeps.upd]
        clear_value x
      | clear_value x
    | (with_reducible first | apply State.addSat_keeps | apply Keeps.ite)
    | simp -zeta only [Keeps.upd]

theorem State.madResult_keeps {s0 : State} {s : State} {kind : Nat} {conv : Nat} {code : Nat} {diff : Bool} {r : Int} (hK
    : Keeps s0 s) :
    Keeps s0 (s.madResult kind conv code diff r) := by
  unfold State.madResult
  repeat' first
    | with_reducible assumption
    | (with_reducible first
        | apply State.wr_keeps | apply State.crossingPut_keeps | apply State.toQmon_keeps | apply State.recResult_keeps
        | apply Keeps.ite)

theorem State.setChain_keeps {s0 : State} {s : State} {c : Nat} {x : Chain} (hK : Keeps s0 s) : Keeps s0 (s.setChain c x) := by
  unfold State.setChain
  repeat' first | with_reducible assumption | simp -zeta only [Keeps.upd]

theorem State.chainReset_keeps {s0 : State} {s : State} {c : Nat} (hK : Keeps s0 s) : Keeps s0 (s.chainReset c) := by
  unfold State.chainReset
  repeat' first
    | with_reducible assumption
    | (with_reducible first | apply State.setChain_keeps | apply State.setF_keeps)

theorem State.chainStop_keeps {s0 : State} {s : State} {c : Nat} (hK : Keeps s0 s) : Keeps s0 (s.chainStop c) := by
  unfold State.chainStop
  repeat' first
    | with_reducible assumption
    | (with_reducible first | apply State.setF_keeps | apply State.setChain_keeps)
    | simp -zeta only [Keeps.upd]

theorem State.chainEvents_keeps {s0 : State} {s : State} {c : Nat} {y : Int} {firstValid : Bool} (hK : Keeps s0 s) :
    Keeps s0 (s.chainEvents c y firstValid) := by
  unfold State.chainEvents
  repeat' first
    | with_reducible assumption
    | (with_reducible first | apply State.setF_keeps | apply State.addSat_keeps | apply State.recTrigger_keeps | apply Keeps.ite)
    | split

theorem State.chainEmit_keeps {s0 : State} {s : State} {c : Nat} {out : Int} (hK : Keeps s0 s) : Keeps s0 (s.chainEmit c out) := by
  unfold State.chainEmit
  repeat' first
    | with_reducible assumption
    | (with_reducible first
        | apply State.setChain_keeps | apply State.wr_keeps | apply State.setF_keeps | apply State.addSat_keeps
        | apply State.chainEvents_keeps | apply State.crossingPut_keeps | apply State.recFilter_keeps | apply State.toQfilt_keeps
        | apply Keeps.ite)
    | simp -zeta only [Keeps.upd]

theorem State.chainInput_keeps {s0 : State} {s : State} {c : Nat} {x : Int} (hK : Keeps s0 s) : Keeps s0 (s.chainInput c x) := by
  unfold State.chainInput
  repeat' first
    | with_reducible assumption
    | (with_reducible first | apply State.chainEmit_keeps | apply State.setChain_keeps | apply Keeps.ite)
    | simp -zeta only [Keeps.upd]
    | split

theorem execFilterInput_keeps {s0 : State} {s : State} (hK : Keeps s0 s) : KeepsOut s0 (execFilterInput s) := by
  unfold execFilterInput
  repeat' first
    | with_reducible assumption
    | (with_reducible first | apply KeepsOut.next | apply KeepsOut.ite | apply State.chainInput_keeps | apply Keeps.ite)
    | simp -zeta only [Keeps.upd]
    | split

theorem State.toChain_keeps {s0 : State} {s : State} {c : Nat} {x : Int} (hK : Keeps s0 s) : Keeps s0 (s.toChain c x) := by
  unfold State.toChain
  repeat' first | with_reducible assumption | simp -zeta only [Keeps.upd]

theorem State.tickConvert_keeps {s0 : State} {s : State} {start : Nat} {j : Nat} {r : Int} (hK : Keeps s0 s) :
    Keeps s0 (s.tickConvert start j r) := by
  unfold State.tickConvert
  repeat' first
    | with_reducible assumption
    | (with_reducible first
        | apply State.adcBusy_keeps | apply State.madResult_keeps | apply Keeps.forEach | apply State.toChain_keeps
        | apply Keeps.ite | intro _ _ _ | intro _ _)
    | simp -zeta only [Keeps.upd]
    | split

theorem State.tickConversions_keeps {s0 : State} {s : State} {codes : List Int} (hK : Keeps s0 s) :
    Keeps s0 (s.tickConversions codes) := by
  unfold State.tickConversions
  repeat' first
    | with_reducible assumption
    | (with_reducible first | apply Keeps.forEach | apply State.tickConvert_keeps | intro _ _ _ | intro _ _)
    | simp -zeta only [Keeps.upd]

theorem execReferenceReady_keeps {s0 : State} {s : State} (hK : Keeps s0 s) : KeepsOut s0 (execReferenceReady s) := by
  unfold execReferenceReady
  repeat' first
    | with_reducible assumption
    | (with_reducible first
        | apply KeepsOut.next | apply KeepsOut.ite | apply State.setF_keeps | apply State.at__keeps | apply Keeps.ite)
    | simp -zeta only [Keeps.upd]
    | split

theorem State.seqEnter_keeps {s0 : State} {s : State} {e : Nat} (hK : Keeps s0 s) : Keeps s0 (s.seqEnter e) := by
  unfold State.seqEnter
  repeat' first | with_reducible assumption | with_reducible apply State.setF_keeps

theorem State.seqStart_keeps {s0 : State} {s : State} (hK : Keeps s0 s) : Keeps s0 (s.seqStart) := by
  unfold State.seqStart
  repeat' first
    | with_reducible assumption
    | (with_reducible first | apply State.seqEnter_keeps | apply State.setF_keeps)
    | simp -zeta only [Keeps.upd]

theorem State.seqStop_keeps {s0 : State} {s : State} (hK : Keeps s0 s) : Keeps s0 (s.seqStop) := by
  unfold State.seqStop
  repeat' first | with_reducible assumption | with_reducible apply State.setF_keeps

theorem State.seqAdvance_keeps {s0 : State} {s : State} {e : Nat} (hK : Keeps s0 s) : Keeps s0 (s.seqAdvance e) := by
  unfold State.seqAdvance
  repeat' first
    | with_reducible assumption
    | (with_reducible first | apply State.setF_keeps | apply State.seqStop_keeps | apply State.seqEnter_keeps | apply Keeps.ite)

theorem State.seqResult_keeps {s0 : State} {s : State} {e : Nat} {start : Nat} {codes : List Int} {j : Nat} (hK : Keeps s0 s) :
    Keeps s0 (s.seqResult e start codes j) := by
  unfold State.seqResult
  repeat' first
    | with_reducible assumption
    | (with_reducible first
        | apply State.madResult_keeps | apply State.adcBusy_keeps | apply State.toChain_keeps | apply Keeps.ite)

theorem execSequenceConversion_keeps {s0 : State} {r0 : Int} {r1 : Int} {r2 : Int} {r3 : Int} {s : State} (hK : Keeps s0 s) :
    KeepsOut s0 (execSequenceConversion r0 r1 r2 r3 s) := by
  unfold execSequenceConversion
  repeat' first
    | with_reducible assumption
    | (with_reducible first
        | apply KeepsOut.next | apply KeepsOut.ite | apply State.at__keeps | apply State.addSat_keeps | apply Keeps.forEach
        | apply State.seqResult_keeps | apply State.seqAdvance_keeps | apply Keeps.ite | intro _ _ _ | intro _ _)
    | simp -zeta only [Keeps.upd]
    | split

theorem execSequencerTrigger_keeps {s0 : State} {s : State} (hK : Keeps s0 s) : KeepsOut s0 (execSequencerTrigger s) := by
  unfold execSequencerTrigger
  repeat' first
    | with_reducible assumption
    | (with_reducible first
        | apply KeepsOut.next | apply KeepsOut.ite | apply State.setF_keeps | apply State.wr64_keeps | apply State.maskRef_keeps
        | apply Keeps.forEach | apply State.chainReset_keeps | apply State.addSat_keeps | apply Keeps.ite | intro _ _ _
        | intro _ _)
    | simp -zeta only [Keeps.upd]
    | split

theorem execMadTimerExpiry_keeps {s0 : State} {s : State} (hK : Keeps s0 s) : KeepsOut s0 (execMadTimerExpiry s) := by
  unfold execMadTimerExpiry
  repeat' first
    | with_reducible assumption
    | (with_reducible first
        | apply KeepsOut.next | apply KeepsOut.ite | apply State.at__keeps | apply State.madEvent_keeps | apply Keeps.ite)
    | simp -zeta only [Keeps.upd]
    | split

theorem State.injGo_keeps {s0 : State} {s : State} (hK : Keeps s0 s) : Keeps s0 (s.injGo) := by
  unfold State.injGo
  repeat' first
    | with_reducible assumption
    | extract_lets +onlyGivenNames x
      first
      | have hx : Keeps s0 x := by
          dsimp -zeta only [x]
          repeat' first
            | with_reducible assumption
            | (with_reducible first
                | apply State.setF_keeps | apply State.addSat_keeps | apply State.adcBusy_keeps | apply Keeps.ite)
            | simp -zeta only [Keeps.upd]
            | split
        clear_value x
      | clear_value x
    | (with_reducible first | apply State.setF_keeps | apply State.addSat_keeps | apply State.adcBusy_keeps | apply Keeps.ite)
    | simp -zeta only [Keeps.upd]
    | split

theorem execInjectedConversionDone_keeps {s0 : State} {r : Int} {s : State} (hK : Keeps s0 s) :
    KeepsOut s0 (execInjectedConversionDone r s) := by
  unfold execInjectedConversionDone
  repeat' first
    | with_reducible assumption
    | (with_reducible first | apply KeepsOut.next | apply State.at__keeps | apply State.madResult_keeps | apply State.setF_keeps)
    | simp -zeta only [Keeps.upd]
    | split

theorem State.guardRequest_keeps {s0 : State} {s : State} {t : Nat} (hK : Keeps s0 s) : Keeps s0 (s.guardRequest t) := by
  unfold State.guardRequest
  repeat' first | with_reducible assumption | simp -zeta only [Keeps.upd]

theorem State.guardPair_keeps {s0 : State} {s : State} {vres : Int} {vmid : Int} (hK : Keeps s0 s) :
    Keeps s0 (s.guardPair vres vmid) := by
  unfold State.guardPair
  repeat' first
    | with_reducible assumption
    | extract_lets +onlyGivenNames x
      first
      | have hx : Keeps s0 x := by
          dsimp -zeta only [x]
          repeat' first
            | with_reducible assumption
            | (with_reducible first
                | apply State.adcBusy_keeps | apply State.at__keeps | apply State.madResult_keeps | apply State.setF_keeps
                | apply Keeps.ite)
            | simp -zeta only [Keeps.upd]
        clear_value x
      | clear_value x
    | (with_reducible first
        | apply State.adcBusy_keeps | apply State.at__keeps | apply State.madResult_keeps | apply State.setF_keeps
        | apply Keeps.ite)
    | simp -zeta only [Keeps.upd]

end Sys2Proof.Machine
end

