-- ==== Sys2Proof/Laws/KeepsSafety.lean ====
section
/-! SUPPORT. Every operation and meaning of Machine/Safety.lean keeps the queue, the canonical forms and the order of time. -/

namespace Sys2Proof.Machine

open Reg

theorem State.permitTest_keeps {s0 : State} {s : State} {was : Nat} (hK : Keeps s0 s) : Keeps s0 (s.permitTest was) := by
  unfold State.permitTest
  repeat' first
    | with_reducible assumption
    | (with_reducible first | apply State.setF_keeps | apply State.addSat_keeps | apply Keeps.ite)
    | simp -zeta only [Keeps.upd]
    | split

theorem State.permitCompare_keeps {s0 : State} {s : State} (hK : Keeps s0 s) : Keeps s0 (s.permitCompare) := by
  unfold State.permitCompare
  repeat' first
    | with_reducible assumption
    | (with_reducible first | apply State.setF_keeps | apply Keeps.ite)
    | simp -zeta only [Keeps.upd]
    | split

theorem execPermitChange_keeps {s0 : State} {a : Bool} {b : Bool} {s : State} (hK : Keeps s0 s) :
    KeepsOut s0 (execPermitChange a b s) := by
  unfold execPermitChange
  repeat' first
    | with_reducible assumption
    | (with_reducible first
        | apply KeepsOut.next | apply KeepsOut.ite | apply State.permitCompare_keeps | apply State.permitTest_keeps
        | apply State.noteConds_keeps | apply State.latch_keeps | apply Keeps.ite)
    | simp -zeta only [Keeps.upd]
    | split

theorem execPermitDiscrepancy_keeps {s0 : State} {s : State} (hK : Keeps s0 s) : KeepsOut s0 (execPermitDiscrepancy s) := by
  unfold execPermitDiscrepancy
  repeat' first
    | with_reducible assumption
    | (with_reducible first
        | apply KeepsOut.next | apply KeepsOut.ite | apply State.at__keeps | apply State.addSat_keeps | apply State.setF_keeps
        | apply State.latch_keeps | apply Keeps.ite)
    | split

theorem execCoverChange_keeps {s0 : State} {high : Bool} {s : State} (hK : Keeps s0 s) : KeepsOut s0 (execCoverChange high s) := by
  unfold execCoverChange
  repeat' first
    | with_reducible assumption
    | (with_reducible first
        | apply KeepsOut.next | apply KeepsOut.ite | apply State.noteConds_keeps | apply State.latch_keeps | apply Keeps.ite)
    | simp -zeta only [Keeps.upd]

theorem execHgFaultFall_keeps {s0 : State} {s : State} (hK : Keeps s0 s) : KeepsOut s0 (execHgFaultFall s) := by
  unfold execHgFaultFall
  repeat' first
    | with_reducible assumption
    | (with_reducible first
        | apply KeepsOut.next | apply KeepsOut.ite | apply State.noteConds_keeps | apply State.latch_keeps | apply Keeps.ite)
    | simp -zeta only [Keeps.upd]

theorem execHgFaultRelease_keeps {s0 : State} {s : State} (hK : Keeps s0 s) : KeepsOut s0 (execHgFaultRelease s) := by
  unfold execHgFaultRelease
  repeat' first
    | with_reducible assumption
    | (with_reducible first | apply KeepsOut.next | apply State.noteConds_keeps)
    | simp -zeta only [Keeps.upd]

theorem State.walkStep_keeps {s0 : State} {s : State} {w : Walk} {ehs : Bool} {els : Bool} (hK : Keeps s0 s) :
    Keeps s0 (s.walkStep w ehs els) := by
  unfold State.walkStep
  repeat' first
    | with_reducible assumption
    | extract_lets +onlyGivenNames x
      first
      | have hx : Keeps s0 x := by
          dsimp -zeta only [x]
          repeat' first
            | with_reducible assumption
            | (with_reducible first | apply State.switches_keeps | apply State.setF_keeps | apply State.guardRequest_keeps)
            | simp -zeta only [Keeps.upd]
        clear_value x
      | clear_value x
    | (with_reducible first | apply State.switches_keeps | apply State.setF_keeps | apply State.guardRequest_keeps)
    | simp -zeta only [Keeps.upd]

theorem execSwitchWalkStart_keeps {s0 : State} {s : State} (hK : Keeps s0 s) : KeepsOut s0 (execSwitchWalkStart s) := by
  unfold execSwitchWalkStart
  repeat' first
    | with_reducible assumption
    | (with_reducible first | apply KeepsOut.next | apply KeepsOut.ite | apply State.walkStep_keeps | apply Keeps.ite)
    | simp -zeta only [Keeps.upd]

theorem State.walkFail_keeps {s0 : State} {s : State} {reason : Nat} (hK : Keeps s0 s) : Keeps s0 (s.walkFail reason) := by
  unfold State.walkFail
  repeat' first
    | with_reducible assumption
    | (with_reducible first | apply State.enterFault_keeps | apply State.endWalk_keeps)

theorem State.raiseThermal_keeps {s0 : State} {s : State} {kind : Nat} {more : List Byte} (hK : Keeps s0 s) :
    Keeps s0 (s.raiseThermal kind more) := by
  unfold State.raiseThermal
  repeat' first | with_reducible assumption | with_reducible apply State.raise_keeps

theorem State.thermalHold_keeps {s0 : State} {s : State} (hK : Keeps s0 s) : Keeps s0 (s.thermalHold) := by
  unfold State.thermalHold
  repeat' first
    | with_reducible assumption
    | (with_reducible first | apply State.raiseThermal_keeps | apply State.goto_keeps | apply Keeps.ite)

theorem State.row21_keeps {s0 : State} {s : State} (hK : Keeps s0 s) : Keeps s0 (s.row21) := by
  unfold State.row21
  repeat' first
    | with_reducible assumption
    | (with_reducible first
        | apply State.goto_keeps | apply State.enterFault_keeps | apply State.thermalHold_keeps | apply Keeps.ite)
    | simp -zeta only [Keeps.upd]

theorem State.walkPass_keeps {s0 : State} {s : State} (hK : Keeps s0 s) : Keeps s0 (s.walkPass) := by
  unfold State.walkPass
  repeat' first
    | with_reducible assumption
    | (with_reducible first | apply State.addSat_keeps | apply State.row21_keeps | apply State.endWalk_keeps | apply Keeps.ite)

theorem State.walkJudge_keeps {s0 : State} {s : State} {w : Walk} {vres : Int} {vmid : Int} (hK : Keeps s0 s) :
    Keeps s0 (s.walkJudge w vres vmid) := by
  unfold State.walkJudge
  repeat' first
    | with_reducible assumption
    | (with_reducible first
        | apply State.walkStep_keeps | apply State.walkFail_keeps | apply State.walkPass_keeps | apply Keeps.ite)
    | split

theorem execWalkStepEnd_keeps {s0 : State} {s : State} (hK : Keeps s0 s) : KeepsOut s0 (execWalkStepEnd s) := by
  unfold execWalkStepEnd
  repeat' first
    | with_reducible assumption
    | (with_reducible first | apply KeepsOut.next | apply State.walkJudge_keeps)
    | split

theorem execWalkGuardTimeout_keeps {s0 : State} {s : State} (hK : Keeps s0 s) : KeepsOut s0 (execWalkGuardTimeout s) := by
  unfold execWalkGuardTimeout
  repeat' first
    | with_reducible assumption
    | (with_reducible first
        | apply KeepsOut.next | apply KeepsOut.ite | apply State.walkFail_keeps | apply State.at__keeps | apply Keeps.ite)
    | split

theorem execReservoirCharged_keeps {s0 : State} {s : State} (hK : Keeps s0 s) : KeepsOut s0 (execReservoirCharged s) := by
  unfold execReservoirCharged
  repeat' first
    | with_reducible assumption
    | (with_reducible first | apply KeepsOut.next | apply KeepsOut.ite | apply State.setF_keeps | apply Keeps.ite)
    | simp -zeta only [Keeps.upd]
    | split

theorem execReservoirChargeTimeout_keeps {s0 : State} {s : State} (hK : Keeps s0 s) :
    KeepsOut s0 (execReservoirChargeTimeout s) := by
  unfold execReservoirChargeTimeout
  repeat' first
    | with_reducible assumption
    | (with_reducible first
        | apply KeepsOut.next | apply KeepsOut.ite | apply State.at__keeps | apply State.latch_keeps | apply Keeps.ite)

theorem State.guardCheck_keeps {s0 : State} {s : State} {vres : Int} {vmid : Int} (hK : Keeps s0 s) :
    Keeps s0 (s.guardCheck vres vmid) := by
  unfold State.guardCheck
  repeat' first
    | with_reducible assumption
    | (with_reducible first | apply State.latch_keeps | apply State.addSat_keeps | apply Keeps.ite)
    | simp -zeta only [Keeps.upd]
    | split

theorem State.walkPair_keeps {s0 : State} {s : State} {served : Bool} {vres : Int} {vmid : Int} (hK : Keeps s0 s) :
    Keeps s0 (s.walkPair served vres vmid) := by
  unfold State.walkPair
  repeat' first
    | with_reducible assumption
    | with_reducible apply Keeps.ite
    | simp -zeta only [Keeps.upd]
    | split

theorem execGuardConversion_keeps {s0 : State} {vres : Int} {vmid : Int} {s : State} (hK : Keeps s0 s) :
    KeepsOut s0 (execGuardConversion vres vmid s) := by
  unfold execGuardConversion
  repeat' first
    | with_reducible assumption
    | (with_reducible first
        | apply KeepsOut.next | apply KeepsOut.ite | apply State.walkPair_keeps | apply State.guardPair_keeps
        | apply State.guardCheck_keeps | apply State.noteConds_keeps | apply Keeps.ite)

theorem execGuardGap_keeps {s0 : State} {s : State} (hK : Keeps s0 s) : KeepsOut s0 (execGuardGap s) := by
  unfold execGuardGap
  repeat' first
    | with_reducible assumption
    | (with_reducible first
        | apply KeepsOut.next | apply KeepsOut.ite | apply State.latch_keeps | apply State.at__keeps | apply Keeps.ite)
    | split

theorem execAutoClear_keeps {s0 : State} {code : Nat} {s : State} (hK : Keeps s0 s) : KeepsOut s0 (execAutoClear code s) := by
  unfold execAutoClear
  repeat' first
    | with_reducible assumption
    | (with_reducible first
        | apply KeepsOut.next | apply KeepsOut.ite | apply State.unlatch_keeps | apply State.at__keeps | apply Keeps.ite)
    | split

theorem execDeadboltClear_keeps {s0 : State} {q : Req} {p : List Byte} {s : State} (hK : Keeps s0 s) :
    KeepsOut s0 (execDeadboltClear q p s) := by
  unfold execDeadboltClear
  repeat' first
    | with_reducible assumption
    | (with_reducible first
        | apply KeepsOut.next | apply KeepsOut.ite | apply State.fixed_keeps | apply State.reply_keeps
        | apply State.noteConds_keeps | apply State.unlatch_keeps | apply Keeps.ite | intro _ _ _ | intro _ _)

theorem execExposureLimits_keeps {s0 : State} {q : Req} {p : List Byte} {s : State} (hK : Keeps s0 s) :
    KeepsOut s0 (execExposureLimits q p s) := by
  unfold execExposureLimits
  repeat' first
    | with_reducible assumption
    | (with_reducible first
        | apply KeepsOut.next | apply State.fixed_keeps | apply Keeps.forEach | apply State.wr_keeps | apply State.reply_keeps
        | apply State.noteConds_keeps | intro _ _ _ | intro _ _)

theorem execSafetySelfTest_keeps {s0 : State} {q : Req} {p : List Byte} {s : State} (hK : Keeps s0 s) :
    KeepsOut s0 (execSafetySelfTest q p s) := by
  unfold execSafetySelfTest
  repeat' first
    | with_reducible assumption
    | (with_reducible first
        | apply KeepsOut.next | apply State.fixed_keeps | apply State.reply_keeps | apply State.addJob_keeps | intro _ _ _
        | intro _ _)

theorem execSafetySelfTestDone_keeps {s0 : State} {failed : Nat} {s : State} (hK : Keeps s0 s) :
    KeepsOut s0 (execSafetySelfTestDone failed s) := by
  unfold execSafetySelfTestDone
  repeat' first
    | with_reducible assumption
    | (with_reducible first
        | apply KeepsOut.next | apply KeepsOut.ite | apply State.setF_keeps | apply State.finishJobs_keeps
        | apply State.noteConds_keeps | apply Keeps.ite)
    | split

theorem State.coreFault_keeps {s0 : State} {s : State} {code : Nat} {cause : Nat} (hK : Keeps s0 s) :
    Keeps s0 (s.coreFault code cause) := by
  unfold State.coreFault
  repeat' first
    | with_reducible assumption
    | (with_reducible first
        | apply State.latchWith_keeps | apply State.enterFault_keeps | apply Keeps.ite | intro _ _ _ | intro _ _)

theorem execWatchdogExpiry_keeps {s0 : State} {s : State} (hK : Keeps s0 s) : KeepsOut s0 (execWatchdogExpiry s) := by
  unfold execWatchdogExpiry
  repeat' first
    | with_reducible assumption
    | (with_reducible first
        | apply KeepsOut.next | apply KeepsOut.ite | apply State.coreFault_keeps | apply State.setF_keeps | apply Keeps.ite)
    | split

theorem execLockstepMismatch_keeps {s0 : State} {s : State} (hK : Keeps s0 s) : KeepsOut s0 (execLockstepMismatch s) := by
  unfold execLockstepMismatch
  repeat' first
    | with_reducible assumption
    | (with_reducible first
        | apply KeepsOut.next | apply KeepsOut.ite | apply State.coreFault_keeps | apply State.setF_keeps | apply Keeps.ite)
    | split

end Sys2Proof.Machine
end

