-- ==== Sys2Proof/Laws/KeepsZones.lean ====
section
/-! SUPPORT. Every operation and meaning of Machine/Zones.lean keeps the queue, the canonical forms and the order of time. -/

namespace Sys2Proof.Machine

open Reg

theorem State.zonShow_keeps {s0 : State} {s : State} (hK : Keeps s0 s) : Keeps s0 (s.zonShow) := by
  unfold State.zonShow
  repeat' first | with_reducible assumption | with_reducible apply State.wr_keeps

theorem execSafetyStatus_keeps {s0 : State} {q : Req} {p : List Byte} {s : State} (hK : Keeps s0 s) :
    KeepsOut s0 (execSafetyStatus q p s) := by
  unfold execSafetyStatus
  repeat' first
    | with_reducible assumption
    | (with_reducible first
        | apply KeepsOut.next | apply KeepsOut.ite | apply State.fixed_keeps | apply State.replyOk_keeps | apply Keeps.ite
        | intro _ _ _ | intro _ _)

theorem State.evaluate_keeps {s0 : State} {s : State} {frame : Nat} {disagree : Bool} (hK : Keeps s0 s) :
    Keeps s0 (s.evaluate frame disagree) := by
  unfold State.evaluate
  repeat' first
    | with_reducible assumption
    | (with_reducible first
        | apply State.zonShow_keeps | apply State.addSat_keeps | apply Keeps.foldl | apply Keeps.ite | intro _ _ _ | intro _ _)
    | simp -zeta only [Keeps.upd]

theorem State.reportOn_keeps {s0 : State} {s : State} {data : List Byte} {seq : Nat} {p : Port} (hK : Keeps s0 s) :
    Keeps s0 (s.reportOn data seq p) := by
  unfold State.reportOn
  repeat' first
    | with_reducible assumption
    | (with_reducible first | apply State.sendUdp_keeps | apply Keeps.ite)
    | split

theorem State.safeSend_keeps {s0 : State} {s : State} (hK : Keeps s0 s) : Keeps s0 (s.safeSend) := by
  unfold State.safeSend
  repeat' first
    | with_reducible assumption
    | (with_reducible first
        | apply State.zonShow_keeps | apply State.addWrap_keeps | apply Keeps.forEach | apply State.reportOn_keeps
        | apply Keeps.ite | intro _ _ _ | intro _ _)
    | simp -zeta only [Keeps.upd]
    | split

theorem execZoneEvaluation_keeps {s0 : State} {disagree : Bool} {s : State} (hK : Keeps s0 s) :
    KeepsOut s0 (execZoneEvaluation disagree s) := by
  unfold execZoneEvaluation
  repeat' first
    | with_reducible assumption
    | (with_reducible first
        | apply KeepsOut.next | apply KeepsOut.ite | apply State.safeSend_keeps | apply State.evaluate_keeps | apply Keeps.ite)
    | split

theorem execSafeReportPeriodic_keeps {s0 : State} {s : State} (hK : Keeps s0 s) : KeepsOut s0 (execSafeReportPeriodic s) := by
  unfold execSafeReportPeriodic
  repeat' first
    | with_reducible assumption
    | (with_reducible first | apply KeepsOut.next | apply State.safeSend_keeps | apply State.at__keeps)
    | split

theorem execZoneHoldExpiry_keeps {s0 : State} {s : State} (hK : Keeps s0 s) : KeepsOut s0 (execZoneHoldExpiry s) := by
  unfold execZoneHoldExpiry
  repeat' first
    | with_reducible assumption
    | (with_reducible first | apply KeepsOut.next | apply State.zonShow_keeps | apply State.at__keeps)
    | split

theorem State.zonCtrl_keeps {s0 : State} {s : State} {w : Word} (hK : Keeps s0 s) : Keeps s0 (s.zonCtrl w) := by
  unfold State.zonCtrl
  repeat' first
    | with_reducible assumption
    | (with_reducible first | apply State.setF_keeps | apply State.wr_keeps | apply Keeps.ite)
    | simp -zeta only [Keeps.upd]

theorem State.zoneCopy_keeps {s0 : State} {s : State} (hK : Keeps s0 s) : Keeps s0 (s.zoneCopy).2 := by
  unfold State.zoneCopy
  repeat' first
    | with_reducible assumption
    | (with_reducible first
        | apply State.setF_keeps | apply State.copyMem_keeps | apply State.zonShow_keeps | apply State.wr_keeps)
    | simp -zeta only [Keeps.upd]
    | split

theorem State.zoneCopy_keepsE {s0 : State} {s : State} {rK} {tK : State} (eK : s.zoneCopy = (rK, tK)) (hK : Keeps s0 s)
    : Keeps s0 tK := by
  have qK : Keeps s0 (s.zoneCopy).2 := State.zoneCopy_keeps hK
  rw [eK] at qK; exact qK

theorem execZoneCommit_keeps {s0 : State} {q : Req} {p : List Byte} {s : State} (hK : Keeps s0 s) :
    KeepsOut s0 (execZoneCommit q p s) := by
  unfold execZoneCommit
  repeat' first
    | with_reducible assumption
    | (with_reducible first
        | apply KeepsOut.next | apply KeepsOut.ite | apply State.fixed_keeps | apply State.setF_keeps | apply State.addJob_keeps
        | apply State.reply_keeps | apply State.zoneCopy_keeps | apply State.zoneCopy_keepsE (by assumption)
        | apply State.badParam_keeps | apply Keeps.ite | intro _ _ _ | intro _ _)
    | split

theorem execDeferredZoneCopy_keeps {s0 : State} {s : State} (hK : Keeps s0 s) : KeepsOut s0 (execDeferredZoneCopy s) := by
  unfold execDeferredZoneCopy
  repeat' first
    | with_reducible assumption
    | (with_reducible first
        | apply KeepsOut.next | apply KeepsOut.ite | apply State.zoneCopy_keeps | apply State.zoneCopy_keepsE (by assumption)
        | apply State.finishJobs_keeps | apply State.setF_keeps | apply Keeps.ite)
    | split

theorem State.putSlot_keeps {s0 : State} {s : State} {p : Port} {c : Option SafeCopy} (hK : Keeps s0 s) :
    Keeps s0 (s.putSlot p c) := by
  unfold State.putSlot
  repeat' first
    | with_reducible assumption
    | with_reducible apply State.setF_keeps
    | simp -zeta only [Keeps.upd]
    | split

theorem State.safeExecute_keeps {s0 : State} {s : State} {p : List Byte} (hK : Keeps s0 s) : Keeps s0 (s.safeExecute p) := by
  unfold State.safeExecute
  repeat' first
    | with_reducible assumption
    | (with_reducible first
        | apply State.wr_keeps | apply State.zonShow_keeps | apply State.setF_keeps | apply State.latch_keeps
        | apply State.noteConds_keeps | apply State.unlatch_keeps)
    | split

theorem State.safePair_keeps {s0 : State} {s : State} (hK : Keeps s0 s) : Keeps s0 (s.safePair) := by
  unfold State.safePair
  repeat' first
    | with_reducible assumption
    | (with_reducible first
        | apply State.putSlot_keeps | apply State.reply_keeps | apply State.safeExecute_keeps | apply State.addSat_keeps
        | apply Keeps.ite)
    | split

theorem State.safeEnter_keeps {s0 : State} {s : State} {q : Req} {p : List Byte} {port : Port} (hK : Keeps s0 s) :
    Keeps s0 (s.safeEnter q p port) := by
  unfold State.safeEnter
  repeat' first
    | with_reducible assumption
    | (with_reducible first | apply State.safePair_keeps | apply State.putSlot_keeps | apply State.reply_keeps | apply Keeps.ite)
    | split

theorem execSafeCommand_keeps {s0 : State} {q : Req} {p : List Byte} {s : State} (hK : Keeps s0 s) :
    KeepsOut s0 (execSafeCommand q p s) := by
  unfold execSafeCommand
  repeat' first
    | with_reducible assumption
    | (with_reducible first
        | apply KeepsOut.next | apply State.command_keeps | apply State.reply_keeps | apply checked_keeps
        | apply State.safeEnter_keeps | intro _ _ _ | intro _ _)
    | split

theorem State.safeAlone_keeps {s0 : State} {s : State} {port : Port} {c : SafeCopy} (hK : Keeps s0 s) :
    Keeps s0 (s.safeAlone port c) := by
  unfold State.safeAlone
  repeat' first
    | with_reducible assumption
    | (with_reducible first
        | apply State.at__keeps | apply State.reply_keeps | apply State.addSat_keeps | apply State.putSlot_keeps)

theorem execSafeCommandUnpaired_keeps {s0 : State} {s : State} (hK : Keeps s0 s) : KeepsOut s0 (execSafeCommandUnpaired s) := by
  unfold execSafeCommandUnpaired
  repeat' first
    | with_reducible assumption
    | (with_reducible first | apply KeepsOut.next | apply State.safeAlone_keeps)
    | split

end Sys2Proof.Machine
end

