-- ==== Sys2Proof/Laws/KeepsReadback.lean ====
section
/-! SUPPORT. Every operation and meaning of Machine/Readback.lean keeps the queue, the canonical forms and the order of time. -/

namespace Sys2Proof.Machine

open Reg

theorem State.setShadow_keeps {s0 : State} {s : State} {p : Path} {x : Shadow} (hK : Keeps s0 s) : Keeps s0 (s.setShadow p x) := by
  unfold State.setShadow
  repeat' first | with_reducible assumption | simp -zeta only [Keeps.upd] | split

theorem State.readLow_keeps {s0 : State} {s : State} {p : Path} {a : Nat} (hK : Keeps s0 s) : Keeps s0 (s.readLow p a).2 := by
  unfold State.readLow
  repeat' first | with_reducible assumption | with_reducible apply State.setShadow_keeps

theorem State.readLow_keepsE {s0 : State} {s : State} {p : Path} {a : Nat} {rK} {tK : State} (eK : s.readLow p a = (rK, tK)) (hK
    : Keeps s0 s) : Keeps s0 tK := by
  have qK : Keeps s0 (s.readLow p a).2 := State.readLow_keeps hK
  rw [eK] at qK; exact qK

theorem State.readHigh_keeps {s0 : State} {s : State} {p : Path} {lo : Nat} {a : Nat} (hK : Keeps s0 s) :
    Keeps s0 (s.readHigh p lo a).2 := by
  unfold State.readHigh
  repeat' first
    | with_reducible assumption
    | extract_lets +onlyGivenNames x
      first
      | have hx : Keeps s0 x := by
          dsimp -zeta only [x]
          repeat' first
            | with_reducible assumption
            | (with_reducible first | apply State.setShadow_keeps | apply Keeps.ite)
            | simp -zeta only [Keeps.upd]
            | split
        clear_value x
      | clear_value x
    | (with_reducible first | apply State.setShadow_keeps | apply Keeps.ite)
    | simp -zeta only [Keeps.upd]
    | split

theorem State.readHigh_keepsE {s0 : State} {s : State} {p : Path} {lo : Nat} {a : Nat} {rK} {tK : State} (eK
    : s.readHigh p lo a = (rK, tK)) (hK : Keeps s0 s) : Keeps s0 tK := by
  have qK : Keeps s0 (s.readHigh p lo a).2 := State.readHigh_keeps hK
  rw [eK] at qK; exact qK

theorem State.readWord_keeps {s0 : State} {s : State} {p : Path} {a : Nat} (hK : Keeps s0 s) : Keeps s0 (s.readWord p a).2 := by
  unfold State.readWord
  repeat' first
    | with_reducible assumption
    | (with_reducible first
        | apply State.readLow_keeps | apply State.readLow_keepsE (by assumption) | apply State.readHigh_keeps
        | apply State.readHigh_keepsE (by assumption) | apply Keeps.ite)
    | split

theorem State.readWord_keepsE {s0 : State} {s : State} {p : Path} {a : Nat} {rK} {tK : State} (eK : s.readWord p a = (rK, tK))
    (hK : Keeps s0 s) : Keeps s0 tK := by
  have qK : Keeps s0 (s.readWord p a).2 := State.readWord_keeps hK
  rw [eK] at qK; exact qK

theorem State.readWords_keeps {s0 s : State} {p : Path} {a n : Nat} (h : Keeps s0 s) : Keeps s0 (s.readWords p a n).2 := by
  induction n generalizing s a with
  | zero => exact h
  | succ n ih => have k := ih (a := a + 4) (State.readWord_keeps (p := p) (a := a) h); exact k

theorem State.readWords_keepsE {s0 : State} {s : State} {p : Path} {a : Nat} {y3 : Nat} {rK} {tK : State} (eK
    : s.readWords p a y3 = (rK, tK)) (hK : Keeps s0 s) : Keeps s0 tK := by
  have qK : Keeps s0 (s.readWords p a y3).2 := State.readWords_keeps hK
  rw [eK] at qK; exact qK

theorem execRsLowWordRead_keeps {s0 : State} {path : Path} {a : Nat} {s : State} (hK : Keeps s0 s) :
    KeepsOut s0 (execRsLowWordRead path a s) := by
  unfold execRsLowWordRead
  repeat' first
    | with_reducible assumption
    | (with_reducible first
        | apply KeepsOut.next | apply KeepsOut.ite | apply State.readWord_keeps | apply State.readWord_keepsE (by assumption)
        | apply Keeps.ite)
    | simp -zeta only [Keeps.upd]
    | split

theorem execRsHighWordRead_keeps {s0 : State} {path : Path} {a : Nat} {s : State} (hK : Keeps s0 s) :
    KeepsOut s0 (execRsHighWordRead path a s) := by
  unfold execRsHighWordRead
  repeat' first
    | with_reducible assumption
    | (with_reducible first
        | apply KeepsOut.next | apply KeepsOut.ite | apply State.readWord_keeps | apply State.readWord_keepsE (by assumption)
        | apply Keeps.ite)
    | simp -zeta only [Keeps.upd]
    | split

end Sys2Proof.Machine
end

