-- ==== Sys2Proof/Laws/KeepsDma.lean ====
section
/-! SUPPORT. Every operation and meaning of Machine/Dma.lean keeps the queue, the canonical forms and the order of time. -/

namespace Sys2Proof.Machine

open Reg

theorem State.dmaLoad_keeps {s0 : State} {s : State} {c : Nat} (hK : Keeps s0 s) : Keeps s0 (s.dmaLoad c) := by
  unfold State.dmaLoad
  repeat' first | with_reducible assumption | with_reducible apply State.wr_keeps

theorem State.dmaEnable_keeps {s0 : State} {s : State} {c : Nat} (hK : Keeps s0 s) : Keeps s0 (s.dmaEnable c) := by
  unfold State.dmaEnable
  repeat' first
    | with_reducible assumption
    | (with_reducible first
        | apply State.setF_keeps | apply State.dmaLoad_keeps | apply State.setDch_keeps | apply State.watermarks_keeps
        | apply Keeps.ite)
    | split

theorem State.dmaDisable_keeps {s0 : State} {s : State} {c : Nat} (hK : Keeps s0 s) : Keeps s0 (s.dmaDisable c) := by
  unfold State.dmaDisable
  repeat' first
    | with_reducible assumption
    | (with_reducible first | apply State.dmaDrop_keeps | apply Keeps.ite)

theorem State.dmaLost_keeps {s0 : State} {s : State} {d : Nat} (hK : Keeps s0 s) : Keeps s0 (s.dmaLost d) := by
  unfold State.dmaLost
  repeat' first
    | with_reducible assumption
    | (with_reducible first | apply Keeps.forEach | apply State.dmaDrop_keeps | apply Keeps.ite | intro _ _ _ | intro _ _)
    | split

theorem State.dmaReset_keeps {s0 : State} {s : State} (hK : Keeps s0 s) : Keeps s0 (s.dmaReset) := by
  unfold State.dmaReset
  repeat' first
    | with_reducible assumption
    | extract_lets +onlyGivenNames x
      first
      | have hx : Keeps s0 x := by
          dsimp -zeta only [x]
          repeat' first | with_reducible assumption | with_reducible apply State.resetRegs_keeps | simp -zeta only [Keeps.upd]
        clear_value x
      | clear_value x
    | with_reducible apply State.resetRegs_keeps
    | simp -zeta only [Keeps.upd]

theorem State.dmaFlush_keeps {s0 : State} {s : State} {queue : Nat} (hK : Keeps s0 s) : Keeps s0 (s.dmaFlush queue) := by
  unfold State.dmaFlush
  repeat' first
    | with_reducible assumption
    | (with_reducible first | apply State.watermarks_keeps | apply State.dmaFills_keeps | apply Keeps.ite)
    | simp -zeta only [Keeps.upd]

theorem State.dmaCntClr_keeps {s0 : State} {s : State} (hK : Keeps s0 s) : Keeps s0 (s.dmaCntClr) := by
  unfold State.dmaCntClr
  repeat' first
    | with_reducible assumption
    | (with_reducible first | apply State.setF_keeps | apply Keeps.forEach | apply State.wr_keeps | intro _ _ _ | intro _ _)

theorem State.dmaQCtrl_keeps {s0 : State} {s : State} {w : Word} (hK : Keeps s0 s) : Keeps s0 (s.dmaQCtrl w) := by
  unfold State.dmaQCtrl
  repeat' first
    | with_reducible assumption
    | (with_reducible first | apply State.dmaFlush_keeps | apply State.dmaCntClr_keeps | apply Keeps.ite)

theorem State.dmaCtrl_keeps {s0 : State} {s : State} {c : Nat} {w : Word} (hK : Keeps s0 s) : Keeps s0 (s.dmaCtrl c w) := by
  unfold State.dmaCtrl
  repeat' first
    | with_reducible assumption
    | extract_lets +onlyGivenNames x
      first
      | have hx : Keeps s0 x := by
          dsimp -zeta only [x]
          repeat' first
            | with_reducible assumption
            | (with_reducible first
                | apply State.setF_keeps | apply State.dmaEnable_keeps | apply State.dmaDisable_keeps | apply Keeps.ite)
            | split
        clear_value x
      | clear_value x
    | (with_reducible first
        | apply State.setF_keeps | apply State.dmaEnable_keeps | apply State.dmaDisable_keeps | apply Keeps.ite)
    | split

theorem execDmaTimerRequest_keeps {s0 : State} {c : Nat} {s : State} (hK : Keeps s0 s) : KeepsOut s0 (execDmaTimerRequest c s) := by
  unfold execDmaTimerRequest
  repeat' first
    | with_reducible assumption
    | (with_reducible first
        | apply KeepsOut.next | apply KeepsOut.ite | apply State.at__keeps | apply State.setDch_keeps | apply State.dmaPend_keeps
        | apply Keeps.ite)
    | simp -zeta only [Keeps.upd]
    | split

end Sys2Proof.Machine
end

