-- ==== Sys2Proof/Laws/KeepsServo.lean ====
section
/-! SUPPORT. Every operation and meaning of Machine/Servo.lean keeps the queue, the canonical forms and the order of time. -/

namespace Sys2Proof.Machine

open Reg

theorem State.deliverAz_keeps {s0 : State} {s : State} {x : Nat} {raw : Option Int} (hK : Keeps s0 s) :
    Keeps s0 (s.deliverAz x raw) := by
  unfold State.deliverAz
  repeat' first
    | with_reducible assumption
    | extract_lets +onlyGivenNames x
      first
      | have hx : Keeps s0 x := by
          dsimp -zeta only [x]
          repeat' first
            | with_reducible assumption
            | (with_reducible first | apply State.setF_keeps | apply State.wr_keeps | apply Keeps.ite)
            | simp -zeta only [Keeps.upd]
            | split
        clear_value x
      | clear_value x
    | (with_reducible first | apply State.setF_keeps | apply State.wr_keeps | apply Keeps.ite)
    | simp -zeta only [Keeps.upd]
    | split

theorem State.trajSwap_keeps {s0 : State} {s : State} {x : Nat} (hK : Keeps s0 s) : Keeps s0 (s.trajSwap x) := by
  unfold State.trajSwap
  repeat' first
    | with_reducible assumption
    | (with_reducible first | apply State.setF_keeps | apply State.setLoop_keeps | apply Keeps.ite)
    | simp -zeta only [Keeps.upd]

theorem State.trajArrive_keeps {s0 : State} {s : State} {x : Nat} (hK : Keeps s0 s) : Keeps s0 (s.trajArrive x) := by
  unfold State.trajArrive
  repeat' first
    | with_reducible assumption
    | (with_reducible first
        | apply State.trajSwap_keeps | apply State.setLoop_keeps | apply State.frameEvent_keeps | apply Keeps.ite)
    | simp -zeta only [Keeps.upd]

theorem State.saturated_keeps {s0 : State} {s : State} {x : Nat} {l : Loop} (hK : Keeps s0 s) : Keeps s0 (s.saturated x l) := by
  unfold State.saturated
  repeat' first
    | with_reducible assumption
    | (with_reducible first
        | apply State.setF_keeps | apply State.traceTrigger_keeps | apply State.addSat_keeps | apply Keeps.ite)
    | split

theorem State.drive_keeps {s0 : State} {s : State} {x : Nat} {code : Nat} (hK : Keeps s0 s) : Keeps s0 (s.drive x code) := by
  unfold State.drive
  repeat' first
    | with_reducible assumption
    | (with_reducible first | apply State.setF_keeps | apply Keeps.ite)
    | simp -zeta only [Keeps.upd]
    | split

theorem State.showSample_keeps {s0 : State} {s : State} {x : Nat} {l : Loop} (hK : Keeps s0 s) : Keeps s0 (s.showSample x l) := by
  unfold State.showSample
  repeat' first
    | with_reducible assumption
    | (with_reducible first | apply State.setF_keeps | apply State.wr_keeps | apply Keeps.ite)

theorem State.loopTrip_keeps {s0 : State} {s : State} {x : Nat} (hK : Keeps s0 s) : Keeps s0 (s.loopTrip x) := by
  unfold State.loopTrip
  repeat' first
    | with_reducible assumption
    | (with_reducible first
        | apply State.setF_keeps | apply State.setLoop_keeps | apply State.traceTrigger_keeps | apply Keeps.ite)
    | simp -zeta only [Keeps.upd]

theorem execLoopTrip_keeps {s0 : State} {x : Nat} {s : State} (hK : Keeps s0 s) : KeepsOut s0 (execLoopTrip x s) := by
  unfold execLoopTrip
  repeat' first
    | with_reducible assumption
    | (with_reducible first | apply KeepsOut.next | apply KeepsOut.ite | apply State.loopTrip_keeps | apply Keeps.ite)

theorem State.traceWrite_keeps {s0 : State} {s : State} (hK : Keeps s0 s) : Keeps s0 (s.traceWrite) := by
  unfold State.traceWrite
  repeat' first
    | with_reducible assumption
    | (with_reducible first | apply State.setF_keeps | apply State.setBytes_keeps | apply State.wr_keeps | apply Keeps.ite)
    | simp -zeta only [Keeps.upd]

theorem State.traceSample_keeps {s0 : State} {s : State} {x : Nat} (hK : Keeps s0 s) : Keeps s0 (s.traceSample x) := by
  unfold State.traceSample
  repeat' first
    | with_reducible assumption
    | (with_reducible first | apply State.traceTrigger_keeps | apply State.traceWrite_keeps | apply Keeps.ite)
    | simp -zeta only [Keeps.upd]

theorem State.traceEnd_keeps {s0 : State} {s : State} (hK : Keeps s0 s) : Keeps s0 (s.traceEnd) := by
  unfold State.traceEnd
  repeat' first | with_reducible assumption | (with_reducible first | apply State.setF_keeps | apply Keeps.ite)

theorem execTraceDone_keeps {s0 : State} {s : State} (hK : Keeps s0 s) : KeepsOut s0 (execTraceDone s) := by
  unfold execTraceDone
  repeat' first
    | with_reducible assumption
    | (with_reducible first | apply KeepsOut.next | apply KeepsOut.ite | apply State.traceEnd_keeps | apply Keeps.ite)

theorem State.traceArm_keeps {s0 : State} {s : State} (hK : Keeps s0 s) : Keeps s0 (s.traceArm) := by
  unfold State.traceArm
  repeat' first | with_reducible assumption | with_reducible apply State.wr_keeps | simp -zeta only [Keeps.upd]

theorem State.traceStop_keeps {s0 : State} {s : State} (hK : Keeps s0 s) : Keeps s0 (s.traceStop) := by
  unfold State.traceStop
  repeat' first
    | with_reducible assumption
    | (with_reducible first | apply State.traceEnd_keeps | apply Keeps.ite)

theorem State.missSample_keeps {s0 : State} {s : State} {x : Nat} {auto : Bool} (hK : Keeps s0 s) :
    Keeps s0 (s.missSample x auto) := by
  unfold State.missSample
  repeat' first
    | with_reducible assumption
    | (with_reducible first | apply State.setF_keeps | apply State.addSat_keeps | apply State.setLoop_keeps | apply Keeps.ite)
    | simp -zeta only [Keeps.upd]

theorem State.goodSample_keeps {s0 : State} {s : State} {x : Nat} {fb : Int} {auto : Bool} (hK : Keeps s0 s) :
    Keeps s0 (s.goodSample x fb auto) := by
  unfold State.goodSample
  repeat' first
    | with_reducible assumption
    | (with_reducible first
        | apply State.setF_keeps | apply State.saturated_keeps | apply State.drive_keeps | apply State.showSample_keeps
        | apply State.setLoop_keeps | apply Keeps.ite)
    | simp -zeta only [Keeps.upd]
    | split

theorem execLoopSample_keeps {s0 : State} {x : Nat} {s : State} (hK : Keeps s0 s) : KeepsOut s0 (execLoopSample x s) := by
  unfold execLoopSample
  repeat' first
    | with_reducible assumption
    | (with_reducible first
        | apply KeepsOut.next | apply KeepsOut.ite | apply State.loopTrip_keeps | apply State.trajArrive_keeps
        | apply State.setF_keeps | apply State.missSample_keeps | apply State.goodSample_keeps | apply State.noteConds_keeps
        | apply State.traceSample_keeps | apply State.deliverAz_keeps | apply Keeps.ite)
    | split

theorem State.verdict_keeps {s0 : State} {s : State} (hK : Keeps s0 s) : Keeps s0 (s.verdict) := by
  unfold State.verdict
  repeat' first
    | with_reducible assumption
    | extract_lets +onlyGivenNames x
      first
      | have hx : Keeps s0 x := by
          dsimp -zeta only [x]
          repeat' first
            | with_reducible assumption
            | (with_reducible first | apply State.setF_keeps | apply Keeps.ite)
            | simp -zeta only [Keeps.upd]
        clear_value x
      | clear_value x
    | (with_reducible first | apply State.setF_keeps | apply Keeps.ite)
    | simp -zeta only [Keeps.upd]

theorem execServoTick_keeps {s0 : State} {r0 : Int} {r1 : Int} {r2 : Int} {r3 : Int} {s : State} (hK : Keeps s0 s) :
    KeepsOut s0 (execServoTick r0 r1 r2 r3 s) := by
  unfold execServoTick
  repeat' first
    | with_reducible assumption
    | (with_reducible first
        | apply KeepsOut.next | apply KeepsOut.ite | apply State.at__keeps | apply State.verdict_keeps | apply State.addWrap_keeps
        | apply State.dmaRequest_keeps | apply State.madEvent_keeps | apply State.tickConversions_keeps | apply Keeps.ite)
    | simp -zeta only [Keeps.upd]
    | split

theorem execServoStopRampDone_keeps {s0 : State} {s : State} (hK : Keeps s0 s) : KeepsOut s0 (execServoStopRampDone s) := by
  unfold execServoStopRampDone
  repeat' first
    | with_reducible assumption
    | (with_reducible first
        | apply KeepsOut.next | apply KeepsOut.ite | apply Keeps.forEach | apply State.loopStop_keeps | apply State.setF_keeps
        | apply State.refCheck_keeps | apply Keeps.ite | intro _ _ _ | intro _ _)
    | simp -zeta only [Keeps.upd]

theorem execMirrorWindowExit_keeps {s0 : State} {s : State} (hK : Keeps s0 s) : KeepsOut s0 (execMirrorWindowExit s) := by
  unfold execMirrorWindowExit
  repeat' first
    | with_reducible assumption
    | (with_reducible first | apply KeepsOut.next | apply KeepsOut.ite | apply State.mirrorOut_keeps | apply Keeps.ite)

theorem execMirrorWindowEntry_keeps {s0 : State} {s : State} (hK : Keeps s0 s) : KeepsOut s0 (execMirrorWindowEntry s) := by
  unfold execMirrorWindowEntry
  repeat' first
    | with_reducible assumption
    | (with_reducible first
        | apply KeepsOut.next | apply KeepsOut.ite | apply State.noteConds_keeps | apply State.setF_keeps | apply Keeps.ite)

theorem execEncoderEdge_keeps {s0 : State} {a : Bool} {b : Bool} {s : State} (hK : Keeps s0 s) :
    KeepsOut s0 (execEncoderEdge a b s) := by
  unfold execEncoderEdge
  repeat' first
    | with_reducible assumption
    | (with_reducible first
        | apply KeepsOut.next | apply KeepsOut.ite | apply State.setF_keeps | apply State.addSat_keeps | apply State.wr_keeps
        | apply Keeps.ite)
    | simp -zeta only [Keeps.upd]
    | split

theorem State.indexCount_keeps {s0 : State} {s : State} (hK : Keeps s0 s) : Keeps s0 (s.indexCount) := by
  unfold State.indexCount
  repeat' first
    | with_reducible assumption
    | (with_reducible first | apply State.setF_keeps | apply State.wr_keeps | apply Keeps.ite)

theorem State.indexTime_keeps {s0 : State} {s : State} (hK : Keeps s0 s) : Keeps s0 (s.indexTime) := by
  unfold State.indexTime
  repeat' first
    | with_reducible assumption
    | extract_lets +onlyGivenNames x
      first
      | have hx : Keeps s0 x := by
          dsimp -zeta only [x]
          repeat' first
            | with_reducible assumption
            | (with_reducible first | apply State.wr_keeps | apply Keeps.ite)
            | simp -zeta only [Keeps.upd]
            | split
        clear_value x
      | clear_value x
    | (with_reducible first | apply State.wr_keeps | apply Keeps.ite)
    | simp -zeta only [Keeps.upd]
    | split

theorem execQeiRisingEdge_keeps {s0 : State} {s : State} (hK : Keeps s0 s) : KeepsOut s0 (execQeiRisingEdge s) := by
  unfold execQeiRisingEdge
  repeat' first
    | with_reducible assumption
    | (with_reducible first
        | apply KeepsOut.next | apply KeepsOut.ite | apply State.indexTime_keeps | apply State.indexCount_keeps
        | apply State.frameEvent_keeps | apply Keeps.ite)

end Sys2Proof.Machine
end

