-- ==== Sys2Proof/Laws/KeepsRegWrite.lean ====
section
/-! SUPPORT. Every operation and meaning of Machine/RegWrite.lean keeps the queue, the canonical forms and the order of time. -/

namespace Sys2Proof.Machine

open Reg

theorem State.put_keeps {s0 : State} {s : State} {x : Wr} (hK : Keeps s0 s) : Keeps s0 (s.put x).2 := by
  unfold State.put
  repeat' first | with_reducible assumption | with_reducible apply State.wr_keeps

theorem State.put_keepsE {s0 : State} {s : State} {x : Wr} {rK} {tK : State} (eK : s.put x = (rK, tK)) (hK : Keeps s0 s)
    : Keeps s0 tK := by
  have qK : Keeps s0 (s.put x).2 := State.put_keeps hK
  rw [eK] at qK; exact qK

theorem State.wrRej_keeps {s0 : State} {s : State} {flag : Nat} {f : Fld} (hK : Keeps s0 s) : Keeps s0 (s.wrRej flag f).2 := by
  unfold State.wrRej
  repeat' first | with_reducible assumption | with_reducible apply State.setF_keeps

theorem State.wrRej_keepsE {s0 : State} {s : State} {flag : Nat} {f : Fld} {rK} {tK : State} (eK : s.wrRej flag f = (rK, tK))
    (hK : Keeps s0 s) : Keeps s0 tK := by
  have qK : Keeps s0 (s.wrRej flag f).2 := State.wrRej_keeps hK
  rw [eK] at qK; exact qK

theorem State.putHeld_keeps {s0 : State} {s : State} {x : Wr} (hK : Keeps s0 s) : Keeps s0 (s.putHeld x).2 := by
  unfold State.putHeld
  repeat' first
    | with_reducible assumption
    | (with_reducible first | apply State.hold_keeps | apply State.release_keeps | apply State.put_keeps | apply Keeps.ite)

theorem State.putHeld_keepsE {s0 : State} {s : State} {x : Wr} {rK} {tK : State} (eK : s.putHeld x = (rK, tK)) (hK : Keeps s0 s)
    : Keeps s0 tK := by
  have qK : Keeps s0 (s.putHeld x).2 := State.putHeld_keeps hK
  rw [eK] at qK; exact qK

theorem State.zero_keeps {s0 : State} {s : State} {l : List Nat} (hK : Keeps s0 s) : Keeps s0 (s.zero l) := by
  unfold State.zero
  repeat' first
    | with_reducible assumption
    | (with_reducible first | apply Keeps.forEach | apply State.wr_keeps | intro _ _ _ | intro _ _)

theorem State.zeroF_keeps {s0 : State} {s : State} {l : List Nat} {f : Fld} (hK : Keeps s0 s) : Keeps s0 (s.zeroF l f) := by
  unfold State.zeroF
  repeat' first
    | with_reducible assumption
    | (with_reducible first | apply Keeps.forEach | apply State.setF_keeps | intro _ _ _ | intro _ _)

theorem State.writeGlb_keeps {s0 : State} {s : State} {x : Wr} (hK : Keeps s0 s) : Keeps s0 (s.writeGlb x).2 := by
  unfold State.writeGlb
  repeat' first
    | with_reducible assumption
    | extract_lets +onlyGivenNames x
      first
      | have hx : Keeps s0 x := by
          dsimp -zeta only [x]
          repeat' first | with_reducible assumption | (with_reducible first | apply State.put_keeps | apply Keeps.ite) | split
        clear_value x
      | clear_value x
    | (with_reducible first | apply State.put_keeps | apply Keeps.ite)
    | split

theorem State.writeGlb_keepsE {s0 : State} {s : State} {x : Wr} {rK} {tK : State} (eK : s.writeGlb x = (rK, tK)) (hK
    : Keeps s0 s) : Keeps s0 tK := by
  have qK : Keeps s0 (s.writeGlb x).2 := State.writeGlb_keeps hK
  rw [eK] at qK; exact qK

theorem State.writeCmd_keeps {s0 : State} {s : State} {x : Wr} (hK : Keeps s0 s) : Keeps s0 (s.writeCmd x).2 := by
  unfold State.writeCmd
  repeat' first
    | with_reducible assumption
    | (with_reducible first | apply State.put_keeps | apply Keeps.ite)
    | simp -zeta only [Keeps.upd]
    | split

theorem State.writeCmd_keepsE {s0 : State} {s : State} {x : Wr} {rK} {tK : State} (eK : s.writeCmd x = (rK, tK)) (hK
    : Keeps s0 s) : Keeps s0 tK := by
  have qK : Keeps s0 (s.writeCmd x).2 := State.writeCmd_keeps hK
  rw [eK] at qK; exact qK

theorem State.writePmu_keeps {s0 : State} {s : State} {x : Wr} (hK : Keeps s0 s) : Keeps s0 (s.writePmu x).2 := by
  unfold State.writePmu
  repeat' first
    | with_reducible assumption
    | (with_reducible first | apply State.put_keeps | apply Keeps.ite)
    | simp -zeta only [Keeps.upd]

theorem State.writePmu_keepsE {s0 : State} {s : State} {x : Wr} {rK} {tK : State} (eK : s.writePmu x = (rK, tK)) (hK
    : Keeps s0 s) : Keeps s0 tK := by
  have qK : Keeps s0 (s.writePmu x).2 := State.writePmu_keeps hK
  rw [eK] at qK; exact qK

theorem State.writeRfe_keeps {s0 : State} {s : State} {x : Wr} (hK : Keeps s0 s) : Keeps s0 (s.writeRfe x).2 := by
  unfold State.writeRfe
  repeat' first
    | with_reducible assumption
    | (with_reducible first | apply State.put_keeps | apply State.putHeld_keeps | apply Keeps.ite)
    | split

theorem State.writeRfe_keepsE {s0 : State} {s : State} {x : Wr} {rK} {tK : State} (eK : s.writeRfe x = (rK, tK)) (hK
    : Keeps s0 s) : Keeps s0 tK := by
  have qK : Keeps s0 (s.writeRfe x).2 := State.writeRfe_keeps hK
  rw [eK] at qK; exact qK

theorem State.clearTdc_keeps {s0 : State} {s : State} {x : Wr} (hK : Keeps s0 s) : Keeps s0 (s.clearTdc x) := by
  unfold State.clearTdc
  repeat' first
    | with_reducible assumption
    | (with_reducible first | apply State.zero_keeps | apply State.zeroF_keeps | apply Keeps.ite)

theorem State.writeTdc_keeps {s0 : State} {s : State} {x : Wr} (hK : Keeps s0 s) : Keeps s0 (s.writeTdc x).2 := by
  unfold State.writeTdc
  repeat' first
    | with_reducible assumption
    | extract_lets +onlyGivenNames x
      first
      | have hx : Keeps s0 x := by
          dsimp -zeta only [x]
          repeat' first
            | with_reducible assumption
            | (with_reducible first
                | apply State.clearTdc_keeps | apply State.wr_keeps | apply State.tpiGo_keeps | apply State.put_keeps
                | apply State.wrRej_keeps | apply State.putHeld_keeps | apply Keeps.ite)
            | split
        clear_value x
      | clear_value x
    | (with_reducible first
        | apply State.clearTdc_keeps | apply State.wr_keeps | apply State.tpiGo_keeps | apply State.put_keeps
        | apply State.wrRej_keeps | apply State.putHeld_keeps | apply Keeps.ite)
    | split

theorem State.writeTdc_keepsE {s0 : State} {s : State} {x : Wr} {rK} {tK : State} (eK : s.writeTdc x = (rK, tK)) (hK
    : Keeps s0 s) : Keeps s0 tK := by
  have qK : Keeps s0 (s.writeTdc x).2 := State.writeTdc_keeps hK
  rw [eK] at qK; exact qK

theorem State.clearTmb_keeps {s0 : State} {s : State} {x : Wr} (hK : Keeps s0 s) : Keeps s0 (s.clearTmb x) := by
  unfold State.clearTmb
  repeat' first | with_reducible assumption | with_reducible apply State.zero_keeps

theorem State.writeTmb_keeps {s0 : State} {s : State} {x : Wr} (hK : Keeps s0 s) : Keeps s0 (s.writeTmb x).2 := by
  unfold State.writeTmb
  repeat' first
    | with_reducible assumption
    | (with_reducible first
        | apply State.clearTmb_keeps | apply State.put_keeps | apply State.put_keepsE (by assumption) | apply State.putHeld_keeps
        | apply State.putHeld_keepsE (by assumption) | apply State.rewidth_keeps | apply Keeps.ite)
    | split

theorem State.writeTmb_keepsE {s0 : State} {s : State} {x : Wr} {rK} {tK : State} (eK : s.writeTmb x = (rK, tK)) (hK
    : Keeps s0 s) : Keeps s0 tK := by
  have qK : Keeps s0 (s.writeTmb x).2 := State.writeTmb_keeps hK
  rw [eK] at qK; exact qK

theorem State.writeAlc_keeps {s0 : State} {s : State} {x : Wr} (hK : Keeps s0 s) : Keeps s0 (s.writeAlc x).2 := by
  unfold State.writeAlc
  repeat' first
    | with_reducible assumption
    | extract_lets +onlyGivenNames x
      first
      | have hx : Keeps s0 x := by
          dsimp -zeta only [x]
          repeat' first
            | with_reducible assumption
            | (with_reducible first | apply State.wr_keeps | apply State.wrRej_keeps | apply Keeps.ite)
            | simp -zeta only [Keeps.upd]
            | split
        clear_value x
      | clear_value x
    | (with_reducible first | apply State.wr_keeps | apply State.wrRej_keeps | apply Keeps.ite)
    | simp -zeta only [Keeps.upd]
    | split

theorem State.writeFir_keeps {s0 : State} {s : State} {x : Wr} (hK : Keeps s0 s) : Keeps s0 (s.writeFir x).2 := by
  unfold State.writeFir
  repeat' first
    | with_reducible assumption
    | (with_reducible first
        | apply State.zero_keeps | apply State.writeAlc_keeps | apply State.put_keeps | apply State.putHeld_keeps
        | apply Keeps.ite)
    | split

theorem State.writeFir_keepsE {s0 : State} {s : State} {x : Wr} {rK} {tK : State} (eK : s.writeFir x = (rK, tK)) (hK
    : Keeps s0 s) : Keeps s0 tK := by
  have qK : Keeps s0 (s.writeFir x).2 := State.writeFir_keeps hK
  rw [eK] at qK; exact qK

theorem State.writeBin_keeps {s0 : State} {s : State} {x : Wr} (hK : Keeps s0 s) : Keeps s0 (s.writeBin x).2 := by
  unfold State.writeBin
  repeat' first
    | with_reducible assumption
    | extract_lets +onlyGivenNames x
      first
      | have hx : Keeps s0 x := by
          dsimp -zeta only [x]
          repeat' first
            | with_reducible assumption
            | (with_reducible first | apply State.wrRej_keeps | apply State.put_keeps | apply Keeps.ite)
            | split
        clear_value x
      | clear_value x
    | (with_reducible first | apply State.wrRej_keeps | apply State.put_keeps | apply Keeps.ite)
    | split

theorem State.clearHge_keeps {s0 : State} {s : State} {x : Wr} (hK : Keeps s0 s) : Keeps s0 (s.clearHge x) := by
  unfold State.clearHge
  repeat' first
    | with_reducible assumption
    | (with_reducible first | apply State.zero_keeps | apply State.zeroF_keeps | apply State.wr_keeps | apply Keeps.ite)

theorem State.writeHge_keeps {s0 : State} {s : State} {x : Wr} (hK : Keeps s0 s) : Keeps s0 (s.writeHge x).2 := by
  unfold State.writeHge
  repeat' first
    | with_reducible assumption
    | (with_reducible first
        | apply State.writeBin_keeps | apply State.clearHge_keeps | apply State.putHeld_keeps | apply State.put_keeps
        | apply Keeps.ite)
    | split

theorem State.writeHge_keepsE {s0 : State} {s : State} {x : Wr} {rK} {tK : State} (eK : s.writeHge x = (rK, tK)) (hK
    : Keeps s0 s) : Keeps s0 tK := by
  have qK : Keeps s0 (s.writeHge x).2 := State.writeHge_keeps hK
  rw [eK] at qK; exact qK

theorem State.writeExt_keeps {s0 : State} {s : State} {x : Wr} (hK : Keeps s0 s) : Keeps s0 (s.writeExt x).2 := by
  unfold State.writeExt
  repeat' first
    | with_reducible assumption
    | (with_reducible first
        | apply State.put_keeps | apply State.put_keepsE (by assumption) | apply State.zero_keeps | apply State.putHeld_keeps
        | apply State.putHeld_keepsE (by assumption) | apply State.wrRej_keeps | apply State.wrRej_keepsE (by assumption)
        | apply State.wr_keeps | apply Keeps.ite)
    | split

theorem State.writeExt_keepsE {s0 : State} {s : State} {x : Wr} {rK} {tK : State} (eK : s.writeExt x = (rK, tK)) (hK
    : Keeps s0 s) : Keeps s0 tK := by
  have qK : Keeps s0 (s.writeExt x).2 := State.writeExt_keeps hK
  rw [eK] at qK; exact qK

theorem State.coefRej_keeps {s0 : State} {s : State} (hK : Keeps s0 s) : Keeps s0 (s.coefRej).2 := by
  unfold State.coefRej
  repeat' first | with_reducible assumption | with_reducible apply State.setF_keeps

theorem State.srvRej_keeps {s0 : State} {s : State} (hK : Keeps s0 s) : Keeps s0 (s.srvRej).2 := by
  unfold State.srvRej
  repeat' first | with_reducible assumption | with_reducible apply State.wrRej_keeps

theorem State.srvIgnore_keeps {s0 : State} {s : State} (hK : Keeps s0 s) : Keeps s0 (s.srvIgnore).2 := by
  unfold State.srvIgnore
  repeat' first | with_reducible assumption | with_reducible apply State.wrRej_keeps

theorem State.writeLpCfg_keeps {s0 : State} {s : State} {x : Wr} (hK : Keeps s0 s) : Keeps s0 (s.writeLpCfg x).2 := by
  unfold State.writeLpCfg
  repeat' first
    | with_reducible assumption
    | extract_lets +onlyGivenNames x
      first
      | have hx : Keeps s0 x := by
          dsimp -zeta only [x]
          repeat' first
            | with_reducible assumption
            | (with_reducible first | apply State.srvRej_keeps | apply State.setF_keeps | apply State.put_keeps | apply Keeps.ite)
            | split
        clear_value x
      | clear_value x
    | (with_reducible first | apply State.srvRej_keeps | apply State.setF_keeps | apply State.put_keeps | apply Keeps.ite)
    | split

theorem State.writeOpen_keeps {s0 : State} {s : State} {x : Wr} (hK : Keeps s0 s) : Keeps s0 (s.writeOpen x).2 := by
  unfold State.writeOpen
  repeat' first
    | with_reducible assumption
    | (with_reducible first | apply State.writeLpCfg_keeps | apply State.srvRej_keeps | apply State.put_keeps | apply Keeps.ite)
    | split

theorem State.writeLpCtrl_keeps {s0 : State} {s : State} {x : Wr} (hK : Keeps s0 s) : Keeps s0 (s.writeLpCtrl x).2 := by
  unfold State.writeLpCtrl
  repeat' first
    | with_reducible assumption
    | (with_reducible first
        | apply State.wr_keeps | apply State.traceTrigger_keeps | apply State.loopStart_keeps | apply State.loopStop_keeps
        | apply Keeps.ite)

theorem State.writeLpTraj_keeps {s0 : State} {s : State} {x : Wr} (hK : Keeps s0 s) : Keeps s0 (s.writeLpTraj x).2 := by
  unfold State.writeLpTraj
  repeat' first
    | with_reducible assumption
    | (with_reducible first | apply State.srvRej_keeps | apply State.put_keeps | apply Keeps.ite)
    | split

theorem State.writeTrc_keeps {s0 : State} {s : State} {x : Wr} (hK : Keeps s0 s) : Keeps s0 (s.writeTrc x).2 := by
  unfold State.writeTrc
  repeat' first
    | with_reducible assumption
    | (with_reducible first
        | apply State.wr_keeps | apply State.traceArm_keeps | apply State.traceTrigger_keeps | apply State.traceStop_keeps
        | apply Keeps.ite)

theorem State.clearSrv_keeps {s0 : State} {s : State} (hK : Keeps s0 s) : Keeps s0 (s.clearSrv) := by
  unfold State.clearSrv
  repeat' first
    | with_reducible assumption
    | (with_reducible first | apply State.zero_keeps | apply State.setF_keeps)

theorem State.writeSrvCtrl_keeps {s0 : State} {s : State} {x : Wr} (hK : Keeps s0 s) : Keeps s0 (s.writeSrvCtrl x).2 := by
  unfold State.writeSrvCtrl
  repeat' first
    | with_reducible assumption
    | extract_lets +onlyGivenNames x
      first
      | have hx : Keeps s0 x := by
          dsimp -zeta only [x]
          repeat' first
            | with_reducible assumption
            | (with_reducible first
                | apply State.wr_keeps | apply State.refCheck_keeps | apply State.srvStart_keeps | apply State.srvStop_keeps
                | apply Keeps.ite)
            | split
        clear_value x
      | clear_value x
    | (with_reducible first
        | apply State.wr_keeps | apply State.refCheck_keeps | apply State.srvStart_keeps | apply State.srvStop_keeps
        | apply Keeps.ite)
    | split

theorem State.writeSrvRest_keeps {s0 : State} {s : State} {x : Wr} (hK : Keeps s0 s) : Keeps s0 (s.writeSrvRest x).2 := by
  unfold State.writeSrvRest
  repeat' first
    | with_reducible assumption
    | (with_reducible first
        | apply State.coefRej_keeps | apply State.srvRej_keeps | apply State.put_keeps | apply State.srvIgnore_keeps
        | apply Keeps.ite)
    | split

theorem State.writeSrv_keeps {s0 : State} {s : State} {x : Wr} (hK : Keeps s0 s) : Keeps s0 (s.writeSrv x).2 := by
  unfold State.writeSrv
  repeat' first
    | with_reducible assumption
    | (with_reducible first
        | apply State.writeSrvCtrl_keeps | apply State.clearSrv_keeps | apply State.wr_keeps | apply State.writeTrc_keeps
        | apply State.writeLpCtrl_keeps | apply State.writeLpTraj_keeps | apply State.coefRej_keeps | apply State.writeOpen_keeps
        | apply State.writeSrvRest_keeps | apply Keeps.ite)
    | split

theorem State.writeSrv_keepsE {s0 : State} {s : State} {x : Wr} {rK} {tK : State} (eK : s.writeSrv x = (rK, tK)) (hK
    : Keeps s0 s) : Keeps s0 tK := by
  have qK : Keeps s0 (s.writeSrv x).2 := State.writeSrv_keeps hK
  rw [eK] at qK; exact qK

theorem State.madRej_keeps {s0 : State} {s : State} (hK : Keeps s0 s) : Keeps s0 (s.madRej).2 := by
  unfold State.madRej
  repeat' first | with_reducible assumption | with_reducible apply State.wrRej_keeps

theorem State.writeMadCtrl_keeps {s0 : State} {s : State} {x : Wr} (hK : Keeps s0 s) : Keeps s0 (s.writeMadCtrl x).2 := by
  unfold State.writeMadCtrl
  repeat' first
    | with_reducible assumption
    | (with_reducible first
        | apply State.refCheck_keeps | apply State.wr_keeps | apply State.seqStart_keeps | apply State.seqStop_keeps
        | apply State.zero_keeps | apply State.madEvent_keeps | apply Keeps.ite)

theorem State.writeInj_keeps {s0 : State} {s : State} {x : Wr} (hK : Keeps s0 s) : Keeps s0 (s.writeInj x).2 := by
  unfold State.writeInj
  repeat' first
    | with_reducible assumption
    | (with_reducible first | apply State.madRej_keeps | apply State.injGo_keeps | apply State.wr_keeps | apply Keeps.ite)
    | split

theorem State.writeMad_keeps {s0 : State} {s : State} {x : Wr} (hK : Keeps s0 s) : Keeps s0 (s.writeMad x).2 := by
  unfold State.writeMad
  repeat' first
    | with_reducible assumption
    | (with_reducible first
        | apply State.writeMadCtrl_keeps | apply State.writeInj_keeps | apply State.put_keeps | apply State.madRej_keeps
        | apply State.wrRej_keeps | apply Keeps.ite)
    | split

theorem State.writeMad_keepsE {s0 : State} {s : State} {x : Wr} {rK} {tK : State} (eK : s.writeMad x = (rK, tK)) (hK
    : Keeps s0 s) : Keeps s0 tK := by
  have qK : Keeps s0 (s.writeMad x).2 := State.writeMad_keeps hK
  rw [eK] at qK; exact qK

theorem State.writeMfc_keeps {s0 : State} {s : State} {x : Wr} (hK : Keeps s0 s) : Keeps s0 (s.writeMfc x).2 := by
  unfold State.writeMfc
  repeat' first
    | with_reducible assumption
    | extract_lets +onlyGivenNames x
      first
      | have hx : Keeps s0 x := by
          dsimp -zeta only [x]
          repeat' first
            | with_reducible assumption
            | (with_reducible first
                | apply Keeps.forEach | apply State.wr_keeps | apply State.chainReset_keeps | apply State.zero_keeps
                | apply State.chainStop_keeps | apply State.setF_keeps | apply State.wrRej_keeps | apply State.put_keeps
                | apply Keeps.ite | intro _ _ _ | intro _ _)
            | split
        clear_value x
      | clear_value x
    | (with_reducible first
        | apply Keeps.forEach | apply State.wr_keeps | apply State.chainReset_keeps | apply State.zero_keeps
        | apply State.chainStop_keeps | apply State.setF_keeps | apply State.wrRej_keeps | apply State.put_keeps | apply Keeps.ite
        | intro _ _ _ | intro _ _)
    | split

theorem State.writeMfc_keepsE {s0 : State} {s : State} {x : Wr} {rK} {tK : State} (eK : s.writeMfc x = (rK, tK)) (hK
    : Keeps s0 s) : Keeps s0 tK := by
  have qK : Keeps s0 (s.writeMfc x).2 := State.writeMfc_keeps hK
  rw [eK] at qK; exact qK

theorem State.writeEvrCtrl_keeps {s0 : State} {s : State} {x : Wr} (hK : Keeps s0 s) : Keeps s0 (s.writeEvrCtrl x).2 := by
  unfold State.writeEvrCtrl
  repeat' first
    | with_reducible assumption
    | (with_reducible first | apply State.zero_keeps | apply State.recTrigger_keeps | apply Keeps.ite)

theorem State.writeMask_keeps {s0 : State} {s : State} {x : Wr} (hK : Keeps s0 s) : Keeps s0 (s.writeMask x).2 := by
  unfold State.writeMask
  repeat' first
    | with_reducible assumption
    | (with_reducible first | apply State.wr_keeps | apply State.maskOn_keeps | apply Keeps.ite)

theorem State.writeEvr_keeps {s0 : State} {s : State} {x : Wr} (hK : Keeps s0 s) : Keeps s0 (s.writeEvr x).2 := by
  unfold State.writeEvr
  repeat' first
    | with_reducible assumption
    | extract_lets +onlyGivenNames x
      first
      | have hx : Keeps s0 x := by
          dsimp -zeta only [x]
          repeat' first
            | with_reducible assumption
            | (with_reducible first
                | apply State.writeEvrCtrl_keeps | apply Keeps.forEach | apply State.freeSeg_keeps | apply State.writeMask_keeps
                | apply State.wrRej_keeps | apply State.setF_keeps | apply State.put_keeps | apply Keeps.ite | intro _ _ _
                | intro _ _)
            | split
        clear_value x
      | clear_value x
    | (with_reducible first
        | apply State.writeEvrCtrl_keeps | apply Keeps.forEach | apply State.freeSeg_keeps | apply State.writeMask_keeps
        | apply State.wrRej_keeps | apply State.setF_keeps | apply State.put_keeps | apply Keeps.ite | intro _ _ _ | intro _ _)
    | split

theorem State.writeEvr_keepsE {s0 : State} {s : State} {x : Wr} {rK} {tK : State} (eK : s.writeEvr x = (rK, tK)) (hK
    : Keeps s0 s) : Keeps s0 tK := by
  have qK : Keeps s0 (s.writeEvr x).2 := State.writeEvr_keeps hK
  rw [eK] at qK; exact qK

theorem State.writeEsfCtrl_keeps {s0 : State} {s : State} {x : Wr} (hK : Keeps s0 s) : Keeps s0 (s.writeEsfCtrl x).2 := by
  unfold State.writeEsfCtrl
  repeat' first
    | with_reducible assumption
    | (with_reducible first
        | apply State.hgUpdate_keeps | apply State.wr_keeps | apply State.setF_keeps | apply State.latch_keeps | apply Keeps.ite)
    | simp -zeta only [Keeps.upd]
    | split

theorem State.writeWeight_keeps {s0 : State} {s : State} {x : Wr} (hK : Keeps s0 s) : Keeps s0 (s.writeWeight x).2 := by
  unfold State.writeWeight
  repeat' first
    | with_reducible assumption
    | extract_lets +onlyGivenNames x
      first
      | have hx : Keeps s0 x := by
          dsimp -zeta only [x]
          repeat' first
            | with_reducible assumption
            | (with_reducible first
                | apply State.wrRej_keeps | apply State.setF_keeps | apply State.put_keeps | apply Keeps.foldl | apply Keeps.ite
                | intro _ _ _ | intro _ _)
            | split
        clear_value x
      | clear_value x
    | (with_reducible first
        | apply State.wrRej_keeps | apply State.setF_keeps | apply State.put_keeps | apply Keeps.foldl | apply Keeps.ite
        | intro _ _ _ | intro _ _)
    | split

theorem State.writeEsf_keeps {s0 : State} {s : State} {x : Wr} (hK : Keeps s0 s) : Keeps s0 (s.writeEsf x).2 := by
  unfold State.writeEsf
  repeat' first
    | with_reducible assumption
    | (with_reducible first
        | apply State.writeEsfCtrl_keeps | apply State.writeWeight_keeps | apply State.put_keeps | apply Keeps.ite)
    | split

theorem State.writeEsf_keepsE {s0 : State} {s : State} {x : Wr} {rK} {tK : State} (eK : s.writeEsf x = (rK, tK)) (hK
    : Keeps s0 s) : Keeps s0 tK := by
  have qK : Keeps s0 (s.writeEsf x).2 := State.writeEsf_keeps hK
  rw [eK] at qK; exact qK

theorem State.writeZon_keeps {s0 : State} {s : State} {x : Wr} (hK : Keeps s0 s) : Keeps s0 (s.writeZon x).2 := by
  unfold State.writeZon
  repeat' first
    | with_reducible assumption
    | (with_reducible first | apply State.zonCtrl_keeps | apply State.put_keeps | apply Keeps.ite)
    | split

theorem State.writeZon_keepsE {s0 : State} {s : State} {x : Wr} {rK} {tK : State} (eK : s.writeZon x = (rK, tK)) (hK
    : Keeps s0 s) : Keeps s0 tK := by
  have qK : Keeps s0 (s.writeZon x).2 := State.writeZon_keeps hK
  rw [eK] at qK; exact qK

theorem State.clearPort_keeps {s0 : State} {s : State} {x : Wr} (hK : Keeps s0 s) : Keeps s0 (s.clearPort x) := by
  unfold State.clearPort
  repeat' first
    | with_reducible assumption
    | (with_reducible first | apply State.zero_keeps | apply State.setF_keeps | apply State.wr_keeps | apply Keeps.ite)

theorem State.writeCbs_keeps {s0 : State} {s : State} {x : Wr} {p : Port} (hK : Keeps s0 s) : Keeps s0 (s.writeCbs x p).2 := by
  unfold State.writeCbs
  repeat' first
    | with_reducible assumption
    | (with_reducible first | apply State.portRej_keeps | apply State.put_keeps | apply Keeps.ite)
    | split

theorem State.writeCbs_keepsE {s0 : State} {s : State} {x : Wr} {p : Port} {rK} {tK : State} (eK : s.writeCbs x p = (rK, tK))
    (hK : Keeps s0 s) : Keeps s0 tK := by
  have qK : Keeps s0 (s.writeCbs x p).2 := State.writeCbs_keeps hK
  rw [eK] at qK; exact qK

theorem State.writeSetting_keeps {s0 : State} {s : State} {x : Wr} {p : Port} (hK : Keeps s0 s) :
    Keeps s0 (s.writeSetting x p).2 := by
  unfold State.writeSetting
  repeat' first
    | with_reducible assumption
    | extract_lets +onlyGivenNames x
      first
      | have hx : Keeps s0 x := by
          dsimp -zeta only [x]
          repeat' first
            | with_reducible assumption
            | (with_reducible first
                | apply State.portRej_keeps | apply State.setF_keeps | apply State.put_keeps | apply Keeps.ite)
            | split
        clear_value x
      | clear_value x
    | (with_reducible first | apply State.portRej_keeps | apply State.setF_keeps | apply State.put_keeps | apply Keeps.ite)
    | split

theorem State.writeSetting_keepsE {s0 : State} {s : State} {x : Wr} {p : Port} {rK} {tK : State} (eK : s.writeSetting x p =
    (rK, tK)) (hK : Keeps s0 s) : Keeps s0 tK := by
  have qK : Keeps s0 (s.writeSetting x p).2 := State.writeSetting_keeps hK
  rw [eK] at qK; exact qK

theorem State.writeEth_keeps {s0 : State} {s : State} {x : Wr} (hK : Keeps s0 s) : Keeps s0 (s.writeEth x).2 := by
  unfold State.writeEth
  repeat' first
    | with_reducible assumption
    | extract_lets +onlyGivenNames x
      first
      | have hx : Keeps s0 x := by
          dsimp -zeta only [x]
          repeat' first
            | with_reducible assumption
            | (with_reducible first
                | apply State.portCtrl_keeps | apply State.portCtrl_keepsE (by assumption) | apply State.clearPort_keeps
                | apply State.writeCbs_keeps | apply State.writeCbs_keepsE (by assumption) | apply State.writeSetting_keeps
                | apply State.writeSetting_keepsE (by assumption) | apply State.put_keeps | apply State.put_keepsE (by assumption)
                | apply Keeps.ite)
            | split
        clear_value x
      | clear_value x
    | (with_reducible first
        | apply State.portCtrl_keeps | apply State.portCtrl_keepsE (by assumption) | apply State.clearPort_keeps
        | apply State.writeCbs_keeps | apply State.writeCbs_keepsE (by assumption) | apply State.writeSetting_keeps
        | apply State.writeSetting_keepsE (by assumption) | apply State.put_keeps | apply State.put_keepsE (by assumption)
        | apply Keeps.ite)
    | split

theorem State.writeEth_keepsE {s0 : State} {s : State} {x : Wr} {rK} {tK : State} (eK : s.writeEth x = (rK, tK)) (hK
    : Keeps s0 s) : Keeps s0 tK := by
  have qK : Keeps s0 (s.writeEth x).2 := State.writeEth_keeps hK
  rw [eK] at qK; exact qK

theorem State.clearTim_keeps {s0 : State} {s : State} (hK : Keeps s0 s) : Keeps s0 (s.clearTim) := by
  unfold State.clearTim
  repeat' first
    | with_reducible assumption
    | (with_reducible first | apply State.zero_keeps | apply State.setF_keeps)

theorem State.writeEvout_keeps {s0 : State} {s : State} {x : Wr} (hK : Keeps s0 s) : Keeps s0 (s.writeEvout x).2 := by
  unfold State.writeEvout
  repeat' first
    | with_reducible assumption
    | extract_lets +onlyGivenNames x
      first
      | have hx : Keeps s0 x := by
          dsimp -zeta only [x]
          repeat' first
            | with_reducible assumption
            | (with_reducible first
                | apply State.wr_keeps | apply State.evOutStart_keeps | apply Keeps.ite | apply Keeps.now
                | apply Nat.le_add_right_of_le)
            | simp -zeta only [Keeps.upd]
            | split
            | apply Keeps.updTm
        clear_value x
      | have hx : s0.tm.now ≤ x.now := by
          dsimp -zeta only [x]
          repeat' first
            | with_reducible assumption
            | (with_reducible first
                | apply State.wr_keeps | apply State.evOutStart_keeps | apply Keeps.now | apply Nat.le_add_right_of_le)
        clear_value x
      | clear_value x
    | (with_reducible first
        | apply State.wr_keeps | apply State.evOutStart_keeps | apply Keeps.ite | apply Keeps.now | apply Nat.le_add_right_of_le)
    | simp -zeta only [Keeps.upd]
    | split
    | apply Keeps.updTm

theorem State.writeEvout_keepsE {s0 : State} {s : State} {x : Wr} {rK} {tK : State} (eK : s.writeEvout x = (rK, tK)) (hK
    : Keeps s0 s) : Keeps s0 tK := by
  have qK : Keeps s0 (s.writeEvout x).2 := State.writeEvout_keeps hK
  rw [eK] at qK; exact qK

theorem State.writeTim_keeps {s0 : State} {s : State} {x : Wr} (hK : Keeps s0 s) : Keeps s0 (s.writeTim x).2 := by
  unfold State.writeTim
  repeat' first
    | with_reducible assumption
    | extract_lets +onlyGivenNames x
      first
      | have hx : Keeps s0 x := by
          dsimp -zeta only [x]
          repeat' first
            | with_reducible assumption
            | (with_reducible first
                | apply State.clearTim_keeps | apply State.wr_keeps | apply State.writeEvout_keeps
                | apply State.writeEvout_keepsE (by assumption) | apply State.wrRej_keeps
                | apply State.wrRej_keepsE (by assumption) | apply State.put_keeps | apply State.put_keepsE (by assumption)
                | apply Keeps.ite)
            | simp -zeta only [Keeps.upd]
            | split
        clear_value x
      | clear_value x
    | (with_reducible first
        | apply State.clearTim_keeps | apply State.wr_keeps | apply State.writeEvout_keeps
        | apply State.writeEvout_keepsE (by assumption) | apply State.wrRej_keeps | apply State.wrRej_keepsE (by assumption)
        | apply State.put_keeps | apply State.put_keepsE (by assumption) | apply Keeps.ite)
    | simp -zeta only [Keeps.upd]
    | split

theorem State.writeTim_keepsE {s0 : State} {s : State} {x : Wr} {rK} {tK : State} (eK : s.writeTim x = (rK, tK)) (hK
    : Keeps s0 s) : Keeps s0 tK := by
  have qK : Keeps s0 (s.writeTim x).2 := State.writeTim_keeps hK
  rw [eK] at qK; exact qK

theorem State.writeWfl_keeps {s0 : State} {s : State} {x : Wr} (hK : Keeps s0 s) : Keeps s0 (s.writeWfl x).2 := by
  unfold State.writeWfl
  repeat' first
    | with_reducible assumption
    | extract_lets +onlyGivenNames x
      first
      | have hx : Keeps s0 x := by
          dsimp -zeta only [x]
          repeat' first
            | with_reducible assumption
            | (with_reducible first
                | apply State.wflCtrl_keeps | apply State.linkInject_keeps | apply State.wflClear_keeps | apply State.put_keeps
                | apply Keeps.ite)
            | split
        clear_value x
      | clear_value x
    | (with_reducible first
        | apply State.wflCtrl_keeps | apply State.linkInject_keeps | apply State.wflClear_keeps | apply State.put_keeps
        | apply Keeps.ite)
    | split

theorem State.writeWfl_keepsE {s0 : State} {s : State} {x : Wr} {rK} {tK : State} (eK : s.writeWfl x = (rK, tK)) (hK
    : Keeps s0 s) : Keeps s0 tK := by
  have qK : Keeps s0 (s.writeWfl x).2 := State.writeWfl_keeps hK
  rw [eK] at qK; exact qK

theorem State.writeHng_keeps {s0 : State} {s : State} {x : Wr} (hK : Keeps s0 s) : Keeps s0 (s.writeHng x).2 := by
  unfold State.writeHng
  repeat' first
    | with_reducible assumption
    | (with_reducible first
        | apply State.hngClear_keeps | apply State.tapCtrl_keeps | apply State.wrRej_keeps | apply State.put_keeps
        | apply Keeps.ite)
    | split

theorem State.writeHng_keepsE {s0 : State} {s : State} {x : Wr} {rK} {tK : State} (eK : s.writeHng x = (rK, tK)) (hK
    : Keeps s0 s) : Keeps s0 tK := by
  have qK : Keeps s0 (s.writeHng x).2 := State.writeHng_keeps hK
  rw [eK] at qK; exact qK

theorem State.writeDma_keeps {s0 : State} {s : State} {x : Wr} (hK : Keeps s0 s) : Keeps s0 (s.writeDma x).2 := by
  unfold State.writeDma
  repeat' first
    | with_reducible assumption
    | extract_lets +onlyGivenNames x
      first
      | have hx : Keeps s0 x := by
          dsimp -zeta only [x]
          repeat' first
            | with_reducible assumption
            | (with_reducible first
                | apply State.dmaQCtrl_keeps | apply State.wr_keeps | apply State.dmaCtrl_keeps | apply State.wrRej_keeps
                | apply State.put_keeps | apply Keeps.ite)
            | simp -zeta only [Keeps.upd]
            | split
        clear_value x
      | clear_value x
    | (with_reducible first
        | apply State.dmaQCtrl_keeps | apply State.wr_keeps | apply State.dmaCtrl_keeps | apply State.wrRej_keeps
        | apply State.put_keeps | apply Keeps.ite)
    | simp -zeta only [Keeps.upd]
    | split

theorem State.writeDma_keepsE {s0 : State} {s : State} {x : Wr} {rK} {tK : State} (eK : s.writeDma x = (rK, tK)) (hK
    : Keeps s0 s) : Keeps s0 tK := by
  have qK : Keeps s0 (s.writeDma x).2 := State.writeDma_keeps hK
  rw [eK] at qK; exact qK

theorem State.writeCal_keeps {s0 : State} {s : State} {x : Wr} (hK : Keeps s0 s) : Keeps s0 (s.writeCal x).2 := by
  unfold State.writeCal
  repeat' first
    | with_reducible assumption
    | (with_reducible first | apply State.wr_keeps | apply State.wrRej_keeps | apply State.put_keeps | apply Keeps.ite)
    | split

theorem State.writeCal_keepsE {s0 : State} {s : State} {x : Wr} {rK} {tK : State} (eK : s.writeCal x = (rK, tK)) (hK
    : Keeps s0 s) : Keeps s0 tK := by
  have qK : Keeps s0 (s.writeCal x).2 := State.writeCal_keeps hK
  rw [eK] at qK; exact qK

theorem State.writeThm_keeps {s0 : State} {s : State} {x : Wr} (hK : Keeps s0 s) : Keeps s0 (s.writeThm x).2 := by
  unfold State.writeThm
  repeat' first
    | with_reducible assumption
    | (with_reducible first | apply State.setF_keeps | apply State.wr_keeps | apply State.put_keeps | apply Keeps.ite)
    | split

theorem State.writeThm_keepsE {s0 : State} {s : State} {x : Wr} {rK} {tK : State} (eK : s.writeThm x = (rK, tK)) (hK
    : Keeps s0 s) : Keeps s0 tK := by
  have qK : Keeps s0 (s.writeThm x).2 := State.writeThm_keeps hK
  rw [eK] at qK; exact qK

theorem State.blockWrite_keeps {s0 : State} {s : State} {b : Blk} {x : Wr} (hK : Keeps s0 s) : Keeps s0 (s.blockWrite b x).2 := by
  unfold State.blockWrite
  repeat' first
    | with_reducible assumption
    | (with_reducible first
        | apply State.writeGlb_keeps | apply State.writeGlb_keepsE (by assumption) | apply State.writeCmd_keeps
        | apply State.writeCmd_keepsE (by assumption) | apply State.writePmu_keeps | apply State.writePmu_keepsE (by assumption)
        | apply State.put_keeps | apply State.put_keepsE (by assumption) | apply State.writeRfe_keeps
        | apply State.writeRfe_keepsE (by assumption) | apply State.writeTdc_keeps | apply State.writeTdc_keepsE (by assumption)
        | apply State.writeTmb_keeps | apply State.writeTmb_keepsE (by assumption) | apply State.writeFir_keeps
        | apply State.writeFir_keepsE (by assumption) | apply State.writeHge_keeps | apply State.writeHge_keepsE (by assumption)
        | apply State.writeExt_keeps | apply State.writeExt_keepsE (by assumption) | apply State.writeZon_keeps
        | apply State.writeZon_keepsE (by assumption) | apply State.writeSrv_keeps | apply State.writeSrv_keepsE (by assumption)
        | apply State.writeMad_keeps | apply State.writeMad_keepsE (by assumption) | apply State.writeMfc_keeps
        | apply State.writeMfc_keepsE (by assumption) | apply State.writeEvr_keeps | apply State.writeEvr_keepsE (by assumption)
        | apply State.writeEsf_keeps | apply State.writeEsf_keepsE (by assumption) | apply State.writeEth_keeps
        | apply State.writeEth_keepsE (by assumption) | apply State.writeTim_keeps | apply State.writeTim_keepsE (by assumption)
        | apply State.writeWfl_keeps | apply State.writeWfl_keepsE (by assumption) | apply State.writeHng_keeps
        | apply State.writeHng_keepsE (by assumption) | apply State.writeDma_keeps | apply State.writeDma_keepsE (by assumption)
        | apply State.writeCal_keeps | apply State.writeCal_keepsE (by assumption) | apply State.writeThm_keeps
        | apply State.writeThm_keepsE (by assumption))
    | split

theorem State.blockWrite_keepsE {s0 : State} {s : State} {b : Blk} {x : Wr} {rK} {tK : State} (eK : s.blockWrite b x = (rK, tK))
    (hK : Keeps s0 s) : Keeps s0 tK := by
  have qK : Keeps s0 (s.blockWrite b x).2 := State.blockWrite_keeps hK
  rw [eK] at qK; exact qK

theorem State.lockedWrite_keeps {s0 : State} {s : State} {b : Blk} {x : Wr} (hK : Keeps s0 s) : Keeps s0 (s.lockedWrite b x).2 := by
  unfold State.lockedWrite
  repeat' first
    | with_reducible assumption
    | (with_reducible first
        | apply State.blockWrite_keeps | apply State.blockWrite_keepsE (by assumption) | apply State.setF_keeps | apply Keeps.ite)
    | simp -zeta only [Keeps.upd]
    | split

theorem State.lockedWrite_keepsE {s0 : State} {s : State} {b : Blk} {x : Wr} {rK} {tK : State} (eK : s.lockedWrite b x =
    (rK, tK)) (hK : Keeps s0 s) : Keeps s0 tK := by
  have qK : Keeps s0 (s.lockedWrite b x).2 := State.lockedWrite_keeps hK
  rw [eK] at qK; exact qK

theorem State.hostWrite_keeps {s0 : State} {s : State} {a : Nat} {w : Word} {mask : Word} (hK : Keeps s0 s) :
    Keeps s0 (s.hostWrite a w mask).2 := by
  unfold State.hostWrite
  repeat' first
    | with_reducible assumption
    | (with_reducible first
        | apply State.calIgnored_keeps | apply State.lockedWrite_keeps | apply State.lockedWrite_keepsE (by assumption)
        | apply Keeps.ite)
    | split

theorem State.hostWrite_keepsE {s0 : State} {s : State} {a : Nat} {w : Word} {mask : Word} {rK} {tK : State} (eK
    : s.hostWrite a w mask = (rK, tK)) (hK : Keeps s0 s) : Keeps s0 tK := by
  have qK : Keeps s0 (s.hostWrite a w mask).2 := State.hostWrite_keeps hK
  rw [eK] at qK; exact qK

end Sys2Proof.Machine
end

