-- ==== Sys2Proof/Laws/KeepsScan.lean ====
section
/-! SUPPORT. Every operation and meaning of Machine/Scan.lean keeps the queue, the canonical forms and the order of time. -/

namespace Sys2Proof.Machine

open Reg

theorem State.rowApply_keeps {s0 : State} {code : Nat} {s : State} {p : PField} (hK : Keeps s0 s) :
    Keeps s0 (State.rowApply code s p) := by
  unfold State.rowApply
  repeat' first
    | with_reducible assumption
    | (with_reducible first | apply Keeps.forEach | apply State.setF_keeps | intro _ _ _ | intro _ _)

theorem State.binOverride_keeps {s0 : State} {s : State} {x : Wr} (hK : Keeps s0 s) : Keeps s0 (s.binOverride x) := by
  unfold State.binOverride
  repeat' first
    | with_reducible assumption
    | (with_reducible first | apply State.setF_keeps | apply State.wr_keeps | apply Keeps.ite)

theorem State.override_keeps {s0 : State} {s : State} {o : Nat × Word × Word} (hK : Keeps s0 s) : Keeps s0 (s.override o) := by
  unfold State.override
  repeat' first
    | with_reducible assumption
    | (with_reducible first
        | apply State.binOverride_keeps | apply State.blockWrite_keeps | apply State.blockWrite_keepsE (by assumption)
        | apply Keeps.ite)
    | split

theorem State.serviceArm_keeps {s0 : State} {s : State} (hK : Keeps s0 s) : Keeps s0 (s.serviceArm) := by
  unfold State.serviceArm
  repeat' first
    | with_reducible assumption
    | (with_reducible first | apply State.recArm_keeps | apply State.setF_keeps | apply Keeps.ite)
    | split

theorem State.profileApply_keeps {s0 : State} {s : State} {p : List Byte} (hK : Keeps s0 s) : Keeps s0 (s.profileApply p) := by
  unfold State.profileApply
  repeat' first
    | with_reducible assumption
    | (with_reducible first
        | apply Keeps.forEach | apply State.rowApply_keeps | apply State.override_keeps | apply State.release_keeps
        | apply State.setF_keeps | apply State.allocAgain_keeps | apply State.serviceArm_keeps | apply Keeps.ite | intro _ _ _ | intro _ _)

theorem State.profileNow_keeps {s0 : State} {s : State} {q : Req} {p : List Byte} (hK : Keeps s0 s) :
    Keeps s0 (s.profileNow q p) := by
  unfold State.profileNow
  repeat' first
    | with_reducible assumption
    | (with_reducible first
        | apply State.profileApply_keeps | apply State.addJob_keeps | apply State.reply_keeps | apply Keeps.ite)

theorem State.profileLater_keeps {s0 : State} {s : State} {q : Req} {p : List Byte} (hK : Keeps s0 s) :
    Keeps s0 (s.profileLater q p) := by
  unfold State.profileLater
  repeat' first
    | with_reducible assumption
    | (with_reducible first
        | apply State.setF_keeps | apply State.finishJobs_keeps | apply State.reply_keeps | apply State.addJob_keeps)

theorem State.profileSelect_keeps {s0 : State} {s : State} {q : Req} {p : List Byte} (hK : Keeps s0 s) :
    Keeps s0 (s.profileSelect q p) := by
  unfold State.profileSelect
  repeat' first
    | with_reducible assumption
    | (with_reducible first
        | apply State.reply_keeps | apply State.profileLater_keeps | apply State.profileNow_keeps | apply Keeps.ite)
    | split

theorem execProfileSelect_keeps {s0 : State} {q : Req} {p : List Byte} {s : State} (hK : Keeps s0 s) :
    KeepsOut s0 (execProfileSelect q p s) := by
  unfold execProfileSelect
  repeat' first
    | with_reducible assumption
    | (with_reducible first
        | apply KeepsOut.next | apply KeepsOut.ite | apply State.command_keeps | apply State.badLength_keeps
        | apply State.profileSelect_keeps | apply Keeps.ite | intro _ _ _ | intro _ _)

theorem State.commitEnd_keeps {s0 : State} {s : State} {fail : Option (Nat × Nat)} (hK : Keeps s0 s) :
    Keeps s0 (s.commitEnd fail) := by
  unfold State.commitEnd
  repeat' first
    | with_reducible assumption
    | (with_reducible first
        | apply State.setF_keeps | apply State.finishJobs_keeps | apply State.warpFail_keeps | apply State.warpInstall_keeps)
    | split

theorem execWarpCommit_keeps {s0 : State} {q : Req} {p : List Byte} {s : State} (hK : Keeps s0 s) :
    KeepsOut s0 (execWarpCommit q p s) := by
  unfold execWarpCommit
  repeat' first
    | with_reducible assumption
    | (with_reducible first
        | apply KeepsOut.next | apply KeepsOut.ite | apply State.fixed_keeps | apply State.badParam_keeps
        | apply State.warpFail_keeps | apply State.reply_keeps | apply State.addJob_keeps | apply State.setF_keeps
        | apply State.warpInstall_keeps | apply Keeps.ite | intro _ _ _ | intro _ _)
    | split

theorem State.profileEnd_keeps {s0 : State} {s : State} {j : Job} {ok : Bool} (hK : Keeps s0 s) : Keeps s0 (s.profileEnd j ok) := by
  unfold State.profileEnd
  repeat' first
    | with_reducible assumption
    | (with_reducible first
        | apply State.setF_keeps | apply State.profileApply_keeps | apply State.finishJobs_keeps | apply State.reply_keeps
        | apply Keeps.ite)
    | simp -zeta only [Keeps.upd]

theorem State.gapBoth_keeps {s0 : State} {s : State} {j : Job} (hK : Keeps s0 s) : Keeps s0 (s.gapBoth j) := by
  unfold State.gapBoth
  repeat' first
    | with_reducible assumption
    | extract_lets +onlyGivenNames x
      first
      | have hx : Keeps s0 x := by
          dsimp -zeta only [x]
          repeat' first
            | with_reducible assumption
            | (with_reducible first | apply State.profileApply_keeps | apply State.commitEnd_keeps | apply State.profileEnd_keeps)
            | split
        clear_value x
      | clear_value x
    | (with_reducible first | apply State.profileApply_keeps | apply State.commitEnd_keeps | apply State.profileEnd_keeps)
    | split

theorem State.gapCommit_keeps {s0 : State} {s : State} (hK : Keeps s0 s) : Keeps s0 (s.gapCommit) := by
  unfold State.gapCommit
  repeat' first
    | with_reducible assumption
    | (with_reducible first | apply State.gapBoth_keeps | apply State.commitEnd_keeps | apply Keeps.ite)
    | split

theorem execDeferredWarpCopy_keeps {s0 : State} {s : State} (hK : Keeps s0 s) : KeepsOut s0 (execDeferredWarpCopy s) := by
  unfold execDeferredWarpCopy
  repeat' first
    | with_reducible assumption
    | (with_reducible first | apply KeepsOut.next | apply KeepsOut.ite | apply State.gapCommit_keeps | apply Keeps.ite)
    | split

theorem execDeferredProfileApply_keeps {s0 : State} {s : State} (hK : Keeps s0 s) : KeepsOut s0 (execDeferredProfileApply s) := by
  unfold execDeferredProfileApply
  repeat' first
    | with_reducible assumption
    | (with_reducible first
        | apply KeepsOut.next | apply KeepsOut.ite | apply State.gapBoth_keeps | apply State.profileEnd_keeps | apply Keeps.ite)
    | split

theorem State.scanStart_keeps {s0 : State} {s : State} {q : Req} (hK : Keeps s0 s) : Keeps s0 (s.scanStart q) := by
  unfold State.scanStart
  repeat' first
    | with_reducible assumption
    | (with_reducible first | apply State.reply_keeps | apply State.goto_keeps | apply State.wr_keeps)

theorem execScanStart_keeps {s0 : State} {q : Req} {p : List Byte} {s : State} (hK : Keeps s0 s) :
    KeepsOut s0 (execScanStart q p s) := by
  unfold execScanStart
  repeat' first
    | with_reducible assumption
    | (with_reducible first
        | apply KeepsOut.next | apply State.fixed_keeps | apply State.scanStart_keeps | intro _ _ _ | intro _ _)

theorem State.scanHold_keeps {s0 : State} {s : State} {q : Req} (hK : Keeps s0 s) : Keeps s0 (s.scanHold q) := by
  unfold State.scanHold
  repeat' first
    | with_reducible assumption
    | (with_reducible first | apply State.reply_keeps | apply State.goto_keeps | apply Keeps.ite)
    | simp -zeta only [Keeps.upd]

theorem execScanHold_keeps {s0 : State} {q : Req} {p : List Byte} {s : State} (hK : Keeps s0 s) :
    KeepsOut s0 (execScanHold q p s) := by
  unfold execScanHold
  repeat' first
    | with_reducible assumption
    | (with_reducible first
        | apply KeepsOut.next | apply KeepsOut.ite | apply State.fixed_keeps | apply State.scanHold_keeps
        | apply State.reply_keeps | apply Keeps.ite | intro _ _ _ | intro _ _)
    | split

theorem execHoldEntry_keeps {s0 : State} {s : State} (hK : Keeps s0 s) : KeepsOut s0 (execHoldEntry s) := by
  unfold execHoldEntry
  repeat' first
    | with_reducible assumption
    | (with_reducible first
        | apply KeepsOut.next | apply KeepsOut.ite | apply State.reply_keeps | apply State.goto_keeps | apply State.toTbs_keeps
        | apply Keeps.ite)
    | simp -zeta only [Keeps.upd]
    | split

theorem execScanResume_keeps {s0 : State} {q : Req} {p : List Byte} {s : State} (hK : Keeps s0 s) :
    KeepsOut s0 (execScanResume q p s) := by
  unfold execScanResume
  repeat' first
    | with_reducible assumption
    | (with_reducible first
        | apply KeepsOut.next | apply State.fixed_keeps | apply State.reply_keeps | apply State.goto_keeps | intro _ _ _
        | intro _ _)

theorem State.walkCancel_keeps {s0 : State} {s : State} (hK : Keeps s0 s) : Keeps s0 (s.walkCancel) := by
  unfold State.walkCancel
  repeat' first
    | with_reducible assumption
    | extract_lets +onlyGivenNames x
      first
      | have hx : Keeps s0 x := by
          dsimp -zeta only [x]
          repeat' first
            | with_reducible assumption
            | (with_reducible first
                | apply State.setF_keeps | apply State.dropGuardReq_keeps | apply State.switches_keeps | apply Keeps.ite)
            | simp -zeta only [Keeps.upd]
        clear_value x
      | clear_value x
    | (with_reducible first
        | apply State.setF_keeps | apply State.dropGuardReq_keeps | apply State.switches_keeps | apply Keeps.ite)
    | simp -zeta only [Keeps.upd]

theorem State.scanStop_keeps {s0 : State} {s : State} (hK : Keeps s0 s) : Keeps s0 (s.scanStop) := by
  unfold State.scanStop
  repeat' first
    | with_reducible assumption
    | (with_reducible first | apply State.goto_keeps | apply State.walkCancel_keeps)

theorem execScanStop_keeps {s0 : State} {q : Req} {p : List Byte} {s : State} (hK : Keeps s0 s) :
    KeepsOut s0 (execScanStop q p s) := by
  unfold execScanStop
  repeat' first
    | with_reducible assumption
    | (with_reducible first
        | apply KeepsOut.next | apply KeepsOut.ite | apply State.fixed_keeps | apply State.reply_keeps
        | apply State.scanStop_keeps | apply Keeps.ite | intro _ _ _ | intro _ _)

theorem execFrameSchedule_keeps {s0 : State} {q : Req} {p : List Byte} {s : State} (hK : Keeps s0 s) :
    KeepsOut s0 (execFrameSchedule q p s) := by
  unfold execFrameSchedule
  repeat' first
    | with_reducible assumption
    | (with_reducible first
        | apply KeepsOut.next | apply State.fixed_keeps | apply State.setF_keeps | apply State.reply_keeps | intro _ _ _
        | intro _ _)
    | simp -zeta only [Keeps.upd]

theorem State.keyLater_keeps {s0 : State} {s : State} {q : Req} {p : List Byte} (hK : Keeps s0 s) : Keeps s0 (s.keyLater q p) := by
  unfold State.keyLater
  repeat' first
    | with_reducible assumption
    | (with_reducible first
        | apply State.setF_keeps | apply State.finishJobs_keeps | apply State.addJob_keeps | apply State.reply_keeps)
    | simp -zeta only [Keeps.upd]

theorem execKeySet_keeps {s0 : State} {q : Req} {p : List Byte} {s : State} (hK : Keeps s0 s) : KeepsOut s0 (execKeySet q p s) := by
  unfold execKeySet
  repeat' first
    | with_reducible assumption
    | (with_reducible first
        | apply KeepsOut.next | apply KeepsOut.ite | apply State.fixed_keeps | apply State.keyLater_keeps
        | apply State.reply_keeps | apply State.applyKey_keeps | apply Keeps.ite | intro _ _ _ | intro _ _)
    | simp -zeta only [Keeps.upd]

end Sys2Proof.Machine
end

