-- ==== Sys2Proof/Laws/KeepsPower.lean ====
section
/-! SUPPORT. Every operation and meaning of Machine/Power.lean keeps the queue, the canonical forms and the order of time. -/

namespace Sys2Proof.Machine

open Reg

theorem State.quarterEmpty_keeps {s0 : State} {s : State} {q : Nat} (hK : Keeps s0 s) : Keeps s0 (s.quarterEmpty q) := by
  unfold State.quarterEmpty
  repeat' first
    | with_reducible assumption
    | extract_lets +onlyGivenNames x
      first
      | have hx : Keeps s0 x := by
          dsimp -zeta only [x]
          repeat' first | with_reducible assumption | simp -zeta only [Keeps.upd]
        clear_value x
      | clear_value x
    | simp -zeta only [Keeps.upd]

theorem State.dropSets_keeps {s0 : State} {s : State} (hK : Keeps s0 s) : Keeps s0 (s.dropSets) := by
  unfold State.dropSets
  repeat' first
    | with_reducible assumption
    | (with_reducible first
        | apply Keeps.forEach | apply State.putSet_keeps | apply State.clearSet_keeps | apply State.settleRetain_keeps
        | intro _ _ _ | intro _ _)
    | simp -zeta only [Keeps.upd]
    | split

theorem State.zonLost_keeps {s0 : State} {s : State} (hK : Keeps s0 s) : Keeps s0 (s.zonLost) := by
  unfold State.zonLost
  repeat' first | with_reducible assumption | simp -zeta only [Keeps.upd]

theorem State.servoLost_keeps {s0 : State} {s : State} (hK : Keeps s0 s) : Keeps s0 (s.servoLost) := by
  unfold State.servoLost
  repeat' first
    | with_reducible assumption
    | extract_lets +onlyGivenNames x
      first
      | have hx : Keeps s0 x := by
          dsimp -zeta only [x]
          repeat' first
            | with_reducible assumption
            | (with_reducible first
                | apply State.resetRegs_keeps | apply Keeps.forEach | apply State.wr_keeps | apply State.setF_keeps
                | apply Keeps.ite | intro _ _ _ | intro _ _)
            | simp -zeta only [Keeps.upd]
        clear_value x
      | clear_value x
    | (with_reducible first
        | apply State.resetRegs_keeps | apply Keeps.forEach | apply State.wr_keeps | apply State.setF_keeps | apply Keeps.ite
        | intro _ _ _ | intro _ _)
    | simp -zeta only [Keeps.upd]

theorem State.domainLost_keeps {s0 : State} {s : State} {d : Nat} (hK : Keeps s0 s) : Keeps s0 (s.domainLost d) := by
  unfold State.domainLost
  repeat' first
    | with_reducible assumption
    | extract_lets +onlyGivenNames x
      first
      | have hx : Keeps s0 x := by
          dsimp -zeta only [x]
          repeat' first
            | with_reducible assumption
            | (with_reducible first
                | apply State.servoLost_keeps | apply State.resetRegs_keeps | apply State.clearQuarter_keeps
                | apply State.setF_keeps | apply State.quarterEmpty_keeps | apply State.clearMem_keeps | apply State.zonLost_keeps
                | apply State.dropSets_keeps | apply State.dmaReset_keeps | apply Keeps.ite)
            | simp -zeta only [Keeps.upd]
        clear_value x
      | clear_value x
    | (with_reducible first
        | apply State.servoLost_keeps | apply State.resetRegs_keeps | apply State.clearQuarter_keeps | apply State.setF_keeps
        | apply State.quarterEmpty_keeps | apply State.clearMem_keeps | apply State.zonLost_keeps | apply State.dropSets_keeps
        | apply State.dmaReset_keeps | apply Keeps.ite)
    | simp -zeta only [Keeps.upd]

theorem State.restoreCal_keeps {s0 : State} {s : State} {d : Nat} (hK : Keeps s0 s) : Keeps s0 (s.restoreCal d) := by
  unfold State.restoreCal
  repeat' first
    | with_reducible assumption
    | (with_reducible first | apply Keeps.forEach | apply State.wr_keeps | intro _ _ _ | intro _ _)

theorem State.restoreImage_keeps {s0 : State} {s : State} {d : Nat} (hK : Keeps s0 s) : Keeps s0 (s.restoreImage d) := by
  unfold State.restoreImage
  repeat' first
    | with_reducible assumption
    | (with_reducible first | apply Keeps.forEach | apply State.hostWrite_keeps | intro _ _ _ | intro _ _)

theorem State.domainRestore_keeps {s0 : State} {s : State} {d : Nat} (hK : Keeps s0 s) : Keeps s0 (s.domainRestore d) := by
  unfold State.domainRestore
  repeat' first
    | with_reducible assumption
    | (with_reducible first
        | apply State.restoreCal_keeps | apply State.setF_keeps | apply State.wr64_keeps | apply State.restoreImage_keeps
        | apply State.linkPower_keeps | apply Keeps.ite)
    | simp -zeta only [Keeps.upd]
    | split

theorem State.domainUp_keeps {s0 : State} {s : State} {d : Nat} (hK : Keeps s0 s) : Keeps s0 (s.domainUp d) := by
  unfold State.domainUp
  repeat' first
    | with_reducible assumption
    | (with_reducible first
        | apply State.domainLost_keeps | apply State.setF_keeps | apply State.domainRestore_keeps | apply State.markStale_keeps
        | apply Keeps.ite)
    | split

theorem State.sensorsOff_keeps {s0 : State} {s : State} {d : Nat} (hK : Keeps s0 s) : Keeps s0 (s.sensorsOff d) := by
  unfold State.sensorsOff
  repeat' first | with_reducible assumption | simp -zeta only [Keeps.upd]

theorem State.domainQuit_keeps {s0 : State} {s : State} {d : Nat} (hK : Keeps s0 s) : Keeps s0 (s.domainQuit d) := by
  unfold State.domainQuit
  repeat' first
    | with_reducible assumption
    | (with_reducible first
        | apply State.dmaLost_keeps | apply State.calDomainOff_keeps | apply State.linkLost_keeps | apply State.toLink_keeps
        | apply State.mirrorOut_keeps | apply State.setF_keeps | apply State.sensorsOff_keeps | apply Keeps.ite)

theorem State.domainDown_keeps {s0 : State} {s : State} {d : Nat} (hK : Keeps s0 s) : Keeps s0 (s.domainDown d) := by
  unfold State.domainDown
  repeat' first
    | with_reducible assumption
    | (with_reducible first | apply State.domainLost_keeps | apply State.domainQuit_keeps | apply State.setF_keeps)

theorem State.switchEnd_keeps {s0 : State} {s : State} (hK : Keeps s0 s) : Keeps s0 (s.switchEnd) := by
  unfold State.switchEnd
  repeat' first
    | with_reducible assumption
    | (with_reducible first
        | apply State.reply_keeps | apply State.domainUp_keeps | apply State.domainDown_keeps | apply Keeps.ite)
    | simp -zeta only [Keeps.upd]
    | split

theorem State.pwrDomain_keeps {s0 : State} {s : State} {q : Req} {p : List Byte} (hK : Keeps s0 s) : Keeps s0 (s.pwrDomain q p) := by
  unfold State.pwrDomain
  repeat' first
    | with_reducible assumption
    | (with_reducible first
        | apply State.fixed_keeps | apply State.switchEnd_keeps | apply State.reply_keeps | apply Keeps.ite | intro _ _ _
        | intro _ _)
    | simp -zeta only [Keeps.upd]

theorem execPwrDomainOn_keeps {s0 : State} {q : Req} {p : List Byte} {s : State} (hK : Keeps s0 s) :
    KeepsOut s0 (execPwrDomainOn q p s) := by
  unfold execPwrDomainOn
  repeat' first
    | with_reducible assumption
    | (with_reducible first | apply KeepsOut.next | apply State.pwrDomain_keeps)

theorem execPwrDomainOff_keeps {s0 : State} {q : Req} {p : List Byte} {s : State} (hK : Keeps s0 s) :
    KeepsOut s0 (execPwrDomainOff q p s) := by
  unfold execPwrDomainOff
  repeat' first
    | with_reducible assumption
    | (with_reducible first | apply KeepsOut.next | apply State.pwrDomain_keeps)

theorem execDomainSwitchOnDone_keeps {s0 : State} {s : State} (hK : Keeps s0 s) : KeepsOut s0 (execDomainSwitchOnDone s) := by
  unfold execDomainSwitchOnDone
  repeat' first
    | with_reducible assumption
    | (with_reducible first | apply KeepsOut.next | apply State.switchEnd_keeps)
    | split

theorem execDomainSwitchOffDone_keeps {s0 : State} {s : State} (hK : Keeps s0 s) : KeepsOut s0 (execDomainSwitchOffDone s) := by
  unfold execDomainSwitchOffDone
  repeat' first
    | with_reducible assumption
    | (with_reducible first | apply KeepsOut.next | apply State.switchEnd_keeps)
    | split

theorem State.strip_keeps {s0 s : State} {b : Bool} (h : Keeps s0 s) : Keeps s0 (s.strip b) := by
  unfold State.strip
  refine h.trans ⟨.refl _, fun k => ?_, fun _ => .refl _, ?_⟩
  · exact Sp.drop_wf (p := fun a => domainOf a != some 0) k
  · cases b <;> exact Nat.le_refl _

theorem State.stripPmu_keeps {s0 : State} {s : State} {on : Nat} (hK : Keeps s0 s) : Keeps s0 (s.stripPmu on) := by
  unfold State.stripPmu
  repeat' first
    | with_reducible assumption
    | (with_reducible first
        | apply State.setF_keeps | apply Keeps.forEach | apply State.sensorsOff_keeps | apply Keeps.ite | intro _ _ _ | intro _ _)

theorem State.enterBoot_keeps {s0 : State} {s : State} {cause : Nat} {rst : Nat} (hK : Keeps s0 s) :
    Keeps s0 (s.enterBoot cause rst) := by
  unfold State.enterBoot
  repeat' first
    | with_reducible assumption
    | (with_reducible first
        | apply State.stripPmu_keeps | apply State.strip_keeps | apply State.wr_keeps | apply State.setF_keeps
        | apply State.unlatch_keeps)
    | simp -zeta only [Keeps.upd]

theorem State.powerOff_keeps {s0 s : State} (h : Keeps s0 s) : Keeps s0 s.powerOff :=
  State.wr_keeps (State.nvSync_keeps (h.trans ⟨.refl _, fun _ => .refl _, fun _ => .refl _, Nat.le_refl _⟩))

theorem State.powerOn_keeps {s0 : State} {s : State} {rst : Nat} (hK : Keeps s0 s) : Keeps s0 (s.powerOn rst) := by
  unfold State.powerOn
  repeat' first
    | with_reducible assumption
    | (with_reducible first | apply State.enterBoot_keeps | apply Keeps.ite)
    | simp -zeta only [Keeps.upd]

theorem State.thermalDown_keeps {s0 : State} {s : State} (hK : Keeps s0 s) : Keeps s0 (s.thermalDown) := by
  unfold State.thermalDown
  repeat' first
    | with_reducible assumption
    | (with_reducible first | apply State.stripPmu_keeps | apply State.strip_keeps | apply State.hgUpdate_keeps)
    | simp -zeta only [Keeps.upd]

theorem execVinValid_keeps {s0 : State} {mv : Nat} {s : State} (hK : Keeps s0 s) : KeepsOut s0 (execVinValid mv s) := by
  unfold execVinValid
  repeat' first
    | with_reducible assumption
    | (with_reducible first | apply KeepsOut.next | apply KeepsOut.ite | apply State.powerOn_keeps | apply Keeps.ite)
    | simp -zeta only [Keeps.upd]

theorem execVinLoss_keeps {s0 : State} {s : State} (hK : Keeps s0 s) : KeepsOut s0 (execVinLoss s) := by
  unfold execVinLoss
  repeat' first
    | with_reducible assumption
    | (with_reducible first | apply KeepsOut.next | apply State.powerOff_keeps)
    | simp -zeta only [Keeps.upd]

theorem execVinOvervoltage_keeps {s0 : State} {mv : Nat} {s : State} (hK : Keeps s0 s) : KeepsOut s0 (execVinOvervoltage mv s) := by
  unfold execVinOvervoltage
  repeat' first
    | with_reducible assumption
    | (with_reducible first | apply KeepsOut.next | apply KeepsOut.ite | apply Keeps.ite)
    | simp -zeta only [Keeps.upd]

theorem execVauxCurrentLimit_keeps {s0 : State} {s : State} (hK : Keeps s0 s) : KeepsOut s0 (execVauxCurrentLimit s) := by
  unfold execVauxCurrentLimit
  repeat' first
    | with_reducible assumption
    | (with_reducible first | apply KeepsOut.next | apply KeepsOut.ite | apply State.setF_keeps | apply Keeps.ite)

theorem execPorstLow_keeps {s0 : State} {s : State} (hK : Keeps s0 s) : KeepsOut s0 (execPorstLow s) := by
  unfold execPorstLow
  repeat' first
    | with_reducible assumption
    | (with_reducible first | apply KeepsOut.next | apply State.powerOff_keeps)
    | simp -zeta only [Keeps.upd]

theorem execPorstRise_keeps {s0 : State} {s : State} (hK : Keeps s0 s) : KeepsOut s0 (execPorstRise s) := by
  unfold execPorstRise
  repeat' first
    | with_reducible assumption
    | (with_reducible first | apply KeepsOut.next | apply State.powerOn_keeps)
    | simp -zeta only [Keeps.upd]

theorem execResetLow_keeps {s0 : State} {s : State} (hK : Keeps s0 s) : KeepsOut s0 (execResetLow s) := by
  unfold execResetLow
  repeat' first
    | with_reducible assumption
    | (with_reducible first | apply KeepsOut.next | apply KeepsOut.ite | apply State.enterBoot_keeps | apply Keeps.ite)
    | simp -zeta only [Keeps.upd]

theorem execResetRise_keeps {s0 : State} {s : State} (hK : Keeps s0 s) : KeepsOut s0 (execResetRise s) := by
  unfold execResetRise
  repeat' first | with_reducible assumption | with_reducible apply KeepsOut.next | simp -zeta only [Keeps.upd]

theorem execSoftReset_keeps {s0 : State} {q : Req} {p : List Byte} {s : State} (hK : Keeps s0 s) :
    KeepsOut s0 (execSoftReset q p s) := by
  unfold execSoftReset
  repeat' first
    | with_reducible assumption
    | (with_reducible first
        | apply KeepsOut.next | apply State.fixed_keeps | apply State.enterBoot_keeps | apply State.reply_keeps | intro _ _ _
        | intro _ _)

theorem State.dllLost_keeps {s0 : State} {s : State} (hK : Keeps s0 s) : Keeps s0 (s.dllLost) := by
  unfold State.dllLost
  repeat' first
    | with_reducible assumption
    | (with_reducible first | apply Keeps.forEach | apply State.setF_keeps | intro _ _ _ | intro _ _)
    | split

theorem State.sinksFreeze_keeps {s0 : State} {s : State} (hK : Keeps s0 s) : Keeps s0 (s.sinksFreeze) := by
  unfold State.sinksFreeze
  repeat' first
    | with_reducible assumption
    | extract_lets +onlyGivenNames x
      first
      | have hx : Keeps s0 x := by
          dsimp -zeta only [x]
          repeat' first | with_reducible assumption | with_reducible apply Keeps.ite | simp -zeta only [Keeps.upd]
        clear_value x
      | clear_value x
    | with_reducible apply Keeps.ite
    | simp -zeta only [Keeps.upd]

theorem execPllLockLoss_keeps {s0 : State} {ref : Bool} {t : Bool} {h : Bool} {c : Bool} {s : State} (hK : Keeps s0 s) :
    KeepsOut s0 (execPllLockLoss ref t h c s) := by
  unfold execPllLockLoss
  repeat' first
    | with_reducible assumption
    | extract_lets +onlyGivenNames x
      first
      | have hx : Keeps s0 x := by
          dsimp -zeta only [x]
          repeat' first
            | with_reducible assumption
            | (with_reducible first
                | apply KeepsOut.next | apply KeepsOut.ite | apply State.setF_keeps | apply State.dllLost_keeps
                | apply State.addSat_keeps | apply State.sinksFreeze_keeps | apply State.latch_keeps | apply Keeps.ite)
            | simp -zeta only [Keeps.upd]
            | split
        clear_value x
      | clear_value x
    | (with_reducible first
        | apply KeepsOut.next | apply KeepsOut.ite | apply State.setF_keeps | apply State.dllLost_keeps | apply State.addSat_keeps
        | apply State.sinksFreeze_keeps | apply State.latch_keeps | apply Keeps.ite)
    | simp -zeta only [Keeps.upd]
    | split

theorem execPllLockRegain_keeps {s0 : State} {t : Bool} {h : Bool} {c : Bool} {s : State} (hK : Keeps s0 s) :
    KeepsOut s0 (execPllLockRegain t h c s) := by
  unfold execPllLockRegain
  repeat' first
    | with_reducible assumption
    | extract_lets +onlyGivenNames x
      first
      | have hx : Keeps s0 x := by
          dsimp -zeta only [x]
          repeat' first
            | with_reducible assumption
            | (with_reducible first | apply KeepsOut.next | apply KeepsOut.ite | apply State.setF_keeps | apply Keeps.ite)
            | simp -zeta only [Keeps.upd]
            | split
        clear_value x
      | clear_value x
    | (with_reducible first | apply KeepsOut.next | apply KeepsOut.ite | apply State.setF_keeps | apply Keeps.ite)
    | simp -zeta only [Keeps.upd]
    | split

theorem execPllLockTimeout_keeps {s0 : State} {s : State} (hK : Keeps s0 s) : KeepsOut s0 (execPllLockTimeout s) := by
  unfold execPllLockTimeout
  repeat' first
    | with_reducible assumption
    | (with_reducible first
        | apply KeepsOut.next | apply KeepsOut.ite | apply State.enterFault_keeps | apply State.at__keeps | apply Keeps.ite)
    | split

theorem execExtestLoad_keeps {s0 : State} {s : State} (hK : Keeps s0 s) : KeepsOut s0 (execExtestLoad s) := by
  unfold execExtestLoad
  repeat' first
    | with_reducible assumption
    | (with_reducible first | apply KeepsOut.next | apply KeepsOut.ite | apply State.latch_keeps | apply Keeps.ite)
    | simp -zeta only [Keeps.upd]

end Sys2Proof.Machine
end

