-- ==== Sys2Proof/Laws/KeepsThermal.lean ====
section
/-! SUPPORT. Every operation and meaning of Machine/Thermal.lean keeps the queue, the canonical forms and the order of time. -/

namespace Sys2Proof.Machine

open Reg

theorem State.setTj_keeps {s0 : State} {s : State} (hK : Keeps s0 s) : Keeps s0 (s.setTj) := by
  unfold State.setTj
  repeat' first
    | with_reducible assumption
    | extract_lets +onlyGivenNames x
      first
      | have hx : Keeps s0 x := by
          dsimp -zeta only [x]
          repeat' first | with_reducible assumption | (with_reducible first | apply State.setF_keeps | apply Keeps.ite) | split
        clear_value x
      | clear_value x
    | (with_reducible first | apply State.setF_keeps | apply Keeps.ite)
    | split

theorem State.warnLevel_keeps {s0 : State} {s : State} (hK : Keeps s0 s) : Keeps s0 (s.warnLevel) := by
  unfold State.warnLevel
  repeat' first
    | with_reducible assumption
    | (with_reducible first
        | apply State.raiseThermal_keeps | apply State.addSat_keeps | apply State.setF_keeps | apply Keeps.ite)

theorem State.setThr_keeps {s0 : State} {s : State} {thr : Nat} (hK : Keeps s0 s) : Keeps s0 (s.setThr thr) := by
  unfold State.setThr
  repeat' first
    | with_reducible assumption
    | (with_reducible first
        | apply State.addSat_keeps | apply State.thermalHold_keeps | apply State.raiseThermal_keeps | apply State.setF_keeps
        | apply Keeps.ite)

theorem State.thrTimer_keeps {s0 : State} {s : State} {hot : Bool} (hK : Keeps s0 s) : Keeps s0 (s.thrTimer hot) := by
  unfold State.thrTimer
  repeat' first | with_reducible assumption | simp -zeta only [Keeps.upd]

theorem State.throttleLevel_keeps {s0 : State} {s : State} (hK : Keeps s0 s) : Keeps s0 (s.throttleLevel) := by
  unfold State.throttleLevel
  repeat' first
    | with_reducible assumption
    | (with_reducible first
        | apply State.setF_keeps | apply State.thrTimer_keeps | apply State.setThr_keeps | apply State.goto_keeps
        | apply Keeps.ite)

theorem State.thermalShutdown_keeps {s0 s : State} (h : Keeps s0 s) : Keeps s0 s.thermalShutdown :=
  State.thermalDown_keeps (State.nvNow_keeps (State.latchWith_keeps h fun _ k => k))

theorem State.thermalLevels_keeps {s0 : State} {s : State} (hK : Keeps s0 s) : Keeps s0 (s.thermalLevels) := by
  unfold State.thermalLevels
  repeat' first
    | with_reducible assumption
    | (with_reducible first
        | apply State.enterBoot_keeps | apply State.thermalShutdown_keeps | apply State.throttleLevel_keeps
        | apply State.warnLevel_keeps | apply Keeps.ite)

theorem execTempSensorReading_keeps {s0 : State} {i : Nat} {temp : Int} {s : State} (hK : Keeps s0 s) :
    KeepsOut s0 (execTempSensorReading i temp s) := by
  unfold execTempSensorReading
  repeat' first
    | with_reducible assumption
    | (with_reducible first
        | apply KeepsOut.next | apply KeepsOut.ite | apply State.setF_keeps | apply State.thermalLevels_keeps
        | apply State.noteConds_keeps | apply State.setTj_keeps | apply Keeps.ite)
    | simp -zeta only [Keeps.upd]

theorem execThrottleStep_keeps {s0 : State} {s : State} (hK : Keeps s0 s) : KeepsOut s0 (execThrottleStep s) := by
  unfold execThrottleStep
  repeat' first
    | with_reducible assumption
    | (with_reducible first
        | apply KeepsOut.next | apply KeepsOut.ite | apply State.at__keeps | apply State.thrTimer_keeps | apply State.setThr_keeps
        | apply Keeps.ite)

theorem execThermalStatus_keeps {s0 : State} {q : Req} {p : List Byte} {s : State} (hK : Keeps s0 s) :
    KeepsOut s0 (execThermalStatus q p s) := by
  unfold execThermalStatus
  repeat' first
    | with_reducible assumption
    | (with_reducible first | apply KeepsOut.next | apply State.fixed_keeps | apply State.replyOk_keeps | intro _ _ _ | intro _ _)

theorem execThermalLimits_keeps {s0 : State} {q : Req} {p : List Byte} {s : State} (hK : Keeps s0 s) :
    KeepsOut s0 (execThermalLimits q p s) := by
  unfold execThermalLimits
  repeat' first
    | with_reducible assumption
    | (with_reducible first
        | apply KeepsOut.next | apply State.fixed_keeps | apply State.setF_keeps | apply State.thermalLevels_keeps
        | apply State.reply_keeps | intro _ _ _ | intro _ _)

theorem State.historyCheck_keeps {s0 : State} {s : State} (hK : Keeps s0 s) : Keeps s0 (s.historyCheck) := by
  unfold State.historyCheck
  repeat' first
    | with_reducible assumption
    | (with_reducible first | apply State.raiseThermal_keeps | apply State.setF_keeps)
    | split

theorem execAckThermalEvent_keeps {s0 : State} {q : Req} {p : List Byte} {s : State} (hK : Keeps s0 s) :
    KeepsOut s0 (execAckThermalEvent q p s) := by
  unfold execAckThermalEvent
  repeat' first
    | with_reducible assumption
    | (with_reducible first
        | apply KeepsOut.next | apply State.fixed_keeps | apply State.setF_keeps | apply State.nvNow_keeps
        | apply State.reply_keeps | apply State.noteConds_keeps | intro _ _ _ | intro _ _)

theorem execNvlogRead_keeps {s0 : State} {q : Req} {p : List Byte} {s : State} (hK : Keeps s0 s) :
    KeepsOut s0 (execNvlogRead q p s) := by
  unfold execNvlogRead
  repeat' first
    | with_reducible assumption
    | (with_reducible first | apply KeepsOut.next | apply State.fixed_keeps | apply State.replyOk_keeps | intro _ _ _ | intro _ _)
    | split

theorem execNvlogWrite_keeps {s0 : State} {s : State} (hK : Keeps s0 s) : KeepsOut s0 (execNvlogWrite s) := by
  unfold execNvlogWrite
  repeat' first
    | with_reducible assumption
    | (with_reducible first | apply KeepsOut.next | apply KeepsOut.ite | apply State.nvWriteHead_keeps | apply Keeps.ite)

end Sys2Proof.Machine
end

