-- ==== Sys2Proof/Laws/KeepsImage.lean ====
section
/-! SUPPORT. Every operation and meaning of Machine/Image.lean keeps the queue, the canonical forms and the order of time. -/

namespace Sys2Proof.Machine

open Reg

theorem State.noteCheck_keeps {s0 : State} {s : State} {slot : Nat} {code : Nat} (hK : Keeps s0 s) :
    Keeps s0 (s.noteCheck slot code) := by
  unfold State.noteCheck
  repeat' first | with_reducible assumption | simp -zeta only [Keeps.upd]

theorem execImageInfo_keeps {s0 : State} {q : Req} {p : List Byte} {s : State} (hK : Keeps s0 s) :
    KeepsOut s0 (execImageInfo q p s) := by
  unfold execImageInfo
  repeat' first
    | with_reducible assumption
    | (with_reducible first | apply KeepsOut.next | apply State.fixed_keeps | apply State.replyOk_keeps | intro _ _ _ | intro _ _)

theorem execFlashRead_keeps {s0 : State} {q : Req} {p : List Byte} {s : State} (hK : Keeps s0 s) :
    KeepsOut s0 (execFlashRead q p s) := by
  unfold execFlashRead
  repeat' first
    | with_reducible assumption
    | (with_reducible first | apply KeepsOut.next | apply State.fixed_keeps | apply State.replyOk_keeps | intro _ _ _ | intro _ _)
    | split

theorem State.flashStart_keeps {s0 : State} {s : State} {q : Req} {opc : Nat} {op : FlashOp} (hK : Keeps s0 s) :
    Keeps s0 (s.flashStart q opc op) := by
  unfold State.flashStart
  repeat' first
    | with_reducible assumption
    | (with_reducible first | apply State.reply_keeps | apply State.addJob_keeps)
    | simp -zeta only [Keeps.upd]

theorem execFlashErase_keeps {s0 : State} {q : Req} {p : List Byte} {s : State} (hK : Keeps s0 s) :
    KeepsOut s0 (execFlashErase q p s) := by
  unfold execFlashErase
  repeat' first
    | with_reducible assumption
    | (with_reducible first
        | apply KeepsOut.next | apply State.fixed_keeps | apply State.flashStart_keeps | intro _ _ _ | intro _ _)

theorem execFlashWrite_keeps {s0 : State} {q : Req} {p : List Byte} {s : State} (hK : Keeps s0 s) :
    KeepsOut s0 (execFlashWrite q p s) := by
  unfold execFlashWrite
  repeat' first
    | with_reducible assumption
    | (with_reducible first
        | apply KeepsOut.next | apply KeepsOut.ite | apply State.command_keeps | apply State.badLength_keeps
        | apply State.reply_keeps | apply State.flashStart_keeps | apply Keeps.ite | intro _ _ _ | intro _ _)
    | split

theorem execFlashOperationDone_keeps {s0 : State} {s : State} (hK : Keeps s0 s) : KeepsOut s0 (execFlashOperationDone s) := by
  unfold execFlashOperationDone
  repeat' first
    | with_reducible assumption
    | (with_reducible first | apply KeepsOut.next | apply State.finishJobs_keeps)
    | simp -zeta only [Keeps.upd]
    | split

theorem execImageVerify_keeps {s0 : State} {q : Req} {p : List Byte} {s : State} (hK : Keeps s0 s) :
    KeepsOut s0 (execImageVerify q p s) := by
  unfold execImageVerify
  repeat' first
    | with_reducible assumption
    | (with_reducible first
        | apply KeepsOut.next | apply State.fixed_keeps | apply State.flashStart_keeps | intro _ _ _ | intro _ _)

theorem execImageVerifyDone_keeps {s0 : State} {readErr : Bool} {s : State} (hK : Keeps s0 s) :
    KeepsOut s0 (execImageVerifyDone readErr s) := by
  unfold execImageVerifyDone
  repeat' first
    | with_reducible assumption
    | (with_reducible first | apply KeepsOut.next | apply State.finishJobs_keeps | apply State.noteCheck_keeps)
    | simp -zeta only [Keeps.upd]
    | split

theorem execImageSelect_keeps {s0 : State} {q : Req} {p : List Byte} {s : State} (hK : Keeps s0 s) :
    KeepsOut s0 (execImageSelect q p s) := by
  unfold execImageSelect
  repeat' first
    | with_reducible assumption
    | (with_reducible first
        | apply KeepsOut.next | apply State.fixed_keeps | apply State.reply_keeps | apply State.setF_keeps | intro _ _ _
        | intro _ _)
    | simp -zeta only [Keeps.upd]

end Sys2Proof.Machine
end

