-- ==== Sys2Proof/Laws/KeepsBoot.lean ====
section
/-! SUPPORT. Every operation and meaning of Machine/Boot.lean keeps the queue, the canonical forms and the order of time. -/

namespace Sys2Proof.Machine

open Reg

theorem State.stage_keeps {s0 : State} {s : State} {n : Nat} (hK : Keeps s0 s) : Keeps s0 (s.stage n) := by
  unfold State.stage
  repeat' first | with_reducible assumption | with_reducible apply State.setF_keeps

theorem State.bootFail_keeps {s0 : State} {s : State} {code : Nat} (hK : Keeps s0 s) : Keeps s0 (s.bootFail code) := by
  unfold State.bootFail
  repeat' first
    | with_reducible assumption
    | (with_reducible first | apply State.enterFault_keeps | apply State.stage_keeps)
    | simp -zeta only [Keeps.upd]

theorem State.loadLimits_keeps {s0 : State} {s : State} (hK : Keeps s0 s) : Keeps s0 (s.loadLimits) := by
  unfold State.loadLimits
  repeat' first
    | with_reducible assumption
    | (with_reducible first | apply Keeps.forEach | apply State.wr_keeps | intro _ _ _ | intro _ _)

theorem State.loadPd00_keeps {s0 : State} {s : State} (hK : Keeps s0 s) : Keeps s0 (s.loadPd00) := by
  unfold State.loadPd00
  repeat' first
    | with_reducible assumption
    | (with_reducible first
        | apply State.loadLimits_keeps | apply Keeps.forEach | apply State.setF_keeps | intro _ _ _ | intro _ _)

theorem execFuseRead_keeps {s0 : State} {hgId : Nat} {s : State} (hK : Keeps s0 s) : KeepsOut s0 (execFuseRead hgId s) := by
  unfold execFuseRead
  repeat' first
    | with_reducible assumption
    | (with_reducible first
        | apply KeepsOut.next | apply KeepsOut.ite | apply State.setF_keeps | apply State.loadPd00_keeps | apply State.stage_keeps
        | apply Keeps.ite)
    | simp -zeta only [Keeps.upd]
    | split

theorem execClockLock_keeps {s0 s : State} {l : Bool} (h : Keeps s0 s) : KeepsOut s0 (execClockLock l s) := by
  unfold execClockLock
  refine .ite h (.ite (State.stage_keeps h) ?_)
  have h1 : Keeps s0 (s.forEach [CLK_STAT_REF_OK, CLK_STAT_C_LOCK, CLK_STAT_H_LOCK, CLK_STAT_T_LOCK] (fun s f => s.setF CLK_STAT f 1)) :=
    Keeps.forEach h fun _ _ k => State.setF_keeps k
  refine State.stage_keeps ?_
  apply Keeps.updTm h1
  exact h1.now

theorem execSfdpRead_keeps {s0 : State} {density : Nat} {content : Option (List (Nat × List Byte))} {s : State} (hK
    : Keeps s0 s) :
    KeepsOut s0 (execSfdpRead density content s) := by
  unfold execSfdpRead
  repeat' first
    | with_reducible assumption
    | (with_reducible first | apply KeepsOut.next | apply KeepsOut.ite | apply State.stage_keeps | apply Keeps.ite)
    | simp -zeta only [Keeps.upd]
    | split

theorem State.bootSlot_keeps {s0 : State} {s : State} {slot : Nat} {fallback : Bool} (hK : Keeps s0 s) :
    Keeps s0 (s.bootSlot slot fallback) := by
  unfold State.bootSlot
  repeat' first
    | with_reducible assumption
    | (with_reducible first | apply State.setF_keeps | apply State.stage_keeps | apply State.wr_keeps | apply Keeps.ite)
    | simp -zeta only [Keeps.upd]

theorem execSlotCheck_keeps {s0 : State} {readErr : Bool} {s : State} (hK : Keeps s0 s) : KeepsOut s0 (execSlotCheck readErr s) := by
  unfold execSlotCheck
  repeat' first
    | with_reducible assumption
    | (with_reducible first
        | apply KeepsOut.next | apply KeepsOut.ite | apply State.setF_keeps | apply State.noteCheck_keeps
        | apply State.bootSlot_keeps | apply State.bootFail_keeps | apply State.stage_keeps | apply Keeps.ite)
    | split

theorem State.fuseProgram_keeps {s0 : State} {s : State} {d : List Byte} (hK : Keeps s0 s) : Keeps s0 (s.fuseProgram d) := by
  unfold State.fuseProgram
  repeat' first
    | with_reducible assumption
    | (with_reducible first
        | apply State.setF_keeps | apply Keeps.forEach | apply State.loadLimits_keeps | apply Keeps.ite | intro _ _ _ | intro _ _)
    | simp -zeta only [Keeps.upd]

theorem execFuseProgramming_keeps {s0 : State} {s : State} (hK : Keeps s0 s) : KeepsOut s0 (execFuseProgramming s) := by
  unfold execFuseProgramming
  repeat' first
    | with_reducible assumption
    | (with_reducible first
        | apply KeepsOut.next | apply KeepsOut.ite | apply State.stage_keeps | apply State.setF_keeps
        | apply State.fuseProgram_keeps | apply Keeps.ite)
    | split

theorem execBootPower_keeps {s0 : State} {s : State} (hK : Keeps s0 s) : KeepsOut s0 (execBootPower s) := by
  unfold execBootPower
  repeat' first
    | with_reducible assumption
    | (with_reducible first
        | apply KeepsOut.next | apply KeepsOut.ite | apply State.stage_keeps | apply Keeps.forEach | apply State.domainUp_keeps
        | apply Keeps.ite | intro _ _ _ | intro _ _)

theorem execMbist_keeps {s0 s : State} {pass : Bool} (h : Keeps s0 s) : KeepsOut s0 (execMbist pass s) := by
  unfold execMbist
  refine .ite h (.ite (State.bootFail_keeps h) ?_)
  exact State.stage_keeps (Keeps.updMem h fun _ => .refl _)

theorem execLbist_keeps {s0 : State} {pass : Bool} {s : State} (hK : Keeps s0 s) : KeepsOut s0 (execLbist pass s) := by
  unfold execLbist
  repeat' first
    | with_reducible assumption
    | (with_reducible first
        | apply KeepsOut.next | apply KeepsOut.ite | apply State.stage_keeps | apply State.bootFail_keeps | apply Keeps.ite)

theorem State.initRej_keeps {s0 : State} {s : State} {n : Nat} (hK : Keeps s0 s) : Keeps s0 (s.initRej n) := by
  unfold State.initRej
  repeat' first | with_reducible assumption | with_reducible apply State.addSat_keeps

theorem State.applyKeys_keeps {s0 : State} {s : State} (hK : Keeps s0 s) : Keeps s0 (s.applyKeys) := by
  unfold State.applyKeys
  repeat' first
    | with_reducible assumption
    | with_reducible apply State.setF_keeps
    | simp -zeta only [Keeps.upd]
    | split

theorem State.applyCascade_keeps {s0 : State} {s : State} (hK : Keeps s0 s) : Keeps s0 (s.applyCascade) := by
  unfold State.applyCascade
  repeat' first
    | with_reducible assumption
    | (with_reducible first | apply State.initRej_keeps | apply State.casLoad_keeps | apply Keeps.ite)
    | split

theorem State.applyPtp_keeps {s0 : State} {s : State} {x : Nat} {sec : List Byte} (hK : Keeps s0 s) :
    Keeps s0 (s.applyPtp x sec) := by
  unfold State.applyPtp
  repeat' first
    | with_reducible assumption
    | (with_reducible first | apply State.setF_keeps | apply State.initRej_keeps | apply State.setPtp_keeps | apply Keeps.ite)

theorem State.applyPtps_keeps {s0 : State} {s : State} (hK : Keeps s0 s) : Keeps s0 (s.applyPtps) := by
  unfold State.applyPtps
  repeat' first | with_reducible assumption | with_reducible apply State.applyPtp_keeps | split

theorem State.applyIdent_keeps {s0 : State} {s : State} (hK : Keeps s0 s) : Keeps s0 (s.applyIdent) := by
  unfold State.applyIdent
  repeat' first
    | with_reducible assumption
    | (with_reducible first | apply State.setF_keeps | apply Keeps.ite)
    | simp -zeta only [Keeps.upd]
    | split

theorem State.initLevel_keeps {s0 : State} {s : State} {mask : Nat} {v : Nat} (hK : Keeps s0 s) : Keeps s0 (s.initLevel mask v) := by
  unfold State.initLevel
  repeat' first
    | with_reducible assumption
    | (with_reducible first | apply State.setF_keeps | apply State.initRej_keeps | apply Keeps.ite)
    | split

theorem State.initEntry_keeps {s0 : State} {s : State} {x : Nat × Nat × Nat} (hK : Keeps s0 s) : Keeps s0 (s.initEntry x) := by
  unfold State.initEntry
  repeat' first
    | with_reducible assumption
    | (with_reducible first
        | apply State.initLevel_keeps | apply State.initRej_keeps | apply State.hostWrite_keeps
        | apply State.hostWrite_keepsE (by assumption) | apply Keeps.ite)
    | split

theorem State.applyInit_keeps {s0 : State} {s : State} (hK : Keeps s0 s) : Keeps s0 (s.applyInit) := by
  unfold State.applyInit
  repeat' first
    | with_reducible assumption
    | (with_reducible first | apply Keeps.forEach | apply State.initEntry_keeps | intro _ _ _ | intro _ _)
    | simp -zeta only [Keeps.upd]

theorem execConfigApply_keeps {s0 : State} {s : State} (hK : Keeps s0 s) : KeepsOut s0 (execConfigApply s) := by
  unfold execConfigApply
  repeat' first
    | with_reducible assumption
    | (with_reducible first
        | apply KeepsOut.next | apply KeepsOut.ite | apply State.applyInit_keeps | apply State.applyIdent_keeps
        | apply State.applyPtps_keeps | apply State.applyCascade_keeps | apply State.applyKeys_keeps | apply Keeps.forEach
        | apply State.markStale_keeps | apply State.historyCheck_keeps | apply State.thrTimer_keeps | apply State.goto_keeps
        | apply State.stage_keeps | apply Keeps.ite | intro _ _ _ | intro _ _)

end Sys2Proof.Machine
end

