-- ==== Sys2Proof/Laws/KeepsBurst.lean ====
section
/-! SUPPORT. Every operation and meaning of Machine/Burst.lean keeps the queue, the canonical forms and the order of time. -/

namespace Sys2Proof.Machine

open Reg

theorem State.dmaItem_keeps {s0 : State} {s : State} {q : Nat} (hK : Keeps s0 s) : Keeps s0 (s.dmaItem q).2 := by
  unfold State.dmaItem
  repeat' first
    | with_reducible assumption
    | with_reducible apply Keeps.ite
    | simp -zeta only [Keeps.upd]
    | split

theorem State.dmaCur_keeps {s0 : State} {s : State} {c : Nat} {j : Nat} {k : Nat} (hK : Keeps s0 s) : Keeps s0 (s.dmaCur c j k) := by
  unfold State.dmaCur
  repeat' first | with_reducible assumption | with_reducible apply State.wr_keeps

theorem State.dmaRefused_keeps {s0 : State} {s : State} {c : Nat} {code : Nat} {a : Nat} (hK : Keeps s0 s) :
    Keeps s0 (s.dmaRefused c code a) := by
  unfold State.dmaRefused
  repeat' first
    | with_reducible assumption
    | (with_reducible first | apply State.dmaDrop_keeps | apply State.wr_keeps)

theorem State.dmaMark_keeps {s0 : State} {s : State} {c : Nat} {full : Bool} (hK : Keeps s0 s) : Keeps s0 (s.dmaMark c full) := by
  unfold State.dmaMark
  repeat' first
    | with_reducible assumption
    | (with_reducible first | apply State.setF_keeps | apply Keeps.ite)
    | split

/-- A beat keeps a state when its state does. -/
def Beat.Keeps (s0 : State) : Beat → Prop
  | .ok _ t => Machine.Keeps s0 t
  | .bad _ t => Machine.Keeps s0 t

theorem State.dmaRead_keeps {s0 s : State} {c a n : Nat} (h : Keeps s0 s) : (s.dmaRead c a n).Keeps s0 := by
  unfold State.dmaRead
  split
  · exact State.readWords_keeps h
  · split
    · exact h
    · split
      · exact State.histRead_keeps h
      · exact State.winRead_keeps h

theorem State.dmaRegs_keeps {s0 s : State} {a : Nat} {b : List Byte} (h : Keeps s0 s) : (s.dmaRegs a b).Keeps s0 := by
  fun_induction State.dmaRegs s a b with
  | case1 => exact h
  | case2 s a b0 b1 b2 b3 t s1 e ih =>
    have k := State.hostWrite_keeps (a := a) (w := BitVec.ofNat 32 (leNat [b0, b1, b2, b3])) (mask := BitVec.ofNat 32 0xFFFFFFFF) h
    rw [e] at k; exact ih k
  | case3 s a b0 b1 b2 b3 t r s1 e _ =>
    have k := State.hostWrite_keeps (a := a) (w := BitVec.ofNat 32 (leNat [b0, b1, b2, b3])) (mask := BitVec.ofNat 32 0xFFFFFFFF) h
    rw [e] at k; exact k
  | case4 => exact h

theorem State.dmaStore_keeps {s0 s : State} {a : Nat} {b : List Byte} (h : Keeps s0 s) : (s.dmaStore a b).Keeps s0 := by
  unfold State.dmaStore
  split
  · exact State.dmaRegs_keeps h
  · split
    · exact h
    · exact State.winWrite_keeps h

theorem State.dmaDrain_keeps {s0 s : State} {n c : Nat} (h : Keeps s0 s) : Keeps s0 (State.dmaDrain n s c) := by
  induction n generalizing s with
  | zero => exact h
  | succ n ih =>
    unfold State.dmaDrain
    extract_lets d y a
    apply Keeps.ite h
    have k : (s.dmaStore a (List.take y.width d.reg)).Keeps s0 := State.dmaStore_keeps h
    split
    · rename_i e; rw [e] at k; exact State.dmaRefused_keeps k
    · rename_i t e; rw [e] at k
      have hu : Keeps s0 ((t.setDch c { d with reg := List.drop y.width d.reg, dst := d.dst + y.width, moved := true }).dmaCur c 1 (d.dst + y.width)) := State.dmaCur_keeps (State.setDch_keeps k)
      exact ih (Keeps.ite (State.dmaMark_keeps hu) hu)

theorem State.dmaBeats_keeps {s0 s : State} {n c m : Nat} (h : Keeps s0 s) : Keeps s0 (State.dmaBeats n s c m) := by
  induction n generalizing s m with
  | zero => exact h
  | succ n ih =>
    unfold State.dmaBeats
    extract_lets +onlyGivenNames x
    apply Keeps.ite h
    extract_lets +onlyGivenNames d q a beat
    have k : beat.Keeps s0 := by
      dsimp only [beat]
      split
      · exact State.dmaRead_keeps h
      · exact State.dmaItem_keeps h
    clear_value beat
    split
    · exact State.dmaRefused_keeps k
    · rename_i t
      extract_lets +onlyGivenNames d1 u v
      have hu : Keeps s0 u := State.wr_keeps (State.setDch_keeps k)
      exact ih (State.dmaDrain_keeps (Keeps.ite (State.dmaCur_keeps hu) hu))

theorem State.dmaLap_keeps {s0 : State} {s : State} {c : Nat} (hK : Keeps s0 s) : Keeps s0 (s.dmaLap c) := by
  unfold State.dmaLap
  repeat' first
    | with_reducible assumption
    | (with_reducible first
        | apply State.dmaMark_keeps | apply State.addWrap_keeps | apply State.dmaLoad_keeps | apply State.setDch_keeps
        | apply State.dmaDrop_keeps | apply Keeps.ite)
    | simp -zeta only [Keeps.upd]

theorem State.dmaAfter_keeps {s0 : State} {s : State} {c : Nat} (hK : Keeps s0 s) : Keeps s0 (s.dmaAfter c) := by
  unfold State.dmaAfter
  repeat' first
    | with_reducible assumption
    | (with_reducible first | apply State.dmaLap_keeps | apply State.setF_keeps | apply Keeps.ite)

theorem State.dmaBurst_keeps {s0 : State} {s : State} {c : Nat} (hK : Keeps s0 s) : Keeps s0 (s.dmaBurst c) := by
  unfold State.dmaBurst
  repeat' first
    | with_reducible assumption
    | (with_reducible first
        | apply State.setF_keeps | apply State.setDch_keeps | apply State.dmaAfter_keeps | apply State.dmaBeats_keeps
        | apply State.watermarks_keeps | apply State.dmaFills_keeps | apply Keeps.ite)
    | simp -zeta only [Keeps.upd]

theorem execDmaBurst_keeps {s0 : State} {s : State} (hK : Keeps s0 s) : KeepsOut s0 (execDmaBurst s) := by
  unfold execDmaBurst
  repeat' first
    | with_reducible assumption
    | (with_reducible first | apply KeepsOut.next | apply KeepsOut.ite | apply State.dmaBurst_keeps | apply Keeps.ite)
    | split

end Sys2Proof.Machine
end

