-- ==== Sys2Proof/Laws/KeepsWrites.lean ====
section
/-! SUPPORT. Every operation and meaning of Machine/Writes.lean keeps the queue, the canonical forms and the order of time. -/

namespace Sys2Proof.Machine

open Reg

theorem State.wrErr_keeps {s0 : State} {s : State} (hK : Keeps s0 s) : Keeps s0 (s.wrErr) := by
  unfold State.wrErr
  repeat' first | with_reducible assumption | with_reducible apply State.setF_keeps

theorem State.pathModify_keeps {s0 : State} {s : State} {p : Path} {a : Nat} {w : Word} {mask : Word} (hK : Keeps s0 s) :
    Keeps s0 (s.pathModify p a w mask) := by
  unfold State.pathModify
  repeat' first
    | with_reducible assumption
    | (with_reducible first
        | apply State.wrErr_keeps | apply State.addSat_keeps | apply State.hostWrite_keeps
        | apply State.hostWrite_keepsE (by assumption) | apply Keeps.ite)
    | split

theorem State.pathWrite_keeps {s0 : State} {s : State} {p : Path} {a : Nat} {w : Word} (hK : Keeps s0 s) :
    Keeps s0 (s.pathWrite p a w) := by
  unfold State.pathWrite
  repeat' first | with_reducible assumption | with_reducible apply State.pathModify_keeps

theorem State.pathField_keeps {s0 : State} {s : State} {p : Path} {a : Nat} {f : Fld} {v : Nat} (hK : Keeps s0 s) :
    Keeps s0 (s.pathField p a f v) := by
  unfold State.pathField
  repeat' first | with_reducible assumption | with_reducible apply State.pathModify_keeps

theorem State.pathWriteIn_keeps {s0 : State} {s : State} {p : Path} {group : List Nat} {a : Nat} {w : Word} (hK : Keeps s0 s) :
    Keeps s0 (s.pathWriteIn p group a w) := by
  unfold State.pathWriteIn
  repeat' first
    | with_reducible assumption
    | (with_reducible first | apply State.pathWrite_keeps | apply Keeps.ite)
    | split

theorem State.pathFieldIn_keeps {s0 : State} {s : State} {p : Path} {base : Nat} {a : Nat} {f : Fld} {v : Nat} (hK : Keeps s0 s)
    :
    Keeps s0 (s.pathFieldIn p base a f v) := by
  unfold State.pathFieldIn
  repeat' first
    | with_reducible assumption
    | (with_reducible first | apply State.pathField_keeps | apply Keeps.ite)

theorem execRegisterWrite_keeps {s0 : State} {path : Path} {a : Nat} {w : Word} {s : State} (hK : Keeps s0 s) :
    KeepsOut s0 (execRegisterWrite path a w s) := by
  unfold execRegisterWrite
  repeat' first
    | with_reducible assumption
    | (with_reducible first | apply KeepsOut.next | apply State.pathWrite_keeps)

theorem execGlbBehaviourWrite_keeps {s0 : State} {path : Path} {level : Nat} {s : State} (hK : Keeps s0 s) :
    KeepsOut s0 (execGlbBehaviourWrite path level s) := by
  unfold execGlbBehaviourWrite
  repeat' first
    | with_reducible assumption
    | (with_reducible first | apply KeepsOut.next | apply State.pathField_keeps)

theorem execHostTrip_keeps {s0 : State} {path : Path} {s : State} (hK : Keeps s0 s) : KeepsOut s0 (execHostTrip path s) := by
  unfold execHostTrip
  repeat' first
    | with_reducible assumption
    | (with_reducible first | apply KeepsOut.next | apply State.pathField_keeps)

theorem execTdcCounterClear_keeps {s0 : State} {path : Path} {quarters : Nat} {s : State} (hK : Keeps s0 s) :
    KeepsOut s0 (execTdcCounterClear path quarters s) := by
  unfold execTdcCounterClear
  repeat' first
    | with_reducible assumption
    | (with_reducible first | apply KeepsOut.next | apply State.pathField_keeps)

theorem execFrefMissClear_keeps {s0 : State} {path : Path} {s : State} (hK : Keeps s0 s) :
    KeepsOut s0 (execFrefMissClear path s) := by
  unfold execFrefMissClear
  repeat' first
    | with_reducible assumption
    | (with_reducible first | apply KeepsOut.next | apply State.pathField_keeps)

theorem execTpiGo_keeps {s0 : State} {path : Path} {s : State} (hK : Keeps s0 s) : KeepsOut s0 (execTpiGo path s) := by
  unfold execTpiGo
  repeat' first
    | with_reducible assumption
    | (with_reducible first | apply KeepsOut.next | apply State.pathField_keeps)

theorem execTmbCounterClear_keeps {s0 : State} {path : Path} {quarters : Nat} {s : State} (hK : Keeps s0 s) :
    KeepsOut s0 (execTmbCounterClear path quarters s) := by
  unfold execTmbCounterClear
  repeat' first
    | with_reducible assumption
    | (with_reducible first | apply KeepsOut.next | apply State.pathField_keeps)

theorem execFirCounterClear_keeps {s0 : State} {path : Path} {s : State} (hK : Keeps s0 s) :
    KeepsOut s0 (execFirCounterClear path s) := by
  unfold execFirCounterClear
  repeat' first
    | with_reducible assumption
    | (with_reducible first | apply KeepsOut.next | apply State.pathField_keeps)

theorem execHgeCounterClear_keeps {s0 : State} {path : Path} {quarters : Nat} {s : State} (hK : Keeps s0 s) :
    KeepsOut s0 (execHgeCounterClear path quarters s) := by
  unfold execHgeCounterClear
  repeat' first
    | with_reducible assumption
    | (with_reducible first | apply KeepsOut.next | apply State.pathField_keeps)

theorem execHgeWaitClear_keeps {s0 : State} {path : Path} {s : State} (hK : Keeps s0 s) : KeepsOut s0 (execHgeWaitClear path s) := by
  unfold execHgeWaitClear
  repeat' first
    | with_reducible assumption
    | (with_reducible first | apply KeepsOut.next | apply State.pathField_keeps)

theorem execHgeBinWrite_keeps {s0 : State} {path : Path} {w : Word} {s : State} (hK : Keeps s0 s) :
    KeepsOut s0 (execHgeBinWrite path w s) := by
  unfold execHgeBinWrite
  repeat' first
    | with_reducible assumption
    | (with_reducible first | apply KeepsOut.next | apply State.pathWrite_keeps)

theorem execExtCounterClear_keeps {s0 : State} {path : Path} {s : State} (hK : Keeps s0 s) :
    KeepsOut s0 (execExtCounterClear path s) := by
  unfold execExtCounterClear
  repeat' first
    | with_reducible assumption
    | (with_reducible first | apply KeepsOut.next | apply State.pathField_keeps)

theorem execExtAirWrite_keeps {s0 : State} {path : Path} {nm1 : Nat} {s : State} (hK : Keeps s0 s) :
    KeepsOut s0 (execExtAirWrite path nm1 s) := by
  unfold execExtAirWrite
  repeat' first
    | with_reducible assumption
    | (with_reducible first | apply KeepsOut.next | apply State.pathField_keeps)

theorem execAlcCounterClear_keeps {s0 : State} {path : Path} {s : State} (hK : Keeps s0 s) :
    KeepsOut s0 (execAlcCounterClear path s) := by
  unfold execAlcCounterClear
  repeat' first
    | with_reducible assumption
    | (with_reducible first | apply KeepsOut.next | apply State.pathField_keeps)

theorem execSrvCounterClear_keeps {s0 : State} {path : Path} {s : State} (hK : Keeps s0 s) :
    KeepsOut s0 (execSrvCounterClear path s) := by
  unfold execSrvCounterClear
  repeat' first
    | with_reducible assumption
    | (with_reducible first | apply KeepsOut.next | apply State.pathField_keeps)

theorem execLoopModeWrite_keeps {s0 : State} {path : Path} {x : Nat} {auto : Bool} {s : State} (hK : Keeps s0 s) :
    KeepsOut s0 (execLoopModeWrite path x auto s) := by
  unfold execLoopModeWrite
  repeat' first
    | with_reducible assumption
    | (with_reducible first | apply KeepsOut.next | apply State.pathFieldIn_keeps)

theorem execLoopManWrite_keeps {s0 : State} {path : Path} {x : Nat} {w : Word} {s : State} (hK : Keeps s0 s) :
    KeepsOut s0 (execLoopManWrite path x w s) := by
  unfold execLoopManWrite
  repeat' first
    | with_reducible assumption
    | (with_reducible first | apply KeepsOut.next | apply State.pathWriteIn_keeps)

theorem execLoopOpenRegisterWrite_keeps {s0 : State} {path : Path} {a : Nat} {w : Word} {s : State} (hK : Keeps s0 s) :
    KeepsOut s0 (execLoopOpenRegisterWrite path a w s) := by
  unfold execLoopOpenRegisterWrite
  repeat' first
    | with_reducible assumption
    | (with_reducible first | apply KeepsOut.next | apply State.pathWriteIn_keeps)

theorem execTrajectorySwapRequest_keeps {s0 : State} {path : Path} {x : Nat} {s : State} (hK : Keeps s0 s) :
    KeepsOut s0 (execTrajectorySwapRequest path x s) := by
  unfold execTrajectorySwapRequest
  repeat' first
    | with_reducible assumption
    | (with_reducible first | apply KeepsOut.next | apply State.pathFieldIn_keeps)

theorem execTrajectoryWrite_keeps {s0 : State} {path : Path} {m : Nat} {b : Nat} {e : Nat} {w : Word} {s : State} (hK
    : Keeps s0 s) :
    KeepsOut s0 (execTrajectoryWrite path m b e w s) := by
  unfold execTrajectoryWrite
  repeat' first
    | with_reducible assumption
    | (with_reducible first | apply KeepsOut.next | apply State.pathWriteIn_keeps)

theorem execTuneEnWrite_keeps {s0 : State} {path : Path} {on : Bool} {s : State} (hK : Keeps s0 s) :
    KeepsOut s0 (execTuneEnWrite path on s) := by
  unfold execTuneEnWrite
  repeat' first
    | with_reducible assumption
    | (with_reducible first | apply KeepsOut.next | apply State.pathField_keeps)

theorem execTraceArm_keeps {s0 : State} {path : Path} {s : State} (hK : Keeps s0 s) : KeepsOut s0 (execTraceArm path s) := by
  unfold execTraceArm
  repeat' first
    | with_reducible assumption
    | (with_reducible first | apply KeepsOut.next | apply State.pathField_keeps)

theorem execTraceStop_keeps {s0 : State} {path : Path} {s : State} (hK : Keeps s0 s) : KeepsOut s0 (execTraceStop path s) := by
  unfold execTraceStop
  repeat' first
    | with_reducible assumption
    | (with_reducible first | apply KeepsOut.next | apply State.pathField_keeps)

theorem execTraceForce_keeps {s0 : State} {path : Path} {s : State} (hK : Keeps s0 s) : KeepsOut s0 (execTraceForce path s) := by
  unfold execTraceForce
  repeat' first
    | with_reducible assumption
    | (with_reducible first | apply KeepsOut.next | apply State.pathField_keeps)

theorem execMadGo_keeps {s0 : State} {path : Path} {s : State} (hK : Keeps s0 s) : KeepsOut s0 (execMadGo path s) := by
  unfold execMadGo
  repeat' first
    | with_reducible assumption
    | (with_reducible first | apply KeepsOut.next | apply State.pathField_keeps)

theorem execSeqEnWrite_keeps {s0 : State} {path : Path} {on : Bool} {s : State} (hK : Keeps s0 s) :
    KeepsOut s0 (execSeqEnWrite path on s) := by
  unfold execSeqEnWrite
  repeat' first
    | with_reducible assumption
    | (with_reducible first | apply KeepsOut.next | apply State.pathField_keeps)

theorem execMadCounterClear_keeps {s0 : State} {path : Path} {s : State} (hK : Keeps s0 s) :
    KeepsOut s0 (execMadCounterClear path s) := by
  unfold execMadCounterClear
  repeat' first
    | with_reducible assumption
    | (with_reducible first | apply KeepsOut.next | apply State.pathField_keeps)

theorem execRefEnWrite_keeps {s0 : State} {path : Path} {on : Bool} {s : State} (hK : Keeps s0 s) :
    KeepsOut s0 (execRefEnWrite path on s) := by
  unfold execRefEnWrite
  repeat' first
    | with_reducible assumption
    | (with_reducible first | apply KeepsOut.next | apply State.pathField_keeps)

theorem execInjGo_keeps {s0 : State} {path : Path} {w : Word} {s : State} (hK : Keeps s0 s) : KeepsOut s0 (execInjGo path w s) := by
  unfold execInjGo
  repeat' first
    | with_reducible assumption
    | (with_reducible first | apply KeepsOut.next | apply State.pathWrite_keeps)

theorem execSequenceTableWrite_keeps {s0 : State} {path : Path} {a : Nat} {w : Word} {s : State} (hK : Keeps s0 s) :
    KeepsOut s0 (execSequenceTableWrite path a w s) := by
  unfold execSequenceTableWrite
  repeat' first
    | with_reducible assumption
    | (with_reducible first | apply KeepsOut.next | apply State.pathWriteIn_keeps)

theorem execMfcSync_keeps {s0 : State} {path : Path} {chains : Nat} {s : State} (hK : Keeps s0 s) :
    KeepsOut s0 (execMfcSync path chains s) := by
  unfold execMfcSync
  repeat' first
    | with_reducible assumption
    | (with_reducible first | apply KeepsOut.next | apply State.pathField_keeps)

theorem execChainEnable_keeps {s0 : State} {path : Path} {c : Nat} {on : Bool} {s : State} (hK : Keeps s0 s) :
    KeepsOut s0 (execChainEnable path c on s) := by
  unfold execChainEnable
  repeat' first
    | with_reducible assumption
    | (with_reducible first | apply KeepsOut.next | apply State.pathFieldIn_keeps)

theorem execChainConfigWrite_keeps {s0 : State} {path : Path} {a : Nat} {w : Word} {s : State} (hK : Keeps s0 s) :
    KeepsOut s0 (execChainConfigWrite path a w s) := by
  unfold execChainConfigWrite
  repeat' first
    | with_reducible assumption
    | (with_reducible first | apply KeepsOut.next | apply State.pathWriteIn_keeps)

theorem execMfcCounterClear_keeps {s0 : State} {path : Path} {s : State} (hK : Keeps s0 s) :
    KeepsOut s0 (execMfcCounterClear path s) := by
  unfold execMfcCounterClear
  repeat' first
    | with_reducible assumption
    | (with_reducible first | apply KeepsOut.next | apply State.pathField_keeps)

theorem execEvrForce_keeps {s0 : State} {path : Path} {s : State} (hK : Keeps s0 s) : KeepsOut s0 (execEvrForce path s) := by
  unfold execEvrForce
  repeat' first
    | with_reducible assumption
    | (with_reducible first | apply KeepsOut.next | apply State.pathField_keeps)

theorem execEvrCounterClear_keeps {s0 : State} {path : Path} {s : State} (hK : Keeps s0 s) :
    KeepsOut s0 (execEvrCounterClear path s) := by
  unfold execEvrCounterClear
  repeat' first
    | with_reducible assumption
    | (with_reducible first | apply KeepsOut.next | apply State.pathField_keeps)

theorem execSegmentFree_keeps {s0 : State} {path : Path} {segs : Nat} {s : State} (hK : Keeps s0 s) :
    KeepsOut s0 (execSegmentFree path segs s) := by
  unfold execSegmentFree
  repeat' first
    | with_reducible assumption
    | (with_reducible first | apply KeepsOut.next | apply State.pathField_keeps)

theorem execMaskConfigWrite_keeps {s0 : State} {path : Path} {a : Nat} {w : Word} {s : State} (hK : Keeps s0 s) :
    KeepsOut s0 (execMaskConfigWrite path a w s) := by
  unfold execMaskConfigWrite
  repeat' first
    | with_reducible assumption
    | (with_reducible first | apply KeepsOut.next | apply State.pathWriteIn_keeps)

theorem execPortEnable_keeps {s0 : State} {path : Path} {port : Port} {s : State} (hK : Keeps s0 s) :
    KeepsOut s0 (execPortEnable path port s) := by
  unfold execPortEnable
  repeat' first
    | with_reducible assumption
    | (with_reducible first | apply KeepsOut.next | apply State.pathFieldIn_keeps)

theorem execPortDisable_keeps {s0 : State} {path : Path} {port : Port} {s : State} (hK : Keeps s0 s) :
    KeepsOut s0 (execPortDisable path port s) := by
  unfold execPortDisable
  repeat' first
    | with_reducible assumption
    | (with_reducible first | apply KeepsOut.next | apply State.pathFieldIn_keeps)

theorem execPortModeWrite_keeps {s0 : State} {path : Path} {port : Port} {mode : Nat} {s : State} (hK : Keeps s0 s) :
    KeepsOut s0 (execPortModeWrite path port mode s) := by
  unfold execPortModeWrite
  repeat' first
    | with_reducible assumption
    | (with_reducible first | apply KeepsOut.next | apply State.pathFieldIn_keeps)

theorem execPortSettingsWrite_keeps {s0 : State} {path : Path} {port : Port} {k : Nat} {w : Word} {s : State} (hK : Keeps s0 s)
    :
    KeepsOut s0 (execPortSettingsWrite path port k w s) := by
  unfold execPortSettingsWrite
  repeat' first
    | with_reducible assumption
    | (with_reducible first | apply KeepsOut.next | apply State.pathWrite_keeps)
    | split

theorem execCbsWrite_keeps {s0 : State} {path : Path} {port : Port} {w : Word} {s : State} (hK : Keeps s0 s) :
    KeepsOut s0 (execCbsWrite path port w s) := by
  unfold execCbsWrite
  repeat' first
    | with_reducible assumption
    | (with_reducible first | apply KeepsOut.next | apply State.pathWriteIn_keeps)

theorem execPortCounterClear_keeps {s0 : State} {path : Path} {port : Port} {s : State} (hK : Keeps s0 s) :
    KeepsOut s0 (execPortCounterClear path port s) := by
  unfold execPortCounterClear
  repeat' first
    | with_reducible assumption
    | (with_reducible first | apply KeepsOut.next | apply State.pathFieldIn_keeps)

theorem execStreamCounterClear_keeps {s0 : State} {path : Path} {s : State} (hK : Keeps s0 s) :
    KeepsOut s0 (execStreamCounterClear path s) := by
  unfold execStreamCounterClear
  repeat' first
    | with_reducible assumption
    | (with_reducible first | apply KeepsOut.next | apply State.pathFieldIn_keeps)

theorem execTimCounterClear_keeps {s0 : State} {path : Path} {s : State} (hK : Keeps s0 s) :
    KeepsOut s0 (execTimCounterClear path s) := by
  unfold execTimCounterClear
  repeat' first
    | with_reducible assumption
    | (with_reducible first | apply KeepsOut.next | apply State.pathField_keeps)

theorem execTimedOutputEnable_keeps {s0 : State} {path : Path} {k : Nat} {w : Word} {s : State} (hK : Keeps s0 s) :
    KeepsOut s0 (execTimedOutputEnable path k w s) := by
  unfold execTimedOutputEnable
  repeat' first
    | with_reducible assumption
    | (with_reducible first | apply KeepsOut.next | apply State.pathWriteIn_keeps)

theorem execLinkEnableWrite_keeps {s0 : State} {path : Path} {l : Nat} {on : Bool} {s : State} (hK : Keeps s0 s) :
    KeepsOut s0 (execLinkEnableWrite path l on s) := by
  unfold execLinkEnableWrite
  repeat' first
    | with_reducible assumption
    | (with_reducible first | apply KeepsOut.next | apply State.pathFieldIn_keeps)

theorem execLinkErrorInject_keeps {s0 : State} {path : Path} {l : Nat} {lanes : Nat} {s : State} (hK : Keeps s0 s) :
    KeepsOut s0 (execLinkErrorInject path l lanes s) := by
  unfold execLinkErrorInject
  repeat' first
    | with_reducible assumption
    | (with_reducible first | apply KeepsOut.next | apply State.pathFieldIn_keeps)

theorem execWflCounterClear_keeps {s0 : State} {path : Path} {l : Nat} {s : State} (hK : Keeps s0 s) :
    KeepsOut s0 (execWflCounterClear path l s) := by
  unfold execWflCounterClear
  repeat' first
    | with_reducible assumption
    | (with_reducible first | apply KeepsOut.next | apply State.pathFieldIn_keeps)

theorem execHngCounterClear_keeps {s0 : State} {path : Path} {s : State} (hK : Keeps s0 s) :
    KeepsOut s0 (execHngCounterClear path s) := by
  unfold execHngCounterClear
  repeat' first
    | with_reducible assumption
    | (with_reducible first | apply KeepsOut.next | apply State.pathField_keeps)

theorem execTapEnable_keeps {s0 : State} {path : Path} {on : Bool} {s : State} (hK : Keeps s0 s) :
    KeepsOut s0 (execTapEnable path on s) := by
  unfold execTapEnable
  repeat' first
    | with_reducible assumption
    | (with_reducible first | apply KeepsOut.next | apply State.pathField_keeps)

theorem execDmaChannelEnable_keeps {s0 : State} {path : Path} {c : Nat} {s : State} (hK : Keeps s0 s) :
    KeepsOut s0 (execDmaChannelEnable path c s) := by
  unfold execDmaChannelEnable
  repeat' first
    | with_reducible assumption
    | (with_reducible first | apply KeepsOut.next | apply State.pathFieldIn_keeps)

theorem execDmaChannelDisable_keeps {s0 : State} {path : Path} {c : Nat} {s : State} (hK : Keeps s0 s) :
    KeepsOut s0 (execDmaChannelDisable path c s) := by
  unfold execDmaChannelDisable
  repeat' first
    | with_reducible assumption
    | (with_reducible first | apply KeepsOut.next | apply State.pathFieldIn_keeps)

theorem execDmaConfigWrite_keeps {s0 : State} {path : Path} {c : Nat} {k : Nat} {w : Word} {s : State} (hK : Keeps s0 s) :
    KeepsOut s0 (execDmaConfigWrite path c k w s) := by
  unfold execDmaConfigWrite
  repeat' first
    | with_reducible assumption
    | (with_reducible first | apply KeepsOut.next | apply State.pathWrite_keeps)
    | split

theorem execFlushMon_keeps {s0 : State} {path : Path} {s : State} (hK : Keeps s0 s) : KeepsOut s0 (execFlushMon path s) := by
  unfold execFlushMon
  repeat' first
    | with_reducible assumption
    | (with_reducible first | apply KeepsOut.next | apply State.pathField_keeps)

theorem execFlushQfilt_keeps {s0 : State} {path : Path} {s : State} (hK : Keeps s0 s) : KeepsOut s0 (execFlushQfilt path s) := by
  unfold execFlushQfilt
  repeat' first
    | with_reducible assumption
    | (with_reducible first | apply KeepsOut.next | apply State.pathField_keeps)

theorem execDmaCounterClear_keeps {s0 : State} {path : Path} {s : State} (hK : Keeps s0 s) :
    KeepsOut s0 (execDmaCounterClear path s) := by
  unfold execDmaCounterClear
  repeat' first
    | with_reducible assumption
    | (with_reducible first | apply KeepsOut.next | apply State.pathField_keeps)

theorem execQfiltEnable_keeps {s0 : State} {path : Path} {on : Bool} {s : State} (hK : Keeps s0 s) :
    KeepsOut s0 (execQfiltEnable path on s) := by
  unfold execQfiltEnable
  repeat' first
    | with_reducible assumption
    | (with_reducible first | apply KeepsOut.next | apply State.pathField_keeps)

theorem execCalCounterClear_keeps {s0 : State} {path : Path} {s : State} (hK : Keeps s0 s) :
    KeepsOut s0 (execCalCounterClear path s) := by
  unfold execCalCounterClear
  repeat' first
    | with_reducible assumption
    | (with_reducible first | apply KeepsOut.next | apply State.pathField_keeps)

theorem execThmCounterClear_keeps {s0 : State} {path : Path} {s : State} (hK : Keeps s0 s) :
    KeepsOut s0 (execThmCounterClear path s) := by
  unfold execThmCounterClear
  repeat' first
    | with_reducible assumption
    | (with_reducible first | apply KeepsOut.next | apply State.pathField_keeps)

theorem execBootNextWrite_keeps {s0 : State} {path : Path} {slot : Nat} {s : State} (hK : Keeps s0 s) :
    KeepsOut s0 (execBootNextWrite path slot s) := by
  unfold execBootNextWrite
  repeat' first
    | with_reducible assumption
    | (with_reducible first | apply KeepsOut.next | apply State.pathField_keeps)

theorem execExposureWeightWrite_keeps {s0 : State} {path : Path} {j : Nat} {w : Word} {s : State} (hK : Keeps s0 s) :
    KeepsOut s0 (execExposureWeightWrite path j w s) := by
  unfold execExposureWeightWrite
  repeat' first
    | with_reducible assumption
    | (with_reducible first | apply KeepsOut.next | apply State.pathWriteIn_keeps)

theorem execPd00Write_keeps {s0 : State} {path : Path} {a : Nat} {w : Word} {s : State} (hK : Keeps s0 s) :
    KeepsOut s0 (execPd00Write path a w s) := by
  unfold execPd00Write
  repeat' first
    | with_reducible assumption
    | (with_reducible first | apply KeepsOut.next | apply KeepsOut.ite | apply State.pathWrite_keeps | apply Keeps.ite)

end Sys2Proof.Machine
end

