-- ==== Sys2Proof/Laws/KeepsCommand.lean ====
section
/-! SUPPORT. Every operation and meaning of Machine/Command.lean keeps the queue, the canonical forms and the order of time. -/

namespace Sys2Proof.Machine

open Reg

theorem execGetIdentity_keeps {s0 : State} {q : Req} {p : List Byte} {s : State} (hK : Keeps s0 s) :
    KeepsOut s0 (execGetIdentity q p s) := by
  unfold execGetIdentity
  repeat' first
    | with_reducible assumption
    | (with_reducible first | apply KeepsOut.next | apply State.fixed_keeps | apply State.replyOk_keeps | intro _ _ _ | intro _ _)

theorem execGetState_keeps {s0 : State} {q : Req} {p : List Byte} {s : State} (hK : Keeps s0 s) :
    KeepsOut s0 (execGetState q p s) := by
  unfold execGetState
  repeat' first
    | with_reducible assumption
    | (with_reducible first | apply KeepsOut.next | apply State.fixed_keeps | apply State.replyOk_keeps | intro _ _ _ | intro _ _)

theorem State.openSession_keeps {s0 : State} {s : State} {q : Req} (hK : Keeps s0 s) : Keeps s0 (s.openSession q) := by
  unfold State.openSession
  repeat' first
    | with_reducible assumption
    | (with_reducible first | apply State.setSession_keeps | apply State.replyOk_keeps | apply State.drawn_keeps)

theorem execAuthSession_keeps {s0 : State} {q : Req} {p : List Byte} {s : State} (hK : Keeps s0 s) :
    KeepsOut s0 (execAuthSession q p s) := by
  unfold execAuthSession
  repeat' first
    | with_reducible assumption
    | (with_reducible first
        | apply KeepsOut.next | apply State.fixed_keeps | apply State.openSession_keeps | intro _ _ _ | intro _ _)

theorem execEventMask_keeps {s0 : State} {q : Req} {p : List Byte} {s : State} (hK : Keeps s0 s) :
    KeepsOut s0 (execEventMask q p s) := by
  unfold execEventMask
  repeat' first
    | with_reducible assumption
    | (with_reducible first
        | apply KeepsOut.next | apply KeepsOut.ite | apply State.fixed_keeps | apply State.replyOk_keeps | apply State.setF_keeps
        | apply Keeps.ite | intro _ _ _ | intro _ _)
    | simp -zeta only [Keeps.upd]
    | split

theorem State.faultLeave_keeps {s0 : State} {s : State} {q : Req} (hK : Keeps s0 s) : Keeps s0 (s.faultLeave q) := by
  unfold State.faultLeave
  repeat' first
    | with_reducible assumption
    | (with_reducible first | apply State.reply_keeps | apply State.unlatch_keeps | apply State.goto_keeps)

theorem State.faultMarch_keeps {s0 : State} {s : State} {q : Req} {failed : Nat} (hK : Keeps s0 s) :
    Keeps s0 (s.faultMarch q failed) := by
  unfold State.faultMarch
  repeat' first
    | with_reducible assumption
    | (with_reducible first
        | apply Keeps.forEach | apply State.quarterTested_keeps | apply State.reply_keeps | apply State.faultLeave_keeps
        | apply State.setF_keeps | apply Keeps.ite | intro _ _ _ | intro _ _)

theorem execFaultClear_keeps {s0 : State} {q : Req} {p : List Byte} {failed : Nat} {s : State} (hK : Keeps s0 s) :
    KeepsOut s0 (execFaultClear q p failed s) := by
  unfold execFaultClear
  repeat' first
    | with_reducible assumption
    | (with_reducible first
        | apply KeepsOut.next | apply KeepsOut.ite | apply State.fixed_keeps | apply State.reply_keeps
        | apply State.faultLeave_keeps | apply State.faultMarch_keeps | apply Keeps.ite | intro _ _ _ | intro _ _)

theorem execRegRead_keeps {s0 : State} {q : Req} {p : List Byte} {s : State} (hK : Keeps s0 s) :
    KeepsOut s0 (execRegRead q p s) := by
  unfold execRegRead
  repeat' first
    | with_reducible assumption
    | (with_reducible first
        | apply KeepsOut.next | apply State.fixed_keeps | apply State.readWords_keeps
        | apply State.readWords_keepsE (by assumption) | apply State.replyOk_keeps | intro _ _ _ | intro _ _)
    | split

theorem State.writeAll_keeps {s0 s : State} {l : List (Nat × Word × Word)} (h : Keeps s0 s) : Keeps s0 (s.writeAll l).2 := by
  induction l generalizing s with
  | nil => exact h
  | cons x l ih =>
    have k := State.hostWrite_keeps (a := x.1) (w := x.2.1) (mask := x.2.2) h
    unfold State.writeAll
    split
    · exact h
    · exact h
    · rename_i e; rw [e] at k; exact ih k

theorem State.writeTest_keeps {s0 : State} {s : State} {l : List (Nat × Word × Word)} (hK : Keeps s0 s) :
    Keeps s0 (s.writeTest l).2 := by
  unfold State.writeTest
  repeat' first
    | with_reducible assumption
    | (with_reducible first | apply State.hostWrite_keeps | apply State.writeAll_keeps | apply Keeps.ite)
    | split

theorem State.writeTest_keepsE {s0 : State} {s : State} {l : List (Nat × Word × Word)} {rK} {tK : State} (eK : s.writeTest l =
    (rK, tK)) (hK : Keeps s0 s) : Keeps s0 tK := by
  have qK : Keeps s0 (s.writeTest l).2 := State.writeTest_keeps hK
  rw [eK] at qK; exact qK

theorem State.writeRegs_keeps {s0 : State} {s : State} {q : Req} {opc : Nat} {l : List (Nat × Word × Word)} {data
    : State → List Byte} (hK : Keeps s0 s) :
    Keeps s0 (s.writeRegs q opc l data) := by
  unfold State.writeRegs
  repeat' first
    | with_reducible assumption
    | (with_reducible first
        | apply State.reply_keeps | apply State.writeTest_keeps | apply State.writeTest_keepsE (by assumption)
        | apply State.setF_keeps | apply State.replyOk_keeps | apply Keeps.ite)
    | split

theorem execRegWrite_keeps {s0 : State} {q : Req} {p : List Byte} {s : State} (hK : Keeps s0 s) :
    KeepsOut s0 (execRegWrite q p s) := by
  unfold execRegWrite
  repeat' first
    | with_reducible assumption
    | (with_reducible first
        | apply KeepsOut.next | apply KeepsOut.ite | apply State.command_keeps | apply State.badLength_keeps
        | apply State.reply_keeps | apply State.writeRegs_keeps | apply Keeps.ite | intro _ _ _ | intro _ _)
    | split

theorem execRegModify_keeps {s0 : State} {q : Req} {p : List Byte} {s : State} (hK : Keeps s0 s) :
    KeepsOut s0 (execRegModify q p s) := by
  unfold execRegModify
  repeat' first
    | with_reducible assumption
    | (with_reducible first
        | apply KeepsOut.next | apply State.fixed_keeps | apply State.writeRegs_keeps | intro _ _ _ | intro _ _)

theorem execMemRead_keeps {s0 : State} {q : Req} {p : List Byte} {s : State} (hK : Keeps s0 s) :
    KeepsOut s0 (execMemRead q p s) := by
  unfold execMemRead
  repeat' first
    | with_reducible assumption
    | (with_reducible first
        | apply KeepsOut.next | apply State.fixed_keeps | apply State.remoteRead_keeps | apply State.winRead_keeps
        | apply State.winRead_keepsE (by assumption) | apply State.replyOk_keeps | intro _ _ _ | intro _ _)
    | split

theorem execMemWrite_keeps {s0 : State} {q : Req} {p : List Byte} {s : State} (hK : Keeps s0 s) :
    KeepsOut s0 (execMemWrite q p s) := by
  unfold execMemWrite
  repeat' first
    | with_reducible assumption
    | (with_reducible first
        | apply KeepsOut.next | apply KeepsOut.ite | apply State.command_keeps | apply State.badLength_keeps
        | apply State.reply_keeps | apply State.winWrite_keeps | apply Keeps.ite | intro _ _ _ | intro _ _)
    | split

theorem State.dumpCapture_keeps {s0 : State} {s : State} {q : Req} (hK : Keeps s0 s) : Keeps s0 (s.dumpCapture q) := by
  unfold State.dumpCapture
  repeat' first
    | with_reducible assumption
    | (with_reducible first | apply State.reply_keeps | apply State.addJob_keeps | apply Keeps.ite)
    | simp -zeta only [Keeps.upd]

theorem State.dumpRead_keeps {s0 : State} {s : State} {q : Req} {p : List Byte} (hK : Keeps s0 s) : Keeps s0 (s.dumpRead q p) := by
  unfold State.dumpRead
  repeat' first
    | with_reducible assumption
    | (with_reducible first | apply State.reply_keeps | apply State.replyOk_keeps)
    | split

theorem State.stateDump_keeps {s0 : State} {s : State} {q : Req} {p : List Byte} (hK : Keeps s0 s) : Keeps s0 (s.stateDump q p) := by
  unfold State.stateDump
  repeat' first
    | with_reducible assumption
    | (with_reducible first
        | apply State.command_keeps | apply State.badLength_keeps | apply State.badParam_keeps | apply State.dumpCapture_keeps
        | apply State.dumpRead_keeps | apply Keeps.ite | intro _ _ _ | intro _ _)

theorem execStateDumpCapture_keeps {s0 : State} {q : Req} {p : List Byte} {s : State} (hK : Keeps s0 s) :
    KeepsOut s0 (execStateDumpCapture q p s) := by
  unfold execStateDumpCapture
  repeat' first
    | with_reducible assumption
    | (with_reducible first | apply KeepsOut.next | apply State.stateDump_keeps)

theorem execStateDumpRead_keeps {s0 : State} {q : Req} {p : List Byte} {s : State} (hK : Keeps s0 s) :
    KeepsOut s0 (execStateDumpRead q p s) := by
  unfold execStateDumpRead
  repeat' first
    | with_reducible assumption
    | (with_reducible first | apply KeepsOut.next | apply State.stateDump_keeps)

theorem execStateDumpCaptureDone_keeps {s0 : State} {s : State} (hK : Keeps s0 s) : KeepsOut s0 (execStateDumpCaptureDone s) := by
  unfold execStateDumpCaptureDone
  repeat' first
    | with_reducible assumption
    | extract_lets +onlyGivenNames x
      first
      | have hx : Keeps s0 x := by
          dsimp -zeta only [x]
          repeat' first
            | with_reducible assumption
            | (with_reducible first
                | apply KeepsOut.next | apply KeepsOut.ite | apply State.drawn_keeps | apply State.finishJobs_keeps
                | apply Keeps.ite)
            | simp -zeta only [Keeps.upd]
        clear_value x
      | clear_value x
    | (with_reducible first
        | apply KeepsOut.next | apply KeepsOut.ite | apply State.drawn_keeps | apply State.finishJobs_keeps | apply Keeps.ite)
    | simp -zeta only [Keeps.upd]

theorem State.sayMiso_keeps {s0 : State} {s : State} {s0b : State} {data : List Byte} (hK : Keeps s0 s) :
    Keeps s0 (s.sayMiso s0b data) := by
  unfold State.sayMiso
  repeat' first | with_reducible assumption | simp -zeta only [Keeps.upd]

theorem State.rxDiscard_keeps {s0 : State} {s : State} (hK : Keeps s0 s) : Keeps s0 (s.rxDiscard) := by
  unfold State.rxDiscard
  repeat' first
    | with_reducible assumption
    | (with_reducible first | apply State.addSat_keeps | apply Keeps.foldl | apply Keeps.ite | intro _ _ _ | intro _ _)
    | simp -zeta only [Keeps.upd]

theorem State.rxTake_keeps {s0 : State} {s : State} {b : List Byte} (hK : Keeps s0 s) : Keeps s0 (s.rxTake b) := by
  unfold State.rxTake
  repeat' first
    | with_reducible assumption
    | (with_reducible first | apply State.rxDrain_keeps | apply Keeps.ite)
    | simp -zeta only [Keeps.upd]

theorem execCmdWrite_keeps {s0 : State} {bytes : List Byte} {midByte : Bool} {s : State} (hK : Keeps s0 s) :
    KeepsOut s0 (execCmdWrite bytes midByte s) := by
  unfold execCmdWrite
  repeat' first
    | with_reducible assumption
    | (with_reducible first
        | apply KeepsOut.next | apply KeepsOut.ite | apply State.sayMiso_keeps | apply State.setF_keeps
        | apply State.rxDiscard_keeps | apply State.rxTake_keeps | apply Keeps.ite)
    | split

theorem execReplyRead_keeps {s0 : State} {complete : Bool} {s : State} (hK : Keeps s0 s) :
    KeepsOut s0 (execReplyRead complete s) := by
  unfold execReplyRead
  repeat' first
    | with_reducible assumption
    | (with_reducible first | apply KeepsOut.next | apply KeepsOut.ite | apply State.sayMiso_keeps | apply Keeps.ite)
    | simp -zeta only [Keeps.upd]
    | split

theorem execAlertRead_keeps {s0 : State} {complete : Bool} {s : State} (hK : Keeps s0 s) :
    KeepsOut s0 (execAlertRead complete s) := by
  unfold execAlertRead
  repeat' first
    | with_reducible assumption
    | (with_reducible first | apply KeepsOut.next | apply KeepsOut.ite | apply State.sayMiso_keeps | apply Keeps.ite)
    | simp -zeta only [Keeps.upd]
    | split

theorem execNoticeRead_keeps {s0 : State} {complete : Bool} {s : State} (hK : Keeps s0 s) :
    KeepsOut s0 (execNoticeRead complete s) := by
  unfold execNoticeRead
  repeat' first
    | with_reducible assumption
    | (with_reducible first | apply KeepsOut.next | apply KeepsOut.ite | apply State.sayMiso_keeps | apply Keeps.ite)
    | simp -zeta only [Keeps.upd]
    | split

theorem execRegRd_keeps {s0 : State} {a : Nat} {s : State} (hK : Keeps s0 s) : KeepsOut s0 (execRegRd a s) := by
  unfold execRegRd
  repeat' first
    | with_reducible assumption
    | (with_reducible first
        | apply KeepsOut.next | apply KeepsOut.ite | apply State.sayMiso_keeps | apply State.readWord_keeps
        | apply State.readWord_keepsE (by assumption) | apply Keeps.ite)
    | split

theorem execRegWr_keeps {s0 : State} {a : Nat} {w : Word} {s : State} (hK : Keeps s0 s) : KeepsOut s0 (execRegWr a w s) := by
  unfold execRegWr
  repeat' first
    | with_reducible assumption
    | (with_reducible first
        | apply KeepsOut.next | apply KeepsOut.ite | apply State.sayMiso_keeps | apply State.pathWrite_keeps | apply Keeps.ite)

theorem execHspiStatusRead_keeps {s0 : State} {s : State} (hK : Keeps s0 s) : KeepsOut s0 (execHspiStatusRead s) := by
  unfold execHspiStatusRead
  repeat' first
    | with_reducible assumption
    | (with_reducible first | apply KeepsOut.next | apply KeepsOut.ite | apply State.sayMiso_keeps | apply Keeps.ite)

end Sys2Proof.Machine
end

