-- ==== Sys2Proof/Laws/KeepsFrame.lean ====
section
/-! SUPPORT. Every operation and meaning of Machine/Frame.lean keeps the queue, the canonical forms and the order of time. -/

namespace Sys2Proof.Machine

open Reg

theorem State.lastColumn_keeps {s0 : State} {s : State} {o : OutCol} (hK : Keeps s0 s) : Keeps s0 (s.lastColumn o) := by
  unfold State.lastColumn
  repeat' first
    | with_reducible assumption
    | (with_reducible first | apply State.setF_keeps | apply State.wr_keeps | apply State.addWrap_keeps)

theorem State.frameOut_keeps {s0 : State} {s : State} (hK : Keeps s0 s) : Keeps s0 (s.frameOut) := by
  unfold State.frameOut
  repeat' first
    | with_reducible assumption
    | (with_reducible first | apply State.closeMsg_keeps | apply State.allocMoment_keeps | apply Keeps.ite)

theorem execColumnOutputComplete_keeps {s0 : State} {s : State} (hK : Keeps s0 s) : KeepsOut s0 (execColumnOutputComplete s) := by
  unfold execColumnOutputComplete
  repeat' first
    | with_reducible assumption
    | (with_reducible first
        | apply KeepsOut.next | apply KeepsOut.ite | apply State.lastColumn_keeps | apply State.packColumn_keeps
        | apply State.forwardColumn_keeps | apply State.frameOut_keeps | apply Keeps.ite)
    | simp -zeta only [Keeps.upd]
    | split

theorem State.startGap_keeps {s0 : State} {s : State} (hK : Keeps s0 s) : Keeps s0 (s.startGap) := by
  unfold State.startGap
  repeat' first
    | with_reducible assumption
    | extract_lets +onlyGivenNames x
      first
      | have hx : Keeps s0 x := by
          dsimp -zeta only [x]
          repeat' first
            | with_reducible assumption
            | (with_reducible first
                | apply State.calFrameGap_keeps | apply State.sendWarp_keeps | apply State.sendFrame_keeps | apply Keeps.ite)
            | simp -zeta only [Keeps.upd]
            | split
        clear_value x
      | clear_value x
    | (with_reducible first
        | apply State.calFrameGap_keeps | apply State.sendWarp_keeps | apply State.sendFrame_keeps | apply Keeps.ite)
    | simp -zeta only [Keeps.upd]
    | split

theorem execFrameEnd_keeps {s0 : State} {s : State} (hK : Keeps s0 s) : KeepsOut s0 (execFrameEnd s) := by
  unfold execFrameEnd
  repeat' first
    | with_reducible assumption
    | (with_reducible first
        | apply KeepsOut.next | apply KeepsOut.ite | apply State.toTbs_keeps | apply State.setF_keeps | apply State.endFrame_keeps
        | apply State.closeMsg_keeps | apply State.allocMoment_keeps | apply State.startGap_keeps | apply Keeps.ite)
    | split

end Sys2Proof.Machine
end

