-- ==== Sys2Proof/WellFormed.lean ====
section
/-! DEFINITION. Which commands the outside world can send: the operand ranges that the spec's packet, register and pin layouts give.

A check here says that an operand fits the field, the pin or the unit that carries it. What a well-formed command does with a value that
a rule refuses is said by its meaning, not here. -/

namespace Sys2Proof

/-- An address fits its IP version. -/
def Ip.wf (x : Ip) : Bool := if x.v6 then decide (x.addr < 2 ^ 128) else decide (x.addr < 2 ^ 32)

/-- A sender's address and the UDP ports fit their header fields (R355). -/
def Via.wf : Via → Bool
  | .hspi => true
  | .udp _ src sport dport => src.wf && decide (sport < 65536) && decide (dport < 65536)

/-- The header fields of a request fit the packet header (R34). -/
def Req.wf (q : Req) : Bool :=
  q.via.wf && decide (q.tag < 65536) && decide (q.key < 4) && decide (q.ctr < 2 ^ 32) && decide (q.ver < 256)

/-- An access path exists: HSPI, the command processor, or one of the sixteen DMA channels (R73). -/
def Path.wf : Path → Bool
  | .hspi => true
  | .cmd => true
  | .dma c => decide (c < 16)

/-- A payload fits LENGTH (R34). -/
def packetFits (p : List Byte) : Bool := decide (p.length ≤ 8192)

/-- A converter result fits a signed 16-bit word (R251). -/
def code16 (r : Int) : Bool := decide (-32768 ≤ r) && decide (r ≤ 32767)

/-- A frame's addresses, tags and PRP trailer fit their fields (R346, R363). -/
def Frame.wf (f : Frame) : Bool :=
  decide (f.dst < 2 ^ 48) && decide (f.src < 2 ^ 48) && f.tags.all (fun t => decide (t.1 < 4096) && decide (t.2 < 8))
    && (match f.prp with | none => true | some (lan, seq) => decide (lan < 16) && decide (seq < 65536))

/-- A command is well formed: each operand fits what carries it. -/
def Instr.wf : Instr → Bool
  | .commandPacketArrival via _ => via.wf
  | .getIdentity q p => q.wf && packetFits p
  | .getState q p => q.wf && packetFits p
  | .stateDumpCapture q p => q.wf && packetFits p
  | .stateDumpCaptureDone => true
  | .stateDumpRead q p => q.wf && packetFits p
  | .authSession q p => q.wf && packetFits p
  | .softReset q p => q.wf && packetFits p
  | .faultClear q p failed => q.wf && packetFits p && decide (failed < 16)
  | .eventMask q p => q.wf && packetFits p
  | .regRead q p => q.wf && packetFits p
  | .regWrite q p => q.wf && packetFits p
  | .regModify q p => q.wf && packetFits p
  | .memRead q p => q.wf && packetFits p
  | .memWrite q p => q.wf && packetFits p
  | .warpCommit q p => q.wf && packetFits p
  | .deferredWarpCopy => true
  | .profileSelect q p => q.wf && packetFits p
  | .deferredProfileApply => true
  | .scanStart q p => q.wf && packetFits p
  | .scanHold q p => q.wf && packetFits p
  | .holdEntry => true
  | .scanResume q p => q.wf && packetFits p
  | .scanStop q p => q.wf && packetFits p
  | .frameSchedule q p => q.wf && packetFits p
  | .keySet q p => q.wf && packetFits p
  | .calRun q p => q.wf && packetFits p
  | .calProcedureStep _ => true
  | .calProcedureEnd _ => true
  | .calStatus q p => q.wf && packetFits p
  | .calAcceptStale q p => q.wf && packetFits p
  | .safetyStatus q p => q.wf && packetFits p
  | .deadboltClear q p => q.wf && packetFits p
  | .exposureLimits q p => q.wf && packetFits p
  | .safetySelfTest q p => q.wf && packetFits p
  | .safetySelfTestDone failed => decide (failed < 2 ^ 32)
  | .zoneCommit q p => q.wf && packetFits p
  | .deferredZoneCopy => true
  | .safeCommand q p => q.wf && packetFits p
  | .safeCommandUnpaired => true
  | .recArm q p => q.wf && packetFits p
  | .recDisarm q p => q.wf && packetFits p
  | .recTrigger q p => q.wf && packetFits p
  | .recStatus q p => q.wf && packetFits p
  | .recRead q p => q.wf && packetFits p
  | .timeRead q p => q.wf && packetFits p
  | .timeSetValue q p => q.wf && packetFits p
  | .timeSetStep q p => q.wf && packetFits p
  | .timeSetFrequency q p => q.wf && packetFits p
  | .ptpConfig q p => q.wf && packetFits p
  | .asymSet q p => q.wf && packetFits p
  | .txtsRead q p => q.wf && packetFits p
  | .launchConfig q p => q.wf && packetFits p
  | .linkStatus q p => q.wf && packetFits p
  | .linkTrain q p => q.wf && packetFits p
  | .linkRelease q p => q.wf && packetFits p
  | .cascadeConfig q p => q.wf && packetFits p
  | .linkTestPrbs q p => q.wf && packetFits p
  | .linkTestMargin q p => q.wf && packetFits p
  | .linkTestDone l _ => decide (l < 4)
  | .pwrDomainOn q p => q.wf && packetFits p
  | .pwrDomainOff q p => q.wf && packetFits p
  | .domainSwitchOnDone => true
  | .domainSwitchOffDone => true
  | .thermalStatus q p => q.wf && packetFits p
  | .ackThermalEvent q p => q.wf && packetFits p
  | .nvlogRead q p => q.wf && packetFits p
  | .thermalLimits q p => q.wf && packetFits p
  | .imageInfo q p => q.wf && packetFits p
  | .flashRead q p => q.wf && packetFits p
  | .flashErase q p => q.wf && packetFits p
  | .flashWrite q p => q.wf && packetFits p
  | .flashOperationDone => true
  | .imageVerify q p => q.wf && packetFits p
  | .imageVerifyDone _ => true
  | .imageSelect q p => q.wf && packetFits p
  | .cmdWrite _ _ => true
  | .replyRead _ => true
  | .alertRead _ => true
  | .noticeRead _ => true
  | .regRd a => decide (a < 2 ^ 32)
  | .regWr a _ => decide (a < 2 ^ 32)
  | .hspiStatusRead => true
  | .registerWrite path a _ => path.wf && decide (a < 2 ^ 32)
  | .rsLowWordRead path a => path.wf && decide (a < 2 ^ 32)
  | .rsHighWordRead path a => path.wf && decide (a < 2 ^ 32)
  | .glbBehaviourWrite path level => path.wf && decide (level < 16)
  | .hostTrip path => path.wf
  | .tdcCounterClear path quarters => path.wf && decide (quarters < 16)
  | .frefMissClear path => path.wf
  | .tpiGo path => path.wf
  | .tpiPeriodicTrigger => true
  | .testPulseInjection => true
  | .tmbCounterClear path quarters => path.wf && decide (quarters < 16)
  | .firCounterClear path => path.wf
  | .hgeCounterClear path quarters => path.wf && decide (quarters < 16)
  | .hgeWaitClear path => path.wf
  | .hgeBinWrite path _ => path.wf
  | .extCounterClear path => path.wf
  | .extAirWrite path nm1 => path.wf && decide (nm1 < 2 ^ 24)
  | .alcCounterClear path => path.wf
  | .srvCounterClear path => path.wf
  | .loopModeWrite path x _ => path.wf && decide (x < 6)
  | .loopManWrite path x _ => path.wf && decide (x < 6)
  | .loopOpenRegisterWrite path a _ => path.wf && decide (a < 2 ^ 32)
  | .trajectorySwapRequest path x => path.wf && decide (x < 6)
  | .trajectoryWrite path m b e _ => path.wf && decide (m < 2) && decide (b < 2) && decide (e < 1024)
  | .tuneEnWrite path _ => path.wf
  | .traceArm path => path.wf
  | .traceStop path => path.wf
  | .traceForce path => path.wf
  | .traceDone => true
  | .madGo path => path.wf
  | .seqEnWrite path _ => path.wf
  | .madCounterClear path => path.wf
  | .refEnWrite path _ => path.wf
  | .injGo path _ => path.wf
  | .sequenceTableWrite path a _ => path.wf && decide (a < 2 ^ 32)
  | .mfcSync path chains => path.wf && decide (chains < 256)
  | .chainEnable path c _ => path.wf && decide (c < 8)
  | .chainConfigWrite path a _ => path.wf && decide (a < 2 ^ 32)
  | .mfcCounterClear path => path.wf
  | .evrForce path => path.wf
  | .evrCounterClear path => path.wf
  | .segmentFree path segs => path.wf && decide (segs < 256)
  | .maskConfigWrite path a _ => path.wf && decide (a < 2 ^ 32)
  | .portEnable path _ => path.wf
  | .portDisable path _ => path.wf
  | .portModeWrite path _ mode => path.wf && decide (mode < 8)
  | .portSettingsWrite path _ k _ => path.wf && decide (k < 13)
  | .cbsWrite path _ _ => path.wf
  | .portCounterClear path _ => path.wf
  | .streamCounterClear path => path.wf
  | .timCounterClear path => path.wf
  | .timedOutputEnable path k _ => path.wf && decide (k < 4)
  | .linkEnableWrite path l _ => path.wf && decide (l < 4)
  | .linkErrorInject path l lanes => path.wf && decide (l < 4) && decide (lanes < 16)
  | .wflCounterClear path l => path.wf && decide (l < 4)
  | .hngCounterClear path => path.wf
  | .tapEnable path _ => path.wf
  | .dmaChannelEnable path c => path.wf && decide (c < 16)
  | .dmaChannelDisable path c => path.wf && decide (c < 16)
  | .dmaConfigWrite path c k _ => path.wf && decide (c < 16) && decide (k < 9)
  | .flushMon path => path.wf
  | .flushQfilt path => path.wf
  | .dmaCounterClear path => path.wf
  | .qfiltEnable path _ => path.wf
  | .calCounterClear path => path.wf
  | .thmCounterClear path => path.wf
  | .bootNextWrite path slot => path.wf && decide (slot < 2)
  | .exposureWeightWrite path j _ => path.wf && decide (j < 4)
  | .pd00Write path a _ => path.wf && decide (a < 2 ^ 32)
  | .vinValid _ => true
  | .vinLoss => true
  | .porstLow => true
  | .porstRise => true
  | .resetLow => true
  | .resetRise => true
  | .fuseRead hgId => decide (hgId < 8)
  | .clockLock _ => true
  | .sfdpRead _ _ => true
  | .slotCheck _ => true
  | .fuseProgramming => true
  | .bootPower => true
  | .mbist _ => true
  | .lbist _ => true
  | .configApply => true
  | .pllLockLoss _ _ _ _ => true
  | .pllLockRegain _ _ _ => true
  | .pllLockTimeout => true
  | .dllUnlock q => decide (q < 4)
  | .extestLoad => true
  | .returnLeadingEdge n _ tap => decide (n < 512) && decide (tap < 64)
  | .returnTrailingEdge n _ tap _ _ => decide (n < 512) && decide (tap < 64)
  | .totSaturation n _ _ => decide (n < 512)
  | .rgndFault g _ => decide (g < 128)
  | .frefEdge k _ tap tot => decide (k < 4) && decide (tap < 64) && decide (tot < 4096)
  | .frefWindowClose k => decide (k < 4)
  | .tumblerEventEntry n => decide (n < 512)
  | .coincidenceDecision p => decide (p < 512)
  | .candidateExpiry p => decide (p < 512)
  | .darkGateEnd => true
  | .freeRunGate => true
  | .frameStartEvent => true
  | .scheduleSlot => true
  | .frameStart => true
  | .columnStart _ => true
  | .shotFire => true
  | .columnClose => true
  | .frameEnd => true
  | .allocation => true
  | .eventBinning q _ => decide (q < 128)
  | .zoomPlacement => true
  | .extractionScan => true
  | .extractionEnd => true
  | .columnOutputComplete => true
  | .histogramClear => true
  | .servoTick r0 r1 r2 r3 => code16 r0 && code16 r1 && code16 r2 && code16 r3
  | .loopSample x => decide (x < 6)
  | .loopTrip x => decide (x < 6)
  | .mirrorWindowExit => true
  | .mirrorWindowEntry => true
  | .servoStopRampDone => true
  | .encoderEdge _ _ => true
  | .qeiRisingEdge => true
  | .referenceReady => true
  | .guardConversion vres vmid => code16 vres && code16 vmid
  | .guardGap => true
  | .sequenceConversion r0 r1 r2 r3 => code16 r0 && code16 r1 && code16 r2 && code16 r3
  | .injectedConversionDone r => code16 r
  | .sequencerTrigger => true
  | .madTimerExpiry => true
  | .filterInput => true
  | .recorderItem => true
  | .recorderPreReached => true
  | .recorderTrigger => true
  | .captureEnd => true
  | .segmentRestart => true
  | .lossEpisodeClose _ => true
  | .maskSampleTest => true
  | .hgTrigEdge _ => true
  | .permitChange _ _ => true
  | .permitDiscrepancy => true
  | .coverChange _ => true
  | .hgFaultFall => true
  | .autoClear code => decide (code < 16)
  | .switchWalkStart => true
  | .walkStepEnd => true
  | .walkGuardTimeout => true
  | .reservoirCharged => true
  | .reservoirChargeTimeout => true
  | .exposureSubinterval w => decide (w < 3)
  | .watchdogExpiry => true
  | .lockstepMismatch => true
  | .zoneEvaluation _ => true
  | .safeReportPeriodic => true
  | .linkUp _ _ => true
  | .linkDown _ => true
  | .frameReceive _ fr => fr.wf
  | .lldpduReceive _ fr => fr.wf
  | .neighbourExpiry _ e => decide (e < 4)
  | .lldpTransmit _ => true
  | .prpSupervision => true
  | .dhcpLeaseTimer _ => true
  | .arpRetry _ => true
  | .arpEntryAgeOut _ => true
  | .duplicateAddressDetection _ _ _ => true
  | .streamMessageClose => true
  | .frameTransmit _ => true
  | .timedLaunch _ => true
  | .timeAnchor => true
  | .ptpSync _ _ => true
  | .ptpDelayMeasurement _ _ _ _ => true
  | .ptpAnnounce _ _ => true
  | .ptpMasterSend _ _ => true
  | .ptpMessageTimeout _ _ => true
  | .timeCrossCheck => true
  | .ppsInEdge _ => true
  | .ppsOutPulse => true
  | .timedOutputPulse k => decide (k < 4)
  | .terminationDetect l _ => decide (l < 4)
  | .linkTrainingDone l ctle => decide (l < 4) && decide (ctle.length = 4)
  | .blockLock l k _ _ _ => decide (l < 4) && decide (k < 4)
  | .alignReceive l _ skew => decide (l < 4) && decide (skew.length = 4)
  | .capxPairReceive l capx0 capx1 => decide (l < 4) && decide (capx0.length = 16) && decide (capx1.length = 16)
  | .capxSend l => decide (l < 4)
  | .linkBringupTimeout l => decide (l < 4)
  | .linkLockLoss l _ => decide (l < 4)
  | .idleFreeze l k => decide (l < 4) && decide (k < 4)
  | .keepaliveSend l => decide (l < 4)
  | .controlBlockReceive l block => decide (l < 4) && decide (block.length = 16)
  | .xoff l _ => decide (l < 4)
  | .warp l src dst hdr _ _ => decide (l < 4) && decide (src < 16) && decide (dst < 16) && decide (hdr.length = 8)
  | .frame l src dst hdr _ _ => decide (l < 4) && decide (src < 16) && decide (dst < 16) && decide (hdr.length = 8)
  | .status l src dst hdr _ _ => decide (l < 4) && decide (src < 16) && decide (dst < 16) && decide (hdr.length = 8)
  | .statusPeriodic => true
  | .memberUnreachable m => decide (m < 8)
  | .frameAckTimeout => true
  | .points l src dst hdr _ _ => decide (l < 4) && decide (src < 16) && decide (dst < 16) && decide (hdr.length = 8)
  | .readReq l src dst hdr _ _ => decide (l < 4) && decide (src < 16) && decide (dst < 16) && decide (hdr.length = 8)
  | .readRsp l src dst hdr _ _ => decide (l < 4) && decide (src < 16) && decide (dst < 16) && decide (hdr.length = 8)
  | .remoteReadTimeout => true
  | .timeReq _ l => decide (l < 4)
  | .timeRsp _ _ _ => true
  | .hingeCalibrationStart => true
  | .hcal l src dst hdr _ _ => decide (l < 4) && decide (src < 16) && decide (dst < 16) && decide (hdr.length = 8)
  | .hingeCalibrationEnd => true
  | .hgSyncEdge _ => true
  | .tapItemSend => true
  | .tapMark => true
  | .dmaTimerRequest c => decide (c < 16)
  | .dmaBurst => true
  | .tempSensorReading sensor _ => decide (sensor < 12)
  | .throttleStep => true
  | .nvlogWrite => true
  | .hgFaultRelease => true
  | .gpioEdge pin _ _ => decide (pin < 16)
  | .dllLockReturn q => decide (q < 4)
  | .rawtapActive l => decide (l < 4)
  | .zoneHoldExpiry => true
  | .ptpDelayRequest _ => true
  | .xoffHeldLong l => decide (l < 4)
  | .recorderMemoryCleared => true
  | .vauxCurrentLimit => true
  | .vinOvervoltage _ => true

end Sys2Proof
end

