-- ==== Sys2Proof/Tests/Slice0.lean ====
section
/-! SUPPORT. Tests: what WellFormed refuses, the spec's worked examples, and for every statement with hypotheses a state and operands
that meet them, clause by clause. -/

namespace Sys2Proof.Tests

set_option Elab.async false

open Sys2Proof Machine Machine.Reg

/-- A device whose boot has ended, in the state with the given code: every domain and time base on, every clock locked. -/
def up (code : Nat) : State :=
  { ((((State.reset.setF GLB_STATE GLB_STATE_STATE code).setF PMU_PD_STAT PMU_PD_STAT_ON 0xFFFFF).setF CLK_STAT CLK_STAT_T_LOCK 1).setF
      CLK_STAT CLK_STAT_H_LOCK 1).setF CLK_STAT CLK_STAT_C_LOCK 1 with tm := { tblStarted := true, tbsStarted := true } }

/-- The device in IDLE. -/
def idle : State := up 2

/-- The device in SCANNING. -/
def scan : State := up 4

/-- A request by HSPI, without authentication. -/
def hq : Req := { via := .hspi, tag := 42, key := 0, auth := false, ctr := 0 }

/-- A request by UDP from 192.0.2.1 to a UDP port. -/
def uq (dport : Nat) : Req := { via := .udp .A ⟨false, 0xC0000201⟩ 50000 dport, tag := 7, key := 0, auth := false, ctr := 0 }

/-- s with the command of request q waiting in its queue. -/
def askedBy (q : Req) (s : State) (opc : Nat) (p : List Byte) : State := { s with cmd := { s.cmd with queue := [⟨q, opc, p⟩] } }

/-- s with an HSPI command waiting in its queue. -/
def asked (s : State) (opc : Nat) (p : List Byte) : State := askedBy hq s opc p

/-- A column of four shots on segment 0, its coarse shots fired. -/
def col : Column :=
  { serial := 1, entry := 0, frame := 0, start := 0, period := 1, shots := 4, coarse := 2, interval := 1, segmask := 1, dspan := 0, pset := 0 }

/-! ### WellFormed -/

/-- A frame that fits its fields. -/
def okFrame : Frame := ⟨1, 2, [(5, 7)], 64, true, some (10, 65535), .other⟩

theorem test_ill_formed_address : Ip.wf ⟨false, 2 ^ 32⟩ = false ∧ Ip.wf ⟨true, 2 ^ 128⟩ = false := by decide +kernel

theorem test_ill_formed_transport : Via.wf (.udp .A ⟨false, 2 ^ 32⟩ 0 0) = false ∧ Via.wf (.udp .A ⟨false, 0⟩ 65536 0) = false ∧
    Via.wf (.udp .A ⟨false, 0⟩ 0 65536) = false := by decide +kernel

theorem test_ill_formed_request : Req.wf { hq with via := .udp .A ⟨false, 0⟩ 0 65536 } = false ∧ Req.wf { hq with tag := 65536 } = false ∧
    Req.wf { hq with key := 4 } = false ∧ Req.wf { hq with ctr := 2 ^ 32 } = false ∧ Req.wf { hq with ver := 256 } = false := by
  decide +kernel

theorem test_ill_formed_path : Path.wf (.dma 16) = false := by decide

theorem test_ill_formed_payload : packetFits (List.replicate 8193 0) = false := by
  simp only [packetFits, List.length_replicate]; decide

theorem test_ill_formed_result : code16 32768 = false ∧ code16 (-32769) = false := by decide

theorem test_ill_formed_frame : Frame.wf { okFrame with dst := 2 ^ 48 } = false ∧ Frame.wf { okFrame with src := 2 ^ 48 } = false ∧
    Frame.wf { okFrame with tags := [(4096, 0)] } = false ∧ Frame.wf { okFrame with tags := [(0, 8)] } = false ∧
    Frame.wf { okFrame with prp := some (16, 0) } = false ∧ Frame.wf { okFrame with prp := some (0, 65536) } = false := by decide +kernel

/-- What fits is well formed. -/
theorem test_well_formed : okFrame.wf = true ∧ hq.wf = true ∧ (uq 65535).wf = true ∧ Path.wf (.dma 15) = true ∧ code16 (-32768) = true ∧
    (Instr.regWr 0x34B00 5).wf = true ∧ (Instr.getState hq []).wf = true ∧ (Instr.points 3 15 15 (zeros 8) [] true).wf = true := by
  decide +kernel

/-- Every host request checks its request's header fields and its payload's length. -/
theorem test_ill_formed_requests (q : Req) (p : List Byte) :
    (otherRequests q p).map (·.1.wf) = List.replicate 43 (q.wf && packetFits p) ∧
    (bareRequests q p 16).map (·.1.wf) =
      List.replicate 4 (q.wf && packetFits p) ++ (q.wf && packetFits p && false) :: List.replicate 13 (q.wf && packetFits p) := ⟨rfl, rfl⟩

/-- Each command has one operand out of its range (1). -/
theorem test_ill_formed_commands_1 :
    ([
      .commandPacketArrival (.udp .A ⟨false, 2 ^ 32⟩ 0 0) [], .faultClear hq [] 16, .safetySelfTestDone (2 ^ 32), .linkTestDone 4 [], .regRd (2 ^ 32),
      .regWr (2 ^ 32) 0, .registerWrite (.dma 16) 0 0, .registerWrite .cmd (2 ^ 32) 0, .rsLowWordRead (.dma 16) 0, .rsLowWordRead .cmd (2 ^ 32),
      .rsHighWordRead (.dma 16) 0, .rsHighWordRead .cmd (2 ^ 32), .glbBehaviourWrite (.dma 16) 0, .glbBehaviourWrite .cmd 16, .hostTrip (.dma 16),
      .tdcCounterClear (.dma 16) 0, .tdcCounterClear .cmd 16, .frefMissClear (.dma 16), .tpiGo (.dma 16), .tmbCounterClear (.dma 16) 0,
      .tmbCounterClear .cmd 16, .firCounterClear (.dma 16), .hgeCounterClear (.dma 16) 0, .hgeCounterClear .cmd 16, .hgeWaitClear (.dma 16),
      .hgeBinWrite (.dma 16) 0, .extCounterClear (.dma 16), .extAirWrite (.dma 16) 0, .extAirWrite .cmd (2 ^ 24), .alcCounterClear (.dma 16),
      .srvCounterClear (.dma 16), .loopModeWrite (.dma 16) 0 false, .loopModeWrite .cmd 6 false, .loopManWrite (.dma 16) 0 0, .loopManWrite .cmd 6 0,
      .loopOpenRegisterWrite (.dma 16) 0 0, .loopOpenRegisterWrite .cmd (2 ^ 32) 0, .trajectorySwapRequest (.dma 16) 0, .trajectorySwapRequest .cmd 6, .trajectoryWrite (.dma 16) 0 0 0 0] : List Instr).all (fun i => !i.wf) = true := by decide +kernel

/-- Each command has one operand out of its range (2). -/
theorem test_ill_formed_commands_2 :
    ([
      .trajectoryWrite .cmd 2 0 0 0, .trajectoryWrite .cmd 0 2 0 0, .trajectoryWrite .cmd 0 0 1024 0, .tuneEnWrite (.dma 16) false, .traceArm (.dma 16),
      .traceStop (.dma 16), .traceForce (.dma 16), .madGo (.dma 16), .seqEnWrite (.dma 16) false, .madCounterClear (.dma 16),
      .refEnWrite (.dma 16) false, .injGo (.dma 16) 0, .sequenceTableWrite (.dma 16) 0 0, .sequenceTableWrite .cmd (2 ^ 32) 0, .mfcSync (.dma 16) 0,
      .mfcSync .cmd 256, .chainEnable (.dma 16) 0 false, .chainEnable .cmd 8 false, .chainConfigWrite (.dma 16) 0 0, .chainConfigWrite .cmd (2 ^ 32) 0,
      .mfcCounterClear (.dma 16), .evrForce (.dma 16), .evrCounterClear (.dma 16), .segmentFree (.dma 16) 0, .segmentFree .cmd 256,
      .maskConfigWrite (.dma 16) 0 0, .maskConfigWrite .cmd (2 ^ 32) 0, .portEnable (.dma 16) .A, .portDisable (.dma 16) .A, .portModeWrite (.dma 16) .A 0,
      .portModeWrite .cmd .A 8, .portSettingsWrite (.dma 16) .A 0 0, .portSettingsWrite .cmd .A 13 0, .cbsWrite (.dma 16) .A 0, .portCounterClear (.dma 16) .A,
      .streamCounterClear (.dma 16), .timCounterClear (.dma 16), .timedOutputEnable (.dma 16) 0 0, .timedOutputEnable .cmd 4 0, .linkEnableWrite (.dma 16) 0 false] : List Instr).all (fun i => !i.wf) = true := by decide +kernel

/-- Each command has one operand out of its range (3). -/
theorem test_ill_formed_commands_3 :
    ([
      .linkEnableWrite .cmd 4 false, .linkErrorInject (.dma 16) 0 0, .linkErrorInject .cmd 4 0, .linkErrorInject .cmd 0 16, .wflCounterClear (.dma 16) 0,
      .wflCounterClear .cmd 4, .hngCounterClear (.dma 16), .tapEnable (.dma 16) false, .dmaChannelEnable (.dma 16) 0, .dmaChannelEnable .cmd 16,
      .dmaChannelDisable (.dma 16) 0, .dmaChannelDisable .cmd 16, .dmaConfigWrite (.dma 16) 0 0 0, .dmaConfigWrite .cmd 16 0 0, .dmaConfigWrite .cmd 0 9 0,
      .flushMon (.dma 16), .flushQfilt (.dma 16), .dmaCounterClear (.dma 16), .qfiltEnable (.dma 16) false, .calCounterClear (.dma 16),
      .thmCounterClear (.dma 16), .bootNextWrite (.dma 16) 0, .bootNextWrite .cmd 2, .exposureWeightWrite (.dma 16) 0 0, .exposureWeightWrite .cmd 4 0,
      .pd00Write (.dma 16) 0 0, .pd00Write .cmd (2 ^ 32) 0, .fuseRead 8, .dllUnlock 4, .returnLeadingEdge 512 0 0,
      .returnLeadingEdge 0 0 64, .returnTrailingEdge 512 0 0 0 false, .returnTrailingEdge 0 0 64 0 false, .totSaturation 512 0 false, .rgndFault 128 false,
      .frefEdge 4 0 0 0, .frefEdge 0 0 64 0, .frefEdge 0 0 0 4096, .frefWindowClose 4, .tumblerEventEntry 512] : List Instr).all (fun i => !i.wf) = true := by decide +kernel

/-- Each command has one operand out of its range (4). -/
theorem test_ill_formed_commands_4 :
    ([
      .coincidenceDecision 512, .candidateExpiry 512, .eventBinning 128 0, .servoTick 32768 0 0 0, .servoTick 0 32768 0 0,
      .servoTick 0 0 32768 0, .servoTick 0 0 0 32768, .loopSample 6, .loopTrip 6, .guardConversion 32768 0,
      .guardConversion 0 32768, .sequenceConversion 32768 0 0 0, .sequenceConversion 0 32768 0 0, .sequenceConversion 0 0 32768 0, .sequenceConversion 0 0 0 32768,
      .injectedConversionDone 32768, .autoClear 16, .exposureSubinterval 3, .frameReceive .A { okFrame with dst := 2 ^ 48 }, .lldpduReceive .A { okFrame with dst := 2 ^ 48 },
      .neighbourExpiry .A 4, .timedOutputPulse 4, .terminationDetect 4 false, .linkTrainingDone 4 [0, 0, 0, 0], .linkTrainingDone 0 [],
      .blockLock 4 0 false 0 0, .blockLock 0 4 false 0 0, .alignReceive 4 0 [0, 0, 0, 0], .alignReceive 0 0 [], .capxPairReceive 4 (zeros 16) (zeros 16),
      .capxPairReceive 0 [] (zeros 16), .capxPairReceive 0 (zeros 16) [], .capxSend 4, .linkBringupTimeout 4, .linkLockLoss 4 false,
      .idleFreeze 4 0, .idleFreeze 0 4, .keepaliveSend 4, .controlBlockReceive 4 (zeros 16), .controlBlockReceive 0 []] : List Instr).all (fun i => !i.wf) = true := by decide +kernel

/-- Each command has one operand out of its range (5). -/
theorem test_ill_formed_commands_5 :
    ([
      .xoff 4 0, .warp 4 0 0 (zeros 8) [] false, .warp 0 16 0 (zeros 8) [] false, .warp 0 0 16 (zeros 8) [] false, .warp 0 0 0 [] [] false,
      .frame 4 0 0 (zeros 8) [] false, .frame 0 16 0 (zeros 8) [] false, .frame 0 0 16 (zeros 8) [] false, .frame 0 0 0 [] [] false, .status 4 0 0 (zeros 8) [] false,
      .status 0 16 0 (zeros 8) [] false, .status 0 0 16 (zeros 8) [] false, .status 0 0 0 [] [] false, .memberUnreachable 8, .points 4 0 0 (zeros 8) [] false,
      .points 0 16 0 (zeros 8) [] false, .points 0 0 16 (zeros 8) [] false, .points 0 0 0 [] [] false, .readReq 4 0 0 (zeros 8) [] false, .readReq 0 16 0 (zeros 8) [] false,
      .readReq 0 0 16 (zeros 8) [] false, .readReq 0 0 0 [] [] false, .readRsp 4 0 0 (zeros 8) [] false, .readRsp 0 16 0 (zeros 8) [] false, .readRsp 0 0 16 (zeros 8) [] false,
      .readRsp 0 0 0 [] [] false, .timeReq false 4, .hcal 4 0 0 (zeros 8) [] false, .hcal 0 16 0 (zeros 8) [] false, .hcal 0 0 16 (zeros 8) [] false,
      .hcal 0 0 0 [] [] false, .dmaTimerRequest 16, .tempSensorReading 12 0, .gpioEdge 16 false 0, .dllLockReturn 4,
      .rawtapActive 4, .xoffHeldLong 4] : List Instr).all (fun i => !i.wf) = true := by decide +kernel

/-! ### The spec's worked examples and tables -/

/-- R66 row 3 and the card of GLB_STATE: BOOT, from OFF, after a reset. -/
theorem test_reset_state : State.reset.rd GLB_STATE = 0x00010001 ∧ State.reset.dev = .boot ∧ State.reset.pending = [] := by decide +kernel

/-- The card of TDC_FREF_CD: word j resets to 0x0E0A_0602 + 0x1010_1010 × j. -/
theorem test_fref_cd_reset : resetWord (TDC_FREF_CD 0) = 0x0E0A0602 ∧ resetWord (TDC_FREF_CD 3) = 0x3E3A3632 := by decide +kernel

/-- The check value of CRC-32C over the bytes "123456789" (R15). -/
theorem test_crc32c : crc32c [0x31, 0x32, 0x33, 0x34, 0x35, 0x36, 0x37, 0x38, 0x39] = 0xE3069283 := by decide +kernel

/-- 20_address_map.md, the three addresses of channel 300. -/
theorem test_addresses : RFE_CFG 300 = 0x34B00 ∧ RFE_THR 300 = 0x34B04 ∧ cardAt 0x34B28 = none ∧ blkOf 0x34B28 = some .RFE ∧
    blkOf 0x63580 = some .HGE ∧ blkOf 0x00120000 = none := by decide +kernel

/-- The same: HSPI REG_RD of an unmapped address gives result 0x02. -/
theorem test_reg_rd_unmapped : exec (.regRd 0x00120000) idle = .next (idle.sayMiso idle [0xA5, 0, 0, 0, 0, 2]) := rfl

/-- The same: REG_READ of it is answered with BAD_PARAM, DETAIL 16. -/
theorem test_reg_read_unmapped :
    (match exec (.regRead hq (leBytes 4 0x00120000 ++ leBytes 4 1)) (asked idle 0x0200 (leBytes 4 0x00120000 ++ leBytes 4 1)) with
      | .next t => t.cmd.replies.map (fun r => (r.status, r.detail))
      | _ => []) = [(6, 16)] := by decide +kernel

/-- 02_commands_and_state.md, the state query on HSPI: the 16 bytes received. -/
def query : List Byte := [0x44, 0x52, 1, 0, 1, 1, 0x2A, 0, 0, 0, 0, 0, 0, 0, 0, 0]

/-- They enter the queue as GET_STATE with tag 0x002A. -/
theorem test_query_queued :
    (match exec (.commandPacketArrival .hspi query) idle with
      | .next t => t.cmd.queue.map (fun x => (x.opc, x.req.tag, x.payload))
      | _ => []) = [(0x0101, 42, [])] := by decide +kernel

/-- Its reply opens with the header, the status word and GLB_STATE of the example. -/
theorem test_query_reply :
    (match exec (.getState hq []) (asked (idle.wr GLB_STATE 0x05210304) 0x0101 []) with
      | .next t => t.cmd.replies.map (fun r => r.bytes.take 24)
      | _ => []) = [[0x44, 0x52, 1, 0, 1, 0x81, 0x2A, 0, 0x14, 0, 0, 0, 0, 0, 0, 0, 0, 0, 0, 0, 4, 3, 0x21, 5]] := by decide +kernel

/-- 03_return_inputs_and_timing.md, step 7: the event word of channel 37. -/
theorem test_event_word : eventWord { chan := 37, time := 6400043125, tot := 300 } = 0x128960017D78E875 := by decide +kernel

/-- The same, step 5: the walk of ToT 300 with w[4] = 96, w[5] = 80 and WALK_SHIFT 6. -/
theorem test_walk :
    ((idle.setF TDC_CTRL TDC_CTRL_WALK_EN 1).setF TDC_CTRL TDC_CTRL_WALK_SHIFT 6).walk (fun j => if j = 2 then 0x00500060 else 0) 300 = 21 := by
  decide +kernel

/-- 08_profiles_and_shot_budget.md: the counts before the ceiling, of which column 5's is then halved. -/
theorem test_allocation : [16, 38, 138, 16, 66, 171].map (fun w => allocCount 2 8 36 6 445 w 7) = [1, 3, 8, 1, 4, 8] := by decide +kernel

/-- R66 row 6 and R490: SOFT_RESET answers OK and takes the device to BOOT with cause 0x03. -/
theorem test_soft_reset :
    (match exec (.softReset hq []) (asked scan 0x0104 []) with
      | .next t => (t.dev, t.f GLB_STATE GLB_STATE_CAUSE, t.f GLB_STATE GLB_STATE_PREV)
      | _ => (.off, 0, 0)) = (.boot, 0x03, 4) := by decide +kernel

/-- R304: a host trip latches cause 14. -/
theorem test_host_trip :
    (match exec (.hostTrip .cmd) { idle with esf := { armed := true } } with
      | .next t => (t.latched 14, t.latched 13, t.pin.ehs, t.pin.els)
      | _ => (false, false, true, true)) = (true, false, false, false) := by decide +kernel

/-- A step runs the command in front and leaves the rest of the queue. -/
theorem test_step_order :
    (match step { idle with pending := [.vinOvervoltage 41000, .porstLow] } with
      | .next t => (t.pending, t.pin.vinMv)
      | _ => ([], 0)) = ([.porstLow], 41000) := by decide +kernel

/-- No word of the table spells a command. -/
theorem test_no_words : decodeTableWord 32 0xFFFFFFFF = none ∧ State.reset.withFetchWord 32 7 = State.reset := by decide +kernel

/-! ### A state and operands that meet the hypotheses of each statement, clause by clause -/

/-- A packet of GET_STATE-like layout under AUTH, LENGTH 0, CTR 1, with its trailer for an empty key and nonce 0. -/
def sealed : List Byte :=
  let core := leBytes 2 0x5244 ++ [1, 1] ++ leBytes 2 0x0101 ++ leBytes 2 42 ++ zeros 4 ++ leBytes 4 1
  core ++ (hmacSha256 [] (zeros 8 ++ core)).take 16

/-- The device in IDLE with a session on HSPI, nonce 0. -/
def keyed : State := { idle with cmd := { sessHspi := some { nonce := 0 }, keyValid := 1 } }

/-- A Warp entry of four shots, two of them coarse, on segment 0. -/
def entry : List Byte := leBytes 4 4 ++ leBytes 4 (2 ^ 16 + 500) ++ leBytes 4 (60000 * 2 ^ 16 + 2 * 2 ^ 8) ++ zeros 4

/-- A device with that entry staged. -/
def stagedIn (code : Nat) : State := ((up code).setBytes 0x01000000 entry).setF FIR_WARP_CTRL FIR_WARP_CTRL_COLUMNS 1

/-- A device in SCANNING with that entry active and its frame open. -/
def warped : State := { ((up 4).setBytes warpActive entry).setF FIR_WARP_ACT FIR_WARP_ACT_COLUMNS 1 with fir := { frameOpen := true } }

/-- A device in IDLE with a zone staged that has no cells. -/
def badZone : State := idle.setBytes 0x02000000 (leBytes 4 (2 ^ 31))

/-- A SAFE_COMMAND payload: SAFETY_ADDRESS 0, counter 1, ACTION 1, its CRC. -/
def safePay : List Byte :=
  let b := zeros 4 ++ leBytes 4 1 ++ leBytes 2 1 ++ zeros 18
  b ++ leBytes 4 (crcSafe b)

/-- A REC_ARM payload: events of channel 0, one segment, POST 1. -/
def armPay : List Byte := leBytes 4 1 ++ zeros 4 ++ leBytes 4 1 ++ zeros 12 ++ leBytes 4 1 ++ zeros 60

/-- A device in IDLE whose NV log holds a shutdown record, not acknowledged. -/
def logged : State := idle.nvStore (idle.nvBody nvShutdown 2 0 0)

/-- A device in IDLE with input 511 in COUNT mode. -/
def live511 : State := idle.setF (RFE_CFG 511) RFE_CFG_MODE 1

/-- A device in PRIMED that no condition keeps from scanning. -/
def clear : State :=
  { ((up 3).setF ESF_IN ESF_IN_PTEST 2).setF SRV_WIN_STAT SRV_WIN_STAT_IN 1 with
    pin := { permitA := true, permitB := true, coverN := false }, esf := { guard := some (0, 0, 0) } }

/-- The least LLDPDU. -/
def lldpMin : Lldp := ⟨[], [], 120, [], ⟨false, 1⟩, [], none⟩

/-- A device at the end of a Hinge calibration whose pulses all came 100 ticks late. -/
def calibrated : State :=
  { idle.setF HNG_LAT HNG_LAT_LAT 2000 with
    cas := { hcalTimes := List.replicate 32 1000, hcalSync := List.replicate 16 1100, hcalTrig := List.replicate 16 1100 } }

/-- An image header with one section, of 321 bytes or more. -/
def header (typ len : Nat) (data : List Byte) : List Byte :=
  let h := leBytes 4 0x4D494452 ++ leBytes 2 1 ++ leBytes 2 320 ++ leBytes 4 (320 + len) ++ [1, 0, 1, 0] ++ zeros 8 ++ leBytes 4 3 ++ zeros 20
    ++ leBytes 2 typ ++ zeros 2 ++ leBytes 4 320 ++ leBytes 4 len ++ leBytes 4 (crc32c data) ++ zeros 252
  h ++ leBytes 4 (crc32c h) ++ data

/-- A device in BOOT at the check of slot 0, which holds an image of one firmware byte. -/
def imaged : State :=
  { State.reset.setF GLB_BOOT GLB_BOOT_STAGE 4 with
    boot := { flashSize := 65536, flash := ((List.range 321).zip (header 1 1 [7])).filter (·.2 != 0xFF) } }

/-- An image with a fuse section. -/
def fuseImage : List Byte := header 0xF0 72 (zeros 72)

/-- The hypotheses of Obligations.IdentityStateSessionAndMaskRequests can be met. -/
theorem witness_IdentityStateSessionAndMaskRequests :
    (∃ (s : State), ∃ (t : State), ∃ (q : Req), ∃ (p : List Byte), runs s q 0x0100 p t ∧ p = []) ∧
    (∃ (s : State), ∃ (t : State), ∃ (q : Req), ∃ (p : List Byte), runs s q 0x0101 p t ∧ p = []) ∧
    (∃ (s : State), ∃ (t : State), ∃ (q : Req), ∃ (p : List Byte), runs s q 0x0103 p t ∧ p = []) ∧
    (∃ (s : State), ∃ (t : State), ∃ (q : Req), ∃ (p : List Byte), runs s q 0x0106 p t ∧ p.length = 8 ∧ fld p 16 4 < 1024 ∧ fld p 20 1 ≤ 2 ∧
      (fld p 20 1 = 1 → q.via ≠ .hspi) ∧ allZero (fldBytes p 21 3) = true) :=
  ⟨⟨asked (idle) 0x0100 ([]), _, hq, [], ⟨by decide +kernel, rfl, by decide +kernel, by decide +kernel⟩, by decide +kernel⟩,
    ⟨asked (idle) 0x0101 ([]), _, hq, [], ⟨by decide +kernel, rfl, by decide +kernel, by decide +kernel⟩, by decide +kernel⟩,
    ⟨asked (idle) 0x0103 ([]), _, hq, [], ⟨by decide +kernel, rfl, by decide +kernel, by decide +kernel⟩, by decide +kernel⟩,
    ⟨asked (idle) 0x0106 (leBytes 4 1023 ++ leBytes 1 2 ++ zeros 3), _, hq, leBytes 4 1023 ++ leBytes 1 2 ++ zeros 3, ⟨by decide +kernel, rfl,
      by decide +kernel, by decide +kernel⟩, by decide +kernel, by decide +kernel, by decide +kernel, by decide +kernel, by decide +kernel⟩⟩

/-- The hypotheses of Obligations.FaultClearAndSoftReset can be met. -/
theorem witness_FaultClearAndSoftReset :
    (∃ (s : State), ∃ (t : State), ∃ (q : Req), runs s q 0x0104 [] t) ∧
    (∃ (s : State), ∃ (t : State), ∃ (q : Req), runs s q 0x0105 [] t ∧ t.dev = .fault ∧ t.f GLB_STATE GLB_STATE_CAUSE = 0x22) ∧
    (∃ (s : State), ∃ (t : State), ∃ (q : Req), runs s q 0x0105 [] t ∧ t.dev = .fault ∧ t.f GLB_STATE GLB_STATE_CAUSE = 0x63 ∧ t.pllT = true ∧
      t.pllC = true) ∧
    (∃ (s : State), ∃ (t : State), ∃ (q : Req), runs s q 0x0105 [] t ∧ t.dev = .fault ∧ t.f GLB_STATE GLB_STATE_CAUSE = 0x63 ∧
      (t.pllT && t.pllC) = false) ∧
    (∃ (s : State), ∃ (t : State), ∃ (q : Req), ∃ (failed : Nat), runs s q 0x0105 [] t ∧ t.dev = .fault ∧
      t.f GLB_STATE GLB_STATE_CAUSE = 0x62 ∧ t.mmQuarters.any (bit failed) = false) ∧
    (∃ (s : State), ∃ (t : State), ∃ (q : Req), ∃ (failed : Nat), runs s q 0x0105 [] t ∧ t.dev = .fault ∧
      t.f GLB_STATE GLB_STATE_CAUSE = 0x62 ∧ t.mmQuarters.any (bit failed) = true) ∧
    (∃ (s : State), ∃ (t : State), ∃ (q : Req), runs s q 0x0105 [] t ∧ t.dev = .fault ∧
      (t.f GLB_STATE GLB_STATE_CAUSE = 0x60 ∨ t.f GLB_STATE GLB_STATE_CAUSE = 0x61)) ∧
    (∃ (s : State), ∃ (t : State), ∃ (q : Req), runs s q 0x0105 [] t ∧ t.dev ≠ .fault) :=
  ⟨⟨asked (idle) 0x0104 ([]), _, hq, ⟨by decide +kernel, rfl, by decide +kernel, by decide +kernel⟩⟩,
    ⟨asked ((up 15).setF GLB_STATE GLB_STATE_CAUSE 0x22) 0x0105 ([]), _, hq, ⟨by decide +kernel, rfl, by decide +kernel, by decide +kernel⟩,
      by decide +kernel, by decide +kernel⟩,
    ⟨asked ((up 15).setF GLB_STATE GLB_STATE_CAUSE 0x63) 0x0105 ([]), _, hq, ⟨by decide +kernel, rfl, by decide +kernel, by decide +kernel⟩,
      by decide +kernel, by decide +kernel, by decide +kernel, by decide +kernel⟩,
    ⟨asked (((up 15).setF GLB_STATE GLB_STATE_CAUSE 0x63).setF CLK_STAT CLK_STAT_C_LOCK 0) 0x0105 ([]), _, hq, ⟨by decide +kernel, rfl,
      by decide +kernel, by decide +kernel⟩, by decide +kernel, by decide +kernel, by decide +kernel⟩,
    ⟨asked (((up 15).setF GLB_STATE GLB_STATE_CAUSE 0x62).setF HGE_STATUS HGE_STATUS_MM_FAULT 8) 0x0105 ([]), _, hq, 0, ⟨by decide +kernel,
      rfl, by decide +kernel, by decide +kernel⟩, by decide +kernel, by decide +kernel, by decide +kernel⟩,
    ⟨asked (((up 15).setF GLB_STATE GLB_STATE_CAUSE 0x62).setF HGE_STATUS HGE_STATUS_MM_FAULT 8) 0x0105 ([]), _, hq, 8, ⟨by decide +kernel,
      rfl, by decide +kernel, by decide +kernel⟩, by decide +kernel, by decide +kernel, by decide +kernel⟩,
    ⟨asked ((up 15).setF GLB_STATE GLB_STATE_CAUSE 0x61) 0x0105 ([]), _, hq, ⟨by decide +kernel, rfl, by decide +kernel, by decide +kernel⟩,
      by decide +kernel, by decide +kernel⟩,
    ⟨asked (idle) 0x0105 ([]), _, hq, ⟨by decide +kernel, rfl, by decide +kernel, by decide +kernel⟩, by decide +kernel⟩⟩

/-- The hypotheses of Obligations.RegisterWindowAndDumpRequests can be met. -/
theorem witness_RegisterWindowAndDumpRequests :
    (∃ (s : State), ∃ (t : State), ∃ (q : Req), ∃ (p : List Byte), runs s q 0x0200 p t ∧ p.length = 8 ∧
      firstBad (regChecks (fld p 16 4) (fld p 20 4)) = none) ∧
    (∃ (s : State), ∃ (t : State), ∃ (q : Req), ∃ (p : List Byte), ∃ l, ∃ u, l = (List.range (fld p 20 4)).map (fun i => (fld p 16 4 + 4 * i,
      BitVec.ofNat 32 (fld p (24 + 4 * i) 4), BitVec.ofNat 32 0xFFFFFFFF)) ∧ runs s q 0x0201 p t ∧ p.length = 8 + 4 * fld p 20 4 ∧
      firstBad (regChecks (fld p 16 4) (fld p 20 4)) = none ∧ l.any (fun x => t.regDark x.1) = false ∧ t.writeTest l = (.done, u)) ∧
    (∃ (s : State), ∃ (t : State), ∃ (q : Req), ∃ (p : List Byte), ∃ u, runs s q 0x0202 p t ∧ p.length = 12 ∧
      firstBad (regChecks (fld p 16 4) 1) = none ∧ t.regDark (fld p 16 4) = false ∧ t.writeTest [(fld p 16 4, BitVec.ofNat 32 (fld p 24 4),
      BitVec.ofNat 32 (fld p 20 4))] = (.done, u)) ∧
    (∃ (s : State), ∃ (t : State), ∃ (q : Req), ∃ (p : List Byte), runs s q 0x0203 p t ∧ p.length = 8 ∧
      firstBad (t.memReadChecks (fld p 16 4) (fld p 20 4)) = none ∧ (∀ m, winOf (fld p 16 4) ≠ some (.remote m))) ∧
    (∃ (s : State), ∃ (t : State), ∃ (q : Req), ∃ (p : List Byte), ∃ m, runs s q 0x0203 p t ∧ p.length = 8 ∧
      firstBad (t.memReadChecks (fld p 16 4) (fld p 20 4)) = none ∧ winOf (fld p 16 4) = some (.remote m)) ∧
    (∃ (s : State), ∃ (t : State), ∃ (q : Req), ∃ (p : List Byte), runs s q 0x0204 p t ∧ 8 ≤ p.length ∧ p.length ≤ 8068 ∧ p.length % 4 = 0 ∧
      firstBad (spanChecks (fld p 16 4) (p.length - 4) 20 ++ t.writeChecks (fld p 16 4) (p.length - 4)) = none) ∧
    (∃ (s : State), ∃ (t : State), ∃ (q : Req), ∃ (p : List Byte), runs s q 0x0102 p t ∧ p.length = 4 ∧ fld p 16 1 = 0 ∧
      allZero (fldBytes p 17 3) = true ∧ t.jobOf 0x0102 = false) ∧
    (∃ (s : State), ∃ (t : State), ∃ (q : Req), ∃ (p : List Byte), ∃ d, runs s q 0x0102 p t ∧ p.length = 16 ∧ fld p 16 1 = 1 ∧
      allZero (fldBytes p 17 3) = true ∧ t.cmd.dump = some d ∧ fld p 20 4 = t.cmd.dumpId ∧ fld p 24 4 % 4 = 0 ∧ 1 ≤ fld p 28 4 ∧
      fld p 28 4 ≤ 8064 ∧ fld p 24 4 + fld p 28 4 ≤ d.length) ∧
    (∃ (s : State), s.jobOf 0x0102 = true) :=
  ⟨⟨asked (idle) 0x0200 (leBytes 4 0x10 ++ leBytes 4 1), _, hq, leBytes 4 0x10 ++ leBytes 4 1, ⟨by decide +kernel, rfl, by decide +kernel,
      by decide +kernel⟩, by decide +kernel, by decide +kernel⟩,
    ⟨asked (idle) 0x0201 (leBytes 4 0x34B00 ++ leBytes 4 1 ++ leBytes 4 5), _, hq, leBytes 4 0x34B00 ++ leBytes 4 1 ++ leBytes 4 5, _, _, rfl,
      ⟨by decide +kernel, rfl, by decide +kernel, by decide +kernel⟩, by decide +kernel, by decide +kernel, by decide +kernel, rfl⟩,
    ⟨asked (idle) 0x0202 (leBytes 4 0x34B00 ++ leBytes 4 5 ++ leBytes 4 7), _, hq, leBytes 4 0x34B00 ++ leBytes 4 5 ++ leBytes 4 7, _,
      ⟨by decide +kernel, rfl, by decide +kernel, by decide +kernel⟩, by decide +kernel, by decide +kernel, by decide +kernel, rfl⟩,
    ⟨asked (idle) 0x0203 (leBytes 4 0x01000000 ++ leBytes 4 4), _, hq, leBytes 4 0x01000000 ++ leBytes 4 4, ⟨by decide +kernel, rfl,
      by decide +kernel, by decide +kernel⟩, by decide +kernel, by decide +kernel, by intro m h; cases h⟩,
    ⟨asked ((up 2).setF HNG_CAS_CFG HNG_CAS_CFG_ROLE 1 |>.setF HNG_CAS_STAT HNG_CAS_STAT_REACH 2 |>.setF HNG_CAS_CFG HNG_CAS_CFG_MEMBERS 2) 0x0203 (leBytes 4 0x42000000 ++ leBytes 4 4),
      _, hq, leBytes 4 0x42000000 ++ leBytes 4 4, 1, ⟨by decide +kernel, rfl, by decide +kernel, by decide +kernel⟩, by decide +kernel,
      by decide +kernel, by decide +kernel⟩,
    ⟨asked (idle) 0x0204 (leBytes 4 0x01000000 ++ zeros 4), _, hq, leBytes 4 0x01000000 ++ zeros 4, ⟨by decide +kernel, rfl,
      by decide +kernel, by decide +kernel⟩, by decide +kernel, by decide +kernel, by decide +kernel, by decide +kernel⟩,
    ⟨asked (idle) 0x0102 (zeros 4), _, hq, zeros 4, ⟨by decide +kernel, rfl, by decide +kernel, by decide +kernel⟩, by decide +kernel,
      by decide +kernel, by decide +kernel, by decide +kernel⟩,
    ⟨asked ({ idle with cmd := { dump := some (zeros 4) } }) 0x0102 (leBytes 4 1 ++ leBytes 4 0 ++ leBytes 4 0 ++ leBytes 4 4), _, hq,
      leBytes 4 1 ++ leBytes 4 0 ++ leBytes 4 0 ++ leBytes 4 4, zeros 4, ⟨by decide +kernel, rfl, by decide +kernel, by decide +kernel⟩,
      by decide +kernel, by decide +kernel, by decide +kernel, by decide +kernel, by decide +kernel, by decide +kernel, by decide +kernel,
      by decide +kernel, by decide +kernel⟩,
    ⟨{ idle with cmd := { jobs := [{ req := hq, opc := 0x0102 }] } }, by decide +kernel⟩⟩

/-- The hypotheses of Obligations.PacketAcceptanceSteps can be met. -/
theorem witness_PacketAcceptanceSteps :
    (∃ (s : State), ∃ (via : Via), ∃ (pkt : List Byte), runsCommands s.dev = true ∧ (s.boot.recovery = true → via = .hspi) ∧
      leAt pkt 0 2 ≠ 0x5244) ∧
    (∃ (s : State), ∃ (via : Via), ∃ (pkt : List Byte), runsCommands s.dev = true ∧ (s.boot.recovery = true → via = .hspi) ∧
      leAt pkt 0 2 = 0x5244 ∧ leAt pkt 2 1 ≠ 1) ∧
    (∃ (s : State), ∃ (via : Via), ∃ (pkt : List Byte), runsCommands s.dev = true ∧ (s.boot.recovery = true → via = .hspi) ∧
      leAt pkt 0 2 = 0x5244 ∧ leAt pkt 2 1 = 1 ∧ leAt pkt 3 1 % 2 = 0 ∧ leAt pkt 12 4 ≠ 0) ∧
    (∃ (s : State), ∃ (via : Via), ∃ (pkt : List Byte), runsCommands s.dev = true ∧ (s.boot.recovery = true → via = .hspi) ∧
      leAt pkt 0 2 = 0x5244 ∧ leAt pkt 2 1 = 1 ∧ leAt pkt 3 1 % 2 = 0 ∧ leAt pkt 12 4 = 0 ∧
      (8192 < leAt pkt 8 4 ∨ pkt.length ≠ 16 + leAt pkt 8 4)) ∧
    (∃ (s : State), ∃ (via : Via), ∃ (pkt : List Byte), runsCommands s.dev = true ∧ (s.boot.recovery = true → via = .hspi) ∧
      leAt pkt 0 2 = 0x5244 ∧ leAt pkt 2 1 = 1 ∧ leAt pkt 3 1 % 2 = 0 ∧ leAt pkt 12 4 = 0 ∧ leAt pkt 8 4 ≤ 8192 ∧
      pkt.length = 16 + leAt pkt 8 4 ∧ s.authRequired via = true ∧ leAt pkt 4 2 ∉ [0x0100, 0x0101, 0x0103]) ∧
    (∃ (s : State), ∃ (via : Via), ∃ (pkt : List Byte), runsCommands s.dev = true ∧ (s.boot.recovery = true → via = .hspi) ∧
      leAt pkt 0 2 = 0x5244 ∧ leAt pkt 2 1 = 1 ∧ leAt pkt 3 1 % 2 = 0 ∧ leAt pkt 12 4 = 0 ∧ leAt pkt 8 4 ≤ 8192 ∧
      pkt.length = 16 + leAt pkt 8 4 ∧ (s.authRequired via = false ∨ leAt pkt 4 2 ∈ [0x0100, 0x0101, 0x0103]) ∧
      s.knownOpcode (leAt pkt 4 2) = false) ∧
    (∃ (s : State), ∃ (via : Via), ∃ (pkt : List Byte), runsCommands s.dev = true ∧ (s.boot.recovery = true → via = .hspi) ∧
      leAt pkt 0 2 = 0x5244 ∧ leAt pkt 2 1 = 1 ∧ leAt pkt 3 1 % 2 = 0 ∧ leAt pkt 12 4 = 0 ∧ leAt pkt 8 4 ≤ 8192 ∧
      pkt.length = 16 + leAt pkt 8 4 ∧ (s.authRequired via = false ∨ leAt pkt 4 2 ∈ [0x0100, 0x0101, 0x0103]) ∧
      s.knownOpcode (leAt pkt 4 2) = true ∧ s.cmd.queue.length < 8) ∧
    (∃ (s : State), ∃ (via : Via), ∃ (pkt : List Byte), runsCommands s.dev = true ∧ (s.boot.recovery = true → via = .hspi) ∧
      leAt pkt 0 2 = 0x5244 ∧ leAt pkt 2 1 = 1 ∧ leAt pkt 3 1 % 2 = 0 ∧ leAt pkt 12 4 = 0 ∧ leAt pkt 8 4 ≤ 8192 ∧
      pkt.length = 16 + leAt pkt 8 4 ∧ (s.authRequired via = false ∨ leAt pkt 4 2 ∈ [0x0100, 0x0101, 0x0103]) ∧
      s.knownOpcode (leAt pkt 4 2) = true ∧ s.cmd.queue.length = 8) ∧
    (∃ (s : State), ∃ (via : Via), ∃ (pkt : List Byte), runsCommands s.dev = true ∧ (s.boot.recovery = true → via = .hspi) ∧
      leAt pkt 0 2 = 0x5244 ∧ leAt pkt 2 1 = 1 ∧ leAt pkt 3 1 % 2 = 1 ∧ leAt pkt 8 4 ≤ 8192 ∧ pkt.length = 16 + leAt pkt 8 4 + 16 ∧
      (s.trailerOk (reqOf via pkt) pkt = false ∨ (s.repeats (reqOf via pkt) pkt = false ∧ s.fresh (reqOf via pkt) = false))) ∧
    (∃ (s : State), ∃ (via : Via), ∃ (pkt : List Byte), ∃ r, runsCommands s.dev = true ∧ (s.boot.recovery = true → via = .hspi) ∧
      leAt pkt 0 2 = 0x5244 ∧ leAt pkt 2 1 = 1 ∧ leAt pkt 3 1 % 2 = 1 ∧ leAt pkt 8 4 ≤ 8192 ∧ pkt.length = 16 + leAt pkt 8 4 + 16 ∧
      s.trailerOk (reqOf via pkt) pkt = true ∧ s.repeats (reqOf via pkt) pkt = true ∧ (s.session via).bind (·.lastReply) = some r) ∧
    (∃ (s : State), ∃ (via : Via), ∃ (pkt : List Byte), runsCommands s.dev = true ∧ (s.boot.recovery = true → via = .hspi) ∧
      leAt pkt 0 2 = 0x5244 ∧ leAt pkt 2 1 = 1 ∧ leAt pkt 3 1 % 2 = 1 ∧ leAt pkt 8 4 ≤ 8192 ∧ pkt.length = 16 + leAt pkt 8 4 + 16 ∧
      s.trailerOk (reqOf via pkt) pkt = true ∧ s.repeats (reqOf via pkt) pkt = false ∧ s.fresh (reqOf via pkt) = true ∧
      s.knownOpcode (leAt pkt 4 2) = true ∧ s.cmd.queue.length < 8) :=
  ⟨⟨idle, .hspi, leBytes 2 0 ++ leBytes 1 1 ++ leBytes 1 0 ++ leBytes 2 256 ++ leBytes 2 42 ++ leBytes 4 0 ++ leBytes 4 0, by decide +kernel,
      by decide +kernel, by decide +kernel⟩,
    ⟨idle, .hspi, leBytes 2 21060 ++ leBytes 1 2 ++ leBytes 1 0 ++ leBytes 2 256 ++ leBytes 2 42 ++ leBytes 4 0 ++ leBytes 4 0,
      by decide +kernel, by decide +kernel, by decide +kernel, by decide +kernel⟩,
    ⟨idle, .hspi, leBytes 2 21060 ++ leBytes 1 1 ++ leBytes 1 0 ++ leBytes 2 256 ++ leBytes 2 42 ++ leBytes 4 0 ++ leBytes 4 1,
      by decide +kernel, by decide +kernel, by decide +kernel, by decide +kernel, by decide +kernel, by decide +kernel⟩,
    ⟨idle, .hspi, leBytes 2 21060 ++ leBytes 1 1 ++ leBytes 1 0 ++ leBytes 2 256 ++ leBytes 2 42 ++ leBytes 4 8193 ++ leBytes 4 0,
      by decide +kernel, by decide +kernel, by decide +kernel, by decide +kernel, by decide +kernel, by decide +kernel, by decide +kernel⟩,
    ⟨idle.setF CMD_AUTH_CTRL CMD_AUTH_CTRL_REQ_HSPI 1, .hspi,
      leBytes 2 21060 ++ leBytes 1 1 ++ leBytes 1 0 ++ leBytes 2 0x0200 ++ leBytes 2 42 ++ leBytes 4 0 ++ leBytes 4 0, by decide +kernel,
      by decide +kernel, by decide +kernel, by decide +kernel, by decide +kernel, by decide +kernel, by decide +kernel, by decide +kernel,
      by decide +kernel, by decide +kernel⟩,
    ⟨idle, .hspi, leBytes 2 21060 ++ leBytes 1 1 ++ leBytes 1 0 ++ leBytes 2 0x0FFF ++ leBytes 2 42 ++ leBytes 4 0 ++ leBytes 4 0,
      by decide +kernel, by decide +kernel, by decide +kernel, by decide +kernel, by decide +kernel, by decide +kernel, by decide +kernel,
      by decide +kernel, by decide +kernel, by decide +kernel⟩,
    ⟨idle, .hspi, leBytes 2 21060 ++ leBytes 1 1 ++ leBytes 1 0 ++ leBytes 2 0x0200 ++ leBytes 2 42 ++ leBytes 4 0 ++ leBytes 4 0,
      by decide +kernel, by decide +kernel, by decide +kernel, by decide +kernel, by decide +kernel, by decide +kernel, by decide +kernel,
      by decide +kernel, by decide +kernel, by decide +kernel, by decide +kernel⟩,
    ⟨{ idle with cmd := { queue := List.replicate 8 ⟨hq, 0x0100, []⟩ } }, .hspi,
      leBytes 2 21060 ++ leBytes 1 1 ++ leBytes 1 0 ++ leBytes 2 0x0200 ++ leBytes 2 42 ++ leBytes 4 0 ++ leBytes 4 0, by decide +kernel,
      by decide +kernel, by decide +kernel, by decide +kernel, by decide +kernel, by decide +kernel, by decide +kernel, by decide +kernel,
      by decide +kernel, by decide +kernel, by decide +kernel⟩,
    ⟨idle, .hspi, leBytes 2 21060 ++ leBytes 1 1 ++ leBytes 1 1 ++ leBytes 2 256 ++ leBytes 2 42 ++ leBytes 4 0 ++ leBytes 4 1 ++ zeros 16,
      by decide +kernel, by decide +kernel, by decide +kernel, by decide +kernel, by decide +kernel, by decide +kernel, by decide +kernel,
      by decide +kernel⟩,
    ⟨{ keyed with cmd := { keyed.cmd with sessHspi := some { nonce := 0, ctr := 1, lastReq := sealed, lastReply := some ⟨hq, 0x0100, 0, 0, [], false, []⟩ } } },
      .hspi, sealed, ⟨hq, 0x0100, 0, 0, [], false, []⟩, by decide +kernel, by decide +kernel, by decide +kernel, by decide +kernel,
      by decide +kernel, by decide +kernel, by decide +kernel, by decide +kernel, by decide +kernel, by decide +kernel⟩,
    ⟨keyed, .hspi, sealed, by decide +kernel, by decide +kernel, by decide +kernel, by decide +kernel, by decide +kernel, by decide +kernel,
      by decide +kernel, by decide +kernel, by decide +kernel, by decide +kernel, by decide +kernel, by decide +kernel⟩⟩

/-- The hypotheses of Obligations.HspiTransactions can be met. -/
theorem witness_HspiTransactions :
    (∃ (s : State), ∃ (bytes : List Byte), s.boot.off = false ∧ s.coreOn = true ∧ bytes ≠ [] ∧ bytes.length ≤ s.rxFree) ∧
    (∃ (s : State), ∃ (bytes : List Byte), s.boot.off = false ∧ s.coreOn = true ∧ bytes ≠ [] ∧ s.rxFree < bytes.length) ∧
    (∃ (s : State), ∃ (bytes : List Byte), s.boot.off = false ∧ s.coreOn = true ∧ bytes.length ≤ s.rxFree) ∧
    (∃ (s : State), ∃ r, ∃ rest, s.boot.off = false ∧ s.cmd.replies = r :: rest) ∧
    (∃ (s : State), ∃ e, ∃ rest, s.boot.off = false ∧ s.cmd.alerts = e :: rest) ∧
    (∃ (s : State), ∃ e, ∃ rest, s.boot.off = false ∧ s.cmd.notices = e :: rest) ∧
    (∃ (s : State), s.boot.off = false ∧ s.cmd.replies = []) ∧
    (∃ (s : State), s.boot.off = false ∧ s.cmd.alerts = []) ∧
    (∃ (s : State), s.boot.off = false ∧ s.cmd.notices = []) ∧
    (∃ (s : State), ∃ a, s.boot.off = false ∧ (a % 4 ≠ 0 ∨ blkOf a = none)) ∧
    (∃ (s : State), ∃ a, s.boot.off = false ∧ a % 4 = 0 ∧ blkOf a ≠ none ∧ s.isReg a = true ∧ s.rdServed a = false) ∧
    (∃ (s : State), ∃ a, s.boot.off = false ∧ a % 4 = 0 ∧ blkOf a ≠ none ∧ s.rdServed a = true) ∧
    (∃ (s : State), ∃ a, ∃ w, ∃ b, ∃ c, ∃ ix, ∃ t, s.boot.off = false ∧ takes s .hspi a = true ∧ a % 4 = 0 ∧ blkOf a = some b ∧
      cardAt a = some (c, ix) ∧ s.blockWrite b (c.wrOf ix s a w (BitVec.ofNat 32 0xFFFFFFFF)) = (.done, t)) ∧
    (∃ (s : State), s.boot.off = false) :=
  ⟨⟨idle, zeros 64, by decide +kernel, by decide +kernel, by decide +kernel, by decide +kernel⟩,
    ⟨idle, zeros 65, by decide +kernel, by decide +kernel, by decide +kernel, by decide +kernel⟩,
    ⟨idle, zeros 64, by decide +kernel, by decide +kernel, by decide +kernel⟩,
    ⟨{ idle with cmd := { replies := [⟨hq, 0x0100, 0, 0, [], false, []⟩] } }, ⟨hq, 0x0100, 0, 0, [], false, []⟩, [], by decide +kernel,
      by decide +kernel⟩,
    ⟨{ idle with cmd := { alerts := [⟨2, 1, 0, 0, []⟩] } }, ⟨2, 1, 0, 0, []⟩, [], by decide +kernel, by decide +kernel⟩,
    ⟨{ idle with cmd := { notices := [⟨2, 1, 0, 0, []⟩] } }, ⟨2, 1, 0, 0, []⟩, [], by decide +kernel, by decide +kernel⟩,
    ⟨idle, by decide +kernel, by decide +kernel⟩,
    ⟨idle, by decide +kernel, by decide +kernel⟩,
    ⟨idle, by decide +kernel, by decide +kernel⟩,
    ⟨idle, 0x13, by decide +kernel, by decide +kernel⟩,
    ⟨idle.setF PMU_PD_STAT PMU_PD_STAT_ON 0, HGE_CH_STAT 5, by decide +kernel, by decide +kernel, by decide +kernel, by decide +kernel,
      by decide +kernel⟩,
    ⟨idle, GLB_STATE, by decide +kernel, by decide +kernel, by decide +kernel, by decide +kernel⟩,
    ⟨idle, 0x34B00, 5, _, _, _, _, by decide +kernel, by decide +kernel, by decide +kernel, rfl, rfl, rfl⟩,
    ⟨idle, by decide +kernel⟩⟩

/-- The hypotheses of Obligations.PathWritesAndSnapshotReads can be met. -/
theorem witness_PathWritesAndSnapshotReads :
    (∃ (s : State), ∃ (path : Path), ∃ (a : Nat), ∃ w, ∃ b, ∃ c, ∃ ix, ∃ t, takes s path a = true ∧ a % 4 = 0 ∧ blkOf a = some b ∧
      cardAt a = some (c, ix) ∧ s.blockWrite b (c.wrOf ix s a w (BitVec.ofNat 32 0xFFFFFFFF)) = (.done, t)) ∧
    (∃ (s : State), ∃ (a : Nat), s.boot.off = false ∧ rsLow a = true ∧ s.isReg a = true ∧ s.regOn a = true) ∧
    (∃ (s : State), ∃ (a : Nat), ∃ lo, s.boot.off = false ∧ rsOf a = some lo ∧ rsLow a = false ∧ s.isReg a = true ∧ s.regOn a = true) :=
  ⟨⟨idle, .dma 15, 0x34B00, 5, _, _, _, _, by decide +kernel, by decide +kernel, rfl, rfl, rfl⟩,
    ⟨idle, TIM_TBS_LO, by decide +kernel, by decide +kernel, by decide +kernel, by decide +kernel⟩,
    ⟨idle, TIM_TBS_HI, TIM_TBS_LO, by decide +kernel, by decide +kernel, by decide +kernel, by decide +kernel, by decide +kernel⟩⟩

/-- The hypotheses of Obligations.ScanStartHoldResumeStop can be met. -/
theorem witness_ScanStartHoldResumeStop :
    (∃ (s : State), ∃ (t : State), ∃ (q : Req), runs s q 0x0302 [] t ∧ t.dev = .idle ∧ t.missing = [] ∧ t.profile ≠ 0 ∧ t.columns ≠ 0 ∧
      (t.isMember = false → t.f FIR_SEQ FIR_SEQ_FSRC = 2 → t.fb FIR_SCHED FIR_SCHED_ARMED = true) ∧
      (t.isHead = true → t.f FIR_SEQ FIR_SEQ_FSRC ≠ 3) ∧ (∀ l, l < 4 → t.linkOn l = true → t.linkState l ≠ 8) ∧
      (t.isHead = true → t.cas.hcalDue = false ∧ t.cas.hcalTimes = []) ∧ t.staleBlocks = false ∧ t.fb THM_STATE THM_STATE_HISTORY = false) ∧
    (∃ (s : State), ∃ (t : State), ∃ (q : Req), runs s q 0x0303 [] t ∧ t.dev = .scanning ∧ t.cmd.holdReq = none ∧ t.fir.column = none) ∧
    (∃ (s : State), ∃ (t : State), ∃ (q : Req), ∃ c, runs s q 0x0303 [] t ∧ t.dev = .scanning ∧ t.cmd.holdReq = none ∧ t.fir.column = some c) ∧
    (∃ (s : State), ∃ (t : State), ∃ (q : Req), runs s q 0x0303 [] t ∧ t.dev = .hold) ∧
    (∃ (s : State), ∃ r, s.cmd.holdReq = some r ∧ s.dev = .scanning ∧ s.fir.column = none) ∧
    (∃ (s : State), ∃ r, s.cmd.holdReq = some r ∧ s.dev ≠ .scanning) ∧
    (∃ (s : State), ∃ (t : State), ∃ (q : Req), runs s q 0x0304 [] t ∧ t.dev = .hold) ∧
    (∃ (s : State), ∃ (t : State), ∃ (q : Req), runs s q 0x0304 [] t ∧ t.dev ≠ .hold) ∧
    (∃ (s : State), ∃ (t : State), ∃ (q : Req), runs s q 0x0305 [] t ∧ t.dev ≠ .idle) ∧
    (∃ (s : State), ∃ (t : State), ∃ (q : Req), runs s q 0x0305 [] t ∧ t.dev = .idle) :=
  ⟨⟨asked (idle.setF FIR_PROFILE FIR_PROFILE_CODE 1 |>.setF FIR_WARP_ACT FIR_WARP_ACT_COLUMNS 1 |>.setF CAL_STALE CAL_STALE_ACCEPTED 255) 0x0302 ([]),
      _, hq, ⟨by decide +kernel, rfl, by decide +kernel, by decide +kernel⟩, by decide +kernel, by decide +kernel, by decide +kernel,
      by decide +kernel, by decide +kernel, by decide +kernel, by decide +kernel, by decide +kernel, by decide +kernel, by decide +kernel⟩,
    ⟨asked (scan) 0x0303 ([]), _, hq, ⟨by decide +kernel, rfl, by decide +kernel, by decide +kernel⟩, by decide +kernel, by decide +kernel,
      by decide +kernel⟩,
    ⟨asked ({ scan with fir := { column := some col } }) 0x0303 ([]), _, hq, col, ⟨by decide +kernel, rfl, by decide +kernel,
      by decide +kernel⟩, by decide +kernel, by decide +kernel, by decide +kernel⟩,
    ⟨asked (up 5) 0x0303 ([]), _, hq, ⟨by decide +kernel, rfl, by decide +kernel, by decide +kernel⟩, by decide +kernel⟩,
    ⟨{ scan with cmd := { holdReq := some hq } }, hq, by decide +kernel, by decide +kernel, by decide +kernel⟩,
    ⟨{ idle with cmd := { holdReq := some hq } }, hq, by decide +kernel, by decide +kernel⟩,
    ⟨asked (up 5) 0x0304 ([]), _, hq, ⟨by decide +kernel, rfl, by decide +kernel, by decide +kernel⟩, by decide +kernel⟩,
    ⟨asked (idle) 0x0304 ([]), _, hq, ⟨by decide +kernel, rfl, by decide +kernel, by decide +kernel⟩, by decide +kernel⟩,
    ⟨asked (scan) 0x0305 ([]), _, hq, ⟨by decide +kernel, rfl, by decide +kernel, by decide +kernel⟩, by decide +kernel⟩,
    ⟨asked (idle) 0x0305 ([]), _, hq, ⟨by decide +kernel, rfl, by decide +kernel, by decide +kernel⟩, by decide +kernel⟩⟩

/-- The hypotheses of Obligations.CommitProfileScheduleAndKey can be met. -/
theorem witness_CommitProfileScheduleAndKey :
    (∃ (s : State), ∃ (t : State), ∃ (q : Req), runs s q 0x0300 [] t ∧ t.domOn 11 = true ∧ t.isMember = false ∧
      t.stagedCheck t.window t.binB = none ∧ t.dev ≠ .scanning) ∧
    (∃ (s : State), ∃ (t : State), ∃ (q : Req), runs s q 0x0300 [] t ∧ t.domOn 11 = true ∧ t.isMember = false ∧
      t.stagedCheck t.window t.binB = none ∧ t.dev = .scanning) ∧
    (∃ (s : State), ∃ (t : State), ∃ (q : Req), ∃ r, runs s q 0x0300 [] t ∧ t.domOn 11 = true ∧ t.isMember = false ∧
      t.stagedCheck t.window t.binB = some r) ∧
    (∃ (s : State), ∃ (t : State), ∃ (q : Req), runs s q 0x0300 [] t ∧ (t.domOn 11 && !t.isMember) = false) ∧
    (∃ (s : State), s.gapFor 0x0300 = true ∧ s.profileJob = none) ∧
    (∃ (s : State), ∃ (t : State), ∃ (q : Req), ∃ (p : List Byte), runs s q 0x0301 p t ∧ p.length = 4 + 12 * fld p 17 1 ∧ t.domOn 11 = true ∧
      firstBad (t.profileChecks p) = none ∧ t.dev = .scanning) ∧
    (∃ (s : State), ∃ (t : State), ∃ (q : Req), ∃ (p : List Byte), runs s q 0x0301 p t ∧ p.length = 4 + 12 * fld p 17 1 ∧ t.domOn 11 = true ∧
      firstBad (t.profileChecks p) = none ∧ t.dev ≠ .scanning ∧ t.setState 0 = 0 ∧ t.setState 1 = 0) ∧
    (∃ (s : State), ∃ j, s.profileJob = some j ∧ j.gap = true ∧ s.gapFor 0x0301 = true ∧ s.gapFor 0x0300 = false ∧ s.setState 0 = 0 ∧
      s.setState 1 = 0) ∧
    (∃ (s : State), ∃ (t : State), ∃ (q : Req), ∃ (p : List Byte), runs s q 0x0306 p t ∧ p.length = 16 ∧ t.domOn 11 = true ∧ fld p 16 1 ≤ 1 ∧
      allZero (fldBytes p 17 3) = true ∧ fld p 20 8 < 2 ^ 48 ∧ fld p 28 4 < 10 ^ 9 ∧ t.netRunning (fld p 16 1) = true) ∧
    (∃ (s : State), ∃ (t : State), ∃ (q : Req), ∃ (p : List Byte), runs s q 0x0307 p t ∧ p.length = 12 ∧ t.domOn 11 = true ∧ fld p 16 4 < 2 ∧
      t.dev ≠ .scanning) ∧
    (∃ (s : State), ∃ (t : State), ∃ (q : Req), ∃ (p : List Byte), runs s q 0x0307 p t ∧ p.length = 12 ∧ t.domOn 11 = true ∧ fld p 16 4 < 2 ∧
      t.dev = .scanning) :=
  ⟨⟨asked (stagedIn 2) 0x0300 ([]), _, hq, ⟨by decide +kernel, rfl, by decide +kernel, by decide +kernel⟩, by decide +kernel,
      by decide +kernel, by decide +kernel, by decide +kernel⟩,
    ⟨asked (stagedIn 4) 0x0300 ([]), _, hq, ⟨by decide +kernel, rfl, by decide +kernel, by decide +kernel⟩, by decide +kernel,
      by decide +kernel, by decide +kernel, by decide +kernel⟩,
    ⟨asked (idle) 0x0300 ([]), _, hq, _, ⟨by decide +kernel, rfl, by decide +kernel, by decide +kernel⟩, by decide +kernel, by decide +kernel,
      rfl⟩,
    ⟨asked (idle.setF HNG_CAS_CFG HNG_CAS_CFG_ROLE 2) 0x0300 ([]), _, hq, ⟨by decide +kernel, rfl, by decide +kernel, by decide +kernel⟩,
      by decide +kernel⟩,
    ⟨{ idle with cmd := { jobs := [{ req := hq, opc := 0x0300, gap := true }] } }, by decide +kernel, by decide +kernel⟩,
    ⟨asked (scan) 0x0301 (leBytes 4 1), _, hq, leBytes 4 1, ⟨by decide +kernel, rfl, by decide +kernel, by decide +kernel⟩, by decide +kernel,
      by decide +kernel, by decide +kernel, by decide +kernel⟩,
    ⟨asked (idle) 0x0301 (leBytes 4 1), _, hq, leBytes 4 1, ⟨by decide +kernel, rfl, by decide +kernel, by decide +kernel⟩, by decide +kernel,
      by decide +kernel, by decide +kernel, by decide +kernel, by decide +kernel, by decide +kernel⟩,
    ⟨{ idle with cmd := { jobs := [{ req := hq, opc := 0x0301, gap := true }] } }, { req := hq, opc := 0x0301, gap := true },
      by decide +kernel, by decide +kernel, by decide +kernel, by decide +kernel, by decide +kernel, by decide +kernel⟩,
    ⟨asked (idle.setF (TIM_TBx_STATE 0) TIM_TBx_STATE_STATE 1) 0x0306 (zeros 12 ++ leBytes 4 999999999), _, hq,
      zeros 12 ++ leBytes 4 999999999, ⟨by decide +kernel, rfl, by decide +kernel, by decide +kernel⟩, by decide +kernel, by decide +kernel,
      by decide +kernel, by decide +kernel, by decide +kernel, by decide +kernel, by decide +kernel⟩,
    ⟨asked (idle) 0x0307 (leBytes 4 1 ++ zeros 8), _, hq, leBytes 4 1 ++ zeros 8, ⟨by decide +kernel, rfl, by decide +kernel,
      by decide +kernel⟩, by decide +kernel, by decide +kernel, by decide +kernel, by decide +kernel⟩,
    ⟨asked (scan) 0x0307 (leBytes 4 1 ++ zeros 8), _, hq, leBytes 4 1 ++ zeros 8, ⟨by decide +kernel, rfl, by decide +kernel,
      by decide +kernel⟩, by decide +kernel, by decide +kernel, by decide +kernel, by decide +kernel⟩⟩

/-- The hypotheses of Obligations.CalibrationRequestsAndProcedures can be met. -/
theorem witness_CalibrationRequestsAndProcedures :
    (∃ (s : State), ∃ (t : State), ∃ (q : Req), ∃ (p : List Byte), ∃ (mode : CalMode), ∃ phase, runs s q 0x0400 p t ∧ p.length = 68 ∧
      firstBad (t.calRunChecks p) = none ∧ (t.dev ≠ .scanning ∧ mode = .direct ∧ phase = 3 ∨ t.dev = .scanning ∧
      t.fb CAL_POLICY CAL_POLICY_STEAL = true ∧ mode = .steal ∧ phase = 2 ∨ t.dev = .scanning ∧ t.fb CAL_POLICY CAL_POLICY_STEAL = false ∧
      mode = .gap ∧ phase = 1)) ∧
    (∃ (s : State), ∃ (r : CalRun), s.cal.run = some r ∧ calEmits r.proc = false ∧ r.steps < calSteps r.proc r.mask ∧ r.started = true ∧
      r.mode = .gap) ∧
    (∃ (s : State), ∃ (r : CalRun), s.cal.run = some r ∧ calEmits r.proc = false ∧ r.steps < calSteps r.proc r.mask ∧ r.started = true ∧
      r.mode = .direct) ∧
    (∃ (s : State), ∃ (r : CalRun), ∃ a, ∃ b, s.cal.run = some r ∧ calEmits r.proc = false ∧ r.steps < calSteps r.proc r.mask ∧
      r.mode = .steal ∧ r.window = some (a, b) ∧ Nat.max a s.tbs + 4 * tickUs ≤ b) ∧
    (∃ (s : State), ∃ (r : CalRun), ∃ vals, ∃ d, s.cal.run = some r ∧ calComplete r = true ∧ r.proc ≠ 8 ∧ (s.calOut r vals).fail = some d) ∧
    (∃ (s : State), ∃ (r : CalRun), ∃ vals, s.cal.run = some r ∧ calComplete r = true ∧ r.proc ≠ 8 ∧ (s.calOut r vals).fail = none) ∧
    (∃ (s : State), ∃ (t : State), ∃ (q : Req), ∃ (p : List Byte), runs s q 0x0401 p t ∧ p.length = 4 ∧ 1 ≤ fld p 16 1 ∧ fld p 16 1 ≤ 8 ∧
      allZero (fldBytes p 17 3) = true) ∧
    (∃ (s : State), ∃ (t : State), ∃ (q : Req), ∃ (p : List Byte), runs s q 0x0402 p t ∧ p.length = 4 ∧ fld p 16 4 % 4 = 0 ∧ fld p 16 4 < 1024) :=
  ⟨⟨asked (idle) 0x0400 (leBytes 4 1 ++ leBytes 64 1), _, hq, leBytes 4 1 ++ leBytes 64 1, .direct, 3, ⟨by decide +kernel, rfl,
      by decide +kernel, by decide +kernel⟩, by decide +kernel, by decide +kernel, by decide +kernel⟩,
    ⟨{ scan with cal := { run := some { proc := 1, fref := false, segs := 0, mask := 1, mode := .gap, started := true } } },
      { proc := 1, fref := false, segs := 0, mask := 1, mode := .gap, started := true }, by decide +kernel, by decide +kernel,
      by decide +kernel, by decide +kernel, by decide +kernel⟩,
    ⟨{ idle with cal := { run := some { proc := 1, fref := false, segs := 0, mask := 1, mode := .direct, started := true, steps := 499 } } },
      { proc := 1, fref := false, segs := 0, mask := 1, mode := .direct, started := true, steps := 499 }, by decide +kernel, by decide +kernel,
      by decide +kernel, by decide +kernel, by decide +kernel⟩,
    ⟨{ scan with cal := { run := some { proc := 1, fref := false, segs := 0, mask := 1, mode := .steal, window := some (0, 4 * tickUs) } } },
      { proc := 1, fref := false, segs := 0, mask := 1, mode := .steal, window := some (0, 4 * tickUs) }, 0, 4 * tickUs, by decide +kernel,
      by decide +kernel, by decide +kernel, by decide +kernel, by decide +kernel, by decide +kernel⟩,
    ⟨{ idle.setF (RFE_CFG 0) RFE_CFG_MODE 1 with cal := { run := some { proc := 1, fref := false, segs := 0, mask := 1, mode := .direct, started := true, steps := 500 } } },
      { proc := 1, fref := false, segs := 0, mask := 1, mode := .direct, started := true, steps := 500 }, [(0, [0, 0, 0, 1001, 0])], 0,
      by decide +kernel, by decide +kernel, by decide +kernel, by decide +kernel⟩,
    ⟨{ idle with cal := { run := some { proc := 1, fref := false, segs := 0, mask := 1, mode := .direct, started := true, steps := 500 } } },
      { proc := 1, fref := false, segs := 0, mask := 1, mode := .direct, started := true, steps := 500 }, [], by decide +kernel,
      by decide +kernel, by decide +kernel, by decide +kernel⟩,
    ⟨asked (idle) 0x0401 (leBytes 4 8), _, hq, leBytes 4 8, ⟨by decide +kernel, rfl, by decide +kernel, by decide +kernel⟩, by decide +kernel,
      by decide +kernel, by decide +kernel, by decide +kernel⟩,
    ⟨asked (idle) 0x0402 (leBytes 4 1020), _, hq, leBytes 4 1020, ⟨by decide +kernel, rfl, by decide +kernel, by decide +kernel⟩,
      by decide +kernel, by decide +kernel, by decide +kernel⟩⟩

/-- The hypotheses of Obligations.SafetyRequests can be met. -/
theorem witness_SafetyRequests :
    (∃ (s : State), ∃ (t : State), ∃ (q : Req), runs s q 0x0500 [] t ∧ t.isMS = true) ∧
    (∃ (s : State), ∃ (t : State), ∃ (q : Req), runs s q 0x0501 [] t ∧ t.causes.all t.clearable = true) ∧
    (∃ (s : State), ∃ (t : State), ∃ (q : Req), runs s q 0x0501 [] t ∧ t.causes.all t.clearable = false) ∧
    (∃ (s : State), ∃ (t : State), ∃ (q : Req), ∃ (p : List Byte), runs s q 0x0502 p t ∧ p.length = 12 ∧ (∀ w,
      w < 3 → fld p (16 + 4 * w) 4 ≤ (t.rd (ESF_EXP_CEIL w)).toNat) ∧ (t.dev = .scanning → ∀ w,
      w < 3 → fld p (16 + 4 * w) 4 ≤ (t.rd (ESF_EXP_LIM w)).toNat)) ∧
    (∃ (s : State), ∃ (t : State), ∃ (q : Req), ∃ (p : List Byte), runs s q 0x0503 p t ∧ p.length = 4 ∧
      fld p 16 4 &&& t.selfTests = fld p 16 4 ∧ t.jobOf 0x0503 = false ∧ t.dev ≠ .scanning) ∧
    (∃ (s : State), ∃ j, s.cmd.jobs.find? (fun j => j.opc = 0x0503) = some j ∧ j.gap = false) :=
  ⟨⟨asked (idle) 0x0500 ([]), _, hq, ⟨by decide +kernel, rfl, by decide +kernel, by decide +kernel⟩, by decide +kernel⟩,
    ⟨asked (idle.setF ESF_CAUSE ESF_CAUSE_CAUSE (2 ^ 13)) 0x0501 ([]), _, hq, ⟨by decide +kernel, rfl, by decide +kernel, by decide +kernel⟩,
      by decide +kernel⟩,
    ⟨asked (idle.setF ESF_CAUSE ESF_CAUSE_CAUSE (2 ^ 14)) 0x0501 ([]), _, hq, ⟨by decide +kernel, rfl, by decide +kernel, by decide +kernel⟩,
      by decide +kernel⟩,
    ⟨asked (idle) 0x0502 (zeros 12), _, hq, zeros 12, ⟨by decide +kernel, rfl, by decide +kernel, by decide +kernel⟩, by decide +kernel,
      by decide +kernel, by decide +kernel⟩,
    ⟨asked (idle) 0x0503 (leBytes 4 0xF), _, hq, leBytes 4 0xF, ⟨by decide +kernel, rfl, by decide +kernel, by decide +kernel⟩,
      by decide +kernel, by decide +kernel, by decide +kernel, by decide +kernel⟩,
    ⟨{ idle with cmd := { jobs := [{ req := hq, opc := 0x0503, arg := 4 }] } }, { req := hq, opc := 0x0503, arg := 4 }, by decide +kernel,
      by decide +kernel⟩⟩

/-- The hypotheses of Obligations.ZoneCommitAndSafeCommand can be met. -/
theorem witness_ZoneCommitAndSafeCommand :
    (∃ (s : State), ∃ (t : State), ∃ (q : Req), runs s q 0x0504 [] t ∧ t.domOn 10 = true ∧ t.dev ≠ .scanning ∧ t.zoneCopy.1 = true) ∧
    (∃ (s : State), ∃ (t : State), ∃ (q : Req), runs s q 0x0504 [] t ∧ t.domOn 10 = true ∧ t.dev ≠ .scanning ∧ t.zoneCopy.1 = false) ∧
    (∃ (s : State), ∃ (t : State), ∃ (q : Req), runs s q 0x0504 [] t ∧ t.domOn 10 = true ∧ t.dev = .scanning) ∧
    (∃ (s : State), s.gapFor 0x0504 = true) ∧
    (∃ (s : State), ∃ (t : State), ∃ (q : Req), ∃ (p : List Byte), ∃ port, runs s q 0x0505 p t ∧ t.safePort q = some port ∧ p.length = 32 ∧
      t.domOn 10 = true ∧ firstBad (t.safeChecks p) = none ∧ t.slotOf port = none) ∧
    (∃ (s : State), ∃ (t : State), ∃ (q : Req), ∃ (p : List Byte), runs s q 0x0505 p t ∧ t.safePort q = none) ∧
    (∃ (s : State), ∃ c, (s.zon.slotA = some c ∨ (s.zon.slotA = none ∧ s.zon.slotB = some c))) :=
  ⟨⟨asked (idle) 0x0504 ([]), _, hq, ⟨by decide +kernel, rfl, by decide +kernel, by decide +kernel⟩, by decide +kernel, by decide +kernel,
      by decide +kernel⟩,
    ⟨asked (badZone) 0x0504 ([]), _, hq, ⟨by decide +kernel, rfl, by decide +kernel, by decide +kernel⟩, by decide +kernel, by decide +kernel,
      by decide +kernel⟩,
    ⟨asked (scan) 0x0504 ([]), _, hq, ⟨by decide +kernel, rfl, by decide +kernel, by decide +kernel⟩, by decide +kernel, by decide +kernel⟩,
    ⟨{ idle with cmd := { jobs := [{ req := hq, opc := 0x0504, gap := true }] } }, by decide +kernel⟩,
    ⟨askedBy (uq 0xB8C6) (idle) 0x0505 (safePay), _, uq 0xB8C6, safePay, .A, ⟨by decide +kernel, rfl, by decide +kernel, by decide +kernel⟩,
      by decide +kernel, by decide +kernel, by decide +kernel, by decide +kernel, by decide +kernel⟩,
    ⟨asked (idle) 0x0505 ([]), _, hq, [], ⟨by decide +kernel, rfl, by decide +kernel, by decide +kernel⟩, by decide +kernel⟩,
    ⟨{ idle with zon := { slotB := some ⟨hq, [], 0⟩ } }, ⟨hq, [], 0⟩, by decide +kernel⟩⟩

/-- The hypotheses of Obligations.RecorderRequests can be met. -/
theorem witness_RecorderRequests :
    (∃ (s : State), ∃ (t : State), ∃ (q : Req), ∃ (p : List Byte), runs s q 0x0600 p t ∧ p.length = 88 ∧ t.domOn 14 = true ∧
      t.evr.clearing = false ∧ (t.recState = 0 ∨ 5 ≤ t.recState) ∧
      firstBad (t.armChecks ((List.range 22).map (fun i => fld p (16 + 4 * i) 4))) = none) ∧
    (∃ (s : State), ∃ (t : State), ∃ (q : Req), runs s q 0x0601 [] t) ∧
    (∃ (s : State), ∃ (t : State), ∃ (q : Req), runs s q 0x0602 [] t ∧ t.recState ≠ 0 ∧ t.recState ≠ 5) ∧
    (∃ (s : State), ∃ (t : State), ∃ (q : Req), runs s q 0x0602 [] t ∧ (t.recState = 0 ∨ t.recState = 5)) ∧
    (∃ (s : State), ∃ (t : State), ∃ (q : Req), runs s q 0x0603 [] t) ∧
    (∃ (s : State), ∃ (t : State), ∃ (q : Req), ∃ (p : List Byte), runs s q 0x0604 p t ∧ p.length = 12 ∧ firstBad (t.recReadChecks p) = none) :=
  ⟨⟨asked (idle) 0x0600 (armPay), _, hq, armPay, ⟨by decide +kernel, rfl, by decide +kernel, by decide +kernel⟩, by decide +kernel,
      by decide +kernel, by decide +kernel, by decide +kernel, by decide +kernel⟩,
    ⟨asked (idle) 0x0601 ([]), _, hq, ⟨by decide +kernel, rfl, by decide +kernel, by decide +kernel⟩⟩,
    ⟨asked (idle.setF EVR_STATE EVR_STATE_STATE 2) 0x0602 ([]), _, hq, ⟨by decide +kernel, rfl, by decide +kernel, by decide +kernel⟩,
      by decide +kernel, by decide +kernel⟩,
    ⟨asked (idle) 0x0602 ([]), _, hq, ⟨by decide +kernel, rfl, by decide +kernel, by decide +kernel⟩, by decide +kernel⟩,
    ⟨asked (idle) 0x0603 ([]), _, hq, ⟨by decide +kernel, rfl, by decide +kernel, by decide +kernel⟩⟩,
    ⟨asked (idle.setF (EVR_SEG_COUNT 0) EVR_SEG_COUNT_COUNT 1 |>.setF (EVR_SEG_INFO 0) EVR_SEG_INFO_STATUS 2) 0x0604 (leBytes 4 0 ++ leBytes 4 0 ++ leBytes 4 16),
      _, hq, leBytes 4 0 ++ leBytes 4 0 ++ leBytes 4 16, ⟨by decide +kernel, rfl, by decide +kernel, by decide +kernel⟩, by decide +kernel,
      by decide +kernel⟩⟩

/-- The hypotheses of Obligations.RecorderRuns can be met. -/
theorem witness_RecorderRuns :
    (∃ (s : State), s.recState = 1 ∧ s.f EVR_PRE EVR_PRE_PRE ≤ s.evr.fill) ∧
    (∃ (s : State), ∃ src, ∃ x, ∃ rest, s.evr.triggers = (src, x) :: rest) ∧
    (∃ (s : State), ∃ r, ∃ rest, (s.recState ≠ 3 ∨ s.evr.left ≠ 0) ∧ s.evr.rowq = r :: rest) ∧
    (∃ (s : State), ∃ a, ∃ b, ∃ rest, (s.recState ≠ 3 ∨ s.evr.left ≠ 0) ∧ s.evr.rowq = [] ∧ s.evr.monq = (a, b) :: rest) ∧
    (∃ (s : State), ∃ a, ∃ b, ∃ rest, (s.recState ≠ 3 ∨ s.evr.left ≠ 0) ∧ s.evr.rowq = [] ∧ s.evr.monq = [] ∧ s.evr.evq = (a, b) :: rest) ∧
    (∃ (s : State), s.recState = 3 ∧ s.evr.left = 0) ∧
    (∃ (s : State), ∃ g, g = (s.recSeg + 1) % 2 ^ s.f EVR_SRC EVR_SRC_NSEG_LOG2 ∧ s.recState = 4 ∧ s.segStatus g = 0) ∧
    (∃ (s : State), ∃ l, s.evr.lossM = some l ∧ s.evr.monq.length ≤ 32) ∧
    (∃ (s : State), ∃ l, s.evr.lossE = some l ∧ s.evr.evq.length ≤ 128) ∧
    (∃ (s : State), ∃ l, s.evr.lossE = some l ∧ 128 < s.evr.evq.length) ∧
    (∃ (s : State), ∃ x, ∃ rest, s.evr.samples = x :: rest) :=
  ⟨⟨idle.setF EVR_STATE EVR_STATE_STATE 1, by decide +kernel, by decide +kernel⟩,
    ⟨{ idle.setF EVR_STATE EVR_STATE_STATE 2 with evr := { triggers := [(3, 9)] } }, 3, 9, [], by decide +kernel⟩,
    ⟨{ idle.setF EVR_STATE EVR_STATE_STATE 2 with evr := { rowq := [zeros 16] } }, zeros 16, [], by decide +kernel, by decide +kernel⟩,
    ⟨{ idle.setF EVR_STATE EVR_STATE_STATE 2 with evr := { monq := [(1, 2)] } }, 1, 2, [], by decide +kernel, by decide +kernel,
      by decide +kernel⟩,
    ⟨{ idle.setF EVR_STATE EVR_STATE_STATE 3 with evr := { evq := [(1, 2)], left := 1 } }, 1, 2, [], by decide +kernel, by decide +kernel,
      by decide +kernel, by decide +kernel⟩,
    ⟨idle.setF EVR_STATE EVR_STATE_STATE 3, by decide +kernel, by decide +kernel⟩,
    ⟨idle.setF EVR_STATE EVR_STATE_STATE 4, _, rfl, by decide +kernel, by decide +kernel⟩,
    ⟨{ idle with evr := { lossM := some ⟨0, 0, 1, 0⟩, monq := List.replicate 32 (0, 0) } }, ⟨0, 0, 1, 0⟩, by decide +kernel,
      by decide +kernel⟩,
    ⟨{ idle with evr := { lossE := some ⟨0, 0, 1, 0⟩, evq := List.replicate 128 (0, 0) } }, ⟨0, 0, 1, 0⟩, by decide +kernel,
      by decide +kernel⟩,
    ⟨{ idle with evr := { lossE := some ⟨0, 0, 1, 0⟩, evq := List.replicate 129 (0, 0) } }, ⟨0, 0, 1, 0⟩, by decide +kernel,
      by decide +kernel⟩,
    ⟨{ idle with evr := { samples := [⟨3, 0, 0, 0, 31⟩] } }, ⟨3, 0, 0, 0, 31⟩, [], by decide +kernel⟩⟩

/-- The hypotheses of Obligations.TimeRequests can be met. -/
theorem witness_TimeRequests :
    (∃ (s : State), ∃ (t : State), ∃ (q : Req), runs s q 0x0700 [] t) ∧
    (∃ (s : State), ∃ (t : State), ∃ (q : Req), ∃ (p : List Byte), runs s q 0x0701 p t ∧ p.length = 16 ∧ firstBad (t.timeSetChecks p) = none ∧
      fld p 17 1 = 0 ∧ fld p 16 1 = 0) ∧
    (∃ (s : State), ∃ (t : State), ∃ (q : Req), ∃ (p : List Byte), runs s q 0x0701 p t ∧ p.length = 16 ∧ firstBad (t.timeSetChecks p) = none ∧
      fld p 17 1 = 0 ∧ fld p 16 1 ≠ 0) ∧
    (∃ (s : State), ∃ (t : State), ∃ (q : Req), ∃ (p : List Byte), runs s q 0x0701 p t ∧ p.length = 16 ∧ firstBad (t.timeSetChecks p) = none ∧
      fld p 17 1 = 1 ∧ fld p 16 1 = 0) ∧
    (∃ (s : State), ∃ (t : State), ∃ (q : Req), ∃ (p : List Byte), runs s q 0x0701 p t ∧ p.length = 16 ∧ firstBad (t.timeSetChecks p) = none ∧
      fld p 17 1 = 1 ∧ fld p 16 1 ≠ 0) ∧
    (∃ (s : State), ∃ (t : State), ∃ (q : Req), ∃ (p : List Byte), runs s q 0x0701 p t ∧ p.length = 16 ∧ firstBad (t.timeSetChecks p) = none ∧
      fld p 17 1 = 2 ∧ fld p 16 1 = 0) ∧
    (∃ (s : State), ∃ (t : State), ∃ (q : Req), ∃ (p : List Byte), runs s q 0x0701 p t ∧ p.length = 16 ∧ firstBad (t.timeSetChecks p) = none ∧
      fld p 17 1 = 2 ∧ fld p 16 1 ≠ 0 ∧ t.netRunning (fld p 16 1 - 1) = true) ∧
    (∃ (s : State), ∃ (t : State), ∃ (q : Req), ∃ (p : List Byte), runs s q 0x0702 p t ∧ p.length = 16 ∧ firstBad (t.ptpChecks p) = none) ∧
    (∃ (s : State), ∃ (t : State), ∃ (q : Req), ∃ (p : List Byte), ∃ u,
      u = (t.wr (TIM_TBx_ASYM (fld p 16 1)) (BitVec.ofNat 32 (fld p 20 4))).setF (TIM_TBx_STATE (fld p 16 1)) TIM_TBx_STATE_ASYM_SUSPECT 0 ∧
      runs s q 0x0703 p t ∧ p.length = 8 ∧ fld p 16 1 ≤ 1 ∧ allZero (fldBytes p 17 3) = true ∧ u.baseState (fld p 16 1) ≠ 4) ∧
    (∃ (s : State), ∃ (t : State), ∃ (q : Req), ∃ (p : List Byte), runs s q 0x0704 p t ∧ p.length = 4 ∧ 1 ≤ fld p 16 4 ∧ fld p 16 4 ≤ 16) ∧
    (∃ (s : State), ∃ (t : State), ∃ (q : Req), ∃ (p : List Byte), runs s q 0x0705 p t ∧ p.length = 8 ∧ fld p 16 1 ≤ 1 ∧ fld p 17 1 ≤ 1 ∧
      fld p 18 1 ≤ 7 ∧ fld p 19 1 ≤ 1 ∧ (fld p 18 1 % 2 = 1 → t.netRunning (fld p 19 1) = true) ∧ fld p 20 4 ≤ 100000000) :=
  ⟨⟨asked (idle) 0x0700 ([]), _, hq, ⟨by decide +kernel, rfl, by decide +kernel, by decide +kernel⟩⟩,
    ⟨asked (idle) 0x0701 (leBytes 1 0 ++ leBytes 1 0 ++ zeros 2 ++ leBytes 8 0 ++ leBytes 4 0), _, hq,
      leBytes 1 0 ++ leBytes 1 0 ++ zeros 2 ++ leBytes 8 0 ++ leBytes 4 0, ⟨by decide +kernel, rfl, by decide +kernel, by decide +kernel⟩,
      by decide +kernel, by decide +kernel, by decide +kernel, by decide +kernel⟩,
    ⟨asked (idle.setF (TIM_TBx_STATE 1) TIM_TBx_STATE_STATE 1) 0x0701 (leBytes 1 2 ++ leBytes 1 0 ++ zeros 2 ++ leBytes 8 0 ++ leBytes 4 999999999),
      _, hq, leBytes 1 2 ++ leBytes 1 0 ++ zeros 2 ++ leBytes 8 0 ++ leBytes 4 999999999, ⟨by decide +kernel, rfl, by decide +kernel,
      by decide +kernel⟩, by decide +kernel, by decide +kernel, by decide +kernel, by decide +kernel⟩,
    ⟨asked (idle) 0x0701 (leBytes 1 0 ++ leBytes 1 1 ++ zeros 2 ++ leBytes 8 5 ++ leBytes 4 0), _, hq,
      leBytes 1 0 ++ leBytes 1 1 ++ zeros 2 ++ leBytes 8 5 ++ leBytes 4 0, ⟨by decide +kernel, rfl, by decide +kernel, by decide +kernel⟩,
      by decide +kernel, by decide +kernel, by decide +kernel, by decide +kernel⟩,
    ⟨asked (idle.setF (TIM_TBx_STATE 1) TIM_TBx_STATE_STATE 1) 0x0701 (leBytes 1 2 ++ leBytes 1 1 ++ zeros 2 ++ leBytes 8 5 ++ leBytes 4 0),
      _, hq, leBytes 1 2 ++ leBytes 1 1 ++ zeros 2 ++ leBytes 8 5 ++ leBytes 4 0, ⟨by decide +kernel, rfl, by decide +kernel,
      by decide +kernel⟩, by decide +kernel, by decide +kernel, by decide +kernel, by decide +kernel⟩,
    ⟨asked (idle) 0x0701 (leBytes 1 0 ++ leBytes 1 2 ++ zeros 2 ++ leBytes 8 0 ++ leBytes 4 0), _, hq,
      leBytes 1 0 ++ leBytes 1 2 ++ zeros 2 ++ leBytes 8 0 ++ leBytes 4 0, ⟨by decide +kernel, rfl, by decide +kernel, by decide +kernel⟩,
      by decide +kernel, by decide +kernel, by decide +kernel, by decide +kernel⟩,
    ⟨asked (idle.setF (TIM_TBx_STATE 1) TIM_TBx_STATE_STATE 1) 0x0701 (leBytes 1 2 ++ leBytes 1 2 ++ zeros 2 ++ leBytes 8 0 ++ leBytes 4 0),
      _, hq, leBytes 1 2 ++ leBytes 1 2 ++ zeros 2 ++ leBytes 8 0 ++ leBytes 4 0, ⟨by decide +kernel, rfl, by decide +kernel,
      by decide +kernel⟩, by decide +kernel, by decide +kernel, by decide +kernel, by decide +kernel, by decide +kernel⟩,
    ⟨asked (idle) 0x0702 (leBytes 1 1 ++ leBytes 1 1 ++ leBytes 1 1 ++ zeros 9 ++ leBytes 4 1), _, hq,
      leBytes 1 1 ++ leBytes 1 1 ++ leBytes 1 1 ++ zeros 9 ++ leBytes 4 1, ⟨by decide +kernel, rfl, by decide +kernel, by decide +kernel⟩,
      by decide +kernel, by decide +kernel⟩,
    ⟨asked (idle) 0x0703 (leBytes 4 1 ++ zeros 4), _, hq, leBytes 4 1 ++ zeros 4, _, rfl, ⟨by decide +kernel, rfl, by decide +kernel,
      by decide +kernel⟩, by decide +kernel, by decide +kernel, by decide +kernel, by decide +kernel⟩,
    ⟨asked (idle) 0x0704 (leBytes 4 16), _, hq, leBytes 4 16, ⟨by decide +kernel, rfl, by decide +kernel, by decide +kernel⟩,
      by decide +kernel, by decide +kernel, by decide +kernel⟩,
    ⟨asked (idle.setF (TIM_TBx_STATE 1) TIM_TBx_STATE_STATE 1) 0x0705 (leBytes 1 1 ++ leBytes 1 1 ++ leBytes 1 7 ++ leBytes 1 1 ++ leBytes 4 100000000),
      _, hq, leBytes 1 1 ++ leBytes 1 1 ++ leBytes 1 7 ++ leBytes 1 1 ++ leBytes 4 100000000, ⟨by decide +kernel, rfl, by decide +kernel,
      by decide +kernel⟩, by decide +kernel, by decide +kernel, by decide +kernel, by decide +kernel, by decide +kernel, by decide +kernel,
      by decide +kernel⟩⟩

/-- The hypotheses of Obligations.LinkAndCascadeRequests can be met. -/
theorem witness_LinkAndCascadeRequests :
    (∃ (s : State), ∃ (t : State), ∃ (q : Req), ∃ (p : List Byte), ∃ (l : Nat), l = fld p 16 1 ∧ runs s q 0x0800 p t ∧ p.length = 4 ∧
      t.linkOn l = true ∧ allZero (fldBytes p 17 3) = true) ∧
    (∃ (s : State), ∃ (t : State), ∃ (q : Req), ∃ (p : List Byte), ∃ (l : Nat), l = fld p 16 1 ∧ runs s q 0x0801 p t ∧ p.length = 4 ∧
      (bitsSet 8 l).all t.linkOn = true ∧ allZero (fldBytes p 17 3) = true) ∧
    (∃ (s : State), ∃ (t : State), ∃ (q : Req), ∃ (p : List Byte), ∃ (l : Nat), l = fld p 16 1 ∧ runs s q 0x0802 p t ∧ p.length = 4 ∧
      t.linkOn l = true ∧ allZero (fldBytes p 17 3) = true) ∧
    (∃ (s : State), ∃ (t : State), ∃ (q : Req), ∃ (p : List Byte), runs s q 0x0803 p t ∧ t.dev = .idle ∧ p.length = 8 ∧
      firstBad (t.casChecks p) = none) ∧
    (∃ (s : State), ∃ (t : State), ∃ (q : Req), ∃ (p : List Byte), runs s q 0x0803 p t ∧ t.dev ≠ .idle) ∧
    (∃ (s : State), ∃ (t : State), ∃ (q : Req), ∃ (p : List Byte), runs s q 0x0804 p t ∧ p.length = 8 ∧ firstBad (t.linkTestChecks p) = none ∧
      fld p 17 1 ≠ 4) ∧
    (∃ (s : State), ∃ (t : State), ∃ (q : Req), ∃ (p : List Byte), runs s q 0x0804 p t ∧ p.length = 8 ∧ firstBad (t.linkTestChecks p) = none ∧
      fld p 17 1 = 4) ∧
    (∃ (s : State), ∃ (p : List Byte), ∃ (l : Nat), ∃ r, ∃ kind, ∃ lanes, ∃ e, ∃ u, ∃ v, l = fld p 16 1 ∧
      u = State.setF ((s.at_ e).putLink l { (s.at_ e).link l with test := none }) (WFL_TEST l) WFL_TEST_RUN 0 ∧
      v = State.laneResults l kind lanes r [0, 1, 2, 3] ([], u) ∧ (s.link l).test = some (kind, lanes, e) ∧ v.2.linkState l ≠ 9) :=
  ⟨⟨asked (idle) 0x0800 (leBytes 4 3), _, hq, leBytes 4 3, _, rfl, ⟨by decide +kernel, rfl, by decide +kernel, by decide +kernel⟩,
      by decide +kernel, by decide +kernel, by decide +kernel⟩,
    ⟨asked (idle) 0x0801 (leBytes 4 15), _, hq, leBytes 4 15, _, rfl, ⟨by decide +kernel, rfl, by decide +kernel, by decide +kernel⟩,
      by decide +kernel, by decide +kernel, by decide +kernel⟩,
    ⟨asked (idle) 0x0802 (leBytes 4 3), _, hq, leBytes 4 3, _, rfl, ⟨by decide +kernel, rfl, by decide +kernel, by decide +kernel⟩,
      by decide +kernel, by decide +kernel, by decide +kernel⟩,
    ⟨asked (idle) 0x0803 (leBytes 1 1 ++ leBytes 1 2 ++ leBytes 1 0xFE ++ leBytes 1 1 ++ zeros 4), _, hq,
      leBytes 1 1 ++ leBytes 1 2 ++ leBytes 1 0xFE ++ leBytes 1 1 ++ zeros 4, ⟨by decide +kernel, rfl, by decide +kernel, by decide +kernel⟩,
      by decide +kernel, by decide +kernel, by decide +kernel⟩,
    ⟨asked (scan) 0x0803 ([]), _, hq, [], ⟨by decide +kernel, rfl, by decide +kernel, by decide +kernel⟩, by decide +kernel⟩,
    ⟨asked (idle) 0x0804 (leBytes 1 3 ++ leBytes 1 0 ++ leBytes 1 15 ++ zeros 1 ++ leBytes 4 60000), _, hq,
      leBytes 1 3 ++ leBytes 1 0 ++ leBytes 1 15 ++ zeros 1 ++ leBytes 4 60000, ⟨by decide +kernel, rfl, by decide +kernel, by decide +kernel⟩,
      by decide +kernel, by decide +kernel, by decide +kernel⟩,
    ⟨asked (idle) 0x0804 (leBytes 1 3 ++ leBytes 1 4 ++ leBytes 1 1 ++ zeros 1 ++ leBytes 4 0), _, hq,
      leBytes 1 3 ++ leBytes 1 4 ++ leBytes 1 1 ++ zeros 1 ++ leBytes 4 0, ⟨by decide +kernel, rfl, by decide +kernel, by decide +kernel⟩,
      by decide +kernel, by decide +kernel, by decide +kernel⟩,
    ⟨{ idle with wfl := [(3, { test := some (0, 1, 5) })] }, leBytes 4 3, _, [], 0, 1, 5, _, _, rfl, rfl, rfl, by decide +kernel,
      by decide +kernel⟩⟩

/-- The hypotheses of Obligations.PowerAndThermalRequests can be met. -/
theorem witness_PowerAndThermalRequests :
    (∃ (s : State), ∃ (t : State), ∃ (q : Req), ∃ (p : List Byte), runs s q 0x0900 p t ∧ p.length = 4 ∧ t.boot.switching = none ∧
      firstBad (t.domainChecks p) = none ∧ fld p 17 1 = 1 ∧ t.domOn (fld p 16 1) = false) ∧
    (∃ (s : State), ∃ (t : State), ∃ (q : Req), ∃ (p : List Byte), runs s q 0x0900 p t ∧ p.length = 4 ∧ t.boot.switching = none ∧
      firstBad (t.domainChecks p) = none ∧ fld p 17 1 = 0 ∧ t.domOn (fld p 16 1) = true) ∧
    (∃ (s : State), ∃ (t : State), ∃ (q : Req), ∃ (p : List Byte), runs s q 0x0900 p t ∧ p.length = 4 ∧ t.boot.switching = none ∧
      firstBad (t.domainChecks p) = none ∧ fld p 17 1 = 1 ∧ t.domOn (fld p 16 1) = true) ∧
    (∃ (s : State), ∃ (t : State), ∃ (q : Req), ∃ (p : List Byte), runs s q 0x0900 p t ∧ p.length = 4 ∧ t.boot.switching = none ∧
      firstBad (t.domainChecks p) = none ∧ fld p 17 1 = 0 ∧ t.domOn (fld p 16 1) = false) ∧
    (∃ (s : State), ∃ d, ∃ r, s.boot.switching = some (d, true, r)) ∧
    (∃ (s : State), ∃ d, ∃ r, s.boot.switching = some (d, false, r)) ∧
    (∃ (s : State), ∃ (t : State), ∃ (q : Req), runs s q 0x0901 [] t) ∧
    (∃ (s : State), ∃ (t : State), ∃ (q : Req), ∃ (p : List Byte), ∃ n, n = fld p 16 4 ∧ runs s q 0x0902 p t ∧ p.length = 4 ∧
      n ∈ t.shutdownsAfter (t.rd THM_NVLOG_ACK).toNat) ∧
    (∃ (s : State), ∃ (t : State), ∃ (q : Req), ∃ (p : List Byte), runs s q 0x0903 p t ∧ p.length = 8 ∧ 1 ≤ fld p 20 1 ∧ fld p 20 1 ≤ 125 ∧
      allZero (fldBytes p 21 3) = true) ∧
    (∃ (s : State), ∃ (t : State), ∃ (q : Req), ∃ (p : List Byte), runs s q 0x0904 p t ∧ p.length = 8 ∧ 960 ≤ fldS p 16 2 ∧
      fldS p 16 2 ≤ sx 16 t.boot.shadows.warn ∧ fldS p 16 2 + 80 ≤ fldS p 18 2 ∧ fldS p 18 2 ≤ sx 16 t.boot.shadows.throttle ∧
      fldS p 18 2 + 80 ≤ fldS p 20 2 ∧ fldS p 20 2 ≤ sx 16 t.boot.shadows.shutdown ∧ allZero (fldBytes p 22 2) = true) :=
  ⟨⟨asked (idle.setF PMU_PD_STAT PMU_PD_STAT_ON 0x7FFFF) 0x0900 (leBytes 1 19 ++ leBytes 1 1 ++ zeros 2), _, hq,
      leBytes 1 19 ++ leBytes 1 1 ++ zeros 2, ⟨by decide +kernel, rfl, by decide +kernel, by decide +kernel⟩, by decide +kernel,
      by decide +kernel, by decide +kernel, by decide +kernel, by decide +kernel⟩,
    ⟨asked (idle) 0x0900 (leBytes 1 19 ++ leBytes 1 0 ++ zeros 2), _, hq, leBytes 1 19 ++ leBytes 1 0 ++ zeros 2, ⟨by decide +kernel, rfl,
      by decide +kernel, by decide +kernel⟩, by decide +kernel, by decide +kernel, by decide +kernel, by decide +kernel, by decide +kernel⟩,
    ⟨asked (idle) 0x0900 (leBytes 1 19 ++ leBytes 1 1 ++ zeros 2), _, hq, leBytes 1 19 ++ leBytes 1 1 ++ zeros 2, ⟨by decide +kernel, rfl,
      by decide +kernel, by decide +kernel⟩, by decide +kernel, by decide +kernel, by decide +kernel, by decide +kernel, by decide +kernel⟩,
    ⟨asked (idle.setF PMU_PD_STAT PMU_PD_STAT_ON 0x7FFFF) 0x0900 (leBytes 1 19 ++ leBytes 1 0 ++ zeros 2), _, hq,
      leBytes 1 19 ++ leBytes 1 0 ++ zeros 2, ⟨by decide +kernel, rfl, by decide +kernel, by decide +kernel⟩, by decide +kernel,
      by decide +kernel, by decide +kernel, by decide +kernel, by decide +kernel⟩,
    ⟨{ idle with boot := { switching := some (2, true, hq) } }, 2, hq, by decide +kernel⟩,
    ⟨{ idle with boot := { switching := some (2, false, hq) } }, 2, hq, by decide +kernel⟩,
    ⟨asked (idle) 0x0901 ([]), _, hq, ⟨by decide +kernel, rfl, by decide +kernel, by decide +kernel⟩⟩,
    ⟨asked (logged) 0x0902 (leBytes 4 1), _, hq, leBytes 4 1, _, rfl, ⟨by decide +kernel, rfl, by decide +kernel, by decide +kernel⟩,
      by decide +kernel, by decide +kernel⟩,
    ⟨asked (idle) 0x0903 (leBytes 4 0 ++ leBytes 4 125), _, hq, leBytes 4 0 ++ leBytes 4 125, ⟨by decide +kernel, rfl, by decide +kernel,
      by decide +kernel⟩, by decide +kernel, by decide +kernel, by decide +kernel, by decide +kernel⟩,
    ⟨asked (idle) 0x0904 (leBytes 2 960 ++ leBytes 2 1040 ++ leBytes 2 1120 ++ zeros 2), _, hq,
      leBytes 2 960 ++ leBytes 2 1040 ++ leBytes 2 1120 ++ zeros 2, ⟨by decide +kernel, rfl, by decide +kernel, by decide +kernel⟩,
      by decide +kernel, by decide +kernel, by decide +kernel, by decide +kernel, by decide +kernel, by decide +kernel, by decide +kernel,
      by decide +kernel⟩⟩

/-- The hypotheses of Obligations.ImageAndFlashRequests can be met. -/
theorem witness_ImageAndFlashRequests :
    (∃ (s : State), ∃ (t : State), ∃ (q : Req), ∃ (p : List Byte), runs s q 0x0A00 p t ∧ p.length = 4 ∧ fld p 16 1 ≤ 1 ∧
      allZero (fldBytes p 17 3) = true) ∧
    (∃ (s : State), ∃ (t : State), ∃ (q : Req), ∃ (p : List Byte), runs s q 0x0A01 p t ∧ p.length = 8 ∧ 1 ≤ fld p 20 4 ∧ fld p 20 4 ≤ 8064 ∧
      fld p 16 4 + fld p 20 4 ≤ t.boot.flashSize ∧ t.boot.flashOps = []) ∧
    (∃ (s : State), ∃ (t : State), ∃ (q : Req), ∃ (p : List Byte), runs s q 0x0A02 p t ∧ p.length = 8 ∧ fld p 16 4 % 65536 = 0 ∧
      1 ≤ fld p 20 4 ∧ fld p 16 4 + 65536 * fld p 20 4 ≤ t.boot.flashSize ∧ t.touchesBooted (fld p 16 4) (65536 * fld p 20 4) = false ∧
      t.boot.flashOps = []) ∧
    (∃ (s : State), ∃ (t : State), ∃ (q : Req), ∃ (p : List Byte), runs s q 0x0A03 p t ∧ 5 ≤ p.length ∧ p.length ≤ 8064 ∧
      fld p 16 4 + (p.length - 4) ≤ t.boot.flashSize ∧ t.touchesBooted (fld p 16 4) (p.length - 4) = false ∧ t.boot.flashOps = []) ∧
    (∃ (s : State), ∃ a, ∃ n, ∃ rest, s.boot.flashOps = .erase a n :: rest) ∧
    (∃ (s : State), ∃ a, ∃ data, ∃ rest, s.boot.flashOps = .write a data :: rest) ∧
    (∃ (s : State), ∃ (t : State), ∃ (q : Req), ∃ (p : List Byte), runs s q 0x0A04 p t ∧ p.length = 4 ∧ fld p 16 1 ≤ 1 ∧
      allZero (fldBytes p 17 3) = true ∧ t.boot.flashOps = []) ∧
    (∃ (s : State), ∃ slot, ∃ rest, s.boot.flashOps = .verify slot :: rest) ∧
    (∃ (s : State), ∃ (t : State), ∃ (q : Req), ∃ (p : List Byte), runs s q 0x0A05 p t ∧ p.length = 4 ∧ fld p 16 1 ≤ 1 ∧
      allZero (fldBytes p 17 3) = true ∧ t.boot.flashOps = []) :=
  ⟨⟨asked (idle) 0x0A00 (leBytes 4 1), _, hq, leBytes 4 1, ⟨by decide +kernel, rfl, by decide +kernel, by decide +kernel⟩, by decide +kernel,
      by decide +kernel, by decide +kernel⟩,
    ⟨asked ({ idle with boot := { flashSize := 65536 } }) 0x0A01 (leBytes 4 57472 ++ leBytes 4 8064), _, hq,
      leBytes 4 57472 ++ leBytes 4 8064, ⟨by decide +kernel, rfl, by decide +kernel, by decide +kernel⟩, by decide +kernel, by decide +kernel,
      by decide +kernel, by decide +kernel, by decide +kernel⟩,
    ⟨asked ({ idle with boot := { flashSize := 65536 } }) 0x0A02 (leBytes 4 0 ++ leBytes 4 1), _, hq, leBytes 4 0 ++ leBytes 4 1,
      ⟨by decide +kernel, rfl, by decide +kernel, by decide +kernel⟩, by decide +kernel, by decide +kernel, by decide +kernel,
      by decide +kernel, by decide +kernel, by decide +kernel⟩,
    ⟨asked ({ idle with boot := { flashSize := 65536 } }) 0x0A03 (leBytes 4 65535 ++ zeros 1), _, hq, leBytes 4 65535 ++ zeros 1,
      ⟨by decide +kernel, rfl, by decide +kernel, by decide +kernel⟩, by decide +kernel, by decide +kernel, by decide +kernel,
      by decide +kernel, by decide +kernel⟩,
    ⟨{ idle with boot := { flashOps := [.erase 0 1] } }, 0, 1, [], by decide +kernel⟩,
    ⟨{ idle with boot := { flashOps := [.write 0 []] } }, 0, [], [], by decide +kernel⟩,
    ⟨asked (idle) 0x0A04 (leBytes 4 1), _, hq, leBytes 4 1, ⟨by decide +kernel, rfl, by decide +kernel, by decide +kernel⟩, by decide +kernel,
      by decide +kernel, by decide +kernel, by decide +kernel⟩,
    ⟨{ idle with boot := { flashOps := [.verify 1] } }, 1, [], by decide +kernel⟩,
    ⟨asked (idle) 0x0A05 (leBytes 4 1), _, hq, leBytes 4 1, ⟨by decide +kernel, rfl, by decide +kernel, by decide +kernel⟩, by decide +kernel,
      by decide +kernel, by decide +kernel, by decide +kernel⟩⟩

/-- The hypotheses of Obligations.FrontEndRegisterWrites can be met. -/
theorem witness_FrontEndRegisterWrites :
    (∃ (s : State), ∃ (path : Path), ∃ v, canonical s = true ∧ takes s path GLB_BEHAVIOUR = true ∧ s.dev = .idle ∧
      s.f GLB_BEHAVIOUR GLB_BEHAVIOUR_REQ ≤ v ∧ v ≤ s.boot.shadows.blMax ∧ v < 16) ∧
    (∃ (s : State), ∃ (path : Path), canonical s = true ∧ takes s path ESF_CTRL = true ∧ s.f ESF_CTRL ESF_CTRL_DISC ≠ 0 ∧
      s.f ESF_CTRL ESF_CTRL_DISC ≠ 31 ∧ s.f ESF_CTRL ESF_CTRL_AUTOCLR &&& autoClearable = s.f ESF_CTRL ESF_CTRL_AUTOCLR) ∧
    (∃ (s : State), ∃ (path : Path), ∃ m, canonical s = true ∧ takes s path TDC_CNT_CLR = true ∧ m < 16) ∧
    (∃ (s : State), ∃ (path : Path), canonical s = true ∧ takes s path TDC_CNT_CLR = true) ∧
    (∃ (s : State), ∃ (path : Path), canonical s = true ∧ takes s path TDC_TPI_CTRL = true ∧ s.tpiOn = true ∧
      s.fb TDC_TPI_CTRL TDC_TPI_CTRL_SRC = false) ∧
    (∃ (s : State), ∃ (path : Path), ∃ m, canonical s = true ∧ takes s path TMB_CNT_CLR = true ∧ m < 16) ∧
    (∃ (s : State), ∃ (path : Path), canonical s = true ∧ takes s path FIR_CNT_CLR = true) ∧
    (∃ (s : State), ∃ (path : Path), ∃ m, canonical s = true ∧ takes s path HGE_CNT_CLR = true ∧ m < 16) ∧
    (∃ (s : State), ∃ (path : Path), canonical s = true ∧ takes s path HGE_CNT_CLR = true) ∧
    (∃ (s : State), ∃ (path : Path), canonical s = true ∧ takes s path EXT_CNT_CLR = true) ∧
    (∃ (s : State), ∃ (path : Path), ∃ v, canonical s = true ∧ takes s path EXT_AIR = true ∧ v ≤ 100000 ∧ s.dev ≠ .scanning) ∧
    (∃ (s : State), ∃ (path : Path), ∃ v, canonical s = true ∧ takes s path EXT_AIR = true ∧ 100000 < v ∧ v < 2 ^ EXT_AIR_NM1.w) ∧
    (∃ (s : State), ∃ (path : Path), canonical s = true ∧ takes s path FIR_ALC_CTRL = true ∧
      s.f FIR_ALC_CTRL FIR_ALC_CTRL_SMIN ≤ s.f FIR_ALC_CTRL FIR_ALC_CTRL_SMAX ∧ s.f FIR_ALC_CTRL FIR_ALC_CTRL_SMAX ≠ 0) :=
  ⟨⟨idle, .cmd, 2, by decide +kernel, by decide +kernel, by decide +kernel, by decide +kernel, by decide +kernel, by decide +kernel⟩,
    ⟨idle, .cmd, by decide +kernel, by decide +kernel, by decide +kernel, by decide +kernel, by decide +kernel⟩,
    ⟨idle, .cmd, 15, by decide +kernel, by decide +kernel, by decide +kernel⟩,
    ⟨idle, .cmd, by decide +kernel, by decide +kernel⟩,
    ⟨idle.setF TDC_TPI_CTRL TDC_TPI_CTRL_EN 1, .cmd, by decide +kernel, by decide +kernel, by decide +kernel, by decide +kernel⟩,
    ⟨idle, .cmd, 15, by decide +kernel, by decide +kernel, by decide +kernel⟩,
    ⟨idle, .cmd, by decide +kernel, by decide +kernel⟩,
    ⟨idle, .cmd, 15, by decide +kernel, by decide +kernel, by decide +kernel⟩,
    ⟨idle, .cmd, by decide +kernel, by decide +kernel⟩,
    ⟨idle, .cmd, by decide +kernel, by decide +kernel⟩,
    ⟨idle, .cmd, 100000, by decide +kernel, by decide +kernel, by decide +kernel, by decide +kernel⟩,
    ⟨idle, .cmd, 100001, by decide +kernel, by decide +kernel, by decide +kernel, by decide +kernel⟩,
    ⟨idle.setF FIR_ALC_CTRL FIR_ALC_CTRL_SMAX 1 |>.setF FIR_ALC_CTRL FIR_ALC_CTRL_SMIN 1, .cmd, by decide +kernel, by decide +kernel,
      by decide +kernel, by decide +kernel⟩⟩

/-- The hypotheses of Obligations.BinSettingWrite can be met. -/
theorem witness_BinSettingWrite :
    (∃ (s : State), ∃ (path : Path), ∃ (w : Word), ∃ (width : Nat), ∃ (count : Nat), width = HGE_BIN_WIDTH.get w ∧
      count = HGE_BIN_COUNT.get w ∧ takes s path HGE_BIN = true ∧ s.dev = .idle ∧ width ≤ 2 ∧ 512 ≤ count ∧ count ≤ 5120 ∧
      count * (64 * 2 ^ width) ≤ 655360) ∧
    (∃ (s : State), ∃ (path : Path), ∃ (w : Word), ∃ (width : Nat), ∃ (count : Nat), width = HGE_BIN_WIDTH.get w ∧
      count = HGE_BIN_COUNT.get w ∧ takes s path HGE_BIN = true ∧ s.dev = .idle ∧
      (width = 3 ∨ count < 512 ∨ 5120 < count ∨ 655360 < count * (64 * 2 ^ width))) ∧
    (∃ (s : State), ∃ (path : Path), takes s path HGE_BIN = true ∧ s.dev ≠ .idle) :=
  ⟨⟨idle, .cmd, HGE_BIN_WIDTH.set (HGE_BIN_COUNT.set 0 512) 2, _, _, rfl, rfl, by decide +kernel, by decide +kernel, by decide +kernel,
      by decide +kernel, by decide +kernel, by decide +kernel⟩,
    ⟨idle, .cmd, HGE_BIN_WIDTH.set (HGE_BIN_COUNT.set 0 512) 3, _, _, rfl, rfl, by decide +kernel, by decide +kernel, by decide +kernel⟩,
    ⟨scan, .cmd, by decide +kernel, by decide +kernel⟩⟩

/-- The hypotheses of Obligations.ProtectedWordWrites can be met. -/
theorem witness_ProtectedWordWrites :
    (∃ (s : State), ∃ (path : Path), ∃ x, x < 6 ∧ takes s path (SRV_LP_MAN x) = true ∧ s.loopClosed x = false) ∧
    (∃ (s : State), ∃ (path : Path), ∃ x, x < 6 ∧ takes s path (SRV_LP_MAN x) = true ∧ s.loopClosed x = true) ∧
    (∃ (s : State), ∃ (path : Path), ∃ (w : Word), takes s path SRV_TICK = true ∧ (∀ x < 6, s.fb (SRV_LP_CTRL x) SRV_LP_CTRL_MODE = false) ∧
      1250 ≤ SRV_TICK_PERIOD.get w) ∧
    (∃ (s : State), ∃ (path : Path), takes s path SRV_TICK = true ∧ (∃ x < 6, s.fb (SRV_LP_CTRL x) SRV_LP_CTRL_MODE = true)) ∧
    (∃ (s : State), ∃ (path : Path), ∃ (w : Word), ∃ x, ∃ a, x < 6 ∧ takes s path a = true ∧ s.loopClosed x = false ∧ ((∃ k < 4,
      a = SRV_LP_K x k) ∨ a = SRV_LP_OOFS x ∨ (∃ j < 2, ∃ k < 5, a = SRV_LP_NC x j k) ∨ (a = SRV_LP_ILIM x ∧
      sx 16 (SRV_LP_ILIM_ILO.get w) ≤ sx 16 (SRV_LP_ILIM_IHI.get w)) ∨ (a = SRV_LP_OLIM x ∧
      sx 16 (SRV_LP_OLIM_OLO.get w) ≤ sx 16 (SRV_LP_OLIM_OHI.get w)) ∨ (a = SRV_LP_CFG x ∧ SRV_LP_CFG_OUT.get w ≤ 8 ∧
      typeAllowed x (SRV_LP_CFG_TYPE.get w) = true ∧ fbAllowed (SRV_LP_CFG_TYPE.get w) (SRV_LP_CFG_FBSRC.get w) = true))) ∧
    (∃ (s : State), ∃ (path : Path), ∃ x, ∃ a, x < 6 ∧ takes s path a = true ∧ s.loopClosed x = true ∧ a ∈ [SRV_LP_CFG x, SRV_LP_ILIM x,
      SRV_LP_OLIM x, SRV_LP_OOFS x]) ∧
    (∃ (s : State), ∃ (path : Path), ∃ m, ∃ b, ∃ e, ∃ a, a = SRV_TRAJ m b e ∧ m < 2 ∧ b < 2 ∧ e < 1024 ∧ takes s path a = true ∧
      ((s.loop m).running = true → s.f (SRV_LP_TRAJ m) SRV_LP_TRAJ_ACTIVE ≠ b)) ∧
    (∃ (s : State), ∃ (path : Path), ∃ m, ∃ b, ∃ e, ∃ a, a = SRV_TRAJ m b e ∧ m < 2 ∧ b < 2 ∧ e < 1024 ∧ takes s path a = true ∧
      (s.loop m).running = true ∧ s.f (SRV_LP_TRAJ m) SRV_LP_TRAJ_ACTIVE = b) ∧
    (∃ (s : State), ∃ (path : Path), ∃ a, takes s path a = true ∧ a ∈ [MAD_TRIG, MAD_TIMER] ∧ s.seqRuns = false) ∧
    (∃ (s : State), ∃ (path : Path), ∃ a, takes s path a = true ∧ a ∈ [MAD_TRIG, MAD_TIMER] ∧ s.seqRuns = true) ∧
    (∃ (s : State), ∃ (path : Path), ∃ (w : Word), ∃ k, ∃ a, k < 64 ∧ takes s path a = true ∧ s.seqRuns = false ∧ ((a = MAD_ENTRY0 k ∧
      chWordLegal (written s a w).toNat = true ∧ w.toNat &&& 0x20202020 = 0) ∨ (a = MAD_ENTRY1 k ∧
      w.toNat &&& 0xFFFF0000 = 0) ∨ (a = MAD_ENTRY2 k ∧ w.toNat &&& 0xF8 = 0) ∨ (a = MAD_ENTRY3 k ∧ w.toNat &&& 0xFFFFFFC0 = 0))) ∧
    (∃ (s : State), ∃ (path : Path), ∃ (w : Word), ∃ c, ∃ a, c < 8 ∧ takes s path a = true ∧ s.chainOn c = false ∧ ((∃ k < 8,
      a = MFC_CH_FIR c k) ∨ (a = MFC_CH_CFG c ∧ 0 < MFC_CH_CFG_DEC_LOG2.get w ∧ MFC_CH_CFG_DEC_LOG2.get w ≤ 8))) ∧
    (∃ (s : State), ∃ (path : Path), ∃ c, ∃ a, c < 8 ∧ takes s path a = true ∧ s.chainOn c = true ∧ a = MFC_CH_CFG c) ∧
    (∃ (s : State), ∃ (path : Path), ∃ (w : Word), ∃ m, ∃ a, m < 4 ∧ takes s path a = true ∧ s.fb (EVR_MSK_CFG m) EVR_MSK_CFG_EN = false ∧
      ((a = EVR_MSK_SRC m ∧ chLegal (EVR_MSK_SRC_CHBYTE.get w) = true) ∨ ∃ k < 32, a = EVR_MSK_ENV m k)) ∧
    (∃ (s : State), ∃ (path : Path), ∃ m, ∃ a, m < 4 ∧ takes s path a = true ∧ s.fb (EVR_MSK_CFG m) EVR_MSK_CFG_EN = true ∧ a = EVR_MSK_SRC m) ∧
    (∃ (s : State), ∃ (path : Path), ∃ (w : Word), ∃ m, ∃ a, m < 4 ∧ takes s path a = true ∧ a = EVR_MSK_CFG m ∧ EVR_MSK_CFG_INPUT.get w ≠ 3 ∧
      EVR_MSK_CFG_REF.get w < 5 ∧ EVR_MSK_CFG_EN.get w = 0) ∧
    (∃ (s : State), ∃ (path : Path), ∃ (w : Word), ∃ (port : Port), ∃ (k : Nat), ∃ a, (portSettings (portIx port))[k]? = some a ∧
      takes s path a = true ∧ (a = ETHx_MTU (portIx port) → 1280 ≤ ETHx_MTU_MTU.get w ∧ ETHx_MTU_MTU.get w ≤ 9194)) ∧
    (∃ (s : State), ∃ (path : Path), ∃ (w : Word), ∃ port, ∃ a, a = ETHx_CBS (portIx port) ∧ takes s path a = true ∧
      ETHx_CBS_IDLE_SLOPE.get w ≤ s.rate port ∧ (ETHx_CBS_EN.get w = 1 → ETHx_CBS_IDLE_SLOPE.get w ≠ 0)) ∧
    (∃ (s : State), ∃ (path : Path), ∃ (w : Word), ∃ port, ∃ a, a = ETHx_CBS (portIx port) ∧ takes s path a = true ∧
      s.rate port < ETHx_CBS_IDLE_SLOPE.get w) ∧
    (∃ (s : State), ∃ (path : Path), ∃ (w : Word), ∃ (c : Nat), ∃ (k : Nat), ∃ a, c < 16 ∧ (dmaConfigRegs c)[k]? = some a ∧
      takes s path a = true ∧ s.dmaEn c = false ∧ (k = 0 → DMA_CH_CFG_REQ.get w < 6 ∧ DMA_CH_CFG_DWIDTH.get w < 5 ∧ DMA_CH_CFG_SWIDTH.get w < 5)) ∧
    (∃ (s : State), ∃ (path : Path), ∃ (c : Nat), ∃ (k : Nat), ∃ a, c < 16 ∧ (dmaConfigRegs c)[k]? = some a ∧ takes s path a = true ∧
      s.dmaEn c = true) ∧
    (∃ (s : State), ∃ (path : Path), ∃ (w : Word), ∃ j, ∃ a, a = ESF_EXP_WT j ∧ j < 4 ∧ takes s path a = true ∧ s.dev ≠ .scanning ∧ (∀ m < 4,
      s.floor (4 * j + m) ≤ bits w.toNat (8 * m) 8)) ∧
    (∃ (s : State), ∃ (path : Path), ∃ j, ∃ a, a = ESF_EXP_WT j ∧ j < 4 ∧ takes s path a = true ∧ s.dev = .scanning) ∧
    (∃ (s : State), ∃ (path : Path), ∃ (w : Word), ∃ a, ∃ b, ∃ c, ∃ ix, ∃ t, domainOf a = some 0 ∧ takes s path a = true ∧ a % 4 = 0 ∧
      blkOf a = some b ∧ cardAt a = some (c, ix) ∧ s.blockWrite b (c.wrOf ix s a w (BitVec.ofNat 32 0xFFFFFFFF)) = (.done, t)) :=
  ⟨⟨idle, .cmd, 5, by decide +kernel, by decide +kernel, by decide +kernel⟩,
    ⟨{ (up 2).setF (SRV_LP_CTRL 5) SRV_LP_CTRL_MODE 1 with srv := { loops := [(5, { running := true })] } }, .cmd, 5, by decide +kernel,
      by decide +kernel, by decide +kernel⟩,
    ⟨idle, .cmd, SRV_TICK_PERIOD.set 0 1250, by decide +kernel, by decide +kernel, by decide +kernel⟩,
    ⟨idle.setF (SRV_LP_CTRL 5) SRV_LP_CTRL_MODE 1, .cmd, by decide +kernel, by decide +kernel⟩,
    ⟨idle, .cmd, 0, 5, SRV_LP_NC 5 1 4, by decide +kernel, by decide +kernel, by decide +kernel, by decide +kernel⟩,
    ⟨{ (up 2).setF (SRV_LP_CTRL 5) SRV_LP_CTRL_MODE 1 with srv := { loops := [(5, { running := true })] } }, .cmd, 5, SRV_LP_OOFS 5,
      by decide +kernel, by decide +kernel, by decide +kernel, by decide +kernel⟩,
    ⟨idle, .cmd, 1, 1, 1023, _, rfl, by decide +kernel, by decide +kernel, by decide +kernel, by decide +kernel, by decide +kernel⟩,
    ⟨{ (up 2).setF (SRV_LP_CTRL 1) SRV_LP_CTRL_MODE 0 with srv := { loops := [(1, { running := true })] } }, .cmd, 1, 0, 1023, _, rfl,
      by decide +kernel, by decide +kernel, by decide +kernel, by decide +kernel, by decide +kernel, by decide +kernel⟩,
    ⟨idle, .cmd, MAD_TIMER, by decide +kernel, by decide +kernel, by decide +kernel⟩,
    ⟨idle.setF MAD_SEQ_STAT MAD_SEQ_STAT_RUN 1, .cmd, MAD_TIMER, by decide +kernel, by decide +kernel, by decide +kernel⟩,
    ⟨idle, .cmd, 63, 63, MAD_ENTRY3 63, by decide +kernel, by decide +kernel, by decide +kernel, by decide +kernel⟩,
    ⟨idle, .cmd, MFC_CH_CFG_DEC_LOG2.set 0 8, 7, MFC_CH_CFG 7, by decide +kernel, by decide +kernel, by decide +kernel, by decide +kernel⟩,
    ⟨idle.setF (MFC_CH_CTRL 7) MFC_CH_CTRL_EN 1, .cmd, 7, MFC_CH_CFG 7, by decide +kernel, by decide +kernel, by decide +kernel,
      by decide +kernel⟩,
    ⟨idle, .cmd, 0, 3, EVR_MSK_ENV 3 31, by decide +kernel, by decide +kernel, by decide +kernel, by decide +kernel⟩,
    ⟨idle.setF (EVR_MSK_CFG 3) EVR_MSK_CFG_EN 1, .cmd, 3, EVR_MSK_SRC 3, by decide +kernel, by decide +kernel, by decide +kernel,
      by decide +kernel⟩,
    ⟨idle, .cmd, EVR_MSK_CFG_REF.set 0 4, 3, EVR_MSK_CFG 3, by decide +kernel, by decide +kernel, by decide +kernel, by decide +kernel,
      by decide +kernel, by decide +kernel⟩,
    ⟨idle, .cmd, 1280, .B, 0, _, rfl, by decide +kernel, by decide +kernel⟩,
    ⟨idle, .cmd, 0, .B, _, rfl, by decide +kernel, by decide +kernel, by decide +kernel⟩,
    ⟨idle, .cmd, ETHx_CBS_IDLE_SLOPE.set 0 0xFFFF, .B, _, rfl, by decide +kernel, by decide +kernel⟩,
    ⟨idle, .cmd, 0, 15, 8, _, by decide +kernel, rfl, by decide +kernel, by decide +kernel, by decide +kernel⟩,
    ⟨idle.setF (DMA_CH_CTRL 15) DMA_CH_CTRL_EN 1, .cmd, 15, 8, _, by decide +kernel, rfl, by decide +kernel, by decide +kernel⟩,
    ⟨idle, .cmd, 0x01010101, 3, _, rfl, by decide +kernel, by decide +kernel, by decide +kernel, by decide +kernel⟩,
    ⟨scan, .cmd, 3, _, rfl, by decide +kernel, by decide +kernel, by decide +kernel⟩,
    ⟨idle, .cmd, 0, THM_LIM0, _, _, _, _, by decide +kernel, by decide +kernel, by decide +kernel, rfl, rfl, rfl⟩⟩

/-- The hypotheses of Obligations.CounterClears can be met. -/
theorem witness_CounterClears :
    (∃ (s : State), ∃ (path : Path), canonical s = true ∧ takes s path SRV_STATUS = true) ∧
    (∃ (s : State), ∃ (path : Path), canonical s = true ∧ takes s path MAD_CTRL = true) ∧
    (∃ (s : State), ∃ (path : Path), canonical s = true ∧ takes s path MFC_STATUS = true) ∧
    (∃ (s : State), ∃ (path : Path), canonical s = true ∧ takes s path EVR_CTRL = true) ∧
    (∃ (s : State), ∃ (path : Path), ∃ port, canonical s = true ∧ takes s path (ETHx_CNT_CLR (portIx port)) = true) ∧
    (∃ (s : State), ∃ (path : Path), canonical s = true ∧ takes s path (ETHx_CNT_CLR 0) = true ∧ s.domOn 10 = true) ∧
    (∃ (s : State), ∃ (path : Path), canonical s = true ∧ takes s path TIM_STATUS = true) ∧
    (∃ (s : State), ∃ (path : Path), ∃ l, canonical s = true ∧ l < 4 ∧ takes s path (WFL_CNT_CLR l) = true) ∧
    (∃ (s : State), ∃ (path : Path), canonical s = true ∧ takes s path HNG_CNT_CLR = true) ∧
    (∃ (s : State), ∃ (path : Path), canonical s = true ∧ takes s path DMA_Q_CTRL = true) ∧
    (∃ (s : State), ∃ (path : Path), canonical s = true ∧ takes s path CAL_POLICY = true) ∧
    (∃ (s : State), ∃ (path : Path), canonical s = true ∧ takes s path THM_STATE = true) :=
  ⟨⟨idle, .cmd, by decide +kernel, by decide +kernel⟩,
    ⟨idle, .cmd, by decide +kernel, by decide +kernel⟩,
    ⟨idle, .cmd, by decide +kernel, by decide +kernel⟩,
    ⟨idle, .cmd, by decide +kernel, by decide +kernel⟩,
    ⟨idle, .cmd, .B, by decide +kernel, by decide +kernel⟩,
    ⟨idle, .cmd, by decide +kernel, by decide +kernel, by decide +kernel⟩,
    ⟨idle, .cmd, by decide +kernel, by decide +kernel⟩,
    ⟨idle, .cmd, 3, by decide +kernel, by decide +kernel, by decide +kernel⟩,
    ⟨idle, .cmd, by decide +kernel, by decide +kernel⟩,
    ⟨idle, .cmd, by decide +kernel, by decide +kernel⟩,
    ⟨idle, .cmd, by decide +kernel, by decide +kernel⟩,
    ⟨idle, .cmd, by decide +kernel, by decide +kernel⟩⟩

/-- The hypotheses of Obligations.ServoWrites can be met. -/
theorem witness_ServoWrites :
    (∃ (s : State), ∃ (path : Path), ∃ x, x < 6 ∧ takes s path (SRV_LP_CTRL x) = true) ∧
    (∃ (s : State), ∃ (path : Path), ∃ x, x < 2 ∧ takes s path (SRV_LP_TRAJ x) = true ∧ s.f (SRV_LP_TRAJ x) SRV_LP_TRAJ_LEN ≤ 1024) ∧
    (∃ (s : State), ∃ (path : Path), canonical s = true ∧ takes s path SRV_CTRL = true ∧ s.f SRV_CTRL SRV_CTRL_IDX_SRC ≠ 3) ∧
    (∃ (s : State), ∃ (path : Path), canonical s = true ∧ takes s path SRV_TRC_CTRL = true ∧ s.f SRV_TRC_CTRL SRV_TRC_CTRL_TRIG ≠ 7 ∧
      s.f SRV_TRC_CTRL SRV_TRC_CTRL_SRC_LOOP < 6) :=
  ⟨⟨idle, .cmd, 5, by decide +kernel, by decide +kernel⟩,
    ⟨idle.setF (SRV_LP_TRAJ 1) SRV_LP_TRAJ_LEN 1024, .cmd, 1, by decide +kernel, by decide +kernel, by decide +kernel⟩,
    ⟨idle, .cmd, by decide +kernel, by decide +kernel, by decide +kernel⟩,
    ⟨idle.setF SRV_TRC_CTRL SRV_TRC_CTRL_SRC_LOOP 5, .cmd, by decide +kernel, by decide +kernel, by decide +kernel, by decide +kernel⟩⟩

/-- The hypotheses of Obligations.MonitorFilterRecorderWrites can be met. -/
theorem witness_MonitorFilterRecorderWrites :
    (∃ (s : State), ∃ (path : Path), canonical s = true ∧ takes s path MAD_CTRL = true) ∧
    (∃ (s : State), ∃ (path : Path), canonical s = true ∧ takes s path MAD_CTRL = true ∧ s.f MAD_CTRL MAD_CTRL_SEQ_EN = 0) ∧
    (∃ (s : State), ∃ (path : Path), canonical s = true ∧ takes s path MAD_CTRL = true ∧ s.f MAD_CTRL MAD_CTRL_SEQ_EN = 1) ∧
    (∃ (s : State), ∃ (path : Path), canonical s = true ∧ takes s path MAD_CTRL = true) ∧
    (∃ (s : State), ∃ (path : Path), ∃ w, canonical s = true ∧ takes s path MAD_INJ = true ∧
      codeLegal (MAD_INJ_CODE.get w) (MAD_INJ_DIFF.get w == 1) = true) ∧
    (∃ (s : State), ∃ (path : Path), ∃ w, canonical s = true ∧ takes s path MAD_INJ = true ∧
      codeLegal (MAD_INJ_CODE.get w) (MAD_INJ_DIFF.get w == 1) = false) ∧
    (∃ (s : State), ∃ (path : Path), ∃ m, canonical s = true ∧ takes s path Reg.MFC_SYNC = true ∧ m < 256) ∧
    (∃ (s : State), ∃ (path : Path), ∃ c, canonical s = true ∧ c < 8 ∧ takes s path (MFC_CH_CTRL c) = true) ∧
    (∃ (s : State), ∃ (path : Path), canonical s = true ∧ takes s path EVR_CTRL = true) ∧
    (∃ (s : State), ∃ (path : Path), ∃ m, canonical s = true ∧ takes s path EVR_SEG_FREE = true ∧ m < 256) :=
  ⟨⟨idle, .cmd, by decide +kernel, by decide +kernel⟩,
    ⟨idle, .cmd, by decide +kernel, by decide +kernel, by decide +kernel⟩,
    ⟨idle.setF MAD_CTRL MAD_CTRL_SEQ_EN 1, .cmd, by decide +kernel, by decide +kernel, by decide +kernel⟩,
    ⟨idle, .cmd, by decide +kernel, by decide +kernel⟩,
    ⟨idle, .cmd, 0, by decide +kernel, by decide +kernel, by decide +kernel⟩,
    ⟨idle, .cmd, MAD_INJ_CODE.set 0 31, by decide +kernel, by decide +kernel, by decide +kernel⟩,
    ⟨idle, .cmd, 255, by decide +kernel, by decide +kernel, by decide +kernel⟩,
    ⟨idle, .cmd, 7, by decide +kernel, by decide +kernel, by decide +kernel⟩,
    ⟨idle, .cmd, by decide +kernel, by decide +kernel⟩,
    ⟨idle, .cmd, 255, by decide +kernel, by decide +kernel, by decide +kernel⟩⟩

/-- The hypotheses of Obligations.OutwardBlockWrites can be met. -/
theorem witness_OutwardBlockWrites :
    (∃ (s : State), ∃ (u : State), ∃ (path : Path), ∃ port, u = s.setF (ETHx_CTRL (portIx port)) ETHx_CTRL_EN 1 ∧
      takes s path (ETHx_CTRL (portIx port)) = true ∧ s.lineMode port ≤ 5 ∧ s.fb (ETHx_CTRL (portIx port)) ETHx_CTRL_EN = false ∧
      s.prpFits (u.rd (ETHx_CTRL (portIx port))) port = true ∧ canonical s = true) ∧
    (∃ (s : State), ∃ (path : Path), ∃ port, takes s path (ETHx_CTRL (portIx port)) = true ∧ s.lineMode port ≤ 5 ∧
      s.fb (ETHx_CTRL (portIx port)) ETHx_CTRL_EN = true) ∧
    (∃ (s : State), ∃ (path : Path), ∃ port, ∃ m, takes s path (ETHx_CTRL (portIx port)) = true ∧
      s.fb (ETHx_CTRL (portIx port)) ETHx_CTRL_EN = false ∧ m ≤ 5) ∧
    (∃ (s : State), ∃ (path : Path), ∃ port, ∃ m, takes s path (ETHx_CTRL (portIx port)) = true ∧
      s.fb (ETHx_CTRL (portIx port)) ETHx_CTRL_EN = false ∧ 5 < m ∧ m < 8) ∧
    (∃ (s : State), ∃ (path : Path), ∃ k, k < 4 ∧ takes s path (TIM_EVOUT_CFG k) = true ∧ s.f (TIM_EVOUT_CFG k) TIM_EVOUT_CFG_EN = 0) ∧
    (∃ (s : State), ∃ (path : Path), ∃ l, l < 4 ∧ takes s path (WFL_CTRL l) = true ∧ s.fb (WFL_CTRL l) WFL_CTRL_EN = false) ∧
    (∃ (s : State), ∃ (path : Path), ∃ l, l < 4 ∧ takes s path (WFL_CTRL l) = true ∧ s.fb (WFL_CTRL l) WFL_CTRL_EN = true) ∧
    (∃ (s : State), ∃ (path : Path), ∃ l, ∃ m, l < 4 ∧ takes s path (WFL_TEST l) = true ∧ m < 16 ∧ s.linkState l ≠ 9) ∧
    (∃ (s : State), ∃ (path : Path), takes s path HNG_TAP_CTRL = true ∧ s.tapRefused = false ∧ s.fb HNG_TAP_CTRL HNG_TAP_CTRL_EN = false) ∧
    (∃ (s : State), ∃ (path : Path), takes s path HNG_TAP_CTRL = true) ∧
    (∃ (s : State), ∃ (path : Path), ∃ c, c < 16 ∧ takes s path (DMA_CH_CTRL c) = true ∧ s.dmaEn c = false) ∧
    (∃ (s : State), ∃ (path : Path), ∃ c, c < 16 ∧ takes s path (DMA_CH_CTRL c) = true ∧ s.dmaEn c = true) ∧
    (∃ (s : State), ∃ (path : Path), takes s path DMA_Q_CTRL = true) ∧
    (∃ (s : State), ∃ (path : Path), takes s path DMA_QFILT_CFG = true) ∧
    (∃ (s : State), ∃ (path : Path), ∃ slot, takes s path PMU_BOOT = true ∧ slot < 2) :=
  ⟨⟨idle, _, .cmd, .B, rfl, by decide +kernel, by decide +kernel, by decide +kernel, by decide +kernel, by decide +kernel⟩,
    ⟨idle.setF (ETHx_CTRL 1) ETHx_CTRL_EN 1, .cmd, .B, by decide +kernel, by decide +kernel, by decide +kernel⟩,
    ⟨idle, .cmd, .B, 5, by decide +kernel, by decide +kernel, by decide +kernel⟩,
    ⟨idle, .cmd, .B, 6, by decide +kernel, by decide +kernel, by decide +kernel, by decide +kernel⟩,
    ⟨idle, .cmd, 3, by decide +kernel, by decide +kernel, by decide +kernel⟩,
    ⟨idle, .cmd, 3, by decide +kernel, by decide +kernel, by decide +kernel⟩,
    ⟨idle.setF (WFL_CTRL 3) WFL_CTRL_EN 1, .cmd, 3, by decide +kernel, by decide +kernel, by decide +kernel⟩,
    ⟨idle, .cmd, 3, 15, by decide +kernel, by decide +kernel, by decide +kernel, by decide +kernel⟩,
    ⟨idle.wr (HNG_TAP_MASK 0) 1, .cmd, by decide +kernel, by decide +kernel, by decide +kernel⟩,
    ⟨idle, .cmd, by decide +kernel⟩,
    ⟨idle, .cmd, 15, by decide +kernel, by decide +kernel, by decide +kernel⟩,
    ⟨idle.setF (DMA_CH_CTRL 15) DMA_CH_CTRL_EN 1, .cmd, 15, by decide +kernel, by decide +kernel, by decide +kernel⟩,
    ⟨idle, .cmd, by decide +kernel⟩,
    ⟨idle, .cmd, by decide +kernel⟩,
    ⟨idle, .cmd, 1, by decide +kernel, by decide +kernel⟩⟩

/-- The hypotheses of Obligations.ServoHappenings can be met. -/
theorem witness_ServoHappenings :
    (∃ (s : State), s.srv.running = true ∧ s.pllC = true) ∧
    (∃ (s : State), (s.srv.running = false ∨ s.pllC = false)) ∧
    (∃ (s : State), ∃ (u : State), ∃ (v : State), ∃ x, ∃ fb, u = s.trajArrive x ∧
      v = u.setF (SRV_LP_STAT x) SRV_LP_STAT_STATE (if u.fb (SRV_LP_CTRL x) SRV_LP_CTRL_MODE then 2 else 1) ∧ s.tripDue x = false ∧
      s.sampleDue x = true ∧ u.f (SRV_LP_STAT x) SRV_LP_STAT_STATE ≠ 3 ∧ v.feedback x = some fb) ∧
    (∃ (s : State), ∃ (u : State), ∃ (v : State), ∃ x, u = s.trajArrive x ∧
      v = u.setF (SRV_LP_STAT x) SRV_LP_STAT_STATE (if u.fb (SRV_LP_CTRL x) SRV_LP_CTRL_MODE then 2 else 1) ∧ s.tripDue x = false ∧
      s.sampleDue x = true ∧ u.f (SRV_LP_STAT x) SRV_LP_STAT_STATE ≠ 3 ∧ v.feedback x = none) ∧
    (∃ (s : State), ∃ x, s.tripDue x = true) ∧
    (∃ (s : State), ∃ x, s.tripDue x = false) ∧
    (∃ (s : State), s.fb SRV_WIN_STAT SRV_WIN_STAT_IN = true ∧ s.f SRV_WIN_CFG SRV_WIN_CFG_DEB_OUT ≤ s.srv.badRun ∧ 1 ≤ s.srv.badRun) ∧
    (∃ (s : State), s.fb SRV_WIN_STAT SRV_WIN_STAT_IN = false ∧ s.srv.running = true ∧ s.srv.rampLeft = none ∧
      s.f SRV_WIN_CFG SRV_WIN_CFG_DEB_IN ≤ s.srv.goodRun ∧ 1 ≤ s.srv.goodRun) ∧
    (∃ (s : State), s.srv.running = true ∧ s.srv.rampLeft = some 0) ∧
    (∃ (s : State), s.f SRV_TRC_STAT SRV_TRC_STAT_STATE = 2 ∧ s.tracePost ≤ s.srv.trcAfter) :=
  ⟨⟨{ idle with srv := { running := true } }, by decide +kernel, by decide +kernel⟩,
    ⟨idle, by decide +kernel⟩,
    ⟨{ (up 2).setF (SRV_LP_CFG 5) SRV_LP_CFG_FBSRC 1 with srv := { running := true, ticks := 1, results := [(0, 5)], loops := [(5, { running := true })] } },
      _, _, 5, _, rfl, rfl, by decide +kernel, by decide +kernel, by decide +kernel, rfl⟩,
    ⟨{ (up 2).setF (SRV_LP_CFG 5) SRV_LP_CFG_FBSRC 2 with srv := { running := true, ticks := 1, results := [(0, 5)], loops := [(5, { running := true })] } },
      _, _, 5, rfl, rfl, by decide +kernel, by decide +kernel, by decide +kernel, by decide +kernel⟩,
    ⟨{ (up 2).setF (SRV_LP_CTRL 5) SRV_LP_CTRL_MODE 1 with srv := { loops := [(5, { invalid := 4 })] } }, 5, by decide +kernel⟩,
    ⟨idle, 5, by decide +kernel⟩,
    ⟨{ ((up 2).setF SRV_WIN_STAT SRV_WIN_STAT_IN 1).setF SRV_WIN_CFG SRV_WIN_CFG_DEB_OUT 1 with srv := { badRun := 1 } }, by decide +kernel,
      by decide +kernel, by decide +kernel⟩,
    ⟨{ (up 2).setF SRV_WIN_CFG SRV_WIN_CFG_DEB_IN 1 with srv := { running := true, goodRun := 1 } }, by decide +kernel, by decide +kernel,
      by decide +kernel, by decide +kernel, by decide +kernel⟩,
    ⟨{ idle with srv := { running := true, rampLeft := some 0 } }, by decide +kernel, by decide +kernel⟩,
    ⟨{ (up 2).setF SRV_TRC_STAT SRV_TRC_STAT_STATE 2 with srv := { trcAfter := 65536 } }, by decide +kernel, by decide +kernel⟩⟩

/-- The hypotheses of Obligations.EncoderInputs can be met. -/
theorem witness_EncoderInputs :
    (∃ (s : State), (s.domOn 12 = false ∨ s.fb SRV_ENC_CFG SRV_ENC_CFG_EN = false)) ∧
    (∃ (s : State), ∃ (a : Bool), ∃ (b : Bool), s.domOn 12 = true ∧ s.fb SRV_ENC_CFG SRV_ENC_CFG_EN = true ∧ a ≠ s.pin.quadA ∧ b ≠ s.pin.quadB) ∧
    (∃ (s : State), ∃ (a : Bool), s.domOn 12 = true ∧ s.fb SRV_ENC_CFG SRV_ENC_CFG_EN = true ∧ a ≠ s.pin.quadA) ∧
    (∃ (s : State), ∃ (b : Bool), s.domOn 12 = true ∧ s.fb SRV_ENC_CFG SRV_ENC_CFG_EN = true ∧ b ≠ s.pin.quadB) ∧
    (∃ (s : State), s.domOn 12 = true ∧ s.fb SRV_ENC_CFG SRV_ENC_CFG_EN = true) ∧
    (∃ (s : State), s.domOn 12 = true) ∧
    (∃ (s : State), s.domOn 12 = false) :=
  ⟨⟨idle, by decide +kernel⟩,
    ⟨idle.setF SRV_ENC_CFG SRV_ENC_CFG_EN 1, false, false, by decide +kernel, by decide +kernel, by decide +kernel, by decide +kernel⟩,
    ⟨idle.setF SRV_ENC_CFG SRV_ENC_CFG_EN 1, false, by decide +kernel, by decide +kernel, by decide +kernel⟩,
    ⟨idle.setF SRV_ENC_CFG SRV_ENC_CFG_EN 1, false, by decide +kernel, by decide +kernel, by decide +kernel⟩,
    ⟨idle.setF SRV_ENC_CFG SRV_ENC_CFG_EN 1, by decide +kernel, by decide +kernel⟩,
    ⟨idle, by decide +kernel⟩,
    ⟨idle.setF PMU_PD_STAT PMU_PD_STAT_ON 0, by decide +kernel⟩⟩

/-- The hypotheses of Obligations.MonitorHappenings can be met. -/
theorem witness_MonitorHappenings :
    (∃ (s : State), ∃ t, s.refDue = some t ∧ s.fb MAD_STATUS MAD_STATUS_REF_RDY = false) ∧
    (∃ (s : State), ∃ e, ∃ cs, e = s.f MAD_SEQ_STAT MAD_SEQ_STAT_ENTRY ∧ cs = s.entryConvs e ∧ s.domOn 13 = true ∧
      s.fb MAD_SEQ_STAT MAD_SEQ_STAT_RUN = true ∧ s.fb MAD_SEQ_STAT MAD_SEQ_STAT_WAITING = false ∧ (cs = [] ∨ s.refReady = true)) ∧
    (∃ (s : State), ∃ (t : Nat), ∃ src, ∃ rest, s.mad.triggers = (src, t) :: rest ∧ s.fb MAD_SEQ_STAT MAD_SEQ_STAT_RUN = true ∧
      s.fb MAD_SEQ_STAT MAD_SEQ_STAT_WAITING = true) ∧
    (∃ (s : State), ∃ (t : Nat), ∃ src, ∃ rest, s.mad.triggers = (src, t) :: rest ∧
      (s.fb MAD_SEQ_STAT MAD_SEQ_STAT_RUN = false ∨ s.fb MAD_SEQ_STAT MAD_SEQ_STAT_WAITING = false)) ∧
    (∃ (s : State), ∃ p, p = s.f MAD_TIMER MAD_TIMER_PERIOD ∧ s.domOn 13 = true ∧ p ≠ 0) ∧
    (∃ (s : State), ∃ j, ∃ code, ∃ diff, ∃ done, s.mad.inj = some (j, code, diff, done)) ∧
    (∃ (s : State), ∃ c, ∃ x, ∃ rest, s.mad.inputs = (c, x) :: rest) :=
  ⟨⟨{ idle with mad := { refOn := some 0 } }, _, rfl, by decide +kernel⟩,
    ⟨idle.setF MAD_SEQ_STAT MAD_SEQ_STAT_RUN 1 |>.setF MAD_STATUS MAD_STATUS_REF_RDY 1, _, _, rfl, rfl, by decide +kernel, by decide +kernel,
      by decide +kernel, by decide +kernel⟩,
    ⟨{ ((up 2).setF MAD_SEQ_STAT MAD_SEQ_STAT_RUN 1).setF MAD_SEQ_STAT MAD_SEQ_STAT_WAITING 1 with mad := { triggers := [(3, 5)] } }, 5, 3,
      [], by decide +kernel, by decide +kernel, by decide +kernel⟩,
    ⟨{ idle with mad := { triggers := [(3, 5)] } }, 5, 3, [], by decide +kernel, by decide +kernel⟩,
    ⟨idle.setF MAD_TIMER MAD_TIMER_PERIOD 1, _, rfl, by decide +kernel, by decide +kernel⟩,
    ⟨{ idle with mad := { inj := some (3, 0, false, 9) } }, 3, 0, false, 9, by decide +kernel⟩,
    ⟨{ idle with mad := { inputs := [(7, -5)] } }, 7, -5, [], by decide +kernel⟩⟩

/-- The hypotheses of Obligations.ReturnInputs can be met. -/
theorem witness_ReturnInputs :
    (∃ (s : State), ∃ (u : State), ∃ (n : Nat), ∃ (c : Nat), ∃ (tap : Nat), ∃ t, ∃ l, u = s.toTbs (c * 64 + tap) ∧
      t = u.edgeTime (u.cdWords (n / 4)) c tap ∧ s.inputLive n = true ∧ s.pulse n = none ∧ Sp.find u.tdc.leadAt n = some l ∧ t < l + 192) ∧
    (∃ (s : State), ∃ (u : State), ∃ (n : Nat), ∃ (c : Nat), ∃ (tap : Nat), ∃ t, u = s.toTbs (c * 64 + tap) ∧
      t = u.edgeTime (u.cdWords (n / 4)) c tap ∧ s.inputLive n = true ∧ s.pulse n = none ∧ (∀ l, Sp.find u.tdc.leadAt n = some l → l + 192 ≤ t)) ∧
    (∃ (s : State), ∃ (n : Nat), ∃ p, s.pulse n = some p) ∧
    (∃ (s : State), ∃ (n : Nat), ∃ p, s.pulse n = some p ∧ p.dead = false ∧ p.written = false) ∧
    (∃ (s : State), ∃ (n : Nat), ∃ p, s.pulse n = some p ∧ (p.dead = true ∨ p.written = true)) ∧
    (∃ (s : State), ∃ (n : Nat), ∃ p, s.pulse n = some p ∧ p.dead = false ∧ p.written = false) ∧
    (∃ (s : State), ∃ g, s.inputOn (4 * g) = true) ∧
    (∃ (s : State), ∃ q, q < 4 ∧ s.domOn (6 + q) = true) ∧
    (∃ (s : State), ∃ q, q < 4 ∧ s.domOn (6 + q) = true ∧ s.pllT = true) ∧
    (∃ (s : State), s.tpiOn = true ∧ s.fb TDC_TPI_CTRL TDC_TPI_CTRL_SRC = true ∧ s.f TDC_TPI_CTRL TDC_TPI_CTRL_PERIOD ≠ 0 ∧ s.cal.run = none) ∧
    (∃ (s : State), ∃ t, s.tdc.injAt = some t) :=
  ⟨⟨{ live511 with tdc := { leadAt := [(511, 1000000)] } }, _, 511, 0, 0, _, 1000000, rfl, rfl, by decide +kernel, by decide +kernel,
      by decide +kernel, by decide +kernel⟩,
    ⟨live511, _, 511, 0, 63, _, rfl, rfl, by decide +kernel, by decide +kernel, by intro l h; cases h⟩,
    ⟨{ idle with tdc := { pulses := [(511, { lead := 9 })] } }, 511, { lead := 9 }, by decide +kernel⟩,
    ⟨{ idle with tdc := { pulses := [(511, { lead := 9 })] } }, 511, { lead := 9 }, by decide +kernel, by decide +kernel, by decide +kernel⟩,
    ⟨{ idle with tdc := { pulses := [(511, { lead := 9, dead := true })] } }, 511, { lead := 9, dead := true }, by decide +kernel,
      by decide +kernel⟩,
    ⟨{ idle with tdc := { pulses := [(511, { lead := 9 })] } }, 511, { lead := 9 }, by decide +kernel, by decide +kernel, by decide +kernel⟩,
    ⟨idle, 127, by decide +kernel⟩,
    ⟨idle, 3, by decide +kernel, by decide +kernel⟩,
    ⟨idle, 3, by decide +kernel, by decide +kernel, by decide +kernel⟩,
    ⟨idle.setF TDC_TPI_CTRL TDC_TPI_CTRL_EN 1 |>.setF TDC_TPI_CTRL TDC_TPI_CTRL_SRC 1 |>.setF TDC_TPI_CTRL TDC_TPI_CTRL_PERIOD 1,
      by decide +kernel, by decide +kernel, by decide +kernel, by decide +kernel⟩,
    ⟨{ idle with tdc := { injAt := some 7 } }, 7, by decide +kernel⟩⟩

/-- The hypotheses of Obligations.FireReferences can be met. -/
theorem witness_FireReferences :
    (∃ (s : State), ∃ (k : Nat), ∃ (w : FWin), ∃ c, ∃ tap, ∃ raw, raw = s.edgeTime s.frefCdWords c tap ∧
      (s.tdc.windows.find? (fun w => w.k = k ∧ w.first ≤ raw ∧ raw ≤ w.last) = some w) ∧ w.hit = none ∧ s.frefMode k ≠ 0) ∧
    (∃ (s : State), ∃ (u : State), ∃ (v : State), ∃ (k : Nat), ∃ (w : FWin), ∃ h, u = s.toTbs w.last ∧
      v = { u with tdc := { u.tdc with windows := u.tdc.windows.erase w } } ∧ s.tdc.windows.find? (fun w => w.k = k) = some w ∧
      (v.fir.shots.find? (fun h => h.serial = w.serial ∧ h.ix = w.ix) = some h) ∧ v.frefMode k = 0) ∧
    (∃ (s : State), ∃ (u : State), ∃ (v : State), ∃ (k : Nat), ∃ (w : FWin), ∃ h, ∃ t, ∃ tot, u = s.toTbs w.last ∧
      v = { u with tdc := { u.tdc with windows := u.tdc.windows.erase w } } ∧ s.tdc.windows.find? (fun w => w.k = k) = some w ∧
      (v.fir.shots.find? (fun h => h.serial = w.serial ∧ h.ix = w.ix) = some h) ∧ v.frefMode k ≠ 0 ∧ w.hit = some (t, tot)) ∧
    (∃ (s : State), ∃ (u : State), ∃ (v : State), ∃ (k : Nat), ∃ (w : FWin), ∃ h, u = s.toTbs w.last ∧
      v = { u with tdc := { u.tdc with windows := u.tdc.windows.erase w } } ∧ s.tdc.windows.find? (fun w => w.k = k) = some w ∧
      (v.fir.shots.find? (fun h => h.serial = w.serial ∧ h.ix = w.ix) = some h) ∧ v.frefMode k ≠ 0 ∧ w.hit = none) :=
  ⟨⟨{ (up 4).setF (TDC_FREF_CFG 3) TDC_FREF_CFG_MODE 1 with tdc := { windows := [{ k := 3, serial := 1, ix := 0, edge := 0, first := 0, last := 1000000, primary := true }] }, fir := { shots := [{ serial := 1, set := 0, ix := 0, dither := 0, segmask := 1, edge := 0, fire := 0 }] } },
      3, { k := 3, serial := 1, ix := 0, edge := 0, first := 0, last := 1000000, primary := true }, 0, 0, _, rfl, by decide +kernel,
      by decide +kernel, by decide +kernel⟩,
    ⟨{ (up 4).setF (TDC_FREF_CFG 3) TDC_FREF_CFG_MODE 0 with tdc := { windows := [{ k := 3, serial := 1, ix := 0, edge := 0, first := 0, last := 1000000, primary := true }] }, fir := { shots := [{ serial := 1, set := 0, ix := 0, dither := 0, segmask := 1, edge := 0, fire := 0 }] } },
      _, _, 3, { k := 3, serial := 1, ix := 0, edge := 0, first := 0, last := 1000000, primary := true }, _, rfl, rfl, by decide +kernel, rfl,
      by decide +kernel⟩,
    ⟨{ (up 4).setF (TDC_FREF_CFG 3) TDC_FREF_CFG_MODE 1 with tdc := { windows := [{ k := 3, serial := 1, ix := 0, edge := 0, first := 0, last := 1000000, primary := true, hit := some (5, 7) }] }, fir := { shots := [{ serial := 1, set := 0, ix := 0, dither := 0, segmask := 1, edge := 0, fire := 0 }] } },
      _, _, 3, { k := 3, serial := 1, ix := 0, edge := 0, first := 0, last := 1000000, primary := true, hit := some (5, 7) }, _, 5, 7, rfl, rfl,
      by decide +kernel, rfl, by decide +kernel, by decide +kernel⟩,
    ⟨{ (up 4).setF (TDC_FREF_CFG 3) TDC_FREF_CFG_MODE 1 with tdc := { windows := [{ k := 3, serial := 1, ix := 0, edge := 0, first := 0, last := 1000000, primary := true }] }, fir := { shots := [{ serial := 1, set := 0, ix := 0, dither := 0, segmask := 1, edge := 0, fire := 0 }] } },
      _, _, 3, { k := 3, serial := 1, ix := 0, edge := 0, first := 0, last := 1000000, primary := true }, _, rfl, rfl, by decide +kernel, rfl,
      by decide +kernel, by decide +kernel⟩⟩

/-- The hypotheses of Obligations.TumblerHappenings can be met. -/
theorem witness_TumblerHappenings :
    (∃ (s : State), ∃ (u : State), ∃ (v : State), ∃ n, ∃ e, ∃ rest,
      u = s.at_ (match Sp.find s.tdc.taken n with | some t => t + 256 | none => 0) ∧
      v = { u with tdc := { u.tdc with fifo := Sp.put (fun _ => []) u.tdc.fifo n rest, taken := Sp.ins u.tdc.taken n u.tm.now } } ∧
      Sp.get (fun _ => []) s.tdc.fifo n = e :: rest ∧ s.inputOn n = true ∧ v.bypass (n / 4) = true) ∧
    (∃ (s : State), ∃ (u : State), ∃ (v : State), ∃ n, ∃ e, ∃ rest,
      u = s.at_ (match Sp.find s.tdc.taken n with | some t => t + 256 | none => 0) ∧
      v = { u with tdc := { u.tdc with fifo := Sp.put (fun _ => []) u.tdc.fifo n rest, taken := Sp.ins u.tdc.taken n u.tm.now } } ∧
      Sp.get (fun _ => []) s.tdc.fifo n = e :: rest ∧ s.inputOn n = true ∧ v.bypass (n / 4) = false ∧
      e.tot < v.ef (TMB_GRP_CFG (n / 4)) TMB_GRP_CFG_TOT_MIN) ∧
    (∃ (s : State), ∃ (u : State), ∃ (v : State), ∃ n, ∃ e, ∃ rest,
      u = s.at_ (match Sp.find s.tdc.taken n with | some t => t + 256 | none => 0) ∧
      v = { u with tdc := { u.tdc with fifo := Sp.put (fun _ => []) u.tdc.fifo n rest, taken := Sp.ins u.tdc.taken n u.tm.now } } ∧
      Sp.get (fun _ => []) s.tdc.fifo n = e :: rest ∧ s.inputOn n = true ∧ v.bypass (n / 4) = false ∧
      v.ef (TMB_GRP_CFG (n / 4)) TMB_GRP_CFG_TOT_MIN ≤ e.tot) ∧
    (∃ (s : State), ∃ (u : State), ∃ (v : State), ∃ p, ∃ g, ∃ w, ∃ mine, ∃ c, ∃ ps, ∃ x, g = p / 4 ∧ w = s.coWin g ∧
      mine = (s.pool g).filter (fun x => s.primary x.ev.chan = p) ∧ u = s.at_ (c.entry + w + 256) ∧
      v = (if (match Sp.find u.tmb.prevCand p with | some t => decide (c.ev.time < t) | none => false) then u.addSat (TMB_GRP_ORDER g) TMB_GRP_ORDER_ORDER 1 else u) ∧
      ps = (((List.range (x.grpWidth g)).map (p + ·)).filter (· ≠ c.ev.chan)).filterMap (partnerOf mine (c.entry + w + 256) c.ev.time w) ∧
      mine.find? (fun x => !x.decided) = some c ∧ x = { v with tmb := { v.tmb with prevCand := Sp.ins v.tmb.prevCand p c.ev.time } } ∧
      1 + ps.length < x.demand p) ∧
    (∃ (s : State), ∃ (u : State), ∃ (v : State), ∃ p, ∃ g, ∃ w, ∃ mine, ∃ c, ∃ ps, ∃ x, ∃ y, ∃ t, g = p / 4 ∧ w = s.coWin g ∧
      mine = (s.pool g).filter (fun x => s.primary x.ev.chan = p) ∧ u = s.at_ (c.entry + w + 256) ∧
      v = (if (match Sp.find u.tmb.prevCand p with | some t => decide (c.ev.time < t) | none => false) then u.addSat (TMB_GRP_ORDER g) TMB_GRP_ORDER_ORDER 1 else u) ∧
      ps = (((List.range (x.grpWidth g)).map (p + ·)).filter (· ≠ c.ev.chan)).filterMap (partnerOf mine (c.entry + w + 256) c.ev.time w) ∧
      y = x.setPool g (poolWithout (x.pool g) (c :: ps)) ∧ mine.find? (fun x => !x.decided) = some c ∧
      x = { v with tmb := { v.tmb with prevCand := Sp.ins v.tmb.prevCand p c.ev.time } } ∧ x.demand p ≤ 1 + ps.length ∧
      Sp.find y.tmb.lastOut p = some t ∧ y.tm.now < t + 256) ∧
    (∃ (s : State), ∃ (u : State), ∃ (v : State), ∃ p, ∃ g, ∃ w, ∃ mine, ∃ c, ∃ ps, ∃ x, ∃ y, g = p / 4 ∧ w = s.coWin g ∧
      mine = (s.pool g).filter (fun x => s.primary x.ev.chan = p) ∧ u = s.at_ (c.entry + w + 256) ∧
      v = (if (match Sp.find u.tmb.prevCand p with | some t => decide (c.ev.time < t) | none => false) then u.addSat (TMB_GRP_ORDER g) TMB_GRP_ORDER_ORDER 1 else u) ∧
      ps = (((List.range (x.grpWidth g)).map (p + ·)).filter (· ≠ c.ev.chan)).filterMap (partnerOf mine (c.entry + w + 256) c.ev.time w) ∧
      y = x.setPool g (poolWithout (x.pool g) (c :: ps)) ∧ mine.find? (fun x => !x.decided) = some c ∧
      x = { v with tmb := { v.tmb with prevCand := Sp.ins v.tmb.prevCand p c.ev.time } } ∧ x.demand p ≤ 1 + ps.length ∧ (∀ t,
      Sp.find y.tmb.lastOut p = some t → t + 256 ≤ y.tm.now)) ∧
    (∃ (s : State), ∃ p, ∃ g, ∃ c, g = p / 4 ∧ ((s.pool g).find? (fun x => s.primary x.ev.chan = p ∧ x.decided) = some c)) ∧
    (∃ (s : State), ∃ t, ∃ len, ∃ stolen, s.tmb.gate = some (t, len, stolen)) ∧
    (∃ (s : State), s.dev ≠ .scanning ∧ s.dev ≠ .off ∧ s.dev ≠ .boot ∧ s.fb TMB_CTRL TMB_CTRL_FREE_RUN = true) :=
  ⟨⟨{ (up 4).setF (TMB_GRP_CFG 127) TMB_GRP_CFG_BYPASS 1 with tdc := { fifo := [(511, [{ chan := 511, time := 100, tot := 50 }])] } }, _, _,
      511, { chan := 511, time := 100, tot := 50 }, [], rfl, rfl, by decide +kernel, by decide +kernel, by decide +kernel⟩,
    ⟨{ ((up 4).setF (TMB_GRP_CFG 127) TMB_GRP_CFG_BYPASS 0).setF (TMB_GRP_CFG 127) TMB_GRP_CFG_TOT_MIN 51 with tdc := { fifo := [(511, [{ chan := 511, time := 100, tot := 50 }])] } },
      _, _, 511, { chan := 511, time := 100, tot := 50 }, [], rfl, rfl, by decide +kernel, by decide +kernel, by decide +kernel,
      by decide +kernel⟩,
    ⟨{ ((up 4).setF (TMB_GRP_CFG 127) TMB_GRP_CFG_BYPASS 0).setF (TMB_GRP_CFG 127) TMB_GRP_CFG_TOT_MIN 50 with tdc := { fifo := [(511, [{ chan := 511, time := 100, tot := 50 }])] } },
      _, _, 511, { chan := 511, time := 100, tot := 50 }, [], rfl, rfl, by decide +kernel, by decide +kernel, by decide +kernel,
      by decide +kernel⟩,
    ⟨{ (up 4).setF (TMB_GRP_CFG 127) TMB_GRP_CFG_KMIN_M1 1 |>.setF (TMB_GRP_CFG 127) TMB_GRP_CFG_WIDTH 2 with tmb := { pool := [(127, [{ ev := { chan := 508, time := 100, tot := 50 }, entry := 100 }])] } },
      _, _, 508, _, _, _, _, _, _, rfl, rfl, rfl, rfl, rfl, rfl, rfl, rfl, by decide +kernel⟩,
    ⟨{ up 4 with tmb := { pool := [(127, [{ ev := { chan := 508, time := 100, tot := 50 }, entry := 100 }])], lastOut := [(508, 100000)] } },
      _, _, 508, _, _, _, _, _, _, _, 100000, rfl, rfl, rfl, rfl, rfl, rfl, rfl, rfl, rfl, by decide +kernel, by decide +kernel,
      by decide +kernel⟩,
    ⟨{ up 4 with tmb := { pool := [(127, [{ ev := { chan := 508, time := 100, tot := 50 }, entry := 100 }])] } }, _, _, 508, _, _, _, _, _, _,
      _, rfl, rfl, rfl, rfl, rfl, rfl, rfl, rfl, rfl, by decide +kernel, by intro t h; cases h⟩,
    ⟨{ up 4 with tmb := { pool := [(127, [{ ev := { chan := 508, time := 100, tot := 50 }, entry := 100, decided := true }])] } }, 508, _, _,
      rfl, rfl⟩,
    ⟨{ idle with tmb := { gate := some (64, 64, false) } }, 64, 64, false, by decide +kernel⟩,
    ⟨idle.setF TMB_CTRL TMB_CTRL_FREE_RUN 1, by decide +kernel, by decide +kernel, by decide +kernel, by decide +kernel⟩⟩

/-- The hypotheses of Obligations.FrameCourse can be met. -/
theorem witness_FrameCourse :
    (∃ (s : State), ∃ src, ∃ t, ∃ rest, s.fir.events = (src, t) :: rest) ∧
    (∃ (s : State), s.fir.events = [] ∧ s.scanning = true ∧ s.fsrc = 0 ∧ s.fir.frameOpen = false ∧ s.fir.go = none) ∧
    (∃ (s : State), ∃ t0, ∃ t1, s.fir.sched = some (t0, t1)) ∧
    (∃ (s : State), ∃ t, s.fir.go = some t ∧ s.scanning = true ∧ s.fir.frameOpen = false) ∧
    (∃ (s : State), ∃ (u : State), ∃ ix, ∃ e, ∃ n, ∃ start, ix = s.fir.nextEntry ∧ e = s.active ix ∧
      start = grid (match s.fir.prevStart with | some (a, p) => a + p | none => Nat.max (s.rd64 FIR_FSTART_LO FIR_FSTART_HI) s.fir.chargedAt) ∧
      u = s.toTbs start ∧ n = u.shotsOf e (u.activeNext ix) ix ∧ s.scanning = true ∧ s.fir.frameOpen = true ∧ s.fir.column = none ∧
      s.fir.holding = false ∧ s.esf.charging = false ∧ s.esf.histClear = false ∧ ix < s.columns ∧ s.efb FIR_SEQ FIR_SEQ_CMODE = false ∧ n = 0) ∧
    (∃ (s : State), ∃ (u : State), ∃ ix, ∃ e, ∃ n, ∃ start, ix = s.fir.nextEntry ∧ e = s.active ix ∧
      start = grid (match s.fir.prevStart with | some (a, p) => a + p | none => Nat.max (s.rd64 FIR_FSTART_LO FIR_FSTART_HI) s.fir.chargedAt) ∧
      u = s.toTbs start ∧ n = u.shotsOf e (u.activeNext ix) ix ∧ s.scanning = true ∧ s.fir.frameOpen = true ∧ s.fir.column = none ∧
      s.fir.holding = false ∧ s.esf.charging = false ∧ s.esf.histClear = false ∧ ix < s.columns ∧ s.efb FIR_SEQ FIR_SEQ_CMODE = false ∧ n ≠ 0 ∧
      u.setState u.hge.nextSet ≠ 0) ∧
    (∃ (s : State), ∃ (u : State), ∃ ix, ∃ e, ∃ n, ∃ start, ix = s.fir.nextEntry ∧ e = s.active ix ∧
      start = grid (match s.fir.prevStart with | some (a, p) => a + p | none => Nat.max (s.rd64 FIR_FSTART_LO FIR_FSTART_HI) s.fir.chargedAt) ∧
      u = s.toTbs start ∧ n = u.shotsOf e (u.activeNext ix) ix ∧ s.scanning = true ∧ s.fir.frameOpen = true ∧ s.fir.column = none ∧
      s.fir.holding = false ∧ s.esf.charging = false ∧ s.esf.histClear = false ∧ ix < s.columns ∧ s.efb FIR_SEQ FIR_SEQ_CMODE = false ∧ n ≠ 0 ∧
      u.setState u.hge.nextSet = 0 ∧ u.steal e n = (false, false, u) ∧ u.fir.waited = false) ∧
    (∃ (s : State), s.isMember = true) ∧
    (∃ (s : State), s.isMember = false) ∧
    (∃ (s : State), s.scanning = true ∧ s.fir.frameOpen = true ∧ s.fir.column = none ∧ s.fir.closing = [] ∧ s.fir.anyFired = true ∧
      s.restBlank s.fir.nextEntry = true) :=
  ⟨⟨{ scan with fir := { events := [(3, 9)] } }, 3, 9, [], by decide +kernel⟩,
    ⟨scan, by decide +kernel, by decide +kernel, by decide +kernel, by decide +kernel, by decide +kernel⟩,
    ⟨{ scan with fir := { sched := some (0, 64) } }, 0, 64, by decide +kernel⟩,
    ⟨{ scan with fir := { go := some 64 } }, 64, by decide +kernel, by decide +kernel, by decide +kernel⟩,
    ⟨{ (up 4).setF FIR_WARP_ACT FIR_WARP_ACT_COLUMNS 1 with fir := { frameOpen := true } }, _, _, _, _, _, rfl, rfl, rfl, rfl, rfl,
      by decide +kernel, by decide +kernel, by decide +kernel, by decide +kernel, by decide +kernel, by decide +kernel, by decide +kernel,
      by decide +kernel, by decide +kernel⟩,
    ⟨warped.setF HGE_STATUS HGE_STATUS_SET0 1, _, _, _, _, _, rfl, rfl, rfl, rfl, rfl, by decide +kernel, by decide +kernel,
      by decide +kernel, by decide +kernel, by decide +kernel, by decide +kernel, by decide +kernel, by decide +kernel, by decide +kernel,
      by decide +kernel⟩,
    ⟨warped, _, _, _, _, _, rfl, rfl, rfl, rfl, rfl, by decide +kernel, by decide +kernel, by decide +kernel, by decide +kernel,
      by decide +kernel, by decide +kernel, by decide +kernel, by decide +kernel, by decide +kernel, by decide +kernel, rfl, by decide +kernel⟩,
    ⟨idle.setF HNG_CAS_CFG HNG_CAS_CFG_ROLE 2, by decide +kernel⟩,
    ⟨idle, by decide +kernel⟩,
    ⟨{ scan with fir := { frameOpen := true, anyFired := true } }, by decide +kernel, by decide +kernel, by decide +kernel, by decide +kernel,
      by decide +kernel, by decide +kernel⟩⟩

/-- The hypotheses of Obligations.ShotsAndColumnClose can be met. -/
theorem witness_ShotsAndColumnClose :
    (∃ (s : State), ∃ (u : State), ∃ (v : State), ∃ (c : Column), ∃ lf, ∃ d, ∃ mask, ∃ e1, ∃ e2, ∃ az, ∃ segs,
      u = (if c.fired = 0 then s.releaseColumn else s) ∧ lf = lfsrSteps 11 c.lfsr ∧ d = ditherOf c.dspan lf ∧ mask = u.shotMask c ∧
      e1 = c.start + (c.fired * c.interval + d) * 32 ∧ e2 = (match u.fir.prevEdge with | some p => p + iMin mask * 32 | none => 0) ∧
      v = u.toTbs (Nat.max e1 e2) ∧ az = v.azAt (Nat.max e1 e2) (v.active c.entry).az ∧ segs = v.firing mask c.pset ∧ s.fir.column = some c ∧
      s.scanning = true ∧ v.overCharge (az / 2 ^ 14) segs = true) ∧
    (∃ (s : State), ∃ (u : State), ∃ (v : State), ∃ (c : Column), ∃ lf, ∃ d, ∃ mask, ∃ e1, ∃ e2, ∃ az, ∃ segs,
      u = (if c.fired = 0 then s.releaseColumn else s) ∧ lf = lfsrSteps 11 c.lfsr ∧ d = ditherOf c.dspan lf ∧ mask = u.shotMask c ∧
      e1 = c.start + (c.fired * c.interval + d) * 32 ∧ e2 = (match u.fir.prevEdge with | some p => p + iMin mask * 32 | none => 0) ∧
      v = u.toTbs (Nat.max e1 e2) ∧ az = v.azAt (Nat.max e1 e2) (v.active c.entry).az ∧ segs = v.firing mask c.pset ∧ s.fir.column = some c ∧
      s.scanning = true ∧ v.overCharge (az / 2 ^ 14) segs = false) ∧
    (∃ (s : State), ∃ (c : Column), ∃ rest, s.fir.closing = c :: rest ∧ s.tdc.windows.any (fun w => w.serial = c.serial) = false) :=
  ⟨⟨{ (((up 4).wr (ESF_EXP_LIM 0) 0).wr (ESF_EXP_WT 0) 1).setF (FIR_OUT_CFG 0) FIR_OUT_CFG_EN 1 with fir := { column := some col } }, _, _,
      col, _, _, _, _, _, _, _, rfl, rfl, rfl, rfl, rfl, rfl, rfl, rfl, rfl, by decide +kernel, by decide +kernel, by decide +kernel⟩,
    ⟨{ scan with fir := { column := some col } }, _, _, col, _, _, _, _, _, _, _, rfl, rfl, rfl, rfl, rfl, rfl, rfl, rfl, rfl,
      by decide +kernel, by decide +kernel, by decide +kernel⟩,
    ⟨{ scan with fir := { closing := [col] } }, col, [], by decide +kernel, by decide +kernel⟩⟩

/-- The hypotheses of Obligations.HistogramAndExtraction can be met. -/
theorem witness_HistogramAndExtraction :
    (∃ (s : State), ∃ (u : State), ∃ q, ∃ t, ∃ e, ∃ rest, u = s.at_ t ∧ s.bankFifo q = e :: rest ∧ u.held157 e = true) ∧
    (∃ (s : State), ∃ (u : State), ∃ q, ∃ t, ∃ e, ∃ rest, u = s.at_ t ∧ s.bankFifo q = e :: rest ∧ u.held157 e = false) ∧
    (∃ (s : State), ∃ c, s.toPlace = some c) ∧
    (∃ (s : State), s.esf.histClear = true) ∧
    (∃ (s : State), ∃ c, s.nextScan = some c ∧ s.ext.busy = none ∧ s.domOn 10 = true) ∧
    (∃ (s : State), ∃ set, ∃ out, s.ext.busy = some (set, out) ∧ s.crossing < 1024) ∧
    (∃ (s : State), ∃ set, ∃ out, s.ext.busy = some (set, out) ∧ 1024 ≤ s.crossing) ∧
    (∃ (s : State), ∃ o, ∃ rest, s.ext.out = o :: rest) :=
  ⟨⟨{ scan with hge := { fifo := [(127, [{ chan := 511, time := 100, tot := 50 }])] }, fir := { shots := [{ serial := 1, set := 0, ix := 0, dither := 0, segmask := 1, edge := 0, fire := 0 }] } },
      _, 127, 0, { chan := 511, time := 100, tot := 50 }, [], rfl, by decide +kernel, by decide +kernel⟩,
    ⟨{ scan with hge := { fifo := [(127, [{ chan := 511, time := 100, tot := 50 }])] } }, _, 127, 0, { chan := 511, time := 100, tot := 50 },
      [], rfl, by decide +kernel, by decide +kernel⟩,
    ⟨{ scan with fir := { column := some { col with fired := 3 } } }, _, rfl⟩,
    ⟨{ scan with esf := { histClear := true } }, by decide +kernel⟩,
    ⟨{ (up 4).setF HGE_STATUS HGE_STATUS_SET0 2 with hge := { descs := [(0, col)] } }, _, rfl, by decide +kernel, by decide +kernel⟩,
    ⟨{ scan with ext := { busy := some (0, ⟨0, 0, [], [], 0, 0, 0, 0, true⟩) } }, 0, ⟨0, 0, [], [], 0, 0, 0, 0, true⟩, by decide +kernel,
      by decide +kernel⟩,
    ⟨{ scan with ext := { busy := some (0, ⟨0, 0, [], [], 0, 0, 0, 0, true⟩), out := [⟨0, 0, [], List.replicate 1023 [], 0, 0, 0, 0, true⟩] } },
      0, ⟨0, 0, [], [], 0, 0, 0, 0, true⟩, by decide +kernel, by decide +kernel⟩,
    ⟨{ scan with ext := { out := [⟨0, 0, [], [], 0, 0, 0, 0, true⟩] } }, ⟨0, 0, [], [], 0, 0, 0, 0, true⟩, [], by decide +kernel⟩⟩

/-- The hypotheses of Obligations.SafetyInputs can be met. -/
theorem witness_SafetyInputs :
    (∃ (s : State), ∃ a, ∃ b, s.boot.off = false ∧ ((s.pin.permitA = true ∧ a = false) ∨ (s.pin.permitB = true ∧ b = false))) ∧
    (∃ (s : State), ∃ a, ∃ b, s.boot.off = false ∧ (s.pin.permitA = true → a = true) ∧ (s.pin.permitB = true → b = true)) ∧
    (∃ (s : State), ∃ t, s.esf.diffSince = some t ∧ s.fb ESF_IN ESF_IN_DISC = false) ∧
    (∃ (s : State), ∃ vres, ∃ vmid, ∃ t, s.esf.guard = some (vres, vmid, t) ∧ s.scanning = true ∧ s.esf.charging = true ∧ s.fir.entered ≤ t ∧
      s.resOn ≤ vres) ∧
    (∃ (s : State), s.scanning = true ∧ s.esf.charging = true) ∧
    (∃ (s : State), s.refReady = true) ∧
    (∃ (s : State), ∃ vres, ∃ vmid, ∃ t, s.esf.guard = some (vres, vmid, t) ∧ s.esf.armed = true) ∧
    (∃ (s : State), ∃ code, ∃ n, causeCond code = some n ∧ s.latched code = true ∧ bit (s.f ESF_CTRL ESF_CTRL_AUTOCLR) code = true ∧
      s.cond n = true) ∧
    (∃ (s : State), ∃ w, w < 3 ∧ s.pllT = true) ∧
    (∃ (s : State), runsCommands s.dev = true ∧ s.fb ESF_DIAG ESF_DIAG_WDOG_EXP = false) ∧
    (∃ (s : State), runsCommands s.dev = true) :=
  ⟨⟨{ idle with pin := { permitA := true, permitB := true } }, true, false, by decide +kernel, by decide +kernel⟩,
    ⟨idle, true, false, by decide +kernel, by decide +kernel, by decide +kernel⟩,
    ⟨{ idle with esf := { diffSince := some 5 } }, 5, by decide +kernel, by decide +kernel⟩,
    ⟨{ (up 4).setF ESF_SW_THR1 ESF_SW_THR1_RES_ON 2000 with esf := { guard := some (2000, 0, 7), charging := true } }, 2000, 0, 7,
      by decide +kernel, by decide +kernel, by decide +kernel, by decide +kernel, by decide +kernel⟩,
    ⟨{ scan with esf := { charging := true } }, by decide +kernel, by decide +kernel⟩,
    ⟨idle.setF MAD_STATUS MAD_STATUS_REF_RDY 1, by decide +kernel⟩,
    ⟨{ idle with esf := { guard := some (1, 2, 7), armed := true } }, 1, 2, 7, by decide +kernel, by decide +kernel⟩,
    ⟨{ ((up 2).setF ESF_CAUSE ESF_CAUSE_CAUSE 2).setF ESF_CTRL ESF_CTRL_AUTOCLR 4 with pin := { coverN := false } }, 2, 2, by decide +kernel,
      by decide +kernel, by decide +kernel, by decide +kernel⟩,
    ⟨idle, 2, by decide +kernel, by decide +kernel⟩,
    ⟨idle, by decide +kernel, by decide +kernel⟩,
    ⟨idle, by decide +kernel⟩⟩

/-- The hypotheses of Obligations.SwitchWalk can be met. -/
theorem witness_SwitchWalk :
    (∃ (s : State), s.dev = .primed ∧ s.condAll = true ∧ s.esf.walkFailed = false ∧ s.esf.walk = none) ∧
    (∃ (s : State), (s.dev ≠ .primed ∨ s.condAll = false ∨ s.esf.walkFailed = true ∨ s.esf.walk ≠ none)) ∧
    (∃ (s : State), ∃ w, ∃ vres, ∃ vmid, s.esf.walk = some w ∧ w.pair = some (vres, vmid)) ∧
    (∃ (s : State), ∃ w, s.esf.walk = some w ∧ w.pair = none) :=
  ⟨⟨clear, by decide +kernel, by decide +kernel, by decide +kernel, by decide +kernel⟩,
    ⟨idle, by decide +kernel⟩,
    ⟨{ idle with esf := { walk := some { step := 1, asked := 0, pair := some (1, 2) } } }, { step := 1, asked := 0, pair := some (1, 2) }, 1,
      2, by decide +kernel, by decide +kernel⟩,
    ⟨{ idle with esf := { walk := some { step := 1, asked := 0 } } }, { step := 1, asked := 0 }, by decide +kernel, by decide +kernel⟩⟩

/-- The hypotheses of Obligations.ZoneHappenings can be met. -/
theorem witness_ZoneHappenings :
    (∃ (s : State), ∃ frame, s.zon.due = some frame ∧ s.isMS = true ∧ s.domOn 10 = true ∧ s.fir.column = none ∧ s.fir.closing = [] ∧
      s.hge.descs = [] ∧ s.ext.busy = none ∧ s.ext.out = []) ∧
    (∃ (s : State), ∃ t, s.zon.reportAt = some t) ∧
    (∃ (s : State), ∃ t, s.holdExpiry = some t) ∧
    (∃ (s : State), ∃ m, s.pkt.msg = some m) :=
  ⟨⟨{ idle with zon := { due := some 0 } }, 0, by decide +kernel, by decide +kernel, by decide +kernel, by decide +kernel, by decide +kernel,
      by decide +kernel, by decide +kernel, by decide +kernel⟩,
    ⟨{ idle with zon := { reportAt := some 5 } }, 5, by decide +kernel⟩,
    ⟨{ idle with zon := { occAt := [(0, 5)] } }, 5, by decide +kernel⟩,
    ⟨{ idle with pkt := { msg := some ⟨0, 0, [], 0, false, false, 1472, 0⟩ } }, ⟨0, 0, [], 0, false, false, 1472, 0⟩, by decide +kernel⟩⟩

/-- The hypotheses of Obligations.PortHappenings can be met. -/
theorem witness_PortHappenings :
    (∃ (s : State), ∃ (port : Port), ∃ st, st = ETHx_STATUS (portIx port) ∧ s.domOn (portDom port) = true ∧
      s.fb (ETHx_CTRL (portIx port)) ETHx_CTRL_EN = true ∧ s.rate port ≠ 0 ∧ s.fb st ETHx_STATUS_LINK = false) ∧
    (∃ (s : State), ∃ (port : Port), s.fb (ETHx_STATUS (portIx port)) ETHx_STATUS_LINK = true) ∧
    (∃ (s : State), ∃ (port : Port), s.fb (ETHx_STATUS (portIx port)) ETHx_STATUS_LINK = false) ∧
    (∃ (s : State), ∃ (u : State), ∃ (port : Port),
      u = (if (s.eth port).sending.isSome then (s.at_ (s.eth port).sendEnd).settleSend port else s) ∧ s.portUp port = true ∧
      u.nextSend port = none) ∧
    (∃ (s : State), ∃ (u : State), ∃ (port : Port), ∃ e,
      u = (if (s.eth port).sending.isSome then (s.at_ (s.eth port).sendEnd).settleSend port else s) ∧ s.portUp port = true ∧
      u.nextSend port = some e) ∧
    (∃ (s : State), ∃ (port : Port), ∃ e, ∃ t, ∃ q, s.portUp port = true ∧ s.nextTimed port = some (e, t) ∧ e.cls = .timed q) ∧
    (∃ (s : State), ∃ (port : Port), s.lldpOn port = true) ∧
    (∃ (s : State), ∃ (port : Port), ∃ e, ∃ t, Sp.find (s.eth port).nbrEnd e = some t) ∧
    (∃ (s : State), s.prp = true) ∧
    (∃ (frame : Frame), ∃ (l : Lldp), frame.body = .lldp l) ∧
    (∃ (s : State), ∃ (port : Port), ∃ c, c = s.cfgPort port ∧ (s.eth c).dhcpState = 3) ∧
    (∃ (s : State), ∃ (port : Port), ∃ c, c = s.cfgPort port ∧ (s.eth c).dhcpState = 4) ∧
    (∃ (s : State), ∃ (port : Port), ∃ c, c = s.cfgPort port ∧ (s.eth c).dhcpState = 5) ∧
    (∃ (s : State), ∃ (port : Port), ∃ c, ∃ x, ∃ (linkLocal : Bool), c = s.cfgPort port ∧ x = s.eth c ∧
      x.dad.contains (if linkLocal then 0 else 1) = true) ∧
    (∃ (s : State), ∃ (port : Port), ∃ c, ∃ x, ∃ (linkLocal : Bool), c = s.cfgPort port ∧ x = s.eth c ∧
      x.dad.contains (if linkLocal then 0 else 1) = true) ∧
    (∃ (s : State), ∃ (port : Port), ∃ ip, ∃ t, ∃ rest, (s.eth port).resolving = (ip, t) :: rest) ∧
    (∃ (s : State), ∃ (port : Port), ∃ e, ∃ rest, (s.eth port).arp = e :: rest) :=
  ⟨⟨((up 2).setF (ETHx_CTRL 1) ETHx_CTRL_EN 1).setF (ETHx_CTRL 1) ETHx_CTRL_MODE 3, .B, _, rfl, by decide +kernel, by decide +kernel,
      by decide +kernel, by decide +kernel⟩,
    ⟨(((up 2).setF (ETHx_CTRL 1) ETHx_CTRL_EN 1).setF (ETHx_CTRL 1) ETHx_CTRL_MODE 3).setF (ETHx_STATUS 1) ETHx_STATUS_LINK 1, .B,
      by decide +kernel⟩,
    ⟨((up 2).setF (ETHx_CTRL 1) ETHx_CTRL_EN 1).setF (ETHx_CTRL 1) ETHx_CTRL_MODE 3, .B, by decide +kernel⟩,
    ⟨(((up 2).setF (ETHx_CTRL 1) ETHx_CTRL_EN 1).setF (ETHx_CTRL 1) ETHx_CTRL_MODE 3).setF (ETHx_STATUS 1) ETHx_STATUS_LINK 1, _, .B, rfl,
      by decide +kernel, by decide +kernel⟩,
    ⟨{ (((up 2).setF (ETHx_CTRL 1) ETHx_CTRL_EN 1).setF (ETHx_CTRL 1) ETHx_CTRL_MODE 3).setF (ETHx_STATUS 1) ETHx_STATUS_LINK 1 with ethB := { txq := [{ cls := .mgmt, frame := ⟨1, 2, [], 64, true, none, .other⟩ }] } },
      _, .B, _, rfl, by decide +kernel, rfl⟩,
    ⟨{ ((((up 2).setF (ETHx_CTRL 1) ETHx_CTRL_EN 1).setF (ETHx_CTRL 1) ETHx_CTRL_MODE 3).setF (ETHx_STATUS 1) ETHx_STATUS_LINK 1).setF (TIM_TBx_STATE 1) TIM_TBx_STATE_STATE 1 with ethB := { txq := [{ cls := .timed 1, frame := ⟨1, 2, [], 64, true, none, .other⟩, tb := 1, launch := 5 }] } },
      .B, _, _, 1, by decide +kernel, rfl, by decide +kernel⟩,
    ⟨((((up 2).setF (ETHx_CTRL 1) ETHx_CTRL_EN 1).setF (ETHx_CTRL 1) ETHx_CTRL_MODE 3).setF (ETHx_STATUS 1) ETHx_STATUS_LINK 1).setF (ETHx_CTRL 1) ETHx_CTRL_LLDP_EN 1,
      .B, by decide +kernel⟩,
    ⟨{ idle with ethB := { nbrEnd := [(3, 5)] } }, .B, 3, 5, by decide +kernel⟩,
    ⟨idle.setF (ETHx_CTRL 0) ETHx_CTRL_EN 1 |>.setF (ETHx_CTRL 1) ETHx_CTRL_EN 1 |>.setF (ETHx_CTRL 0) ETHx_CTRL_PRP_EN 1 |>.setF (ETHx_CTRL 1) ETHx_CTRL_PRP_EN 1,
      by decide +kernel⟩,
    ⟨⟨1, 2, [], 64, true, none, .lldp lldpMin⟩, lldpMin, by decide +kernel⟩,
    ⟨{ idle with ethB := { dhcpState := 3 } }, .B, _, rfl, by decide +kernel⟩,
    ⟨{ idle with ethB := { dhcpState := 4 } }, .B, _, rfl, by decide +kernel⟩,
    ⟨{ idle with ethB := { dhcpState := 5 } }, .B, _, rfl, by decide +kernel⟩,
    ⟨{ idle with ethB := { dad := [0, 1] } }, .B, _, _, true, rfl, rfl, by decide +kernel⟩,
    ⟨{ idle with ethB := { dad := [0, 1] } }, .B, _, _, false, rfl, rfl, by decide +kernel⟩,
    ⟨{ idle with ethB := { resolving := [(⟨false, 1⟩, 5)] } }, .B, ⟨false, 1⟩, 5, [], by decide +kernel⟩,
    ⟨{ idle with ethB := { arp := [⟨⟨false, 1⟩, 2, 3⟩] } }, .B, ⟨⟨false, 1⟩, 2, 3⟩, [], by decide +kernel⟩⟩

/-- The hypotheses of Obligations.TimeHappenings can be met. -/
theorem witness_TimeHappenings :
    (∃ (s : State), ∃ (u : State), ∃ t, u = (s.toTbs t).capture 1 t ∧ u.tm.ppsLast = none) ∧
    (∃ (s : State), ∃ (u : State), ∃ (v : State), ∃ t, ∃ l, u = (s.toTbs t).capture 1 t ∧
      v = { u with tm := { u.tm with ppsLast := some t } } ∧ u.tm.ppsLast = some l ∧
      (v.f TIM_TBS_DISC TIM_TBS_DISC_SRC ≠ 3 ∨ t - l < 63936000000 ∨ 64064000000 < t - l)) ∧
    (∃ (s : State), ∃ (u : State), ∃ (v : State), ∃ t, ∃ l, u = (s.toTbs t).capture 1 t ∧
      v = { u with tm := { u.tm with ppsLast := some t } } ∧ u.tm.ppsLast = some l ∧ v.f TIM_TBS_DISC TIM_TBS_DISC_SRC = 3 ∧
      63936000000 ≤ t - l ∧ t - l ≤ 64064000000) ∧
    (∃ (s : State), s.fb TIM_XCHK TIM_XCHK_EN = true ∧ (s.baseState 0 = 3 ∨ s.baseState 0 = 4) ∧ (s.baseState 1 = 3 ∨ s.baseState 1 = 4)) ∧
    (∃ (s : State), ∃ x, x = s.f TIM_PPS TIM_PPS_TB ∧ s.fb TIM_PPS TIM_PPS_EN = true ∧ s.netRunning x = true) ∧
    (∃ (s : State), ∃ k, ∃ x, ∃ due, x = s.f (TIM_EVOUT_CFG k) TIM_EVOUT_CFG_TB ∧ k < 4 ∧ Sp.find s.tm.evOutNext k = some due ∧
      s.fb (TIM_EVOUT_CFG k) TIM_EVOUT_CFG_EN = true ∧ s.netRunning x = true) :=
  ⟨⟨idle, _, 5, rfl, by decide +kernel⟩,
    ⟨{ (up 2).setF TIM_TBS_DISC TIM_TBS_DISC_SRC 3 with tm := { idle.tm with ppsLast := some 0 } }, _, _, 64064000001, 0, rfl, rfl,
      by decide +kernel, by decide +kernel⟩,
    ⟨{ (up 2).setF TIM_TBS_DISC TIM_TBS_DISC_SRC 3 with tm := { idle.tm with ppsLast := some 0 } }, _, _, 64064000000, 0, rfl, rfl,
      by decide +kernel, by decide +kernel, by decide +kernel, by decide +kernel⟩,
    ⟨idle.setF TIM_XCHK TIM_XCHK_EN 1 |>.setF (TIM_TBx_STATE 0) TIM_TBx_STATE_STATE 3 |>.setF (TIM_TBx_STATE 1) TIM_TBx_STATE_STATE 4,
      by decide +kernel, by decide +kernel, by decide +kernel⟩,
    ⟨idle.setF TIM_PPS TIM_PPS_EN 1 |>.setF (TIM_TBx_STATE 0) TIM_TBx_STATE_STATE 1, _, rfl, by decide +kernel, by decide +kernel⟩,
    ⟨{ ((up 2).setF (TIM_EVOUT_CFG 3) TIM_EVOUT_CFG_EN 1).setF (TIM_TBx_STATE 0) TIM_TBx_STATE_STATE 1 with tm := { idle.tm with evOutNext := [(3, 5)] } },
      3, _, 5, rfl, by decide +kernel, by decide +kernel, by decide +kernel, by decide +kernel⟩⟩

/-- The hypotheses of Obligations.PtpHappenings can be met. -/
theorem witness_PtpHappenings :
    (∃ (s : State), ∃ (port : Port), ∃ (x : Nat), x = portIx port ∧ s.slave x = true ∧ (s.ptp x).master ≠ none) ∧
    (∃ (s : State), ∃ (port : Port), ∃ (x : Nat), x = portIx port ∧ s.slave x = true ∧ s.portUp port = true) ∧
    (∃ (s : State), ∃ (port : Port), ∃ (x : Nat), ∃ e, x = portIx port ∧ e = s.ptp x ∧ s.slave x = true ∧ e.delayPending = true ∧
      e.mpdValid = false) ∧
    (∃ (s : State), ∃ (u : State), ∃ (port : Port), ∃ (x : Nat), ∃ (ms : Int), ∃ (sm : Int), ∃ (ratio : Int), ∃ e, ∃ raw, ∃ nr, ∃ near,
      x = portIx port ∧ e = s.ptp x ∧ raw = (ms + sm).tdiv 2 ∧
      nr = (if s.fb (TIM_TBx_STATE x) TIM_TBx_STATE_PROFILE then ratio else e.nbrRatio) ∧
      near = decide ((raw - sx 32 (s.rd (TIM_TBx_MPD_REF x)).toNat).natAbs ≤ e.stepLimit * 16) ∧
      u = s.setPtp x { e with delayPending := false, rawLast := raw, nbrRatio := nr, rawGood := if near then e.rawGood + 1 else 0 } ∧
      s.slave x = true ∧ e.delayPending = true ∧ e.mpdValid = true ∧ near = true ∧
      (u.baseState x ≠ 4 ∨ u.f (TIM_TBx_STATE x) TIM_TBx_STATE_HCAUSE ≠ 3)) ∧
    (∃ (s : State), ∃ (u : State), ∃ (port : Port), ∃ (x : Nat), ∃ (ms : Int), ∃ (sm : Int), ∃ (ratio : Int), ∃ e, ∃ raw, ∃ nr, ∃ near,
      x = portIx port ∧ e = s.ptp x ∧ raw = (ms + sm).tdiv 2 ∧
      nr = (if s.fb (TIM_TBx_STATE x) TIM_TBx_STATE_PROFILE then ratio else e.nbrRatio) ∧
      near = decide ((raw - sx 32 (s.rd (TIM_TBx_MPD_REF x)).toNat).natAbs ≤ e.stepLimit * 16) ∧
      u = s.setPtp x { e with delayPending := false, rawLast := raw, nbrRatio := nr, rawGood := if near then e.rawGood + 1 else 0 } ∧
      s.slave x = true ∧ e.delayPending = true ∧ e.mpdValid = true ∧ near = false ∧ (u.baseState x = 2 ∨ u.baseState x = 3)) ∧
    (∃ (s : State), ∃ (port : Port), ∃ (x : Nat), x = portIx port ∧ s.slave x = true ∧ (s.ptp x).master = none) ∧
    (∃ (s : State), ∃ (port : Port), ∃ (x : Nat), ∃ dataset, ∃ m, x = portIx port ∧ s.slave x = true ∧ (s.ptp x).master = some m ∧
      (slice m 6 8 = slice dataset 6 8 ∨ betterDataset dataset m = true)) ∧
    (∃ (s : State), ∃ (port : Port), ∃ (x : Nat), ∃ dataset, ∃ m, x = portIx port ∧ s.slave x = true ∧ (s.ptp x).master = some m ∧
      slice m 6 8 ≠ slice dataset 6 8 ∧ betterDataset dataset m = false) ∧
    (∃ (s : State), ∃ (port : Port), ∃ (x : Nat), ∃ (announce : Bool), ∃ t, x = portIx port ∧
      (if announce then (s.ptp x).annAt else (s.ptp x).syncAt) = some t ∧ s.slave x = true ∧ (s.baseState x = 2 ∨ s.baseState x = 3)) ∧
    (∃ (s : State), ∃ (port : Port), ∃ (x : Nat), x = portIx port ∧ s.role x = 2 ∧ s.portUp port = true) :=
  ⟨⟨{ ((((up 2).setF (ETHx_CTRL 1) ETHx_CTRL_EN 1).setF (ETHx_CTRL 1) ETHx_CTRL_MODE 3).setF (ETHx_STATUS 1) ETHx_STATUS_LINK 1).setF (TIM_TBx_STATE 1) TIM_TBx_STATE_ROLE 1 |>.setF (TIM_TBx_STATE 1) TIM_TBx_STATE_STATE 3 with ptpB := { master := some (zeros 14) } },
      .B, _, rfl, by decide +kernel, by decide +kernel⟩,
    ⟨{ ((((up 2).setF (ETHx_CTRL 1) ETHx_CTRL_EN 1).setF (ETHx_CTRL 1) ETHx_CTRL_MODE 3).setF (ETHx_STATUS 1) ETHx_STATUS_LINK 1).setF (TIM_TBx_STATE 1) TIM_TBx_STATE_ROLE 1 |>.setF (TIM_TBx_STATE 1) TIM_TBx_STATE_STATE 3 with ptpB := {  } },
      .B, _, rfl, by decide +kernel, by decide +kernel⟩,
    ⟨{ ((((up 2).setF (ETHx_CTRL 1) ETHx_CTRL_EN 1).setF (ETHx_CTRL 1) ETHx_CTRL_MODE 3).setF (ETHx_STATUS 1) ETHx_STATUS_LINK 1).setF (TIM_TBx_STATE 1) TIM_TBx_STATE_ROLE 1 |>.setF (TIM_TBx_STATE 1) TIM_TBx_STATE_STATE 3 with ptpB := { delayPending := true } },
      .B, _, _, rfl, rfl, by decide +kernel, by decide +kernel, by decide +kernel⟩,
    ⟨{ ((((up 2).setF (ETHx_CTRL 1) ETHx_CTRL_EN 1).setF (ETHx_CTRL 1) ETHx_CTRL_MODE 3).setF (ETHx_STATUS 1) ETHx_STATUS_LINK 1).setF (TIM_TBx_STATE 1) TIM_TBx_STATE_ROLE 1 |>.setF (TIM_TBx_STATE 1) TIM_TBx_STATE_STATE 3 with ptpB := { delayPending := true, mpdValid := true } },
      _, .B, _, 0, 0, 0, _, _, _, _, rfl, rfl, rfl, rfl, rfl, rfl, by decide +kernel, by decide +kernel, by decide +kernel, by decide +kernel,
      by decide +kernel⟩,
    ⟨{ ((((up 2).setF (ETHx_CTRL 1) ETHx_CTRL_EN 1).setF (ETHx_CTRL 1) ETHx_CTRL_MODE 3).setF (ETHx_STATUS 1) ETHx_STATUS_LINK 1).setF (TIM_TBx_STATE 1) TIM_TBx_STATE_ROLE 1 |>.setF (TIM_TBx_STATE 1) TIM_TBx_STATE_STATE 3 with ptpB := { delayPending := true, mpdValid := true } },
      _, .B, _, 20000000000000000, 20000000000000000, 0, _, _, _, _, rfl, rfl, rfl, rfl, rfl, rfl, by decide +kernel, by decide +kernel,
      by decide +kernel, by decide +kernel, by decide +kernel⟩,
    ⟨{ ((((up 2).setF (ETHx_CTRL 1) ETHx_CTRL_EN 1).setF (ETHx_CTRL 1) ETHx_CTRL_MODE 3).setF (ETHx_STATUS 1) ETHx_STATUS_LINK 1).setF (TIM_TBx_STATE 1) TIM_TBx_STATE_ROLE 1 |>.setF (TIM_TBx_STATE 1) TIM_TBx_STATE_STATE 3 with ptpB := {  } },
      .B, _, rfl, by decide +kernel, by decide +kernel⟩,
    ⟨{ ((((up 2).setF (ETHx_CTRL 1) ETHx_CTRL_EN 1).setF (ETHx_CTRL 1) ETHx_CTRL_MODE 3).setF (ETHx_STATUS 1) ETHx_STATUS_LINK 1).setF (TIM_TBx_STATE 1) TIM_TBx_STATE_ROLE 1 |>.setF (TIM_TBx_STATE 1) TIM_TBx_STATE_STATE 3 with ptpB := { master := some (zeros 14) } },
      .B, _, zeros 14, zeros 14, rfl, by decide +kernel, by decide +kernel, by decide +kernel⟩,
    ⟨{ ((((up 2).setF (ETHx_CTRL 1) ETHx_CTRL_EN 1).setF (ETHx_CTRL 1) ETHx_CTRL_MODE 3).setF (ETHx_STATUS 1) ETHx_STATUS_LINK 1).setF (TIM_TBx_STATE 1) TIM_TBx_STATE_ROLE 1 |>.setF (TIM_TBx_STATE 1) TIM_TBx_STATE_STATE 3 with ptpB := { master := some (zeros 14) } },
      .B, _, List.replicate 14 1, zeros 14, rfl, by decide +kernel, by decide +kernel, by decide +kernel, by decide +kernel⟩,
    ⟨{ ((((up 2).setF (ETHx_CTRL 1) ETHx_CTRL_EN 1).setF (ETHx_CTRL 1) ETHx_CTRL_MODE 3).setF (ETHx_STATUS 1) ETHx_STATUS_LINK 1).setF (TIM_TBx_STATE 1) TIM_TBx_STATE_ROLE 1 |>.setF (TIM_TBx_STATE 1) TIM_TBx_STATE_STATE 2 with ptpB := { annAt := some 5 } },
      .B, _, true, 5, rfl, by decide +kernel, by decide +kernel, by decide +kernel⟩,
    ⟨((((up 2).setF (ETHx_CTRL 1) ETHx_CTRL_EN 1).setF (ETHx_CTRL 1) ETHx_CTRL_MODE 3).setF (ETHx_STATUS 1) ETHx_STATUS_LINK 1).setF (TIM_TBx_STATE 1) TIM_TBx_STATE_ROLE 2,
      .B, _, rfl, by decide +kernel, by decide +kernel⟩⟩

/-- The hypotheses of Obligations.DmaHappenings can be met. -/
theorem witness_DmaHappenings :
    (∃ (s : State), ∃ c, c < 16 ∧ s.domOn 19 = true ∧ s.dmaEn c = true ∧ s.f (DMA_CH_CFG c) DMA_CH_CFG_REQ = 3) ∧
    (∃ (s : State), ∃ c, s.domOn 19 = true ∧ s.boot.off = false ∧ s.burstNext = some c) ∧
    (∃ (s : State), s.domOn 19 = true ∧ s.burstNext = none) ∧
    (∃ (s : State), s.domOn 19 = false) :=
  ⟨⟨idle.setF (DMA_CH_CTRL 15) DMA_CH_CTRL_EN 1 |>.setF (DMA_CH_CFG 15) DMA_CH_CFG_REQ 3, 15, by decide +kernel, by decide +kernel,
      by decide +kernel, by decide +kernel⟩,
    ⟨{ (up 2).setF (DMA_CH_CTRL 15) DMA_CH_CTRL_EN 1 with dma := { ch := [(15, { pend := true })] } }, 15, by decide +kernel,
      by decide +kernel, by decide +kernel⟩,
    ⟨idle, by decide +kernel, by decide +kernel⟩,
    ⟨idle.setF PMU_PD_STAT PMU_PD_STAT_ON 0, by decide +kernel⟩⟩

/-- The hypotheses of Obligations.WeftLinkStates can be met. -/
theorem witness_WeftLinkStates :
    (∃ (s : State), ∃ (l : Nat), s.linkOn l = true ∧ s.linkState l = 1) ∧
    (∃ (s : State), ∃ (l : Nat), s.linkOn l = true ∧ s.linkState l = 2 ∧ s.rawTap l = false) ∧
    (∃ (s : State), ∃ (l : Nat), ∃ k, k < 4 ∧ s.linkOn l = true ∧ lockedState (s.linkState l) = true ∧ s.rawTap l = false) ∧
    (∃ (s : State), ∃ (l : Nat), s.linkOn l = true ∧ s.rawTap l = false ∧ s.linkState l = 4) ∧
    (∃ (s : State), ∃ (l : Nat), s.linkOn l = true ∧ s.rawTap l = false ∧ s.linkState l = 5) ∧
    (∃ (s : State), ∃ (l : Nat), s.linkOn l = true ∧ bringUp (s.linkState l) = true ∧ s.rawTap l = false) ∧
    (∃ (s : State), ∃ (l : Nat), s.linkOn l = true ∧ lockedState (s.linkState l) = true ∧ s.rawTap l = false) ∧
    (∃ (s : State), ∃ (l : Nat), s.linkOn l = true ∧ s.linkState l = 2 ∧ s.rawTap l = true) ∧
    (∃ (s : State), ∃ (l : Nat), s.linkOn l = true ∧ s.linkState l ∈ [6, 7, 8] ∧ s.rawTap l = false) ∧
    (∃ (s : State), ∃ (l : Nat), s.linkOn l = true ∧ s.linkState l ∈ [6, 7, 8] ∧ s.rawTap l = false) ∧
    (∃ (s : State), ∃ (l : Nat), ∃ block, s.linkOn l = true ∧ 4 ≤ s.linkState l ∧ s.linkState l ≤ 8 ∧ s.rawTap l = false ∧
      (crc8 (block.take 15) ≠ leAt block 15 1 ∨ leAt block 0 1 ∉ ctlTypes)) ∧
    (∃ (s : State), ∃ (l : Nat), ∃ block, s.linkOn l = true ∧ 4 ≤ s.linkState l ∧ s.linkState l ≤ 8 ∧ s.rawTap l = false ∧
      crc8 (block.take 15) = leAt block 15 1 ∧ leAt block 0 1 = 0x51 ∧ s.linkState l = 7) ∧
    (∃ (s : State), ∃ (l : Nat), ∃ block, s.linkOn l = true ∧ 4 ≤ s.linkState l ∧ s.linkState l ≤ 8 ∧ s.rawTap l = false ∧
      crc8 (block.take 15) = leAt block 15 1 ∧ leAt block 0 1 = 0x50 ∧ s.linkState l = 7) ∧
    (∃ (s : State), ∃ (l : Nat), ∃ fill, receives s l = true ∧ 40 ≤ fill ∧ s.fb (WFL_STATUS l) WFL_STATUS_RX_XOFF = false) ∧
    (∃ (s : State), ∃ (l : Nat), ∃ fill, receives s l = true ∧ fill ≤ 16 ∧ s.fb (WFL_STATUS l) WFL_STATUS_RX_XOFF = true) ∧
    (∃ (s : State), ∃ (l : Nat), ∃ t, (s.link l).xoffAt = some t) ∧
    (∃ (s : State), ∃ (l : Nat), ∃ k, k < 4 ∧ s.linkOn l = true ∧ lockedState (s.linkState l) = true ∧ s.rawTap l = false) ∧
    (∃ (s : State), ∃ (l : Nat), s.linkOn l = true ∧ lockedState (s.linkState l) = true ∧ s.rawTap l = false) ∧
    (∃ (s : State), ∃ (l : Nat), ∃ b, ∃ n, ∃ rest, l = s.f HNG_TAP_CTRL HNG_TAP_CTRL_LINK ∧ s.evr.tap ≠ [] ∧ s.linkActive l = true ∧
      s.rawTap l = true ∧ tapBlock s.evr.tap = (b, n, rest)) ∧
    (∃ (s : State), ∃ (l : Nat), l = s.f HNG_TAP_CTRL HNG_TAP_CTRL_LINK ∧ s.fb HNG_TAP_CTRL HNG_TAP_CTRL_EN = true ∧ s.linkActive l = true ∧
      s.rawTap l = true) :=
  ⟨⟨idle.setF (WFL_STATE 3) WFL_STATE_STATE 1, 3, by decide +kernel, by decide +kernel⟩,
    ⟨idle.setF (WFL_STATE 3) WFL_STATE_STATE 2, 3, by decide +kernel, by decide +kernel, by decide +kernel⟩,
    ⟨idle.setF (WFL_STATE 3) WFL_STATE_STATE 3, 3, 3, by decide +kernel, by decide +kernel, by decide +kernel, by decide +kernel⟩,
    ⟨idle.setF (WFL_STATE 3) WFL_STATE_STATE 4, 3, by decide +kernel, by decide +kernel, by decide +kernel⟩,
    ⟨idle.setF (WFL_STATE 3) WFL_STATE_STATE 5, 3, by decide +kernel, by decide +kernel, by decide +kernel⟩,
    ⟨idle.setF (WFL_STATE 3) WFL_STATE_STATE 6, 3, by decide +kernel, by decide +kernel, by decide +kernel⟩,
    ⟨idle.setF (WFL_STATE 3) WFL_STATE_STATE 8, 3, by decide +kernel, by decide +kernel, by decide +kernel⟩,
    ⟨(idle.setF (WFL_STATE 3) WFL_STATE_STATE 2).setF (WFL_CTRL 3) WFL_CTRL_MODE 1, 3, by decide +kernel, by decide +kernel,
      by decide +kernel⟩,
    ⟨idle.setF (WFL_STATE 3) WFL_STATE_STATE 8, 3, by decide +kernel, by decide +kernel, by decide +kernel⟩,
    ⟨idle.setF (WFL_STATE 3) WFL_STATE_STATE 6, 3, by decide +kernel, by decide +kernel, by decide +kernel⟩,
    ⟨idle.setF (WFL_STATE 3) WFL_STATE_STATE 8, 3, zeros 16, by decide +kernel, by decide +kernel, by decide +kernel, by decide +kernel,
      by decide +kernel⟩,
    ⟨idle.setF (WFL_STATE 3) WFL_STATE_STATE 7, 3, ctlBlock 0x51 (zeros 14), by decide +kernel, by decide +kernel, by decide +kernel,
      by decide +kernel, by decide +kernel, by decide +kernel, by decide +kernel⟩,
    ⟨idle.setF (WFL_STATE 3) WFL_STATE_STATE 7, 3, ctlBlock 0x50 (zeros 14), by decide +kernel, by decide +kernel, by decide +kernel,
      by decide +kernel, by decide +kernel, by decide +kernel, by decide +kernel⟩,
    ⟨idle.setF (WFL_STATE 3) WFL_STATE_STATE 7, 3, 40, by decide +kernel, by decide +kernel, by decide +kernel⟩,
    ⟨(idle.setF (WFL_STATE 3) WFL_STATE_STATE 7).setF (WFL_STATUS 3) WFL_STATUS_RX_XOFF 1, 3, 16, by decide +kernel, by decide +kernel,
      by decide +kernel⟩,
    ⟨{ idle with wfl := [(3, { xoffAt := some 5 })] }, 3, 5, by decide +kernel⟩,
    ⟨idle.setF (WFL_STATE 3) WFL_STATE_STATE 3, 3, 3, by decide +kernel, by decide +kernel, by decide +kernel, by decide +kernel⟩,
    ⟨idle.setF (WFL_STATE 3) WFL_STATE_STATE 8, 3, by decide +kernel, by decide +kernel, by decide +kernel⟩,
    ⟨{ ((up 2).setF (WFL_STATE 0) WFL_STATE_STATE 7).setF (WFL_CTRL 0) WFL_CTRL_MODE 1 with evr := { tap := [.event 5] } }, _, _, _, _, rfl,
      by decide +kernel, by decide +kernel, by decide +kernel, rfl⟩,
    ⟨(((up 2).setF (WFL_STATE 0) WFL_STATE_STATE 7).setF (WFL_CTRL 0) WFL_CTRL_MODE 1).setF HNG_TAP_CTRL HNG_TAP_CTRL_EN 1, _, rfl,
      by decide +kernel, by decide +kernel, by decide +kernel⟩⟩

/-- The hypotheses of Obligations.CascadeMessages can be met. -/
theorem witness_CascadeMessages :
    (∃ (s : State), ∃ (l : Nat), receives s l = true) ∧
    (∃ (s : State), ∃ (u : State), ∃ (l : Nat), ∃ (src : Nat), ∃ (dst : Nat), ∃ (hdr : List Byte), ∃ (body : List Byte), u = arrived s l ⟨2,
      src, dst, hdr, body, true⟩ ∧ receives s l = true ∧ u.fromHead l = true) ∧
    (∃ (s : State), ∃ (u : State), ∃ (l : Nat), ∃ (src : Nat), ∃ (dst : Nat), ∃ (hdr : List Byte), ∃ (body : List Byte), u = arrived s l ⟨3,
      src, dst, hdr, body, true⟩ ∧ receives s l = true ∧ u.toHead l = true ∧ 1 ≤ src ∧ src < 8) ∧
    (∃ (s : State), ∃ (l : Nat), receives s l = true) ∧
    (∃ (s : State), ∃ (u : State), ∃ (l : Nat), ∃ (src : Nat), ∃ (dst : Nat), ∃ (hdr : List Byte), ∃ (body : List Byte), u = arrived s l ⟨5,
      src, dst, hdr, body, true⟩ ∧ dst = u.index ∧ receives s l = true ∧ u.fromHead l = true ∧
      firstBad (spanChecks (leAt hdr 0 4) (leAt hdr 4 4) 20 ++ u.readChecks (leAt hdr 0 4) (leAt hdr 4 4)) = none) ∧
    (∃ (s : State), ∃ (u : State), ∃ (l : Nat), ∃ (src : Nat), ∃ (dst : Nat), ∃ (hdr : List Byte), ∃ (body : List Byte), ∃ c,
      u = arrived s l ⟨5, src, dst, hdr, body, true⟩ ∧ dst = u.index ∧ receives s l = true ∧ u.fromHead l = true ∧
      firstBad (spanChecks (leAt hdr 0 4) (leAt hdr 4 4) 20 ++ u.readChecks (leAt hdr 0 4) (leAt hdr 4 4)) = some c) ∧
    (∃ (s : State), ∃ (u : State), ∃ (l : Nat), ∃ (src : Nat), ∃ (dst : Nat), ∃ (hdr : List Byte), ∃ (body : List Byte), ∃ q, ∃ rest,
      u = arrived s l ⟨6, src, dst, hdr, body, true⟩ ∧ receives s l = true ∧ u.toHead l = true ∧ takeRead src u.cas.reads = some (q, rest)) ∧
    (∃ (s : State), ∃ (u : State), ∃ (l : Nat), ∃ (src : Nat), ∃ (dst : Nat), ∃ (hdr : List Byte), ∃ (body : List Byte), u = arrived s l ⟨7,
      src, dst, hdr, body, true⟩ ∧ receives s l = true ∧ u.fromHead l = true) ∧
    (∃ (s : State), ∃ (l : Nat), receives s l = true) ∧
    (∃ (s : State), ∃ (l : Nat), receives s l = true) ∧
    (∃ (s : State), ∃ (l : Nat), receives s l = true) ∧
    (∃ (s : State), ∃ (l : Nat), receives s l = true) ∧
    (∃ (s : State), ∃ (l : Nat), receives s l = true) ∧
    (∃ (s : State), ∃ (l : Nat), receives s l = true) ∧
    (∃ (s : State), ∃ (l : Nat), receives s l = true) :=
  ⟨⟨idle.setF (WFL_STATE 0) WFL_STATE_STATE 7 |>.setF HNG_CAS_CFG HNG_CAS_CFG_ROLE 2, 0, by decide +kernel⟩,
    ⟨idle.setF (WFL_STATE 0) WFL_STATE_STATE 7 |>.setF HNG_CAS_CFG HNG_CAS_CFG_ROLE 2, _, 0, 0, 1, zeros 8, [], rfl, by decide +kernel,
      by decide +kernel⟩,
    ⟨idle.setF (WFL_STATE 3) WFL_STATE_STATE 7 |>.setF HNG_CAS_CFG HNG_CAS_CFG_ROLE 1 |>.setF HNG_CAS_CFG HNG_CAS_CFG_TOPOLOGY 1, _, 3, 7, 1,
      zeros 8, [], rfl, by decide +kernel, by decide +kernel, by decide +kernel, by decide +kernel⟩,
    ⟨idle.setF (WFL_STATE 0) WFL_STATE_STATE 7 |>.setF HNG_CAS_CFG HNG_CAS_CFG_ROLE 2, 0, by decide +kernel⟩,
    ⟨(idle.setF (WFL_STATE 0) WFL_STATE_STATE 7 |>.setF HNG_CAS_CFG HNG_CAS_CFG_ROLE 2).setF HNG_ID HNG_ID_INDEX 1, _, 0, 0, 1,
      leBytes 4 0x02010000 ++ leBytes 4 4, [], rfl, rfl, by decide +kernel, by decide +kernel, by decide +kernel⟩,
    ⟨idle.setF (WFL_STATE 0) WFL_STATE_STATE 7 |>.setF HNG_CAS_CFG HNG_CAS_CFG_ROLE 2, _, 0, 0, 0, zeros 8, [], _, rfl, rfl,
      by decide +kernel, by decide +kernel, rfl⟩,
    ⟨{ idle.setF (WFL_STATE 3) WFL_STATE_STATE 7 |>.setF HNG_CAS_CFG HNG_CAS_CFG_ROLE 1 |>.setF HNG_CAS_CFG HNG_CAS_CFG_TOPOLOGY 1 with cas := { reads := [(hq, 7, 5)] } },
      _, 3, 7, 1, zeros 8, [], hq, [], rfl, by decide +kernel, by decide +kernel, by decide +kernel⟩,
    ⟨idle.setF (WFL_STATE 0) WFL_STATE_STATE 7 |>.setF HNG_CAS_CFG HNG_CAS_CFG_ROLE 2, _, 0, 0, 1, zeros 8, [], rfl, by decide +kernel,
      by decide +kernel⟩,
    ⟨idle.setF (WFL_STATE 0) WFL_STATE_STATE 7 |>.setF HNG_CAS_CFG HNG_CAS_CFG_ROLE 2, 0, by decide +kernel⟩,
    ⟨idle.setF (WFL_STATE 0) WFL_STATE_STATE 7 |>.setF HNG_CAS_CFG HNG_CAS_CFG_ROLE 2, 0, by decide +kernel⟩,
    ⟨idle.setF (WFL_STATE 0) WFL_STATE_STATE 7 |>.setF HNG_CAS_CFG HNG_CAS_CFG_ROLE 2, 0, by decide +kernel⟩,
    ⟨idle.setF (WFL_STATE 0) WFL_STATE_STATE 7 |>.setF HNG_CAS_CFG HNG_CAS_CFG_ROLE 2, 0, by decide +kernel⟩,
    ⟨idle.setF (WFL_STATE 0) WFL_STATE_STATE 7 |>.setF HNG_CAS_CFG HNG_CAS_CFG_ROLE 2, 0, by decide +kernel⟩,
    ⟨idle.setF (WFL_STATE 0) WFL_STATE_STATE 7 |>.setF HNG_CAS_CFG HNG_CAS_CFG_ROLE 2, 0, by decide +kernel⟩,
    ⟨idle.setF (WFL_STATE 0) WFL_STATE_STATE 7 |>.setF HNG_CAS_CFG HNG_CAS_CFG_ROLE 2, 0, by decide +kernel⟩⟩

/-- The hypotheses of Obligations.CascadeTimesAndCalibration can be met. -/
theorem witness_CascadeTimesAndCalibration :
    (∃ (s : State), s.isMember = true ∧ s.linkActive 0 = true) ∧
    (∃ (s : State), ∃ m, ∃ x, s.member m = some x ∧ bit (s.f HNG_CAS_STAT HNG_CAS_STAT_REACH) m = true) ∧
    (∃ (s : State), ∃ t, ∃ acks, s.cas.await = some (t, acks)) ∧
    (∃ (s : State), ∃ q, ∃ m, ∃ t, ∃ rest, s.cas.reads = (q, m, t) :: rest) ∧
    (∃ (s : State), ∃ l, s.linkActive l = true ∧ s.rawTap l = false ∧ l < 4) ∧
    (∃ (s : State), s.isMember = true ∧ s.linkActive 0 = true) ∧
    (∃ (s : State), ∃ t1, s.cas.t1 = some t1 ∧ s.isMember = true ∧ s.linkActive 0 = true) ∧
    (∃ (s : State), s.isHead = true ∧ s.cas.hcalDue = true ∧ s.cas.hcalTimes = [] ∧ (s.dev = .idle ∨ s.dev = .primed) ∧ (∀ m ∈ s.expected,
      s.reachable.contains m = true ∧ s.memberBit m 8 = true)) ∧
    (∃ (s : State), ∃ (u : State), ∃ sync, ∃ trig, u = s.at_ s.cas.hcalUntil ∧
      sync = meanSpread (u.hcalDiffs u.cas.hcalSync (u.cas.hcalTimes.take 16)) ∧
      trig = meanSpread (u.hcalDiffs u.cas.hcalTrig (u.cas.hcalTimes.drop 16)) ∧ s.cas.hcalTimes ≠ [] ∧
      (u.cas.hcalSync.length ≠ 16 ∨ u.cas.hcalTrig.length ≠ 16 ∨ 64 < sync.2 ∨ 64 < trig.2 ∨ (u.f HNG_LAT HNG_LAT_LAT : Int) - sync.1 < 1024)) ∧
    (∃ (s : State), ∃ (u : State), ∃ sync, ∃ trig, u = s.at_ s.cas.hcalUntil ∧
      sync = meanSpread (u.hcalDiffs u.cas.hcalSync (u.cas.hcalTimes.take 16)) ∧
      trig = meanSpread (u.hcalDiffs u.cas.hcalTrig (u.cas.hcalTimes.drop 16)) ∧ s.cas.hcalTimes ≠ [] ∧ u.cas.hcalSync.length = 16 ∧
      u.cas.hcalTrig.length = 16 ∧ sync.2 ≤ 64 ∧ trig.2 ≤ 64 ∧ 1024 ≤ (u.f HNG_LAT HNG_LAT_LAT : Int) - sync.1 ∧ 0 ≤ sync.1 ∧ sync.1 < 65536 ∧
      0 ≤ trig.1 ∧ trig.1 < 65536) :=
  ⟨⟨idle.setF (WFL_STATE 0) WFL_STATE_STATE 7 |>.setF HNG_CAS_CFG HNG_CAS_CFG_ROLE 2, by decide +kernel, by decide +kernel⟩,
    ⟨{ (up 2).setF HNG_CAS_STAT HNG_CAS_STAT_REACH 0x80 with cas := { members := [(7, ⟨0, 0, 0, 0⟩)] } }, 7, ⟨0, 0, 0, 0⟩, by decide +kernel,
      by decide +kernel⟩,
    ⟨{ idle with cas := { await := some (5, []) } }, 5, [], by decide +kernel⟩,
    ⟨{ idle with cas := { reads := [(hq, 7, 5)] } }, hq, 7, 5, [], by decide +kernel⟩,
    ⟨idle.setF (WFL_STATE 3) WFL_STATE_STATE 7, 3, by decide +kernel, by decide +kernel, by decide +kernel⟩,
    ⟨idle.setF (WFL_STATE 0) WFL_STATE_STATE 7 |>.setF HNG_CAS_CFG HNG_CAS_CFG_ROLE 2, by decide +kernel, by decide +kernel⟩,
    ⟨{ idle.setF (WFL_STATE 0) WFL_STATE_STATE 7 |>.setF HNG_CAS_CFG HNG_CAS_CFG_ROLE 2 with cas := { t1 := some 5 } }, 5, by decide +kernel,
      by decide +kernel, by decide +kernel⟩,
    ⟨idle.setF HNG_CAS_CFG HNG_CAS_CFG_ROLE 1, by decide +kernel, by decide +kernel, by decide +kernel, by decide +kernel, by decide +kernel⟩,
    ⟨{ idle with cas := { hcalTimes := [5] } }, _, _, _, rfl, rfl, rfl, by decide +kernel, by decide +kernel⟩,
    ⟨calibrated, _, _, _, rfl, rfl, rfl, by decide +kernel, by decide +kernel, by decide +kernel, by decide +kernel, by decide +kernel,
      by decide +kernel, by decide +kernel, by decide +kernel, by decide +kernel, by decide +kernel⟩⟩

/-- The hypotheses of Obligations.HingeAndPinEdges can be met. -/
theorem witness_HingeAndPinEdges :
    (∃ (s : State), ∃ (u : State), ∃ (t : Nat), u = (s.toTbs t).capture 2 t ∧ u.hcalPulses = true) ∧
    (∃ (s : State), ∃ (u : State), ∃ (t : Nat), u = (s.toTbs t).capture 2 t ∧ u.hcalPulses = false) ∧
    (∃ (s : State), ∃ (u : State), ∃ (t : Nat), u = (s.toTbs t).capture 3 t ∧ u.hcalPulses = true) ∧
    (∃ (s : State), ∃ (u : State), ∃ (t : Nat), u = (s.toTbs t).capture 3 t ∧ u.hcalPulses = false) ∧
    (∃ (s : State), ∃ pin, pin < 16 ∧ bit s.pin.gpioIn pin = false) ∧
    (∃ (s : State), ∃ pin, pin < 16 ∧ bit s.pin.gpioIn pin = true) :=
  ⟨⟨{ idle with cas := { hcalUntil := 1000000000000 } }, _, 0, rfl, by decide +kernel⟩,
    ⟨idle, _, 0, rfl, by decide +kernel⟩,
    ⟨{ idle with cas := { hcalUntil := 1000000000000 } }, _, 0, rfl, by decide +kernel⟩,
    ⟨idle, _, 0, rfl, by decide +kernel⟩,
    ⟨idle, 15, by decide +kernel, by decide +kernel⟩,
    ⟨{ idle with pin := { gpioIn := 0x8000 } }, 15, by decide +kernel, by decide +kernel⟩⟩

/-- The hypotheses of Obligations.SupplyAndResetPins can be met. -/
theorem witness_SupplyAndResetPins :
    (∃ (s : State), ∃ mv, 5700 < mv ∧ s.boot.off = true ∧ s.boot.thermalOff = false ∧ s.pin.porstN = true) ∧
    (∃ (s : State), ∃ mv, 5700 < mv ∧ (s.boot.off = false ∨ s.boot.thermalOff = true ∨ s.pin.porstN = false)) ∧
    (∃ (s : State), ∃ mv, 40000 < mv ∧ s.boot.vinOk = true) ∧
    (∃ (s : State), (s.boot.off = false ∨ s.boot.thermalOff = true)) ∧
    (∃ (s : State), s.boot.off = true ∧ s.boot.thermalOff = false ∧ s.boot.vinOk = true) ∧
    (∃ (s : State), (s.boot.off = false ∨ s.boot.thermalOff = true ∨ s.boot.vinOk = false)) ∧
    (∃ (s : State), s.boot.off = true) ∧
    (∃ (s : State), s.boot.off = false) ∧
    (∃ (s : State), s.boot.off = false) :=
  ⟨⟨{ State.reset with boot := { off := true } }, 5701, by decide +kernel, by decide +kernel, by decide +kernel, by decide +kernel⟩,
    ⟨idle, 5701, by decide +kernel, by decide +kernel⟩,
    ⟨idle, 40001, by decide +kernel, by decide +kernel⟩,
    ⟨idle, by decide +kernel⟩,
    ⟨{ State.reset with boot := { off := true } }, by decide +kernel, by decide +kernel, by decide +kernel⟩,
    ⟨idle, by decide +kernel⟩,
    ⟨{ State.reset with boot := { off := true } }, by decide +kernel⟩,
    ⟨idle, by decide +kernel⟩,
    ⟨idle, by decide +kernel⟩⟩

/-- The hypotheses of Obligations.ClockEvents can be met. -/
theorem witness_ClockEvents :
    (∃ (s : State), s.boot.off = false ∧ s.fb CLK_STAT CLK_STAT_T_LOCK = true ∧ s.fb CLK_STAT CLK_STAT_H_LOCK = true) ∧
    (∃ (s : State), s.boot.off = false ∧ s.fb CLK_STAT CLK_STAT_T_LOCK = true ∧ s.fb CLK_STAT CLK_STAT_H_LOCK = true) ∧
    (∃ (s : State), s.boot.off = false ∧ s.fb CLK_STAT CLK_STAT_C_LOCK = true) ∧
    (∃ (s : State), ∃ (u : State), ∃ (v : State), ∃ t, u = { s.setF CLK_STAT CLK_STAT_REF_OK 1 with pin := { s.pin with refclk := true } } ∧
      v = (u.setF CLK_STAT CLK_STAT_T_LOCK 1).setF TIM_STATUS TIM_STATUS_TBS_GAP 1 ∧ s.boot.off = false ∧ s.boot.pllLostAt = some t ∧
      s.pllT = false ∧ (u.setF CLK_STAT CLK_STAT_T_LOCK 1).pllT = true ∧ (u.setF CLK_STAT CLK_STAT_T_LOCK 1).coreOn = true ∧ v.pllT = true ∧
      v.pllC = true) ∧
    (∃ (s : State), ∃ (u : State), ∃ (v : State), ∃ t, u = { s.setF CLK_STAT CLK_STAT_REF_OK 1 with pin := { s.pin with refclk := true } } ∧
      v = { u.setF CLK_STAT CLK_STAT_C_LOCK 1 with srv := { u.srv with sinks := [], frozen := false } } ∧ s.boot.off = false ∧
      s.boot.pllLostAt = some t ∧ s.pllT = true ∧ u.pllC = false ∧ v.pllT = true ∧ v.pllC = true) ∧
    (∃ (s : State), ∃ t, s.boot.off = false ∧ s.boot.pllLostAt = some t ∧
      (s.dev = .primed ∨ s.dev = .scanning ∨ s.dev = .hold ∨ s.dev = .thermalHold)) :=
  ⟨⟨idle, by decide +kernel, by decide +kernel, by decide +kernel⟩,
    ⟨idle, by decide +kernel, by decide +kernel, by decide +kernel⟩,
    ⟨idle, by decide +kernel, by decide +kernel⟩,
    ⟨{ (up 2).setF CLK_STAT CLK_STAT_T_LOCK 0 with boot := { pllLostAt := some 5 } }, _, _, 5, rfl, rfl, by decide +kernel, by decide +kernel,
      by decide +kernel, by decide +kernel, by decide +kernel, by decide +kernel, by decide +kernel⟩,
    ⟨{ (up 2).setF CLK_STAT CLK_STAT_C_LOCK 0 with boot := { pllLostAt := some 5 } }, _, _, 5, rfl, rfl, by decide +kernel, by decide +kernel,
      by decide +kernel, by decide +kernel, by decide +kernel, by decide +kernel⟩,
    ⟨{ scan with boot := { pllLostAt := some 5 } }, 5, by decide +kernel, by decide +kernel, by decide +kernel⟩⟩

set_option maxRecDepth 4000 in
/-- The hypotheses of Obligations.BootStages can be met. -/
theorem witness_BootStages :
    (∃ (s : State), s.atStage 1 = true) ∧
    (∃ (s : State), (s.atStage 2 = true ∨ s.atStage 0xE1 = true)) ∧
    (∃ (s : State), (s.atStage 2 = true ∨ s.atStage 0xE1 = true)) ∧
    (∃ (s : State), s.atStage 3 = true) ∧
    (∃ (s : State), ∃ readErr, ∃ slot, ∃ c, slot = s.stageSlot ∧ c = s.slotCode slot readErr ∧ (s.atStage 4 = true ∨ s.atStage 5 = true) ∧
      c = 1) ∧
    (∃ (s : State), ∃ readErr, ∃ slot, ∃ c, slot = s.stageSlot ∧ c = s.slotCode slot readErr ∧ (s.atStage 4 = true ∨ s.atStage 5 = true) ∧
      c ≠ 1 ∧ s.f GLB_BOOT (errFld (1 - slot)) = 0) ∧
    (∃ (s : State), ∃ readErr, ∃ slot, ∃ c, slot = s.stageSlot ∧ c = s.slotCode slot readErr ∧ (s.atStage 4 = true ∨ s.atStage 5 = true) ∧
      c ≠ 1 ∧ s.f GLB_BOOT (errFld (1 - slot)) ≠ 0) ∧
    (∃ (s : State), s.atStage 6 = true ∧ s.sectionBytes 0xF0 = none) ∧
    (∃ (s : State), ∃ d, s.atStage 6 = true ∧ s.sectionBytes 0xF0 = some d ∧ s.pin.vinMv < 9000) ∧
    (∃ (s : State), ∃ d, s.atStage 6 = true ∧ s.sectionBytes 0xF0 = some d ∧ 9000 ≤ s.pin.vinMv) ∧
    (∃ (s : State), s.atStage 7 = true) ∧
    (∃ (s : State), s.atStage 8 = true) ∧
    (∃ (s : State), s.atStage 8 = true) ∧
    (∃ (s : State), s.atStage 9 = true) ∧
    (∃ (s : State), s.atStage 10 = true) :=
  ⟨⟨State.reset, by decide +kernel⟩,
    ⟨State.reset.setF GLB_BOOT GLB_BOOT_STAGE 2, by decide +kernel⟩,
    ⟨State.reset.setF GLB_BOOT GLB_BOOT_STAGE 0xE1, by decide +kernel⟩,
    ⟨State.reset.setF GLB_BOOT GLB_BOOT_STAGE 3, by decide +kernel⟩,
    ⟨imaged, false, _, _, rfl, rfl, by decide +kernel, by decide +kernel⟩,
    ⟨State.reset.setF GLB_BOOT GLB_BOOT_STAGE 4, false, _, _, rfl, rfl, by decide +kernel, by decide +kernel, by decide +kernel⟩,
    ⟨(State.reset.setF GLB_BOOT GLB_BOOT_STAGE 5).setF GLB_BOOT GLB_BOOT_ERR_A 4, false, _, _, rfl, rfl, by decide +kernel, by decide +kernel,
      by decide +kernel⟩,
    ⟨State.reset.setF GLB_BOOT GLB_BOOT_STAGE 6, by decide +kernel, by decide +kernel⟩,
    ⟨{ State.reset.setF GLB_BOOT GLB_BOOT_STAGE 6 with boot := { image := fuseImage }, pin := { vinMv := 8999 } }, _, by decide +kernel, rfl,
      by decide +kernel⟩,
    ⟨{ State.reset.setF GLB_BOOT GLB_BOOT_STAGE 6 with boot := { image := fuseImage }, pin := { vinMv := 9000 } }, _, by decide +kernel, rfl,
      by decide +kernel⟩,
    ⟨State.reset.setF GLB_BOOT GLB_BOOT_STAGE 7, by decide +kernel⟩,
    ⟨State.reset.setF GLB_BOOT GLB_BOOT_STAGE 8, by decide +kernel⟩,
    ⟨State.reset.setF GLB_BOOT GLB_BOOT_STAGE 8, by decide +kernel⟩,
    ⟨State.reset.setF GLB_BOOT GLB_BOOT_STAGE 9, by decide +kernel⟩,
    ⟨State.reset.setF GLB_BOOT GLB_BOOT_STAGE 10, by decide +kernel⟩⟩

/-- The hypotheses of Obligations.ThermalAndLogClocks can be met. -/
theorem witness_ThermalAndLogClocks :
    (∃ (s : State), ∃ i, i < 12 ∧ (s.boot.off = false ∨ s.boot.thermalOff = true)) ∧
    (∃ (s : State), ∃ (u : State), ∃ (v : State), ∃ thr, u = s.at_ (s.thm.thrAt + 250 * tickMs) ∧ thr = u.f THM_STATE THM_STATE_THR ∧
      v = u.thrTimer u.thm.hot ∧ runsCommands s.dev = true ∧ v.throttleLim ≤ v.tj ∧ 0 < thr) ∧
    (∃ (s : State), ∃ (u : State), ∃ (v : State), ∃ thr, u = s.at_ (s.thm.thrAt + 250 * tickMs) ∧ thr = u.f THM_STATE THM_STATE_THR ∧
      v = u.thrTimer u.thm.hot ∧ runsCommands s.dev = true ∧ v.tj ≤ v.throttleLim - 80 ∧ thr < 8) ∧
    (∃ (s : State), ∃ (u : State), ∃ (v : State), u = s.at_ (s.thm.thrAt + 250 * tickMs) ∧ v = u.thrTimer u.thm.hot ∧
      runsCommands s.dev = true ∧ v.throttleLim - 80 < v.tj ∧ v.tj < v.throttleLim) ∧
    (∃ (s : State), ∃ body, ∃ rest, ∃ recent, recent = s.thm.writes.filter (fun t => decide (s.tm.now < t + tickS)) ∧
      (s.boot.off = false ∨ s.boot.thermalOff = true) ∧ s.thm.queue = body :: rest ∧ (recent.length < 16 ∨ leAt body 0 1 ≠ nvTrip ∧
      leAt body 0 1 ≠ nvFault)) ∧
    (∃ (s : State), ∃ body, ∃ rest, ∃ recent, recent = s.thm.writes.filter (fun t => decide (s.tm.now < t + tickS)) ∧
      (s.boot.off = false ∨ s.boot.thermalOff = true) ∧ s.thm.queue = body :: rest ∧ 16 ≤ recent.length ∧
      (leAt body 0 1 = nvTrip ∨ leAt body 0 1 = nvFault)) :=
  ⟨⟨idle, 11, by decide +kernel, by decide +kernel⟩,
    ⟨idle.setF THM_TJ THM_TJ_TJ 1920 |>.setF THM_LIM0 THM_LIM0_THROTTLE 1920 |>.setF THM_STATE THM_STATE_THR 8, _, _, _, rfl, rfl, rfl,
      by decide +kernel, by decide +kernel, by decide +kernel⟩,
    ⟨idle.setF THM_TJ THM_TJ_TJ 1840 |>.setF THM_LIM0 THM_LIM0_THROTTLE 1920 |>.setF THM_STATE THM_STATE_THR 7, _, _, _, rfl, rfl, rfl,
      by decide +kernel, by decide +kernel, by decide +kernel⟩,
    ⟨idle.setF THM_TJ THM_TJ_TJ 1841 |>.setF THM_LIM0 THM_LIM0_THROTTLE 1920 |>.setF THM_STATE THM_STATE_THR 8, _, _, rfl, rfl,
      by decide +kernel, by decide +kernel, by decide +kernel⟩,
    ⟨{ idle with thm := { queue := [zeros 48] } }, zeros 48, [], _, rfl, by decide +kernel, by decide +kernel, by decide +kernel⟩,
    ⟨{ idle with thm := { queue := [leBytes 1 nvTrip ++ zeros 47], writes := List.replicate 16 0 } }, leBytes 1 nvTrip ++ zeros 47, [], _,
      rfl, by decide +kernel, by decide +kernel, by decide +kernel, by decide +kernel⟩⟩

/-- The hypotheses of Obligations.StepRunsTheFrontCommand can be met. -/
theorem witness_StepRunsTheFrontCommand :
    (∃ (s : State), s.pending = [] ∧ s.boot.off = true) ∧
    (∃ (s : State), s.pending = [] ∧ s.boot.off = false) :=
  ⟨⟨{ State.reset with boot := { off := true } }, by decide +kernel, by decide +kernel⟩,
    ⟨idle, by decide +kernel, by decide +kernel⟩⟩

/-- The hypotheses of Obligations.RequestsThatDoNotRun can be met. -/
theorem witness_RequestsThatDoNotRun :
    (∃ (s : State), ∃ (q : Req), ∃ (p : List Byte), ∃ (failed : Nat), ∃ (c : Instr), ∃ (opc : Nat), (c,
      opc) ∈ bareRequests q p failed ++ otherRequests q p ∧ runsCommands s.dev = false) ∧
    (∃ (s : State), ∃ (t : State), ∃ (q : Req), ∃ (p : List Byte), ∃ (failed : Nat), ∃ (c : Instr), ∃ (opc : Nat), (c,
      opc) ∈ bareRequests q p failed ++ otherRequests q p ∧ runsCommands s.dev = true ∧ s.dequeue q opc p = t ∧ t.knownOpcode opc = false) ∧
    (∃ (s : State), ∃ (t : State), ∃ (q : Req), ∃ (p : List Byte), ∃ (failed : Nat), ∃ (c : Instr), ∃ (opc : Nat), (c,
      opc) ∈ bareRequests q p failed ++ otherRequests q p ∧ runsCommands s.dev = true ∧ s.dequeue q opc p = t ∧ t.knownOpcode opc = true ∧
      allowedIn opc t.dev = false) ∧
    (∃ (s : State), ∃ (t : State), ∃ (q : Req), ∃ (p : List Byte), ∃ (failed : Nat), ∃ (c : Instr), ∃ (opc : Nat), (c,
      opc) ∈ bareRequests q p failed ++ otherRequests q p ∧ (c, opc) ∈ bareRequests q p failed ∧ runs s q opc p t ∧ p ≠ []) :=
  ⟨⟨State.reset, hq, [], 0, .getState hq [], 0x0101, by decide +kernel, by decide +kernel⟩,
    ⟨{ idle with boot := { shadows := { variant := 2 } } }, _, hq, [], 0, .zoneCommit hq [], 0x0504, by decide +kernel, by decide +kernel,
      rfl, by decide +kernel⟩,
    ⟨up 15, _, hq, [], 0, .scanStart hq [], 0x0302, by decide +kernel, by decide +kernel, rfl, by decide +kernel, by decide +kernel⟩,
    ⟨asked (idle) 0x0101 ([0]), _, hq, [0], 0, .getState hq [0], 0x0101, by decide +kernel, by decide +kernel, ⟨by decide +kernel, rfl,
      by decide +kernel, by decide +kernel⟩, by decide +kernel⟩⟩

/-- The hypotheses of Obligations.AccessCodesOfAWrite can be met. -/
theorem witness_AccessCodesOfAWrite :
    (∃ (a : Nat), ∃ (c : Card), ∃ (ix : List Nat), ∃ (f : Fld), cardAt a = some (c, ix) ∧ f ∈ c.flds ∧ f.acc = .rw) ∧
    (∃ (a : Nat), ∃ (c : Card), ∃ (ix : List Nat), ∃ (f : Fld), cardAt a = some (c, ix) ∧ f ∈ c.flds ∧
      (f.acc = .ro ∨ f.acc = .wo ∨ f.acc = .rs)) ∧
    (∃ (a : Nat), ∃ (c : Card), ∃ (ix : List Nat), ∃ (f : Fld), cardAt a = some (c, ix) ∧ f ∈ c.flds ∧ f.acc = .w1c) ∧
    (∃ (a : Nat), ∃ (c : Card), ∃ (ix : List Nat), ∃ (f : Fld), cardAt a = some (c, ix) ∧ f ∈ c.flds ∧ f.acc = .w1s) :=
  ⟨⟨GLB_BEHAVIOUR, _, _, GLB_BEHAVIOUR_LEVEL, rfl, by decide +kernel, by decide +kernel⟩,
    ⟨GLB_STATE, _, _, GLB_STATE_STATE, rfl, by decide +kernel, by decide +kernel⟩,
    ⟨CMD_HSPI_STATUS, _, _, CMD_HSPI_STATUS_OVR, rfl, by decide +kernel, by decide +kernel⟩,
    ⟨CMD_AUTH_CTRL, _, _, CMD_AUTH_CTRL_REQ_HSPI, rfl, by decide +kernel, by decide +kernel⟩⟩

/-- The hypotheses of Obligations.RegisterReadsChangeOnlyTheLatch can be met. -/
theorem witness_RegisterReadsChangeOnlyTheLatch :
    (∃ (a : Nat), rsLow a = false ∧ rsOf a = none) ∧
    (∃ (s : State), ∃ (a : Nat), (s.isReg a = false ∨ s.regOn a = false)) :=
  ⟨⟨GLB_STATE, by decide +kernel, by decide +kernel⟩,
    ⟨idle, 0x00120000, by decide +kernel⟩⟩

/-- The hypotheses of Obligations.LatchWhileArmedMakesDark can be met. -/
theorem witness_LatchWhileArmedMakesDark :
    (∃ (s : State), ∃ (codes : List Nat), ∃ (c : Nat), s.esf.armed = true ∧ c ∈ codes ∧ s.latched c = false) :=
  ⟨{ idle with esf := { armed := true } }, [14], 14, by decide +kernel, by decide +kernel, by decide +kernel⟩

/-- The hypotheses of Obligations.CalibrationStatusReply can be met. -/
theorem witness_CalibrationStatusReply :
    (∃ (s : State), ∃ (t : State), ∃ (q : Req), ∃ (p : List Byte), ∃ (e : CalEnd), runs s q 0x0401 p t ∧ p.length = 4 ∧ 1 ≤ fld p 16 1 ∧
      fld p 16 1 ≤ 8 ∧ allZero (fldBytes p 17 3) = true ∧ Sp.find t.cal.ends (fld p 16 1) = some e) ∧
    (∃ (s : State), ∃ (t : State), ∃ (q : Req), ∃ (p : List Byte), runs s q 0x0401 p t ∧ p.length = 4 ∧ 1 ≤ fld p 16 1 ∧ fld p 16 1 ≤ 8 ∧
      allZero (fldBytes p 17 3) = true ∧ Sp.find t.cal.ends (fld p 16 1) = none) ∧
    (∃ (s : State), ∃ (t : State), ∃ (q : Req), ∃ (p : List Byte), runs s q 0x0401 p t ∧ p.length = 4 ∧ (fld p 16 1 = 0 ∨ 8 < fld p 16 1)) ∧
    (∃ (s : State), ∃ (t : State), ∃ (q : Req), ∃ (p : List Byte), runs s q 0x0401 p t ∧ p.length = 4 ∧ 1 ≤ fld p 16 1 ∧ fld p 16 1 ≤ 8 ∧
      allZero (fldBytes p 17 3) = false) ∧
    (∃ (s : State), ∃ (t : State), ∃ (q : Req), ∃ (p : List Byte), runs s q 0x0401 p t ∧ p.length ≠ 4) :=
  ⟨⟨asked ({ idle with cal := { ends := [(8, {})] } }) 0x0401 (leBytes 4 8), _, hq, leBytes 4 8, {}, ⟨by decide +kernel, rfl,
      by decide +kernel, by decide +kernel⟩, by decide +kernel, by decide +kernel, by decide +kernel, by decide +kernel, by decide +kernel⟩,
    ⟨asked (idle) 0x0401 (leBytes 4 1), _, hq, leBytes 4 1, ⟨by decide +kernel, rfl, by decide +kernel, by decide +kernel⟩, by decide +kernel,
      by decide +kernel, by decide +kernel, by decide +kernel, by decide +kernel⟩,
    ⟨asked (idle) 0x0401 (leBytes 4 9), _, hq, leBytes 4 9, ⟨by decide +kernel, rfl, by decide +kernel, by decide +kernel⟩, by decide +kernel,
      by decide +kernel⟩,
    ⟨asked (idle) 0x0401 (leBytes 4 257), _, hq, leBytes 4 257, ⟨by decide +kernel, rfl, by decide +kernel, by decide +kernel⟩,
      by decide +kernel, by decide +kernel, by decide +kernel, by decide +kernel⟩,
    ⟨asked (idle) 0x0401 (zeros 5), _, hq, zeros 5, ⟨by decide +kernel, rfl, by decide +kernel, by decide +kernel⟩, by decide +kernel⟩⟩

/-- The hypotheses of Obligations.WarningLevel can be met. -/
theorem witness_WarningLevel :
    (∃ (s : State), canonical s = true ∧ s.fb THM_STATE THM_STATE_WARN = false ∧ s.warnLim ≤ s.tj) ∧
    (∃ (s : State), canonical s = true ∧ s.fb THM_STATE THM_STATE_WARN = false ∧ s.warnLim ≤ s.tj ∧
      bit (s.f CMD_EVT_MASK CMD_EVT_MASK_ENABLE) evThermal = true) ∧
    (∃ (s : State), canonical s = true ∧ s.fb THM_STATE THM_STATE_WARN = true ∧ s.tj ≤ s.warnLim - 80) :=
  ⟨⟨idle.setF THM_TJ THM_TJ_TJ 1760 |>.setF THM_LIM0 THM_LIM0_WARN 1760, by decide +kernel, by decide +kernel, by decide +kernel⟩,
    ⟨idle.setF THM_TJ THM_TJ_TJ 1760 |>.setF THM_LIM0 THM_LIM0_WARN 1760 |>.setF CMD_EVT_MASK CMD_EVT_MASK_ENABLE 1023, by decide +kernel,
      by decide +kernel, by decide +kernel, by decide +kernel⟩,
    ⟨idle.setF THM_TJ THM_TJ_TJ 1680 |>.setF THM_LIM0 THM_LIM0_WARN 1760 |>.setF THM_STATE THM_STATE_WARN 1, by decide +kernel,
      by decide +kernel, by decide +kernel⟩⟩

/-- The hypotheses of Obligations.DmaRequestsMissed can be met. -/
theorem witness_DmaRequestsMissed :
    (∃ (s : State), ∃ (c : Nat), ∃ (req : Nat), canonical s = true ∧ s.domOn 19 = true ∧ c < 16 ∧ s.dmaEn c = true ∧
      s.f (DMA_CH_CFG c) DMA_CH_CFG_REQ = req ∧ (req = 4 ∨ req = 5) ∧ (s.dch c).pend = true) ∧
    (∃ (s : State), ∃ (c : Nat), ∃ (req : Nat), canonical s = true ∧ s.domOn 19 = true ∧ c < 16 ∧ s.dmaEn c = true ∧
      s.f (DMA_CH_CFG c) DMA_CH_CFG_REQ = req ∧ (req = 4 ∨ req = 5) ∧ (s.dch c).pend = false) ∧
    (∃ (s : State), ∃ (t : State), ∃ (c : Nat), ∃ (req : Nat), t = s.at_ (s.dch c).timerAt ∧ canonical s = true ∧ s.domOn 19 = true ∧ c < 16 ∧
      s.dmaEn c = true ∧ s.f (DMA_CH_CFG c) DMA_CH_CFG_REQ = req ∧ req = 3 ∧ (t.dch c).pend = true) :=
  ⟨⟨{ ((up 2).setF (DMA_CH_CTRL 15) DMA_CH_CTRL_EN 1).setF (DMA_CH_CFG 15) DMA_CH_CFG_REQ 4 with dma := { ch := [(15, { pend := true })] } },
      15, 4, by decide +kernel, by decide +kernel, by decide +kernel, by decide +kernel, by decide +kernel, by decide +kernel,
      by decide +kernel⟩,
    ⟨{ ((up 2).setF (DMA_CH_CTRL 15) DMA_CH_CTRL_EN 1).setF (DMA_CH_CFG 15) DMA_CH_CFG_REQ 5 with dma := { ch := [(15, { pend := false })] } },
      15, 5, by decide +kernel, by decide +kernel, by decide +kernel, by decide +kernel, by decide +kernel, by decide +kernel,
      by decide +kernel⟩,
    ⟨{ ((up 2).setF (DMA_CH_CTRL 15) DMA_CH_CTRL_EN 1).setF (DMA_CH_CFG 15) DMA_CH_CFG_REQ 3 with dma := { ch := [(15, { pend := true })] } },
      _, 15, 3, rfl, by decide +kernel, by decide +kernel, by decide +kernel, by decide +kernel, by decide +kernel, by decide +kernel,
      by decide +kernel⟩⟩

/-- The hypotheses of Obligations.StepKeepsCanonicalForm can be met, by a step that runs a command. -/
theorem witness_StepKeepsCanonicalForm : ∃ s t : State, canonical s = true ∧ step s = .next t :=
  ⟨{ State.reset with pending := [.resetLow] }, _, by decide +kernel, rfl⟩

end Sys2Proof.Tests
end

section
/-! The TIMER, FRAME and TICK requests of the DMA engine (R439, R441): what a request does to the channel it reaches, that it leaves every
other channel alone, and that the loop over the sixteen channels therefore reaches each selected channel as it was before the loop. -/

namespace Sys2Proof.Machine

open Reg

/-! ### The channel table and the registers beside it -/

@[simp] theorem State.rd_setDch (s : State) (c : Nat) (d : DmaCh) (a : Nat) : (s.setDch c d).rd a = s.rd a := rfl

@[simp] theorem State.dch_setF (s : State) (a : Nat) (g : Fld) (v c : Nat) : (s.setF a g v).dch c = s.dch c := rfl

@[simp] theorem State.dch_addSat (s : State) (a : Nat) (g : Fld) (n c : Nat) : (s.addSat a g n).dch c = s.dch c := rfl

/-- A table need not be canonical for a write of a value that is not the default to be read back. -/
theorem Sp.get_put_of_ne_default {α : Type} [DecidableEq α] {d : Nat → α} {k : Nat} {v : α} (hv : v ≠ d k) (m : List (Nat × α))
    (j : Nat) : Sp.get d (Sp.put d m k v) j = if j = k then v else Sp.get d m j := by
  simp only [Sp.get, Sp.put, if_neg hv, Sp.find_ins]
  split <;> rfl

/-- A channel with a request outstanding is not the default of the table, so it is stored. -/
theorem State.dch_setDch_of_pend {d : DmaCh} (hd : d.pend = true) (s : State) (c j : Nat) :
    (s.setDch c d).dch j = if j = c then d else s.dch j := by
  have hne : d ≠ {} := by rintro rfl; cases hd
  exact Sp.get_put_of_ne_default (d := fun _ => {}) hne s.dma.ch j

theorem State.pend_setDch {d : DmaCh} (hd : d.pend = true) (s : State) (c : Nat) : ((s.setDch c d).dch c).pend = true := by
  rw [dch_setDch_of_pend hd, if_pos rfl, hd]

/-! ### A request that reaches a channel -/

theorem State.dmaPend_of_pend {s : State} {c : Nat} (h : (s.dch c).pend = true) :
    s.dmaPend c = s.addSat (DMA_CH_CNT c) DMA_CH_CNT_MISS 1 := if_pos h

theorem State.dmaPend_of_idle {s : State} {c : Nat} (h : (s.dch c).pend = false) :
    s.dmaPend c = (s.setDch c { s.dch c with pend := true }).setF (DMA_CH_CTRL c) DMA_CH_CTRL_REQ 1 :=
  if_neg (by simp [h])

/-- A request writes no register but CNT and CTRL of its channel. -/
theorem State.rd_dmaPend {s : State} (hw : Sp.wf resetWord s.regs = true) {c a : Nat} (hcnt : a ≠ DMA_CH_CNT c)
    (hctrl : a ≠ DMA_CH_CTRL c) : (s.dmaPend c).rd a = s.rd a := by
  cases h : (s.dch c).pend with
  | true => rw [dmaPend_of_pend h, addSat, rd_setF_ne hw _ _ hcnt]
  | false =>
    have hw' : Sp.wf resetWord (s.setDch c { s.dch c with pend := true }).regs = true := hw
    rw [dmaPend_of_idle h, rd_setF_ne hw' _ _ hctrl, rd_setDch]

theorem State.dch_dmaPend (s : State) (c j : Nat) :
    (s.dmaPend c).dch j = if j = c then { s.dch c with pend := true } else s.dch j := by
  cases h : (s.dch c).pend with
  | true =>
    have hd : { s.dch c with pend := true } = s.dch c := by rw [← h]
    rw [dmaPend_of_pend h, dch_addSat, hd]
    split
    · next hj => rw [hj]
    · rfl
  | false => rw [dmaPend_of_idle h, dch_setF, dch_setDch_of_pend rfl]

/-- After a request its channel has one outstanding, kept now or before (R441). -/
theorem State.pend_dmaPend (s : State) (c : Nat) : ((s.dmaPend c).dch c).pend = true := by rw [dch_dmaPend, if_pos rfl]

/-- One more on a saturating counter of 16 bits. -/
theorem satU_16_succ (n : Nat) (hn : n < 65536) : satU 16 (n + 1) % 2 ^ 16 = Nat.min (n + 1) 65535 := by
  have hmin : Nat.min (n + 1) 65535 = min (n + 1) 65535 := rfl
  rw [hmin, satU]
  split <;> omega

theorem State.miss_dmaPend_of_pend {s : State} (hw : Sp.wf resetWord s.regs = true) {c : Nat} (h : (s.dch c).pend = true) :
    (s.dmaPend c).f (DMA_CH_CNT c) DMA_CH_CNT_MISS = Nat.min (s.f (DMA_CH_CNT c) DMA_CH_CNT_MISS + 1) 65535 := by
  rw [dmaPend_of_pend h, addSat, f_setF_self hw _ _ _ (by decide)]
  exact satU_16_succ _ (bits_lt ..)

theorem State.miss_dmaPend_of_idle {s : State} (hw : Sp.wf resetWord s.regs = true) {c : Nat} (h : (s.dch c).pend = false) :
    (s.dmaPend c).f (DMA_CH_CNT c) DMA_CH_CNT_MISS = s.f (DMA_CH_CNT c) DMA_CH_CNT_MISS := by
  have hw' : Sp.wf resetWord (s.setDch c { s.dch c with pend := true }).regs = true := hw
  have hne : DMA_CH_CNT c ≠ DMA_CH_CTRL c := by unfold DMA_CH_CNT DMA_CH_CTRL; omega
  rw [dmaPend_of_idle h, f, rd_setF_ne hw' _ _ hne, rd_setDch, f]

/-! ### The loop over the channels -/

/-- What one channel's turn in the loop of a request source does. -/
def State.dmaAsk (req : Nat) (s : State) (c : Nat) : State :=
  if s.dmaEn c && s.f (DMA_CH_CFG c) DMA_CH_CFG_REQ == req then s.dmaPend c else s

theorem State.dmaRequest_eq_foldl {s : State} (hd : s.domOn 19 = true) (req : Nat) :
    s.dmaRequest req = (List.range 16).foldl (State.dmaAsk req) s := by
  unfold dmaRequest; rw [hd]; rfl

theorem State.dmaAsk_of_selected {s : State} {c req : Nat} (he : s.dmaEn c = true) (hr : s.f (DMA_CH_CFG c) DMA_CH_CFG_REQ = req) :
    s.dmaAsk req c = s.dmaPend c := by
  simp [dmaAsk, he, hr]

theorem State.dmaAsk_keeps {s0 s : State} {req c : Nat} (hK : Keeps s0 s) : Keeps s0 (s.dmaAsk req c) :=
  Keeps.ite (State.dmaPend_keeps hK) hK

/-- Two states agree on a DMA channel as far as the request loop reads and writes it. -/
structure SameDmaChannel (c : Nat) (s t : State) : Prop where
  dch : t.dch c = s.dch c
  ctrl : t.rd (DMA_CH_CTRL c) = s.rd (DMA_CH_CTRL c)
  cfg : t.rd (DMA_CH_CFG c) = s.rd (DMA_CH_CFG c)
  cnt : t.rd (DMA_CH_CNT c) = s.rd (DMA_CH_CNT c)

namespace SameDmaChannel

theorem refl (c : Nat) (s : State) : SameDmaChannel c s s := ⟨rfl, rfl, rfl, rfl⟩

variable {c : Nat} {s t u : State}

theorem trans (h : SameDmaChannel c s t) (k : SameDmaChannel c t u) : SameDmaChannel c s u :=
  ⟨k.dch.trans h.dch, k.ctrl.trans h.ctrl, k.cfg.trans h.cfg, k.cnt.trans h.cnt⟩

theorem dmaEn (h : SameDmaChannel c s t) : t.dmaEn c = s.dmaEn c := by
  simp only [State.dmaEn, State.fb, State.f, h.ctrl]

theorem req (h : SameDmaChannel c s t) : t.f (DMA_CH_CFG c) DMA_CH_CFG_REQ = s.f (DMA_CH_CFG c) DMA_CH_CFG_REQ := by
  rw [State.f, State.f, h.cfg]

theorem miss (h : SameDmaChannel c s t) : t.f (DMA_CH_CNT c) DMA_CH_CNT_MISS = s.f (DMA_CH_CNT c) DMA_CH_CNT_MISS := by
  rw [State.f, State.f, h.cnt]

/-- A request that reaches another channel. -/
theorem dmaPend (hw : Sp.wf resetWord s.regs = true) {j : Nat} (hj : j ≠ c) : SameDmaChannel c s (s.dmaPend j) where
  dch := by rw [State.dch_dmaPend, if_neg hj.symm]
  ctrl := State.rd_dmaPend hw (by unfold DMA_CH_CTRL DMA_CH_CNT; omega) (by unfold DMA_CH_CTRL; omega)
  cfg := State.rd_dmaPend hw (by unfold DMA_CH_CFG DMA_CH_CNT; omega) (by unfold DMA_CH_CFG DMA_CH_CTRL; omega)
  cnt := State.rd_dmaPend hw (by unfold DMA_CH_CNT; omega) (by unfold DMA_CH_CNT DMA_CH_CTRL; omega)

theorem dmaAsk (hw : Sp.wf resetWord s.regs = true) (r : Nat) {j : Nat} (hj : j ≠ c) : SameDmaChannel c s (s.dmaAsk r j) := by
  unfold State.dmaAsk
  split
  · exact dmaPend hw hj
  · exact refl c s

/-- The turns of other channels. -/
theorem foldl_dmaAsk (r : Nat) (l : List Nat) (hw : Sp.wf resetWord s.regs = true) (hc : c ∉ l) :
    SameDmaChannel c s (l.foldl (State.dmaAsk r) s) := by
  induction l generalizing s with
  | nil => exact refl c s
  | cons j l ih =>
    obtain ⟨hj, hl⟩ := not_or.1 (mt List.mem_cons.2 hc)
    have hw' : Sp.wf resetWord (s.dmaAsk r j).regs = true := (State.dmaAsk_keeps (Keeps.rfl s)).regs hw
    exact (dmaAsk hw r (Ne.symm hj)).trans (ih hw' hl)

end SameDmaChannel

/-- A request source reaches a channel that selects it once, in a state that agrees with the first one on that channel, and what it leaves
there stays. -/
theorem State.dmaRequest_reaches {s : State} {c req : Nat} (hw : Sp.wf resetWord s.regs = true) (hd : s.domOn 19 = true) (hc : c < 16)
    (he : s.dmaEn c = true) (hr : s.f (DMA_CH_CFG c) DMA_CH_CFG_REQ = req) :
    ∃ t : State, Sp.wf resetWord t.regs = true ∧ SameDmaChannel c s t ∧ SameDmaChannel c (t.dmaPend c) (s.dmaRequest req) := by
  obtain ⟨before, after, hsplit⟩ := List.append_of_mem (List.mem_range.2 hc)
  have hnodup : (before ++ c :: after).Nodup := hsplit ▸ List.nodup_range
  obtain ⟨hafter, hbefore⟩ : c ∉ after ∧ c ∉ before := by
    have := List.nodup_middle.1 hnodup
    simp only [List.nodup_cons, List.mem_append, not_or] at this
    exact this.1.symm
  let t := before.foldl (State.dmaAsk req) s
  have hsame : SameDmaChannel c s t := .foldl_dmaAsk req before hw hbefore
  have hwt : Sp.wf resetWord t.regs = true := (Keeps.foldl (Keeps.rfl s) fun _ _ => dmaAsk_keeps).regs hw
  have hturn : t.dmaAsk req c = t.dmaPend c := dmaAsk_of_selected (hsame.dmaEn.trans he) (hsame.req.trans hr)
  have hloop : s.dmaRequest req = after.foldl (State.dmaAsk req) (t.dmaPend c) := by
    rw [dmaRequest_eq_foldl hd, hsplit, List.foldl_append, List.foldl_cons, hturn]
  have hwp : Sp.wf resetWord (t.dmaPend c).regs = true := (dmaPend_keeps (Keeps.rfl t)).regs hwt
  exact ⟨t, hwt, hsame, hloop ▸ .foldl_dmaAsk req after hwp hafter⟩

/-! ### The TIMER request -/

/-- What the expiry of an enabled channel's TIMER request does: time passes to the due moment, the next one is set, and the request
reaches the channel (R439). -/
theorem exec_dmaTimerRequest_of_selected {s t : State} {c : Nat} (hd : s.domOn 19 = true) (hc : c < 16) (he : s.dmaEn c = true)
    (hr : s.f (DMA_CH_CFG c) DMA_CH_CFG_REQ = 3) (ht : t = s.at_ (s.dch c).timerAt) :
    exec (.dmaTimerRequest c) s =
      .next ((t.setDch c { t.dch c with timerAt := (s.dch c).timerAt + t.dmaPeriod c }).dmaPend c) := by
  have hexec : exec (.dmaTimerRequest c) s = execDmaTimerRequest c s := rfl
  subst ht
  rw [hexec, execDmaTimerRequest, if_neg (by simp [hd, hc, he, hr])]

/-- Settles O59: the loop reaches the channel once, in a state that agrees with the first one on it; there a request that
meets an outstanding one counts in MISS and any other is kept. Setting a TIMER channel's next due moment leaves its outstanding request. -/
theorem dmaRequestsMissed : Obligations.DmaRequestsMissed := by
  intro s t u c req hcan hd hc he hr
  obtain ⟨v, hwv, hbefore, hafter⟩ := State.dmaRequest_reaches (canonical_iff.1 hcan).1 hd hc he hr
  have hkept : ((s.dmaRequest req).dch c).pend = true := by rw [hafter.dch]; exact v.pend_dmaPend c
  refine ⟨fun _ hpend => ⟨hkept, ?_⟩, fun _ hidle => ⟨hkept, ?_⟩, ?_⟩
  · rw [hafter.miss, State.miss_dmaPend_of_pend hwv (by rw [hbefore.dch, hpend]), hbefore.miss]
  · rw [hafter.miss, State.miss_dmaPend_of_idle hwv (by rw [hbefore.dch, hidle]), hbefore.miss]
  · intro h3 ht hu hpend
    have hu' : (u.dch c).pend = true := by rw [hu, State.pend_setDch]; exact hpend
    rw [exec_dmaTimerRequest_of_selected hd hc he (hr.trans h3) ht, ← hu, State.dmaPend_of_pend hu']

end Sys2Proof.Machine
end

section
/-! The course of an event (R61–R63) through the register file: sending a datagram writes no register but the port's count of frames
dropped for want of an address, so an event writes its own two registers and those counts, and takes one sequence number. From this, what
the warning level of R475 leaves in its registers. -/

namespace Sys2Proof.Machine

open Reg

/-! ### A field write and the rest of the register file -/

theorem State.setF_regs_wf {s : State} (hw : Sp.wf resetWord s.regs = true) (a : Nat) (g : Fld) (v : Nat) :
    Sp.wf resetWord (s.setF a g v).regs = true := wr_regs_wf hw ..

theorem State.f_setF_ne {s : State} (hw : Sp.wf resetWord s.regs = true) {a b : Nat} (g k : Fld) (v : Nat) (hb : b ≠ a) :
    (s.setF a g v).f b k = s.f b k := by rw [f, rd_setF_ne hw _ _ hb, f]

/-! ### Sending a datagram -/

@[simp] theorem State.setEth_regs (s : State) (p : Port) (e : Eth) : (s.setEth p e).regs = s.regs := by cases p <;> rfl

@[simp] theorem State.enqueue_regs (s : State) (p : Port) (e : TxEntry) : (s.enqueue p e).regs = s.regs := by
  unfold enqueue
  split
  · exact setEth_regs ..
  · rfl

@[simp] theorem State.sendBody_regs (s : State) (p : Port) (c : TxClass) (dst : Nat) (body : Body) (n : Nat) (seq : Option Nat)
    (e : TxEntry → TxEntry) : (s.sendBody p c dst body n seq e).regs = s.regs := enqueue_regs ..

@[simp] theorem State.sendPrp_regs (s : State) (p : Port) (c : TxClass) (dst : Nat) (body : Body) (n : Nat) (inPrp : Bool)
    (e : TxEntry → TxEntry) : (s.sendPrp p c dst body n inPrp e).regs = s.regs := by
  unfold sendPrp
  split
  · rw [sendBody_regs, sendBody_regs]
  · exact sendBody_regs ..

@[simp] theorem State.startResolve_regs (s : State) (p : Port) (ip : Ip) : (s.startResolve p ip).regs = s.regs := by
  unfold startResolve
  split
  · rfl
  · split <;> rw [sendPrp_regs, setEth_regs]

/-- A register reads as the register file holds it. -/
theorem State.rd_eq_of_regs_eq {s t : State} (h : t.regs = s.regs) (a : Nat) : t.rd a = s.rd a := by rw [rd, rd, h]

/-- A dropped frame is counted in a register of its port and in no other. -/
theorem State.rd_noRes {s : State} (hw : Sp.wf resetWord s.regs = true) {p : Port} {a : Nat} (ha : a ≠ ETHx_CNT_TXERR (portIx p)) :
    (s.noRes p).rd a = s.rd a := rd_setF_ne hw _ _ ha

/-- A datagram is queued without a register written, or dropped and counted (R353, R362). -/
theorem State.rd_sendUdp {s : State} (hw : Sp.wf resetWord s.regs = true) {p : Port} {a : Nat} (ha : a ≠ ETHx_CNT_TXERR (portIx p))
    (c : TxClass) (dst : Ip) (sport dport : Nat) (payload : List Byte) (inPrp : Bool) (e : TxEntry → TxEntry) :
    (s.sendUdp p c dst sport dport payload inPrp e).rd a = s.rd a := by
  unfold sendUdp
  split
  · exact rd_noRes hw ha
  · dsimp only
    split
    · exact rd_eq_of_regs_eq (sendPrp_regs ..) a
    · split
      · exact rd_eq_of_regs_eq (sendPrp_regs ..) a
      · rw [rd_noRes (by rwa [startResolve_regs]) ha, rd_eq_of_regs_eq (startResolve_regs ..)]

/-! ### Raising an event -/

/-- The registers that raising an event can write: the flags and counts of the event queues, and the drop counts of the ports. -/
def eventRegs : List Nat := [CMD_EVT_STATUS, CMD_EVT_SEQ, ETHx_CNT_TXERR (portIx .A), ETHx_CNT_TXERR (portIx .B)]

theorem State.rd_sendEvent {s : State} (hw : Sp.wf resetWord s.regs = true) {a : Nat} (ha : ∀ p, a ≠ ETHx_CNT_TXERR (portIx p))
    (e : Event) : (s.sendEvent e).rd a = s.rd a := by
  unfold sendEvent
  split
  · rfl
  · exact rd_sendUdp hw (ha _) ..

theorem State.queueEvent_regs_wf {s : State} (hw : Sp.wf resetWord s.regs = true) (e : Event) :
    Sp.wf resetWord (s.queueEvent e).regs = true := (queueEvent_keeps (Keeps.rfl s)).regs hw

/-- A full queue's flag and count of lost events, for either queue. -/
theorem State.rd_eventLost {s : State} (hw : Sp.wf resetWord s.regs = true) (ovf : Fld) {a : Nat} (hst : a ≠ CMD_EVT_STATUS)
    (hseq : a ≠ CMD_EVT_SEQ) : ((s.setF CMD_EVT_STATUS ovf 1).addSat CMD_EVT_SEQ CMD_EVT_SEQ_LOST 1).rd a = s.rd a := by
  rw [addSat, rd_setF_ne (setF_regs_wf hw ..) _ _ hseq, rd_setF_ne hw _ _ hst]

theorem State.nextSeq_eventLost {s : State} (hw : Sp.wf resetWord s.regs = true) (ovf : Fld) :
    ((s.setF CMD_EVT_STATUS ovf 1).addSat CMD_EVT_SEQ CMD_EVT_SEQ_LOST 1).f CMD_EVT_SEQ CMD_EVT_SEQ_NEXT_SEQ
      = s.f CMD_EVT_SEQ CMD_EVT_SEQ_NEXT_SEQ := by
  rw [addSat, f_setF_disjoint (setF_regs_wf hw ..) _ _ (by decide) (by decide), f_setF_ne hw _ _ _ (by decide)]

theorem State.rd_queueEvent {s : State} (hw : Sp.wf resetWord s.regs = true) {a : Nat} (hst : a ≠ CMD_EVT_STATUS)
    (hseq : a ≠ CMD_EVT_SEQ) (e : Event) : (s.queueEvent e).rd a = s.rd a := by
  unfold queueEvent
  split <;> split
  case isTrue.isFalse | isFalse.isFalse => exact rd_eventLost hw _ hst hseq
  all_goals rfl

/-- Queueing takes no sequence number. -/
theorem State.nextSeq_queueEvent {s : State} (hw : Sp.wf resetWord s.regs = true) (e : Event) :
    (s.queueEvent e).f CMD_EVT_SEQ CMD_EVT_SEQ_NEXT_SEQ = s.f CMD_EVT_SEQ CMD_EVT_SEQ_NEXT_SEQ := by
  unfold queueEvent
  split <;> split
  case isTrue.isFalse | isFalse.isFalse => exact nextSeq_eventLost hw _
  all_goals rfl

theorem State.raise_of_enabled {s : State} {num : Nat} (h : bit (s.f CMD_EVT_MASK CMD_EVT_MASK_ENABLE) num = true) (data : List Byte) :
    ∃ e : Event, s.raise num data = ((s.addWrap CMD_EVT_SEQ CMD_EVT_SEQ_NEXT_SEQ 1).queueEvent e).sendEvent e :=
  ⟨_, if_neg (by simp [h])⟩

theorem State.raise_of_masked {s : State} {num : Nat} (h : bit (s.f CMD_EVT_MASK CMD_EVT_MASK_ENABLE) num = false) (data : List Byte) :
    s.raise num data = s := if_pos (by simp [h])

theorem State.rd_raise {s : State} (hw : Sp.wf resetWord s.regs = true) {a : Nat} (ha : a ∉ eventRegs) (num : Nat) (data : List Byte) :
    (s.raise num data).rd a = s.rd a := by
  simp only [eventRegs, List.mem_cons, List.not_mem_nil, or_false, not_or] at ha
  obtain ⟨hst, hseq, hA, hB⟩ := ha
  cases h : bit (s.f CMD_EVT_MASK CMD_EVT_MASK_ENABLE) num with
  | false => rw [raise_of_masked h]
  | true =>
    obtain ⟨e, he⟩ := raise_of_enabled h data
    have hw1 : Sp.wf resetWord (s.addWrap CMD_EVT_SEQ CMD_EVT_SEQ_NEXT_SEQ 1).regs = true := setF_regs_wf hw ..
    have hports : ∀ p, a ≠ ETHx_CNT_TXERR (portIx p)
      | .A => hA
      | .B => hB
    rw [he, rd_sendEvent (queueEvent_regs_wf hw1 e) hports, rd_queueEvent hw1 hst hseq, addWrap, rd_setF_ne hw _ _ hseq]

/-- A register outside `eventRegs` keeps its fields when an event is raised. -/
theorem State.f_raise {s : State} (hw : Sp.wf resetWord s.regs = true) {a : Nat} (ha : a ∉ eventRegs) (g : Fld) (num : Nat)
    (data : List Byte) : (s.raise num data).f a g = s.f a g := by rw [f, rd_raise hw ha, f]

/-- An event that is not masked takes one sequence number (R62). -/
theorem State.nextSeq_raise {s : State} (hw : Sp.wf resetWord s.regs = true) {num : Nat}
    (h : bit (s.f CMD_EVT_MASK CMD_EVT_MASK_ENABLE) num = true) (data : List Byte) :
    (s.raise num data).f CMD_EVT_SEQ CMD_EVT_SEQ_NEXT_SEQ = (s.f CMD_EVT_SEQ CMD_EVT_SEQ_NEXT_SEQ + 1) % 65536 := by
  obtain ⟨e, he⟩ := raise_of_enabled h data
  have hw1 : Sp.wf resetWord (s.addWrap CMD_EVT_SEQ CMD_EVT_SEQ_NEXT_SEQ 1).regs = true := setF_regs_wf hw ..
  have hports : ∀ p, CMD_EVT_SEQ ≠ ETHx_CNT_TXERR (portIx p)
    | .A => by decide
    | .B => by decide
  rw [he, f, rd_sendEvent (queueEvent_regs_wf hw1 e) hports, ← f, nextSeq_queueEvent hw1, addWrap, f_setF_self hw _ _ _ (by decide)]
  rfl

/-! ### The warning level (R475) -/

/-- The registers of the warning level at its entry, before the event. -/
def State.warnEntered (s : State) : State := (s.setF THM_STATE THM_STATE_WARN 1).addSat THM_CNT THM_CNT_WARNS 1

theorem State.warnLevel_enters {s : State} (hoff : s.fb THM_STATE THM_STATE_WARN = false) (hhot : s.warnLim ≤ s.tj) :
    s.warnLevel = s.warnEntered.raiseThermal 1 [] := if_pos (by simp [hoff, hhot])

theorem State.warnLevel_leaves {s : State} (hon : s.fb THM_STATE THM_STATE_WARN = true) (hcool : s.tj ≤ s.warnLim - 80) :
    s.warnLevel = (s.setF THM_STATE THM_STATE_WARN 0).raiseThermal 2 [] := by
  rw [warnLevel, if_neg (by simp [hon]), if_pos (by simp [hon, thermHyst, hcool])]

section
variable {s : State} (hw : Sp.wf resetWord s.regs = true)
include hw

theorem State.warnEntered_regs_wf : Sp.wf resetWord s.warnEntered.regs = true :=
  setF_regs_wf (setF_regs_wf hw ..) ..

theorem State.warn_warnEntered : s.warnEntered.f THM_STATE THM_STATE_WARN = 1 := by
  rw [warnEntered, addSat, f_setF_ne (setF_regs_wf hw ..) _ _ _ (by decide), f_setF_self hw _ _ _ (by decide)]
  rfl

theorem State.warns_warnEntered :
    s.warnEntered.f THM_CNT THM_CNT_WARNS = Nat.min (s.f THM_CNT THM_CNT_WARNS + 1) 65535 := by
  rw [warnEntered, addSat, f_setF_self (setF_regs_wf hw ..) _ _ _ (by decide), f_setF_ne hw _ _ _ (by decide)]
  exact satU_16_succ _ (bits_lt ..)

theorem State.f_warnEntered {a : Nat} (hstate : a ≠ THM_STATE) (hcnt : a ≠ THM_CNT) (g : Fld) : s.warnEntered.f a g = s.f a g := by
  rw [warnEntered, addSat, f_setF_ne (setF_regs_wf hw ..) _ _ _ hcnt, f_setF_ne hw _ _ _ hstate]

end

/-- Settles O58: the event that entering raises writes neither THM_STATE nor THM_CNT, and the entry leaves the event mask, so an
enabled EVT_THERMAL takes the sequence number that stood before. -/
theorem warningLevel : Obligations.WarningLevel := by
  intro s t hcan
  have hw := (canonical_iff.1 hcan).1
  have hwe := State.warnEntered_regs_wf hw
  refine ⟨fun hoff hhot => ⟨State.warnLevel_enters hoff hhot, fun hmask ht => ?_⟩, State.warnLevel_leaves⟩
  have hmask' : bit (s.warnEntered.f CMD_EVT_MASK CMD_EVT_MASK_ENABLE) evThermal = true := by
    rwa [State.f_warnEntered hw (by decide) (by decide)]
  rw [ht, State.warnLevel_enters hoff hhot, State.raiseThermal]
  refine ⟨?_, ?_, ?_⟩
  · rw [State.fb, State.f_raise hwe (by decide), State.warn_warnEntered hw]; rfl
  · rw [State.f_raise hwe (by decide), State.warns_warnEntered hw]
  · rw [State.nextSeq_raise hwe hmask', State.f_warnEntered hw (by decide) (by decide)]

end Sys2Proof.Machine
end

section
/-! CAL_STATUS (R466): its refusals, by the frame of a command of fixed length, and its reply from the table of the procedures' ends. -/

namespace Sys2Proof

open Machine

variable {s t : State} {q : Req} {opc : Nat} {p : List Byte}

/-- A command of fixed length that runs and fails a check answers with the first one that fails (R38 step 7). -/
theorem Machine.State.fixed_runs_refused (h : runs s q opc p t) {len : Nat} (hl : p.length = len) {checks : State → List Check}
    {c : Check} (hc : firstBad (checks t) = some c) (body : State → State) :
    s.fixed q opc p len checks body = t.answer q opc c.status c.detail [] q.auth := by
  rw [State.fixed, State.command_runs h, checked, if_neg (not_not_intro hl), hc]
  rfl

/-- A command that runs with a payload of another length than its own answers BAD_LENGTH, DETAIL 8 (R35). -/
theorem Machine.State.fixed_runs_badLength (h : runs s q opc p t) {len : Nat} (hl : p.length ≠ len) (checks : State → List Check)
    (body : State → State) : s.fixed q opc p len checks body = t.answer q opc 5 8 [] q.auth := by
  rw [State.fixed, State.command_runs h, checked, if_pos hl]
  rfl

/-- The checks of CAL_STATUS: PROCEDURE, then the reserved bytes. -/
def calStatusChecks (p : List Byte) : List Check :=
  [par (decide (fld p 16 1 = 0 ∨ 8 < fld p 16 1)) 16, par (firstNonZero p 17 3) 17]

/-- The reply data of CAL_STATUS for one end of a procedure (R466). -/
def calStatusData (e : CalEnd) : List Byte :=
  leBytes 2 e.status ++ leBytes 2 e.detail ++ leBytes 4 e.runs ++ leBytes 8 e.tbl ++ leBytes 4 e.q0 ++ leBytes 4 e.q1

/-- What CAL_STATUS answers when nothing refuses it. -/
def calStatusBody (q : Req) (p : List Byte) (s : State) : State :=
  s.answer q 0x0401 0 0 (calStatusData (Sp.get (fun _ => {}) s.cal.ends (fld p 16 1))) q.auth

theorem exec_calStatus (q : Req) (p : List Byte) (s : State) :
    exec (.calStatus q p) s = .next (s.fixed q 0x0401 p 4 (fun _ => calStatusChecks p) (calStatusBody q p)) := rfl

theorem firstBad_calStatusChecks_of_procedure (h : fld p 16 1 = 0 ∨ 8 < fld p 16 1) :
    firstBad (calStatusChecks p) = some ⟨true, 6, 16⟩ := by
  simp [firstBad, calStatusChecks, par, h, stBadParam]

section
variable (h1 : 1 ≤ fld p 16 1) (h8 : fld p 16 1 ≤ 8)
include h1 h8

theorem firstBad_calStatusChecks_of_reserved (hz : allZero (fldBytes p 17 3) = false) :
    firstBad (calStatusChecks p) = some ⟨true, 6, 17⟩ := by
  have hproc : ¬(fld p 16 1 = 0 ∨ 8 < fld p 16 1) := by omega
  simp [firstBad, calStatusChecks, par, hproc, firstNonZero, hz, stBadParam]

theorem firstBad_calStatusChecks_of_valid (hz : allZero (fldBytes p 17 3) = true) : firstBad (calStatusChecks p) = none := by
  have hproc : ¬(fld p 16 1 = 0 ∨ 8 < fld p 16 1) := by omega
  simp [firstBad, calStatusChecks, par, hproc, firstNonZero, hz]

end

/-- A procedure that has not run since BOOT reads as STATUS 0xFFFF and zeros. -/
theorem calStatusData_default : calStatusData {} = [0xFF, 0xFF] ++ List.replicate 22 0 := by decide

/-- Settles O57: each clause is one outcome of the command's frame, and the two replies differ in whether the table of ends lists
the procedure. -/
theorem calibrationStatusReply : Obligations.CalibrationStatusReply := by
  intro s t q p e hrun
  simp only [exec_calStatus]
  refine ⟨fun hl h1 h8 hz he => ?_, fun hl h1 h8 hz hnone => ?_, fun hl hproc => ?_, fun hl h1 h8 hz => ?_, fun hl => ?_⟩
  · rw [State.fixed_runs hrun hl (firstBad_calStatusChecks_of_valid h1 h8 hz), calStatusBody, Sp.get, he, Option.getD_some,
      calStatusData]
  · rw [State.fixed_runs hrun hl (firstBad_calStatusChecks_of_valid h1 h8 hz), calStatusBody, Sp.get, hnone, Option.getD_none,
      calStatusData_default]
  · rw [State.fixed_runs_refused hrun hl (firstBad_calStatusChecks_of_procedure hproc)]
  · rw [State.fixed_runs_refused hrun hl (firstBad_calStatusChecks_of_reserved h1 h8 hz)]
  · rw [State.fixed_runs_badLength hrun hl]

end Sys2Proof
end

section
/-! What a step does as a whole: every meaning answers a next state, and keeps the queue, the canonical forms and the order of time
(`Keeps`). The two statements about every command and every step follow from these. -/

namespace Sys2Proof.Machine

/-- An outcome is a next state: neither a fault nor a refusal. -/
def Answers (o : Host.Outcome State Fault Refusal) : Prop := ∃ t, o = .next t

theorem Answers.next (t : State) : Answers (.next t) := ⟨t, rfl⟩

theorem Answers.ite {p : Prop} [Decidable p] {x y : Host.Outcome State Fault Refusal} (hx : Answers x) (hy : Answers y) :
    Answers (if p then x else y) := by split <;> assumption

/-- A meaning either answers outright or branches, and each of its branches answers. -/
theorem exec_answers (c : Instr) (s : State) : Answers (exec c s) := by
  cases c
  case
    commandPacketArrival | getIdentity | getState | stateDumpCapture | stateDumpRead | authSession | softReset | faultClear |
    eventMask | regRead | regWrite | regModify | memRead | memWrite | warpCommit | profileSelect | scanStart | scanHold |
    scanResume | scanStop | frameSchedule | keySet | calRun | calStatus | calAcceptStale | safetyStatus | deadboltClear |
    exposureLimits | safetySelfTest | zoneCommit | safeCommand | recArm | recDisarm | recTrigger | recStatus | recRead |
    timeRead | timeSetValue | timeSetStep | timeSetFrequency | ptpConfig | asymSet | txtsRead | launchConfig | linkStatus |
    linkTrain | linkRelease | cascadeConfig | linkTestPrbs | linkTestMargin | pwrDomainOn | pwrDomainOff | thermalStatus |
    ackThermalEvent | nvlogRead | thermalLimits | imageInfo | flashRead | flashErase | flashWrite | imageVerify | imageSelect |
    registerWrite | glbBehaviourWrite | hostTrip | tdcCounterClear | frefMissClear | tpiGo | tmbCounterClear | firCounterClear |
    hgeCounterClear | hgeWaitClear | hgeBinWrite | extCounterClear | extAirWrite | alcCounterClear | srvCounterClear |
    loopModeWrite | loopManWrite | loopOpenRegisterWrite | trajectorySwapRequest | trajectoryWrite | tuneEnWrite | traceArm |
    traceStop | traceForce | madGo | seqEnWrite | madCounterClear | refEnWrite | injGo | sequenceTableWrite | mfcSync |
    chainEnable | chainConfigWrite | mfcCounterClear | evrForce | evrCounterClear | segmentFree | maskConfigWrite | portEnable |
    portDisable | portModeWrite | portSettingsWrite | cbsWrite | portCounterClear | streamCounterClear | timCounterClear |
    timedOutputEnable | linkEnableWrite | linkErrorInject | wflCounterClear | hngCounterClear | tapEnable | dmaChannelEnable |
    dmaChannelDisable | dmaConfigWrite | flushMon | flushQfilt | dmaCounterClear | qfiltEnable | calCounterClear |
    thmCounterClear | bootNextWrite | exposureWeightWrite | pd00Write | vinLoss | porstLow | porstRise | resetRise |
    recorderPreReached | coverChange | hgFaultFall | linkDown | frameReceive | timeAnchor | warp | frame | status | points |
    readReq | readRsp | hcal | hgFaultRelease | recorderMemoryCleared =>
    exact .next _
  case
    stateDumpCaptureDone | deferredWarpCopy | deferredProfileApply | holdEntry | calProcedureStep | calProcedureEnd |
    safetySelfTestDone | deferredZoneCopy | safeCommandUnpaired | linkTestDone | domainSwitchOnDone | domainSwitchOffDone |
    flashOperationDone | imageVerifyDone | cmdWrite | replyRead | alertRead | noticeRead | regRd | regWr | hspiStatusRead |
    rsLowWordRead | rsHighWordRead | tpiPeriodicTrigger | testPulseInjection | traceDone | vinValid | resetLow | fuseRead |
    clockLock | sfdpRead | slotCheck | fuseProgramming | bootPower | mbist | lbist | configApply | pllLockLoss | pllLockRegain |
    pllLockTimeout | dllUnlock | extestLoad | returnLeadingEdge | returnTrailingEdge | totSaturation | rgndFault | frefEdge |
    frefWindowClose | tumblerEventEntry | coincidenceDecision | candidateExpiry | darkGateEnd | freeRunGate | frameStartEvent |
    scheduleSlot | frameStart | columnStart | shotFire | columnClose | frameEnd | allocation | eventBinning | zoomPlacement |
    extractionScan | extractionEnd | columnOutputComplete | histogramClear | servoTick | loopSample | loopTrip |
    mirrorWindowExit | mirrorWindowEntry | servoStopRampDone | encoderEdge | qeiRisingEdge | referenceReady | guardConversion |
    guardGap | sequenceConversion | injectedConversionDone | sequencerTrigger | madTimerExpiry | filterInput | recorderItem |
    recorderTrigger | captureEnd | segmentRestart | lossEpisodeClose | maskSampleTest | hgTrigEdge | permitChange |
    permitDiscrepancy | autoClear | switchWalkStart | walkStepEnd | walkGuardTimeout | reservoirCharged | reservoirChargeTimeout |
    exposureSubinterval | watchdogExpiry | lockstepMismatch | zoneEvaluation | safeReportPeriodic | linkUp | lldpduReceive |
    neighbourExpiry | lldpTransmit | prpSupervision | dhcpLeaseTimer | arpRetry | arpEntryAgeOut | duplicateAddressDetection |
    streamMessageClose | frameTransmit | timedLaunch | ptpSync | ptpDelayMeasurement | ptpAnnounce | ptpMasterSend |
    ptpMessageTimeout | timeCrossCheck | ppsInEdge | ppsOutPulse | timedOutputPulse | terminationDetect | linkTrainingDone |
    blockLock | alignReceive | capxPairReceive | capxSend | linkBringupTimeout | linkLockLoss | idleFreeze | keepaliveSend |
    controlBlockReceive | xoff | statusPeriodic | memberUnreachable | frameAckTimeout | remoteReadTimeout | timeReq | timeRsp |
    hingeCalibrationStart | hingeCalibrationEnd | hgSyncEdge | tapItemSend | tapMark | dmaTimerRequest | dmaBurst |
    tempSensorReading | throttleStep | nvlogWrite | gpioEdge | dllLockReturn | rawtapActive | zoneHoldExpiry | ptpDelayRequest |
    xoffHeldLong | vauxCurrentLimit | vinOvervoltage =>
    dsimp -zeta only [exec]
    delta execStateDumpCaptureDone execDeferredWarpCopy execDeferredProfileApply execHoldEntry execCalProcedureStep
      execCalProcedureEnd execSafetySelfTestDone execDeferredZoneCopy execSafeCommandUnpaired execLinkTestDone
      execDomainSwitchOnDone execDomainSwitchOffDone execFlashOperationDone execImageVerifyDone execCmdWrite execReplyRead
      execAlertRead execNoticeRead execRegRd execRegWr execHspiStatusRead execRsLowWordRead execRsHighWordRead
      execTpiPeriodicTrigger execTestPulseInjection execTraceDone execVinValid execResetLow execFuseRead execClockLock
      execSfdpRead execSlotCheck execFuseProgramming execBootPower execMbist execLbist execConfigApply execPllLockLoss
      execPllLockRegain execPllLockTimeout execDllUnlock execExtestLoad execReturnLeadingEdge execReturnTrailingEdge
      execTotSaturation execRgndFault execFrefEdge execFrefWindowClose execTumblerEventEntry execCoincidenceDecision
      execCandidateExpiry execDarkGateEnd execFreeRunGate execFrameStartEvent execScheduleSlot execFrameStart execColumnStart
      execShotFire execColumnClose execFrameEnd execAllocation execEventBinning execZoomPlacement execExtractionScan
      execExtractionEnd execColumnOutputComplete execHistogramClear execServoTick execLoopSample execLoopTrip execMirrorWindowExit
      execMirrorWindowEntry execServoStopRampDone execEncoderEdge execQeiRisingEdge execReferenceReady execGuardConversion
      execGuardGap execSequenceConversion execInjectedConversionDone execSequencerTrigger execMadTimerExpiry execFilterInput
      execRecorderItem execRecorderTrigger execCaptureEnd execSegmentRestart execLossEpisodeClose execMaskSampleTest
      execHgTrigEdge execPermitChange execPermitDiscrepancy execAutoClear execSwitchWalkStart execWalkStepEnd execWalkGuardTimeout
      execReservoirCharged execReservoirChargeTimeout execExposureSubinterval execWatchdogExpiry execLockstepMismatch
      execZoneEvaluation execSafeReportPeriodic execLinkUp execLldpduReceive execNeighbourExpiry execLldpTransmit
      execPrpSupervision execDhcpLeaseTimer execArpRetry execArpEntryAgeOut execDuplicateAddressDetection execStreamMessageClose
      execFrameTransmit execTimedLaunch execPtpSync execPtpDelayMeasurement execPtpAnnounce execPtpMasterSend
      execPtpMessageTimeout execTimeCrossCheck execPpsInEdge execPpsOutPulse execTimedOutputPulse execTerminationDetect
      execLinkTrainingDone execBlockLock execAlignReceive execCapxPairReceive execCapxSend execLinkBringupTimeout execLinkLockLoss
      execIdleFreeze execKeepaliveSend execControlBlockReceive execXoff execStatusPeriodic execMemberUnreachable
      execFrameAckTimeout execRemoteReadTimeout execTimeReq execTimeRsp execHingeCalibrationStart execHingeCalibrationEnd
      execHgSyncEdge execTapItemSend execTapMark execDmaTimerRequest execDmaBurst execTempSensorReading execThrottleStep
      execNvlogWrite execGpioEdge execDllLockReturn execRawtapActive execZoneHoldExpiry execPtpDelayRequest execXoffHeldLong
      execVauxCurrentLimit execVinOvervoltage
    repeat' first | exact .next _ | apply Answers.ite | split | (extract_lets; clear_value *)

/-- Every meaning keeps the queue, the canonical forms and the order of time. -/
theorem exec_keeps {s0 s : State} (hK : Keeps s0 s) : ∀ c : Instr, KeepsOut s0 (exec c s)
  | .commandPacketArrival .. => execCommandPacketArrival_keeps hK
  | .getIdentity .. => execGetIdentity_keeps hK
  | .getState .. => execGetState_keeps hK
  | .stateDumpCapture .. => execStateDumpCapture_keeps hK
  | .stateDumpCaptureDone .. => execStateDumpCaptureDone_keeps hK
  | .stateDumpRead .. => execStateDumpRead_keeps hK
  | .authSession .. => execAuthSession_keeps hK
  | .softReset .. => execSoftReset_keeps hK
  | .faultClear .. => execFaultClear_keeps hK
  | .eventMask .. => execEventMask_keeps hK
  | .regRead .. => execRegRead_keeps hK
  | .regWrite .. => execRegWrite_keeps hK
  | .regModify .. => execRegModify_keeps hK
  | .memRead .. => execMemRead_keeps hK
  | .memWrite .. => execMemWrite_keeps hK
  | .warpCommit .. => execWarpCommit_keeps hK
  | .deferredWarpCopy .. => execDeferredWarpCopy_keeps hK
  | .profileSelect .. => execProfileSelect_keeps hK
  | .deferredProfileApply .. => execDeferredProfileApply_keeps hK
  | .scanStart .. => execScanStart_keeps hK
  | .scanHold .. => execScanHold_keeps hK
  | .holdEntry .. => execHoldEntry_keeps hK
  | .scanResume .. => execScanResume_keeps hK
  | .scanStop .. => execScanStop_keeps hK
  | .frameSchedule .. => execFrameSchedule_keeps hK
  | .keySet .. => execKeySet_keeps hK
  | .calRun .. => execCalRun_keeps hK
  | .calProcedureStep .. => execCalProcedureStep_keeps hK
  | .calProcedureEnd .. => execCalProcedureEnd_keeps hK
  | .calStatus .. => execCalStatus_keeps hK
  | .calAcceptStale .. => execCalAcceptStale_keeps hK
  | .safetyStatus .. => execSafetyStatus_keeps hK
  | .deadboltClear .. => execDeadboltClear_keeps hK
  | .exposureLimits .. => execExposureLimits_keeps hK
  | .safetySelfTest .. => execSafetySelfTest_keeps hK
  | .safetySelfTestDone .. => execSafetySelfTestDone_keeps hK
  | .zoneCommit .. => execZoneCommit_keeps hK
  | .deferredZoneCopy .. => execDeferredZoneCopy_keeps hK
  | .safeCommand .. => execSafeCommand_keeps hK
  | .safeCommandUnpaired .. => execSafeCommandUnpaired_keeps hK
  | .recArm .. => execRecArm_keeps hK
  | .recDisarm .. => execRecDisarm_keeps hK
  | .recTrigger .. => execRecTrigger_keeps hK
  | .recStatus .. => execRecStatus_keeps hK
  | .recRead .. => execRecRead_keeps hK
  | .timeRead .. => execTimeRead_keeps hK
  | .timeSetValue .. => execTimeSetValue_keeps hK
  | .timeSetStep .. => execTimeSetStep_keeps hK
  | .timeSetFrequency .. => execTimeSetFrequency_keeps hK
  | .ptpConfig .. => execPtpConfig_keeps hK
  | .asymSet .. => execAsymSet_keeps hK
  | .txtsRead .. => execTxtsRead_keeps hK
  | .launchConfig .. => execLaunchConfig_keeps hK
  | .linkStatus .. => execLinkStatus_keeps hK
  | .linkTrain .. => execLinkTrain_keeps hK
  | .linkRelease .. => execLinkRelease_keeps hK
  | .cascadeConfig .. => execCascadeConfig_keeps hK
  | .linkTestPrbs .. => execLinkTestPrbs_keeps hK
  | .linkTestMargin .. => execLinkTestMargin_keeps hK
  | .linkTestDone .. => execLinkTestDone_keeps hK
  | .pwrDomainOn .. => execPwrDomainOn_keeps hK
  | .pwrDomainOff .. => execPwrDomainOff_keeps hK
  | .domainSwitchOnDone .. => execDomainSwitchOnDone_keeps hK
  | .domainSwitchOffDone .. => execDomainSwitchOffDone_keeps hK
  | .thermalStatus .. => execThermalStatus_keeps hK
  | .ackThermalEvent .. => execAckThermalEvent_keeps hK
  | .nvlogRead .. => execNvlogRead_keeps hK
  | .thermalLimits .. => execThermalLimits_keeps hK
  | .imageInfo .. => execImageInfo_keeps hK
  | .flashRead .. => execFlashRead_keeps hK
  | .flashErase .. => execFlashErase_keeps hK
  | .flashWrite .. => execFlashWrite_keeps hK
  | .flashOperationDone .. => execFlashOperationDone_keeps hK
  | .imageVerify .. => execImageVerify_keeps hK
  | .imageVerifyDone .. => execImageVerifyDone_keeps hK
  | .imageSelect .. => execImageSelect_keeps hK
  | .cmdWrite .. => execCmdWrite_keeps hK
  | .replyRead .. => execReplyRead_keeps hK
  | .alertRead .. => execAlertRead_keeps hK
  | .noticeRead .. => execNoticeRead_keeps hK
  | .regRd .. => execRegRd_keeps hK
  | .regWr .. => execRegWr_keeps hK
  | .hspiStatusRead .. => execHspiStatusRead_keeps hK
  | .registerWrite .. => execRegisterWrite_keeps hK
  | .rsLowWordRead .. => execRsLowWordRead_keeps hK
  | .rsHighWordRead .. => execRsHighWordRead_keeps hK
  | .glbBehaviourWrite .. => execGlbBehaviourWrite_keeps hK
  | .hostTrip .. => execHostTrip_keeps hK
  | .tdcCounterClear .. => execTdcCounterClear_keeps hK
  | .frefMissClear .. => execFrefMissClear_keeps hK
  | .tpiGo .. => execTpiGo_keeps hK
  | .tpiPeriodicTrigger .. => execTpiPeriodicTrigger_keeps hK
  | .testPulseInjection .. => execTestPulseInjection_keeps hK
  | .tmbCounterClear .. => execTmbCounterClear_keeps hK
  | .firCounterClear .. => execFirCounterClear_keeps hK
  | .hgeCounterClear .. => execHgeCounterClear_keeps hK
  | .hgeWaitClear .. => execHgeWaitClear_keeps hK
  | .hgeBinWrite .. => execHgeBinWrite_keeps hK
  | .extCounterClear .. => execExtCounterClear_keeps hK
  | .extAirWrite .. => execExtAirWrite_keeps hK
  | .alcCounterClear .. => execAlcCounterClear_keeps hK
  | .srvCounterClear .. => execSrvCounterClear_keeps hK
  | .loopModeWrite .. => execLoopModeWrite_keeps hK
  | .loopManWrite .. => execLoopManWrite_keeps hK
  | .loopOpenRegisterWrite .. => execLoopOpenRegisterWrite_keeps hK
  | .trajectorySwapRequest .. => execTrajectorySwapRequest_keeps hK
  | .trajectoryWrite .. => execTrajectoryWrite_keeps hK
  | .tuneEnWrite .. => execTuneEnWrite_keeps hK
  | .traceArm .. => execTraceArm_keeps hK
  | .traceStop .. => execTraceStop_keeps hK
  | .traceForce .. => execTraceForce_keeps hK
  | .traceDone .. => execTraceDone_keeps hK
  | .madGo .. => execMadGo_keeps hK
  | .seqEnWrite .. => execSeqEnWrite_keeps hK
  | .madCounterClear .. => execMadCounterClear_keeps hK
  | .refEnWrite .. => execRefEnWrite_keeps hK
  | .injGo .. => execInjGo_keeps hK
  | .sequenceTableWrite .. => execSequenceTableWrite_keeps hK
  | .mfcSync .. => execMfcSync_keeps hK
  | .chainEnable .. => execChainEnable_keeps hK
  | .chainConfigWrite .. => execChainConfigWrite_keeps hK
  | .mfcCounterClear .. => execMfcCounterClear_keeps hK
  | .evrForce .. => execEvrForce_keeps hK
  | .evrCounterClear .. => execEvrCounterClear_keeps hK
  | .segmentFree .. => execSegmentFree_keeps hK
  | .maskConfigWrite .. => execMaskConfigWrite_keeps hK
  | .portEnable .. => execPortEnable_keeps hK
  | .portDisable .. => execPortDisable_keeps hK
  | .portModeWrite .. => execPortModeWrite_keeps hK
  | .portSettingsWrite .. => execPortSettingsWrite_keeps hK
  | .cbsWrite .. => execCbsWrite_keeps hK
  | .portCounterClear .. => execPortCounterClear_keeps hK
  | .streamCounterClear .. => execStreamCounterClear_keeps hK
  | .timCounterClear .. => execTimCounterClear_keeps hK
  | .timedOutputEnable .. => execTimedOutputEnable_keeps hK
  | .linkEnableWrite .. => execLinkEnableWrite_keeps hK
  | .linkErrorInject .. => execLinkErrorInject_keeps hK
  | .wflCounterClear .. => execWflCounterClear_keeps hK
  | .hngCounterClear .. => execHngCounterClear_keeps hK
  | .tapEnable .. => execTapEnable_keeps hK
  | .dmaChannelEnable .. => execDmaChannelEnable_keeps hK
  | .dmaChannelDisable .. => execDmaChannelDisable_keeps hK
  | .dmaConfigWrite .. => execDmaConfigWrite_keeps hK
  | .flushMon .. => execFlushMon_keeps hK
  | .flushQfilt .. => execFlushQfilt_keeps hK
  | .dmaCounterClear .. => execDmaCounterClear_keeps hK
  | .qfiltEnable .. => execQfiltEnable_keeps hK
  | .calCounterClear .. => execCalCounterClear_keeps hK
  | .thmCounterClear .. => execThmCounterClear_keeps hK
  | .bootNextWrite .. => execBootNextWrite_keeps hK
  | .exposureWeightWrite .. => execExposureWeightWrite_keeps hK
  | .pd00Write .. => execPd00Write_keeps hK
  | .vinValid .. => execVinValid_keeps hK
  | .vinLoss .. => execVinLoss_keeps hK
  | .porstLow .. => execPorstLow_keeps hK
  | .porstRise .. => execPorstRise_keeps hK
  | .resetLow .. => execResetLow_keeps hK
  | .resetRise .. => execResetRise_keeps hK
  | .fuseRead .. => execFuseRead_keeps hK
  | .clockLock .. => execClockLock_keeps hK
  | .sfdpRead .. => execSfdpRead_keeps hK
  | .slotCheck .. => execSlotCheck_keeps hK
  | .fuseProgramming .. => execFuseProgramming_keeps hK
  | .bootPower .. => execBootPower_keeps hK
  | .mbist .. => execMbist_keeps hK
  | .lbist .. => execLbist_keeps hK
  | .configApply .. => execConfigApply_keeps hK
  | .pllLockLoss .. => execPllLockLoss_keeps hK
  | .pllLockRegain .. => execPllLockRegain_keeps hK
  | .pllLockTimeout .. => execPllLockTimeout_keeps hK
  | .dllUnlock .. => execDllUnlock_keeps hK
  | .extestLoad .. => execExtestLoad_keeps hK
  | .returnLeadingEdge .. => execReturnLeadingEdge_keeps hK
  | .returnTrailingEdge .. => execReturnTrailingEdge_keeps hK
  | .totSaturation .. => execTotSaturation_keeps hK
  | .rgndFault .. => execRgndFault_keeps hK
  | .frefEdge .. => execFrefEdge_keeps hK
  | .frefWindowClose .. => execFrefWindowClose_keeps hK
  | .tumblerEventEntry .. => execTumblerEventEntry_keeps hK
  | .coincidenceDecision .. => execCoincidenceDecision_keeps hK
  | .candidateExpiry .. => execCandidateExpiry_keeps hK
  | .darkGateEnd .. => execDarkGateEnd_keeps hK
  | .freeRunGate .. => execFreeRunGate_keeps hK
  | .frameStartEvent .. => execFrameStartEvent_keeps hK
  | .scheduleSlot .. => execScheduleSlot_keeps hK
  | .frameStart .. => execFrameStart_keeps hK
  | .columnStart .. => execColumnStart_keeps hK
  | .shotFire .. => execShotFire_keeps hK
  | .columnClose .. => execColumnClose_keeps hK
  | .frameEnd .. => execFrameEnd_keeps hK
  | .allocation .. => execAllocation_keeps hK
  | .eventBinning .. => execEventBinning_keeps hK
  | .zoomPlacement .. => execZoomPlacement_keeps hK
  | .extractionScan .. => execExtractionScan_keeps hK
  | .extractionEnd .. => execExtractionEnd_keeps hK
  | .columnOutputComplete .. => execColumnOutputComplete_keeps hK
  | .histogramClear .. => execHistogramClear_keeps hK
  | .servoTick .. => execServoTick_keeps hK
  | .loopSample .. => execLoopSample_keeps hK
  | .loopTrip .. => execLoopTrip_keeps hK
  | .mirrorWindowExit .. => execMirrorWindowExit_keeps hK
  | .mirrorWindowEntry .. => execMirrorWindowEntry_keeps hK
  | .servoStopRampDone .. => execServoStopRampDone_keeps hK
  | .encoderEdge .. => execEncoderEdge_keeps hK
  | .qeiRisingEdge .. => execQeiRisingEdge_keeps hK
  | .referenceReady .. => execReferenceReady_keeps hK
  | .guardConversion .. => execGuardConversion_keeps hK
  | .guardGap .. => execGuardGap_keeps hK
  | .sequenceConversion .. => execSequenceConversion_keeps hK
  | .injectedConversionDone .. => execInjectedConversionDone_keeps hK
  | .sequencerTrigger .. => execSequencerTrigger_keeps hK
  | .madTimerExpiry .. => execMadTimerExpiry_keeps hK
  | .filterInput .. => execFilterInput_keeps hK
  | .recorderItem .. => execRecorderItem_keeps hK
  | .recorderPreReached .. => execRecorderPreReached_keeps hK
  | .recorderTrigger .. => execRecorderTrigger_keeps hK
  | .captureEnd .. => execCaptureEnd_keeps hK
  | .segmentRestart .. => execSegmentRestart_keeps hK
  | .lossEpisodeClose .. => execLossEpisodeClose_keeps hK
  | .maskSampleTest .. => execMaskSampleTest_keeps hK
  | .hgTrigEdge .. => execHgTrigEdge_keeps hK
  | .permitChange .. => execPermitChange_keeps hK
  | .permitDiscrepancy .. => execPermitDiscrepancy_keeps hK
  | .coverChange .. => execCoverChange_keeps hK
  | .hgFaultFall .. => execHgFaultFall_keeps hK
  | .autoClear .. => execAutoClear_keeps hK
  | .switchWalkStart .. => execSwitchWalkStart_keeps hK
  | .walkStepEnd .. => execWalkStepEnd_keeps hK
  | .walkGuardTimeout .. => execWalkGuardTimeout_keeps hK
  | .reservoirCharged .. => execReservoirCharged_keeps hK
  | .reservoirChargeTimeout .. => execReservoirChargeTimeout_keeps hK
  | .exposureSubinterval .. => execExposureSubinterval_keeps hK
  | .watchdogExpiry .. => execWatchdogExpiry_keeps hK
  | .lockstepMismatch .. => execLockstepMismatch_keeps hK
  | .zoneEvaluation .. => execZoneEvaluation_keeps hK
  | .safeReportPeriodic .. => execSafeReportPeriodic_keeps hK
  | .linkUp .. => execLinkUp_keeps hK
  | .linkDown .. => execLinkDown_keeps hK
  | .frameReceive .. => execFrameReceive_keeps hK
  | .lldpduReceive .. => execLldpduReceive_keeps hK
  | .neighbourExpiry .. => execNeighbourExpiry_keeps hK
  | .lldpTransmit .. => execLldpTransmit_keeps hK
  | .prpSupervision .. => execPrpSupervision_keeps hK
  | .dhcpLeaseTimer .. => execDhcpLeaseTimer_keeps hK
  | .arpRetry .. => execArpRetry_keeps hK
  | .arpEntryAgeOut .. => execArpEntryAgeOut_keeps hK
  | .duplicateAddressDetection .. => execDuplicateAddressDetection_keeps hK
  | .streamMessageClose .. => execStreamMessageClose_keeps hK
  | .frameTransmit .. => execFrameTransmit_keeps hK
  | .timedLaunch .. => execTimedLaunch_keeps hK
  | .timeAnchor .. => execTimeAnchor_keeps hK
  | .ptpSync .. => execPtpSync_keeps hK
  | .ptpDelayMeasurement .. => execPtpDelayMeasurement_keeps hK
  | .ptpAnnounce .. => execPtpAnnounce_keeps hK
  | .ptpMasterSend .. => execPtpMasterSend_keeps hK
  | .ptpMessageTimeout .. => execPtpMessageTimeout_keeps hK
  | .timeCrossCheck .. => execTimeCrossCheck_keeps hK
  | .ppsInEdge .. => execPpsInEdge_keeps hK
  | .ppsOutPulse .. => execPpsOutPulse_keeps hK
  | .timedOutputPulse .. => execTimedOutputPulse_keeps hK
  | .terminationDetect .. => execTerminationDetect_keeps hK
  | .linkTrainingDone .. => execLinkTrainingDone_keeps hK
  | .blockLock .. => execBlockLock_keeps hK
  | .alignReceive .. => execAlignReceive_keeps hK
  | .capxPairReceive .. => execCapxPairReceive_keeps hK
  | .capxSend .. => execCapxSend_keeps hK
  | .linkBringupTimeout .. => execLinkBringupTimeout_keeps hK
  | .linkLockLoss .. => execLinkLockLoss_keeps hK
  | .idleFreeze .. => execIdleFreeze_keeps hK
  | .keepaliveSend .. => execKeepaliveSend_keeps hK
  | .controlBlockReceive .. => execControlBlockReceive_keeps hK
  | .xoff .. => execXoff_keeps hK
  | .warp .. => execWarp_keeps hK
  | .frame .. => execFrame_keeps hK
  | .status .. => execStatus_keeps hK
  | .statusPeriodic .. => execStatusPeriodic_keeps hK
  | .memberUnreachable .. => execMemberUnreachable_keeps hK
  | .frameAckTimeout .. => execFrameAckTimeout_keeps hK
  | .points .. => execPoints_keeps hK
  | .readReq .. => execReadReq_keeps hK
  | .readRsp .. => execReadRsp_keeps hK
  | .remoteReadTimeout .. => execRemoteReadTimeout_keeps hK
  | .timeReq .. => execTimeReq_keeps hK
  | .timeRsp .. => execTimeRsp_keeps hK
  | .hingeCalibrationStart .. => execHingeCalibrationStart_keeps hK
  | .hcal .. => execHcal_keeps hK
  | .hingeCalibrationEnd .. => execHingeCalibrationEnd_keeps hK
  | .hgSyncEdge .. => execHgSyncEdge_keeps hK
  | .tapItemSend .. => execTapItemSend_keeps hK
  | .tapMark .. => execTapMark_keeps hK
  | .dmaTimerRequest .. => execDmaTimerRequest_keeps hK
  | .dmaBurst .. => execDmaBurst_keeps hK
  | .tempSensorReading .. => execTempSensorReading_keeps hK
  | .throttleStep .. => execThrottleStep_keeps hK
  | .nvlogWrite .. => execNvlogWrite_keeps hK
  | .hgFaultRelease .. => execHgFaultRelease_keeps hK
  | .gpioEdge .. => execGpioEdge_keeps hK
  | .dllLockReturn .. => execDllLockReturn_keeps hK
  | .rawtapActive .. => execRawtapActive_keeps hK
  | .zoneHoldExpiry .. => execZoneHoldExpiry_keeps hK
  | .ptpDelayRequest .. => execPtpDelayRequest_keeps hK
  | .xoffHeldLong .. => execXoffHeldLong_keeps hK
  | .recorderMemoryCleared .. => execRecorderMemoryCleared_keeps hK
  | .vauxCurrentLimit .. => execVauxCurrentLimit_keeps hK
  | .vinOvervoltage .. => execVinOvervoltage_keeps hK

/-- A command's next state, and what it keeps of the state it ran in. -/
theorem exec_next_keeps (c : Instr) (s : State) : ∃ t, exec c s = .next t ∧ Keeps s t := by
  obtain ⟨t, ht⟩ := exec_answers c s
  have hkeeps : KeepsOut s (exec c s) := exec_keeps (Keeps.rfl s) c
  rw [ht] at hkeeps
  exact ⟨t, ht, hkeeps⟩

/-- Settles O53: a command's next state keeps the queue and does not take the time back. -/
theorem everyCommandCompletes : Obligations.EveryCommandCompletes := by
  intro c s
  obtain ⟨t, ht, hkeeps⟩ := exec_next_keeps c s
  exact ⟨t, ht, hkeeps.pending, hkeeps.now⟩

/-- A step runs the command at the front of the queue in the state without it. -/
theorem step_of_pending {s : State} {c : Instr} {rest : List Instr} (h : s.pending = c :: rest) :
    step s = exec c { s with pending := rest } := by rw [step, h]

/-- A step with no command waiting lets time pass. -/
theorem step_of_empty {s : State} (h : s.pending = []) : step s = .next s.idle := by rw [step, h]

/-- Settles O52: the canonical form does not depend on the queue, so the command's own state has it, and its meaning keeps it. -/
theorem stepKeepsCanonicalForm : Obligations.StepKeepsCanonicalForm := by
  intro s t hcan hstep
  cases hq : s.pending with
  | nil =>
    rw [step_of_empty hq] at hstep
    cases hstep
    exact (State.idle_keeps (Keeps.rfl s)).canonical hcan
  | cons c rest =>
    rw [step_of_pending hq] at hstep
    obtain ⟨u, hu, hkeeps⟩ := exec_next_keeps c { s with pending := rest }
    rw [hu] at hstep
    cases hstep
    exact hkeeps.canonical hcan

/-- Settles O49: the two lemmas about a step, and the two cases of `State.idle`. -/
theorem stepRunsTheFrontCommand : Obligations.StepRunsTheFrontCommand := by
  refine ⟨fun s c rest => step_of_pending rfl, fun s hq => ⟨fun hoff => ?_, fun hon => ?_⟩⟩
  · rw [step_of_empty hq, State.idle, if_pos hoff]
  · rw [step_of_empty hq, State.idle, if_neg (by simp [hon])]

end Sys2Proof.Machine
end


section
/-! Requests that do not run (R38 steps 5 to 7, R54, R55): every host request is a body inside the frame of `State.command`, and a request
without payload is one inside `State.fixed` at length 0, so the frame alone decides what happens where the body does not run. -/

namespace Sys2Proof

open Machine

variable {s t : State} {q : Req} {opc : Nat} {p : List Byte}

/-- In OFF and BOOT a command does nothing. -/
theorem Machine.State.command_of_silent (h : runsCommands s.dev = false) (body : State → State) : s.command q opc p body = s := by
  rw [State.command, h]; rfl

theorem Machine.State.command_of_unknown (h : runsCommands s.dev = true) (ht : s.dequeue q opc p = t) (hk : t.knownOpcode opc = false)
    (body : State → State) : s.command q opc p body = t.answer q opc 4 0 [] q.auth := by
  simp only [State.command, h, ht, hk, Bool.not_true, Bool.not_false, Bool.false_eq_true, if_false, if_true]
  rfl

theorem Machine.State.command_of_forbidden (h : runsCommands s.dev = true) (ht : s.dequeue q opc p = t) (hk : t.knownOpcode opc = true)
    (ha : allowedIn opc t.dev = false) (body : State → State) : s.command q opc p body = t.answer q opc 3 0 [] q.auth := by
  simp only [State.command, h, ht, hk, ha, Bool.not_true, Bool.not_false, Bool.false_eq_true, if_false, if_true]
  rfl

/-- A request whose payload is empty is a body in the frame of a command of length 0. -/
theorem exec_bareRequest (s : State) (q : Req) (p : List Byte) (failed : Nat) : ∀ r ∈ bareRequests q p failed,
    ∃ checks body, exec r.1 s = .next (s.fixed q r.2 p 0 checks body) := by
  simp only [bareRequests, List.forall_mem_cons, List.not_mem_nil, false_imp_iff, implies_true, and_true]
  and_intros <;> exact ⟨_, _, rfl⟩

/-- Both functions of STATE_DUMP are one command. -/
theorem Machine.State.stateDump_eq_command (s : State) (q : Req) (p : List Byte) :
    ∃ body, Host.Outcome.next (s.stateDump q p) = (.next (s.command q 0x0102 p body) : Host.Outcome State Fault Refusal) := by
  unfold State.stateDump
  exact ⟨_, rfl⟩

/-- Every other request is a body in the frame of a command. -/
theorem exec_otherRequest (s : State) (q : Req) (p : List Byte) : ∀ r ∈ otherRequests q p,
    ∃ body, exec r.1 s = .next (s.command q r.2 p body) := by
  simp only [otherRequests, List.cons_append, List.nil_append, List.forall_mem_cons, List.not_mem_nil, false_imp_iff, implies_true,
    and_true]
  refine ⟨s.stateDump_eq_command q p, s.stateDump_eq_command q p, ?_⟩
  and_intros <;> exact ⟨_, rfl⟩

theorem exec_hostRequest (s : State) {failed : Nat} {r : Instr × Nat} (hr : r ∈ bareRequests q p failed ++ otherRequests q p) :
    ∃ body, exec r.1 s = .next (s.command q r.2 p body) := by
  rcases List.mem_append.1 hr with hbare | hother
  · obtain ⟨checks, body, h⟩ := exec_bareRequest s q p failed r hbare
    exact ⟨checked q r.2 p 0 checks body, h⟩
  · exact exec_otherRequest s q p r hother

/-- Settles O50: the first three outcomes are those of the frame, the last that of a command of length 0. -/
theorem requestsThatDoNotRun : Obligations.RequestsThatDoNotRun := by
  intro s t q p failed c opc hmem
  obtain ⟨body, hexec⟩ := exec_hostRequest s hmem
  refine ⟨fun h => ?_, fun h ht hk => ?_, fun h ht hk ha => ?_, fun hbare hrun hp => ?_⟩
  · rw [hexec, State.command_of_silent h]
  · rw [hexec, State.command_of_unknown h ht hk]
  · rw [hexec, State.command_of_forbidden h ht hk ha]
  · obtain ⟨checks, body, hfixed⟩ := exec_bareRequest s q p failed (c, opc) hbare
    rw [hfixed, State.fixed_runs_badLength hrun (by simpa using hp)]

end Sys2Proof
end


section
/-! Registers as a path sees them: what the access codes make of a written word (R14), and what reading leaves behind (R72, R73). -/

namespace Sys2Proof

open Machine Machine.Reg

/-! ### The access codes of a write (R14) -/

/-- Two fields of a card do not share a bit. -/
def Machine.Fld.apart (f g : Fld) : Bool := decide (f.lo + f.w ≤ g.lo) || decide (g.lo + g.w ≤ f.lo)

/-- The fields of a card fit its word, and no two of them share a bit. -/
def Machine.Card.laidOut (c : Card) : Bool :=
  c.flds.all fun f => decide (f.lo + f.w ≤ 32) && c.flds.all fun g => decide (g = f) || f.apart g

/-- The cards of every block are laid out so (R14). -/
theorem Machine.Blk.cards_laidOut (b : Blk) : b.cards.all Card.laidOut = true := by
  cases b <;> decide +kernel

theorem Machine.findCard_mem {l : List Card} {a : Nat} {c : Card} {ix : List Nat} (h : findCard l a = some (c, ix)) : c ∈ l := by
  induction l with
  | nil => cases h
  | cons d l ih =>
    simp only [findCard] at h
    split at h
    · split at h
      · cases h
        exact List.mem_cons_self
      · exact List.mem_cons_of_mem d (ih h)
    · exact List.mem_cons_of_mem d (ih h)

theorem Machine.cardAt_laidOut {a : Nat} {c : Card} {ix : List Nat} (h : cardAt a = some (c, ix)) : c.laidOut = true := by
  unfold cardAt at h
  split at h
  · next b _ => exact List.all_eq_true.1 b.cards_laidOut c (findCard_mem h)
  · cases h

/-- Whether some field that a test selects covers a bit, on top of an accumulated mask. -/
theorem Machine.foldl_mask_testBit (p : Acc → Bool) (l : List Fld) (m j : Nat) :
    (l.foldl (fun m f => if p f.acc then m ||| ((2 ^ f.w - 1) <<< f.lo) else m) m).testBit j =
      (m.testBit j || l.any fun f => p f.acc && (decide (f.lo ≤ j) && decide (j < f.lo + f.w))) := by
  induction l generalizing m with
  | nil => simp
  | cons f l ih =>
    have hf : ((2 ^ f.w - 1) <<< f.lo).testBit j = (decide (f.lo ≤ j) && decide (j < f.lo + f.w)) := by
      rw [Nat.shiftLeft_eq, ← mask_testBit f j, Fld.mask]
    rw [List.foldl_cons, ih, List.any_cons]
    cases p f.acc <;> simp [hf, Bool.or_assoc]

theorem Machine.Card.mask_testBit (c : Card) (p : Acc → Bool) (j : Nat) :
    (c.mask p).testBit j = c.flds.any fun f => p f.acc && (decide (f.lo ≤ j) && decide (j < f.lo + f.w)) := by
  rw [Card.mask, foldl_mask_testBit, Nat.zero_testBit, Bool.false_or]

section
variable {c : Card} {f : Fld} (hc : c.laidOut = true) (hf : f ∈ c.flds)
include hc hf

theorem Machine.Card.fits_of_laidOut : f.lo + f.w ≤ 32 := by
  have h := List.all_eq_true.1 hc f hf
  rw [Bool.and_eq_true, decide_eq_true_eq] at h
  exact h.1

theorem Machine.Card.eq_or_apart {g : Fld} (hg : g ∈ c.flds) : g = f ∨ f.apart g = true := by
  have h := List.all_eq_true.1 hc f hf
  rw [Bool.and_eq_true, List.all_eq_true] at h
  simpa using h.2 g hg

/-- On the bits of one of its fields, a card's mask says whether the field's access code is selected. -/
theorem Machine.Card.mask_testBit_field (p : Acc → Bool) {i : Nat} (hi : i < f.w) : (c.mask p).testBit (f.lo + i) = p f.acc := by
  rw [Card.mask_testBit, Bool.eq_iff_iff, List.any_eq_true]
  constructor
  · rintro ⟨g, hg, h⟩
    simp only [Bool.and_eq_true, decide_eq_true_eq] at h
    obtain ⟨hp, hlo, hhi⟩ := h
    rcases Card.eq_or_apart hc hf hg with rfl | hapart
    · exact hp
    · simp only [Fld.apart, Bool.or_eq_true, decide_eq_true_eq] at hapart
      omega
  · intro hp
    exact ⟨f, hf, by simp [hp, hi]⟩

end

/-- What a write leaves of a bit: what the bit held, what is written there, by the access code of its field (R14). -/
def Machine.Acc.bitAfter (old w : Bool) : Acc → Bool
  | .rw => w
  | .w1c => old && !w
  | .w1s => old || w
  | .ro | .wo | .rs => old

/-- A bit of a field after a whole-word write. -/
theorem bit_written {s : State} {a : Nat} {w : Word} {c : Card} {ix : List Nat} {f : Fld} (h : cardAt a = some (c, ix))
    (hf : f ∈ c.flds) {i : Nat} (hi : i < f.w) :
    (written s a w).toNat.testBit (f.lo + i) =
      f.acc.bitAfter ((s.rd a).toNat.testBit (f.lo + i)) (w.toNat.testBit (f.lo + i)) := by
  have hc := cardAt_laidOut h
  have h32 : f.lo + i < 32 := by have := Card.fits_of_laidOut hc hf; omega
  have hones : (BitVec.ofNat 32 0xFFFFFFFF).toNat = 2 ^ 32 - 1 := rfl
  simp only [written, h, Card.wrOf, Card.merge, BitVec.toNat_ofNat, hones, Nat.testBit_mod_two_pow, Nat.testBit_or, sub_and_testBit,
    Nat.testBit_and, Nat.testBit_two_pow_sub_one, h32, Card.mask_testBit_field hc hf _ hi, decide_true]
  generalize (s.rd a).toNat.testBit (f.lo + i) = old
  generalize w.toNat.testBit (f.lo + i) = new
  cases f.acc <;> cases old <;> cases new <;> rfl

/-- Settles O54, bit by bit of the field. -/
theorem accessCodesOfAWrite : Obligations.AccessCodesOfAWrite := by
  intro s a w c ix f h hf
  have hbits : ∀ x : Word, ∀ i, (f.get x).testBit i = (decide (i < f.w) && x.toNat.testBit (f.lo + i)) :=
    fun x i => bits_testBit _ _ _ _
  have hbit : ∀ x i, bit x i = x.testBit i := fun x i => by rw [bit, Nat.testBit_eq_decide_div_mod_eq, beq_eq_decide]
  have key : ∀ i, (f.get (written s a w)).testBit i =
      (decide (i < f.w) && f.acc.bitAfter ((s.rd a).toNat.testBit (f.lo + i)) (w.toNat.testBit (f.lo + i))) := by
    intro i
    rw [hbits]
    by_cases hi : i < f.w
    · rw [bit_written h hf hi]
    · simp [hi]
  refine ⟨fun ha => Nat.eq_of_testBit_eq fun i => ?_, fun ha => Nat.eq_of_testBit_eq fun i => ?_, fun i ha => ?_, fun i ha => ?_⟩
  · rw [key, hbits, ha, Acc.bitAfter]
  · rw [key, hbits]
    rcases ha with ha | ha | ha <;> rw [ha, Acc.bitAfter]
  · rw [hbit, hbit, hbit, key, hbits, hbits, ha, Acc.bitAfter]
    cases decide (i < f.w) <;> rfl
  · rw [hbit, hbit, hbit, key, hbits, hbits, ha, Acc.bitAfter]
    cases decide (i < f.w) <;> rfl

/-! ### Reads (R72, R73) -/

/-- The state with the shadows of all paths replaced. -/
def Machine.State.withShadows (s : State) (x y : Shadow) (z : List (Nat × Shadow)) : State :=
  { s with cmd := { s.cmd with shHspi := x, shCmd := y, shDma := z } }

theorem Machine.State.setShadow_eq_withShadows (s : State) (p : Path) (sh : Shadow) : ∃ x y z, s.setShadow p sh = s.withShadows x y z := by
  cases p <;> exact ⟨_, _, _, rfl⟩

section
variable {s : State} {p : Path} {a : Nat}

/-- A register that is absent or whose domain is off reads 0. -/
theorem Machine.State.readWord_of_dark (h : (s.isReg a && s.regOn a) = false) : s.readWord p a = (0, s) := by
  rw [State.readWord, h]; rfl

theorem Machine.State.readWord_of_low (h : (s.isReg a && s.regOn a) = true) (hlow : rsLow a = true) :
    s.readWord p a = s.readLow p a := by
  simp only [State.readWord, h, hlow, Bool.not_true, Bool.false_eq_true, if_false, if_true]

theorem Machine.State.readWord_of_high {lo : Nat} (h : (s.isReg a && s.regOn a) = true) (hlow : rsLow a = false) (hof : rsOf a = some lo) :
    s.readWord p a = s.readHigh p lo a := by
  simp only [State.readWord, h, hlow, hof, Bool.not_true, Bool.false_eq_true, if_false]

theorem Machine.State.readWord_of_single (h : (s.isReg a && s.regOn a) = true) (hlow : rsLow a = false) (hof : rsOf a = none) :
    s.readWord p a = (s.peek (s.shadow p) a, s) := by
  simp only [State.readWord, h, hlow, hof, Bool.not_true, Bool.false_eq_true, if_false]

/-- A read changes at most the shadow of its path. -/
theorem Machine.State.readWord_state (s : State) (p : Path) (a : Nat) :
    ∃ sh, (s.readWord p a).2 = s.setShadow p sh ∨ (s.readWord p a).2 = s := by
  cases h : s.isReg a && s.regOn a with
  | false => exact ⟨{}, .inr (by rw [readWord_of_dark h])⟩
  | true =>
    cases hlow : rsLow a with
    | true => exact ⟨_, .inl (by rw [readWord_of_low h hlow]; rfl)⟩
    | false =>
      cases hof : rsOf a with
      | none => exact ⟨{}, .inr (by rw [readWord_of_single h hlow hof])⟩
      | some lo =>
        rw [readWord_of_high h hlow hof, readHigh]
        split <;> exact ⟨_, .inl rfl⟩

theorem Machine.State.readWord_withShadows (s : State) (p : Path) (a : Nat) : ∃ x y z, (s.readWord p a).2 = s.withShadows x y z := by
  obtain ⟨sh, h | h⟩ := s.readWord_state p a
  · rw [h]
    exact s.setShadow_eq_withShadows p sh
  · rw [h]
    exact ⟨_, _, _, rfl⟩

/-- Consecutive reads change at most the shadows. -/
theorem Machine.State.readWords_withShadows (s : State) (p : Path) (a n : Nat) :
    ∃ x y z, (s.readWords p a n).2 = s.withShadows x y z := by
  induction n generalizing s a with
  | zero => exact ⟨_, _, _, rfl⟩
  | succ n ih =>
    obtain ⟨x, y, z, hword⟩ := s.readWord_withShadows p a
    obtain ⟨x', y', z', hrest⟩ := ih (s.readWord p a).2 (a + 4)
    exact ⟨x', y', z', by rw [readWords, hrest, hword]; rfl⟩

theorem Machine.State.readWords_length (s : State) (p : Path) (a n : Nat) : (s.readWords p a n).1.length = n := by
  induction n generalizing s a with
  | zero => rfl
  | succ n ih => rw [readWords, List.length_cons, ih]

end

/-- Settles O55. -/
theorem registerReadsChangeOnlyTheLatch : Obligations.RegisterReadsChangeOnlyTheLatch := by
  intro s p a n
  refine ⟨s.readWord_state p a, s.readWords_withShadows p a n, s.readWords_length p a n, fun hlow hof => ?_, fun hdark => ?_⟩
  · cases h : s.isReg a && s.regOn a with
    | false => rw [State.readWord_of_dark h]
    | true => rw [State.readWord_of_single h hlow hof]
  · exact State.readWord_of_dark (by rcases hdark with h | h <;> simp [h])

/-! ### Snapshot pairs (R73) -/

theorem Machine.Shadow.ne_empty_of_pair {sh : Shadow} {lo : Nat} (h : sh.pair = some lo) : sh ≠ {} := by
  rintro rfl
  cases h

theorem Machine.Shadow.ne_empty_of_miss {sh : Shadow} (h : sh.miss = true) : sh ≠ {} := by
  rintro rfl
  cases h

/-- A shadow that is not the empty one is read back from the path it is kept for. -/
theorem Machine.State.shadow_setShadow {sh : Shadow} (h : sh ≠ {}) (s : State) (p : Path) : (s.setShadow p sh).shadow p = sh := by
  cases p with
  | hspi => rfl
  | cmd => rfl
  | dma c => exact (Sp.get_put_of_ne_default (d := fun _ => {}) h s.cmd.shDma c).trans (if_pos rfl)

/-- Recording the word that a read returned changes no shadow. -/
theorem Machine.State.shadow_lastRead (s : State) (p : Path) (w : Word) :
    State.shadow { s with cmd := { s.cmd with lastRead := w } } p = s.shadow p := by
  cases p <;> rfl

/-- What neither a path's shadow nor the word read last touches. -/
theorem Machine.State.setShadow_frame (s : State) (p : Path) (sh : Shadow) :
    (s.setShadow p sh).regs = s.regs ∧ (s.setShadow p sh).mem = s.mem ∧ (s.setShadow p sh).tm = s.tm ∧ (s.setShadow p sh).pin = s.pin := by
  cases p <;> exact ⟨rfl, rfl, rfl, rfl⟩

theorem exec_rsLowWordRead {s : State} {path : Path} {a : Nat} (hoff : s.boot.off = false) (hlow : rsLow a = true)
    (hon : (s.isReg a && s.regOn a) = true) : exec (.rsLowWordRead path a) s = .next
      { s.setShadow path { pair := some a, words := s.rsNow (s.shadow path) a } with
        cmd := { (s.setShadow path { pair := some a, words := s.rsNow (s.shadow path) a }).cmd with
          lastRead := (s.rsNow (s.shadow path) a).headD 0 } } := by
  simp only [exec, execRsLowWordRead, hoff, hlow, State.readWord_of_low hon hlow, Bool.not_true, Bool.or_self, Bool.false_eq_true, if_false]
  rfl

theorem exec_rsHighWordRead {s : State} {path : Path} {a lo : Nat} (hoff : s.boot.off = false) (hof : rsOf a = some lo)
    (hlow : rsLow a = false) (hon : (s.isReg a && s.regOn a) = true) : exec (.rsHighWordRead path a) s = .next
      { (s.readHigh path lo a).2 with cmd := { (s.readHigh path lo a).2.cmd with lastRead := (s.readHigh path lo a).1 } } := by
  simp only [exec, execRsHighWordRead, hoff, hof, State.readWord_of_high hon hlow hof, Option.isNone_some, Bool.or_self,
    Bool.false_eq_true, if_false]

theorem rsNow_headD (s : State) (sh : Shadow) (a : Nat) : (s.rsNow sh a).headD 0 = s.peek sh a := by
  unfold State.rsNow rsGroup
  split <;> rfl

/-- Settles O6: the write by the shared path of writes, the reads by the two halves of `State.readWord`. -/
theorem pathWritesAndSnapshotReads : Obligations.PathWritesAndSnapshotReads := by
  intro s path a
  refine ⟨fun w b c ix t htakes ha hb hc hw => ?_, fun hoff hlow hreg hon => ?_, fun lo hoff hof hlow hreg hon => ?_⟩
  · exact congrArg Host.Outcome.next (State.pathModify_takes htakes hb hc ha hw)
  · have hne : ({ pair := some a, words := s.rsNow (s.shadow path) a } : Shadow) ≠ {} := Shadow.ne_empty_of_pair rfl
    refine ⟨_, exec_rsLowWordRead hoff hlow (by simp [hreg, hon]), rsNow_headD .., ?_, ?_, s.setShadow_frame path _⟩
    · rw [State.shadow_lastRead, State.shadow_setShadow hne]
    · rw [State.shadow_lastRead, State.shadow_setShadow hne]
      rfl
  · refine ⟨_, exec_rsHighWordRead hoff hof hlow (by simp [hreg, hon]), ?_⟩
    by_cases hpair : (s.shadow path).pair = some lo
    · have hne : ({ s.shadow path with torn := (s.shadow path).torn || s.rsNow (s.shadow path) lo != (s.shadow path).words } : Shadow) ≠
          {} := Shadow.ne_empty_of_pair hpair
      obtain ⟨hregs, hmem, htm, hpin⟩ := s.setShadow_frame path _
      simp only [State.readHigh, if_pos hpair, State.shadow_lastRead, State.shadow_setShadow hne]
      exact ⟨hregs, hmem, htm, hpin, fun _ => by trivial, fun hn => absurd hpair hn⟩
    · have hne : ({ s.shadow path with miss := true } : Shadow) ≠ {} := Shadow.ne_empty_of_miss rfl
      obtain ⟨hregs, hmem, htm, hpin⟩ := s.setShadow_frame path { s.shadow path with miss := true }
      simp only [State.readHigh, if_neg hpair, State.shadow_lastRead, State.shadow_setShadow hne]
      exact ⟨hregs, hmem, htm, hpin, fun h => absurd h hpair, fun _ => by trivial⟩

end Sys2Proof
end


section
/-! What leaves the light of the sensor alone (R65): the pulses of the FIRE outputs and the two switches of the reservoir. A trip cuts
all three, and nothing that follows it in the same step drives them again. -/

namespace Sys2Proof.Machine

open Reg

/-- What lets light out: the pulses of the FIRE outputs and the commands of the two switches. -/
def State.light (s : State) : List (Nat × Nat × Nat) × Bool × Bool := (s.fir.pulses, s.pin.ehs, s.pin.els)

/-- No pulse on a FIRE output and both switches commanded open. -/
def State.Unlit (s : State) : Prop := s.light = ([], false, false)

theorem State.dark_of_unlit {s : State} (h : s.Unlit) : dark s = true := by
  simp only [Unlit, light, Prod.mk.injEq] at h
  obtain ⟨hpulses, hehs, hels⟩ := h
  simp [dark, fireNow, hpulses, hehs, hels]

theorem State.unlit_of_light_eq {s t : State} (h : t.light = s.light) (hs : s.Unlit) : t.Unlit := h.trans hs

theorem State.light_cutEmission (s : State) : s.cutEmission.light = ([], false, false) := rfl

/-! ### Updates of the state, registers and jobs -/

/-- An update of a block that is neither the fire sequencer nor the pins. -/
theorem State.light_upd {s : State} {a0 a1 a2 a3 a4 a5 a6 a8 a9 a10 a11 a12 a13 a14 a15 a17 a18 a19 a20 a21 a22 a23 a24 a25 a26 a27} :
    State.light (.mk a0 a1 a2 a3 a4 a5 a6 s.pin a8 a9 a10 a11 a12 a13 a14 a15 s.fir a17 a18 a19 a20 a21 a22 a23 a24 a25 a26 a27) =
      s.light := rfl

/-- An update of the pins that leaves the switches. -/
theorem State.light_updPin {s : State} {p : Pins}
    {a0 a1 a2 a3 a4 a5 a6 a8 a9 a10 a11 a12 a13 a14 a15 a17 a18 a19 a20 a21 a22 a23 a24 a25 a26 a27}
    (hehs : p.ehs = s.pin.ehs := by rfl) (hels : p.els = s.pin.els := by rfl) :
    State.light (.mk a0 a1 a2 a3 a4 a5 a6 p a8 a9 a10 a11 a12 a13 a14 a15 s.fir a17 a18 a19 a20 a21 a22 a23 a24 a25 a26 a27) =
      s.light := by rw [light, light, ← hehs, ← hels]

/-- An update of the fire sequencer that leaves the pulses. -/
theorem State.light_updFir {s : State} {f : Fir}
    {a0 a1 a2 a3 a4 a5 a6 a8 a9 a10 a11 a12 a13 a14 a15 a17 a18 a19 a20 a21 a22 a23 a24 a25 a26 a27}
    (hf : f.pulses = s.fir.pulses := by rfl) :
    State.light (.mk a0 a1 a2 a3 a4 a5 a6 s.pin a8 a9 a10 a11 a12 a13 a14 a15 f a17 a18 a19 a20 a21 a22 a23 a24 a25 a26 a27) =
      s.light := by rw [light, light, ← hf]

@[simp] theorem State.light_wr (s : State) (a : Nat) (w : Word) : (s.wr a w).light = s.light := light_upd

@[simp] theorem State.light_setF (s : State) (a : Nat) (g : Fld) (v : Nat) : (s.setF a g v).light = s.light := light_wr ..

@[simp] theorem State.light_addSat (s : State) (a : Nat) (g : Fld) (n : Nat) : (s.addSat a g n).light = s.light := light_setF ..

@[simp] theorem State.light_addWrap (s : State) (a : Nat) (g : Fld) (n : Nat) : (s.addWrap a g n).light = s.light := light_setF ..

@[simp] theorem State.light_wr64 (s : State) (lo hi v : Nat) : (s.wr64 lo hi v).light = s.light := by rw [wr64, light_wr, light_wr]

@[simp] theorem State.light_setByte (s : State) (a : Nat) (b : Byte) : (s.setByte a b).light = s.light := light_upd

@[simp] theorem State.light_clearMem (s : State) (lo hi : Nat) : (s.clearMem lo hi).light = s.light := light_upd

theorem State.light_forEach {α : Type} {s : State} {g : State → α → State} (h : ∀ s a, (g s a).light = s.light) (l : List α) :
    (s.forEach l g).light = s.light := by
  induction l generalizing s with
  | nil => rfl
  | cons a l ih => exact ih.trans (h s a)

/-! ### Events -/

@[simp] theorem State.light_setEth (s : State) (p : Port) (e : Eth) : (s.setEth p e).light = s.light := by
  cases p <;> exact light_upd

@[simp] theorem State.light_sendBody (s : State) (p : Port) (c : TxClass) (dst : Nat) (body : Body) (n : Nat) (seq : Option Nat)
    (e : TxEntry → TxEntry) : (s.sendBody p c dst body n seq e).light = s.light := by
  unfold sendBody enqueue
  dsimp only
  split
  · exact light_setEth ..
  · rfl

@[simp] theorem State.light_sendPrp (s : State) (p : Port) (c : TxClass) (dst : Nat) (body : Body) (n : Nat) (inPrp : Bool)
    (e : TxEntry → TxEntry) : (s.sendPrp p c dst body n inPrp e).light = s.light := by
  unfold sendPrp
  split
  · rw [light_sendBody, light_sendBody, light_upd]
  · exact light_sendBody ..

@[simp] theorem State.light_startResolve (s : State) (p : Port) (ip : Ip) : (s.startResolve p ip).light = s.light := by
  unfold startResolve
  split
  · rfl
  · split <;> rw [light_sendPrp, light_setEth]

@[simp] theorem State.light_noRes (s : State) (p : Port) : (s.noRes p).light = s.light := light_addSat ..

@[simp] theorem State.light_sendUdp (s : State) (p : Port) (c : TxClass) (dst : Ip) (sport dport : Nat) (payload : List Byte) (inPrp : Bool)
    (e : TxEntry → TxEntry) : (s.sendUdp p c dst sport dport payload inPrp e).light = s.light := by
  unfold sendUdp
  split
  · rfl
  · dsimp only
    split
    · exact light_sendPrp ..
    · split
      · exact light_sendPrp ..
      · rw [light_noRes, light_startResolve]

@[simp] theorem State.light_sendEvent (s : State) (e : Event) : (s.sendEvent e).light = s.light := by
  unfold sendEvent
  split
  · rfl
  · exact light_sendUdp ..

@[simp] theorem State.light_queueEvent (s : State) (e : Event) : (s.queueEvent e).light = s.light := by
  unfold queueEvent
  split <;> split
  case isTrue.isTrue | isFalse.isTrue => exact light_updPin
  all_goals rw [light_addSat, light_setF]

@[simp] theorem State.light_raise (s : State) (num : Nat) (data : List Byte) : (s.raise num data).light = s.light := by
  unfold raise
  split
  · rfl
  · rw [light_sendEvent, light_queueEvent, light_addWrap]

@[simp] theorem State.light_finishJobs (s : State) (opc status detail : Nat) (data : List Byte) :
    (s.finishJobs opc status detail data).light = s.light :=
  (light_forEach (fun s _ => light_raise s ..) _).trans light_upd

/-! ### The transition of a trip -/

@[simp] theorem State.light_recTrigger (s : State) (src t : Nat) : (s.recTrigger src t).light = s.light := by
  unfold recTrigger
  split
  · rfl
  · exact light_upd

@[simp] theorem State.light_refCheck (s : State) : s.refCheck.light = s.light := by
  unfold refCheck
  split
  · exact light_upd
  · dsimp only
    split
    · split
      · exact light_setF ..
      · rw [light_upd, light_setF]
    · rw [light_upd, light_setF, light_setF]

@[simp] theorem State.light_applyKey (s : State) : s.applyKey.light = s.light := by
  unfold applyKey
  split
  · rfl
  · rw [light_finishJobs, light_setF, light_setF, light_wr64]
    exact light_updFir

@[simp] theorem State.light_calAbandon (s : State) (status : Nat) : (s.calAbandon status).light = s.light := by
  unfold calAbandon
  split
  · rfl
  · simp only [light_finishJobs, calIdle, light_setF, light_addSat, light_upd]

@[simp] theorem State.light_calLeave (s : State) (nxt : DevState) : (s.calLeave nxt).light = s.light := by
  unfold calLeave
  split
  · rfl
  · split
    · exact light_calAbandon ..
    · exact light_upd

@[simp] theorem State.light_settleRetain (s : State) : s.settleRetain.light = s.light := by
  unfold settleRetain
  split
  · rfl
  · split
    · rfl
    · dsimp only
      simp only [light_wr, light_setF, light_upd]
      exact light_forEach (fun s _ => light_setByte s ..) _

@[simp] theorem State.light_endFrame (s : State) : s.endFrame.light = s.light := by
  unfold endFrame
  dsimp only
  rw [light_setF]
  refine Eq.trans light_updFir ?_
  split
  · exact light_upd
  · rfl

@[simp] theorem State.light_closeColumn (s : State) : s.closeColumn.light = s.light := by
  unfold closeColumn
  split
  · rfl
  · exact light_updFir

@[simp] theorem State.light_abandonColumn (s : State) : s.abandonColumn.light = s.light := by
  unfold abandonColumn
  split
  · rfl
  · refine Eq.trans light_updFir ?_
    rw [putSet, light_setF, clearSet, light_clearMem, light_clearMem, light_clearMem]

@[simp] theorem State.light_setDev (s : State) (nxt : DevState) (cause : Nat) : (s.setDev nxt cause).light = s.light := by
  unfold setDev
  exact Eq.trans light_updPin (light_wr ..)

/-- Leaving SCANNING, whatever the way, idles the FIRE outputs and opens the switches. -/
theorem State.unlit_leaveScanning (s : State) (nxt : DevState) : (s.leaveScanning nxt).Unlit := by
  unfold leaveScanning
  extract_lets cut _ disarmed unstepped closed _ _ ended
  have hcut : cut.light = ([], false, false) := light_cutEmission s
  have hdisarmed : disarmed.light = cut.light := light_upd
  have hunstepped : unstepped.light = disarmed.light := light_setF ..
  have hclosed : closed.light = unstepped.light := by
    dsimp only [closed]
    split
    · exact light_abandonColumn _
    · exact light_closeColumn _
  have hended : ended.light = closed.light := Eq.trans light_updFir (light_endFrame closed)
  rw [Unlit, light_calLeave, light_settleRetain, hended, hclosed, hunstepped, hdisarmed, hcut]

/-- What the transition from SCANNING to PRIMED does after leaving SCANNING (R66 row 14). -/
theorem State.goto_primed_of_scanning {s : State} (h : s.dev = .scanning) (cause : Nat) : ∃ (t : State) (now : Nat)
    (data : List Byte), t.light = (s.leaveScanning .primed).light ∧
      s.goto .primed cause = ((t.refCheck.recTrigger 7 now).raise evState data).applyKey := by
  refine ⟨{ (s.leaveScanning .primed).setDev .primed cause with
    esf := { ((s.leaveScanning .primed).setDev .primed cause).esf with walkFailed := false } }, ?_, ?_, ?_, ?_⟩
  rotate_left 2
  · exact Eq.trans light_upd (light_setDev ..)
  · unfold goto
    simp only [h, if_true, reduceCtorEq, if_false, false_and, and_false, or_false, ne_eq, not_false_eq_true, and_true]
    rfl

/-- Row 14 of R66 leaves the sensor dark. -/
theorem State.unlit_tripRow {s : State} (h : s.Unlit) : s.tripRow.Unlit := by
  unfold tripRow
  split
  case isFalse => exact h
  case isTrue hscan =>
    obtain ⟨t, now, data, ht, hgoto⟩ := goto_primed_of_scanning (by simpa [scanning] using hscan) 0x23
    rw [hgoto, Unlit, light_applyKey, light_raise, light_recTrigger, light_refCheck, ht]
    exact s.unlit_leaveScanning .primed

theorem State.unlit_switches_off {s : State} (h : s.Unlit) : (s.switches false false).Unlit := by
  simp only [Unlit, light, Prod.mk.injEq] at h
  obtain ⟨hpulses, -, -⟩ := h
  simp only [Unlit, light, switches, hpulses, Bool.false_and]

theorem State.unlit_endWalk {s : State} (h : s.Unlit) (reason : Nat) : (s.endWalk reason).Unlit := by
  unfold endWalk dropGuardReq
  apply unlit_switches_off
  rw [Unlit, light_upd, light_setF, light_setF, light_upd]
  exact h

theorem State.unlit_startTrip (s : State) (first : Nat) : (s.startTrip first).Unlit := by
  rw [Unlit, startTrip, light_recTrigger]
  exact light_cutEmission _

theorem State.unlit_raiseSafety {s : State} (h : s.Unlit) : s.raiseSafety.Unlit := unlit_of_light_eq (light_raise ..) h

/-- A latch of a cause that was not latched, while armed, is a trip. -/
theorem State.latch_of_armed {s : State} {codes : List Nat} {c : Nat} (harmed : s.esf.armed = true) (hc : c ∈ codes)
    (hnew : s.latched c = false) : ∃ u first, s.latch codes =
      (if (State.startTrip u first).esf.walk.isSome then (State.startTrip u first).endWalk 6 else State.startTrip u first).tripRow.raiseSafety := by
  have hmem : c ∈ codes.filter (fun c => !s.latched c) := by simp [hc, hnew]
  unfold latch latchWith
  dsimp only
  rw [harmed]
  split
  · exact ⟨_, _, rfl⟩
  · next h => 
    cases hl : codes.filter (fun c => !s.latched c) with
    | nil => rw [hl] at hmem; cases hmem
    | cons x xs => exact absurd hl (h x xs rfl)

/-- Settles O56: the trip's cut of the emission outlasts the end of the walk, row 14 and the event. -/
theorem latchWhileArmedMakesDark : Obligations.LatchWhileArmedMakesDark := by
  intro s codes c harmed hc hnew
  obtain ⟨u, first, hlatch⟩ := State.latch_of_armed harmed hc hnew
  rw [hlatch]
  apply State.dark_of_unlit
  apply State.unlit_raiseSafety
  apply State.unlit_tripRow
  split
  · exact State.unlit_endWalk (u.unlit_startTrip first) 6
  · exact u.unlit_startTrip first

end Sys2Proof.Machine
end


section
/-! SUPPORT. A path's write of a word or of one field as the register and its block see it: the register at an address, and what the
block's rule is told of the write. -/

namespace Sys2Proof

open Machine Machine.Reg

variable {s t : State} {path : Path} {b : Blk} {base a v : Nat} {ix : List Nat} {f g : Fld} {w : Word} {x : Wr}

/-! ### The register at an address -/

/-- The register at an address: its block, the address of the first register of its card, and its indices in the card. -/
def regAt (b : Blk) (base : Nat) (ix : List Nat) (a : Nat) : Bool :=
  blkOf a == some b && a % 4 == 0 && (cardAt a).any fun p => p.1.addr == base && p.2 == ix

theorem regAt_iff : regAt b base ix a = true ↔
    blkOf a = some b ∧ a % 4 = 0 ∧ ∃ c, cardAt a = some (c, ix) ∧ c.addr = base := by
  unfold regAt
  cases h : cardAt a <;> simp [and_assoc, Prod.ext_iff]
  grind

theorem regAt_baseOf (h : regAt b base ix a = true) : baseOf a = some base := by
  obtain ⟨-, -, c, hc, rfl⟩ := regAt_iff.1 h
  rw [baseOf, hc]; rfl

/-- Two registers of different cards stand at different addresses. -/
theorem regAt_ne {b' : Blk} {base' a' : Nat} {ix' : List Nat} (h : regAt b base ix a = true) (h' : regAt b' base' ix' a' = true)
    (hne : base ≠ base') : a ≠ a' := by
  rintro rfl
  exact hne (Option.some.inj ((regAt_baseOf h).symm.trans (regAt_baseOf h')))

/-- The register at an address stands in the block, and the address of the card's first register and the indices satisfy a test. -/
def regWith (b : Blk) (test : Nat → List Nat → Bool) (a : Nat) : Bool :=
  blkOf a == some b && a % 4 == 0 && (cardAt a).any fun p => test p.1.addr p.2

theorem regWith_iff {test : Nat → List Nat → Bool} :
    regWith b test a = true ↔ ∃ base ix, regAt b base ix a = true ∧ test base ix = true := by
  simp only [regAt_iff, regWith, Bool.and_eq_true, beq_iff_eq, Option.any_eq_true, Prod.exists]
  constructor
  · rintro ⟨⟨hb, ha⟩, c, ix, hc, ht⟩
    exact ⟨c.addr, ix, ⟨hb, ha, c, hc, rfl⟩, ht⟩
  · rintro ⟨_, ix, ⟨hb, ha, c, hc, rfl⟩, ht⟩
    exact ⟨⟨hb, ha⟩, c, ix, hc, ht⟩

/-- The register at an address has the field. -/
def hasFld (a : Nat) (f : Fld) : Bool := (cardAt a).any fun p => p.1.flds.contains f

theorem hasFld_iff : hasFld a f = true ↔ ∃ c ix, cardAt a = some (c, ix) ∧ f ∈ c.flds := by
  simp only [hasFld, Option.any_eq_true, Prod.exists, List.contains_iff_mem]

/-- The register at an address has the field, and it is read/write. -/
def rwFld (a : Nat) (f : Fld) : Bool := f.acc == .rw && hasFld a f

/-! ### A whole-word write -/

/-- A whole-word write as the block's rule sees it. -/
def wordWr (s : State) (base : Nat) (ix : List Nat) (a : Nat) (w : Word) : Wr :=
  { a := a, base := base, ix := ix, old := s.rd a, new := written s a w, ones := w }

@[simp] theorem wordWr_a : (wordWr s base ix a w).a = a := rfl

@[simp] theorem wordWr_base : (wordWr s base ix a w).base = base := rfl

@[simp] theorem wordWr_ones : (wordWr s base ix a w).ones = w := rfl

@[simp] theorem wordWr_new : (wordWr s base ix a w).new = written s a w := rfl

theorem wordWr_i (k : Nat) : (wordWr s base ix a w).i k = ix.getD k 0 := rfl

@[simp] theorem wordWr_i_zero (j : Nat) : (wordWr s base (j :: ix) a w).i 0 = j := rfl

/-- A field that is legal is written. -/
theorem Machine.Wr.keepIf_of_legal (x : Wr) (f : Fld) {bad : Bool} (h : bad = false) : x.keepIf f bad = x := by
  rw [Wr.keepIf, h]; rfl

/-- A whole-word write leaves the written value in a read/write field. -/
theorem get_written (h : rwFld a f = true) : f.get (written s a w) = f.get w := by
  rw [rwFld, Bool.and_eq_true, beq_iff_eq, hasFld_iff] at h
  obtain ⟨hacc, c, ix, hc, hf⟩ := h
  exact (accessCodesOfAWrite s a w c ix f hc hf).1 hacc

theorem wordWr_v (h : rwFld a f = true) : (wordWr s base ix a w).v f = f.get w := get_written h

/-- What a path leaves of a block's answer to its write: by HSPI a refused write sets WR_ERR (R50). -/
def took (p : Path) (x : WrRes × State) : State := if x.1 = .done then x.2 else refusedBy p x.2

@[simp] theorem took_done : took path (.done, t) = t := rfl

@[simp] theorem took_put : took path (s.put x) = s.wr x.a x.new := rfl

@[simp] theorem took_wrRej : took path (s.wrRej a f) = refusedBy path (s.setF a f 1) := rfl

/-- A whole-word write that the register takes is its block's write. -/
theorem Machine.State.pathWrite_of_regAt (h : takes s path a = true) (hr : regAt b base ix a = true) (w : Word) :
    s.pathWrite path a w = took path (s.blockWrite b (wordWr s base ix a w)) := by
  obtain ⟨hb, ha, c, hc, rfl⟩ := regAt_iff.1 hr
  have hx : c.wrOf ix s a w (BitVec.ofNat 32 0xFFFFFFFF) = wordWr s c.addr ix a w := by
    rw [wordWr, written, hc, Card.wrOf, Wr.mk.injEq]
    exact ⟨rfl, rfl, rfl, rfl, rfl, BitVec.and_allOnes⟩
  rw [State.pathWrite, State.pathModify_of_takes h hb hc ha rfl, hx]
  rfl

theorem Machine.State.pathWriteIn_of_regAt {l : List Nat} (h : takes s path a = true) (hr : regAt b base ix a = true)
    (hl : l.contains base = true) (w : Word) : s.pathWriteIn path l a w = took path (s.blockWrite b (wordWr s base ix a w)) := by
  rw [State.pathWriteIn, regAt_baseOf hr]
  exact (if_pos hl).trans (State.pathWrite_of_regAt h hr w)

/-! ### A write of one field -/

/-- A write of value v to the field f of the register at a, as the block's rule sees it: f alone is written; it holds v where it is
read/write, gains the bits of v where it is set by 1, and changes nothing where it is write-only. -/
structure FieldWr (s : State) (base : Nat) (ix : List Nat) (a : Nat) (f : Fld) (v : Nat) (x : Wr) : Prop where
  a_eq : x.a = a
  base_eq : x.base = base
  ix_eq : x.ix = ix
  old_eq : x.old = s.rd a
  new_rw : f.acc = .rw → x.new = f.set (s.rd a) v
  new_wo : f.acc = .wo → x.new = s.rd a
  new_w1s : f.acc = .w1s → x.new = f.set (s.rd a) (f.get (s.rd a) ||| v)
  ones_self : f.get x.ones = v % 2 ^ f.w
  ones_apart : ∀ g : Fld, f.apart g = true → g.get x.ones = 0

/-- A card's mask covers one of its fields whole or not at all. -/
theorem Machine.Card.mask_and_mask {c : Card} (hc : c.laidOut = true) (hf : f ∈ c.flds) (p : Acc → Bool) :
    c.mask p &&& f.mask = if p f.acc then f.mask else 0 := by
  refine Nat.eq_of_testBit_eq fun i => ?_
  rw [Nat.testBit_and, Machine.mask_testBit]
  by_cases hi : f.lo ≤ i ∧ i < f.lo + f.w
  · obtain ⟨j, rfl⟩ := Nat.exists_eq_add_of_le hi.1
    rw [Card.mask_testBit_field hc hf p (by omega)]
    cases p f.acc <;> simp [Machine.mask_testBit]
  · have : (decide (f.lo ≤ i) && decide (i < f.lo + f.w)) = false := by simpa using hi
    rw [this, Bool.and_false]
    cases p f.acc <;> simp [Machine.mask_testBit, this]

/-- A masked write of one field that is set by 1 adds the written bits to it. -/
theorem Machine.Card.wrOf_new_w1s {c : Card} (hf : f.lo + f.w ≤ 32) (hm : c.mask (· == .rw) &&& f.mask = 0)
    (hc : c.mask (· == .w1c) &&& f.mask = 0) (hs : c.mask (· == .w1s) &&& f.mask = f.mask) :
    (c.wrOf ix s a (f.set 0 v) (BitVec.ofNat 32 f.mask)).new = f.set (s.rd a) (f.get (s.rd a) ||| v) := by
  rw [Card.wrOf, Card.merge, f.set_toNat _ _ hf, BitVec.toNat_ofNat, Nat.mod_eq_of_lt (f.mask_lt hf)]
  refine (congrArg (BitVec.ofNat 32) (Nat.eq_of_testBit_eq fun i => ?_)).trans rfl
  have hz : (0 : Word).toNat = 0 := rfl
  have tm : (c.mask (· == .rw) &&& f.mask).testBit i = false := by rw [hm, Nat.zero_testBit]
  have tc : (c.mask (· == .w1c) &&& f.mask).testBit i = false := by rw [hc, Nat.zero_testBit]
  have ts : (c.mask (· == .w1s) &&& f.mask).testBit i = f.mask.testBit i := by rw [hs]
  simp only [hz, Fld.get, Nat.testBit_or, sub_and_testBit, Nat.testBit_and, Machine.mask_testBit, withBits_testBit, bits_testBit,
    Nat.zero_testBit] at tm tc ts ⊢
  by_cases hi : f.lo ≤ i ∧ i < f.lo + f.w
  · obtain ⟨j, rfl⟩ := Nat.exists_eq_add_of_le hi.1
    have hj : j < f.w := by omega
    simp_all
  · have hin : (decide (f.lo ≤ i) && decide (i < f.lo + f.w)) = false := by simpa using hi
    simp [hi, hin]

theorem Machine.Card.wrOf_fieldWr {c : Card} (hc : c.laidOut = true) (hf : f ∈ c.flds) :
    FieldWr s c.addr ix a f v (c.wrOf ix s a (f.set 0 v) (BitVec.ofNat 32 f.mask)) := by
  have h32 := Card.fits_of_laidOut hc hf
  have hm := Card.mask_and_mask hc hf
  exact {
    a_eq := rfl, base_eq := rfl, ix_eq := rfl, old_eq := rfl
    new_rw := fun hacc => Card.wrOf_new_rw ix s a v h32 (by rw [hm, hacc]; rfl) (by rw [hm, hacc]; rfl) (by rw [hm, hacc]; rfl)
    new_wo := fun hacc => Card.wrOf_new_wo ix s a v h32 (by rw [hm, hacc]; rfl) (by rw [hm, hacc]; rfl) (by rw [hm, hacc]; rfl)
    new_w1s := fun hacc => Card.wrOf_new_w1s h32 (by rw [hm, hacc]; rfl) (by rw [hm, hacc]; rfl) (by rw [hm, hacc]; rfl)
    ones_self := Card.wrOf_ones c ix s a v h32
    ones_apart := fun g hg => Card.wrOf_ones_of_disjoint c ix s a v h32 (by simpa [Fld.apart] using hg) }

/-- A write of one field that the register takes is its block's write. -/
theorem Machine.State.pathField_of_regAt (h : takes s path a = true) (hr : regAt b base ix a = true)
    (hf : hasFld a f = true) (v : Nat) :
    ∃ x, FieldWr s base ix a f v x ∧ s.pathField path a f v = took path (s.blockWrite b x) := by
  obtain ⟨hb, ha, c, hc, rfl⟩ := regAt_iff.1 hr
  obtain ⟨c', ix', hc', hmem⟩ := hasFld_iff.1 hf
  rw [hc] at hc'
  cases hc'
  exact ⟨_, Card.wrOf_fieldWr (cardAt_laidOut hc) hmem, State.pathModify_of_takes h hb hc ha rfl⟩

theorem Machine.State.pathFieldIn_of_regAt (h : takes s path a = true) (hr : regAt b base ix a = true)
    (hf : hasFld a f = true) (v : Nat) :
    ∃ x, FieldWr s base ix a f v x ∧ s.pathFieldIn path base a f v = took path (s.blockWrite b x) := by
  rw [State.pathFieldIn, regAt_baseOf hr, beq_self_eq_true, if_pos rfl]
  exact State.pathField_of_regAt h hr hf v

namespace FieldWr

variable (hx : FieldWr s base ix a f v x)
include hx

theorem hit_self : x.hit f = (v % 2 ^ f.w != 0) := by rw [Wr.hit, hx.ones_self]

theorem hit_apart (hg : f.apart g = true) : x.hit g = false := by rw [Wr.hit, hx.ones_apart g hg]; rfl

theorem o_eq (g : Fld) : x.o g = s.f a g := by rw [Wr.o, hx.old_eq]; rfl

theorem v_wo (hacc : f.acc = .wo) (g : Fld) : x.v g = s.f a g := by rw [Wr.v, hx.new_wo hacc]; rfl

/-- A write of a field that holds nothing leaves the register as it is. -/
theorem wr_wo (hs : canonical s = true) (hacc : f.acc = .wo) : s.wr x.a x.new = s := by
  rw [hx.a_eq, hx.new_wo hacc, State.wr_rd hs]

/-- A write of a read/write field that holds is the write of the field. -/
theorem wr_rw (hacc : f.acc = .rw) : s.wr x.a x.new = s.setF a f v := by rw [hx.a_eq, hx.new_rw hacc]; rfl

theorem i_eq (k : Nat) : x.i k = ix.getD k 0 := by rw [Wr.i, hx.ix_eq]

theorem v_self (hacc : f.acc = .rw) (h32 : f.lo + f.w ≤ 32) : x.v f = v % 2 ^ f.w := by
  rw [Wr.v, hx.new_rw hacc, Fld.get_set _ _ _ h32]

theorem v_apart (hacc : f.acc = .rw) (h32 : f.lo + f.w ≤ 32) (hg : f.apart g = true) : x.v g = s.f a g := by
  rw [Wr.v, hx.new_rw hacc, Fld.get_set_of_disjoint _ _ h32 (by simpa [Fld.apart] using hg)]; rfl

end FieldWr

end Sys2Proof
end


section
/-! The protected word writes (O19, O20): what a block's rule makes of a whole-word write. -/

namespace Sys2Proof

open Machine Machine.Reg

variable {s : State} {path : Path} {base a : Nat} {ix : List Nat} {w : Word}

/-! ### The bin setting (R156) -/

/-- What a whole-word write of HGE_BIN comes to, by the device state and the values written. -/
theorem writeHge_bin : s.writeHge (wordWr s HGE_BIN [] HGE_BIN w) =
    if s.dev ≠ .idle then s.wrRej HGE_STATUS HGE_STATUS_WR_IGNORED
    else if HGE_BIN_WIDTH.get w = 3 ∨ HGE_BIN_COUNT.get w < 512 ∨ 5120 < HGE_BIN_COUNT.get w ∨
        655360 < HGE_BIN_COUNT.get w * (64 * 2 ^ HGE_BIN_WIDTH.get w) then s.wrRej HGE_STATUS HGE_STATUS_CFG_REJ
    else s.put (wordWr s HGE_BIN [] HGE_BIN w) := by
  have hn : (wordWr s HGE_BIN [] HGE_BIN w).v HGE_BIN_WIDTH = HGE_BIN_WIDTH.get w := wordWr_v (by decide)
  have hc : (wordWr s HGE_BIN [] HGE_BIN w).v HGE_BIN_COUNT = HGE_BIN_COUNT.get w := wordWr_v (by decide)
  rw [State.writeHge, if_pos wordWr_a, State.writeBin, hn, hc]
  rfl

/-- Settles O19: outside IDLE or with an illegal setting the block refuses the word; else it holds it, and its two fields are the written
ones. -/
theorem binSettingWrite : Obligations.BinSettingWrite := by
  unfold Obligations.BinSettingWrite
  intro s path w width count h hw hn
  subst hw hn
  have key : exec (.hgeBinWrite path w) s = .next (took path (s.writeHge (wordWr s HGE_BIN [] HGE_BIN w))) :=
    congrArg _ (State.pathWrite_of_regAt (b := .HGE) (base := HGE_BIN) (ix := []) h (by decide) w)
  rw [key, writeHge_bin]
  refine ⟨fun hd h2 hlo hhi hm => ⟨s.wr HGE_BIN (written s HGE_BIN w), ?_, fun hs => ?_⟩, fun hd hbad => ?_, fun hd => ?_⟩
  · rw [if_neg (not_not.2 hd), if_neg (by omega)]
    rfl
  · have hr := (canonical_iff.1 hs).1
    refine ⟨?_, ?_, fun a ha => by rw [State.rd_wr hr, if_neg ha]⟩ <;>
      rw [State.f, State.rd_wr hr, if_pos rfl, get_written (by decide)]
  · rw [if_neg (not_not.2 hd), if_pos hbad, took_wrRej]
  · rw [if_pos hd, took_wrRej]

/-! ### The servo's registers (R237, R239, R241) -/

theorem regAt_loop (x : Nat) (hx : x < 6) :
    regAt .SRV (SRV_LP_MAN 0) [x] (SRV_LP_MAN x) = true ∧ regAt .SRV (SRV_LP_OOFS 0) [x] (SRV_LP_OOFS x) = true ∧
      regAt .SRV (SRV_LP_ILIM 0) [x] (SRV_LP_ILIM x) = true ∧ regAt .SRV (SRV_LP_OLIM 0) [x] (SRV_LP_OLIM x) = true ∧
      regAt .SRV (SRV_LP_CFG 0) [x] (SRV_LP_CFG x) = true := by
  interval_cases x <;> decide

theorem regAt_loopGain (x k : Nat) (hx : x < 6) (hk : k < 4) : regAt .SRV (SRV_LP_K 0 0) [x, k] (SRV_LP_K x k) = true := by
  interval_cases x <;> interval_cases k <;> decide

theorem regAt_loopNotch (x j k : Nat) (hx : x < 6) (hj : j < 2) (hk : k < 5) :
    regAt .SRV (SRV_LP_NC 0 0 k) [x, j] (SRV_LP_NC x j k) = true := by
  interval_cases x <;> interval_cases j <;> interval_cases k <;> decide

/-- The registers of the servo whose writes do more than hold the word or refuse it. -/
def actingServoRegs : List Nat := [SRV_CTRL, SRV_STATUS, SRV_TRC_CTRL, SRV_LP_CTRL 0, SRV_LP_TRAJ 0]

/-- The rule of a servo register that does not act: a loop-open register asks for an open loop. -/
theorem writeSrv_of_notActing (hr : regAt .SRV base ix a = true) (hb : actingServoRegs.contains base = false) :
    s.writeSrv (wordWr s base ix a w) = if loopRegs.contains base then
        if s.loopClosed ((wordWr s base ix a w).i 0) then s.coefRej else s.writeOpen (wordWr s base ix a w)
      else s.writeSrvRest (wordWr s base ix a w) := by
  have hne : ∀ c, actingServoRegs.contains c = true → base ≠ c := by rintro c hc rfl; rw [hb] at hc; cases hc
  rw [State.writeSrv, wordWr_a, wordWr_base, if_neg (regAt_ne hr (by decide : regAt .SRV SRV_CTRL [] SRV_CTRL = true) (hne _ (by decide))),
    if_neg (regAt_ne hr (by decide : regAt .SRV SRV_STATUS [] SRV_STATUS = true) (hne _ (by decide))),
    if_neg (regAt_ne hr (by decide : regAt .SRV SRV_TRC_CTRL [] SRV_TRC_CTRL = true) (hne _ (by decide))),
    if_neg (hne _ (by decide)), if_neg (hne _ (by decide))]

/-- LOOP_MAN_WRITE: the manual output holds the word while its loop is open. -/
theorem exec_loopManWrite {x : Nat} (hx : x < 6) (h : takes s path (SRV_LP_MAN x) = true) :
    exec (.loopManWrite path x w) s = .next (if s.loopClosed x then refusedBy path (s.setF SRV_STATUS SRV_STATUS_WR_IGNORED 1)
      else s.wr (SRV_LP_MAN x) (written s (SRV_LP_MAN x) w)) := by
  have hr := (regAt_loop x hx).1
  have hw : s.writeSrv (wordWr s (SRV_LP_MAN 0) [x] (SRV_LP_MAN x) w) =
      if s.loopClosed x then s.srvIgnore else s.put (wordWr s (SRV_LP_MAN 0) [x] (SRV_LP_MAN x) w) := by
    rw [writeSrv_of_notActing hr (by decide), if_neg (by decide), State.writeSrvRest]
    simp [SRV_LP_MAN, SRV_TICK, SRV_ENC_CPT, SRV_TRAJ]
  refine (congrArg _ (State.pathWriteIn_of_regAt h hr (by decide) w)).trans ?_
  change Host.Outcome.next (took path (s.writeSrv _)) = _
  rw [hw]
  cases s.loopClosed x <;> rfl

/-- LOOP_OPEN_REGISTER_WRITE of SRV_TICK. -/
theorem exec_tickWrite (h : takes s path SRV_TICK = true) : exec (.loopOpenRegisterWrite path SRV_TICK w) s =
    .next (took path (if (List.range 6).any (fun l => s.fb (SRV_LP_CTRL l) SRV_LP_CTRL_MODE) then s.coefRej
      else if SRV_TICK_PERIOD.get w < 1250 then s.srvRej else s.put (wordWr s SRV_TICK [] SRV_TICK w))) := by
  have hr : regAt .SRV SRV_TICK [] SRV_TICK = true := by decide
  refine (congrArg _ (State.pathWriteIn_of_regAt h hr (by decide) w)).trans ?_
  change Host.Outcome.next (took path (s.writeSrv _)) = _
  rw [writeSrv_of_notActing hr (by decide), if_neg (by decide), State.writeSrvRest, wordWr_base, if_pos rfl,
    wordWr_v (by decide)]

section
variable {x : Nat} (h : takes s path a = true) (hr : regAt .SRV base (x :: ix) a = true) (hb : loopRegs.contains base = true)
include h hr hb

/-- LOOP_OPEN_REGISTER_WRITE of a register of a loop. -/
theorem exec_loopOpenWrite : exec (.loopOpenRegisterWrite path a w) s = .next (took path
    (if s.loopClosed x then s.coefRej else s.writeOpen (wordWr s base (x :: ix) a w))) := by
  have hact : actingServoRegs.contains base = false := by
    have : ∀ c ∈ loopRegs, actingServoRegs.contains c = false := by decide
    exact this base (List.contains_iff_mem.1 hb)
  refine (congrArg _ (State.pathWriteIn_of_regAt h hr (List.contains_iff_mem.2 (.tail _ (List.contains_iff_mem.1 hb))) w)).trans ?_
  change Host.Outcome.next (took path (s.writeSrv _)) = _
  rw [writeSrv_of_notActing hr hact, if_pos hb, wordWr_i_zero]

theorem exec_loopOpenWrite_holds (hopen : s.loopClosed x = false)
    (hw : s.writeOpen (wordWr s base (x :: ix) a w) = s.put (wordWr s base (x :: ix) a w)) :
    exec (.loopOpenRegisterWrite path a w) s = .next (s.wr a (written s a w)) := by
  rw [exec_loopOpenWrite h hr hb, hopen, if_neg Bool.false_ne_true, hw]
  rfl

end

theorem rwFld_loop (x : Nat) (hx : x < 6) :
    rwFld (SRV_LP_ILIM x) SRV_LP_ILIM_ILO = true ∧ rwFld (SRV_LP_ILIM x) SRV_LP_ILIM_IHI = true ∧
      rwFld (SRV_LP_OLIM x) SRV_LP_OLIM_OLO = true ∧ rwFld (SRV_LP_OLIM x) SRV_LP_OLIM_OHI = true ∧
      rwFld (SRV_LP_CFG x) SRV_LP_CFG_OUT = true ∧ rwFld (SRV_LP_CFG x) SRV_LP_CFG_TYPE = true ∧
      rwFld (SRV_LP_CFG x) SRV_LP_CFG_FBSRC = true := by
  interval_cases x <;> decide

/-- What an open loop holds: a coefficient, an offset, a notch coefficient, an ordered limit, or a legal configuration. -/
theorem exec_loopOpenWrite_legal {x : Nat} (hx : x < 6) (h : takes s path a = true) (hopen : s.loopClosed x = false)
    (hl : (∃ k < 4, a = SRV_LP_K x k) ∨ a = SRV_LP_OOFS x ∨ (∃ j < 2, ∃ k < 5, a = SRV_LP_NC x j k) ∨
        (a = SRV_LP_ILIM x ∧ sx 16 (SRV_LP_ILIM_ILO.get w) ≤ sx 16 (SRV_LP_ILIM_IHI.get w)) ∨
        (a = SRV_LP_OLIM x ∧ sx 16 (SRV_LP_OLIM_OLO.get w) ≤ sx 16 (SRV_LP_OLIM_OHI.get w)) ∨
        (a = SRV_LP_CFG x ∧ SRV_LP_CFG_OUT.get w ≤ 8 ∧ typeAllowed x (SRV_LP_CFG_TYPE.get w) = true ∧
          fbAllowed (SRV_LP_CFG_TYPE.get w) (SRV_LP_CFG_FBSRC.get w) = true)) :
    exec (.loopOpenRegisterWrite path a w) s = .next (s.wr a (written s a w)) := by
  obtain ⟨-, hoofs, hilim, holim, hcfg⟩ := regAt_loop x hx
  obtain ⟨filo, fihi, folo, fohi, fout, ftyp, ffb⟩ := rwFld_loop x hx
  rcases hl with ⟨k, hk, rfl⟩ | rfl | ⟨j, hj, k, hk, rfl⟩ | ⟨rfl, hle⟩ | ⟨rfl, hle⟩ | ⟨rfl, hout, htyp, hfb⟩
  · exact exec_loopOpenWrite_holds h (regAt_loopGain x k hx hk) (by decide) hopen rfl
  · exact exec_loopOpenWrite_holds h hoofs (by decide) hopen rfl
  · refine exec_loopOpenWrite_holds h (regAt_loopNotch x j k hx hj hk) (by interval_cases k <;> decide) hopen ?_
    interval_cases k <;> rfl
  · refine exec_loopOpenWrite_holds h hilim (by decide) hopen ?_
    rw [State.writeOpen, wordWr_base, if_neg (by decide), if_pos rfl, wordWr_v filo, wordWr_v fihi, if_neg (by omega)]
  · refine exec_loopOpenWrite_holds h holim (by decide) hopen ?_
    rw [State.writeOpen, wordWr_base, if_neg (by decide), if_neg (by decide), if_pos rfl, wordWr_v folo, wordWr_v fohi,
      if_neg (by omega)]
  · refine exec_loopOpenWrite_holds h hcfg (by decide) hopen ?_
    rw [State.writeOpen, wordWr_base, if_pos rfl, State.writeLpCfg]
    simp [wordWr_v fout, wordWr_v ftyp, wordWr_v ffb, Nat.not_lt.2 hout, htyp, hfb, Wr.keepIf]

/-! ### The trajectory banks (R241) -/

theorem blkOf_of_span {b : Blk} (hlo : b.span.1 ≤ a) (hhi : a < b.span.2) : blkOf a = some b := by
  have hdisj : ∀ c ∈ Blk.all, c = b ∨ c.span.2 ≤ b.span.1 ∨ b.span.2 ≤ c.span.1 := by cases b <;> decide
  have hmem : b ∈ Blk.all := by cases b <;> decide
  obtain ⟨c, hc⟩ := Option.isSome_iff_exists.1 (List.find?_isSome (p := fun b : Blk => b.span.1 ≤ a && a < b.span.2).2
    ⟨b, hmem, by simp [hlo, hhi]⟩)
  have hspan := List.find?_some hc
  simp only [Bool.and_eq_true, decide_eq_true_eq] at hspan
  rcases hdisj c (List.mem_of_find?_eq_some hc) with rfl | h | h
  · exact hc
  · omega
  · omega

/-- Every register of a card stands below an address. -/
def Machine.Card.endsBy (c : Card) (n : Nat) : Bool :=
  match c.dims with
  | [] => decide (c.addr < n)
  | (d, k) :: _ => decide (0 < d) && decide (c.addr + k * d ≤ n)

theorem Machine.Card.dimIndices_of_endsBy {c : Card} {n : Nat} (h : c.endsBy n = true) (hn : n ≤ a) :
    dimIndices c.dims (a - c.addr) = none := by
  unfold Card.endsBy at h
  split at h <;> rename_i hd <;> rw [hd]
  · rw [decide_eq_true_eq] at h
    rw [dimIndices, if_neg (by omega)]
  · rw [Bool.and_eq_true, decide_eq_true_eq, decide_eq_true_eq] at h
    rw [dimIndices, if_neg (by rw [Nat.not_lt, Nat.le_div_iff_mul_le h.1]; omega)]

/-- Cards whose instances all stand below an address are passed over. -/
theorem Machine.findCard_append {l m : List Card} {n : Nat} (hl : l.all (·.endsBy n) = true) (hn : n ≤ a) :
    findCard (l ++ m) a = findCard m a := by
  induction l with
  | nil => rfl
  | cons c l ih =>
    rw [List.all_cons, Bool.and_eq_true] at hl
    rw [List.cons_append, findCard, Card.dimIndices_of_endsBy hl.1 hn, ih hl.2, ite_self]

/-- The last card of a list is found where the cards before it end below it. -/
theorem Machine.findCard_last {l : List Card} {c : Card} (hl : l.all (·.endsBy c.addr) = true) (ha : c.addr ≤ a)
    (hix : dimIndices c.dims (a - c.addr) = some ix) : findCard (l ++ [c]) a = some (c, ix) := by
  rw [findCard_append hl ha, findCard, if_pos ha, hix]

/-- The card of the trajectory banks, the last of the servo's. -/
def trajectoryCard : Card :=
  ⟨"SRV_TRAJ", 0x94000, [(0x2000, 2), (0x1000, 2), (0x4, 1024)], 0x0, 0x0, [SRV_TRAJ_SP, SRV_TRAJ_GATE]⟩

theorem cardsSRV_eq : Blk.SRV.cards = (cardsSRV0 ++ cardsSRV1.dropLast) ++ [trajectoryCard] := rfl

theorem dimIndices_trajectory {m b e : Nat} (hm : m < 2) (hb : b < 2) (he : e < 1024) :
    dimIndices trajectoryCard.dims (SRV_TRAJ m b e - trajectoryCard.addr) = some [m, b, e] := by
  have hoff : SRV_TRAJ m b e - trajectoryCard.addr = 0x2000 * m + 0x1000 * b + 0x4 * e := by
    simp only [SRV_TRAJ, trajectoryCard]; omega
  have h1 : (0x2000 * m + 0x1000 * b + 0x4 * e) / 0x2000 = m ∧
      (0x2000 * m + 0x1000 * b + 0x4 * e) % 0x2000 = 0x1000 * b + 0x4 * e := by omega
  have h2 : (0x1000 * b + 0x4 * e) / 0x1000 = b ∧ (0x1000 * b + 0x4 * e) % 0x1000 = 0x4 * e := by omega
  have h3 : 0x4 * e / 0x4 = e ∧ 0x4 * e % 0x4 = 0 := by omega
  rw [hoff, trajectoryCard]
  simp [dimIndices, h1, h2, hm, hb, he]

theorem regAt_trajectory {m b e : Nat} (hm : m < 2) (hb : b < 2) (he : e < 1024) :
    regAt .SRV (SRV_TRAJ 0 0 0) [m, b, e] (SRV_TRAJ m b e) = true := by
  have hlo : 0x94000 ≤ SRV_TRAJ m b e := by simp only [SRV_TRAJ]; omega
  have hhi : SRV_TRAJ m b e < 0x98000 := by simp only [SRV_TRAJ]; omega
  have hblk : blkOf (SRV_TRAJ m b e) = some .SRV := blkOf_of_span (by simp only [Blk.span]; omega) (by simp only [Blk.span]; omega)
  refine regAt_iff.2 ⟨hblk, by simp only [SRV_TRAJ]; omega, trajectoryCard, ?_, rfl⟩
  rw [cardAt, hblk]
  simp only [cardsSRV_eq]
  exact findCard_last (by decide) hlo (dimIndices_trajectory hm hb he)

/-- TRAJECTORY_WRITE: the bank that runs is left as it is. -/
theorem exec_trajectoryWrite {m b e : Nat} (hm : m < 2) (hb : b < 2) (he : e < 1024) (h : takes s path (SRV_TRAJ m b e) = true) :
    exec (.trajectoryWrite path m b e w) s = .next (if (s.loop m).running ∧ s.f (SRV_LP_TRAJ m) SRV_LP_TRAJ_ACTIVE = b
      then refusedBy path (s.setF SRV_STATUS SRV_STATUS_WR_IGNORED 1) else s.wr (SRV_TRAJ m b e) (written s (SRV_TRAJ m b e) w)) := by
  have hr := regAt_trajectory hm hb he
  refine (congrArg _ (State.pathWriteIn_of_regAt h hr (by decide) w)).trans ?_
  change Host.Outcome.next (took path (s.writeSrv _)) = _
  rw [writeSrv_of_notActing hr (by decide), if_neg (by decide), State.writeSrvRest, wordWr_base,
    if_neg (by decide), if_neg (by rintro ⟨h, -⟩; revert h; decide), if_neg (by rintro ⟨h, -⟩; revert h; decide)]
  simp only [wordWr_i_zero, true_and]
  rw [apply_ite (took path)]
  rfl

end Sys2Proof
end


section
/-! The protected word writes of the monitor, the filters, the recorder, the ports, DMA and the exposure weights (O20). -/

namespace Sys2Proof

open Machine Machine.Reg

variable {s : State} {path : Path} {base a : Nat} {ix : List Nat} {w : Word}

/-! ### The sequencing table (R260, R263) -/

/-- SEQUENCE_TABLE_WRITE of a register outside the table. -/
theorem exec_sequenceWrite_single (ha : a ∈ [MAD_TRIG, MAD_TIMER]) (h : takes s path a = true) :
    exec (.sequenceTableWrite path a w) s = .next (if s.seqRuns then refusedBy path (s.setF MAD_STATUS MAD_STATUS_WR_IGNORED 1)
      else s.wr a (written s a w)) := by
  have hr : regAt .MAD a [] a = true := by fin_cases ha <;> decide
  have hg : sequenceRegs.contains a = true := by fin_cases ha <;> decide
  have hlow : a < MAD_ENTRY0 0 ∧ a ∉ [MAD_CTRL, MAD_INJ, MAD_STATUS, MAD_TICK_CH] := by fin_cases ha <;> decide
  refine (congrArg _ (State.pathWriteIn_of_regAt h hr hg w)).trans ?_
  change Host.Outcome.next (took path (s.writeMad _)) = _
  have hne : ∀ c ∈ [MAD_CTRL, MAD_INJ, MAD_STATUS, MAD_TICK_CH], ¬ a = c := by rintro c hc rfl; exact hlow.2 hc
  rw [State.writeMad, wordWr_a, wordWr_base, if_neg (hne _ (by decide)), if_neg (hne _ (by decide)), if_neg (hne _ (by decide)),
    if_neg (hne _ (by decide)), if_neg (fun h => by omega : ¬ (MAD_ENTRY0 0 ≤ a ∧ _)), if_neg (fun h => by omega : ¬ (a = MAD_ENTRY0 0 ∧ _))]
  cases s.seqRuns <;> rfl

theorem regAt_entry (k : Nat) (hk : k < 64) :
    regAt .MAD (MAD_ENTRY0 0) [k] (MAD_ENTRY0 k) = true ∧ regAt .MAD (MAD_ENTRY1 0) [k] (MAD_ENTRY1 k) = true ∧
      regAt .MAD (MAD_ENTRY2 0) [k] (MAD_ENTRY2 k) = true ∧ regAt .MAD (MAD_ENTRY3 0) [k] (MAD_ENTRY3 k) = true := by
  revert k; decide

/-- SEQUENCE_TABLE_WRITE of a table word with no reserved bit and, in the first word of an entry, legal channels. -/
theorem exec_sequenceWrite_entry (h : takes s path a = true) (hr : regAt .MAD base ix a = true) (hrun : s.seqRuns = false)
    (hlo : MAD_ENTRY0 0 ≤ a) (hg : sequenceRegs.contains base = true) (hres : w.toNat &&& entryReserved base = 0)
    (hch : base = MAD_ENTRY0 0 → chWordLegal (written s a w).toNat = true) :
    exec (.sequenceTableWrite path a w) s = .next (s.wr a (written s a w)) := by
  refine (congrArg _ (State.pathWriteIn_of_regAt h hr hg w)).trans ?_
  change Host.Outcome.next (took path (s.writeMad _)) = _
  have hne : ∀ c ∈ [MAD_CTRL, MAD_INJ, MAD_STATUS, MAD_TICK_CH], ¬ a = c := by
    have : ∀ c ∈ [MAD_CTRL, MAD_INJ, MAD_STATUS, MAD_TICK_CH], c < MAD_ENTRY0 0 := by decide
    intro c hc; have := this c hc; omega
  rw [State.writeMad, wordWr_a, wordWr_base, if_neg (hne _ (by decide)), if_neg (hne _ (by decide)), if_neg (hne _ (by decide)),
    if_neg (hne _ (by decide)), hrun, if_neg Bool.false_ne_true, wordWr_ones, hres, if_neg (fun h => h.2 rfl),
    if_neg (by rintro ⟨hb, hc⟩; rw [wordWr_new, hch hb] at hc; cases hc)]
  rfl

/-! ### The filter chains (R268, R269) -/

theorem regAt_chain (c : Nat) (hc : c < 8) :
    regAt .MFC (MFC_CH_CFG 0) [c] (MFC_CH_CFG c) = true ∧ rwFld (MFC_CH_CFG c) MFC_CH_CFG_DEC_LOG2 = true ∧
      ∀ k < 8, regAt .MFC (MFC_CH_FIR 0 k) [c] (MFC_CH_FIR c k) = true := by
  revert c; decide

theorem coefficient_mem_chainRegs (k : Nat) (hk : k < 8) :
    chainRegs.contains (MFC_CH_FIR 0 k) = true ∧ MFC_CH_FIR 0 k ≠ MFC_CH_CFG 0 := by
  revert k; decide

/-- CHAIN_CONFIG_WRITE of a chain's configuration or coefficients. -/
theorem exec_chainConfigWrite {c : Nat} (h : takes s path a = true) (hr : regAt .MFC base [c] a = true)
    (hb : chainRegs.contains base = true) : exec (.chainConfigWrite path a w) s = .next (took path
      (if s.chainOn c then (.busy, s.setF MFC_STATUS MFC_STATUS_COEF_REJ 1)
      else if base = MFC_CH_CFG 0 ∧ ((wordWr s base [c] a w).v MFC_CH_CFG_DEC_LOG2 = 0 ∨ 8 < (wordWr s base [c] a w).v MFC_CH_CFG_DEC_LOG2) then
        s.wrRej MFC_STATUS MFC_STATUS_CFG_REJ
      else s.put (wordWr s base [c] a w))) := by
  refine (congrArg _ (State.pathWriteIn_of_regAt h hr hb w)).trans ?_
  change Host.Outcome.next (took path (s.writeMfc _)) = _
  have hne : ∀ c, chainRegs.contains c = false → base ≠ c := by rintro c hc rfl; rw [hb] at hc; cases hc
  rw [State.writeMfc, wordWr_a, wordWr_base, if_neg (regAt_ne hr (by decide : regAt .MFC MFC_SYNC [] MFC_SYNC = true) (hne _ (by decide))),
    if_neg (regAt_ne hr (by decide : regAt .MFC MFC_STATUS [] MFC_STATUS = true) (hne _ (by decide))), if_neg (hne _ (by decide)),
    if_pos hb, wordWr_i_zero]

theorem exec_chainConfigWrite_stopped {c : Nat} (hc : c < 8) (h : takes s path a = true) (hoff : s.chainOn c = false)
    (ha : (∃ k < 8, a = MFC_CH_FIR c k) ∨ (a = MFC_CH_CFG c ∧ 0 < MFC_CH_CFG_DEC_LOG2.get w ∧ MFC_CH_CFG_DEC_LOG2.get w ≤ 8)) :
    exec (.chainConfigWrite path a w) s = .next (s.wr a (written s a w)) := by
  obtain ⟨hcfg, hf, hfir⟩ := regAt_chain c hc
  rcases ha with ⟨k, hk, rfl⟩ | ⟨rfl, hlo, hhi⟩
  · have hbase := coefficient_mem_chainRegs k hk
    rw [exec_chainConfigWrite h (hfir k hk) hbase.1, hoff, if_neg Bool.false_ne_true, if_neg (fun h => hbase.2 h.1)]
    rfl
  · rw [exec_chainConfigWrite h hcfg (by decide), hoff, if_neg Bool.false_ne_true, wordWr_v hf, if_neg (by omega)]
    rfl

/-! ### The recorder's masks (R293, R296) -/

theorem regAt_mask (m : Nat) (hm : m < 4) :
    regAt .EVR (EVR_MSK_CFG 0) [m] (EVR_MSK_CFG m) = true ∧ regAt .EVR (EVR_MSK_SRC 0) [m] (EVR_MSK_SRC m) = true ∧
      ∀ k < 32, regAt .EVR (EVR_MSK_ENV 0 0) [m, k] (EVR_MSK_ENV m k) = true := by
  revert m; decide

theorem rwFld_mask (m : Nat) (hm : m < 4) :
    rwFld (EVR_MSK_SRC m) EVR_MSK_SRC_CHBYTE = true ∧ rwFld (EVR_MSK_CFG m) EVR_MSK_CFG_INPUT = true ∧
      rwFld (EVR_MSK_CFG m) EVR_MSK_CFG_REF = true ∧ rwFld (EVR_MSK_CFG m) EVR_MSK_CFG_EN = true := by
  revert m; decide

section
variable {m : Nat} (h : takes s path a = true) (hr : regAt .EVR base (m :: ix) a = true)
include h hr

theorem exec_maskConfigWrite (hb : [EVR_MSK_CFG 0, EVR_MSK_SRC 0, EVR_MSK_ENV 0 0].contains base = true) :
    exec (.maskConfigWrite path a w) s = .next (took path
      (if base = EVR_MSK_CFG 0 then s.writeMask (wordWr s base (m :: ix) a w)
      else if s.fb (EVR_MSK_CFG m) EVR_MSK_CFG_EN then s.wrRej EVR_STATE EVR_STATE_WR_IGNORED
      else if base = EVR_MSK_SRC 0 ∧ !chLegal ((wordWr s base (m :: ix) a w).v EVR_MSK_SRC_CHBYTE) then
        (.refused, if s.domOn 13 then s.setF MAD_STATUS MAD_STATUS_CFG_REJ 1 else s)
      else s.put (wordWr s base (m :: ix) a w))) := by
  refine (congrArg _ (State.pathWriteIn_of_regAt h hr hb w)).trans ?_
  change Host.Outcome.next (took path (s.writeEvr _)) = _
  have hne : ∀ c, [EVR_MSK_CFG 0, EVR_MSK_SRC 0, EVR_MSK_ENV 0 0].contains c = false → base ≠ c := by
    rintro c hc rfl; rw [hb] at hc; cases hc
  have hlast : base ≠ EVR_MSK_CFG 0 → base = EVR_MSK_SRC 0 ∨ base = EVR_MSK_ENV 0 0 := by
    intro h0; simpa [h0] using hb
  rw [State.writeEvr, wordWr_a, wordWr_base, if_neg (regAt_ne hr (by decide : regAt .EVR EVR_CTRL [] EVR_CTRL = true) (hne _ (by decide))),
    if_neg (regAt_ne hr (by decide : regAt .EVR EVR_SEG_FREE [] EVR_SEG_FREE = true) (hne _ (by decide))), wordWr_i_zero]
  by_cases h0 : base = EVR_MSK_CFG 0
  · rw [if_pos h0, if_pos h0]
  · rw [if_neg h0, if_neg h0, if_pos (hlast h0)]

end

/-! ### The exposure weights (R324) -/

theorem regAt_weight (j : Nat) (hj : j < 4) :
    regAt .ESF (ESF_EXP_WT 0) [j] (ESF_EXP_WT j) = true ∧ rwFld (ESF_EXP_WT j) ESF_EXP_WT_WT = true := by
  revert j; decide

/-- A register whose only field is the whole word holds the written word. -/
theorem written_of_wholeField {f : Fld} (hf : rwFld a f = true) (hlo : f.lo = 0) (hw : f.w = 32) : written s a w = w := by
  have h := get_written (s := s) (w := w) hf
  have hget : ∀ v : Word, f.get v = v.toNat := by
    intro v
    rw [Fld.get, bits, hlo, hw]
    have := v.isLt
    omega
  rw [hget, hget] at h
  exact BitVec.eq_of_toNat_eq h

/-- EXPOSURE_WEIGHT_WRITE: outside SCANNING the weights hold where each reaches its floor. -/
theorem exec_exposureWeightWrite {j : Nat} (hj : j < 4) (h : takes s path (ESF_EXP_WT j) = true)
    (hfloor : s.dev ≠ .scanning → ∀ m < 4, s.floor (4 * j + m) ≤ bits w.toNat (8 * m) 8) :
    exec (.exposureWeightWrite path j w) s = .next (if s.dev = .scanning
      then refusedBy path (s.setF ESF_STATUS ESF_STATUS_WR_IGNORED 1) else s.wr (ESF_EXP_WT j) (written s (ESF_EXP_WT j) w)) := by
  obtain ⟨hr, hf⟩ := regAt_weight j hj
  refine (congrArg _ (State.pathWriteIn_of_regAt h hr (by decide) w)).trans ?_
  change Host.Outcome.next (took path (s.writeEsf _)) = _
  rw [State.writeEsf, wordWr_a, wordWr_base,
    if_neg (regAt_ne hr (by decide : regAt .ESF ESF_CTRL [] ESF_CTRL = true) (by decide)), if_pos rfl, State.writeWeight, wordWr_i_zero]
  by_cases hs : s.dev = .scanning
  · rw [if_pos hs, if_pos (by rw [State.scanning, hs]; rfl)]
    rfl
  · rw [if_neg hs, if_neg (by rw [State.scanning, beq_iff_eq]; exact hs)]
    have hbad : (List.range 4).filter (fun m => decide ((wordWr s (ESF_EXP_WT 0) [j] (ESF_EXP_WT j) w).v (wtFld m) < s.floor (4 * j + m)))
        = [] := by
      refine List.filter_eq_nil_iff.2 fun m hm => ?_
      have := hfloor hs m (List.mem_range.1 hm)
      rw [Wr.v, wordWr_new, written_of_wholeField hf rfl rfl, decide_eq_true_eq]
      exact Nat.not_lt.2 this
    simp only [hbad, List.foldl_nil, List.isEmpty_nil, if_true, Bool.not_true, Bool.false_eq_true, and_false, if_false]
    rfl

/-! ### The ports (R350, R351) -/

/-- The block of a port. -/
def portBlk : Port → Blk
  | .A => .ETHA
  | .B => .ETHB

theorem blockWrite_port (port : Port) (x : Wr) : s.blockWrite (portBlk port) x = s.writeEth x := by cases port <;> rfl

theorem portOf_portIx (port : Port) : portOf (portIx port) = port := by cases port <;> rfl

theorem regAt_cbs (port : Port) :
    regAt (portBlk port) (ETHx_CBS 0) [portIx port] (ETHx_CBS (portIx port)) = true ∧
      rwFld (ETHx_CBS (portIx port)) ETHx_CBS_EN = true ∧ rwFld (ETHx_CBS (portIx port)) ETHx_CBS_IDLE_SLOPE = true := by
  cases port <;> decide

/-- CBS_WRITE: the shaper holds a slope within the line rate, not 0 where it is enabled. -/
theorem exec_cbsWrite {port : Port} (h : takes s path (ETHx_CBS (portIx port)) = true) :
    exec (.cbsWrite path port w) s = .next (if s.rate port < ETHx_CBS_IDLE_SLOPE.get w ∨ (ETHx_CBS_EN.get w = 1 ∧ ETHx_CBS_IDLE_SLOPE.get w = 0)
      then refusedBy path (s.portRej port) else s.wr (ETHx_CBS (portIx port)) (written s (ETHx_CBS (portIx port)) w)) := by
  obtain ⟨hr, hen, hslope⟩ := regAt_cbs port
  refine (congrArg _ (State.pathWriteIn_of_regAt h hr (by decide) w)).trans ?_
  rw [blockWrite_port, State.writeEth, wordWr_base, if_neg (by decide), if_neg (by decide), if_pos rfl, State.writeCbs, wordWr_i_zero,
    portOf_portIx, wordWr_v hen, wordWr_v hslope, apply_ite (took path)]
  rfl

/-- The settings of a port, and that only the MTU's card has a rule of its own. -/
theorem settings_regWith (port : Port) : ∀ a ∈ portSettings (portIx port), regWith (portBlk port) (fun base ix =>
    ix.getD 0 0 == portIx port && !([ETHx_CTRL 0, ETHx_CNT_CLR 0, ETHx_CBS 0].contains base) &&
      (base != ETHx_MTU 0 || a == ETHx_MTU (portIx port))) a = true := by
  cases port <;> decide

/-- PORT_SETTINGS_WRITE: a disabled port holds the word, an enabled one also shows PENDING. -/
theorem exec_portSettingsWrite {port : Port} {k : Nat} (hk : (portSettings (portIx port))[k]? = some a) (h : takes s path a = true)
    (hmtu : a = ETHx_MTU (portIx port) → 1280 ≤ ETHx_MTU_MTU.get w ∧ ETHx_MTU_MTU.get w ≤ 9194) :
    exec (.portSettingsWrite path port k w) s = .next
      ((if s.fb (ETHx_CTRL (portIx port)) ETHx_CTRL_EN then s.setF (ETHx_STATUS (portIx port)) ETHx_STATUS_PENDING 1 else s).wr
        a (written s a w)) := by
  have hmem : a ∈ portSettings (portIx port) := List.mem_of_getElem? hk
  obtain ⟨base, ix, hr, ht⟩ := regWith_iff.1 (settings_regWith port a hmem)
  simp only [Bool.and_eq_true, beq_iff_eq, Bool.not_eq_true', Bool.or_eq_true, bne_iff_ne] at ht
  obtain ⟨⟨hport, hrule⟩, honly⟩ := ht
  have hne : ∀ c ∈ [ETHx_CTRL 0, ETHx_CNT_CLR 0, ETHx_CBS 0], base ≠ c := by
    rintro c hc rfl
    rw [List.contains_iff_mem.2 hc] at hrule
    cases hrule
  have hval : ¬ (base = ETHx_MTU 0 ∧ ((wordWr s base ix a w).v ETHx_MTU_MTU < 1280 ∨ 9194 < (wordWr s base ix a w).v ETHx_MTU_MTU)) := by
    rintro ⟨hb, hbad⟩
    have ha := honly.resolve_left (not_not.2 hb)
    have hf : rwFld a ETHx_MTU_MTU = true := by rw [ha]; cases port <;> decide
    rw [wordWr_v hf] at hbad
    have := hmtu ha
    omega
  have hexec : exec (.portSettingsWrite path port k w) s = .next (s.pathWrite path a w) := by
    change Host.Outcome.next (match (portSettings (portIx port))[k]? with | some a => s.pathWrite path a w | none => s) = _
    rw [hk]
  rw [hexec, State.pathWrite_of_regAt h hr, blockWrite_port, State.writeEth, wordWr_a, wordWr_base, if_neg (hne _ (by decide)),
    if_neg (hne _ (by decide)), if_neg (hne _ (by decide)), wordWr_i, hport, portOf_portIx, if_pos (List.contains_iff_mem.2 hmem),
    State.writeSetting, wordWr_base, if_neg hval]
  rfl

/-! ### The DMA channels (R438, R439) -/

/-- The configuration registers of a channel, and that only the first one's card has a rule of its own. -/
theorem dmaConfig_regWith : ∀ c < 16, ∀ k < 9, ∀ a ∈ (dmaConfigRegs c)[k]?, regWith .DMA (fun base ix =>
    ix.getD 0 0 == c && base != DMA_CH_CTRL 0 && decide (DMA_CH_CTRL 0 ≤ a) &&
      (base != DMA_CH_CFG 0 || k == 0 && a == DMA_CH_CFG c)) a = true := by
  decide

theorem rwFld_dmaConfig : ∀ c < 16, rwFld (DMA_CH_CFG c) DMA_CH_CFG_REQ = true ∧ rwFld (DMA_CH_CFG c) DMA_CH_CFG_DWIDTH = true ∧
    rwFld (DMA_CH_CFG c) DMA_CH_CFG_SWIDTH = true := by
  decide

/-- DMA_CONFIG_WRITE: a channel that is disabled holds a legal configuration. -/
theorem exec_dmaConfigWrite {c k : Nat} (hc : c < 16) (hk : (dmaConfigRegs c)[k]? = some a) (h : takes s path a = true)
    (hcfg : s.dmaEn c = false → k = 0 → DMA_CH_CFG_REQ.get w < 6 ∧ DMA_CH_CFG_DWIDTH.get w < 5 ∧ DMA_CH_CFG_SWIDTH.get w < 5) :
    exec (.dmaConfigWrite path c k w) s = .next (if s.dmaEn c
      then refusedBy path (s.setF (DMA_CH_CTRL c) DMA_CH_CTRL_WR_IGNORED 1) else s.wr a (written s a w)) := by
  have hlt : k < 9 := (List.getElem?_eq_some_iff.1 hk).1
  obtain ⟨base, ix, hr, ht⟩ := regWith_iff.1 (dmaConfig_regWith c hc k hlt a hk)
  simp only [Bool.and_eq_true, beq_iff_eq, Bool.or_eq_true, bne_iff_ne, decide_eq_true_eq] at ht
  obtain ⟨⟨⟨hi, hctrl⟩, hlo⟩, honly⟩ := ht
  have hexec : exec (.dmaConfigWrite path c k w) s = .next (s.pathWrite path a w) := by
    change Host.Outcome.next (match (dmaConfigRegs c)[k]? with | some a => s.pathWrite path a w | none => s) = _
    rw [hk]
  rw [hexec, State.pathWrite_of_regAt h hr]
  change Host.Outcome.next (took path (s.writeDma _)) = _
  rw [State.writeDma, wordWr_a, wordWr_base, if_neg (Nat.not_lt.2 hlo), if_neg hctrl, wordWr_i, hi]
  by_cases hen : s.dmaEn c = true
  · rw [if_pos hen, if_pos hen, took_wrRej]
  · rw [if_neg hen, if_neg hen]
    by_cases hb : base = DMA_CH_CFG 0
    · obtain ⟨rfl, rfl⟩ := honly.resolve_left (not_not.2 hb)
      obtain ⟨h1, h2, h3⟩ := rwFld_dmaConfig c hc
      obtain ⟨l1, l2, l3⟩ := hcfg (by simpa using hen) rfl
      have legal : (wordWr s base ix (DMA_CH_CFG c) w).dmaCfg = wordWr s base ix (DMA_CH_CFG c) w := by
        rw [Wr.dmaCfg, wordWr_v h1, wordWr_v h2, wordWr_v h3, Wr.keepIf_of_legal _ _ (decide_eq_false (by omega)),
          Wr.keepIf_of_legal _ _ (decide_eq_false (by omega)), Wr.keepIf_of_legal _ _ (decide_eq_false (by omega))]
      rw [if_pos hb, legal]
      rfl
    · rw [if_neg hb]
      rfl

/-! ### The statement -/

/-- What a mask that is not enabled by the write holds of its configuration. -/
theorem writeMask_disabled {m : Nat} (hm : m < 4) (hin : EVR_MSK_CFG_INPUT.get w ≠ 3) (href : EVR_MSK_CFG_REF.get w < 5)
    (hen : EVR_MSK_CFG_EN.get w = 0) : s.writeMask (wordWr s (EVR_MSK_CFG 0) [m] (EVR_MSK_CFG m) w) =
      s.put (wordWr s (EVR_MSK_CFG 0) [m] (EVR_MSK_CFG m) w) := by
  obtain ⟨-, h1, h2, h3⟩ := rwFld_mask m hm
  rw [State.writeMask, wordWr_v h1, wordWr_v h2, wordWr_v h3, Wr.keepIf_of_legal _ _ (beq_eq_false_iff_ne.2 hin),
    Wr.keepIf_of_legal _ _ (decide_eq_false (by omega)), hen]
  rfl

/-- A loop is in AUTO mode where the test of SRV_TICK's rule finds it. -/
theorem anyAuto_iff : (List.range 6).any (fun l => s.fb (SRV_LP_CTRL l) SRV_LP_CTRL_MODE) = true ↔
    ∃ x < 6, s.fb (SRV_LP_CTRL x) SRV_LP_CTRL_MODE = true := by
  simp [List.any_eq_true]

/-- Settles O20, register by register: each block's rule of the word write decides. -/
theorem protectedWordWrites : Obligations.ProtectedWordWrites := by
  unfold Obligations.ProtectedWordWrites
  intro s path w
  refine ⟨fun x hx h => ?man, fun h => ?tick, fun x a hx h hopen hl => exec_loopOpenWrite_legal hx h hopen hl,
    fun x a hx h hclosed ha => ?closed, fun m b e a hm hb he ha h => ?traj, fun a h ha => ?single, fun k a hk h hrun ha => ?entry,
    fun c a hc h => ⟨fun hoff ha => exec_chainConfigWrite_stopped hc h hoff ha, fun hon ha => ?chain⟩,
    fun m a hm h => ⟨fun hoff ha => ?maskHeld, fun hon ha => ?maskOn, fun ha hin href hen => ?maskCfg⟩,
    fun port k a hk h hmtu => exec_portSettingsWrite hk h hmtu, fun port a ha h => ?cbs, fun c k a hc hk h => ?dma,
    fun j a hj ha h => ?weight, fun a b c ix t hd h ha hb hc ht => ?pd00⟩
  case man =>
    rw [exec_loopManWrite hx h]
    exact ⟨fun hopen => by rw [hopen]; rfl, fun hclosed => by rw [hclosed]; rfl⟩
  case tick =>
    rw [exec_tickWrite h]
    refine ⟨fun hman hp => ?_, fun hauto => ?_⟩
    · rw [if_neg (fun hauto => ?_), if_neg (Nat.not_lt.2 hp)]
      · rfl
      · obtain ⟨x, hx, hm⟩ := anyAuto_iff.1 hauto
        rw [hman x hx] at hm
        cases hm
    · rw [if_pos (anyAuto_iff.2 hauto)]
      rfl
  case closed =>
    obtain ⟨-, hoofs, hilim, holim, hcfg⟩ := regAt_loop x hx
    have key : ∀ {base}, regAt .SRV base [x] a = true → loopRegs.contains base = true →
        exec (.loopOpenRegisterWrite path a w) s = .next (refusedBy path (s.setF SRV_STATUS SRV_STATUS_COEF_REJ 1)) := by
      intro base hr hb
      rw [exec_loopOpenWrite h hr hb, if_pos hclosed]
      rfl
    simp only [List.mem_cons, List.not_mem_nil, or_false] at ha
    rcases ha with rfl | rfl | rfl | rfl
    · exact key hcfg (by decide)
    · exact key hilim (by decide)
    · exact key holim (by decide)
    · exact key hoofs (by decide)
  case traj =>
    subst ha
    rw [exec_trajectoryWrite hm hb he h]
    exact ⟨fun hother => by rw [if_neg (fun ⟨hrun, hact⟩ => hother hrun hact)], fun hrun hact => by rw [if_pos ⟨hrun, hact⟩]⟩
  case single =>
    rw [exec_sequenceWrite_single ha h]
    exact ⟨fun hrun => by rw [hrun]; rfl, fun hrun => by rw [hrun]; rfl⟩
  case entry =>
    obtain ⟨h0, h1, h2, h3⟩ := regAt_entry k hk
    rcases ha with ⟨rfl, hch, hres⟩ | ⟨rfl, hres⟩ | ⟨rfl, hres⟩ | ⟨rfl, hres⟩
    · exact exec_sequenceWrite_entry h h0 hrun (Nat.le_add_right _ _) (by decide) hres fun _ => hch
    · exact exec_sequenceWrite_entry h h1 hrun (by simp only [MAD_ENTRY0, MAD_ENTRY1]; omega) (by decide) hres fun hb => absurd hb (by decide)
    · exact exec_sequenceWrite_entry h h2 hrun (by simp only [MAD_ENTRY0, MAD_ENTRY2]; omega) (by decide) hres fun hb => absurd hb (by decide)
    · exact exec_sequenceWrite_entry h h3 hrun (by simp only [MAD_ENTRY0, MAD_ENTRY3]; omega) (by decide) hres fun hb => absurd hb (by decide)
  case chain =>
    subst ha
    rw [exec_chainConfigWrite h (regAt_chain c hc).1 (by decide), if_pos hon]
    rfl
  case maskHeld =>
    obtain ⟨-, hsrc, henv⟩ := regAt_mask m hm
    rcases ha with ⟨rfl, hlegal⟩ | ⟨k, hk, rfl⟩
    · rw [exec_maskConfigWrite h hsrc (by decide), if_neg (by decide), hoff, if_neg Bool.false_ne_true, wordWr_v (rwFld_mask m hm).1,
        hlegal, if_neg (fun hbad => by simpa using hbad.2)]
      rfl
    · rw [exec_maskConfigWrite h (henv k hk) (by decide), if_neg (by decide), hoff, if_neg Bool.false_ne_true,
        if_neg (fun hbad => absurd hbad.1 (by decide))]
      rfl
  case maskOn =>
    subst ha
    rw [exec_maskConfigWrite h (regAt_mask m hm).2.1 (by decide), if_neg (by decide), if_pos hon]
    rfl
  case maskCfg =>
    subst ha
    rw [exec_maskConfigWrite h (regAt_mask m hm).1 (by decide), if_pos rfl, writeMask_disabled hm hin href hen]
    rfl
  case cbs =>
    subst ha
    rw [exec_cbsWrite h]
    refine ⟨fun hrate hzero => ?_, fun hrate => by rw [if_pos (.inl hrate)]; rfl⟩
    rw [if_neg]
    rintro (hbad | ⟨hen, hbad⟩)
    · omega
    · exact hzero hen hbad
  case dma =>
    refine ⟨fun hoff hcfg => ?_, fun hon => ?_⟩
    · rw [exec_dmaConfigWrite hc hk h fun _ => hcfg, hoff]
      rfl
    · rw [exec_dmaConfigWrite hc hk h fun hoff => absurd (hon.symm.trans hoff) (by decide), if_pos hon]
  case weight =>
    subst ha
    refine ⟨fun hs hfloor => ?_, fun hs => ?_⟩
    · rw [exec_exposureWeightWrite hj h fun _ => hfloor, if_neg hs]
    · rw [exec_exposureWeightWrite hj h fun hns => absurd hs hns, if_pos hs]
  case pd00 =>
    refine congrArg Host.Outcome.next ?_
    rw [hd, beq_self_eq_true, if_pos rfl]
    exact State.pathModify_takes h hb hc ha ht

end Sys2Proof
end


section
/-! The counter clears (O21): a write of 1 to a field that holds nothing, which its block answers with cleared counters. -/

namespace Sys2Proof

open Machine Machine.Reg

variable {s : State} {path : Path}

theorem exec_srvCounterClear (hs : canonical s = true) (h : takes s path SRV_STATUS = true) :
    exec (.srvCounterClear path) s = .next s.clearSrv := by
  obtain ⟨x, hx, he⟩ := State.pathField_of_regAt (f := SRV_STATUS_CNT_CLR) h (by decide : regAt .SRV SRV_STATUS [] SRV_STATUS = true)
    (by decide) 1
  refine (congrArg Host.Outcome.next he).trans ?_
  change Host.Outcome.next (took path (s.writeSrv x)) = _
  have hit : x.hit SRV_STATUS_CNT_CLR = true := hx.hit_self
  rw [State.writeSrv, hx.wr_wo hs rfl, hx.a_eq, if_neg (by decide), if_pos rfl, if_pos hit, took_done]

theorem exec_madCounterClear (hs : canonical s = true) (h : takes s path MAD_CTRL = true) :
    exec (.madCounterClear path) s = .next (s.refCheck.zero [MAD_CNT, MAD_CNT2]) := by
  obtain ⟨x, hx, he⟩ := State.pathField_of_regAt (f := MAD_CTRL_CNT_CLR) h (by decide : regAt .MAD MAD_CTRL [] MAD_CTRL = true)
    (by decide) 1
  refine (congrArg Host.Outcome.next he).trans ?_
  change Host.Outcome.next (took path (s.writeMad x)) = _
  have hit : x.hit MAD_CTRL_CNT_CLR = true := hx.hit_self
  have hgo : x.hit MAD_CTRL_GO = false := hx.hit_apart rfl
  have hseq : x.v MAD_CTRL_SEQ_EN = x.o MAD_CTRL_SEQ_EN := by rw [hx.v_wo rfl, hx.o_eq]
  have hrise : ¬ (x.o MAD_CTRL_SEQ_EN = 1 ∧ x.o MAD_CTRL_SEQ_EN = 0) := by omega
  have hfall : ¬ (x.o MAD_CTRL_SEQ_EN = 0 ∧ x.o MAD_CTRL_SEQ_EN = 1) := by omega
  rw [State.writeMad, if_pos hx.a_eq, State.writeMadCtrl, hx.wr_wo hs rfl, hseq, if_neg hrise, if_neg hfall, if_pos hit,
    hgo, if_neg Bool.false_ne_true, took_done]

theorem exec_mfcCounterClear (hs : canonical s = true) (h : takes s path MFC_STATUS = true) :
    exec (.mfcCounterClear path) s = .next (s.zero ((List.range 8).map MFC_CH_CNT)) := by
  obtain ⟨x, hx, he⟩ := State.pathField_of_regAt (f := MFC_STATUS_CNT_CLR) h (by decide : regAt .MFC MFC_STATUS [] MFC_STATUS = true)
    (by decide) 1
  refine (congrArg Host.Outcome.next he).trans ?_
  change Host.Outcome.next (took path (s.writeMfc x)) = _
  have hit : x.hit MFC_STATUS_CNT_CLR = true := hx.hit_self
  rw [State.writeMfc, hx.wr_wo hs rfl, hx.a_eq, if_neg (by decide), if_pos rfl, if_pos hit, took_done]

theorem exec_evrCounterClear (h : takes s path EVR_CTRL = true) : exec (.evrCounterClear path) s = .next
    (s.zero ([EVR_CNT_TRIG, EVR_CNT_GAPE, EVR_CNT_GAPM, EVR_ECC] ++ (List.range 4).map EVR_MSK_CNT)) := by
  obtain ⟨x, hx, he⟩ := State.pathField_of_regAt (f := EVR_CTRL_CNT_CLR) h (by decide : regAt .EVR EVR_CTRL [] EVR_CTRL = true)
    (by decide) 1
  refine (congrArg Host.Outcome.next he).trans ?_
  change Host.Outcome.next (took path (s.writeEvr x)) = _
  have hit : x.hit EVR_CTRL_CNT_CLR = true := hx.hit_self
  have hforce : x.hit EVR_CTRL_FORCE = false := hx.hit_apart rfl
  rw [State.writeEvr, if_pos hx.a_eq, State.writeEvrCtrl, if_pos hit, hforce, if_neg Bool.false_ne_true, took_done]

theorem regAt_portClear (port : Port) : regAt (portBlk port) (ETHx_CNT_CLR 0) [portIx port] (ETHx_CNT_CLR (portIx port)) = true ∧
    hasFld (ETHx_CNT_CLR (portIx port)) ETHx_CNT_CLR_ALL = true := by
  cases port <;> decide

theorem exec_portCounterClear {port : Port} (h : takes s path (ETHx_CNT_CLR (portIx port)) = true) :
    exec (.portCounterClear path port) s = .next (s.zero (portCounters (portIx port))) := by
  obtain ⟨hr, hf⟩ := regAt_portClear port
  obtain ⟨x, hx, he⟩ := State.pathFieldIn_of_regAt h hr hf 1
  refine (congrArg Host.Outcome.next he).trans ?_
  have hit : x.hit ETHx_CNT_CLR_ALL = true := hx.hit_self
  have hstream : x.hit ETHx_CNT_CLR_STRM = false := hx.hit_apart rfl
  have hi : x.i 0 = portIx port := hx.i_eq 0
  rw [blockWrite_port, State.writeEth, hx.base_eq, if_neg (by decide), if_pos rfl, State.clearPort, hi, if_pos hit, hstream,
    if_neg (fun hbad => Bool.false_ne_true hbad.1), took_done]

theorem exec_streamCounterClear (h : takes s path (ETHx_CNT_CLR 0) = true) (hon : s.domOn 10 = true) :
    exec (.streamCounterClear path) s = .next ((s.wr ETHA_STRM_CNT 0).setF ETHA_STRM_FILL ETHA_STRM_FILL_PEAK 0) := by
  obtain ⟨x, hx, he⟩ := State.pathFieldIn_of_regAt (f := ETHx_CNT_CLR_STRM) h (regAt_portClear .A).1 (by decide) 1
  refine (congrArg Host.Outcome.next he).trans ?_
  have hit : x.hit ETHx_CNT_CLR_STRM = true := hx.hit_self
  have hall : x.hit ETHx_CNT_CLR_ALL = false := hx.hit_apart rfl
  have hi : x.i 0 = 0 := hx.i_eq 0
  rw [blockWrite_port, State.writeEth, hx.base_eq, if_neg (by decide), if_pos rfl, State.clearPort, hi, hall,
    if_neg Bool.false_ne_true, if_pos ⟨hit, rfl, hon⟩, took_done]

theorem exec_timCounterClear (hs : canonical s = true) (h : takes s path TIM_STATUS = true) :
    exec (.timCounterClear path) s = .next s.clearTim := by
  obtain ⟨x, hx, he⟩ := State.pathField_of_regAt (f := TIM_STATUS_CNT_CLR) h (by decide : regAt .TIM TIM_STATUS [] TIM_STATUS = true)
    (by decide) 1
  refine (congrArg Host.Outcome.next he).trans ?_
  change Host.Outcome.next (took path (s.writeTim x)) = _
  have hit : x.hit TIM_STATUS_CNT_CLR = true := hx.hit_self
  rw [State.writeTim, hx.wr_wo hs rfl, if_pos hx.a_eq, if_pos hit, took_done]

theorem regAt_linkClear (l : Nat) (hl : l < 4) :
    regAt .WFL (WFL_CNT_CLR 0) [l] (WFL_CNT_CLR l) = true ∧
      hasFld (WFL_CNT_CLR l) WFL_CNT_CLR_ALL = true := by
  revert l; decide

theorem exec_wflCounterClear {l : Nat} (hl : l < 4) (h : takes s path (WFL_CNT_CLR l) = true) :
    exec (.wflCounterClear path l) s = .next (s.wflClear l) := by
  obtain ⟨hr, hf⟩ := regAt_linkClear l hl
  obtain ⟨x, hx, he⟩ := State.pathFieldIn_of_regAt h hr hf 1
  refine (congrArg Host.Outcome.next he).trans ?_
  change Host.Outcome.next (took path (s.writeWfl x)) = _
  have hit : x.hit WFL_CNT_CLR_ALL = true := hx.hit_self
  have hi : x.i 0 = l := hx.i_eq 0
  rw [State.writeWfl, hx.base_eq, if_neg (by decide), if_neg (by decide), if_pos rfl, hi, if_pos hit, took_done]

theorem exec_hngCounterClear (h : takes s path HNG_CNT_CLR = true) : exec (.hngCounterClear path) s = .next s.hngClear := by
  obtain ⟨x, hx, he⟩ := State.pathField_of_regAt (f := HNG_CNT_CLR_ALL) h (by decide : regAt .HNG HNG_CNT_CLR [] HNG_CNT_CLR = true)
    (by decide) 1
  refine (congrArg Host.Outcome.next he).trans ?_
  change Host.Outcome.next (took path (s.writeHng x)) = _
  have hit : x.hit HNG_CNT_CLR_ALL = true := hx.hit_self
  rw [State.writeHng, if_pos hx.a_eq, if_pos hit, took_done]

theorem exec_dmaCounterClear (h : takes s path DMA_Q_CTRL = true) : exec (.dmaCounterClear path) s = .next s.dmaCntClr := by
  obtain ⟨x, hx, he⟩ := State.pathField_of_regAt (f := DMA_Q_CTRL_CNT_CLR) h (by decide : regAt .DMA DMA_Q_CTRL [] DMA_Q_CTRL = true)
    (by decide) 1
  refine (congrArg Host.Outcome.next he).trans ?_
  change Host.Outcome.next (took path (s.writeDma x)) = _
  rw [State.writeDma, hx.a_eq, if_pos (by decide), if_pos rfl, State.dmaQCtrl, hx.ones_apart DMA_Q_CTRL_FLUSH_MON rfl,
    hx.ones_apart DMA_Q_CTRL_FLUSH_QFILT rfl, hx.ones_self,
    if_pos (by decide), if_neg (by decide), if_neg (by decide), took_done]

theorem exec_calCounterClear (hs : canonical s = true) (h : takes s path CAL_POLICY = true) :
    exec (.calCounterClear path) s = .next (s.wr CAL_CNT 0) := by
  obtain ⟨x, hx, he⟩ := State.pathField_of_regAt (f := CAL_POLICY_CNT_CLR) h (by decide : regAt .CAL CAL_POLICY [] CAL_POLICY = true)
    (by decide) 1
  refine (congrArg Host.Outcome.next he).trans ?_
  change Host.Outcome.next (took path (s.writeCal x)) = _
  have hit : x.hit CAL_POLICY_CNT_CLR = true := hx.hit_self
  rw [State.writeCal, hx.wr_wo hs rfl, if_pos hx.a_eq, if_pos hit, took_done]

theorem exec_thmCounterClear (h : takes s path THM_STATE = true) :
    exec (.thmCounterClear path) s = .next ((s.wr THM_CNT 0).setF THM_NVLOG THM_NVLOG_SUPPR 0) := by
  obtain ⟨x, hx, he⟩ := State.pathField_of_regAt (f := THM_STATE_CNT_CLR) h (by decide : regAt .THM THM_STATE [] THM_STATE = true)
    (by decide) 1
  refine (congrArg Host.Outcome.next he).trans ?_
  change Host.Outcome.next (took path (s.writeThm x)) = _
  have hit : x.hit THM_STATE_CNT_CLR = true := hx.hit_self
  rw [State.writeThm, if_pos ⟨hx.a_eq, hit⟩, took_done]

/-- Settles O21, counter clear by counter clear. -/
theorem counterClears : Obligations.CounterClears := by
  unfold Obligations.CounterClears
  intro s path hs
  exact ⟨exec_srvCounterClear hs, exec_madCounterClear hs, exec_mfcCounterClear hs, exec_evrCounterClear,
    fun _ h => exec_portCounterClear h, exec_streamCounterClear, exec_timCounterClear hs, fun _ hl h => exec_wflCounterClear hl h,
    exec_hngCounterClear, exec_dmaCounterClear, exec_calCounterClear hs, exec_thmCounterClear⟩

end Sys2Proof
end


section
/-! The front end's register writes with effects (O18). -/

namespace Sys2Proof

open Machine Machine.Reg

variable {s : State} {path : Path}

theorem exec_glbBehaviourWrite {v : Nat} (h : takes s path GLB_BEHAVIOUR = true) (hd : s.dev = .idle)
    (hreq : s.f GLB_BEHAVIOUR GLB_BEHAVIOUR_REQ ≤ v) (hmax : v ≤ s.boot.shadows.blMax) (hv : v < 16) :
    exec (.glbBehaviourWrite path v) s = .next (s.setF GLB_BEHAVIOUR GLB_BEHAVIOUR_LEVEL v) := by
  obtain ⟨x, hx, he⟩ := State.pathField_of_regAt (f := GLB_BEHAVIOUR_LEVEL) h
    (by decide : regAt .GLB GLB_BEHAVIOUR [] GLB_BEHAVIOUR = true) (by decide) v
  refine (congrArg Host.Outcome.next he).trans ?_
  change Host.Outcome.next (took path (s.writeGlb x)) = _
  have hval : x.v GLB_BEHAVIOUR_LEVEL = v := (hx.v_self rfl (by decide)).trans (Nat.mod_eq_of_lt hv)
  rw [State.writeGlb, if_neg (not_not.2 hx.a_eq), hval, if_pos ⟨hd, hreq, hmax⟩, took_put, hx.wr_rw rfl]

/-- The write of ESF_CTRL.TRIP leaves the other fields, which are legal as they are. -/
theorem exec_hostTrip (hs : canonical s = true) (h : takes s path ESF_CTRL = true) (h0 : s.f ESF_CTRL ESF_CTRL_DISC ≠ 0)
    (h31 : s.f ESF_CTRL ESF_CTRL_DISC ≠ 31) (hclr : s.f ESF_CTRL ESF_CTRL_AUTOCLR &&& autoClearable = s.f ESF_CTRL ESF_CTRL_AUTOCLR) :
    exec (.hostTrip path) s = .next (s.hgUpdate.latch [14]) := by
  obtain ⟨x, hx, he⟩ := State.pathField_of_regAt (f := ESF_CTRL_TRIP) h (by decide : regAt .ESF ESF_CTRL [] ESF_CTRL = true)
    (by decide) 1
  refine (congrArg Host.Outcome.next he).trans ?_
  change Host.Outcome.next (took path (s.writeEsf x)) = _
  have hit : x.hit ESF_CTRL_TRIP = true := hx.hit_self
  have hbad : (x.v ESF_CTRL_DISC == 0 || x.v ESF_CTRL_DISC == 31) = false := by
    rw [hx.v_wo rfl, beq_eq_false_iff_ne.2 h0, beq_eq_false_iff_ne.2 h31]; rfl
  have hauto : ESF_CTRL_AUTOCLR.set x.new (x.v ESF_CTRL_AUTOCLR &&& autoClearable) = x.new := by
    rw [hx.v_wo rfl, hclr, ← hx.v_wo rfl]
    exact Fld.set_get _ _
  rw [State.writeEsf, if_pos hx.a_eq, State.writeEsfCtrl, hbad, Wr.keepIf_of_legal _ _ rfl, if_neg Bool.false_ne_true]
  simp only [hauto, hx.wr_wo hs rfl, hit, if_true, took_done]

/-! ### Counters by quarter (R97, R128, R182) -/

/-- The quarters that a write of the field itself names. -/
theorem quartersOn_self {base a m : Nat} {ix : List Nat} {f : Fld} {x : Wr} (hx : FieldWr s base ix a f m x) (hm : m < 2 ^ f.w)
    (first : Nat) : s.quartersOn x f first = (List.range 4).filter fun q => bit m q && s.domOn (first + q) := by
  rw [State.quartersOn, hx.ones_self, Nat.mod_eq_of_lt hm]

/-- A write of another field names no quarter. -/
theorem quartersOn_apart {base a v : Nat} {ix : List Nat} {f g : Fld} {x : Wr} (hx : FieldWr s base ix a f v x)
    (hg : f.apart g = true) (first : Nat) : s.quartersOn x g first = [] := by
  rw [State.quartersOn, hx.ones_apart g hg]
  exact List.filter_eq_nil_iff.2 fun q _ => by simp [bit]

section
variable (h : takes s path TDC_CNT_CLR = true)
include h

theorem exec_tdcCounterClear {m : Nat} (hm : m < 16) {l : List Nat}
    (hl : l = quarterChannels ((List.range 4).filter fun k => bit m k && s.domOn (6 + k))) :
    exec (.tdcCounterClear path m) s = .next
      ((s.zero (l.flatMap fun n => [RFE_CNT_EVT n, RFE_CNT_HIREJ n, RFE_CNT_LOSS n])).zeroF (l.map RFE_STAT) RFE_STAT_FIFO_PEAK) := by
  obtain ⟨x, hx, he⟩ := State.pathField_of_regAt (f := TDC_CNT_CLR_QUARTER) h
    (by decide : regAt .TDC TDC_CNT_CLR [] TDC_CNT_CLR = true) (by decide) m
  refine (congrArg Host.Outcome.next he).trans ?_
  change Host.Outcome.next (took path (s.writeTdc x)) = _
  have hfref : x.hit TDC_CNT_CLR_FREF = false := hx.hit_apart rfl
  rw [State.writeTdc, if_pos hx.a_eq, State.clearTdc, quartersOn_self hx hm, ← hl, hfref, if_neg Bool.false_ne_true, took_done]

theorem exec_frefMissClear :
    exec (.frefMissClear path) s = .next (s.zeroF ((List.range 4).map TDC_FREF_STAT) TDC_FREF_STAT_MISS) := by
  obtain ⟨x, hx, he⟩ := State.pathField_of_regAt (f := TDC_CNT_CLR_FREF) h
    (by decide : regAt .TDC TDC_CNT_CLR [] TDC_CNT_CLR = true) (by decide) 1
  refine (congrArg Host.Outcome.next he).trans ?_
  change Host.Outcome.next (took path (s.writeTdc x)) = _
  have hit : x.hit TDC_CNT_CLR_FREF = true := hx.hit_self
  rw [State.writeTdc, if_pos hx.a_eq, State.clearTdc, quartersOn_apart hx rfl, if_pos hit, took_done]
  rfl

end

theorem exec_tmbCounterClear (h : takes s path TMB_CNT_CLR = true) {m : Nat} (hm : m < 16) {l : List Nat}
    (hl : l = (List.range 4).filter fun k => bit m k && s.domOn (6 + k)) :
    exec (.tmbCounterClear path m) s = .next
      ((s.zero ((quarterChannels l).flatMap fun n => [TMB_CNT_ACC n, TMB_CNT_REJ n, TMB_CNT_TOTREJ n])).zero
        (l.flatMap fun k => (List.range 32).map fun g => TMB_GRP_ORDER (32 * k + g))) := by
  obtain ⟨x, hx, he⟩ := State.pathField_of_regAt (f := TMB_CNT_CLR_QUARTER) h
    (by decide : regAt .TMB TMB_CNT_CLR [] TMB_CNT_CLR = true) (by decide) m
  refine (congrArg Host.Outcome.next he).trans ?_
  change Host.Outcome.next (took path (s.writeTmb x)) = _
  rw [State.writeTmb, if_pos hx.a_eq, State.clearTmb, quartersOn_self hx hm, ← hl, took_done]

section
variable (h : takes s path HGE_CNT_CLR = true)
include h

theorem exec_hgeCounterClear {m : Nat} (hm : m < 16) {l n : List Nat}
    (hl : l = quarterChannels ((List.range 4).filter fun k => bit m k && s.domOn (2 + k))) (hn : n = (List.range 4).filter (bit m)) :
    exec (.hgeCounterClear path m) s = .next
      ((((s.zero (l.flatMap fun c => [HGE_CH_BINNED c, HGE_CH_RATE c, HGE_CH_NOSHOT c, HGE_CH_STAT c])).zeroF (l.map HGE_CH_XFIFO)
        HGE_CH_XFIFO_XFIFO).zero (n.map HGE_ECC_CNT)).zeroF (n.map HGE_MM_CNT) HGE_MM_CNT_TOTAL) := by
  obtain ⟨x, hx, he⟩ := State.pathField_of_regAt (f := HGE_CNT_CLR_QUARTER) h
    (by decide : regAt .HGE HGE_CNT_CLR [] HGE_CNT_CLR = true) (by decide) m
  refine (congrArg Host.Outcome.next he).trans ?_
  change Host.Outcome.next (took path (s.writeHge x)) = _
  have hwait : x.hit HGE_CNT_CLR_WAIT = false := hx.hit_apart rfl
  have hnamed : HGE_CNT_CLR_QUARTER.get x.ones = m := hx.ones_self.trans (Nat.mod_eq_of_lt hm)
  rw [State.writeHge, hx.a_eq, if_neg (by decide), if_pos rfl, State.clearHge, quartersOn_self hx hm, hnamed, ← hl, ← hn, hwait,
    if_neg Bool.false_ne_true, took_done]

theorem exec_hgeWaitClear : exec (.hgeWaitClear path) s = .next (s.wr HGE_SET_WAIT 0) := by
  obtain ⟨x, hx, he⟩ := State.pathField_of_regAt (f := HGE_CNT_CLR_WAIT) h
    (by decide : regAt .HGE HGE_CNT_CLR [] HGE_CNT_CLR = true) (by decide) 1
  refine (congrArg Host.Outcome.next he).trans ?_
  change Host.Outcome.next (took path (s.writeHge x)) = _
  have hit : x.hit HGE_CNT_CLR_WAIT = true := hx.hit_self
  have hnamed : (List.range 4).filter (bit (HGE_CNT_CLR_QUARTER.get x.ones)) = [] := by
    rw [hx.ones_apart HGE_CNT_CLR_QUARTER rfl]
    rfl
  rw [State.writeHge, hx.a_eq, if_neg (by decide), if_pos rfl, State.clearHge, quartersOn_apart hx rfl, hnamed, if_pos hit, took_done]
  rfl

end

/-! ### The other writes -/

theorem exec_tpiGo (hs : canonical s = true) (h : takes s path TDC_TPI_CTRL = true) (hon : s.tpiOn = true)
    (hsrc : s.fb TDC_TPI_CTRL TDC_TPI_CTRL_SRC = false) : exec (.tpiGo path) s = .next s.tpiTrigger := by
  obtain ⟨x, hx, he⟩ := State.pathField_of_regAt (f := TDC_TPI_CTRL_GO) h
    (by decide : regAt .TDC TDC_TPI_CTRL [] TDC_TPI_CTRL = true) (by decide) 1
  refine (congrArg Host.Outcome.next he).trans ?_
  change Host.Outcome.next (took path (s.writeTdc x)) = _
  have hit : x.hit TDC_TPI_CTRL_GO = true := hx.hit_self
  rw [State.writeTdc, hx.wr_wo hs rfl, hx.a_eq, if_neg (by decide), if_pos rfl]
  simp only [hit, if_true, took_done, State.tpiGo, hon, hsrc, Bool.not_false, Bool.and_self]

theorem exec_firCounterClear (h : takes s path FIR_CNT_CLR = true) :
    exec (.firCounterClear path) s = .next (s.zero ([FIR_CNT_A, FIR_CNT_B] ++ (List.range 16).map FIR_OUT_CNT)) := by
  obtain ⟨x, hx, he⟩ := State.pathField_of_regAt (f := FIR_CNT_CLR_ALL) h (by decide : regAt .FIR FIR_CNT_CLR [] FIR_CNT_CLR = true)
    (by decide) 1
  refine (congrArg Host.Outcome.next he).trans ?_
  change Host.Outcome.next (took path (s.writeFir x)) = _
  have hit : x.hit FIR_CNT_CLR_ALL = true := hx.hit_self
  rw [State.writeFir, if_pos hx.a_eq, if_pos hit, took_done]

theorem exec_extCounterClear (h : takes s path EXT_CNT_CLR = true) : exec (.extCounterClear path) s = .next
    (s.zero ([EXT_CNT_REC, EXT_CNT_COL, EXT_CNT_STALL] ++ (List.range s.channels).map EXT_CH_CNT)) := by
  obtain ⟨x, hx, he⟩ := State.pathField_of_regAt (f := EXT_CNT_CLR_ALL) h (by decide : regAt .EXT EXT_CNT_CLR [] EXT_CNT_CLR = true)
    (by decide) 1
  refine (congrArg Host.Outcome.next he).trans ?_
  change Host.Outcome.next (took path (s.writeExt x)) = _
  have hit : x.hit EXT_CNT_CLR_ALL = true := hx.hit_self
  rw [State.writeExt, hx.a_eq, if_neg (by decide), if_pos rfl, if_pos hit, took_done]

/-- What a write of EXT_AIR.NM1 comes to by its value and by the device state. -/
theorem exec_extAirWrite (h : takes s path EXT_AIR = true) {v : Nat} (hv : v < 2 ^ EXT_AIR_NM1.w) :
    (100000 < v → exec (.extAirWrite path v) s = .next (refusedBy path (s.setF EXT_STATUS EXT_STATUS_CFG_REJ 1))) ∧
    (v ≤ 100000 → s.dev ≠ .scanning → exec (.extAirWrite path v) s = .next
      (((s.release (· == EXT_AIR)).setF EXT_AIR EXT_AIR_NM1 v).wr EXT_SCALE (BitVec.ofNat 32 (scaleOf v)))) := by
  obtain ⟨x, hx, he⟩ := State.pathField_of_regAt (f := EXT_AIR_NM1) h (by decide : regAt .EXT EXT_AIR [] EXT_AIR = true)
    (by decide) v
  have hval : x.v EXT_AIR_NM1 = v := (hx.v_self rfl (by decide)).trans (Nat.mod_eq_of_lt hv)
  have key : exec (.extAirWrite path v) s = .next (took path (if 100000 < v then s.wrRej EXT_STATUS EXT_STATUS_CFG_REJ
      else ((s.putHeld x).1, if s.scanning then (s.putHeld x).2
        else (s.putHeld x).2.wr EXT_SCALE (BitVec.ofNat 32 (scaleOf v))))) := by
    refine (congrArg Host.Outcome.next he).trans ?_
    change Host.Outcome.next (took path (s.writeExt x)) = _
    rw [State.writeExt, hx.a_eq, hval, if_neg (by decide), if_neg (by decide), if_neg (by decide), if_neg fun hw => absurd hw.1 (by decide),
      if_pos rfl]
  rw [key]
  refine ⟨fun hbig => by rw [if_pos hbig, took_wrRej], fun hle hd => ?_⟩
  have hscan : s.scanning = false := by rw [State.scanning, beq_eq_false_iff_ne]; exact hd
  rw [if_neg (Nat.not_lt.2 hle), State.putHeld, hscan, if_neg Bool.false_ne_true, if_neg Bool.false_ne_true, hx.a_eq, State.put,
    hx.a_eq, hx.new_rw rfl, took_done]
  rfl

/-- The clear of FIR_ALC_CNT leaves the other fields of FIR_ALC_CTRL, which are legal as they are. -/
theorem exec_alcCounterClear (hs : canonical s = true) (h : takes s path FIR_ALC_CTRL = true)
    (hle : s.f FIR_ALC_CTRL FIR_ALC_CTRL_SMIN ≤ s.f FIR_ALC_CTRL FIR_ALC_CTRL_SMAX) (h0 : s.f FIR_ALC_CTRL FIR_ALC_CTRL_SMAX ≠ 0) :
    exec (.alcCounterClear path) s = .next (s.wr FIR_ALC_CNT 0) := by
  obtain ⟨x, hx, he⟩ := State.pathField_of_regAt (f := FIR_ALC_CTRL_CLR) h
    (by decide : regAt .FIR FIR_ALC_CTRL [] FIR_ALC_CTRL = true) (by decide) 1
  refine (congrArg Host.Outcome.next he).trans ?_
  change Host.Outcome.next (took path (s.writeFir x)) = _
  have hit : x.hit FIR_ALC_CTRL_CLR = true := hx.hit_self
  have hlegal : ¬ (x.v FIR_ALC_CTRL_SMAX < x.v FIR_ALC_CTRL_SMIN ∨ x.v FIR_ALC_CTRL_SMAX = 0) := by
    rw [hx.v_wo rfl, hx.v_wo rfl]; omega
  have hrise : (x.v FIR_ALC_CTRL_EN == 1 && x.o FIR_ALC_CTRL_EN == 0) = false := by
    rw [hx.v_wo rfl, hx.o_eq]
    rcases eq_or_ne (s.f FIR_ALC_CTRL FIR_ALC_CTRL_EN) 1 with hen | hen
    · rw [hen]; rfl
    · rw [beq_eq_false_iff_ne.2 hen]; rfl
  have hsame : (s.wr FIR_ALC_CNT 0).wr x.a x.new = s.wr FIR_ALC_CNT 0 := by
    have hrd : (s.wr FIR_ALC_CNT 0).rd FIR_ALC_CTRL = s.rd FIR_ALC_CTRL := by
      rw [State.rd_wr (canonical_iff.1 hs).1, if_neg (by decide)]
    rw [hx.a_eq, hx.new_wo rfl, ← hrd]
    exact State.wr_rd (canonical_iff.2 ⟨State.wr_regs_wf (canonical_iff.1 hs).1 _ _, (canonical_iff.1 hs).2⟩) _
  rw [State.writeFir, hx.a_eq, if_neg (by decide), if_pos rfl, State.writeAlc, if_pos hit, if_neg hlegal, hrise, hsame, took_done,
    Bool.or_false]

/-- Settles O18, write by write. -/
theorem frontEndRegisterWrites : Obligations.FrontEndRegisterWrites := by
  unfold Obligations.FrontEndRegisterWrites
  intro s path hs
  refine ⟨fun v h hd hreq hmax hv => exec_glbBehaviourWrite h hd hreq hmax hv, exec_hostTrip hs,
    fun m l h hm hl => exec_tdcCounterClear h hm hl, exec_frefMissClear, exec_tpiGo hs,
    fun m l h hm hl => exec_tmbCounterClear h hm hl, exec_firCounterClear, fun m l n h hm hl hn => exec_hgeCounterClear h hm hl hn,
    exec_hgeWaitClear, exec_extCounterClear, fun v u h hv hd hu => ?_, fun v h hv hw => (exec_extAirWrite h hw).1 hv,
    exec_alcCounterClear hs⟩
  have hlt : v < 2 ^ EXT_AIR_NM1.w := lt_of_le_of_lt hv (by decide)
  rw [hu]
  exact (exec_extAirWrite h hlt).2 hv hd

end Sys2Proof
end


section
/-! The servo's, the monitor's, the filters' and the recorder's register writes with effects (O22, O23). -/

namespace Sys2Proof

open Machine Machine.Reg

variable {s u : State} {path : Path}

/-- A field of one bit is its flag. -/
theorem Machine.State.f_eq_b2n (s : State) (a : Nat) {g : Fld} (hw : g.w = 1) : s.f a g = b2n (s.fb a g) := by
  have h : s.f a g < 2 ^ g.w := bits_lt _ _ _
  rw [hw] at h
  rw [State.fb]
  interval_cases hf : s.f a g <;> rfl

theorem Machine.b2n_inj {b c : Bool} : b2n b = b2n c ↔ b = c := by cases b <;> cases c <;> decide

theorem Machine.b2n_lt (b : Bool) : b2n b < 2 := by cases b <;> decide

/-- The value of a flag written alone. -/
theorem FieldWr.v_flag {base a : Nat} {ix : List Nat} {f : Fld} {on : Bool} {x : Wr} (hx : FieldWr s base ix a f (b2n on) x)
    (hacc : f.acc = .rw) (h32 : f.lo + f.w ≤ 32) (hw : f.w = 1) : x.v f = b2n on := by
  rw [hx.v_self hacc h32, hw]
  exact Nat.mod_eq_of_lt (b2n_lt on)

/-! ### The servo (R237, R241, R244, R248) -/

theorem regAt_loopCtrl (x : Nat) (hx : x < 6) : regAt .SRV (SRV_LP_CTRL 0) [x] (SRV_LP_CTRL x) = true ∧
    hasFld (SRV_LP_CTRL x) SRV_LP_CTRL_MODE = true := by
  revert x; decide

theorem exec_loopModeWrite {x : Nat} {auto run : Bool} {r : Bool} {t : State} (hx : x < 6) (h : takes s path (SRV_LP_CTRL x) = true)
    (hu : u = s.setF (SRV_LP_CTRL x) SRV_LP_CTRL_MODE (b2n auto))
    (ht : t = if s.fb (SRV_LP_CTRL x) SRV_LP_CTRL_MODE ≠ auto ∧ s.f SRV_TRC_CTRL SRV_TRC_CTRL_SRC_LOOP = x then u.traceTrigger 5 else u)
    (hr : r = (s.srv.running && s.srv.rampLeft.isNone)) (hrun : run = s.fb (SRV_LP_CTRL x) SRV_LP_CTRL_RUN) :
    exec (.loopModeWrite path x auto) s = .next
      (if r && run && !(s.loop x).running && s.f (SRV_LP_CFG x) SRV_LP_CFG_TYPE != 0 then t.loopStart x
        else if r && !run && (s.loop x).running then t.loopStop x else t) := by
  obtain ⟨hreg, hf⟩ := regAt_loopCtrl x hx
  obtain ⟨w, hw, he⟩ := State.pathFieldIn_of_regAt h hreg hf (b2n auto)
  refine (congrArg Host.Outcome.next he).trans ?_
  change Host.Outcome.next (took path (s.writeSrv w)) = _
  have hmode : w.v SRV_LP_CTRL_MODE ≠ w.o SRV_LP_CTRL_MODE ↔ s.fb (SRV_LP_CTRL x) SRV_LP_CTRL_MODE ≠ auto := by
    rw [hw.v_flag rfl (by decide) rfl, hw.o_eq, State.f_eq_b2n _ _ rfl, Ne, b2n_inj, eq_comm]
  have hon : w.v SRV_LP_CTRL_RUN = b2n run := by rw [hw.v_apart rfl (by decide) rfl, State.f_eq_b2n _ _ rfl, hrun]
  have hne : ∀ a ∈ [SRV_CTRL, SRV_STATUS, SRV_TRC_CTRL], ¬ w.a = a := by
    rw [hw.a_eq]
    intro a ha heq
    rw [← heq] at ha
    simp [SRV_LP_CTRL, SRV_CTRL, SRV_STATUS, SRV_TRC_CTRL] at ha
    omega
  have hi : w.i 0 = x := hw.i_eq 0
  rw [State.writeSrv, if_neg (hne _ (by decide)), if_neg (hne _ (by decide)), if_neg (hne _ (by decide)), if_pos hw.base_eq,
    State.writeLpCtrl, hw.wr_rw rfl, ← hu, hi, hon, took_done]
  simp only [hmode, ← ht, ← hr]
  cases run <;> rfl

theorem regAt_trajectoryCtrl (x : Nat) (hx : x < 2) : regAt .SRV (SRV_LP_TRAJ 0) [x] (SRV_LP_TRAJ x) = true ∧
    hasFld (SRV_LP_TRAJ x) SRV_LP_TRAJ_SWAP = true := by
  revert x; decide

/-- Setting a flag by 1 is the write of the flag. -/
theorem Machine.Fld.set_or_one {f : Fld} (hw : f.w = 1) (w : Word) (v : Nat) : f.set w (v ||| 1) = f.set w 1 := by
  have h : (v ||| 1) % 2 ^ f.w = 1 % 2 ^ f.w := by rw [hw]; simp
  rw [Fld.set, Fld.set, withBits_eq, withBits_eq, h]

theorem exec_trajectorySwapRequest {x : Nat} (hx : x < 2) (h : takes s path (SRV_LP_TRAJ x) = true)
    (hlen : s.f (SRV_LP_TRAJ x) SRV_LP_TRAJ_LEN ≤ 1024) :
    exec (.trajectorySwapRequest path x) s = .next (s.setF (SRV_LP_TRAJ x) SRV_LP_TRAJ_SWAP 1) := by
  obtain ⟨hreg, hf⟩ := regAt_trajectoryCtrl x hx
  obtain ⟨w, hw, he⟩ := State.pathFieldIn_of_regAt h hreg hf 1
  refine (congrArg Host.Outcome.next he).trans ?_
  change Host.Outcome.next (took path (s.writeSrv w)) = _
  have hne : ∀ a ∈ [SRV_CTRL, SRV_STATUS, SRV_TRC_CTRL], ¬ w.a = a := by
    rw [hw.a_eq]
    interval_cases x <;> decide
  have hnew : w.new = SRV_LP_TRAJ_SWAP.set (s.rd (SRV_LP_TRAJ x)) 1 := by rw [hw.new_w1s rfl, Fld.set_or_one rfl]
  have hle : w.v SRV_LP_TRAJ_LEN ≤ 1024 := by
    rw [Wr.v, hnew, Fld.get_set_of_disjoint _ _ (by decide) (by decide)]
    exact hlen
  rw [State.writeSrv, if_neg (hne _ (by decide)), if_neg (hne _ (by decide)), if_neg (hne _ (by decide)), hw.base_eq,
    if_neg (by decide), if_pos rfl, State.writeLpTraj, if_neg (Nat.not_lt.2 hle), took_put, hw.a_eq, hnew]
  rfl

theorem exec_tuneEnWrite {on : Bool} (hs : canonical s = true) (h : takes s path SRV_CTRL = true) (hidx : s.f SRV_CTRL SRV_CTRL_IDX_SRC ≠ 3)
    (hu : u = s.setF SRV_CTRL SRV_CTRL_TUNE_EN (b2n on)) :
    exec (.tuneEnWrite path on) s = .next (if s.dev = .idle then (if on then u.srvStart else u.srvStop).refCheck else u) := by
  obtain ⟨x, hx, he⟩ := State.pathField_of_regAt (f := SRV_CTRL_TUNE_EN) h (by decide : regAt .SRV SRV_CTRL [] SRV_CTRL = true)
    (by decide) (b2n on)
  refine (congrArg Host.Outcome.next he).trans ?_
  change Host.Outcome.next (took path (s.writeSrv x)) = _
  have hlegal : (x.v SRV_CTRL_IDX_SRC == 3) = false := by
    rw [hx.v_apart rfl (by decide) rfl]; exact beq_eq_false_iff_ne.2 hidx
  have hdev : u.dev = s.dev := by
    rw [hu, State.dev, State.f, State.rd_setF_ne (canonical_iff.1 hs).1 _ _ (by decide)]
    rfl
  have hon : x.v SRV_CTRL_TUNE_EN = b2n on := hx.v_flag rfl (by decide) rfl
  rw [State.writeSrv, if_pos hx.a_eq, State.writeSrvCtrl, Wr.keepIf_of_legal _ _ hlegal, hx.wr_rw rfl, ← hu, hdev, hon]
  by_cases hd : s.dev = .idle
  · rw [if_neg (not_not.2 hd), if_pos hd, took_done]
    cases on <;> rfl
  · rw [if_pos hd, if_neg hd, took_done]

section
variable (hs : canonical s = true) (h : takes s path SRV_TRC_CTRL = true) (htrig : s.f SRV_TRC_CTRL SRV_TRC_CTRL_TRIG ≠ 7)
  (hloop : s.f SRV_TRC_CTRL SRV_TRC_CTRL_SRC_LOOP < 6)
include hs h htrig hloop

/-- A write of 1 to a write-only flag of SRV_TRC_CTRL does what its flags say, and the register stays as it is. -/
theorem pathField_traceFlag {f : Fld} (hf : hasFld SRV_TRC_CTRL f = true) (hacc : f.acc = .wo) :
    ∃ x, FieldWr s SRV_TRC_CTRL [] SRV_TRC_CTRL f 1 x ∧ s.pathField path SRV_TRC_CTRL f 1 =
      let t := if x.hit SRV_TRC_CTRL_ARM then s.traceArm else s
      let t := if x.hit SRV_TRC_CTRL_FORCE then t.traceTrigger 0 else t
      if x.hit SRV_TRC_CTRL_STOP then t.traceStop else t := by
  obtain ⟨x, hx, he⟩ := State.pathField_of_regAt h (by decide : regAt .SRV SRV_TRC_CTRL [] SRV_TRC_CTRL = true) hf 1
  refine ⟨x, hx, he.trans ?_⟩
  change took path (s.writeSrv x) = _
  have hl1 : (x.v SRV_TRC_CTRL_TRIG == 7) = false := by rw [hx.v_wo hacc]; exact beq_eq_false_iff_ne.2 htrig
  have hl2 : decide (6 ≤ x.v SRV_TRC_CTRL_SRC_LOOP) = false := by rw [hx.v_wo hacc]; exact decide_eq_false (by omega)
  rw [State.writeSrv, hx.a_eq, if_neg (by decide), if_neg (by decide), if_pos rfl, State.writeTrc, Wr.keepIf_of_legal _ _ hl1,
    Wr.keepIf_of_legal _ _ hl2, hx.wr_wo hs hacc, took_done]

theorem exec_traceFlags :
    exec (.traceArm path) s = .next s.traceArm ∧ exec (.traceStop path) s = .next s.traceStop ∧
      exec (.traceForce path) s = .next (s.traceTrigger 0) := by
  refine ⟨congrArg Host.Outcome.next ?_, congrArg Host.Outcome.next ?_, congrArg Host.Outcome.next ?_⟩
  · obtain ⟨x, hx, he⟩ := pathField_traceFlag hs h htrig hloop (f := SRV_TRC_CTRL_ARM) (by decide) rfl
    have h1 : x.hit SRV_TRC_CTRL_ARM = true := hx.hit_self
    have h2 : x.hit SRV_TRC_CTRL_FORCE = false := hx.hit_apart rfl
    have h3 : x.hit SRV_TRC_CTRL_STOP = false := hx.hit_apart rfl
    rw [he, h1, h2, h3]
    rfl
  · obtain ⟨x, hx, he⟩ := pathField_traceFlag hs h htrig hloop (f := SRV_TRC_CTRL_STOP) (by decide) rfl
    have h1 : x.hit SRV_TRC_CTRL_ARM = false := hx.hit_apart rfl
    have h2 : x.hit SRV_TRC_CTRL_FORCE = false := hx.hit_apart rfl
    have h3 : x.hit SRV_TRC_CTRL_STOP = true := hx.hit_self
    rw [he, h1, h2, h3]
    rfl
  · obtain ⟨x, hx, he⟩ := pathField_traceFlag hs h htrig hloop (f := SRV_TRC_CTRL_FORCE) (by decide) rfl
    have h1 : x.hit SRV_TRC_CTRL_ARM = false := hx.hit_apart rfl
    have h2 : x.hit SRV_TRC_CTRL_FORCE = true := hx.hit_self
    have h3 : x.hit SRV_TRC_CTRL_STOP = false := hx.hit_apart rfl
    rw [he, h1, h2, h3]
    rfl

end

/-- Settles O22, write by write. -/
theorem servoWrites : Obligations.ServoWrites := by
  unfold Obligations.ServoWrites
  intro s u path
  exact ⟨fun x auto t r run hx h hu ht hr hrun => exec_loopModeWrite hx h hu ht hr hrun,
    fun x hx h hlen => exec_trajectorySwapRequest hx h hlen, fun on hs h hidx hu => exec_tuneEnWrite hs h hidx hu,
    fun hs h htrig hloop => exec_traceFlags hs h htrig hloop⟩

/-! ### The monitor (R253, R257, R261, R262) -/

section
variable (h : takes s path MAD_CTRL = true)
include h

/-- A write of one field of MAD_CTRL is the rule of the register. -/
theorem pathField_madCtrl {f : Fld} (hf : hasFld MAD_CTRL f = true) (v : Nat) :
    ∃ x, FieldWr s MAD_CTRL [] MAD_CTRL f v x ∧ s.pathField path MAD_CTRL f v = took path (s.writeMadCtrl x) := by
  obtain ⟨x, hx, he⟩ := State.pathField_of_regAt h (by decide : regAt .MAD MAD_CTRL [] MAD_CTRL = true) hf v
  refine ⟨x, hx, he.trans (congrArg (took path) ?_)⟩
  change s.writeMad x = _
  rw [State.writeMad, if_pos hx.a_eq]

theorem exec_madGo (hs : canonical s = true) : exec (.madGo path) s = .next (s.refCheck.madEvent 0 s.refCheck.tbs) := by
  obtain ⟨x, hx, he⟩ := pathField_madCtrl h (f := MAD_CTRL_GO) (by decide) 1
  refine (congrArg Host.Outcome.next he).trans ?_
  have hgo : x.hit MAD_CTRL_GO = true := hx.hit_self
  have hclr : x.hit MAD_CTRL_CNT_CLR = false := hx.hit_apart rfl
  have hseq : x.v MAD_CTRL_SEQ_EN = x.o MAD_CTRL_SEQ_EN := by rw [hx.v_wo rfl, hx.o_eq]
  have hrise : ¬ (x.o MAD_CTRL_SEQ_EN = 1 ∧ x.o MAD_CTRL_SEQ_EN = 0) := by omega
  have hfall : ¬ (x.o MAD_CTRL_SEQ_EN = 0 ∧ x.o MAD_CTRL_SEQ_EN = 1) := by omega
  rw [State.writeMadCtrl, hx.wr_wo hs rfl, hseq, if_neg hrise, if_neg hfall, hclr, if_neg Bool.false_ne_true, if_pos hgo, took_done]

theorem exec_seqEnWrite {on : Bool} (hu : u = (s.setF MAD_CTRL MAD_CTRL_SEQ_EN (b2n on)).refCheck)
    (hold : s.f MAD_CTRL MAD_CTRL_SEQ_EN = b2n !on) : exec (.seqEnWrite path on) s = .next (if on then u.seqStart else u.seqStop) := by
  obtain ⟨x, hx, he⟩ := pathField_madCtrl h (f := MAD_CTRL_SEQ_EN) (by decide) (b2n on)
  refine (congrArg Host.Outcome.next he).trans ?_
  have hgo : x.hit MAD_CTRL_GO = false := hx.hit_apart rfl
  have hclr : x.hit MAD_CTRL_CNT_CLR = false := hx.hit_apart rfl
  have hv : x.v MAD_CTRL_SEQ_EN = b2n on := hx.v_flag rfl (by decide) rfl
  have ho : x.o MAD_CTRL_SEQ_EN = b2n !on := (hx.o_eq _).trans hold
  rw [State.writeMadCtrl, hx.wr_rw rfl, ← hu, hv, ho, hclr, hgo, if_neg Bool.false_ne_true, if_neg Bool.false_ne_true, took_done]
  cases on <;> rfl

theorem exec_refEnWrite (on : Bool) :
    exec (.refEnWrite path on) s = .next (s.setF MAD_CTRL MAD_CTRL_REF_EN (b2n on)).refCheck := by
  obtain ⟨x, hx, he⟩ := pathField_madCtrl h (f := MAD_CTRL_REF_EN) (by decide) (b2n on)
  refine (congrArg Host.Outcome.next he).trans ?_
  have hgo : x.hit MAD_CTRL_GO = false := hx.hit_apart rfl
  have hclr : x.hit MAD_CTRL_CNT_CLR = false := hx.hit_apart rfl
  have hseq : x.v MAD_CTRL_SEQ_EN = x.o MAD_CTRL_SEQ_EN := by rw [hx.v_apart rfl (by decide) rfl, hx.o_eq]
  have hrise : ¬ (x.o MAD_CTRL_SEQ_EN = 1 ∧ x.o MAD_CTRL_SEQ_EN = 0) := by omega
  have hfall : ¬ (x.o MAD_CTRL_SEQ_EN = 0 ∧ x.o MAD_CTRL_SEQ_EN = 1) := by omega
  rw [State.writeMadCtrl, hx.wr_rw rfl, hseq, if_neg hrise, if_neg hfall, hclr, hgo, if_neg Bool.false_ne_true,
    if_neg Bool.false_ne_true, took_done]

end

/-- INJ_GO: a legal channel is converted, an illegal one refused. -/
theorem exec_injGo (h : takes s path MAD_INJ = true) {w : Word} (hu : u = s.wr MAD_INJ (written s MAD_INJ (MAD_INJ_GO.set w 1))) :
    exec (.injGo path w) s = .next (if codeLegal (MAD_INJ_CODE.get w) (MAD_INJ_DIFF.get w == 1) then u.injGo
      else refusedBy path (s.setF MAD_STATUS MAD_STATUS_CFG_REJ 1)) := by
  have hr : regAt .MAD MAD_INJ [] MAD_INJ = true := by decide
  refine (congrArg Host.Outcome.next (State.pathWrite_of_regAt h hr (MAD_INJ_GO.set w 1))).trans ?_
  change Host.Outcome.next (took path (s.writeMad _)) = _
  have hcode : MAD_INJ_CODE.get (MAD_INJ_GO.set w 1) = MAD_INJ_CODE.get w := Fld.get_set_of_disjoint _ _ (by decide) (by decide)
  have hdiff : MAD_INJ_DIFF.get (MAD_INJ_GO.set w 1) = MAD_INJ_DIFF.get w := Fld.get_set_of_disjoint _ _ (by decide) (by decide)
  have hit : (wordWr s MAD_INJ [] MAD_INJ (MAD_INJ_GO.set w 1)).hit MAD_INJ_GO = true := by
    rw [Wr.hit, wordWr_ones, Fld.get_set _ _ _ (by decide)]; rfl
  rw [State.writeMad, wordWr_a, if_neg (by decide), if_pos rfl, State.writeInj, wordWr_v (by decide), wordWr_v (by decide), hcode,
    hdiff, hit, if_pos rfl, wordWr_a, wordWr_new, ← hu]
  cases codeLegal (MAD_INJ_CODE.get w) (MAD_INJ_DIFF.get w == 1) with
  | true => rw [Bool.not_true, if_neg Bool.false_ne_true, if_pos rfl, took_done]
  | false => rw [if_neg Bool.false_ne_true, Bool.not_false, if_pos rfl, State.madRej, took_wrRej]

/-! ### The filters and the recorder (R266, R275, R285) -/

theorem exec_mfcSync (hs : canonical s = true) (h : takes s path Reg.MFC_SYNC = true) {m : Nat} (hm : m < 256) :
    exec (.mfcSync path m) s = .next (s.forEach (bitsSet 8 m) (fun s c => s.chainReset c)) := by
  obtain ⟨x, hx, he⟩ := State.pathField_of_regAt (f := MFC_SYNC_SYNC) h (by decide : regAt .MFC Reg.MFC_SYNC [] Reg.MFC_SYNC = true)
    (by decide) m
  refine (congrArg Host.Outcome.next he).trans ?_
  change Host.Outcome.next (took path (s.writeMfc x)) = _
  have hones : MFC_SYNC_SYNC.get x.ones = m := hx.ones_self.trans (Nat.mod_eq_of_lt hm)
  rw [State.writeMfc, if_pos hx.a_eq, hx.wr_wo hs rfl, hones, took_done]

theorem regAt_chainCtrl (c : Nat) (hc : c < 8) : regAt .MFC (MFC_CH_CTRL 0) [c] (MFC_CH_CTRL c) = true ∧
    hasFld (MFC_CH_CTRL c) MFC_CH_CTRL_EN = true := by
  revert c; decide

theorem exec_chainEnable {c : Nat} {on : Bool} (hc : c < 8) (h : takes s path (MFC_CH_CTRL c) = true)
    (hu : u = s.setF (MFC_CH_CTRL c) MFC_CH_CTRL_EN (b2n on)) : exec (.chainEnable path c on) s = .next
      (if s.f (MFC_CH_CTRL c) MFC_CH_CTRL_EN = b2n on then u else if on then u.chainReset c else u.chainStop c) := by
  obtain ⟨hreg, hf⟩ := regAt_chainCtrl c hc
  obtain ⟨x, hx, he⟩ := State.pathFieldIn_of_regAt h hreg hf (b2n on)
  refine (congrArg Host.Outcome.next he).trans ?_
  change Host.Outcome.next (took path (s.writeMfc x)) = _
  have hne : MFC_CH_CTRL c ≠ Reg.MFC_SYNC ∧ MFC_CH_CTRL c ≠ MFC_STATUS := by interval_cases c <;> decide
  have hi : x.i 0 = c := hx.i_eq 0
  have hv : x.v MFC_CH_CTRL_EN = b2n on := hx.v_flag rfl (by decide) rfl
  rw [State.writeMfc, if_neg (hx.a_eq ▸ hne.1), if_neg (hx.a_eq ▸ hne.2), if_pos hx.base_eq, hi, hv, hx.o_eq, hx.wr_rw rfl, ← hu,
    took_done]
  by_cases hsame : s.f (MFC_CH_CTRL c) MFC_CH_CTRL_EN = b2n on
  · rw [if_pos hsame, if_pos hsame.symm]
  · rw [if_neg hsame, if_neg (Ne.symm hsame)]
    cases on <;> rfl

theorem exec_evrForce (h : takes s path EVR_CTRL = true) : exec (.evrForce path) s = .next (s.recTrigger 0 s.tbs) := by
  obtain ⟨x, hx, he⟩ := State.pathField_of_regAt (f := EVR_CTRL_FORCE) h (by decide : regAt .EVR EVR_CTRL [] EVR_CTRL = true)
    (by decide) 1
  refine (congrArg Host.Outcome.next he).trans ?_
  change Host.Outcome.next (took path (s.writeEvr x)) = _
  have hit : x.hit EVR_CTRL_FORCE = true := hx.hit_self
  have hclr : x.hit EVR_CTRL_CNT_CLR = false := hx.hit_apart rfl
  rw [State.writeEvr, if_pos hx.a_eq, State.writeEvrCtrl, hclr, if_neg Bool.false_ne_true, if_pos hit, took_done]

theorem exec_segmentFree (h : takes s path EVR_SEG_FREE = true) {m : Nat} (hm : m < 256) : exec (.segmentFree path m) s = .next
    (s.forEach (bitsSet 8 m) (fun s g => if s.segStatus g = 2 then s.freeSeg g else s)) := by
  obtain ⟨x, hx, he⟩ := State.pathField_of_regAt (f := EVR_SEG_FREE_FREE) h
    (by decide : regAt .EVR EVR_SEG_FREE [] EVR_SEG_FREE = true) (by decide) m
  refine (congrArg Host.Outcome.next he).trans ?_
  change Host.Outcome.next (took path (s.writeEvr x)) = _
  have hones : EVR_SEG_FREE_FREE.get x.ones = m := hx.ones_self.trans (Nat.mod_eq_of_lt hm)
  rw [State.writeEvr, hx.a_eq, if_neg (by decide), if_pos rfl, hones, took_done]

/-- Settles O23, write by write. -/
theorem monitorFilterRecorderWrites : Obligations.MonitorFilterRecorderWrites := by
  unfold Obligations.MonitorFilterRecorderWrites
  intro s u path hs
  refine ⟨fun h => exec_madGo h hs, fun h hu hold => exec_seqEnWrite h hu hold, fun h hu hold => exec_seqEnWrite h hu hold,
    fun on h => exec_refEnWrite h on, fun w h hlegal hu => ?_, fun w h hbad => ?_, fun m h hm => exec_mfcSync hs h hm,
    fun c on hc h hu => exec_chainEnable hc h hu, exec_evrForce, fun m h hm => exec_segmentFree h hm⟩
  · rw [exec_injGo h hu, hlegal, if_pos rfl]
  · rw [exec_injGo h rfl, hbad, if_neg Bool.false_ne_true]

end Sys2Proof
end


section
/-! The register writes that switch the outward blocks (O24). -/

namespace Sys2Proof

open Machine Machine.Reg

variable {s u : State} {path : Path}

/-! ### The ports (R343, R351, R363, R365) -/

theorem regAt_portCtrl (port : Port) : regAt (portBlk port) (ETHx_CTRL 0) [portIx port] (ETHx_CTRL (portIx port)) = true ∧
    hasFld (ETHx_CTRL (portIx port)) ETHx_CTRL_EN = true ∧ hasFld (ETHx_CTRL (portIx port)) ETHx_CTRL_MODE = true := by
  cases port <;> decide

/-- A write of one field of ETHx_CTRL is the rule of the port's control. -/
theorem pathField_portCtrl {port : Port} (h : takes s path (ETHx_CTRL (portIx port)) = true) {f : Fld}
    (hf : hasFld (ETHx_CTRL (portIx port)) f = true) (hacc : f.acc = .rw) (v : Nat) :
    s.pathFieldIn path (ETHx_CTRL 0) (ETHx_CTRL (portIx port)) f v =
      let x := s.portCtrl port (f.set (s.rd (ETHx_CTRL (portIx port))) v)
      if x.1 then x.2 else refusedBy path x.2 := by
  obtain ⟨x, hx, he⟩ := State.pathFieldIn_of_regAt h (regAt_portCtrl port).1 hf v
  have hi : x.i 0 = portIx port := hx.i_eq 0
  rw [he, blockWrite_port, State.writeEth, if_pos hx.base_eq, hi, portOf_portIx, hx.new_rw hacc, took]
  cases s.portCtrl port (f.set (s.rd (ETHx_CTRL (portIx port))) v) with
  | mk ok t => cases ok <;> rfl

/-- A write of EN leaves the line mode. -/
theorem mode_set_en (s : State) (port : Port) (v : Nat) :
    ETHx_CTRL_MODE.get (ETHx_CTRL_EN.set (s.rd (ETHx_CTRL (portIx port))) v) = s.lineMode port :=
  Fld.get_set_of_disjoint _ _ (by decide) (by decide)

section
variable {port : Port} (h : takes s path (ETHx_CTRL (portIx port)) = true)
include h

theorem exec_portEnable (hs : canonical s = true) (hmode : s.lineMode port ≤ 5) (hoff : s.fb (ETHx_CTRL (portIx port)) ETHx_CTRL_EN = false)
    (hu : u = s.setF (ETHx_CTRL (portIx port)) ETHx_CTRL_EN 1) (hprp : s.prpFits (u.rd (ETHx_CTRL (portIx port))) port = true) :
    exec (.portEnable path port) s = .next (u.portStart port) := by
  refine (congrArg Host.Outcome.next (pathField_portCtrl h (regAt_portCtrl port).2.1 rfl 1)).trans ?_
  have hrd : u.rd (ETHx_CTRL (portIx port)) = ETHx_CTRL_EN.set (s.rd (ETHx_CTRL (portIx port))) 1 := by
    rw [hu, State.setF, State.rd_wr (canonical_iff.1 hs).1, if_pos rfl]
  have hm := mode_set_en s port 1
  have hen : ETHx_CTRL_EN.get (ETHx_CTRL_EN.set (s.rd (ETHx_CTRL (portIx port))) 1) = 1 := Fld.get_set _ _ _ (by decide)
  rw [hrd] at hprp
  have key : s.portCtrl port (ETHx_CTRL_EN.set (s.rd (ETHx_CTRL (portIx port))) 1) = (true, u.portStart port) := by
    simp only [State.portCtrl, hoff, hm, hen, hprp, Bool.false_and, Bool.false_or, decide_eq_true_eq, Nat.not_lt.2 hmode, if_false,
      Bool.not_false, and_self, if_true, hu]
    rfl
  simp only [key, if_true]

theorem exec_portDisable (hmode : s.lineMode port ≤ 5) (hon : s.fb (ETHx_CTRL (portIx port)) ETHx_CTRL_EN = true)
    (hu : u = (s.lldpLast port).linkLost port) : exec (.portDisable path port) s = .next
      (u.wr (ETHx_CTRL (portIx port)) (ETHx_CTRL_EN.set (s.rd (ETHx_CTRL (portIx port))) 0)) := by
  refine (congrArg Host.Outcome.next (pathField_portCtrl h (regAt_portCtrl port).2.1 rfl 0)).trans ?_
  have hm := mode_set_en s port 0
  have hen : ETHx_CTRL_EN.get (ETHx_CTRL_EN.set (s.rd (ETHx_CTRL (portIx port))) 0) = 0 := Fld.get_set _ _ _ (by decide)
  have key : s.portCtrl port (ETHx_CTRL_EN.set (s.rd (ETHx_CTRL (portIx port))) 0) =
      (true, u.wr (ETHx_CTRL (portIx port)) (ETHx_CTRL_EN.set (s.rd (ETHx_CTRL (portIx port))) 0)) := by
    simp only [State.portCtrl, hon, hm, hen, bne_self_eq_false, Bool.and_false, Bool.false_or, decide_eq_true_eq,
      Nat.not_lt.2 hmode, if_false, Bool.not_true, Bool.false_eq_true, false_and, beq_self_eq_true, Bool.true_or, Bool.true_and,
      and_self, if_true, hu]
  simp only [key, if_true]

theorem exec_portModeWrite {m : Nat} (hoff : s.fb (ETHx_CTRL (portIx port)) ETHx_CTRL_EN = false) (hm : m < 8) :
    exec (.portModeWrite path port m) s = .next (if 5 < m then refusedBy path (s.portRej port)
      else s.setF (ETHx_CTRL (portIx port)) ETHx_CTRL_MODE m) := by
  refine (congrArg Host.Outcome.next (pathField_portCtrl h (regAt_portCtrl port).2.2 rfl m)).trans ?_
  have hget : ETHx_CTRL_MODE.get (ETHx_CTRL_MODE.set (s.rd (ETHx_CTRL (portIx port))) m) = m :=
    (Fld.get_set _ _ _ (by decide)).trans (Nat.mod_eq_of_lt hm)
  have hen : ETHx_CTRL_EN.get (ETHx_CTRL_MODE.set (s.rd (ETHx_CTRL (portIx port))) m) = 0 := by
    rw [Fld.get_set_of_disjoint _ _ (by decide) (by decide)]
    exact (State.f_eq_b2n s _ rfl).trans (by rw [hoff]; rfl)
  have key : s.portCtrl port (ETHx_CTRL_MODE.set (s.rd (ETHx_CTRL (portIx port))) m) =
      if 5 < m then (false, s.portRej port) else (true, s.setF (ETHx_CTRL (portIx port)) ETHx_CTRL_MODE m) := by
    simp only [State.portCtrl, hoff, hget, hen, Bool.false_and, Bool.false_or, decide_eq_true_eq, Nat.zero_ne_one, and_false, if_false,
      Bool.false_eq_true, false_and, State.setF]
  rw [key]
  by_cases hbig : 5 < m
  · simp only [if_pos hbig, Bool.false_eq_true, if_false]
  · simp only [if_neg hbig, if_true]

end

/-! ### Timed outputs and links (R389, R398, R423) -/

theorem regAt_output (k : Nat) (hk : k < 4) : regAt .TIM (TIM_EVOUT_CFG 0) [k] (TIM_EVOUT_CFG k) = true ∧
    rwFld (TIM_EVOUT_CFG k) TIM_EVOUT_CFG_EN = true ∧ TIM_EVOUT_CFG k ≠ TIM_STATUS := by
  revert k; decide

theorem exec_timedOutputEnable {k : Nat} {w : Word} (hk : k < 4) (h : takes s path (TIM_EVOUT_CFG k) = true)
    (hoff : s.f (TIM_EVOUT_CFG k) TIM_EVOUT_CFG_EN = 0)
    (hu : u = s.wr (TIM_EVOUT_CFG k) (written s (TIM_EVOUT_CFG k) (TIM_EVOUT_CFG_EN.set w 1))) :
    exec (.timedOutputEnable path k w) s = .next (u.evOutStart k) := by
  obtain ⟨hr, hf, hne⟩ := regAt_output k hk
  refine (congrArg Host.Outcome.next (State.pathWriteIn_of_regAt h hr (by decide) _)).trans ?_
  change Host.Outcome.next (took path (s.writeTim _)) = _
  have hv : TIM_EVOUT_CFG_EN.get (TIM_EVOUT_CFG_EN.set w 1) = 1 := Fld.get_set _ _ _ (by decide)
  have ho : (wordWr s (TIM_EVOUT_CFG 0) [k] (TIM_EVOUT_CFG k) (TIM_EVOUT_CFG_EN.set w 1)).o TIM_EVOUT_CFG_EN = 0 := hoff
  rw [State.writeTim, wordWr_a, if_neg hne, wordWr_base, if_pos rfl, State.writeEvout, wordWr_v hf, hv, ho, if_pos ⟨rfl, rfl⟩,
    took_done, wordWr_a, wordWr_new, wordWr_i_zero, ← hu]

theorem regAt_link (l : Nat) (hl : l < 4) : regAt .WFL (WFL_CTRL 0) [l] (WFL_CTRL l) = true ∧ hasFld (WFL_CTRL l) WFL_CTRL_EN = true ∧
    regAt .WFL (WFL_TEST 0) [l] (WFL_TEST l) = true ∧ hasFld (WFL_TEST l) WFL_TEST_INJ = true := by
  revert l; decide

/-- A change of a link's EN starts it or takes it down. -/
theorem exec_linkEnableWrite {l : Nat} {on : Bool} (hl : l < 4) (h : takes s path (WFL_CTRL l) = true)
    (hold : s.fb (WFL_CTRL l) WFL_CTRL_EN = !on) (hu : u = s.setF (WFL_CTRL l) WFL_CTRL_EN (b2n on)) :
    exec (.linkEnableWrite path l on) s = .next (if on then u.startLink l else u.toLink l 0) := by
  obtain ⟨hr, hf, -, -⟩ := regAt_link l hl
  obtain ⟨x, hx, he⟩ := State.pathFieldIn_of_regAt h hr hf (b2n on)
  refine (congrArg Host.Outcome.next he).trans ?_
  change Host.Outcome.next (took path (s.writeWfl x)) = _
  have hi : x.i 0 = l := hx.i_eq 0
  have hmode : WFL_CTRL_MODE.get x.new = s.f (WFL_CTRL l) WFL_CTRL_MODE := hx.v_apart rfl (by decide) rfl
  have hen : WFL_CTRL_EN.get x.new = b2n on := hx.v_flag rfl (by decide) rfl
  have hsame : WFL_CTRL_MODE.get x.old = s.f (WFL_CTRL l) WFL_CTRL_MODE := hx.o_eq _
  have htap : (s.f (WFL_CTRL l) WFL_CTRL_MODE == 1) = s.rawTap l := by
    rw [State.f_eq_b2n _ _ rfl, State.rawTap]
    cases s.fb (WFL_CTRL l) WFL_CTRL_MODE <;> rfl
  have hwr : s.wr (WFL_CTRL l) x.new = u := by rw [hu, ← hx.wr_rw rfl, hx.a_eq]
  rw [State.writeWfl, if_pos hx.base_eq, hi, State.wflCtrl, hmode, hsame, htap, hen, bne_self_eq_false, bne_self_eq_false,
    Bool.and_false, Bool.and_false, if_neg Bool.false_ne_true, if_neg Bool.false_ne_true, hwr, hold, took_done]
  cases on with
  | true => rw [if_pos ⟨rfl, rfl⟩, if_pos rfl]
  | false => rw [if_neg fun hc => Bool.false_ne_true hc.1, if_pos ⟨rfl, rfl⟩, if_neg Bool.false_ne_true]

theorem exec_linkErrorInject {l m : Nat} (hl : l < 4) (h : takes s path (WFL_TEST l) = true) (hm : m < 16) (hraw : s.linkState l ≠ 9) :
    exec (.linkErrorInject path l m) s = .next (s.putLink l { s.link l with inj := (s.link l).inj ||| m }) := by
  obtain ⟨-, -, hr, hf⟩ := regAt_link l hl
  obtain ⟨x, hx, he⟩ := State.pathFieldIn_of_regAt h hr hf m
  refine (congrArg Host.Outcome.next he).trans ?_
  change Host.Outcome.next (took path (s.writeWfl x)) = _
  have hi : x.i 0 = l := hx.i_eq 0
  have hones : WFL_TEST_INJ.get x.ones = m := hx.ones_self.trans (Nat.mod_eq_of_lt hm)
  rw [State.writeWfl, hx.base_eq, if_neg (by decide), if_pos rfl, hi, hones, State.linkInject, if_neg hraw, Nat.mod_eq_of_lt hm,
    took_done]

/-! ### The tap, DMA and the boot slot (R425, R434, R437, R445, R448, R509) -/

theorem exec_tapEnable {on : Bool} (h : takes s path HNG_TAP_CTRL = true)
    (hok : on = true → s.tapRefused = false) : exec (.tapEnable path on) s = .next
      (State.setF { s with cas := { s.cas with markAt := if s.fb HNG_TAP_CTRL HNG_TAP_CTRL_EN then s.cas.markAt else s.tm.now } }
        HNG_TAP_CTRL HNG_TAP_CTRL_EN (b2n on)) := by
  obtain ⟨x, hx, he⟩ := State.pathField_of_regAt (f := HNG_TAP_CTRL_EN) h
    (by decide : regAt .HNG HNG_TAP_CTRL [] HNG_TAP_CTRL = true) (by decide) (b2n on)
  refine (congrArg Host.Outcome.next he).trans ?_
  change Host.Outcome.next (took path (s.writeHng x)) = _
  have hen : HNG_TAP_CTRL_EN.get x.new = b2n on := hx.v_flag rfl (by decide) rfl
  rw [State.writeHng, hx.a_eq, if_neg (by decide), if_pos rfl, State.tapCtrl, hen, if_neg, hx.new_rw rfl, took_done]
  · rfl
  · rintro ⟨h1, -, href⟩
    cases on with
    | true => rw [hok rfl] at href; cases href
    | false => cases h1

theorem regAt_channel (c : Nat) (hc : c < 16) : regAt .DMA (DMA_CH_CTRL 0) [c] (DMA_CH_CTRL c) = true ∧
    hasFld (DMA_CH_CTRL c) DMA_CH_CTRL_EN = true := by
  revert c; decide

/-- A write of a channel's EN enables or disables it where it changes. -/
theorem pathField_channel {c : Nat} {on : Bool} (hc : c < 16) (h : takes s path (DMA_CH_CTRL c) = true) :
    s.pathFieldIn path (DMA_CH_CTRL 0) (DMA_CH_CTRL c) DMA_CH_CTRL_EN (b2n on) =
      if s.dmaEn c = on then s else if on then s.dmaEnable c else s.dmaDisable c := by
  obtain ⟨hr, hf⟩ := regAt_channel c hc
  obtain ⟨x, hx, he⟩ := State.pathFieldIn_of_regAt h hr hf (b2n on)
  refine he.trans ?_
  change took path (s.writeDma x) = _
  have hi : x.i 0 = c := hx.i_eq 0
  have hlo : ¬ x.a < DMA_CH_CTRL 0 := by rw [hx.a_eq]; exact Nat.not_lt.2 (Nat.le_add_right _ _)
  have hkeep : DMA_CH_CTRL_WR_IGNORED.get (DMA_CH_CTRL_WR_IGNORED.set x.new (DMA_CH_CTRL_WR_IGNORED.get x.ones)) = 0 := by
    rw [Fld.get_set _ _ _ (by decide), hx.ones_apart DMA_CH_CTRL_WR_IGNORED rfl]; rfl
  have hen : DMA_CH_CTRL_EN.get (DMA_CH_CTRL_WR_IGNORED.set x.new (DMA_CH_CTRL_WR_IGNORED.get x.ones)) = b2n on := by
    rw [Fld.get_set_of_disjoint _ _ (by decide) (by decide)]
    exact hx.v_flag rfl (by decide) rfl
  rw [State.writeDma, if_neg hlo, if_pos hx.base_eq, hi, State.dmaCtrl, hkeep, hen, if_neg Nat.zero_ne_one, took_done]
  cases s.dmaEn c <;> cases on <;> simp [b2n]

/-- A write of 1 to a flag of DMA_Q_CTRL is what the flag says. -/
theorem pathField_queue (h : takes s path DMA_Q_CTRL = true) {f : Fld} (hf : hasFld DMA_Q_CTRL f = true) :
    ∃ x, FieldWr s DMA_Q_CTRL [] DMA_Q_CTRL f 1 x ∧ s.pathField path DMA_Q_CTRL f 1 = s.dmaQCtrl x.ones := by
  obtain ⟨x, hx, he⟩ := State.pathField_of_regAt h (by decide : regAt .DMA DMA_Q_CTRL [] DMA_Q_CTRL = true) hf 1
  refine ⟨x, hx, he.trans ?_⟩
  change took path (s.writeDma x) = _
  rw [State.writeDma, hx.a_eq, if_pos (by decide), if_pos rfl, took_done]

theorem exec_flush (h : takes s path DMA_Q_CTRL = true) :
    exec (.flushMon path) s = .next (s.dmaFlush 1) ∧ exec (.flushQfilt path) s = .next (s.dmaFlush 2) := by
  refine ⟨congrArg Host.Outcome.next ?_, congrArg Host.Outcome.next ?_⟩
  · obtain ⟨x, hx, he⟩ := pathField_queue h (f := DMA_Q_CTRL_FLUSH_MON) (by decide)
    rw [he, State.dmaQCtrl, hx.ones_self, hx.ones_apart DMA_Q_CTRL_FLUSH_QFILT rfl, hx.ones_apart DMA_Q_CTRL_CNT_CLR rfl]
    rfl
  · obtain ⟨x, hx, he⟩ := pathField_queue h (f := DMA_Q_CTRL_FLUSH_QFILT) (by decide)
    rw [he, State.dmaQCtrl, hx.ones_self, hx.ones_apart DMA_Q_CTRL_FLUSH_MON rfl, hx.ones_apart DMA_Q_CTRL_CNT_CLR rfl]
    rfl

theorem exec_qfiltEnable {on : Bool} (h : takes s path DMA_QFILT_CFG = true) (hu : u = s.setF DMA_QFILT_CFG DMA_QFILT_CFG_EN (b2n on)) :
    exec (.qfiltEnable path on) s = .next
      (if on && !s.fb DMA_QFILT_CFG DMA_QFILT_CFG_EN then { u with dma := { u.dma with seq := 0 } } else u) := by
  obtain ⟨x, hx, he⟩ := State.pathField_of_regAt (f := DMA_QFILT_CFG_EN) h
    (by decide : regAt .DMA DMA_QFILT_CFG [] DMA_QFILT_CFG = true) (by decide) (b2n on)
  refine (congrArg Host.Outcome.next he).trans ?_
  change Host.Outcome.next (took path (s.writeDma x)) = _
  have hrise : (x.a == DMA_QFILT_CFG && x.v DMA_QFILT_CFG_EN == 1 && x.o DMA_QFILT_CFG_EN == 0) =
      (on && !s.fb DMA_QFILT_CFG DMA_QFILT_CFG_EN) := by
    rw [hx.a_eq, hx.v_flag rfl (by decide) rfl, hx.o_eq, State.f_eq_b2n _ _ rfl, beq_self_eq_true, Bool.true_and]
    cases on <;> cases s.fb DMA_QFILT_CFG DMA_QFILT_CFG_EN <;> rfl
  have hdma : u.dma = s.dma := by rw [hu, State.setF_dma]
  rw [State.writeDma, hrise, hx.wr_rw rfl, ← hu, hx.a_eq, if_pos (by decide), if_neg (by decide), took_done,
    ← hdma]

theorem exec_bootNextWrite {slot : Nat} (h : takes s path PMU_BOOT = true) (hslot : slot < 2) :
    exec (.bootNextWrite path slot) s = .next
      (State.setF { s with boot := { s.boot with nvNext := slot } } PMU_BOOT PMU_BOOT_NEXT slot) := by
  obtain ⟨x, hx, he⟩ := State.pathField_of_regAt (f := PMU_BOOT_NEXT) h (by decide : regAt .PMU PMU_BOOT [] PMU_BOOT = true)
    (by decide) slot
  refine (congrArg Host.Outcome.next he).trans ?_
  change Host.Outcome.next (took path (s.writePmu x)) = _
  have hv : x.v PMU_BOOT_NEXT = slot := (hx.v_self rfl (by decide)).trans (Nat.mod_eq_of_lt hslot)
  rw [State.writePmu, if_pos hx.a_eq, hv, took_put, hx.a_eq, hx.new_rw rfl]
  rfl

/-- Settles O24, write by write. -/
theorem outwardBlockWrites : Obligations.OutwardBlockWrites := by
  unfold Obligations.OutwardBlockWrites
  intro s u path
  refine ⟨fun port h hm hoff hu hp hs => exec_portEnable h hs hm hoff hu hp, fun port h hm hon hu => exec_portDisable h hm hon hu,
    fun port m h hoff => ⟨fun hle => ?_, fun hgt hlt => ?_⟩, fun k w hk h hoff hu => exec_timedOutputEnable hk h hoff hu,
    fun l hl h => ⟨fun hoff hu => exec_linkEnableWrite hl h hoff hu, fun hon hu => exec_linkEnableWrite hl h hon hu⟩,
    fun l m hl h hm hraw => exec_linkErrorInject hl h hm hraw, fun h hok hoff => ?_, fun h => ?_,
    fun c hc h => ⟨fun hoff => congrArg Host.Outcome.next ?_, fun hon => congrArg Host.Outcome.next ?_,
      fun hon => congrArg Host.Outcome.next ?_, fun hoff => congrArg Host.Outcome.next ?_⟩,
    exec_flush, fun on h hu => exec_qfiltEnable h hu, fun slot h hslot => exec_bootNextWrite h hslot⟩
  · rw [exec_portModeWrite h hoff (by omega), if_neg (by omega)]
  · rw [exec_portModeWrite h hoff hlt, if_pos hgt]
    rfl
  · exact (exec_tapEnable (on := true) h fun _ => hok).trans (by rw [hoff]; rfl)
  · exact (exec_tapEnable (on := false) h nofun).trans (by rw [b2n, if_neg Bool.false_ne_true])
  · exact (pathField_channel (on := true) hc h).trans (by rw [hoff, if_neg Bool.false_ne_true, if_pos rfl])
  · exact (pathField_channel (on := false) hc h).trans (by rw [hon, if_neg Bool.false_ne_true.symm, if_neg Bool.false_ne_true])
  · exact (pathField_channel (on := true) hc h).trans (by rw [hon, if_pos rfl])
  · exact (pathField_channel (on := false) hc h).trans (by rw [hoff, if_pos rfl])

end Sys2Proof
end


section
/-! Reset (O51), and the command processor's own requests once they run (O1, O2). -/

namespace Sys2Proof

open Machine Machine.Reg

variable {s t : State} {q : Req} {p : List Byte}

/-! ### Reset -/

/-- Settles O51: no register and no window byte is stored at reset, so each reads as its reset value. -/
theorem resetState : Obligations.ResetState := by
  unfold Obligations.ResetState
  exact ⟨by decide, by decide, by decide, rfl, by decide, rfl, fun _ => rfl, fun _ => rfl⟩

/-! ### Checks that pass -/

/-- The checks of a command's operands pass, one by one. -/
theorem Machine.firstBad_cons_none {c : Check} {l : List Check} : firstBad (c :: l) = none ↔ c.bad = false ∧ firstBad l = none := by
  rw [firstBad_none, firstBad_none]
  simp

theorem Machine.firstBad_nil : firstBad [] = none := rfl

/-- A command of fixed length without checks, once it runs, is its body. -/
theorem Machine.State.fixed_unchecked {opc len : Nat} (h : runs s q opc p t) (hl : p.length = len) (body : State → State) :
    s.fixed q opc p len (fun _ => []) body = body t :=
  State.fixed_runs h hl firstBad_nil body

/-! ### GET_IDENTITY, GET_STATE, AUTH_SESSION, EVENT_MASK (R43, R56, R58) -/

theorem exec_getIdentity (h : runs s q 0x0100 p t) (hp : p = []) :
    exec (.getIdentity q p) s = .next (t.replyOk q 0x0100 t.identity) :=
  congrArg Host.Outcome.next (State.fixed_unchecked h (congrArg List.length hp) _)

theorem exec_getState (h : runs s q 0x0101 p t) (hp : p = []) : exec (.getState q p) s = .next
    (t.replyOk q 0x0101 (wordBytes (t.rd GLB_STATE) ++ wordBytes t.condWord ++ leBytes 8 t.tbl)) :=
  congrArg Host.Outcome.next (State.fixed_unchecked h (congrArg List.length hp) _)

theorem exec_authSession (h : runs s q 0x0103 p t) (hp : p = []) : exec (.authSession q p) s = .next (t.openSession q) :=
  congrArg Host.Outcome.next (State.fixed_unchecked h (congrArg List.length hp) _)

/-- The image's identity, as R56 lists it: no image reads as slot 0xFF. -/
theorem Machine.State.identity_eq (t : State) : t.identity =
    leBytes 1 t.boot.shadows.variant ++ leBytes 1 t.boot.shadows.revision ++ leBytes 1 t.boot.shadows.blMax
      ++ leBytes 1 (t.f GLB_BEHAVIOUR GLB_BEHAVIOUR_LEVEL) ++ leBytes 8 t.boot.shadows.serial ++ wordBytes (t.rd GLB_FWVER)
      ++ leBytes 4 (if t.boot.booted.isSome then t.boot.imageVersion else 0) ++ leBytes 1 (t.boot.booted.getD 0xFF)
      ++ leBytes 1 t.index ++ leBytes 2 1 ++ wordBytes (t.rd GLB_BOOT) ++ zeros 4 := by
  rw [State.identity]
  cases t.boot.booted <;> rfl

theorem exec_eventMask (h : runs s q 0x0106 p t) (hl : p.length = 8) (hmask : fld p 16 4 < 1024) (hdest : fld p 20 1 ≤ 2)
    (hvia : fld p 20 1 = 1 → q.via ≠ .hspi) (hres : allZero (fldBytes p 21 3) = true) :
    exec (.eventMask q p) s = .next (State.answer (State.setF
      { t with cmd := { t.cmd with dest := if fld p 20 1 = 0 then none else if fld p 20 1 = 1 then destOf q.via else t.cmd.dest } }
      CMD_EVT_MASK CMD_EVT_MASK_ENABLE (fld p 16 4 ||| 6)) q 0x0106 0 0 (leBytes 4 (t.f CMD_EVT_MASK CMD_EVT_MASK_ENABLE)) q.auth) := by
  refine congrArg Host.Outcome.next (State.fixed_runs h hl (firstBad_cons_none.2 ⟨?_, firstBad_cons_none.2 ⟨?_, firstBad_cons_none.2
    ⟨?_, firstBad_nil⟩⟩⟩) _)
  · exact decide_eq_false (by omega)
  · by_cases h1 : fld p 20 1 = 1
    · simp [par, h1, hvia h1]
    · simp [par, h1, hdest]
  · simp [par, firstNonZero, hres]

/-- Settles O1, request by request. -/
theorem identityStateSessionAndMaskRequests : Obligations.IdentityStateSessionAndMaskRequests := by
  unfold Obligations.IdentityStateSessionAndMaskRequests
  intro s t q p
  exact ⟨fun h hp => by rw [exec_getIdentity h hp, State.identity_eq]; rfl, fun h hp => exec_getState h hp,
    fun h hp => exec_authSession h hp, fun h hl hmask hdest hvia hres => exec_eventMask h hl hmask hdest hvia hres⟩

/-! ### SOFT_RESET, FAULT_CLEAR (R66, R69, R176, R490) -/

/-- FAULT_CLEAR once it runs, by the device state and the cause of FAULT. -/
theorem exec_faultClear (h : runs s q 0x0105 [] t) (failed : Nat) : exec (.faultClear q [] failed) s = .next
    (if t.dev ≠ .fault then t.reply q 0x0105 3 0
    else if t.f GLB_STATE GLB_STATE_CAUSE = 0x22 then t.faultLeave q
    else if t.f GLB_STATE GLB_STATE_CAUSE = 0x63 then if t.pllT && t.pllC then t.faultLeave q else t.reply q 0x0105 3 0
    else if t.f GLB_STATE GLB_STATE_CAUSE = 0x62 then t.faultMarch q failed
    else t.reply q 0x0105 3 0) :=
  congrArg Host.Outcome.next (State.fixed_unchecked h rfl _)

/-- Settles O2, request by request and cause by cause. -/
theorem faultClearAndSoftReset : Obligations.FaultClearAndSoftReset := by
  unfold Obligations.FaultClearAndSoftReset
  intro s t q failed
  refine ⟨fun h => congrArg Host.Outcome.next (State.fixed_unchecked h rfl _), fun h => ?_⟩
  rw [exec_faultClear h]
  refine ⟨fun hd hc => ?_, fun hd hc hT hC => ?_, fun hd hc hpll => ?_, fun u hd hc hu => ⟨fun hok => ?_, fun hbad => ?_⟩,
    fun hd hc => ?_, fun hd => ?_⟩
  · rw [if_neg (not_not.2 hd), if_pos hc]; rfl
  · rw [if_neg (not_not.2 hd), hc, if_neg (by decide), if_pos rfl, hT, hC]; rfl
  · rw [if_neg (not_not.2 hd), hc, if_neg (by decide), if_pos rfl, hpll]; rfl
  · rw [if_neg (not_not.2 hd), hc, if_neg (by decide), if_neg (by decide), if_pos rfl, State.faultMarch, hok, ← hu]; rfl
  · rw [if_neg (not_not.2 hd), hc, if_neg (by decide), if_neg (by decide), if_pos rfl, State.faultMarch, hbad, ← hu]; rfl
  · rw [if_neg (not_not.2 hd)]
    rcases hc with hc | hc <;> rw [hc] <;> rfl
  · rw [if_pos hd]; rfl

end Sys2Proof
end


section
/-! Register, window and dump requests (O3), HSPI transactions (O5), and the scan commands (O7). -/

namespace Sys2Proof

open Machine Machine.Reg

variable {s t u : State} {q : Req} {p : List Byte}

/-! ### Register and window requests (R53, R57) -/

/-- The words of REG_WRITE, as the payload lists them. -/
theorem regWords_map (a n : Nat) (mask : Word) (g : Nat → Word) :
    regWords a mask ((List.range n).map g) = (List.range n).map fun i => (a + 4 * i, g i, mask) := by
  rw [regWords, List.length_map, List.length_range]
  refine List.map_congr_left fun i hi => ?_
  rw [List.getD_eq_getElem?_getD, List.getElem?_map, List.getElem?_range (List.mem_range.1 hi)]
  rfl

/-- Writes of registers that are all on and take them. -/
theorem Machine.State.writeRegs_done {opc : Nat} {l : List (Nat × Word × Word)} (hon : l.any (fun x => t.regDark x.1) = false)
    (hw : t.writeTest l = (.done, u)) (data : State → List Byte) :
    t.writeRegs q opc l data = u.replyOk q opc (data u) := by
  rw [State.writeRegs, hon, if_neg Bool.false_ne_true, hw]

theorem exec_regWrite {l : List (Nat × Word × Word)} (h : runs s q 0x0201 p t) (hl : p.length = 8 + 4 * fld p 20 4)
    (hc : firstBad (regChecks (fld p 16 4) (fld p 20 4)) = none)
    (hw : l = (List.range (fld p 20 4)).map fun i => (fld p 16 4 + 4 * i, BitVec.ofNat 32 (fld p (24 + 4 * i) 4), BitVec.ofNat 32 0xFFFFFFFF))
    (hon : l.any (fun x => t.regDark x.1) = false) (hu : t.writeTest l = (.done, u)) :
    exec (.regWrite q p) s = .next (u.answer q 0x0201 0 0 [] q.auth) := by
  refine congrArg Host.Outcome.next ((State.command_runs h _).trans ?_)
  rw [if_neg (by omega), hc]
  refine Eq.trans ?_ (State.writeRegs_done (q := q) (opc := 0x0201) hon hu fun _ => [])
  rw [hw, ← regWords_map]

theorem exec_regModify (h : runs s q 0x0202 p t) (hl : p.length = 12) (hc : firstBad (regChecks (fld p 16 4) 1) = none)
    (hon : t.regDark (fld p 16 4) = false)
    (hu : t.writeTest [(fld p 16 4, BitVec.ofNat 32 (fld p 24 4), BitVec.ofNat 32 (fld p 20 4))] = (.done, u)) :
    exec (.regModify q p) s = .next (u.answer q 0x0202 0 0 (wordBytes (u.peek (u.shadow .cmd) (fld p 16 4))) q.auth) := by
  refine congrArg Host.Outcome.next ((State.fixed_runs h hl hc _).trans ?_)
  refine State.writeRegs_done ?_ hu _
  rw [List.any_cons, hon, List.any_nil, Bool.or_false]

theorem exec_memRead (h : runs s q 0x0203 p t) (hl : p.length = 8) (hc : firstBad (t.memReadChecks (fld p 16 4) (fld p 20 4)) = none) :
    exec (.memRead q p) s = .next (match winOf (fld p 16 4) with
      | some (.remote m) => t.remoteRead q m (fld p 16 4 - (0x40000000 + m * 0x02000000)) (fld p 20 4)
      | _ => (t.winRead (fld p 16 4) (fld p 20 4)).2.replyOk q 0x0203 (t.winRead (fld p 16 4) (fld p 20 4)).1) :=
  congrArg Host.Outcome.next (State.fixed_runs h hl hc _)

theorem exec_memWrite (h : runs s q 0x0204 p t) (hlo : 8 ≤ p.length) (hhi : p.length ≤ 8068) (h4 : p.length % 4 = 0)
    (hc : firstBad (spanChecks (fld p 16 4) (p.length - 4) 20 ++ t.writeChecks (fld p 16 4) (p.length - 4)) = none) :
    exec (.memWrite q p) s = .next ((t.winWrite (fld p 16 4) (p.drop 4)).answer q 0x0204 0 0 [] q.auth) := by
  refine congrArg Host.Outcome.next ((State.command_runs h _).trans ?_)
  have hlen : ¬ (p.length < 4 ∨ lenBad (p.length - 4) = true) := by
    simp only [lenBad, Bool.or_eq_true, beq_iff_eq, decide_eq_true_eq, bne_iff_ne]
    omega
  rw [if_neg hlen, hc]
  rfl

/-! ### STATE_DUMP (R60) -/

/-- STATE_DUMP once it runs with a payload of its function's form. -/
theorem Machine.State.stateDump_runs (h : runs s q 0x0102 p t) (hl : p.length = if fld p 16 1 = 0 then 4 else 16) (hf : fld p 16 1 ≤ 1)
    (hres : allZero (fldBytes p 17 3) = true) :
    s.stateDump q p = if fld p 16 1 = 0 then t.dumpCapture q else t.dumpRead q p := by
  have h0 : p.length ≠ 0 := by rw [hl]; split <;> decide
  have hz : firstNonZero p 17 3 = false := by rw [firstNonZero, hres]; rfl
  rw [State.stateDump, State.command_runs h]
  simp only [if_neg h0, if_neg (Nat.not_lt.2 hf), if_neg (not_not.2 hl), hz, if_neg Bool.false_ne_true]

theorem exec_stateDumpCapture (h : runs s q 0x0102 p t) (hl : p.length = 4) (hf : fld p 16 1 = 0)
    (hres : allZero (fldBytes p 17 3) = true) (hjob : t.jobOf 0x0102 = false) :
    exec (.stateDumpCapture q p) s = .next (State.answer (State.addJob
      { t with cmd := { t.cmd with dumpStart := (t.tbl, t.tbs, (t.rd GLB_STATE).toNat) } } { req := q, opc := 0x0102 })
      q 0x0102 1 0 [] q.auth) := by
  refine congrArg Host.Outcome.next ((State.stateDump_runs h (by rw [hf]; exact hl) (by omega) hres).trans ?_)
  rw [if_pos hf, State.dumpCapture, hjob, if_neg Bool.false_ne_true]
  rfl

theorem exec_stateDumpRead {d : List Byte} (h : runs s q 0x0102 p t) (hl : p.length = 16) (hf : fld p 16 1 = 1)
    (hres : allZero (fldBytes p 17 3) = true) (hd : t.cmd.dump = some d) (hid : fld p 20 4 = t.cmd.dumpId) (h4 : fld p 24 4 % 4 = 0)
    (h1 : 1 ≤ fld p 28 4) (hmax : fld p 28 4 ≤ 8064) (hend : fld p 24 4 + fld p 28 4 ≤ d.length) :
    exec (.stateDumpRead q p) s = .next (t.answer q 0x0102 0 0 (slice d (fld p 24 4) (fld p 28 4)) q.auth) := by
  refine congrArg Host.Outcome.next ((State.stateDump_runs h (by rw [hf]; exact hl) (by omega) hres).trans ?_)
  have hchecks : firstBad (t.dumpChecks p) = none := by
    rw [State.dumpChecks, hd, hid]
    refine firstBad_cons_none.2 ⟨?_, firstBad_cons_none.2 ⟨?_, firstBad_cons_none.2 ⟨?_, firstBad_nil⟩⟩⟩ <;>
      simp [par] <;> omega
  rw [hf, if_neg (by decide), State.dumpRead, hchecks, hd]
  rfl

theorem exec_stateDumpCaptureDone (hjob : s.jobOf 0x0102 = true) :
    exec .stateDumpCaptureDone s = .next (State.finishJobs
      { s with draws := s.draws + 1,
               cmd := { s.cmd with dumpId := s.cmd.dumpId + 1, dump := some (s.dumpBytes (s.cmd.dumpId + 1)) } } 0x0102 0 0
      (leBytes 4 (s.cmd.dumpId + 1) ++ leBytes 4 (s.dumpBytes (s.cmd.dumpId + 1)).length
        ++ leBytes 4 (crc32c ((s.dumpBytes (s.cmd.dumpId + 1)).take ((s.dumpBytes (s.cmd.dumpId + 1)).length - 4))))) := by
  change execStateDumpCaptureDone s = _
  rw [execStateDumpCaptureDone, hjob]
  rfl

/-- Settles O3, request by request. -/
theorem registerWindowAndDumpRequests : Obligations.RegisterWindowAndDumpRequests := by
  unfold Obligations.RegisterWindowAndDumpRequests
  intro s t q p
  refine ⟨fun h hl hc => congrArg Host.Outcome.next (State.fixed_runs h hl hc _),
    fun l u h hl hc hw hon hu => exec_regWrite h hl hc hw hon hu, fun u h hl hc hon hu => exec_regModify h hl hc hon hu,
    fun h hl hc hown => ?_, fun m h hl hc hm => ?_, fun h hlo hhi h4 hc => exec_memWrite h hlo hhi h4 hc,
    fun h hl hf hres hjob => exec_stateDumpCapture h hl hf hres hjob,
    fun d h hl hf hres hd hid h4 h1 hmax hend => exec_stateDumpRead h hl hf hres hd hid h4 h1 hmax hend, exec_stateDumpCaptureDone⟩
  · rw [exec_memRead h hl hc]
    split
    · next m hm => exact absurd hm (hown m)
    · rfl
  · rw [exec_memRead h hl hc, hm]

/-! ### HSPI transactions (R46–R51, R541) -/

section
variable (hoff : s.boot.off = false)
include hoff

/-- CMD_WRITE with at least one byte or a broken one: what fits is taken, what does not or breaks off is discarded. -/
theorem exec_cmdWrite (hcore : s.coreOn = true) {bytes : List Byte} {mid : Bool} (hb : (bytes.isEmpty && !mid) = false) :
    exec (.cmdWrite bytes mid) s = .next
      (let t := if s.rxFree < bytes.length then (s.sayMiso s []).setF CMD_HSPI_STATUS CMD_HSPI_STATUS_OVR 1 else s.sayMiso s []
      let t := if mid then t.setF CMD_HSPI_STATUS CMD_HSPI_STATUS_FRAME_ERR 1 else t
      if s.rxFree < bytes.length ∨ mid = true then t.rxDiscard else t.rxTake bytes) := by
  change execCmdWrite bytes mid s = _
  simp only [execCmdWrite, hoff, hcore, hb, Bool.not_true, Bool.or_false, Bool.false_eq_true, if_false, decide_eq_true_eq,
    Bool.or_eq_true]

theorem exec_replyRead {c : Bool} : exec (.replyRead c) s = .next (match s.cmd.replies with
    | [] => s.sayMiso s [0x5A]
    | r :: rest => if c then { s with cmd := { s.cmd with miso := s.statusBytes ++ 0xA5 :: r.bytes, replies := rest } }
      else s.sayMiso s (0xA5 :: r.bytes)) := by
  change execReplyRead c s = _
  rw [execReplyRead, hoff, if_neg Bool.false_ne_true]
  cases s.cmd.replies <;> rfl

theorem exec_alertRead {c : Bool} : exec (.alertRead c) s = .next (match s.cmd.alerts with
    | [] => s.sayMiso s [0x5A]
    | e :: rest => if c then { s with cmd := { s.cmd with miso := s.statusBytes ++ 0xA5 :: e.bytes, alerts := rest },
                                      pin := { s.pin with irq0 := !rest.isEmpty } }
      else s.sayMiso s (0xA5 :: e.bytes)) := by
  change execAlertRead c s = _
  rw [execAlertRead, hoff, if_neg Bool.false_ne_true]
  cases s.cmd.alerts <;> rfl

theorem exec_noticeRead {c : Bool} : exec (.noticeRead c) s = .next (match s.cmd.notices with
    | [] => s.sayMiso s [0x5A]
    | e :: rest => if c then { s with cmd := { s.cmd with miso := s.statusBytes ++ 0xA5 :: e.bytes, notices := rest },
                                      pin := { s.pin with irq1 := !rest.isEmpty } }
      else s.sayMiso s (0xA5 :: e.bytes)) := by
  change execNoticeRead c s = _
  rw [execNoticeRead, hoff, if_neg Bool.false_ne_true]
  cases s.cmd.notices <;> rfl

theorem exec_regRd_bad {a : Nat} (h : a % 4 ≠ 0 ∨ blkOf a = none) :
    exec (.regRd a) s = .next (s.sayMiso s (0xA5 :: zeros 4 ++ [0x02])) := by
  change execRegRd a s = _
  rw [execRegRd, hoff, if_neg Bool.false_ne_true, if_pos]
  exact h.imp_right fun hb => by rw [hb]; rfl

section
variable {a : Nat} (ha : a % 4 = 0) (hb : blkOf a ≠ none)
include ha hb

theorem exec_regRd : exec (.regRd a) s = .next (if (s.isReg a || s.dev == .boot) && !s.rdServed a
    then s.sayMiso s (0xA5 :: zeros 4 ++ [0x01])
    else (s.readWord .hspi a).2.sayMiso s (0xA5 :: wordBytes (s.readWord .hspi a).1 ++ [0x00])) := by
  change execRegRd a s = _
  have hgood : ¬ (a % 4 ≠ 0 ∨ (blkOf a).isNone = true) := by
    rw [Option.isNone_iff_eq_none]
    exact not_or.2 ⟨not_not.2 ha, hb⟩
  rw [execRegRd, hoff, if_neg Bool.false_ne_true, if_neg hgood]
  cases (s.isReg a || s.dev == .boot) && !s.rdServed a <;> rfl

end

end

/-- Settles O5, transaction by transaction. -/
theorem hspiTransactions : Obligations.HspiTransactions := by
  unfold Obligations.HspiTransactions
  intro s hoff
  refine ⟨fun bytes hcore hne hfit => ?_, fun bytes hcore hne hover => ?_, fun bytes hcore hfit => ?_,
    fun r rest hr => ⟨?_, ?_⟩, fun e rest he => ⟨?_, ?_⟩, fun e rest he => ⟨?_, ?_⟩, fun c => ⟨fun hr => ?_, fun he => ?_, fun he => ?_⟩,
    fun a ha => exec_regRd_bad hoff ha, fun a ha hb hreg hserved => ?_, fun a ha hb hserved => ?_,
    fun a w b c ix t h ha hb hc ht => ?_, ?_⟩
  · have hb : (bytes.isEmpty && !false) = false := by rw [Bool.not_false, Bool.and_true, List.isEmpty_eq_false_iff]; exact hne
    have hfits : ¬ s.rxFree < bytes.length := Nat.not_lt.2 hfit
    rw [exec_cmdWrite hoff hcore hb]
    simp only [hfits, if_false, Bool.false_eq_true, or_self]
  · have hb : (bytes.isEmpty && !false) = false := by rw [Bool.not_false, Bool.and_true, List.isEmpty_eq_false_iff]; exact hne
    rw [exec_cmdWrite hoff hcore hb]
    simp only [hover, if_true, Bool.false_eq_true, if_false, true_or]
  · have hfits : ¬ s.rxFree < bytes.length := Nat.not_lt.2 hfit
    rw [exec_cmdWrite hoff hcore (by rw [Bool.not_true, Bool.and_false])]
    simp only [hfits, if_true, if_false, or_true]
  · rw [exec_replyRead hoff, hr]; rfl
  · rw [exec_replyRead hoff, hr]; rfl
  · rw [exec_alertRead hoff, he]; rfl
  · rw [exec_alertRead hoff, he]; rfl
  · rw [exec_noticeRead hoff, he]; rfl
  · rw [exec_noticeRead hoff, he]; rfl
  · rw [exec_replyRead hoff, hr]
  · rw [exec_alertRead hoff, he]
  · rw [exec_noticeRead hoff, he]
  · rw [exec_regRd hoff ha hb, hreg, hserved]; rfl
  · rw [exec_regRd hoff ha hb, hserved, Bool.not_true, Bool.and_false, if_neg Bool.false_ne_true]
  · change execRegWr a w s = _
    rw [execRegWr, hoff, if_neg Bool.false_ne_true, State.pathWrite, State.pathModify_takes h hb hc ha ht]
  · change execHspiStatusRead s = _
    rw [execHspiStatusRead, hoff, if_neg Bool.false_ne_true]

end Sys2Proof
end


section
/-! The scan commands (O7), and warp commits, profile selections, frame schedules and shot keys (O8). -/

namespace Sys2Proof

open Machine Machine.Reg

variable {s t u : State} {q : Req} {p : List Byte}

theorem Machine.State.scanning_eq_true : s.scanning = true ↔ s.dev = .scanning := by rw [State.scanning, beq_iff_eq]

theorem Machine.State.scanning_eq_false : s.scanning = false ↔ s.dev ≠ .scanning := by rw [State.scanning, beq_eq_false_iff_ne]

/-! ### SCAN_START, SCAN_HOLD, SCAN_RESUME, SCAN_STOP (R66–R71) -/

theorem startChecks_pass (hd : t.dev = .idle) (hmiss : t.missing = []) (hprof : t.profile ≠ 0) (hcol : t.columns ≠ 0)
    (hsched : t.isMember = false → t.f FIR_SEQ FIR_SEQ_FSRC = 2 → t.fb FIR_SCHED FIR_SCHED_ARMED = true)
    (hhead : t.isHead = true → t.f FIR_SEQ FIR_SEQ_FSRC ≠ 3) (hlink : ∀ l, l < 4 → t.linkOn l = true → t.linkState l ≠ 8)
    (hcal : t.isHead = true → t.cas.hcalDue = false ∧ t.cas.hcalTimes = []) (hstale : t.staleBlocks = false)
    (hhist : t.fb THM_STATE THM_STATE_HISTORY = false) : firstBad t.startChecks = none := by
  have hlinks : (List.range 4).any (fun l => t.linkOn l && t.linkState l == 8) = false := by
    rw [List.any_eq_false]
    intro l hl hbad
    rw [Bool.and_eq_true, beq_iff_eq] at hbad
    exact hlink l (List.mem_range.1 hl) hbad.1 hbad.2
  have hsrc : ((!t.isMember && t.f FIR_SEQ FIR_SEQ_FSRC == 2 && !t.fb FIR_SCHED FIR_SCHED_ARMED) ||
      (t.isHead && t.f FIR_SEQ FIR_SEQ_FSRC == 3)) = false := by
    rw [Bool.eq_false_iff]
    intro hbad
    simp only [Bool.or_eq_true, Bool.and_eq_true, Bool.not_eq_true', beq_iff_eq] at hbad
    rcases hbad with ⟨⟨hm, h2⟩, harm⟩ | ⟨hh, h3⟩
    · rw [hsched hm h2] at harm; cases harm
    · exact hhead hh h3
  have hbusy : (t.isHead && (t.cas.hcalDue || !t.cas.hcalTimes.isEmpty)) = false := by
    cases hh : t.isHead with
    | false => rfl
    | true => obtain ⟨h1, h2⟩ := hcal hh; rw [h1, h2]; rfl
  refine firstBad_none.2 fun c hc => ?_
  rw [State.startChecks, hd, hmiss, hsrc, hlinks, hbusy, hstale, hhist, beq_eq_false_iff_ne.2 hprof, beq_eq_false_iff_ne.2 hcol] at hc
  fin_cases hc <;> rfl

theorem exec_scanHold (h : runs s q 0x0303 [] t) (hd : t.dev = .scanning ∨ t.dev = .hold) :
    exec (.scanHold q []) s = .next (if t.scanning then t.scanHold q else t.reply q 0x0303 stOk 0) := by
  refine congrArg Host.Outcome.next (State.fixed_runs h rfl (firstBad_cons_none.2 ⟨?_, firstBad_nil⟩) _)
  rcases hd with hd | hd <;> simp [chk, State.scanning, hd]

theorem exec_holdEntry {r : Req} (hr : s.cmd.holdReq = some r) (hcol : s.dev = .scanning → s.fir.column = none) :
    exec .holdEntry s = .next (
      let t : State := { s with cmd := { s.cmd with holdReq := none } }
      if s.scanning then ((t.toTbs s.pulsesOver).goto .hold 0x30).reply r 0x0303 stOk 0 else t.reply r 0x0303 stRefused 0) := by
  change execHoldEntry s = _
  have hw : (s.scanning && s.fir.column.isSome) = false := by
    cases hs : s.scanning with
    | false => rfl
    | true => rw [hcol (State.scanning_eq_true.1 hs)]; rfl
  rw [execHoldEntry, hr]
  simp only [hw, Bool.false_eq_true, if_false]
  cases s.scanning <;> rfl

theorem exec_scanResume (h : runs s q 0x0304 [] t) : exec (.scanResume q []) s = .next
    (if t.dev = .hold then (t.goto .primed 0x31).reply q 0x0304 stOk 0 else t.reply q 0x0304 stRefused 0) := by
  refine congrArg Host.Outcome.next ?_
  by_cases hd : t.dev = .hold
  · rw [if_pos hd]
    exact State.fixed_runs h rfl (firstBad_cons_none.2 ⟨by rw [hd]; rfl, firstBad_nil⟩) _
  · rw [if_neg hd]
    exact State.fixed_runs_refused h rfl (c := chk true stRefused) (by simp [firstBad, chk, hd]) _

/-- Settles O7, command by command. -/
theorem scanStartHoldResumeStop : Obligations.ScanStartHoldResumeStop := by
  unfold Obligations.ScanStartHoldResumeStop
  intro s t q
  refine ⟨fun h hd hmiss hprof hcol hsched hhead hlink hcal hstale hhist => congrArg Host.Outcome.next
      (State.fixed_runs h rfl (startChecks_pass hd hmiss hprof hcol hsched hhead hlink hcal hstale hhist) _),
    fun h hd hreq hcol => ?_, fun c h hd hreq hcol => ?_, fun h hd => ?_, fun r hr hd hcol => ?_, fun r hr hd => ?_,
    fun h hd => ?_, fun h hd => ?_, fun h hd => ?_, fun h hd => ?_⟩
  · rw [exec_scanHold h (.inl hd), State.scanning_eq_true.2 hd, if_pos rfl, State.scanHold, hreq, hcol]
    rfl
  · rw [exec_scanHold h (.inl hd), State.scanning_eq_true.2 hd, if_pos rfl, State.scanHold, hreq, hcol]
    rfl
  · rw [exec_scanHold h (.inr hd), State.scanning_eq_false.2 (by rw [hd]; decide)]
    rfl
  · rw [exec_holdEntry hr fun _ => hcol, State.scanning_eq_true.2 hd]
    rfl
  · rw [exec_holdEntry hr fun h => absurd h hd, State.scanning_eq_false.2 hd]
    rfl
  · rw [exec_scanResume h, if_pos hd]
    rfl
  · rw [exec_scanResume h, if_neg hd]
    rfl
  · refine congrArg Host.Outcome.next ((State.fixed_unchecked h rfl _).trans ?_)
    rw [if_neg hd]
    rfl
  · refine congrArg Host.Outcome.next ((State.fixed_unchecked h rfl _).trans ?_)
    rw [if_pos hd]
    rfl

/-! ### Warp commits (R134–R136) -/

theorem dark11_pass (h : t.domOn 11 = true) : t.dark11.bad = false := by rw [State.dark11, h]; rfl

theorem exec_warpCommit (h : runs s q 0x0300 [] t) (hon : t.domOn 11 = true) (hm : t.isMember = false) :
    exec (.warpCommit q []) s = .next (match t.stagedCheck t.window t.binB with
      | some r => (t.warpFail r).badParam q 0x0300 0
      | none => if t.scanning
        then ((t.setF FIR_WARP_ACT FIR_WARP_ACT_PEND 1).addJob { req := q, opc := 0x0300, gap := true }).reply q 0x0300 stDeferred 0
        else t.warpInstall.reply q 0x0300 stOk 0) :=
  congrArg Host.Outcome.next (State.fixed_runs h rfl (firstBad_cons_none.2 ⟨dark11_pass hon, firstBad_cons_none.2 ⟨hm, firstBad_nil⟩⟩) _)

theorem exec_warpCommit_refused (h : runs s q 0x0300 [] t) (hbad : (t.domOn 11 && !t.isMember) = false) :
    exec (.warpCommit q []) s = .next (t.answer q 0x0300 3 0 [] q.auth) := by
  refine congrArg Host.Outcome.next (State.fixed_runs_refused h rfl (c := chk true stRefused) ?_ _)
  rw [State.dark11]
  cases hon : t.domOn 11 with
  | false => rfl
  | true =>
    have hm : t.isMember = true := by simpa [hon] using hbad
    rw [hm]
    rfl

theorem exec_deferredWarpCopy (hgap : s.gapFor 0x0300 = true) (hjob : s.profileJob = none) :
    exec .deferredWarpCopy s = .next s.gapCommit := by
  change execDeferredWarpCopy s = _
  rw [execDeferredWarpCopy, hgap, hjob, if_neg]
  rw [Option.isSome_none, Bool.false_and]
  decide

/-! ### Profile selections (R210–R213) -/

theorem exec_profileSelect (h : runs s q 0x0301 p t) (hl : p.length = 4 + 12 * fld p 17 1) (hon : t.domOn 11 = true)
    (hc : firstBad (t.profileChecks p) = none) :
    exec (.profileSelect q p) s = .next (if t.scanning then t.profileLater q p else t.profileNow q p) := by
  refine congrArg Host.Outcome.next ((State.command_runs h _).trans ?_)
  have hlen : ¬ (p.length < 4 ∨ p.length ≠ 4 + 12 * ovrCount p) := by rw [ovrCount]; omega
  rw [if_neg hlen, State.profileSelect, firstBad_cons_none.2 ⟨dark11_pass hon, hc⟩]

theorem exec_deferredProfileApply {j : Job} (hj : s.profileJob = some j) (hg : j.gap = true) (hsel : s.gapFor 0x0301 = true)
    (hwarp : s.gapFor 0x0300 = false) (h0 : s.setState 0 = 0) (h1 : s.setState 1 = 0) :
    exec .deferredProfileApply s = .next
      (((s.setF FIR_PROFILE FIR_PROFILE_PEND 0).profileApply (profilePayload j.arg)).finishJobs 0x0301 0 0 []) := by
  change execDeferredProfileApply s = _
  have hfree : s.setsFree = true := by rw [State.setsFree, h0, h1]; rfl
  rw [execDeferredProfileApply, hj]
  simp only [State.profileEnd, hg, hsel, hfree, hwarp, Bool.not_true, Bool.and_false, Bool.or_self, Bool.false_eq_true, if_true, if_false]
  rfl

/-! ### Frame schedules and shot keys (R149, R150, R152, R405) -/

theorem exec_frameSchedule (h : runs s q 0x0306 p t) (hl : p.length = 16) (hon : t.domOn 11 = true) (htb : fld p 16 1 ≤ 1)
    (hres : allZero (fldBytes p 17 3) = true) (hsec : fld p 20 8 < 2 ^ 48) (hns : fld p 28 4 < 10 ^ 9)
    (hnet : t.netRunning (fld p 16 1) = true) : exec (.frameSchedule q p) s = .next (State.answer (State.setF (State.setF
      { t with fir := { t.fir with sched := some (fld p 20 8 * 10 ^ 9 + fld p 28 4, t.tm.now) } } FIR_SCHED FIR_SCHED_TB (fld p 16 1))
      FIR_SCHED FIR_SCHED_ARMED 1) q 0x0306 0 0 [] q.auth) := by
  refine congrArg Host.Outcome.next (State.fixed_runs h hl ?_ _)
  refine firstBad_cons_none.2 ⟨dark11_pass hon, firstBad_cons_none.2 ⟨decide_eq_false (by omega), firstBad_cons_none.2 ⟨?_,
    firstBad_cons_none.2 ⟨decide_eq_false (by omega), firstBad_cons_none.2 ⟨decide_eq_false (by omega), firstBad_cons_none.2 ⟨?_,
    firstBad_nil⟩⟩⟩⟩⟩⟩
  · rw [par, firstNonZero, hres]; rfl
  · rw [par, hnet]; rfl

theorem exec_keySet (h : runs s q 0x0307 p t) (hl : p.length = 12) (hon : t.domOn 11 = true) (hf : fld p 16 4 < 2) :
    exec (.keySet q p) s = .next (if t.scanning then t.keyLater q p
      else (State.applyKey { t with fir := { t.fir with keyPending := some (t.keyOf p) } }).reply q 0x0307 stOk 0) :=
  congrArg Host.Outcome.next (State.fixed_runs h hl
    (firstBad_cons_none.2 ⟨dark11_pass hon, firstBad_cons_none.2 ⟨decide_eq_false (by omega), firstBad_nil⟩⟩) _)

/-- Settles O8, request by request. -/
theorem commitProfileScheduleAndKey : Obligations.CommitProfileScheduleAndKey := by
  unfold Obligations.CommitProfileScheduleAndKey
  intro s t q p
  refine ⟨fun h hon hm hc => ⟨fun hd => ?_, fun hd => ?_⟩, fun r h hon hm hc => ?_, fun h hbad => exec_warpCommit_refused h hbad,
    exec_deferredWarpCopy, fun h hl hon hc => ⟨fun hd => ?_, fun hd h0 h1 => ?_⟩,
    fun j hj hg hsel hwarp h0 h1 => exec_deferredProfileApply hj hg hsel hwarp h0 h1,
    fun h hl hon htb hres hsec hns hnet => exec_frameSchedule h hl hon htb hres hsec hns hnet,
    fun h hl hon hf => ⟨fun hd => ?_, fun hd => ⟨_, rfl, ?_⟩⟩⟩
  · rw [exec_warpCommit h hon hm, hc, State.scanning_eq_false.2 hd]
    rfl
  · rw [exec_warpCommit h hon hm, hc, State.scanning_eq_true.2 hd]
    rfl
  · rw [exec_warpCommit h hon hm, hc]
    rfl
  · rw [exec_profileSelect h hl hon hc, State.scanning_eq_true.2 hd]
    rfl
  · have hfree : t.setsFree = true := by rw [State.setsFree, h0, h1]; rfl
    have hnow : ¬ ((t.profileApply p).rd HGE_BIN ≠ t.rd HGE_BIN ∧ (!t.setsFree) = true) := by rw [hfree]; exact fun hb => nomatch hb.2
    rw [exec_profileSelect h hl hon hc, State.scanning_eq_false.2 hd, if_neg Bool.false_ne_true, State.profileNow, if_neg hnow]
    rfl
  · rw [exec_keySet h hl hon hf, State.scanning_eq_false.2 hd]
    rfl
  · rw [exec_keySet h hl hon hf, State.scanning_eq_true.2 hd]
    rfl

end Sys2Proof
end


section
/-! Calibration requests and procedures (O9), the safety requests (O10), and zone commits and safety commands (O11). -/

namespace Sys2Proof

open Machine Machine.Reg

variable {s t u : State} {q : Req} {p : List Byte}

/-! ### Calibration (R458–R461, R465, R466, R470) -/

/-- CAL_RUN whose checks pass: the procedure is entered in the mode that the state gives. -/
theorem exec_calRun {mode : CalMode} {phase : Nat} {r : CalRun} (h : runs s q 0x0400 p t) (hl : p.length = 68)
    (hc : firstBad (t.calRunChecks p) = none)
    (hmode : t.dev ≠ .scanning ∧ mode = .direct ∧ phase = 3 ∨
      t.dev = .scanning ∧ t.fb CAL_POLICY CAL_POLICY_STEAL = true ∧ mode = .steal ∧ phase = 2 ∨
      t.dev = .scanning ∧ t.fb CAL_POLICY CAL_POLICY_STEAL = false ∧ mode = .gap ∧ phase = 1)
    (hr : r = { proc := fld p 16 1, fref := fld p 17 1 == 1, segs := fld p 18 2, mask := fld p 20 64, mode := mode, started := mode != .gap })
    (hu : u = (t.answer q 0x0400 1 0 [] q.auth).addJob { req := q, opc := 0x0400 }) :
    exec (.calRun q p) s = .next (State.calShow { u with cal := { u.cal with run := some r } } (fld p 16 1) phase) := by
  refine congrArg Host.Outcome.next ((State.fixed_runs h hl hc _).trans ?_)
  subst hr hu
  rcases hmode with ⟨hd, rfl, rfl⟩ | ⟨hd, hst, rfl, rfl⟩ | ⟨hd, hst, rfl, rfl⟩
  · rw [State.scanning_eq_false.2 hd]; rfl
  · rw [State.scanning_eq_true.2 hd, hst]; rfl
  · rw [State.scanning_eq_true.2 hd, hst]; rfl

section
variable {r : CalRun} (hrun : s.cal.run = some r)
include hrun

/-- A step that is due of a procedure that does not emit. -/
theorem exec_calProcedureStep (hdark : calEmits r.proc = false) (hleft : r.steps < calSteps r.proc r.mask) (counts : List (Nat × Nat)) :
    (r.started = true → r.mode = .gap →
      exec (.calProcedureStep counts) s = .next ((s.at_ (s.tm.now + 4 * tickUs)).calStepDone r counts)) ∧
    (r.started = true → r.mode = .direct →
      exec (.calProcedureStep counts) s = .next (((s.at_ (s.tm.now + 4 * tickUs)).calShow r.proc 3).calStepDone r counts)) ∧
    (∀ a b, r.mode = .steal → r.window = some (a, b) → Nat.max a s.tbs + 4 * tickUs ≤ b →
      exec (.calProcedureStep counts) s = .next ((s.toTbs (Nat.max a s.tbs + 4 * tickUs)).calStepDone r counts)) := by
  have hdue : ¬ (calEmits r.proc || decide (calSteps r.proc r.mask ≤ r.steps)) = true := by
    rw [hdark, Bool.false_or, decide_eq_true_eq]; omega
  refine ⟨fun hst hmode => ?_, fun hst hmode => ?_, fun a b hmode hwin hfit => ?_⟩ <;> change execCalProcedureStep counts s = _
  · simp only [execCalProcedureStep, hrun, if_neg hdue, hmode, hst, if_true]
  · have hself : { r with started := true } = r := by rw [← hst]
    rw [execCalProcedureStep, hrun]
    simp only [if_neg hdue, hself]
    rw [hmode]
    simp only [hst, if_true]
  · simp only [execCalProcedureStep, hrun, if_neg hdue, hmode, hwin, if_neg (Nat.not_lt.2 hfit)]

/-- The end of a complete procedure other than MEMTEST. -/
theorem exec_calProcedureEnd (hdone : calComplete r = true) (h8 : r.proc ≠ 8) (vals : List (Nat × List Int)) :
    exec (.calProcedureEnd vals) s = .next (match (s.calOut r vals).fail with
      | some d => s.calFinish r.proc stCalFailed d (s.calOut r vals).q0 (s.calOut r vals).q1
      | none => (((s.calWrite (s.calOut r vals).words).calKeep r (s.calOut r vals)).markDone r).calFinish
          r.proc stOk 0 (s.calOut r vals).q0 (s.calOut r vals).q1) := by
  change execCalProcedureEnd vals s = _
  simp only [execCalProcedureEnd, hrun, hdone, if_neg h8, Bool.not_true, Bool.false_eq_true, if_false]
  cases (s.calOut r vals).fail <;> rfl

end

theorem exec_calStatus_answers (h : runs s q 0x0401 p t) (hl : p.length = 4) (hlo : 1 ≤ fld p 16 1) (hhi : fld p 16 1 ≤ 8)
    (hres : allZero (fldBytes p 17 3) = true) {e : CalEnd}
    (he : e = (Sp.find t.cal.ends (fld p 16 1)).getD { status := 0xFFFF, detail := 0, runs := 0, tbl := 0, q0 := 0, q1 := 0 }) :
    exec (.calStatus q p) s = .next (t.answer q 0x0401 0 0 (leBytes 2 e.status ++ leBytes 2 e.detail ++ leBytes 4 e.runs
      ++ leBytes 8 e.tbl ++ leBytes 4 e.q0 ++ leBytes 4 e.q1) q.auth) := by
  subst he
  exact (exec_calStatus q p s).trans (congrArg Host.Outcome.next
    (State.fixed_runs h hl (firstBad_calStatusChecks_of_valid hlo hhi hres) _))

/-- Settles O9, request by request and step by step. -/
theorem calibrationRequestsAndProcedures : Obligations.CalibrationRequestsAndProcedures := by
  unfold Obligations.CalibrationRequestsAndProcedures
  intro s t q p r
  refine ⟨fun mode phase h hl hc hmode hr => ⟨_, rfl, exec_calRun h hl hc hmode hr rfl⟩,
    fun counts hrun hdark hleft hst hmode => (exec_calProcedureStep hrun hdark hleft counts).1 hst hmode,
    fun counts hrun hdark hleft hst hmode => (exec_calProcedureStep hrun hdark hleft counts).2.1 hst hmode,
    fun counts a b hrun hdark hleft hmode hwin hfit => (exec_calProcedureStep hrun hdark hleft counts).2.2 a b hmode hwin hfit,
    fun vals d hrun hdone h8 hf => ?_, fun vals hrun hdone h8 hf => ?_,
    fun h hl hlo hhi hres => ⟨_, rfl, exec_calStatus_answers h hl hlo hhi hres rfl⟩, fun h hl h4 hmask => ?_⟩
  · rw [exec_calProcedureEnd hrun hdone h8, hf]; rfl
  · rw [exec_calProcedureEnd hrun hdone h8, hf]; rfl
  · exact congrArg Host.Outcome.next
      (State.fixed_runs h hl (firstBad_cons_none.2 ⟨decide_eq_false (by omega), firstBad_nil⟩) _)

/-! ### Emission safety (R307, R308, R323, R328) -/

theorem exec_safetyStatus (h : runs s q 0x0500 [] t) (hms : t.isMS = true) :
    exec (.safetyStatus q []) s = .next (t.answer q 0x0500 0 0 (wordBytes t.condWord ++ wordBytes (t.rd ESF_CAUSE)
      ++ wordBytes (t.rd ESF_TRIP) ++ wordBytes (t.rd ESF_TRIP_LO) ++ wordBytes (t.rd ESF_TRIP_HI) ++ wordBytes t.esfIn
      ++ wordBytes (t.rd ESF_WALK_STAT) ++ wordBytes t.diagWord ++ (List.range 3).flatMap (fun w => wordBytes (t.rd (ESF_EXP_PEAK w)))
      ++ (List.range 3).flatMap (fun w => wordBytes (t.expLevelWord w)) ++ wordBytes t.zonesNow ++ wordBytes (t.rd ZON_CMD_STAT)
      ++ wordBytes (t.rd ZON_CMD)) q.auth) := by
  refine congrArg Host.Outcome.next ((State.fixed_unchecked h rfl _).trans ?_)
  simp only [hms, if_true]
  rfl

theorem exec_deadboltClear (h : runs s q 0x0501 [] t) : exec (.deadboltClear q []) s = .next
    (if t.causes.filter (fun c => !t.clearable c) = [] then ((t.unlatch t.causes).noteConds t).reply q 0x0501 stOk 0
      else t.reply q 0x0501 stSafetyBlock (bitsOf (t.causes.filter fun c => !t.clearable c))) :=
  congrArg Host.Outcome.next (State.fixed_unchecked h rfl _)

theorem stuckCauses_eq_nil : t.causes.filter (fun c => !t.clearable c) = [] ↔ t.causes.all t.clearable = true := by
  rw [List.filter_eq_nil_iff, List.all_eq_true]
  simp

theorem exec_exposureLimits (h : runs s q 0x0502 p t) (hl : p.length = 12)
    (hceil : ∀ w, w < 3 → fld p (16 + 4 * w) 4 ≤ (t.rd (ESF_EXP_CEIL w)).toNat)
    (hlim : t.dev = .scanning → ∀ w, w < 3 → fld p (16 + 4 * w) 4 ≤ (t.rd (ESF_EXP_LIM w)).toNat)
    (hu : u = ((t.wr (ESF_EXP_LIM 0) (BitVec.ofNat 32 (fld p 16 4))).wr (ESF_EXP_LIM 1) (BitVec.ofNat 32 (fld p 20 4))).wr (ESF_EXP_LIM 2)
      (BitVec.ofNat 32 (fld p 24 4))) :
    exec (.exposureLimits q p) s = .next ((u.noteConds t).answer q 0x0502 0 0 [] q.auth) := by
  subst hu
  refine congrArg Host.Outcome.next (State.fixed_runs h hl (firstBad_none.2 fun c hc => ?_) _)
  rw [List.mem_append, List.mem_map] at hc
  rcases hc with ⟨w, hw, rfl⟩ | hc
  · exact decide_eq_false (Nat.not_lt.2 (hceil w (List.mem_range.1 hw)))
  · rw [List.mem_singleton] at hc
    rw [hc, chk]
    cases hd : t.scanning with
    | false => rfl
    | true =>
      rw [Bool.true_and, List.any_eq_false]
      intro w hw
      rw [decide_eq_true_eq]
      exact Nat.not_lt.2 (hlim (State.scanning_eq_true.1 hd) w (List.mem_range.1 hw))

theorem exec_safetySelfTest (h : runs s q 0x0503 p t) (hl : p.length = 4) (hm : fld p 16 4 &&& t.selfTests = fld p 16 4)
    (hjob : t.jobOf 0x0503 = false) (hd : t.dev ≠ .scanning) : exec (.safetySelfTest q p) s = .next
      ((t.addJob { req := q, opc := 0x0503, arg := fld p 16 4, gap := false }).answer q 0x0503 1 0 [] q.auth) := by
  have hs := State.scanning_eq_false.2 hd
  refine congrArg Host.Outcome.next ((State.fixed_runs h hl (firstBad_cons_none.2 ⟨decide_eq_false (not_not.2 hm),
    firstBad_cons_none.2 ⟨hjob, firstBad_cons_none.2 ⟨?_, firstBad_cons_none.2 ⟨?_, firstBad_nil⟩⟩⟩⟩) _).trans ?_)
  · rw [chk, hs]; rfl
  · rw [chk, hs]; rfl
  · rw [hs]; rfl

theorem exec_safetySelfTestDone {j : Job} {failed : Nat} (hj : s.cmd.jobs.find? (fun j => j.opc = 0x0503) = some j) (hg : j.gap = false)
    (hu : u = s.setF ESF_DIAG ESF_DIAG_TEST_FAIL (s.f ESF_DIAG ESF_DIAG_TEST_FAIL - (s.f ESF_DIAG ESF_DIAG_TEST_FAIL &&& j.arg)
      + (failed &&& j.arg))) :
    exec (.safetySelfTestDone failed) s = .next ((u.noteConds s).finishJobs 0x0503 0 0 (leBytes 4 (failed &&& j.arg))) := by
  change execSafetySelfTestDone failed s = _
  rw [execSafetySelfTestDone, hj]
  simp only [hg, Bool.false_and, Bool.false_eq_true, if_false, ← hu]
  rfl

/-- Settles O10, request by request. -/
theorem safetyRequests : Obligations.SafetyRequests := by
  unfold Obligations.SafetyRequests
  intro s t q p
  refine ⟨exec_safetyStatus, fun h hall => ?_, fun h hall => ?_,
    fun h hl hceil hlim => ⟨_, rfl, exec_exposureLimits h hl hceil hlim rfl⟩,
    fun h hl hm hjob hd => exec_safetySelfTest h hl hm hjob hd, fun j failed u hj hg hu => exec_safetySelfTestDone hj hg hu⟩
  · rw [exec_deadboltClear h, if_pos (stuckCauses_eq_nil.2 hall)]; rfl
  · rw [exec_deadboltClear h, if_neg (fun hnil => by rw [stuckCauses_eq_nil.1 hnil] at hall; cases hall)]; rfl

/-! ### Zones and safety commands (R330, R338–R341) -/

theorem exec_zoneCommit (h : runs s q 0x0504 [] t) (hon : t.domOn 10 = true) : exec (.zoneCommit q []) s = .next
    (if t.scanning then ((t.reply q 0x0504 stDeferred 0).addJob { req := q, opc := 0x0504, gap := true }).setF
        ZON_COMMIT_STAT ZON_COMMIT_STAT_PEND 1
      else if t.zoneCopy.1 then t.zoneCopy.2.reply q 0x0504 stOk 0 else t.zoneCopy.2.badParam q 0x0504 0) :=
  congrArg Host.Outcome.next (State.fixed_runs h rfl (firstBad_cons_none.2 ⟨by rw [chk, hon]; rfl, firstBad_nil⟩) _)

theorem exec_deferredZoneCopy (hgap : s.gapFor 0x0504 = true) : exec .deferredZoneCopy s = .next
    ((s.zoneCopy.2.setF ZON_COMMIT_STAT ZON_COMMIT_STAT_PEND 0).finishJobs 0x0504 (if s.zoneCopy.1 then 0 else 6) 0 []) := by
  change execDeferredZoneCopy s = _
  rw [execDeferredZoneCopy, hgap]
  rfl

theorem exec_safeCommand {port : Port} (h : runs s q 0x0505 p t) (hport : t.safePort q = some port) (hl : p.length = 32)
    (hon : t.domOn 10 = true) (hc : firstBad (t.safeChecks p) = none) (hslot : t.slotOf port = none)
    (hu : u = t.putSlot port (some { req := q, payload := p, tbl := t.tbl })) : exec (.safeCommand q p) s = .next u.safePair := by
  refine congrArg Host.Outcome.next ((State.command_runs h _).trans ?_)
  have hchecks : firstBad (chk (!t.domOn 10) stRefused :: t.safeChecks p) = none :=
    firstBad_cons_none.2 ⟨by rw [chk, hon]; rfl, hc⟩
  simp only [hport, checked, hl, hchecks, State.safeEnter, hslot, hu, ne_eq, not_true_eq_false, if_false]

theorem exec_safeCommand_otherPort (h : runs s q 0x0505 p t) (hport : t.safePort q = none) :
    exec (.safeCommand q p) s = .next (t.answer q 0x0505 0x20 7 [] q.auth) := by
  refine congrArg Host.Outcome.next ((State.command_runs h _).trans ?_)
  rw [hport]
  rfl

/-- Settles O11, request by request. -/
theorem zoneCommitAndSafeCommand : Obligations.ZoneCommitAndSafeCommand := by
  unfold Obligations.ZoneCommitAndSafeCommand
  intro s t q p
  refine ⟨fun h hon hd hok => ?_, fun h hon hd hbad => ?_, fun h hon hd => ?_, exec_deferredZoneCopy,
    fun port u h hport hl hon hc hslot hu => exec_safeCommand h hport hl hon hc hslot hu,
    fun h hport => exec_safeCommand_otherPort h hport, fun c hslot => ⟨_, _, rfl, rfl, ?_⟩⟩
  · rw [exec_zoneCommit h hon, State.scanning_eq_false.2 hd, hok]; rfl
  · rw [exec_zoneCommit h hon, State.scanning_eq_false.2 hd, hbad]; rfl
  · rw [exec_zoneCommit h hon, State.scanning_eq_true.2 hd]; rfl
  · change execSafeCommandUnpaired s = _
    rcases hslot with hA | ⟨hA, hB⟩
    · rw [execSafeCommandUnpaired, if_pos hA, hA]; rfl
    · rw [execSafeCommandUnpaired, hA, hB, if_neg nofun]; rfl

end Sys2Proof
end


section
/-! The recorder's requests (O12), the recorder while it runs (O13), and the time requests (O14). -/

namespace Sys2Proof

open Machine Machine.Reg

variable {s t u : State} {q : Req} {p : List Byte}

/-! ### Recorder requests (R282, R283, R289, R290, R297, R298) -/

theorem firstBad_armBusy_append (hon : t.domOn 14 = true) (hcl : t.evr.clearing = false) (hst : t.recState = 0 ∨ 5 ≤ t.recState)
    (cs : List Check) : firstBad (t.armBusy ++ cs) = firstBad cs := by
  have h1 : (t.recState == 1) = false := beq_false_of_ne (by omega)
  have h2 : (t.recState == 2) = false := beq_false_of_ne (by omega)
  have h3 : (t.recState == 3) = false := beq_false_of_ne (by omega)
  have h4 : (t.recState == 4) = false := beq_false_of_ne (by omega)
  simp only [State.armBusy, hcl, hon, h1, h2, h3, h4, Bool.or_self, Bool.not_true, List.cons_append, List.nil_append]
  rfl

theorem exec_recArm (h : runs s q 0x0600 p t) (hl : p.length = 88) (hon : t.domOn 14 = true) (hcl : t.evr.clearing = false)
    (hst : t.recState = 0 ∨ 5 ≤ t.recState) (hc : firstBad (t.armChecks (armWords p)) = none) :
    exec (.recArm q p) s = .next ((t.recArm (armWords p)).answer q 0x0600 0 0 [] q.auth) :=
  congrArg Host.Outcome.next (State.fixed_runs h hl ((firstBad_armBusy_append hon hcl hst _).trans hc) _)

theorem exec_recTrigger (h : runs s q 0x0602 [] t) (h0 : t.recState ≠ 0) (h5 : t.recState ≠ 5) : exec (.recTrigger q []) s = .next
    ((t.meetTrigger 0 t.tbs).2.answer q 0x0602 0 (t.meetTrigger 0 t.tbs).1 [] q.auth) :=
  congrArg Host.Outcome.next (State.fixed_runs h rfl (firstBad_cons_none.2
    ⟨by rw [chk, beq_false_of_ne h0, beq_false_of_ne h5]; rfl, firstBad_nil⟩) _)

theorem exec_recTrigger_refused (h : runs s q 0x0602 [] t) (hst : t.recState = 0 ∨ t.recState = 5) :
    exec (.recTrigger q []) s = .next (t.answer q 0x0602 3 0 [] q.auth) := by
  have hbad : (t.recState == 0 || t.recState == 5) = true := by
    rw [Bool.or_eq_true, beq_iff_eq, beq_iff_eq]
    exact hst
  refine congrArg Host.Outcome.next (State.fixed_runs_refused h rfl (c := chk true stRefused) ?_ _)
  rw [hbad]
  rfl

/-- Settles O12, request by request. -/
theorem recorderRequests : Obligations.RecorderRequests := by
  unfold Obligations.RecorderRequests
  intro s t q p
  exact ⟨exec_recArm, fun h => congrArg Host.Outcome.next (State.fixed_unchecked h rfl _), exec_recTrigger, exec_recTrigger_refused,
    fun h => congrArg Host.Outcome.next (State.fixed_unchecked h rfl _),
    fun h hl hc => congrArg Host.Outcome.next (State.fixed_runs h hl hc _)⟩

/-! ### The recorder while it runs (R281, R284–R288, R293–R296) -/

theorem exec_recorderItem_of_item (h : s.recState ≠ 3 ∨ s.evr.left ≠ 0) : exec .recorderItem s = .next s.takeItem :=
  if_neg fun ⟨h3, h0⟩ => h.elim (· h3) (· h0)

theorem State.takeItem_row {r : List Byte} {rest : List (List Byte)} (h : s.evr.rowq = r :: rest) :
    s.takeItem = State.putRow { s with evr := { s.evr with rowq := rest } } r := by
  rw [State.takeItem, h]

theorem State.takeItem_monitor {a b} {rest} (hr : s.evr.rowq = []) (h : s.evr.monq = (a, b) :: rest) :
    s.takeItem = State.putRecord { s with evr := { s.evr with monq := rest } } a b := by
  rw [State.takeItem, hr, h]

theorem State.takeItem_event {a b} {rest} (hr : s.evr.rowq = []) (hm : s.evr.monq = []) (h : s.evr.evq = (a, b) :: rest) :
    s.takeItem = State.putRecord { s with evr := { s.evr with evq := rest } } a b := by
  rw [State.takeItem, hr, hm, h]

theorem exec_captureEnd (h3 : s.recState = 3) (h0 : s.evr.left = 0)
    (hu : u = s.setF EVR_STATE EVR_STATE_STATE (if s.fb EVR_SRC EVR_SRC_REARM then 4 else 5)) :
    exec .captureEnd s = .next (u.holdSegment
      (Nat.min s.evr.before (u.segS - s.f EVR_POST EVR_POST_POST - 1) + 1 + s.f EVR_POST EVR_POST_POST) 0) := by
  subst hu
  exact if_pos ⟨h3, h0⟩

theorem exec_lossEpisodeClose_monitor {l : Loss} (hl : s.evr.lossM = some l) (hlow : s.evr.monq.length ≤ 32) :
    exec (.lossEpisodeClose true) s = .next (State.gapRecord { s with evr := { s.evr with lossM := none } } 2 l) := by
  change execLossEpisodeClose true s = _
  simp only [execLossEpisodeClose, if_true, hl, hlow, decide_true]

theorem exec_lossEpisodeClose_events {l : Loss} (hl : s.evr.lossE = some l) : exec (.lossEpisodeClose false) s = .next
    (if s.evr.evq.length ≤ 128 then State.gapRecord { s with evr := { s.evr with lossE := none } } 1 l
      else State.gapRecord { (s.at_ (l.began + 16 * tickUs)) with evr := { (s.at_ (l.began + 16 * tickUs)).evr with lossE := none } } 1 l) := by
  change execLossEpisodeClose false s = _
  by_cases hlow : s.evr.evq.length ≤ 128 <;>
    simp only [execLossEpisodeClose, Bool.false_eq_true, if_false, hl, hlow, decide_true, decide_false, if_true]

/-- Settles O13, by the recorder's happenings. -/
theorem recorderRuns : Obligations.RecorderRuns := by
  unfold Obligations.RecorderRuns
  intro s
  refine ⟨fun h1 hpre => congrArg Host.Outcome.next (if_pos ⟨h1, hpre⟩), fun src x rest h => ?_, fun hitem => ⟨fun r rest h => ?_,
    fun a b rest hr h => ?_, fun a b rest hr hm h => ?_⟩, fun h3 h0 => ⟨_, rfl, exec_captureEnd h3 h0 rfl⟩,
    fun g hg h4 hfree => ?_, fun l hl hlow => exec_lossEpisodeClose_monitor hl hlow, fun l hl hlow => ?_,
    fun l hl hhigh => ⟨_, rfl, ?_⟩, fun x rest h => ?_, rfl⟩
  · change execRecorderTrigger s = _
    rw [execRecorderTrigger, h]
  · rw [exec_recorderItem_of_item hitem, State.takeItem_row h]
  · rw [exec_recorderItem_of_item hitem, State.takeItem_monitor hr h]
  · rw [exec_recorderItem_of_item hitem, State.takeItem_event hr hm h]
  · subst hg
    exact if_pos ⟨h4, hfree⟩
  · rw [exec_lossEpisodeClose_events hl, if_pos hlow]
  · rw [exec_lossEpisodeClose_events hl, if_neg (Nat.not_le.2 hhigh)]
  · change execMaskSampleTest s = _
    rw [execMaskSampleTest, h]

/-! ### Time requests (R372, R375, R376, R380, R384, R385) -/

/-- TIME_SET that passes its checks, by its OP and its time base. -/
theorem State.timeSet_runs (h : runs s q 0x0701 p t) (hl : p.length = 16) (hc : firstBad (t.timeSetChecks p) = none) :
    s.timeSet q p = (State.discipline (match fld p 17 1 with
      | 0 => t.timeSetValue (fld p 16 1) (fld p 20 8) (fld p 28 4)
      | 1 => t.timeSetStep (fld p 16 1) (fld p 20 8)
      | _ => t.timeSetFreq (fld p 16 1) (fld p 20 8))).answer q 0x0701 0 0 [] q.auth :=
  State.fixed_runs h hl hc _

theorem State.timeSetFreq_of_running (hb : 0 < n) (hrun : t.netRunning (n - 1) = true) (a : Nat) :
    t.timeSetFreq n a = t.wr (TIM_TBx_RATE (n - 1)) (BitVec.ofNat 32 a) := by
  simp only [State.timeSetFreq, if_neg hb.ne', hrun, if_true]

theorem exec_ptpConfig (h : runs s q 0x0702 p t) (hl : p.length = 16) (hc : firstBad (t.ptpChecks p) = none) {e : Ptp} {w : Nat}
    (he : e = { prio1 := fld p 24 1, prio2 := fld p 25 1, logSync := fldS p 21 1, logAnnounce := fldS p 22 1, logDelay := fldS p 23 1,
                stepLimit := fld p 28 4 })
    (hw : w = fld p 20 1 * 2 ^ 24 + fld p 17 1 * 2 ^ 22 + fld p 18 1 * 2 ^ 21 + fld p 19 1 * 2 ^ 20
      + (if t.netRunning (fld p 16 1) then 9 else 0)) :
    exec (.ptpConfig q p) s = .next
      ((((t.setPtp (fld p 16 1) e).wr (TIM_TBx_STATE (fld p 16 1)) (BitVec.ofNat 32 w)).discipline).answer q 0x0702 0 0 [] q.auth) := by
  subst he hw
  exact congrArg Host.Outcome.next (State.fixed_runs h hl hc _)

theorem exec_asymSet (h : runs s q 0x0703 p t) (hl : p.length = 8) (hb : fld p 16 1 ≤ 1) (hres : allZero (fldBytes p 17 3) = true)
    (hu : u = (t.wr (TIM_TBx_ASYM (fld p 16 1)) (BitVec.ofNat 32 (fld p 20 4))).setF (TIM_TBx_STATE (fld p 16 1))
      TIM_TBx_STATE_ASYM_SUSPECT 0) (hst : u.baseState (fld p 16 1) ≠ 4) :
    exec (.asymSet q p) s = .next (u.answer q 0x0703 0 0 [] q.auth) := by
  subst hu
  refine congrArg Host.Outcome.next ((State.fixed_runs h hl (firstBad_cons_none.2 ⟨decide_eq_false (by omega),
    firstBad_cons_none.2 ⟨by rw [par, firstNonZero, hres]; rfl, firstBad_nil⟩⟩) _).trans ?_)
  exact congrArg (fun v => State.reply v q 0x0703 stOk 0) (if_neg fun hh => hst hh.1)

theorem exec_txtsRead (h : runs s q 0x0704 p t) (hl : p.length = 4) (hlo : 1 ≤ fld p 16 4) (hhi : fld p 16 4 ≤ 16) {n : Nat}
    (hn : n = Nat.min (fld p 16 4) t.tm.txts.length) :
    exec (.txtsRead q p) s = .next ((State.setF { t with tm := { t.tm with txts := t.tm.txts.drop n } } TIM_STATUS TIM_STATUS_LEVEL
      (t.tm.txts.drop n).length).answer q 0x0704 0 0 (leBytes 4 (n + 256 * (t.tm.txts.drop n).length) ++ (t.tm.txts.take n).flatMap id)
      q.auth) := by
  subst hn
  exact congrArg Host.Outcome.next
    (State.fixed_runs h hl (firstBad_cons_none.2 ⟨decide_eq_false (by omega), firstBad_nil⟩) _)

theorem exec_launchConfig (h : runs s q 0x0705 p t) (hl : p.length = 8) (h16 : fld p 16 1 ≤ 1) (h17 : fld p 17 1 ≤ 1)
    (h18 : fld p 18 1 ≤ 7) (h19 : fld p 19 1 ≤ 1) (hrun : fld p 18 1 % 2 = 1 → t.netRunning (fld p 19 1) = true)
    (h20 : fld p 20 4 ≤ 100000000) :
    exec (.launchConfig q p) s = .next ((t.wr (TIM_LQ_CFG (2 * fld p 16 1 + fld p 17 1)) (BitVec.ofNat 32
      (fld p 18 1 % 2 * 2 ^ 31 + fld p 18 1 / 2 % 2 * 2 ^ 30 + fld p 18 1 / 4 % 2 * 2 ^ 29 + fld p 19 1 * 2 ^ 28 + fld p 20 4))).answer
      q 0x0705 0 0 [] q.auth) := by
  have hbase : (decide (1 < fld p 19 1) || (bit (fld p 18 1) 0 && !t.netRunning (fld p 19 1))) = false := by
    rw [decide_eq_false (by omega), Bool.false_or, bit, pow_zero, Nat.div_one]
    rcases Nat.mod_two_eq_zero_or_one (fld p 18 1) with hb | hb
    · rw [hb]; rfl
    · rw [hrun hb, Bool.not_true, Bool.and_false]
  refine congrArg Host.Outcome.next ((State.fixed_runs h hl (firstBad_cons_none.2 ⟨decide_eq_false (Nat.not_lt.2 h16),
    firstBad_cons_none.2 ⟨decide_eq_false (Nat.not_lt.2 h17), firstBad_cons_none.2 ⟨decide_eq_false (Nat.not_lt.2 h18),
    firstBad_cons_none.2 ⟨hbase, firstBad_cons_none.2 ⟨decide_eq_false (Nat.not_lt.2 h20), firstBad_nil⟩⟩⟩⟩⟩) _).trans ?_)
  simp only [bits, pow_zero, Nat.div_one, pow_one]
  rfl

/-- Settles O14, request by request. -/
theorem timeRequests : Obligations.TimeRequests := by
  unfold Obligations.TimeRequests
  intro s t q p
  refine ⟨fun h => congrArg Host.Outcome.next (State.fixed_unchecked h rfl _), fun h hl hc => ⟨fun hop hb => ?_, fun hop hb => ?_,
    fun hop hb => ?_, fun hop hb => ?_, fun hop hb => ?_, fun hop hb hrun => ?_⟩,
    fun e w h hl hc he hw => exec_ptpConfig h hl hc he hw, fun u h hl hb hres hu hst => exec_asymSet h hl hb hres hu hst,
    fun n h hl hlo hhi hn => exec_txtsRead h hl hlo hhi hn, exec_launchConfig⟩ <;>
    refine congrArg Host.Outcome.next ((State.timeSet_runs h hl hc).trans ?_) <;> rw [hop]
  · simp only [State.timeSetValue, if_pos hb]
  · simp only [State.timeSetValue, if_neg hb]
  · simp only [State.timeSetStep, if_pos hb]
  · simp only [State.timeSetStep, if_neg hb]
  · simp only [State.timeSetFreq, if_pos hb]
  · simp only [State.timeSetFreq_of_running (Nat.pos_of_ne_zero hb) hrun]

end Sys2Proof
end


section
/-! Link and cascade requests (O15), power and thermal requests (O16), and image and flash requests (O17). -/

namespace Sys2Proof

open Machine Machine.Reg

variable {s t u v : State} {q : Req} {p : List Byte}

/-- The check of a reserved range passes where the range is zero. -/
theorem firstNonZero_bad_of_allZero {off n : Nat} (h : allZero (fldBytes p off n) = true) (d : Nat) :
    (par (firstNonZero p off n) d).bad = false := by
  rw [par, firstNonZero, h]
  rfl

theorem firstBad_append_none {cs ds : List Check} : firstBad (cs ++ ds) = none ↔ firstBad cs = none ∧ firstBad ds = none := by
  simp only [firstBad_none, List.mem_append, or_imp, forall_and]

/-! ### Links and cascade (R398, R404, R406, R422–R424, R428) -/

theorem firstBad_linkChecks {l : Nat} (hon : t.linkOn l = true) (hres : allZero (fldBytes p 17 3) = true) :
    firstBad [par (!t.linkOn l) 16, par (firstNonZero p 17 3) 17] = none :=
  firstBad_cons_none.2 ⟨by rw [par, hon]; rfl, firstBad_cons_none.2 ⟨firstNonZero_bad_of_allZero hres 17, firstBad_nil⟩⟩

theorem exec_linkTrain (h : runs s q 0x0801 p t) (hl : p.length = 4) (hon : (bitsSet 8 (fld p 16 1)).all t.linkOn = true)
    (hres : allZero (fldBytes p 17 3) = true) :
    exec (.linkTrain q p) s = .next
      ((t.forEach (bitsSet 4 (fld p 16 1)) (fun s k => (s.setF (WFL_CTRL k) WFL_CTRL_EN 1).startLink k)).answer q 0x0801 0 0 [] q.auth) := by
  have hnone : (bitsSet 8 (fld p 16 1)).any (fun l => !t.linkOn l) = false := by
    rw [List.any_eq_false]
    intro l hmem
    rw [List.all_eq_true.1 hon l hmem]
    decide
  exact congrArg Host.Outcome.next (State.fixed_runs h hl
    (firstBad_cons_none.2 ⟨hnone, firstBad_cons_none.2 ⟨firstNonZero_bad_of_allZero hres 17, firstBad_nil⟩⟩) _)

theorem exec_cascadeConfig (h : runs s q 0x0803 p t) : exec (.cascadeConfig q p) s = .next (if t.dev ≠ .idle then t.reply q 0x0803 3 0
    else checked q 0x0803 p 8 (fun s => s.casChecks p) (fun s =>
      ((s.casLoad (fld p 16 1) (fld p 17 1) (fld p 18 1) (fld p 19 1) (fld p 20 4)).holdUnused.lostUp.forEach (List.range 4)
        (fun s l => if s.fb (WFL_CTRL l) WFL_CTRL_EN then s.sendCapx l else s)).readyCheck.reply q 0x0803 stOk 0) t) :=
  congrArg Host.Outcome.next (State.command_runs h _)

/-- A command's body where its length is its own and no check fails. -/
theorem checked_of_none {opc len : Nat} {checks : State → List Check} {body : State → State} (hl : p.length = len)
    (hc : firstBad (checks t) = none) : checked q opc p len checks body t = body t := by
  rw [checked, if_neg (not_not_intro hl), hc]

/-- LINK_TEST that passes its checks, by its kind. -/
theorem State.linkTest_prbs (h : runs s q 0x0804 p t) (hl : p.length = 8) (hc : firstBad (t.linkTestChecks p) = none)
    (h4 : fld p 17 1 ≠ 4)
    (hu : u = State.forEach ((State.setF ((t.answer q 0x0804 1 0 [] q.auth).addJob { req := q, opc := 0x0804, arg := fld p 16 1 })
        (WFL_TEST (fld p 16 1)) WFL_TEST_KIND (fld p 17 1)).setF (WFL_TEST (fld p 16 1)) WFL_TEST_RUN 1) (bitsSet 4 (fld p 18 1))
        (fun s k => ((s.wr (WFL_LANE_ERR (fld p 16 1) k) 0).wr (WFL_LANE_BITS_LO (fld p 16 1) k) 0).wr
          (WFL_LANE_BITS_HI (fld p 16 1) k) 0))
    (hv : v = if u.linkState (fld p 16 1) = 0 then u else u.toLink (fld p 16 1) 9) :
    s.linkTest q p = v.putLink (fld p 16 1)
      { v.link (fld p 16 1) with test := some (fld p 17 1, fld p 18 1, v.tm.now + fld p 20 4 * tickMs) } := by
  subst hu hv
  refine (State.fixed_runs h hl hc _).trans ?_
  simp only [if_neg h4]
  rfl

theorem State.linkTest_margin (h : runs s q 0x0804 p t) (hl : p.length = 8) (hc : firstBad (t.linkTestChecks p) = none)
    (h4 : fld p 17 1 = 4)
    (hu : u = (State.setF ((t.answer q 0x0804 1 0 [] q.auth).addJob { req := q, opc := 0x0804, arg := fld p 16 1 })
        (WFL_TEST (fld p 16 1)) WFL_TEST_KIND 4).setF (WFL_TEST (fld p 16 1)) WFL_TEST_RUN 1) :
    s.linkTest q p = u.putLink (fld p 16 1) { u.link (fld p 16 1) with
      test := some (4, fld p 18 1, u.tm.now + (bitsSet 4 (fld p 18 1)).length * 8400 * tickUs) } := by
  subst hu
  refine (State.fixed_runs h hl hc _).trans ?_
  simp only [if_pos h4]
  rw [h4]
  rfl

theorem exec_linkTestDone {l kind lanes e : Nat} {r : List (Nat × Nat × Nat)} {w : List Byte × State}
    (ht : (s.link l).test = some (kind, lanes, e))
    (hu : u = State.setF ((s.at_ e).putLink l { (s.at_ e).link l with test := none }) (WFL_TEST l) WFL_TEST_RUN 0)
    (hw : w = State.laneResults l kind lanes r [0, 1, 2, 3] ([], u)) (h9 : w.2.linkState l ≠ 9) :
    exec (.linkTestDone l r) s = .next (w.2.finishJobs 0x0804 0 0 w.1) := by
  subst hu hw
  change execLinkTestDone l r s = _
  rw [execLinkTestDone, ht]
  simp only [if_neg h9]
  rfl

/-- Settles O15, request by request. -/
theorem linkAndCascadeRequests : Obligations.LinkAndCascadeRequests := by
  unfold Obligations.LinkAndCascadeRequests
  intro s t q p l hlink
  subst hlink
  refine ⟨fun h hl hon hres => congrArg Host.Outcome.next (State.fixed_runs h hl (firstBad_linkChecks hon hres) _), exec_linkTrain,
    fun h hl hon hres => congrArg Host.Outcome.next (State.fixed_runs h hl (firstBad_linkChecks hon hres) _),
    fun u h hd hl hc hu => ?_, fun h hd => ?_,
    fun u v h hl hc h4 hu hv => congrArg Host.Outcome.next (State.linkTest_prbs h hl hc h4 hu hv),
    fun u h hl hc h4 hu => congrArg Host.Outcome.next (State.linkTest_margin h hl hc h4 hu),
    fun r kind lanes e u v ht hu hv h9 => exec_linkTestDone ht hu hv h9⟩
  · rw [exec_cascadeConfig h, if_neg (not_not_intro hd), checked_of_none hl hc, hu]
    rfl
  · rw [exec_cascadeConfig h, if_pos hd]
    rfl

/-! ### Power and thermal requests (R474, R476, R479–R483, R491, R492) -/

theorem State.switchEnd_of_idle (h : t.boot.switching = none) : t.switchEnd = t := by
  rw [State.switchEnd, h]

theorem State.switchEnd_of_switching {d : Nat} {on : Bool} {r : Req} (h : t.boot.switching = some (d, on, r)) :
    t.switchEnd = (if on then State.domainUp { t with boot := { t.boot with switching := none } } d
      else State.domainDown { t with boot := { t.boot with switching := none } } d).reply r 0x0900 stOk 0 := by
  rw [State.switchEnd, h]

/-- PWR_DOMAIN that passes its checks while no switch is under way. -/
theorem State.pwrDomain_runs (h : runs s q 0x0900 p t) (hl : p.length = 4) (hsw : t.boot.switching = none)
    (hc : firstBad (t.domainChecks p) = none) : s.pwrDomain q p =
      if t.domOn (fld p 16 1) = (fld p 17 1 == 1) then t.reply q 0x0900 stOk 0
      else { t with boot := { t.boot with switching := some (fld p 16 1, fld p 17 1 == 1, q) } } := by
  refine (State.fixed_runs (checks := fun s => s.switchEnd.domainChecks p) h hl ?_ _).trans ?_
  · rw [State.switchEnd_of_idle hsw, hc]
  · rw [State.switchEnd_of_idle hsw]

theorem exec_ackThermalEvent (h : runs s q 0x0902 p t) (hl : p.length = 4)
    (hmem : fld p 16 4 ∈ t.shutdownsAfter (t.rd THM_NVLOG_ACK).toNat)
    (hu : u = (t.nvNow (t.nvBody nvAck t.dev.code 0 (fld p 16 4))).setF THM_STATE THM_STATE_HISTORY
      (if t.shutdownsAfter (fld p 16 4) = [] then 0 else 1)) :
    exec (.ackThermalEvent q p) s = .next ((u.noteConds t).answer q 0x0902 0 0 [] q.auth) := by
  have hnew : b2n (!(t.shutdownsAfter (fld p 16 4)).isEmpty) = if t.shutdownsAfter (fld p 16 4) = [] then 0 else 1 := by
    cases t.shutdownsAfter (fld p 16 4) <;> rfl
  subst hu
  refine congrArg Host.Outcome.next ((State.fixed_runs h hl (firstBad_cons_none.2 ⟨?_, firstBad_nil⟩) _).trans ?_)
  · rw [par, List.contains_iff_mem.2 hmem]
    rfl
  · rw [← hnew]
    rfl

theorem exec_nvlogRead (h : runs s q 0x0903 p t) (hl : p.length = 8) (hlo : 1 ≤ fld p 20 1) (hhi : fld p 20 1 ≤ 125)
    (hres : allZero (fldBytes p 21 3) = true) {rs : List (List Byte)} (hrs : rs = t.nvRecords (fld p 16 4) (fld p 20 1)) :
    exec (.nvlogRead q p) s = .next
      (t.answer q 0x0903 0 0 (leBytes 4 (rs.length + t.nvHeld.length * 256) ++ rs.flatten) q.auth) := by
  subst hrs
  have hcount : (fld p 20 1 == 0 || decide (125 < fld p 20 1)) = false := by
    rw [beq_false_of_ne (by omega), decide_eq_false (by omega)]
    rfl
  exact congrArg Host.Outcome.next (State.fixed_runs h hl
    (firstBad_cons_none.2 ⟨hcount, firstBad_cons_none.2 ⟨firstNonZero_bad_of_allZero hres 21, firstBad_nil⟩⟩) _)

/-- THERMAL_LIMITS passes its checks where each limit is from 60 °C to its fuse and they rise by 5 °C (R483). -/
theorem firstBad_limitChecks (hwlo : 960 ≤ fldS p 16 2) (hwhi : fldS p 16 2 ≤ sx 16 t.boot.shadows.warn)
    (htlo : fldS p 16 2 + 80 ≤ fldS p 18 2) (hthi : fldS p 18 2 ≤ sx 16 t.boot.shadows.throttle)
    (hslo : fldS p 18 2 + 80 ≤ fldS p 20 2) (hshi : fldS p 20 2 ≤ sx 16 t.boot.shadows.shutdown)
    (hres : allZero (fldBytes p 22 2) = true) : firstBad (t.limitChecks p) = none := by
  have hin {lo ceil x : Int} (h1 : lo ≤ x) (h2 : x ≤ ceil) : (decide (ceil < x) || decide (x < lo)) = false := by
    rw [decide_eq_false (Int.not_lt.2 h2), decide_eq_false (Int.not_lt.2 h1)]
    rfl
  have hrise : (decide (fldS p 18 2 < fldS p 16 2 + 80) || decide (fldS p 20 2 < fldS p 18 2 + 80)) = false := by
    rw [decide_eq_false (Int.not_lt.2 htlo), decide_eq_false (Int.not_lt.2 hslo)]
    rfl
  have htmin : 960 ≤ fldS p 18 2 := by omega
  have hsmin : 960 ≤ fldS p 20 2 := by omega
  exact firstBad_cons_none.2 ⟨hin hwlo hwhi, firstBad_cons_none.2 ⟨hin htmin hthi, firstBad_cons_none.2 ⟨hin hsmin hshi,
    firstBad_cons_none.2 ⟨hrise, firstBad_cons_none.2 ⟨firstNonZero_bad_of_allZero hres 22, firstBad_nil⟩⟩⟩⟩⟩

/-- Settles O16, request by request. -/
theorem powerAndThermalRequests : Obligations.PowerAndThermalRequests := by
  unfold Obligations.PowerAndThermalRequests
  intro s t q p
  refine ⟨fun h hl hsw hc => ?_, fun d r hsw => ?_, fun d r hsw => ?_,
    fun h => congrArg Host.Outcome.next (State.fixed_unchecked h rfl _),
    fun n u h hl hn hmem hu => by subst hn; exact exec_ackThermalEvent h hl hmem hu,
    fun rs h hl hlo hhi hres hrs => exec_nvlogRead h hl hlo hhi hres hrs,
    fun h hl hwlo hwhi htlo hthi hslo hshi hres => congrArg Host.Outcome.next
      (State.fixed_runs h hl (firstBad_limitChecks hwlo hwhi htlo hthi hslo hshi hres) _)⟩
  · have hdom := State.pwrDomain_runs h hl hsw hc
    refine ⟨fun hop hd => ?_, fun hop hd => ?_, fun hop hd => ?_, fun hop hd => ?_⟩ <;>
      refine congrArg Host.Outcome.next (hdom.trans ?_) <;> rw [hop, hd]
    · rfl
    · rfl
    · rfl
    · rfl
  · change execDomainSwitchOnDone s = _
    rw [execDomainSwitchOnDone, hsw]
    exact congrArg Host.Outcome.next (State.switchEnd_of_switching hsw)
  · change execDomainSwitchOffDone s = _
    rw [execDomainSwitchOffDone, hsw]
    exact congrArg Host.Outcome.next (State.switchEnd_of_switching hsw)

/-! ### Images and flash (R506–R509) -/

theorem firstBad_slotChecks (hslot : fld p 16 1 ≤ 1) (hres : allZero (fldBytes p 17 3) = true) : firstBad (slotChecks p) = none :=
  firstBad_cons_none.2 ⟨decide_eq_false (Nat.not_lt.2 hslot),
    firstBad_cons_none.2 ⟨firstNonZero_bad_of_allZero hres 17, firstBad_nil⟩⟩

theorem firstBad_flashBusy (hidle : t.boot.flashOps = []) : firstBad [chk t.flashBusy stBusy] = none :=
  firstBad_cons_none.2 ⟨by rw [chk, State.flashBusy, hidle]; rfl, firstBad_nil⟩

theorem firstBad_flashRange {a n : Nat} (hn : 0 < n) (hend : a + n ≤ t.boot.flashSize) : firstBad (t.flashRange a n false) = none :=
  firstBad_cons_none.2 ⟨decide_eq_false (by omega), firstBad_cons_none.2
    ⟨by rw [par, decide_eq_false (Nat.not_lt.2 hend)]; rfl, firstBad_nil⟩⟩

/-- A change of the flash passes where the image in use is not touched and no operation runs. -/
theorem firstBad_flashChange {a n : Nat} (hfree : t.touchesBooted a n = false) (hidle : t.boot.flashOps = []) :
    firstBad [⟨t.touchesBooted a n, stRefused, 16⟩, chk t.flashBusy stBusy] = none :=
  firstBad_cons_none.2 ⟨hfree, firstBad_flashBusy hidle⟩

theorem exec_imageInfo (h : runs s q 0x0A00 p t) (hl : p.length = 4) (hslot : fld p 16 1 ≤ 1)
    (hres : allZero (fldBytes p 17 3) = true) :
    exec (.imageInfo q p) s = .next (t.answer q 0x0A00 0 0 (leBytes 4 (t.headerCode (t.slotHeader (fld p 16 1))
      + (Sp.find t.boot.checked (fld p 16 1)).getD 0xFF * 2 ^ 8 + (if t.boot.booted = some (fld p 16 1) then 1 else 0) * 2 ^ 16
      + (if t.boot.nvNext = fld p 16 1 then 1 else 0) * 2 ^ 17) ++ t.slotHeader (fld p 16 1)) q.auth) := by
  refine congrArg Host.Outcome.next ((State.fixed_runs h hl (firstBad_slotChecks hslot hres) _).trans ?_)
  simp only [b2n, beq_iff_eq]
  rfl

theorem exec_flashRead (h : runs s q 0x0A01 p t) (hl : p.length = 8) (hlo : 1 ≤ fld p 20 4) (hhi : fld p 20 4 ≤ 8064)
    (hend : fld p 16 4 + fld p 20 4 ≤ t.boot.flashSize) (hidle : t.boot.flashOps = []) :
    exec (.flashRead q p) s = .next (t.answer q 0x0A01 0 0 (t.flashBytes (fld p 16 4) (fld p 20 4)) q.auth) := by
  have hn : (fld p 20 4 == 0 || decide (8064 < fld p 20 4)) = false := by
    rw [beq_false_of_ne (by omega), decide_eq_false (by omega)]
    rfl
  refine congrArg Host.Outcome.next (State.fixed_runs h hl (firstBad_append_none.2 ⟨?_, firstBad_flashBusy hidle⟩) _)
  rw [hn]
  exact firstBad_flashRange hlo hend

theorem exec_flashErase (h : runs s q 0x0A02 p t) (hl : p.length = 8) (hpage : fld p 16 4 % 65536 = 0) (hlo : 1 ≤ fld p 20 4)
    (hend : fld p 16 4 + 65536 * fld p 20 4 ≤ t.boot.flashSize) (hfree : t.touchesBooted (fld p 16 4) (65536 * fld p 20 4) = false)
    (hidle : t.boot.flashOps = []) :
    exec (.flashErase q p) s = .next ((State.addJob { t with boot := { t.boot with flashOps := [.erase (fld p 16 4) (fld p 20 4)] } }
      { req := q, opc := 0x0A02 }).answer q 0x0A02 1 0 [] q.auth) := by
  refine congrArg Host.Outcome.next (State.fixed_runs h hl (firstBad_append_none.2 ⟨firstBad_append_none.2
    ⟨firstBad_cons_none.2 ⟨decide_eq_false (not_not_intro hpage), firstBad_nil⟩, ?_⟩, firstBad_flashChange hfree hidle⟩) _)
  rw [beq_false_of_ne (by omega : fld p 20 4 ≠ 0)]
  exact firstBad_flashRange (by omega) hend

theorem exec_flashWrite (h : runs s q 0x0A03 p t) (hlo : 5 ≤ p.length) (hhi : p.length ≤ 8064)
    (hend : fld p 16 4 + (p.length - 4) ≤ t.boot.flashSize) (hfree : t.touchesBooted (fld p 16 4) (p.length - 4) = false)
    (hidle : t.boot.flashOps = []) :
    exec (.flashWrite q p) s = .next ((State.addJob { t with boot := { t.boot with flashOps := [.write (fld p 16 4) (p.drop 4)] } }
      { req := q, opc := 0x0A03 }).answer q 0x0A03 1 0 [] q.auth) := by
  refine congrArg Host.Outcome.next ((State.command_runs h _).trans ?_)
  have hlen : ¬ (p.length < 5 ∨ 8064 < p.length) := by omega
  rw [if_neg hlen, firstBad_append_none.2 ⟨firstBad_flashRange (by omega) hend, firstBad_flashChange hfree hidle⟩]
  rfl

/-- Settles O17, request by request. -/
theorem imageAndFlashRequests : Obligations.ImageAndFlashRequests := by
  unfold Obligations.ImageAndFlashRequests
  intro s t q p
  refine ⟨exec_imageInfo, exec_flashRead, exec_flashErase, exec_flashWrite, fun a n rest h => ?_, fun a data rest h => ?_,
    fun h hl hslot hres hidle => congrArg Host.Outcome.next
      (State.fixed_runs h hl (firstBad_append_none.2 ⟨firstBad_slotChecks hslot hres, firstBad_flashBusy hidle⟩) _),
    fun slot rest readErr u h hu => ?_,
    fun h hl hslot hres hidle => congrArg Host.Outcome.next
      (State.fixed_runs h hl (firstBad_append_none.2 ⟨firstBad_slotChecks hslot hres, firstBad_flashBusy hidle⟩) _)⟩
  · change execFlashOperationDone s = _
    rw [execFlashOperationDone, h]
    rfl
  · change execFlashOperationDone s = _
    rw [execFlashOperationDone, h]
    rfl
  · subst hu
    change execImageVerifyDone readErr s = _
    rw [execImageVerifyDone, h]
    rfl

end Sys2Proof
end


section
/-! The running servo (O25), the encoder inputs (O26), and the monitor with its filters (O27). -/

namespace Sys2Proof

open Machine Machine.Reg

variable {s t u v w : State}

/-! ### Servo (R227–R238, R244–R248) -/

theorem exec_servoTick (hrun : s.srv.running = true) (hpll : s.pllC = true) (hu : u = s.at_ s.tickNext)
    (hv : v = (if u.srv.ticks = 0 ∨ u.srv.rampLeft ≠ none then u else u.verdict).addWrap SRV_SAMPLE SRV_SAMPLE_TICKS 1)
    (hw : w = { v with srv := { v.srv with ticks := v.srv.ticks + 1, tickAt := v.tm.now, rampLeft := v.srv.rampLeft.map (· - 1) } })
    (r0 r1 r2 r3 : Int) :
    exec (.servoTick r0 r1 r2 r3) s = .next (((w.tickConversions [r0, r1, r2, r3]).madEvent 7 w.tbs).dmaRequest 5) := by
  change execServoTick r0 r1 r2 r3 s = _
  subst hw hv hu
  simp only [execServoTick, hrun, hpll, Bool.not_true, Bool.or_self, Bool.false_eq_true, if_false, Bool.or_eq_true, decide_eq_true_eq,
    Option.isSome_iff_ne_none]

theorem exec_servoTick_of_stopped (h : s.srv.running = false ∨ s.pllC = false) (r0 r1 r2 r3 : Int) :
    exec (.servoTick r0 r1 r2 r3) s = .next s := by
  have hoff : (!s.srv.running || !s.pllC) = true := by rcases h with h | h <;> simp [h]
  exact if_pos hoff

/-- A loop's due sample: what a feedback value, or its absence, makes of the state that the trajectory has reached. -/
theorem exec_loopSample {x : Nat} (htrip : s.tripDue x = false) (hdue : s.sampleDue x = true) (hu : u = s.trajArrive x)
    (h3 : u.f (SRV_LP_STAT x) SRV_LP_STAT_STATE ≠ 3)
    (hv : v = u.setF (SRV_LP_STAT x) SRV_LP_STAT_STATE (if u.fb (SRV_LP_CTRL x) SRV_LP_CTRL_MODE then 2 else 1)) :
    exec (.loopSample x) s = .next
      ((((match v.feedback x with
        | none => v.missSample x (u.fb (SRV_LP_CTRL x) SRV_LP_CTRL_MODE)
        | some fb => v.goodSample x fb (u.fb (SRV_LP_CTRL x) SRV_LP_CTRL_MODE)).deliverAz x (u.rawFeedback x)).traceSample x).noteConds
        s) := by
  change execLoopSample x s = _
  subst hu hv
  simp only [execLoopSample, htrip, hdue, Bool.not_true, Bool.false_eq_true, if_false, if_neg h3] <;> rfl

/-- The debounce of the mirror window counts at least one sample. -/
theorem max_one_le {m n : Nat} (hm : m ≤ n) (h1 : 1 ≤ n) : Nat.max 1 m ≤ n := Nat.max_le.2 ⟨h1, hm⟩

theorem exec_mirrorWindowExit (hin : s.fb SRV_WIN_STAT SRV_WIN_STAT_IN = true)
    (hbad : s.f SRV_WIN_CFG SRV_WIN_CFG_DEB_OUT ≤ s.srv.badRun) (h1 : 1 ≤ s.srv.badRun) :
    exec .mirrorWindowExit s = .next s.mirrorOut := by
  refine if_pos ?_
  rw [hin, decide_eq_true (max_one_le hbad h1)]
  rfl

theorem exec_mirrorWindowEntry (hout : s.fb SRV_WIN_STAT SRV_WIN_STAT_IN = false) (hrun : s.srv.running = true)
    (hramp : s.srv.rampLeft = none) (hgood : s.f SRV_WIN_CFG SRV_WIN_CFG_DEB_IN ≤ s.srv.goodRun) (h1 : 1 ≤ s.srv.goodRun) :
    exec .mirrorWindowEntry s = .next ((s.setF SRV_WIN_STAT SRV_WIN_STAT_IN 1).noteConds s) := by
  refine if_pos ?_
  rw [hout, hrun, hramp, decide_eq_true (max_one_le hgood h1)]
  rfl

theorem exec_servoStopRampDone (hrun : s.srv.running = true) (hramp : s.srv.rampLeft = some 0)
    (hu : u = ((s.forEach (List.range 6) (fun s x => s.loopStop x)).setF SRV_STATUS SRV_STATUS_RUNNING 0).setF SRV_AZ SRV_AZ_VALID 0) :
    exec .servoStopRampDone s = .next
      (State.refCheck { u with srv := { u.srv with running := false, rampLeft := none, rampFrom := [], sinks := [] } }) := by
  subst hu
  refine if_pos ?_
  rw [hrun, hramp]
  rfl

/-- Settles O25, by the servo's happenings. -/
theorem servoHappenings : Obligations.ServoHappenings := by
  unfold Obligations.ServoHappenings
  intro s u v w
  refine ⟨fun r0 r1 r2 r3 hrun hpll hu hv hw => exec_servoTick hrun hpll hu hv hw r0 r1 r2 r3,
    fun r0 r1 r2 r3 h => exec_servoTick_of_stopped h r0 r1 r2 r3, fun x fb htrip hdue hu h3 hv => ?_,
    fun x => ⟨fun h => if_pos h, fun h => if_neg (by rw [h]; decide)⟩, exec_mirrorWindowExit, exec_mirrorWindowEntry,
    exec_servoStopRampDone, fun h2 hpost => if_pos ⟨h2, hpost⟩⟩
  have hloop := exec_loopSample htrip hdue hu h3 hv
  exact ⟨fun hfb => by rw [hloop, hfb], fun hfb => by rw [hloop, hfb]⟩

/-! ### Encoder (R229, R233, R234) -/

section
variable {a b : Bool} (ht : t = { s with pin := { s.pin with quadA := a, quadB := b } })
include ht

theorem exec_encoderEdge_of_off (h : s.domOn 12 = false ∨ s.fb SRV_ENC_CFG SRV_ENC_CFG_EN = false) :
    exec (.encoderEdge a b) s = .next t := by
  subst ht
  have hoff : (!s.domOn 12 || !s.fb SRV_ENC_CFG SRV_ENC_CFG_EN) = true := by rcases h with h | h <;> simp [h]
  exact if_pos hoff

/-- With the encoder on, an edge is judged by the inputs that changed. -/
theorem exec_encoderEdge_of_on (hon : s.domOn 12 = true) (hen : s.fb SRV_ENC_CFG SRV_ENC_CFG_EN = true) :
    exec (.encoderEdge a b) s = .next
      (if (a != s.pin.quadA) && (b != s.pin.quadB) then
        ((t.setF SRV_ENC_STAT SRV_ENC_STAT_ERR 1).addSat SRV_ENC_STAT SRV_ENC_STAT_ERRS 1).setF SRV_ENC_STAT SRV_ENC_STAT_VALID 0
      else if (a != s.pin.quadA) || (b != s.pin.quadB) then
        t.wr (SRV_ENC_POS 0) (s.rd (SRV_ENC_POS 0)
          + (if (if a != s.pin.quadA then a != s.pin.quadB else b == s.pin.quadA) then 1 else -1))
      else t) := by
  have hact : ¬ (!s.domOn 12 || !s.fb SRV_ENC_CFG SRV_ENC_CFG_EN) = true := by
    rw [hon, hen]
    decide
  subst ht
  exact (if_neg hact).trans (by split <;> [rfl; split <;> rfl])

end

/-- Settles O26: an encoder edge by the inputs that changed, and the index edge. -/
theorem encoderInputs : Obligations.EncoderInputs := by
  unfold Obligations.EncoderInputs
  intro s t u a b ht
  refine ⟨exec_encoderEdge_of_off ht, fun hon hen => ⟨fun ha hb => ?_, fun ha hb => ?_, fun ha hb => ?_, fun ha hb => ?_⟩,
    fun hon hu => ?_, fun hoff => ?_⟩
  · rw [exec_encoderEdge_of_on ht hon hen, bne_iff_ne.2 ha, bne_iff_ne.2 hb]
    rfl
  · rw [exec_encoderEdge_of_on ht hon hen, bne_iff_ne.2 ha, hb, bne_self_eq_false]
    simp only [Bool.and_false, Bool.false_eq_true, if_false, Bool.or_false, if_true, bne_iff_ne]
  · rw [exec_encoderEdge_of_on ht hon hen, bne_iff_ne.2 hb, ha, bne_self_eq_false]
    simp only [Bool.false_and, Bool.false_eq_true, if_false, Bool.false_or, if_true, beq_iff_eq]
    simp only [eq_comm]
  · rw [exec_encoderEdge_of_on ht hon hen, ha, hb, bne_self_eq_false, bne_self_eq_false]
    rfl
  · subst hu
    exact if_neg (by rw [hon]; decide)
  · exact if_pos (by rw [hoff]; rfl)

/-! ### Monitor and filters (R253, R257, R258, R261, R262, R264–R266) -/

theorem exec_sequenceConversion {cs : List Nat} {e due start : Nat} (he : e = s.f MAD_SEQ_STAT MAD_SEQ_STAT_ENTRY)
    (hcs : cs = s.entryConvs e) (hdue : due = s.mad.seqDue) (hon : s.domOn 13 = true)
    (hrun : s.fb MAD_SEQ_STAT MAD_SEQ_STAT_RUN = true) (hwait : s.fb MAD_SEQ_STAT MAD_SEQ_STAT_WAITING = false)
    (href : cs = [] ∨ s.refReady = true) (hstart : start = if cs = [] then due else s.convStart cs (Nat.max due (s.refDue.getD 0)))
    (hu : u = if due < start then (s.at_ start).addSat MAD_CNT2 MAD_CNT2_SLIP 1 else s.at_ start) {r0 r1 r2 r3 : Int}
    (hv : v = u.forEach cs (fun s j => s.seqResult e start [r0, r1, r2, r3] j)) :
    exec (.sequenceConversion r0 r1 r2 r3) s = .next (State.seqAdvance
      { v with mad := { v.mad with seqDue := start + Nat.max 16 (v.f (MAD_ENTRY2 e) MAD_ENTRY2_SPACE) * adcCycle } } e) := by
  have hready : (!cs.isEmpty && !s.refReady) = false := by rcases href with h | h <;> simp [h]
  change execSequenceConversion r0 r1 r2 r3 s = _
  subst hv hu
  simp only [execSequenceConversion, ← he, ← hcs, ← hdue, hon, hrun, hwait, hready, Bool.not_true, Bool.or_self, Bool.false_eq_true,
    if_false, List.isEmpty_iff, ← hstart]

theorem exec_sequencerTrigger {src t : Nat} {rest : List (Nat × Nat)} (h : s.mad.triggers = (src, t) :: rest)
    (hu : u = { s with mad := { s.mad with triggers := rest } }) :
    exec .sequencerTrigger s = .next
      (if s.fb MAD_SEQ_STAT MAD_SEQ_STAT_RUN && s.fb MAD_SEQ_STAT MAD_SEQ_STAT_WAITING then
        let v := (u.wr64 MAD_TRIG_TBS_LO MAD_TRIG_TBS_HI t).setF MAD_SEQ_STAT MAD_SEQ_STAT_WAITING 0
        let w := State.maskRef { v with mad := { v.mad with
          seqDue := adcCeil (((s.tm.now : Int) + ((t : Int) - s.tbs)).toNat + 1600) + s.f MAD_TRIG MAD_TRIG_DELAY * adcCycle } } 4 t
        w.forEach (bitsSet 8 (w.f MFC_SYNC MFC_SYNC_TRIG_SYNC)) (fun s c => s.chainReset c)
      else u.addSat MAD_CNT2 MAD_CNT2_TRIG_MISS 1) := by
  change execSequencerTrigger s = _
  subst hu
  rw [execSequencerTrigger, h]
  exact (apply_ite Host.Outcome.next _ _ _).symm

/-- Settles O27, by the happenings of the monitor and its filters. -/
theorem monitorHappenings : Obligations.MonitorHappenings := by
  unfold Obligations.MonitorHappenings
  intro s u v w
  refine ⟨fun t href hrdy hu => ?_, fun r0 r1 r2 r3 e cs due start he hcs hdue hon hrun hwait href hstart hu hv =>
    exec_sequenceConversion he hcs hdue hon hrun hwait href hstart hu hv, fun src t rest due hdue htr hu =>
      ⟨fun hrun hwait hv hw => ?_, fun hoff => ?_⟩, fun p due hp hon h0 hdue hu => ?_, fun r j code diff done hinj hu hv => ?_,
    fun c x rest hin hu => ?_⟩
  · change execReferenceReady s = _
    subst hu
    rw [execReferenceReady, href]
    exact if_neg (by rw [hrdy]; decide)
  · rw [exec_sequencerTrigger htr hu, hrun, hwait, hw, hv, hdue]
    rfl
  · have hmiss : (s.fb MAD_SEQ_STAT MAD_SEQ_STAT_RUN && s.fb MAD_SEQ_STAT MAD_SEQ_STAT_WAITING) = false := by
      rcases hoff with h | h <;> simp [h]
    rw [exec_sequencerTrigger htr hu, hmiss]
    rfl
  · change execMadTimerExpiry s = _
    subst hp hu hdue
    have hgo : ¬ (!s.domOn 13 || s.f MAD_TIMER MAD_TIMER_PERIOD == 0) = true := by
      rw [hon, beq_false_of_ne h0]
      decide
    exact if_neg hgo
  · change execInjectedConversionDone r s = _
    subst hv hu
    rw [execInjectedConversionDone, hinj]
  · change execFilterInput s = _
    subst hu
    rw [execFilterInput, hin]

end Sys2Proof
end


section
/-! The return inputs (O28) and the fire references (O29). -/

namespace Sys2Proof

open Machine Machine.Reg

variable {s t u v : State}

/-! ### Return inputs (R81, R83, R85–R89, R96, R104, R106) -/

section
variable {n c tap e : Nat} (hlive : s.inputLive n = true) (hp : s.pulse n = none) (hu : u = s.toTbs (c * 64 + tap))
  (he : e = u.edgeTime (u.cdWords (n / 4)) c tap)
include hlive hp hu he

theorem exec_returnLeadingEdge_dead {l : Nat} (hl : Sp.find u.tdc.leadAt n = some l) (hnear : e < l + 192)
    (hv : v = { u with tdc := { u.tdc with pulses := Sp.ins u.tdc.pulses n { lead := e, dead := true } } }) :
    exec (.returnLeadingEdge n c tap) s = .next (if v.modeMismatch n then v else v.addSat (RFE_CNT_LOSS n) RFE_CNT_LOSS_DEAD 1) := by
  subst hv he hu
  change execReturnLeadingEdge n c tap s = _
  simp only [execReturnLeadingEdge, hlive, hp, Bool.not_true, Option.isSome_none, Bool.or_self, Bool.false_eq_true, if_false, hl,
    decide_eq_true hnear, if_true]

theorem exec_returnLeadingEdge_opens (hfar : ∀ l, Sp.find u.tdc.leadAt n = some l → l + 192 ≤ e) :
    exec (.returnLeadingEdge n c tap) s = .next { u with tdc := { u.tdc with
      pulses := Sp.ins u.tdc.pulses n { lead := e }
      leadAt := Sp.ins u.tdc.leadAt n e
      leads := Sp.put (fun _ => []) u.tdc.leads n ((Sp.get (fun _ => []) u.tdc.leads n).filter (fun l => e < l + 65536) ++ [e]) } } := by
  have hopen : (match Sp.find u.tdc.leadAt n with | some l => decide (e < l + 192) | none => false) = false := by
    cases hl : Sp.find u.tdc.leadAt n with
    | none => rfl
    | some l => exact decide_eq_false (Nat.not_lt.2 (hfar l hl))
  subst he hu
  change execReturnLeadingEdge n c tap s = _
  rw [execReturnLeadingEdge, if_neg (by rw [hlive, hp]; decide)]
  exact if_neg (ne_true_of_eq_false hopen)

end

theorem exec_returnLeadingEdge_of_pulse {n : Nat} {p : Pulse} (hp : s.pulse n = some p) (c tap : Nat) :
    exec (.returnLeadingEdge n c tap) s = .next s :=
  if_pos (by rw [hp]; exact Bool.or_true _)

theorem exec_returnTrailingEdge {n c tap e : Nat} {p : Pulse} (hp : s.pulse n = some p)
    (he : e = (s.toTbs (c * 64 + tap)).edgeTime ((s.toTbs (c * 64 + tap)).cdWords (n / 4)) c tap)
    (hu : u = { (s.toTbs (c * 64 + tap)) with tdc := { (s.toTbs (c * 64 + tap)).tdc with
      pulses := Sp.del (s.toTbs (c * 64 + tap)).tdc.pulses n } }) (peak : Nat) (clamp : Bool) :
    exec (.returnTrailingEdge n c tap peak clamp) s =
      if p.dead || p.written then .next (if clamp then u.setF (RFE_STAT n) RFE_STAT_OVLD 1 else u)
      else .next (u.finishPulse n p.lead (Nat.min 4095 (e - p.lead)) peak (decide (4095 ≤ e - p.lead)) clamp) := by
  subst hu he
  change execReturnTrailingEdge n c tap peak clamp s = _
  rw [execReturnTrailingEdge, hp]

theorem exec_totSaturation {n : Nat} {p : Pulse} (hp : s.pulse n = some p) (hd : p.dead = false) (hw : p.written = false)
    (hu : u = s.toTbs (p.lead + 4095)) (peak : Nat) (clamp : Bool) :
    exec (.totSaturation n peak clamp) s = .next
      (State.finishPulse { u with tdc := { u.tdc with pulses := Sp.ins u.tdc.pulses n { p with written := true } } } n p.lead 4095 peak
        true clamp) := by
  subst hu
  change execTotSaturation n peak clamp s = _
  rw [execTotSaturation, hp]
  exact if_neg (by rw [hd, hw]; decide)

theorem exec_rgndFault {g : Nat} {present : Bool} {others : List Nat} (hon : s.inputOn (4 * g) = true)
    (hothers : others = s.tdc.rgnd.filter (· ≠ g))
    (hu : u = { s with tdc := { s.tdc with rgnd := if present then insertNat g others else others } }) :
    exec (.rgndFault g present) s = .next (if present && u.groupWatched g
      then u.forEach (List.range 4) (fun s i => s.setF (RFE_STAT (4 * g + i)) RFE_STAT_RGND_SEEN 1) else u) := by
  subst hothers hu
  change execRgndFault g present s = _
  rw [execRgndFault, if_neg (by rw [hon]; decide)]
  exact (apply_ite Host.Outcome.next _ _ _).symm

theorem exec_dllUnlock {q : Nat} (hq : q < 4) (hon : s.domOn (6 + q) = true)
    (hu : u = s.setF TDC_STATUS TDC_STATUS_DLL_LOCK (s.f TDC_STATUS TDC_STATUS_DLL_LOCK &&& (15 - 2 ^ q))) :
    exec (.dllUnlock q) s = .next (u.setF TDC_STATUS TDC_STATUS_DLL_UNLOCK (u.f TDC_STATUS TDC_STATUS_DLL_UNLOCK ||| 2 ^ q)) := by
  have hact : ¬ (4 ≤ q ∨ (!s.domOn (6 + q)) = true) := by
    rw [hon]
    simpa using hq
  subst hu
  exact if_neg hact

theorem exec_dllLockReturn {q : Nat} (hq : q < 4) (hon : s.domOn (6 + q) = true) (hpll : s.pllT = true) :
    exec (.dllLockReturn q) s = .next
      (s.setF TDC_STATUS TDC_STATUS_DLL_LOCK (s.f TDC_STATUS TDC_STATUS_DLL_LOCK ||| 2 ^ q)) := by
  have hact : ¬ (4 ≤ q ∨ (!s.domOn (6 + q)) = true ∨ (!s.pllT) = true) := by
    rw [hon, hpll]
    simpa using hq
  exact if_neg hact

theorem exec_tpiPeriodicTrigger (hon : s.tpiOn = true) (hsrc : s.fb TDC_TPI_CTRL TDC_TPI_CTRL_SRC = true)
    (hper : s.f TDC_TPI_CTRL TDC_TPI_CTRL_PERIOD ≠ 0) (hcal : s.cal.run = none) : exec .tpiPeriodicTrigger s = .next s.tpiTrigger :=
  if_pos (by rw [hon, hsrc, bne_iff_ne.2 hper, hcal]; rfl)

/-- Settles O28, by the happenings of the return inputs. -/
theorem returnInputs : Obligations.ReturnInputs := by
  unfold Obligations.ReturnInputs
  intro s u n c tap
  refine ⟨fun t hlive hp hu ht => ⟨fun l hl hnear x hx => exec_returnLeadingEdge_dead hlive hp hu ht hl hnear hx, fun hfar =>
      ⟨_, exec_returnLeadingEdge_opens hlive hp hu ht hfar, rfl, rfl, rfl, rfl, rfl⟩⟩,
    fun p hp => exec_returnLeadingEdge_of_pulse hp c tap, fun p t peak clamp hp ht hu => ⟨fun hd hw => ?_, fun hdone => ?_⟩,
    fun p peak clamp hp hd hw hu => exec_totSaturation hp hd hw hu peak clamp,
    fun g present others hon hothers hu => exec_rgndFault hon hothers hu, fun q hq hon hu => exec_dllUnlock hq hon hu,
    fun q => exec_dllLockReturn, exec_tpiPeriodicTrigger, fun t recent inj hat hu hrec hinj => ?_⟩
  · rw [exec_returnTrailingEdge hp ht hu, hd, hw]
    rfl
  · have hskip : (p.dead || p.written) = true := by rwa [Bool.or_eq_true]
    rw [exec_returnTrailingEdge hp ht hu, if_pos hskip]
  · subst hinj hrec hu
    change execTestPulseInjection s = _
    rw [execTestPulseInjection, hat]

/-! ### Fire references (R99–R102, R322) -/

section
variable {k : Nat} {w : FWin}

theorem exec_frefEdge {c tap tot raw e : Nat} {ws : List FWin} (hraw : raw = s.edgeTime s.frefCdWords c tap)
    (hw : s.tdc.windows.find? (fun w => w.k = k ∧ w.first ≤ raw ∧ raw ≤ w.last) = some w) (hhit : w.hit = none)
    (hmode : s.frefMode k ≠ 0) (hu : u = s.toTbs (c * 64 + tap))
    (he : e = tbs64 (raw - u.walk u.frefWalkWords (Nat.min 4095 tot) - sx 16 (u.ef (TDC_FREF_DLY k) TDC_FREF_DLY_PATH)))
    (hws : ws = u.tdc.windows.map (fun (x : FWin) => if x = w then { x with hit := some (e, Nat.min 4095 tot) } else x))
    (hv : v = { u with tdc := { u.tdc with windows := ws, missRun := Sp.put (fun _ => 0) u.tdc.missRun k 0 } })
    (ht : t = ((v.wr64 (TDC_FREF_LAST_LO k) (TDC_FREF_LAST_HI k) e).setF (TDC_FREF_STAT k) TDC_FREF_STAT_LAST_TOT (Nat.min 4095 tot)).setF
      (TDC_FREF_AVG k) TDC_FREF_AVG_AVG (avgNext
        (((v.wr64 (TDC_FREF_LAST_LO k) (TDC_FREF_LAST_HI k) e).setF (TDC_FREF_STAT k) TDC_FREF_STAT_LAST_TOT (Nat.min 4095 tot)).f
          (TDC_FREF_AVG k) TDC_FREF_AVG_AVG) ((e : Int) - w.edge))) :
    exec (.frefEdge k c tap tot) s = .next
      (if t.esf.armed && bits (t.rd ESF_FREF_LIM).toNat (8 * k) 8 != 0
          && decide (bits (t.rd ESF_FREF_LIM).toNat (8 * k) 8 * 16 < Nat.min 4095 tot)
        then t.latch [10] else t) := by
  subst ht hv hws he hu hraw
  change execFrefEdge k c tap tot s = _
  rw [execFrefEdge, hw]
  exact if_neg (by rw [hhit, beq_false_of_ne hmode]; decide)

section
variable {h : Shot} (hw : s.tdc.windows.find? (fun w => w.k = k) = some w) (hu : u = s.toTbs w.last)
  (hv : v = { u with tdc := { u.tdc with windows := u.tdc.windows.erase w } })
  (hshot : v.fir.shots.find? (fun h => h.serial = w.serial ∧ h.ix = w.ix) = some h)
include hw hu hv hshot

theorem exec_frefWindowClose_nominal (hmode : v.frefMode k = 0) :
    exec (.frefWindowClose k) s = .next
      (if w.primary then v.passRecord h (w.edge + v.ef (TDC_FREF_DLY k) TDC_FREF_DLY_NOMINAL) 0 false else v) := by
  subst hv hu
  change execFrefWindowClose k s = _
  rw [execFrefWindowClose, hw]
  simp only [hshot, if_pos hmode]

theorem exec_frefWindowClose_hit {e tot : Nat} (hmode : v.frefMode k ≠ 0) (hhit : w.hit = some (e, tot)) :
    exec (.frefWindowClose k) s = .next ((if w.primary then v.passRecord h e tot false else v).tallySkew h (some e)) := by
  subst hv hu
  change execFrefWindowClose k s = _
  rw [execFrefWindowClose, hw]
  simp only [hshot, if_neg hmode, hhit]

theorem exec_frefWindowClose_miss {run : Nat} {x y : State} (hmode : v.frefMode k ≠ 0) (hhit : w.hit = none)
    (hrun : run = Sp.get (fun _ => 0) v.tdc.missRun k + 1) (hx : x = v.addSat (TDC_FREF_STAT k) TDC_FREF_STAT_MISS 1)
    (hy : y = if 16 ≤ run then State.setF { x with tdc := { x.tdc with missRun := Sp.put (fun _ => 0) x.tdc.missRun k run } }
        (TDC_FREF_STAT k) TDC_FREF_STAT_LOST 1
      else { x with tdc := { x.tdc with missRun := Sp.put (fun _ => 0) x.tdc.missRun k run } }) :
    exec (.frefWindowClose k) s = .next
      ((((if w.primary then y.passRecord h (w.edge + y.f (TDC_FREF_AVG k) TDC_FREF_AVG_AVG / 16) 0 true else y).postCharge h k).tallySkew
        h none).noteConds u) := by
  subst hy hx hrun hv hu
  change execFrefWindowClose k s = _
  rw [execFrefWindowClose, hw]
  simp only [hshot, if_neg hmode, hhit]

end
end

/-- Settles O29: the edge that hits a window, and the window's close by the mode of its reference. -/
theorem fireReferences : Obligations.FireReferences := by
  unfold Obligations.FireReferences
  intro s u v k w
  exact ⟨fun c tap tot raw t ws hraw hw hhit hmode hu ht hws hv => ⟨_, rfl, exec_frefEdge hraw hw hhit hmode hu ht hws hv rfl⟩,
    fun h hw hu hv hshot => ⟨exec_frefWindowClose_nominal hw hu hv hshot,
      fun t tot hmode hhit => exec_frefWindowClose_hit hw hu hv hshot hmode hhit,
      fun run x y hmode hhit hrun hx hy => exec_frefWindowClose_miss hw hu hv hshot hmode hhit hrun hx hy⟩⟩

end Sys2Proof
end


section
/-! The Tumbler (O30). -/

namespace Sys2Proof

open Machine Machine.Reg

variable {s t u v x y z : State}

section
variable {n : Nat} {e : Ev} {rest : List Ev} (hfifo : Sp.get (fun _ => []) s.tdc.fifo n = e :: rest) (hon : s.inputOn n = true)
  (hu : u = s.at_ (match Sp.find s.tdc.taken n with | some t => t + 256 | none => 0))
  (hv : v = { u with tdc := { u.tdc with fifo := Sp.put (fun _ => []) u.tdc.fifo n rest, taken := Sp.ins u.tdc.taken n u.tm.now } })
include hfifo hon hu hv

/-- An event that leaves its input's FIFO passes a bypassed group, is rejected for its ToT, or joins the group's pool. -/
theorem exec_tumblerEventEntry : exec (.tumblerEventEntry n) s = .next
    (if v.bypass (n / 4) then v.emit { e with hits := 1 }
      else if e.tot < v.ef (TMB_GRP_CFG (n / 4)) TMB_GRP_CFG_TOT_MIN then v.addWrap (TMB_CNT_TOTREJ n) TMB_CNT_TOTREJ_TOTREJ 1
      else v.setPool (n / 4) (v.pool (n / 4) ++ [{ ev := e, entry := v.tm.now }])) := by
  subst hv hu
  change execTumblerEventEntry n s = _
  rw [execTumblerEventEntry, hfifo]
  exact if_neg (by rw [hon]; decide)

end

section
variable {p w : Nat} {mine : List TEv} {c : TEv} {ps : List TEv} (hw : w = s.coWin (p / 4))
  (hmine : mine = (s.pool (p / 4)).filter (fun x => s.primary x.ev.chan = p)) (hc : mine.find? (fun x => !x.decided) = some c)
  (hu : u = s.at_ (c.entry + w + 256))
  (hv : v = if (match Sp.find u.tmb.prevCand p with | some t => decide (c.ev.time < t) | none => false)
    then u.addSat (TMB_GRP_ORDER (p / 4)) TMB_GRP_ORDER_ORDER 1 else u)
  (hx : x = { v with tmb := { v.tmb with prevCand := Sp.ins v.tmb.prevCand p c.ev.time } })
  (hps : ps = (((List.range (x.grpWidth (p / 4))).map (p + ·)).filter (· ≠ c.ev.chan)).filterMap
    (partnerOf mine (c.entry + w + 256) c.ev.time w))
include hw hmine hc hu hv hx hps

theorem exec_coincidenceDecision_unmet (hk : 1 + ps.length < x.demand p) :
    exec (.coincidenceDecision p) s = .next
      (x.setPool (p / 4) ((x.pool (p / 4)).map (fun y => if y = c then { y with decided := true } else y))) := by
  subst hmine hps hx hv hu hw
  change execCoincidenceDecision p s = _
  rw [execCoincidenceDecision, hc]
  exact if_neg (Nat.not_le.2 hk)

section
variable (hk : x.demand p ≤ 1 + ps.length) (hy : y = x.setPool (p / 4) (poolWithout (x.pool (p / 4)) (c :: ps)))
include hk hy

/-- A demand that is met takes the event and its partners out of the pool; they are given out, or rejected where the last output of the
macropixel is less than 4 ns ago. -/
theorem exec_coincidenceDecision_met : exec (.coincidenceDecision p) s =
    if (match Sp.find y.tmb.lastOut p with | some t => decide (y.tm.now < t + 256) | none => false) then
      .next (y.forEach (c :: ps) (fun s z => s.reject z.ev.chan))
    else .next (State.emit { y with tmb := { y.tmb with lastOut := Sp.ins y.tmb.lastOut p y.tm.now } }
      (acceptedEvent p (x.demand p) (y.efb (TMB_GRP_CFG (p / 4)) TMB_GRP_CFG_TSEL) c.ev (ps.map (·.ev)))) := by
  subst hy hmine hps hx hv hu hw
  change execCoincidenceDecision p s = _
  rw [execCoincidenceDecision, hc]
  exact if_pos hk

theorem exec_coincidenceDecision_late {e : Nat} (he : Sp.find y.tmb.lastOut p = some e) (hlate : y.tm.now < e + 256) :
    exec (.coincidenceDecision p) s = .next (y.forEach (c :: ps) (fun s z => s.reject z.ev.chan)) := by
  rw [exec_coincidenceDecision_met hw hmine hc hu hv hx hps hk hy, he]
  exact if_pos (decide_eq_true hlate)

theorem exec_coincidenceDecision_accepts (hfree : ∀ e, Sp.find y.tmb.lastOut p = some e → e + 256 ≤ y.tm.now)
    (hz : z = { y with tmb := { y.tmb with lastOut := Sp.ins y.tmb.lastOut p y.tm.now } }) :
    exec (.coincidenceDecision p) s = .next
      (z.emit (acceptedEvent p (x.demand p) (z.efb (TMB_GRP_CFG (p / 4)) TMB_GRP_CFG_TSEL) c.ev (ps.map (·.ev)))) := by
  rw [exec_coincidenceDecision_met hw hmine hc hu hv hx hps hk hy, hz]
  refine if_neg (ne_true_of_eq_false ?_)
  cases he : Sp.find y.tmb.lastOut p with
  | none => rfl
  | some e => exact decide_eq_false (Nat.not_lt.2 (hfree e he))

end
end

theorem exec_candidateExpiry {p : Nat} {c : TEv}
    (hc : (s.pool (p / 4)).find? (fun x => s.primary x.ev.chan = p ∧ x.decided) = some c)
    (hu : u = s.at_ (c.entry + 2 * s.coWin (p / 4) + 512)) :
    exec (.candidateExpiry p) s = .next ((u.setPool (p / 4) ((u.pool (p / 4)).erase c)).reject c.ev.chan) := by
  subst hu
  change execCandidateExpiry p s = _
  rw [execCandidateExpiry, hc]

theorem exec_darkGateEnd {e len : Nat} {stolen : Bool} (hgate : s.tmb.gate = some (e, len, stolen))
    (hu : u = { (s.toTbs e) with tmb := { (s.toTbs e).tmb with gate := none } }) :
    exec .darkGateEnd s = .next (if stolen then u else u.forEach u.groupsOn (fun s g => s.gateGroup e len g)) := by
  subst hu
  change execDarkGateEnd s = _
  rw [execDarkGateEnd, hgate]

theorem exec_freeRunGate {len next : Nat} (hscan : s.dev ≠ .scanning) (hoff : s.dev ≠ .off) (hboot : s.dev ≠ .boot)
    (hfree : s.fb TMB_CTRL TMB_CTRL_FREE_RUN = true) (hu : u = s.at_ s.tmb.freeAt)
    (hlen : len = Nat.min (Nat.max 4 (u.ef TMB_AMB_CTRL TMB_AMB_CTRL_DG_LEN) * 16) 1008)
    (hnext : next = u.tm.now + Nat.max 1 (u.f TMB_CTRL TMB_CTRL_FREE_PERIOD) * tickUs) :
    exec .freeRunGate s = .next { u with tmb := { u.tmb with gate := some (u.tbs + len * 64, len, false), freeAt := next } } := by
  have hgo : ¬ (s.scanning || s.dev == .off || s.dev == .boot || !s.fb TMB_CTRL TMB_CTRL_FREE_RUN) = true := by
    rw [State.scanning_eq_false.2 hscan, beq_false_of_ne hoff, beq_false_of_ne hboot, hfree]
    decide
  subst hnext hlen hu
  exact if_neg hgo

/-- Settles O30, by the Tumbler's happenings. -/
theorem tumblerHappenings : Obligations.TumblerHappenings := by
  unfold Obligations.TumblerHappenings
  intro s u v
  refine ⟨fun n e rest hfifo hon hu hv => ?_, fun p g w mine c ps x hg hw hmine hc hu hv hx hps => ?_,
    fun p g c hg hc hu => by subst hg; exact exec_candidateExpiry hc hu, fun t len stolen hgate hu => exec_darkGateEnd hgate hu,
    fun len next hscan hoff hboot hfree hu hlen hnext => exec_freeRunGate hscan hoff hboot hfree hu hlen hnext⟩
  · have hentry := exec_tumblerEventEntry hfifo hon hu hv
    refine ⟨fun hby => ?_, fun hby htot => ?_, fun hby htot => ?_⟩ <;> rw [hentry, hby]
    · rfl
    · rw [if_neg Bool.false_ne_true, if_pos htot]
    · rw [if_neg Bool.false_ne_true, if_neg (Nat.not_lt.2 htot)]
  · subst hg
    exact ⟨exec_coincidenceDecision_unmet hw hmine hc hu hv hx hps, fun y hk hy =>
      ⟨fun e he hlate => exec_coincidenceDecision_late hw hmine hc hu hv hx hps hk hy he hlate,
        fun z hfree hz => exec_coincidenceDecision_accepts hw hmine hc hu hv hx hps hk hy hfree hz⟩⟩

end Sys2Proof
end


section
/-! The course of a frame (O31), and its shots and column closes (O32). -/

namespace Sys2Proof

open Machine Machine.Reg

variable {s t u v w x : State}

/-! ### Frames (R137, R140–R143, R151–R153, R167) -/

theorem exec_frameStartEvent_of_event {src e : Nat} {rest : List (Nat × Nat)} (h : s.fir.events = (src, e) :: rest)
    (hu : u = { s with fir := { s.fir with events := rest } }) :
    exec .frameStartEvent s = .next (if s.scanning then u.meetEvent e else u) := by
  subst hu
  change execFrameStartEvent s = _
  rw [execFrameStartEvent, h]
  rfl

theorem exec_frameStartEvent_byItself {e : Nat} (hev : s.fir.events = []) (hscan : s.scanning = true) (hsrc : s.fsrc = 0)
    (hopen : s.fir.frameOpen = false) (hgo : s.fir.go = none)
    (he : e = match s.fir.frameEnd with | some e => e + s.gapMin * tickUs | none => s.fir.entered) (hu : u = s.at_ e) :
    exec .frameStartEvent s = .next (u.meetEvent u.tbs) := by
  subst hu he
  change execFrameStartEvent s = _
  rw [execFrameStartEvent, hev]
  exact if_pos (by rw [hscan, hsrc, hopen, hgo]; rfl)

theorem exec_frameStart {e : Nat} (hgo : s.fir.go = some e) (hscan : s.scanning = true) (hopen : s.fir.frameOpen = false) :
    exec .frameStart s = .next ((s.toTbs e).startFrame e) := by
  change execFrameStart s = _
  rw [execFrameStart, hgo]
  exact if_neg (by rw [hscan, hopen]; decide)

/-- Where a column of a frame by periods starts: after the last column, or after the frame's start and the reservoir's charge. -/
theorem columnStart_place {start : Nat} (hstart : start = grid (match s.fir.prevStart with
      | some (a, p) => a + p | none => Nat.max (s.rd64 FIR_FSTART_LO FIR_FSTART_HI) s.fir.chargedAt)) :
    (∃ a p, s.fir.prevStart = some (a, p) ∧ start = grid (a + p)) ∨
      (s.fir.prevStart = none ∧ start = grid (Nat.max (s.rd64 FIR_FSTART_LO FIR_FSTART_HI) s.fir.chargedAt)) := by
  subst hstart
  cases s.fir.prevStart with
  | none => exact .inr ⟨rfl, rfl⟩
  | some ap => exact .inl ⟨ap.1, ap.2, rfl, rfl⟩

section
variable {e : WarpEntry} {ix n start : Nat} (hix : ix = s.fir.nextEntry) (hscan : s.scanning = true) (hopen : s.fir.frameOpen = true)
  (hcol : s.fir.column = none) (hhold : s.fir.holding = false) (hch : s.esf.charging = false) (hclear : s.esf.histClear = false)
  (hlt : ix < s.columns) (hmode : s.efb FIR_SEQ FIR_SEQ_CMODE = false) (he : e = s.active ix)
  (hstart : start = grid (match s.fir.prevStart with
    | some (a, p) => a + p | none => Nat.max (s.rd64 FIR_FSTART_LO FIR_FSTART_HI) s.fir.chargedAt))
  (hu : u = s.toTbs start) (hn : n = u.shotsOf e (u.activeNext ix) ix)
include hix hscan hopen hcol hhold hch hclear hlt

/-- Nothing keeps the next column of an open frame from starting. -/
theorem columnStart_due : ¬ (!s.scanning || !s.fir.frameOpen || s.fir.column.isSome || s.fir.holding || s.esf.charging || s.esf.histClear
    || decide (s.columns ≤ s.fir.nextEntry)) = true := by
  rw [hscan, hopen, hcol, hhold, hch, hclear, ← hix, decide_eq_false (Nat.not_le.2 hlt)]
  decide

include hmode he hstart hu hn

theorem exec_columnStart_blank (h0 : n = 0) (c : Nat) : exec (.columnStart c) s = .next (u.nextColumn start (e.period * 640)) := by
  change execColumnStart c s = _
  rw [execColumnStart, if_neg (columnStart_due hix hscan hopen hcol hhold hch hclear hlt)]
  rcases columnStart_place hstart with ⟨a, p, hprev, hplace⟩ | ⟨hprev, hplace⟩ <;>
    simp only [hmode, hprev, Bool.false_and, Bool.false_eq_true, if_false, ← hix, ← he, ← hplace, ← hu, ← hn, if_pos h0]

theorem exec_columnStart_waits (h0 : n ≠ 0) (hset : u.setState u.hge.nextSet ≠ 0) (c : Nat) :
    exec (.columnStart c) s = .next { u with fir := { u.fir with waited := true } } := by
  change execColumnStart c s = _
  rw [execColumnStart, if_neg (columnStart_due hix hscan hopen hcol hhold hch hclear hlt)]
  rcases columnStart_place hstart with ⟨a, p, hprev, hplace⟩ | ⟨hprev, hplace⟩ <;>
    simp only [hmode, hprev, Bool.false_and, Bool.false_eq_true, if_false, ← hix, ← he, ← hplace, ← hu, ← hn, if_neg h0, if_pos hset]

theorem exec_columnStart_fires (h0 : n ≠ 0) (hset : u.setState u.hge.nextSet = 0) (hsteal : u.steal e n = (false, false, u))
    (hwait : u.fir.waited = false) (c : Nat) :
    ∃ x c', exec (.columnStart c) s = .next x ∧ x.fir.column = some c' ∧ x.fir.anyFired = true ∧ x.fir.serial = u.fir.serial + 1 ∧
      x.hge.nextSet = 1 - u.hge.nextSet ∧ c'.entry = ix ∧ c'.start = start ∧ c'.period = e.period * 640 ∧ c'.shots = n ∧
      c'.coarse = coarseOf e n ∧ c'.set = u.hge.nextSet ∧ c'.stolen = false ∧ c'.silent = false ∧ c'.fired = 0 := by
  change ∃ x c', execColumnStart c s = .next x ∧ _
  rw [execColumnStart, if_neg (columnStart_due hix hscan hopen hcol hhold hch hclear hlt)]
  rcases columnStart_place hstart with ⟨a, p, hprev, hplace⟩ | ⟨hprev, hplace⟩ <;>
    simp only [hmode, hprev, Bool.false_and, Bool.false_eq_true, if_false, ← hix, ← he, ← hplace, ← hu, ← hn, if_neg h0, hsteal,
      if_neg (not_not_intro hset), hwait] <;>
    refine ⟨_, _, rfl, rfl, rfl, ?_, rfl, rfl, rfl, rfl, rfl, rfl, rfl, rfl, rfl, rfl⟩ <;>
    simp only [State.setF_fir, apply_ite State.fir, State.addSat_fir, ite_self]

end

theorem exec_allocation_of_member (h : s.isMember = true) :
    exec .allocation s = .next { s with fir := { s.fir with allocDue := false } } :=
  if_pos h

theorem exec_allocation_of_head (h : s.isMember = false) (hu : u = if s.fir.allocDue then s.allocate else s) :
    exec .allocation s = .next (if (s.fir.allocDue || u.cas.due) && u.scanning then u.sendFrame else u) := by
  subst hu
  exact if_neg (by rw [h]; decide)

theorem exec_frameEnd (hscan : s.scanning = true) (hopen : s.fir.frameOpen = true) (hcol : s.fir.column = none)
    (hclosing : s.fir.closing = []) (hany : s.fir.anyFired = true) (hrest : s.restBlank s.fir.nextEntry = true)
    (hu : u = s.endFrame.setF FIR_COL FIR_COL_PHASE 4) :
    exec .frameEnd s = .next (if u.drained then u.allocMoment.closeMsg false else u).startGap := by
  subst hu
  change execFrameEnd s = _
  rw [execFrameEnd, if_neg (by rw [hscan, hopen, hcol, hclosing]; decide)]
  simp only [hany, hrest, if_true, Bool.not_true, Bool.false_eq_true, if_false]

/-- Settles O31, by the happenings of a frame's course. -/
theorem frameCourse : Obligations.FrameCourse := by
  unfold Obligations.FrameCourse
  intro s u
  refine ⟨fun src t rest h hu => exec_frameStartEvent_of_event h hu,
    fun t hev hscan hsrc hopen hgo ht hu => exec_frameStartEvent_byItself hev hscan hsrc hopen hgo ht hu,
    fun t0 t1 x cur m hsched hx hcur hm hu => ?_, fun t => exec_frameStart,
    fun t ix e n start hix hscan hopen hcol hhold hch hclear hlt hmode he hstart hu hn =>
      ⟨fun h0 => exec_columnStart_blank hix hscan hopen hcol hhold hch hclear hlt hmode he hstart hu hn h0 t,
        fun h0 hset => exec_columnStart_waits hix hscan hopen hcol hhold hch hclear hlt hmode he hstart hu hn h0 hset t,
        fun h0 hset hsteal hwait =>
          exec_columnStart_fires hix hscan hopen hcol hhold hch hclear hlt hmode he hstart hu hn h0 hset hsteal hwait t⟩,
    exec_allocation_of_member, exec_allocation_of_head, exec_frameEnd⟩
  subst hu hm hcur hx
  change execScheduleSlot s = _
  rw [execScheduleSlot, hsched]

/-! ### Shots and column closes (R18, R125, R129, R139, R148, R151, R170, R320) -/

section
variable {c : Column}

/-- The next shot of the firing column: it trips EXPOSURE where its charge is over a limit, and is fired otherwise. -/
theorem exec_shotFire {lf d mask e1 e2 az : Nat} {segs : List (Nat × Nat)} {h : Shot} (hcol : s.fir.column = some c)
    (hscan : s.scanning = true) (hu : u = if c.fired = 0 then s.releaseColumn else s) (hlf : lf = lfsrSteps 11 c.lfsr)
    (hd : d = ditherOf c.dspan lf) (hmask : mask = u.shotMask c) (he1 : e1 = c.start + (c.fired * c.interval + d) * 32)
    (he2 : e2 = match u.fir.prevEdge with | some p => p + iMin mask * 32 | none => 0) (hv : v = u.toTbs (Nat.max e1 e2))
    (haz : az = v.azAt (Nat.max e1 e2) (v.active c.entry).az) (hsegs : segs = v.firing mask c.pset)
    (hw : w = if e1 < e2 then v.addSat FIR_CNT_A FIR_CNT_A_SPACE 1 else v)
    (hh : h = { serial := c.serial, set := c.set, ix := c.fired, dither := d, segmask := mask, edge := Nat.max e1 e2, fire := 0,
                zoom := decide (c.coarse ≤ c.fired), entry := c.entry, width := segs, sector := az / 2 ^ 14 }) :
    exec .shotFire s = if v.overCharge (az / 2 ^ 14) segs then .next (v.latch [4])
      else .next (((w.fireShot c h).afterShot { c with lfsr := lf, fired := c.fired + 1 }).noteConds v) := by
  subst hh hw hsegs haz hv he2 he1 hmask hd hlf hu
  change execShotFire s = _
  rw [execShotFire, hcol]
  exact if_neg (by rw [hscan]; decide)

theorem exec_columnClose {rest : List Column} {d : Column} {shots : List Shot} (hcl : s.fir.closing = c :: rest)
    (hwin : s.tdc.windows.any (fun w => w.serial = c.serial) = false) (hu : u = s.toTbs (s.closeAt c))
    (hd : d = { u.shotSummary c with amb := (u.liveChannels.map (fun n => (n, u.ambient n))).filter (fun y => y.2 ≠ 0),
                                     windowEnd := u.tbs, shots := c.fired })
    (hshots : shots = (u.fir.shots.map (fun (h : Shot) => if h.serial = d.serial then { h with closed := true } else h)).filter
      (fun h => !h.closed || decide (u.tbs < h.edge + 2097152)))
    (hv : v = State.setF { u with fir := { u.fir with closing := rest, lastClose := u.tbs, shots := shots } } FIR_LAST_FOLD
      FIR_LAST_FOLD_FOLD d.fold)
    (hx : x = { (v.putSet d.set 2) with hge := { (v.putSet d.set 2).hge with descs := Sp.ins (v.putSet d.set 2).hge.descs d.set d } }) :
    exec .columnClose s = .next (x.forEach x.liveChannels (fun s n =>
      if bit (s.rflags d.set n) 0 then s.addSat (HGE_CH_STAT n) HGE_CH_STAT_SAT_COLS 1 else s)) := by
  subst hx hv hshots hd hu
  change execColumnClose s = _
  rw [execColumnClose, hcl]
  exact if_neg (ne_true_of_eq_false hwin)

end

/-- Settles O32: a shot by its charge, and the close of the oldest fired column. -/
theorem shotsAndColumnClose : Obligations.ShotsAndColumnClose := by
  unfold Obligations.ShotsAndColumnClose
  intro s u v c
  refine ⟨fun lf d mask e1 e2 az segs hcol hscan hu hlf hd hmask he1 he2 hv haz hsegs => ⟨fun hover => ?_, fun h w hover hw hh => ?_⟩,
    fun rest d x shots hcl hwin hu hd hshots hv hx => exec_columnClose hcl hwin hu hd hshots hv hx⟩
  · rw [exec_shotFire hcol hscan hu hlf hd hmask he1 he2 hv haz hsegs rfl rfl, if_pos hover]
  · rw [exec_shotFire hcol hscan hu hlf hd hmask he1 he2 hv haz hsegs hw hh, if_neg (ne_true_of_eq_false hover)]

end Sys2Proof
end


section
/-! The histogram engine and extraction (O33), the safety inputs (O34), the switch walk (O35) and the zones (O36). -/

namespace Sys2Proof

open Machine Machine.Reg

variable {s t u v : State}

/-! ### Histogram engine and extraction (R157–R163, R166, R168, R174, R183, R206, R207) -/

theorem exec_eventBinning {q e : Nat} {ev : Ev} {rest : List Ev} (hfifo : s.bankFifo q = ev :: rest) (hu : u = s.at_ e) :
    exec (.eventBinning q e) s = if u.held157 ev then .next u
      else if State.admits { u with hge := { u.hge with fifo := Sp.put (fun _ => []) u.hge.fifo q rest } } ev.chan then
        .next ((State.charge1 { u with hge := { u.hge with fifo := Sp.put (fun _ => []) u.hge.fifo q rest } } ev.chan).binEvent ev)
      else .next (State.addWrap { u with hge := { u.hge with fifo := Sp.put (fun _ => []) u.hge.fifo q rest } } (HGE_CH_RATE ev.chan)
        HGE_CH_RATE_RATE 1) := by
  subst hu
  change execEventBinning q e s = _
  rw [execEventBinning, hfifo]

theorem exec_zoomPlacement {c : Column} {n : Nat} (hc : s.toPlace = some c) (hn : n = Nat.min 4 (s.ef HGE_ZOOM HGE_ZOOM_NWIN))
    (hu : u = (s.forEach s.liveChannels (fun s x => s.placeChannel c.set n x)).updColumn c.serial (fun c => { c with placed := true })) :
    exec .zoomPlacement s = .next { u with hge := { u.hge with tracks := Sp.drop (fun k => k / 512 == c.set) u.hge.tracks } } := by
  subst hu hn
  change execZoomPlacement s = _
  rw [execZoomPlacement, hc]

theorem exec_histogramClear (h : s.esf.histClear = true) (hu : u = s.clearMem 0x10000000 0x10C00000) :
    exec .histogramClear s = .next
      { u with esf := { u.esf with histClear := false }, hge := { u.hge with ecc := [], tracks := [] } } := by
  subst hu
  exact if_neg (by rw [h]; decide)

theorem exec_extractionScan {c : Column} (hc : s.nextScan = some c) (hbusy : s.ext.busy = none) (hon : s.domOn 10 = true) :
    exec .extractionScan s = .next (s.scanColumn c) := by
  change execExtractionScan s = _
  rw [execExtractionScan, hc]
  exact if_neg (by rw [hbusy, hon]; decide)

section
variable {set : Nat} {out : OutCol} (hbusy : s.ext.busy = some (set, out))
include hbusy

theorem exec_extractionEnd_frees (hroom : s.crossing < 1024) (hu : u = (s.putSet set 0).setF EXT_STATUS EXT_STATUS_BUSY 0)
    (hv : v = { u with ext := { busy := none, stalled := false, out := u.ext.out ++ [out] },
                       hge := { u.hge with descs := Sp.del u.hge.descs set } }) :
    exec .extractionEnd s = .next (if v.scanning then v else v.settleRetain) := by
  subst hv hu
  change execExtractionEnd s = _
  rw [execExtractionEnd, hbusy]
  exact if_neg (Nat.not_le.2 hroom)

theorem exec_extractionEnd_stalls (hfull : 1024 ≤ s.crossing)
    (hu : u = if s.ext.stalled then s else (s.setF EXT_STATUS EXT_STATUS_STALLED 1).addSat EXT_CNT_STALL EXT_CNT_STALL_STALLS 1) :
    exec .extractionEnd s = .next { u with ext := { u.ext with stalled := true } } := by
  subst hu
  change execExtractionEnd s = _
  rw [execExtractionEnd, hbusy]
  exact if_pos hfull

end

theorem exec_columnOutputComplete {o : OutCol} {rest : List OutCol} (ho : s.ext.out = o :: rest)
    (hu : u = State.lastColumn { s with ext := { s.ext with out := rest } } o)
    (hv : v = if o.usable then { u with fir := { u.fir with figures := Sp.ins u.fir.figures o.column (o.noecho, o.lowconf, o.far) } }
      else u)
    (ht : t = (v.forwardColumn o).packColumn o.header o.records) :
    exec .columnOutputComplete s = .next (if !t.fir.frameOpen && t.drained then t.frameOut else t) := by
  subst ht hv hu
  change execColumnOutputComplete s = _
  rw [execColumnOutputComplete, ho]

/-- Settles O33, by the happenings of the histogram engine and extraction. -/
theorem histogramAndExtraction : Obligations.HistogramAndExtraction := by
  unfold Obligations.HistogramAndExtraction
  intro s u
  refine ⟨fun q t e rest hfifo hu => ⟨fun hheld => ?_, fun v hheld hv => ?_⟩, fun c n hc hn hu => exec_zoomPlacement hc hn hu,
    exec_histogramClear, fun c => exec_extractionScan,
    fun set out hbusy hroom hu => ⟨_, rfl, exec_extractionEnd_frees hbusy hroom hu rfl⟩,
    fun set out hbusy hfull hu => exec_extractionEnd_stalls hbusy hfull hu,
    fun o rest ho hu => ⟨_, _, rfl, rfl, exec_columnOutputComplete ho hu rfl rfl⟩⟩
  · rw [exec_eventBinning hfifo hu, if_pos hheld]
  · rw [exec_eventBinning hfifo hu, if_neg (ne_true_of_eq_false hheld), ← hv]
    exact (apply_ite Host.Outcome.next _ _ _).symm

/-! ### Safety inputs (R304, R307, R309–R313, R316–R318, R321, R326, R327) -/

theorem exec_permitChange {a b : Bool} (hon : s.boot.off = false) (hu : u = { s with pin := { s.pin with permitA := a, permitB := b } })
    (hv : v = ((u.permitTest s.ptest).permitCompare).noteConds s) :
    exec (.permitChange a b) s = .next (if (s.pin.permitA && !a || s.pin.permitB && !b) && v.esf.armed then v.latch [1] else v) := by
  subst hv hu
  exact if_neg (ne_true_of_eq_false hon)

theorem exec_permitDiscrepancy {e : Nat} (hdiff : s.esf.diffSince = some e) (hdisc : s.fb ESF_IN ESF_IN_DISC = false)
    (hu : u = (s.at_ (e + s.f ESF_CTRL ESF_CTRL_DISC * tickMs)).setF ESF_IN ESF_IN_DISC 1) (hv : v = u.addSat ESF_CNT ESF_CNT_DISC 1) :
    exec .permitDiscrepancy s = .next (if v.esf.armed then v.latch [1] else v) := by
  subst hv hu
  change execPermitDiscrepancy s = _
  rw [execPermitDiscrepancy, hdiff]
  exact if_neg (ne_true_of_eq_false hdisc)

theorem exec_reservoirCharged {vres vmid : Int} {e : Nat} (hguard : s.esf.guard = some (vres, vmid, e)) (hscan : s.scanning = true)
    (hch : s.esf.charging = true) (hin : s.fir.entered ≤ e) (hres : s.resOn ≤ vres)
    (hu : u = { s with esf := { s.esf with charging := false, reservoir := true }, fir := { s.fir with chargedAt := s.tbs } }) :
    exec .reservoirCharged s = .next (u.setF ESF_WALK_STAT ESF_WALK_STAT_STEP 5) := by
  subst hu
  change execReservoirCharged s = _
  rw [execReservoirCharged, hguard]
  exact if_pos (by rw [hscan, hch, decide_eq_true hin, decide_eq_true hres]; rfl)

theorem exec_reservoirChargeTimeout (hscan : s.scanning = true) (hch : s.esf.charging = true)
    (hu : u = s.at_ (s.fir.entered + Nat.max 1 (s.f ESF_WALK_CFG ESF_WALK_CFG_T_C) * 100 * tickUs)) :
    exec .reservoirChargeTimeout s = .next (u.latch [9]) := by
  subst hu
  exact if_pos (by rw [hscan, hch]; rfl)

theorem exec_guardConversion {vres vmid : Int} (hrdy : s.refReady = true)
    (hu : u = (s.guardPair (result16 vres) (result16 vmid)).walkPair s.guardServes (result16 vres) (result16 vmid)) :
    exec (.guardConversion vres vmid) s = .next ((u.noteConds s).guardCheck (result16 vres) (result16 vmid)) := by
  subst hu
  exact if_neg (by rw [hrdy]; decide)

theorem exec_guardGap {vres vmid : Int} {e : Nat} (hguard : s.esf.guard = some (vres, vmid, e)) (harm : s.esf.armed = true) :
    exec .guardGap s = .next ((s.at_ (e + 25 * tickUs + 1)).latch [8]) := by
  change execGuardGap s = _
  rw [execGuardGap, hguard]
  exact if_pos harm

theorem exec_autoClear {code n : Nat} (hc : causeCond code = some n) (hl : s.latched code = true)
    (hb : bit (s.f ESF_CTRL ESF_CTRL_AUTOCLR) code = true) (hn : s.cond n = true)
    (hu : u = s.at_ (Nat.max (Sp.get (fun _ => 0) s.esf.causeAt code) (Sp.get (fun _ => 0) s.esf.condSince n)
      + Nat.max 1 (s.f ESF_CTRL ESF_CTRL_HOLDOFF) * tickMs)) :
    exec (.autoClear code) s = .next (u.unlatch [code]) := by
  subst hu
  change execAutoClear code s = _
  rw [execAutoClear, hc]
  exact if_pos (by rw [hl, hb, hn]; rfl)

theorem exec_exposureSubinterval {w n : Nat} (hw : w < 3) (hpll : s.pllT = true) (hn : n = (s.slot w + 1) % 17)
    (hu : u = { s with esf := { s.esf with slots := Sp.put (fun _ => 0) s.esf.slots w n
                                           charges := Sp.drop (fun k => k / 17 / 1024 == w && k % 17 == n) s.esf.charges } }) :
    exec (.exposureSubinterval w) s = .next (u.noteConds s) := by
  have hact : ¬ (3 ≤ w ∨ (!s.pllT) = true) := by
    rw [hpll]
    simpa using hw
  subst hu hn
  exact if_neg hact

/-- Settles O34, by the safety unit's happenings. -/
theorem safetyInputs : Obligations.SafetyInputs := by
  unfold Obligations.SafetyInputs
  intro s u v
  refine ⟨fun a b hon hu hv => ⟨fun hopens => ?_, fun hA hB => ?_⟩, fun t hdiff hdisc hu hv => exec_permitDiscrepancy hdiff hdisc hu hv,
    fun high hu => by subst hu; rfl, fun hu => by subst hu; rfl, rfl,
    fun vres vmid t hguard hscan hch hin hres hu => exec_reservoirCharged hguard hscan hch hin hres hu, exec_reservoirChargeTimeout,
    fun vres vmid => exec_guardConversion, fun vres vmid t => exec_guardGap, fun code n => exec_autoClear,
    fun w n => exec_exposureSubinterval, fun hrun hexp => if_neg (by rw [hrun, hexp]; decide),
    fun hrun => if_neg (by rw [hrun]; decide)⟩
  · have hfell : (s.pin.permitA && !a || s.pin.permitB && !b) = true := by
      rcases hopens with ⟨hp, ha⟩ | ⟨hp, hb⟩
      · rw [hp, ha]; rfl
      · rw [hp, hb]; exact Bool.or_true _
    rw [exec_permitChange hon hu hv, hfell, Bool.true_and]
  · have hnone : (s.pin.permitA && !a || s.pin.permitB && !b) = false := by
      rw [Bool.or_eq_false_iff]
      constructor
      · cases hp : s.pin.permitA with
        | false => rfl
        | true => rw [hA hp]; rfl
      · cases hp : s.pin.permitB with
        | false => rfl
        | true => rw [hB hp]; rfl
    rw [exec_permitChange hon hu hv, hnone]
    rfl

/-! ### The switch walk (R315, R316) -/

theorem exec_switchWalkStart (hd : s.dev = .primed) (hall : s.condAll = true) (hfail : s.esf.walkFailed = false)
    (hwalk : s.esf.walk = none) (hu : u = { s with esf := { s.esf with armed := true, histClear := true } }) :
    exec .switchWalkStart s = .next (u.walkStep { step := 1, asked := u.tm.now } false false) := by
  subst hu
  exact if_pos (by rw [hd, hall, hfail, hwalk]; rfl)

theorem exec_switchWalkStart_of_blocked (h : s.dev ≠ .primed ∨ s.condAll = false ∨ s.esf.walkFailed = true ∨ s.esf.walk ≠ none) :
    exec .switchWalkStart s = .next s := by
  refine if_neg ?_
  simp only [Bool.and_eq_true, beq_iff_eq, Bool.not_eq_true', Option.isNone_iff_eq_none, not_and]
  intro ⟨⟨hd, hall⟩, hfail⟩ hwalk
  rw [hall, hfail] at h
  simp [hd, hwalk] at h

/-- Settles O35: the walk's start, its steps and its guard timeout. -/
theorem switchWalk : Obligations.SwitchWalk := by
  unfold Obligations.SwitchWalk
  intro s u
  refine ⟨exec_switchWalkStart, exec_switchWalkStart_of_blocked, fun w vres vmid hwalk hpair => ?_, fun w hwalk hpair => ⟨?_, ?_⟩⟩
  · change execWalkStepEnd s = _
    rw [execWalkStepEnd, hwalk]
    simp only [hpair]
  · change execWalkStepEnd s = _
    rw [execWalkStepEnd, hwalk]
    simp only [hpair]
  · change execWalkGuardTimeout s = _
    rw [execWalkGuardTimeout, hwalk]
    exact if_neg (by rw [hpair]; decide)

/-! ### Zones (R331–R333, R337, R340, R360) -/

theorem exec_zoneEvaluation {frame : Nat} (hdue : s.zon.due = some frame) (hms : s.isMS = true) (hon : s.domOn 10 = true)
    (hcol : s.fir.column = none) (hclosing : s.fir.closing = []) (hdescs : s.hge.descs = []) (hbusy : s.ext.busy = none)
    (hout : s.ext.out = []) (disagree : Bool) :
    exec (.zoneEvaluation disagree) s = .next (s.evaluate frame disagree).safeSend := by
  change execZoneEvaluation disagree s = _
  rw [execZoneEvaluation, hdue]
  exact if_neg (by rw [hms, hon, hcol, hclosing, hdescs, hbusy, hout]; decide)

/-- Settles O36, by the zones' happenings. -/
theorem zoneHappenings : Obligations.ZoneHappenings := by
  unfold Obligations.ZoneHappenings
  intro s
  refine ⟨fun frame disagree hdue hms hon hcol hclosing hdescs hbusy hout =>
    exec_zoneEvaluation hdue hms hon hcol hclosing hdescs hbusy hout disagree, fun t h => ?_, fun t h => ?_, fun m h => ?_⟩
  · change execSafeReportPeriodic s = _
    rw [execSafeReportPeriodic, h]
  · change execZoneHoldExpiry s = _
    rw [execZoneHoldExpiry, h]
  · change execStreamMessageClose s = _
    rw [execStreamMessageClose, h]

end Sys2Proof
end


section
/-! The backbone ports (O37). -/

namespace Sys2Proof

open Machine Machine.Reg

variable {s u v : State} {port : Port}

/-! ### The backbone ports (R344, R345, R349–R354, R363, R365, R366, R386, R387) -/

theorem exec_linkUp {speed st : Nat} {both : Bool} (hst : st = ETHx_STATUS (portIx port)) (hon : s.domOn (portDom port) = true)
    (hen : s.fb (ETHx_CTRL (portIx port)) ETHx_CTRL_EN = true) (hrate : s.rate port ≠ 0) (hdown : s.fb st ETHx_STATUS_LINK = false)
    (hu : u = ((s.setF st ETHx_STATUS_SPEED (if s.lineMode port = 1 then Nat.min 2 speed else 0)).setF st ETHx_STATUS_LINK 1).raisePort
      port)
    (hboth : both = (u.prp && s.portUp (portOf (1 - portIx port)))) (hv : v = if both then u else u.addressUp port) :
    exec (.linkUp port speed) s = .next (if v.lldpOn port then v.sendLldp port (v.lldpTtl port) else v) := by
  subst hst hv hboth hu
  exact if_neg (by rw [hon, hen, beq_false_of_ne hrate, hdown]; decide)

theorem exec_frameTransmit (hup : s.portUp port = true)
    (hu : u = if (s.eth port).sending.isSome then (s.at_ (s.eth port).sendEnd).settleSend port else s) :
    (u.nextSend port = none → exec (.frameTransmit port) s = .next u) ∧
      (∀ e v, u.nextSend port = some e → v = u.at_ (u.tm.now + u.creditWait port e) →
        exec (.frameTransmit port) s = .next (if v.clearOfTimed port e then v.startSend port e else u)) := by
  have hexec : exec (.frameTransmit port) s = match u.nextSend port with
      | none => .next u
      | some e => if (u.at_ (u.tm.now + u.creditWait port e)).clearOfTimed port e
        then .next ((u.at_ (u.tm.now + u.creditWait port e)).startSend port e) else .next u := by
    subst hu
    exact if_neg (by rw [hup]; decide)
  refine ⟨fun hnone => by rw [hexec, hnone], fun e v hsome hv => ?_⟩
  rw [hexec, hsome, hv]
  exact (apply_ite Host.Outcome.next _ _ _).symm

theorem exec_timedLaunch {e : TxEntry} {due q : Nat} (hup : s.portUp port = true) (hnext : s.nextTimed port = some (e, due))
    (hcls : e.cls = .timed q)
    (hu : u = if (s.eth port).sending.isSome then ((s.at_ due).at_ (s.eth port).sendEnd).settleSend port else s.at_ due) :
    exec (.timedLaunch port) s = .next
      (u.launch port q e (e.late || (timedSending (s.eth port) && decide (due < (s.eth port).sendEnd)))) := by
  subst hu
  change execTimedLaunch port s = _
  rw [execTimedLaunch, if_neg (by rw [hup]; decide), hnext]
  simp only [hcls]

theorem exec_lldpTransmit (hon : s.lldpOn port = true)
    (hu : u = s.at_ ((s.eth port).lldpAt + Nat.max 1 (s.f (ETHx_LLDP_CFG (portIx port)) ETHx_LLDP_CFG_TX_INT) * tickS)) :
    exec (.lldpTransmit port) s = .next (u.sendLldp port (u.lldpTtl port)) := by
  subst hu
  exact if_neg (by rw [hon]; decide)

theorem exec_prpSupervision (hprp : s.prp = true) (hu : u = s.at_ ((s.tm.now / (2 * tickS) + 1) * (2 * tickS))) :
    exec .prpSupervision s = .next (u.sendPrp .A .mgmt 0x01154E000100 .prpSup 46 true id) := by
  subst hu
  exact if_neg (by rw [hprp]; decide)

/-- What an address that is found free, or in use, leaves: its flag, and its status bit. -/
theorem exec_duplicateAddressDetection {c : Port} {x : Eth} {linkLocal : Bool} (hc : c = s.cfgPort port) (hx : x = s.eth c)
    (hmem : x.dad.contains (if linkLocal then 0 else 1) = true) :
    (u = s.setEth c { x with dad := x.dad.erase (if linkLocal then 0 else 1), llaBad := if linkLocal then true else x.llaBad,
                             gBad := if linkLocal then x.gBad else true } →
      exec (.duplicateAddressDetection port linkLocal true) s = .next (u.setF (ETHx_STATUS (portIx c)) ETHx_STATUS_DAD_FAIL 1)) ∧
    (u = s.setEth c { x with dad := x.dad.erase (if linkLocal then 0 else 1), llaBad := if linkLocal then false else x.llaBad,
                             gBad := if linkLocal then x.gBad else false } →
      exec (.duplicateAddressDetection port linkLocal false) s = .next
        (u.setF (ETHx_STATUS (portIx c)) (if linkLocal then ETHx_STATUS_ADDR6_LL else ETHx_STATUS_ADDR6_G) 1)) := by
  subst hx hc
  have hgo : ¬ (!(s.eth (s.cfgPort port)).dad.contains (if linkLocal then 0 else 1)) = true := by
    rw [hmem]
    decide
  cases linkLocal with
  | false => exact ⟨fun hu => by subst hu; exact if_neg hgo, fun hu => by subst hu; exact if_neg hgo⟩
  | true => exact ⟨fun hu => by subst hu; exact if_neg hgo, fun hu => by subst hu; exact if_neg hgo⟩

/-- Settles O37, by the ports' happenings. -/
theorem portHappenings : Obligations.PortHappenings := by
  unfold Obligations.PortHappenings
  intro s u port
  refine ⟨fun speed st v w hst hon hen hrate hdown hu hv hw => exec_linkUp hst hon hen hrate hdown hu hv hw, fun hup => ?_, fun hdown => ?_, exec_frameTransmit,
    fun e t q hup hnext hcls hu => exec_timedLaunch hup hnext hcls hu, exec_lldpTransmit, fun e t h => ?_, exec_prpSupervision,
    fun frame => rfl, fun frame l h => ?_, fun c hc => ⟨fun h3 hu => ?_, fun h4 hu => ?_, fun h5 => ?_⟩,
    fun c x linkLocal hc hx hmem => exec_duplicateAddressDetection hc hx hmem, fun ip t rest h hu => ?_, fun e rest h hu => ?_⟩
  · change Host.Outcome.next (s.linkLost port) = _
    rw [State.linkLost, if_neg (by rw [hup]; decide)]
  · change Host.Outcome.next (s.linkLost port) = _
    rw [State.linkLost, if_pos (by rw [hdown]; rfl)]
  · change execNeighbourExpiry port e s = _
    rw [execNeighbourExpiry, h]
  · change execLldpduReceive port frame s = _
    rw [execLldpduReceive, h]
  · subst hu hc
    change execDhcpLeaseTimer port s = _
    simp only [execDhcpLeaseTimer, h3]
  · subst hu hc
    change execDhcpLeaseTimer port s = _
    simp only [execDhcpLeaseTimer, h4]
  · subst hc
    change execDhcpLeaseTimer port s = _
    simp only [execDhcpLeaseTimer, h5]
  · subst hu
    change execArpRetry port s = _
    simp only [execArpRetry, h]
  · subst hu
    change execArpEntryAgeOut port s = _
    simp only [execArpEntryAgeOut, h]

end Sys2Proof
end


section
/-! The time bases by themselves (O38), PTP (O39) and the DMA engine (O40). -/

namespace Sys2Proof

open Machine Machine.Reg

variable {s u v w : State}

/-! ### Time bases (R373, R374, R381, R388, R389) -/

/-- What the capture of a PPS edge makes of the time of the edge before it. -/
theorem exec_ppsInEdge {e : Nat} (hu : u = (s.toTbs e).capture 1 e) (hv : v = { u with tm := { u.tm with ppsLast := some e } }) :
    exec (.ppsInEdge e) s = match u.tm.ppsLast with
      | none => .next v
      | some l => if v.f TIM_TBS_DISC TIM_TBS_DISC_SRC = 3 ∧ 63936000000 ≤ e - l ∧ e - l ≤ 64064000000 then
          .next (v.freqSteer ((2 ^ 32 + v.tbsFreq) * 64000000000 / ((e - l : Nat) : Int) - 2 ^ 32))
        else .next v := by
  subst hv hu
  rfl

/-- A network base that follows its master or holds over may be compared. -/
theorem comparable_eq_true {b : Nat} (h : b = 3 ∨ b = 4) : (b == 3 || b == 4) = true := by
  rcases h with rfl | rfl <;> rfl

theorem exec_timeCrossCheck {d : Int} {run : Nat} (hen : s.fb TIM_XCHK TIM_XCHK_EN = true) (h0 : s.baseState 0 = 3 ∨ s.baseState 0 = 4)
    (h1 : s.baseState 1 = 3 ∨ s.baseState 1 = 4) (hu : u = s.at_ ((s.tm.now / tickMs + 1) * tickMs))
    (hd : d = satS 16 (((u.netTime 0 : Int) - u.netTime 1).tdiv (2 ^ 48))) (hv : v = u.setF TIM_XCHK TIM_XCHK_DIFF (ux 16 d))
    (hrun : run = if v.f TIM_XCHK TIM_XCHK_LIMIT < d.natAbs then v.tm.xchkRun + 1 else 0)
    (hw : w = { v with tm := { v.tm with xchkRun := run } }) :
    exec .timeCrossCheck s = .next
      (if 3 ≤ run ∧ w.fb TIM_XCHK TIM_XCHK_FAIL = false then (w.setF TIM_XCHK TIM_XCHK_FAIL 1).raiseTime 3 0 d else w) := by
  have hgo : ¬ (!s.fb TIM_XCHK TIM_XCHK_EN || !(s.baseState 0 == 3 || s.baseState 0 == 4)
      || !(s.baseState 1 == 3 || s.baseState 1 == 4)) = true := by
    rw [hen, comparable_eq_true h0, comparable_eq_true h1]
    decide
  subst hw hrun hv hd hu
  refine (if_neg hgo).trans ?_
  simp only [Bool.not_eq_true']
  exact (apply_ite Host.Outcome.next _ _ _).symm

theorem exec_ppsOutPulse {x until_ : Nat} (hx : x = s.f TIM_PPS TIM_PPS_TB) (hen : s.fb TIM_PPS TIM_PPS_EN = true)
    (hrun : s.netRunning x = true) (hu : u = s.toNet x ((netSec (s.netTime x) + 1) * 10 ^ 9 * 2 ^ 48))
    (huntil : until_ = u.tm.now + Nat.max 1 (u.f TIM_PPS TIM_PPS_WIDTH) * tickUs) :
    exec .ppsOutPulse s = .next { u with pin := { u.pin with ppsOut := true }, tm := { u.tm with ppsOutUntil := until_ } } := by
  have hgo : ¬ (!s.fb TIM_PPS TIM_PPS_EN || !s.netRunning (s.f TIM_PPS TIM_PPS_TB)) = true := by
    rw [hen, ← hx, hrun]
    decide
  subst huntil hu hx
  exact if_neg hgo

theorem exec_timedOutputPulse {k x due until_ : Nat} {next : List (Nat × Nat)} (hk : k < 4)
    (hx : x = s.f (TIM_EVOUT_CFG k) TIM_EVOUT_CFG_TB) (hdue : Sp.find s.tm.evOutNext k = some due)
    (hen : s.fb (TIM_EVOUT_CFG k) TIM_EVOUT_CFG_EN = true) (hrun : s.netRunning x = true) (hu : u = s.toNet x (due * 2 ^ 48))
    (hnext : next = if u.evOutPeriod k = 0 then Sp.del u.tm.evOutNext k else Sp.ins u.tm.evOutNext k (due + u.evOutPeriod k))
    (huntil : until_ = u.tm.now + Nat.max 1 (u.f (TIM_EVOUT_CFG k) TIM_EVOUT_CFG_WIDTH) * 6400) :
    exec (.timedOutputPulse k) s = .next
      { u with tm := { u.tm with evOutNext := next, evOutUntil := Sp.ins u.tm.evOutUntil k until_ },
               pin := { u.pin with gpioOut := u.pin.gpioOut ||| 2 ^ (8 + k) } } := by
  have hgo : ¬ (4 ≤ k ∨ (!s.fb (TIM_EVOUT_CFG k) TIM_EVOUT_CFG_EN) = true
      ∨ (!s.netRunning (s.f (TIM_EVOUT_CFG k) TIM_EVOUT_CFG_TB)) = true) := by
    rw [hen, ← hx, hrun]
    simpa using hk
  subst huntil hnext hu hx
  change execTimedOutputPulse k s = _
  rw [execTimedOutputPulse, hdue]
  exact if_neg hgo

/-- Settles O38, by the happenings of the time bases. -/
theorem timeHappenings : Obligations.TimeHappenings := by
  unfold Obligations.TimeHappenings
  intro s u v w
  refine ⟨fun kept hu hkept => by subst hkept hu; rfl, fun t hu hv => ⟨fun hnone => ?_, fun l hl hout => ?_, fun l hl hsrc hlo hhi => ?_⟩,
    fun d run hen h0 h1 hu hd hv hrun hw => exec_timeCrossCheck hen h0 h1 hu hd hv hrun hw,
    fun x until_ hx hen hrun hu huntil => exec_ppsOutPulse hx hen hrun hu huntil,
    fun k x due next until_ hk hx hdue hen hrun hu hnext huntil => exec_timedOutputPulse hk hx hdue hen hrun hu hnext huntil⟩
  · rw [exec_ppsInEdge hu hv, hnone]
  · have hno : ¬ (v.f TIM_TBS_DISC TIM_TBS_DISC_SRC = 3 ∧ 63936000000 ≤ t - l ∧ t - l ≤ 64064000000) := by omega
    rw [exec_ppsInEdge hu hv, hl]
    exact if_neg hno
  · rw [exec_ppsInEdge hu hv, hl]
    exact if_pos ⟨hsrc, hlo, hhi⟩

/-! ### PTP (R377–R379) -/

section
variable {port : Port} {x : Nat} (hx : x = portIx port)
include hx

theorem exec_ptpSync {d o : Int} (hslave : s.slave x = true) (hmaster : (s.ptp x).master ≠ none)
    (hu : u = State.ptpEnter (s.setPtp x { s.ptp x with syncAt := some s.tm.now }) x)
    (ho : o = d - sx 32 (u.rd (TIM_TBx_MPD x)).toNat - sx 32 (u.rd (TIM_TBx_ASYM x)).toNat)
    (hv : v = (u.word32 o).2.wr (TIM_TBx_OFS x) (u.word32 o).1) :
    exec (.ptpSync port d) s = .next (if v.baseState x = 4 then v else (v.ptpOffset x o).discipline) := by
  have hgo : ¬ (!s.slave x || (s.ptp x).master.isNone) = true := by
    rw [hslave, Option.isNone_eq_false_iff.2 (Option.isSome_iff_ne_none.2 hmaster)]
    decide
  subst hv ho hu hx
  exact (if_neg hgo).trans (apply_ite Host.Outcome.next _ _ _).symm

theorem exec_ptpDelayRequest (hslave : s.slave x = true) (hup : s.portUp port = true) (hu : u = (s.ptpSeq x).2)
    (hv : v = u.setPtp x { u.ptp x with delayPending := true }) :
    exec (.ptpDelayRequest port) s = .next (if v.fb (TIM_TBx_STATE x) TIM_TBx_STATE_DELAY
      then v.sendPtp port 2 (v.ptpHeader port 2 54 0 (s.ptpSeq x).1 5 (v.ptp x).logDelay ++ zeros 20)
      else v.sendPtp port 1 (v.ptpHeader port 1 44 0 (s.ptpSeq x).1 1 (v.ptp x).logDelay ++ zeros 10)) := by
  have hgo : ¬ (!s.slave x || !s.portUp port) = true := by
    rw [hslave, hup]
    decide
  subst hv hu hx
  exact (if_neg hgo).trans (apply_ite Host.Outcome.next _ _ _).symm

section
variable {ms sm ratio raw nr : Int} {e : Ptp} {near : Bool} (he : e = s.ptp x) (hslave : s.slave x = true)
  (hpend : e.delayPending = true) (hraw : raw = (ms + sm).tdiv 2)
  (hnr : nr = if s.fb (TIM_TBx_STATE x) TIM_TBx_STATE_PROFILE then ratio else e.nbrRatio)
  (hnear : near = decide ((raw - sx 32 (s.rd (TIM_TBx_MPD_REF x)).toNat).natAbs ≤ e.stepLimit * 16))
  (hu : u = s.setPtp x { e with delayPending := false, rawLast := raw, nbrRatio := nr, rawGood := if near then e.rawGood + 1 else 0 })
include he hslave hpend hraw hnr hnear hu

/-- A delay measurement that was asked for, by the state of the base and its nearness to the reference. -/
theorem exec_ptpDelayMeasurement : exec (.ptpDelayMeasurement port ms sm ratio) s =
    if !e.mpdValid then .next (u.mpdFilter x raw true)
    else if u.baseState x = 4 ∧ u.f (TIM_TBx_STATE x) TIM_TBx_STATE_HCAUSE = 3 then
      let t := if near then u.mpdFilter x raw false else u
      if 8 ≤ (if near then e.rawGood + 1 else 0) then .next ((t.setBase x 2).setPtp x { t.ptp x with good := 0, outliers := 0 })
      else .next t
    else if near then .next (u.mpdFilter x raw false)
    else if u.baseState x = 2 ∨ u.baseState x = 3 then
      .next ((((u.holdover x 3).setF (TIM_TBx_STATE x) TIM_TBx_STATE_ASYM_SUSPECT 1).raiseTime 2 x
        ((raw - sx 32 (s.rd (TIM_TBx_MPD_REF x)).toNat).tdiv 16)).discipline)
    else .next u := by
  have hgo : ¬ (!s.slave x || !e.delayPending) = true := by
    rw [hslave, hpend]
    decide
  subst hu hnear hnr hraw he hx
  exact if_neg hgo

end

/-- ANNOUNCE at a slave port: the dataset is taken where no master is known, where it is the master's own, or where it is better. -/
theorem exec_ptpAnnounce {dataset : List Byte} (hslave : s.slave x = true)
    (hu : u = s.setPtp x { s.ptp x with master := some dataset, annAt := some s.tm.now }) :
    exec (.ptpAnnounce port dataset) s = match (s.ptp x).master with
      | none => .next u
      | some m => if slice m 6 8 = slice dataset 6 8 ∨ betterDataset dataset m then .next u else .next s := by
  subst hu hx
  exact if_neg (by rw [hslave]; decide)

theorem exec_ptpMessageTimeout {announce : Bool} {e : Nat} (hlast : (if announce then (s.ptp x).annAt else (s.ptp x).syncAt) = some e)
    (hslave : s.slave x = true) (hst : s.baseState x = 2 ∨ s.baseState x = 3)
    (hu : u = s.at_ (e + 3 * 64 * logNs (if announce then (s.ptp x).logAnnounce else (s.ptp x).logSync))) :
    exec (.ptpMessageTimeout port announce) s = .next (((u.holdover x (if announce then 2 else 1)).raiseTime 1 x 0).discipline) := by
  have hgo : (s.slave x && (s.baseState x == 2 || s.baseState x == 3)) = true := by
    rw [hslave, Bool.true_and, Bool.or_eq_true, beq_iff_eq, beq_iff_eq]
    exact hst
  subst hu hx
  change execPtpMessageTimeout port announce s = _
  simp only [execPtpMessageTimeout, hlast]
  exact if_pos hgo

/-- What a master port sends: Sync, and Announce. -/
theorem exec_ptpMasterSend (hrole : s.role x = 2) (hup : s.portUp port = true) (hu : u = (s.ptpSeq x).2) (sync : Bool) :
    exec (.ptpMasterSend port sync) s = if sync then
        .next (u.sendPtp port 0 (u.ptpHeader port 0 44 0x0200 (s.ptpSeq x).1 0 (s.ptp x).logSync ++ zeros 10))
      else .next (u.sendPtp port 11 (u.ptpHeader port 11 64 0 (s.ptpSeq x).1 5 (s.ptp x).logAnnounce ++ zeros 13
        ++ beBytes 1 (s.ptp x).prio1 ++ beBytes 4 0xF8FEFFFF ++ beBytes 1 (s.ptp x).prio2 ++ clockId (u.mac port) ++ beBytes 2 0
        ++ beBytes 1 0xA0)) := by
  have hgo : ¬ (s.role x ≠ 2 ∨ (!s.portUp port) = true) := by
    rw [hup, hrole]
    decide
  subst hu hx
  exact if_neg hgo

end

/-- Settles O39, by the messages and times of PTP. -/
theorem ptpHappenings : Obligations.PtpHappenings := by
  unfold Obligations.PtpHappenings
  intro s u v port x hx
  refine ⟨fun d o => exec_ptpSync hx, exec_ptpDelayRequest hx, fun ms sm ratio e raw nr near he hslave hpend hraw hnr hnear hu => ?_,
    fun dataset hslave hu => ⟨fun hnone => ?_, fun m hm htake => ?_, fun m hm hne hworse => ?_⟩,
    fun announce t hlast hslave hst hu => exec_ptpMessageTimeout hx hlast hslave hst hu, fun hrole hup hu =>
      ⟨exec_ptpMasterSend hx hrole hup hu true, exec_ptpMasterSend hx hrole hup hu false⟩⟩
  · have hmeas := exec_ptpDelayMeasurement hx he hslave hpend hraw hnr hnear hu
    refine ⟨fun hfirst => ?_, fun hvalid hn hfree => ?_, fun hvalid hn hst => ?_⟩ <;> rw [hmeas]
    · exact if_pos (by rw [hfirst]; rfl)
    · have hcause : ¬ (u.baseState x = 4 ∧ u.f (TIM_TBx_STATE x) TIM_TBx_STATE_HCAUSE = 3) := fun hh => hfree.elim (· hh.1) (· hh.2)
      rw [hvalid, if_neg (by decide), if_neg hcause, if_pos hn]
    · have hcause : ¬ (u.baseState x = 4 ∧ u.f (TIM_TBx_STATE x) TIM_TBx_STATE_HCAUSE = 3) := by omega
      rw [hvalid, if_neg (by decide), if_neg hcause, if_neg (ne_true_of_eq_false hn), if_pos hst]
  · rw [exec_ptpAnnounce hx hslave hu, hnone]
  · rw [exec_ptpAnnounce hx hslave hu, hm]
    exact if_pos htake
  · rw [exec_ptpAnnounce hx hslave hu, hm]
    exact if_neg (fun hh => hh.elim hne (ne_true_of_eq_false hworse))

/-! ### DMA (R439, R441, R442) -/

/-- The engine's burst while its domain is on and no thermal shutdown holds it. -/
theorem exec_dmaBurst (hon : s.domOn 19 = true) (hoff : s.boot.off = false) :
    exec .dmaBurst s = match s.burstNext with
      | none => .next s
      | some c => .next (s.dmaBurst c) :=
  if_neg (by rw [hon, hoff]; decide)

/-- Settles O40, by the engine's two happenings. -/
theorem dmaHappenings : Obligations.DmaHappenings := by
  unfold Obligations.DmaHappenings
  intro s u
  refine ⟨fun c hc hon hen hreq hu => exec_dmaTimerRequest_of_selected hon hc hen hreq hu, fun c hon hoff hnext => ?_,
    fun hon hnone => ?_, fun c hoff => ⟨if_pos ?_, if_pos (by rw [hoff]; rfl)⟩⟩
  · rw [exec_dmaBurst hon hoff, hnext]
  · change execDmaBurst s = _
    rw [execDmaBurst, hnone]
    exact ite_self _
  · rw [hoff]
    simp only [Bool.not_false, Bool.or_true, Bool.true_or]

end Sys2Proof
end


section
/-! The states of a Weft link, its control blocks and the raw tap (O41). -/

namespace Sys2Proof

open Machine Machine.Reg

variable {s u v : State} {l : Nat}

theorem receives_iff : receives s l = true ↔ l < 4 ∧ s.linkActive l = true ∧ s.rawTap l = false := by
  simp only [receives, Bool.and_eq_true, decide_eq_true_eq, Bool.not_eq_true', and_assoc]

/-! ### From DETECT to ACTIVE (R394–R401) -/

theorem exec_terminationDetect {found : Bool} (hon : s.linkOn l = true) (hst : s.linkState l = 1)
    (hu : u = s.at_ ((s.link l).tryAt + 100 * tickUs)) (hv : v = u.putLink l { u.link l with tryAt := u.tm.now }) :
    exec (.terminationDetect l found) s = .next (if found then v.toLink l 2 else v) := by
  subst hv hu
  exact if_neg (by rw [hon, hst]; decide)

theorem exec_linkTrainingDone {ctle : List Nat} (hon : s.linkOn l = true) (hst : s.linkState l = 2) (hraw : s.rawTap l = false)
    (hu : u = s.forEach (List.range 4) (fun s k =>
      (s.setF (WFL_LANE_STAT l k) WFL_LANE_STAT_CTLE (if s.fb (WFL_LANE_CFG l k) WFL_LANE_CFG_CTLE_MAN
        then s.f (WFL_LANE_CFG l k) WFL_LANE_CFG_CTLE else ctle.getD k 0)).setF (WFL_LANE_STAT l k) WFL_LANE_STAT_PHASE_LOCK 1)) :
    exec (.linkTrainingDone l ctle) s = .next (u.toLink l 3) := by
  subst hu
  exact if_neg (by rw [hon, hst, hraw]; decide)

theorem exec_blockLock {k bad stuff : Nat} {lock : Bool} (hk : k < 4) (hon : s.linkOn l = true)
    (hst : lockedState (s.linkState l) = true) (hraw : s.rawTap l = false)
    (hu : u = ((s.addSat (WFL_CNT_B l) WFL_CNT_B_HDR bad).addSat (WFL_CNT_B l) WFL_CNT_B_STUFF stuff).setF (WFL_LANE_STAT l k)
      WFL_LANE_STAT_BLOCK_LOCK (b2n lock)) :
    exec (.blockLock l k lock bad stuff) s = .next
      (if lock then (if u.linkState l = 3 ∧ u.allLocked l then u.toLink l 4 else u) else u.toLink l 2) := by
  have hgo : ¬ (!s.linkOn l || decide (4 ≤ k) || !lockedState (s.linkState l) || s.rawTap l) = true := by
    rw [hon, decide_eq_false (Nat.not_le.2 hk), hst, hraw]
    decide
  subst hu
  refine (if_neg hgo).trans (congrArg Host.Outcome.next ?_)
  cases lock with
  | false => exact (if_pos rfl).trans (if_neg Bool.false_ne_true).symm
  | true => exact (if_neg (by decide)).trans (if_pos rfl).symm

section
variable {count : Nat} {skew : List Nat} (hon : s.linkOn l = true) (hraw : s.rawTap l = false)
  (hu : u = s.putLink l { s.link l with align := some (count, skew) })
include hon hraw hu

theorem exec_alignReceive_align (hst : s.linkState l = 4) (hv : v = u.toLink l 5) :
    exec (.alignReceive l count skew) s = .next (v.putLink l { v.link l with align := some (count, skew) }) := by
  subst hv hu
  exact (if_neg (by rw [hon, hst, hraw]; decide)).trans (if_pos hst)

theorem exec_alignReceive_deskew (hst : s.linkState l = 5)
    (hv : v = u.forEach (List.range 4) (fun s k => s.setF (WFL_LANE_STAT l k) WFL_LANE_STAT_SKEW (skew.getD k 0))) :
    exec (.alignReceive l count skew) s = .next (if alignAgrees (s.link l).align count skew then v.toLink l 6 else v) := by
  have h4 : ¬ s.linkState l = 4 := by omega
  subst hv hu
  refine (if_neg (by rw [hon, hst, hraw]; decide)).trans ((if_neg h4).trans (congrArg Host.Outcome.next ?_))
  simp only [hst, true_and]

end

theorem exec_linkBringupTimeout (hon : s.linkOn l = true) (hst : bringUp (s.linkState l) = true) (hraw : s.rawTap l = false) :
    exec (.linkBringupTimeout l) s = .next
      (((s.at_ ((s.link l).upAt + 10 * tickMs)).toLink l 1).addSat (WFL_STATE l) WFL_STATE_RETRIES 1) :=
  if_neg (by rw [hon, hst, hraw]; decide)

theorem exec_linkLockLoss (receiving : Bool) (hon : s.linkOn l = true) (hst : lockedState (s.linkState l) = true)
    (hraw : s.rawTap l = false) : exec (.linkLockLoss l receiving) s = .next
      ((if receiving && s.linkState l == 7 then s.addSat (WFL_CNT_A l) WFL_CNT_A_CRC 1 else s).toLink l 2) :=
  if_neg (by rw [hon, hst, hraw]; decide)

theorem exec_rawtapActive (hon : s.linkOn l = true) (hst : s.linkState l = 2) (hraw : s.rawTap l = true) :
    exec (.rawtapActive l) s = .next ((s.at_ ((s.link l).since + tickMs)).toLink l 7) :=
  if_neg (by rw [hon, hst, hraw]; decide)

theorem exec_capxSend (hon : s.linkOn l = true) (hst : s.linkState l ∈ [6, 7, 8]) (hraw : s.rawTap l = false) :
    exec (.capxSend l) s = .next
      ((s.at_ ((s.link l).capxAt + (if s.linkState l = 6 then 100 * tickUs else tickMs))).sendCapx l) :=
  if_pos (by rw [hon, List.contains_iff_mem.2 hst, hraw]; rfl)

theorem exec_capxPairReceive {capx0 capx1 : List Byte} (hon : s.linkOn l = true) (hst : s.linkState l ∈ [6, 7, 8])
    (hraw : s.rawTap l = false)
    (hu : u = s.forEach (List.range 4) (fun s j => (s.wr (WFL_PCAP l j) (BitVec.ofNat 32 (leAt capx0 (4 * j) 4))).wr (WFL_PCAP l (4 + j))
      (BitVec.ofNat 32 (leAt capx1 (4 * j) 4))))
    (hv : v = u.putLink l { u.link l with upAt := u.tm.now }) :
    exec (.capxPairReceive l capx0 capx1) s = .next ((((if (v.capxOutcome l).1 = 6 then v
      else v.setF (WFL_STATE l) WFL_STATE_QCAUSE (v.capxOutcome l).2).toLink l (v.capxOutcome l).1).setHops).lostUp) := by
  subst hv hu
  exact if_neg (by rw [hon, List.contains_iff_mem.2 hst, hraw]; decide)

/-! ### Control blocks (R411) -/

section
variable {block : List Byte} (hon : s.linkOn l = true) (hlo : 4 ≤ s.linkState l) (hhi : s.linkState l ≤ 8) (hraw : s.rawTap l = false)
include hon hlo hhi hraw

/-- A control block on a link that receives: a bad one counts, XOFF and XON take effect while the link is ACTIVE. -/
theorem exec_controlBlockReceive : exec (.controlBlockReceive l block) s =
    if crc8 (block.take 15) ≠ leAt block 15 1 ∨ !ctlTypes.contains (leAt block 0 1) then
      .next (s.addSat (WFL_CNT_A l) WFL_CNT_A_CTLBAD 1)
    else if s.linkState l ≠ 7 then .next s
    else if leAt block 0 1 = 0x51 then .next ((s.setF (WFL_STATUS l) WFL_STATUS_TX_XOFF 1).xoffSync l)
    else if leAt block 0 1 = 0x50 then .next ((s.xon l).xoffSync l)
    else .next s :=
  if_neg (by rw [hon, decide_eq_false (Nat.not_lt.2 hlo), decide_eq_false (Nat.not_lt.2 hhi), hraw]; decide)

theorem exec_controlBlockReceive_bad (hbad : crc8 (block.take 15) ≠ leAt block 15 1 ∨ leAt block 0 1 ∉ ctlTypes) :
    exec (.controlBlockReceive l block) s = .next (s.addSat (WFL_CNT_A l) WFL_CNT_A_CTLBAD 1) := by
  rw [exec_controlBlockReceive hon hlo hhi hraw]
  exact if_pos (hbad.imp_right fun h => by rw [Bool.not_eq_true', List.contains_eq_mem, decide_eq_false h])

/-- A good block of a known type on an ACTIVE link passes to the test of its type. -/
theorem exec_controlBlockReceive_good (hcrc : crc8 (block.take 15) = leAt block 15 1) (htype : leAt block 0 1 ∈ ctlTypes)
    (h7 : s.linkState l = 7) : exec (.controlBlockReceive l block) s =
      if leAt block 0 1 = 0x51 then .next ((s.setF (WFL_STATUS l) WFL_STATUS_TX_XOFF 1).xoffSync l)
      else if leAt block 0 1 = 0x50 then .next ((s.xon l).xoffSync l)
      else .next s := by
  have hgood : ¬ (crc8 (block.take 15) ≠ leAt block 15 1 ∨ (!ctlTypes.contains (leAt block 0 1)) = true) := by
    rw [List.contains_iff_mem.2 htype]
    simpa using hcrc
  rw [exec_controlBlockReceive hon hlo hhi hraw, if_neg hgood, if_neg (not_not_intro h7)]

end

theorem exec_xoff {fill : Nat} (h : receives s l = true) : exec (.xoff l fill) s =
    if 40 ≤ fill ∧ !s.fb (WFL_STATUS l) WFL_STATUS_RX_XOFF then
      .next (((s.setF (WFL_STATUS l) WFL_STATUS_RX_XOFF 1).sendBlock l (ctlBlock 0x51 [])).xoffSync l)
    else if fill ≤ 16 ∧ s.fb (WFL_STATUS l) WFL_STATUS_RX_XOFF then
      .next (((s.setF (WFL_STATUS l) WFL_STATUS_RX_XOFF 0).sendBlock l (ctlBlock 0x50 [])).xoffSync l)
    else .next s := by
  obtain ⟨hlt, hact, hraw⟩ := receives_iff.1 h
  exact if_neg (by rw [hact, hraw, decide_eq_false (Nat.not_le.2 hlt)]; decide)

theorem exec_idleFreeze {k : Nat} (hk : k < 4) (hon : s.linkOn l = true) (hst : lockedState (s.linkState l) = true)
    (hraw : s.rawTap l = false) : exec (.idleFreeze l k) s = .next (s.setF (WFL_LANE_STAT l k) WFL_LANE_STAT_FROZEN 1) :=
  if_neg (by rw [hon, decide_eq_false (Nat.not_le.2 hk), hst, hraw]; decide)

theorem exec_keepaliveSend (hon : s.linkOn l = true) (hst : lockedState (s.linkState l) = true) (hraw : s.rawTap l = false)
    (hu : u = s.at_ ((s.link l).kaAt + tickMs)) : exec (.keepaliveSend l) s = .next
      ((u.putLink l { u.link l with kaAt := u.tm.now }).sendBlock l (ctlBlock 0x2D (List.replicate 14 0xA5))) := by
  subst hu
  exact if_neg (by rw [hon, hst, hraw]; decide)

/-! ### The raw tap (R426, R427) -/

theorem exec_tapItemSend {b : List Byte} {n : Nat} {rest : List TapItem} (hl : l = s.f HNG_TAP_CTRL HNG_TAP_CTRL_LINK)
    (htap : s.evr.tap ≠ []) (hact : s.linkActive l = true) (hraw : s.rawTap l = true) (hb : tapBlock s.evr.tap = (b, n, rest))
    (hu : u = { s with evr := { s.evr with tap := rest } }) :
    exec .tapItemSend s = .next ((u.sendBlock l b).addWrap HNG_TAP_SENT HNG_TAP_SENT_ITEMS n) := by
  subst hu hl
  change execTapItemSend s = _
  rw [execTapItemSend, if_neg (by rw [hact, hraw, List.isEmpty_eq_false_iff.2 htap]; decide), hb]

theorem exec_tapMark (hl : l = s.f HNG_TAP_CTRL HNG_TAP_CTRL_LINK) (hen : s.fb HNG_TAP_CTRL HNG_TAP_CTRL_EN = true)
    (hact : s.linkActive l = true) (hraw : s.rawTap l = true) (hu : u = s.at_ (s.cas.markAt + tickUs))
    (hv : v = { u with cas := { u.cas with markAt := u.tm.now } }) :
    exec .tapMark s = .next (v.sendBlock l (ctlBlock 0x82 (leBytes 8 v.tbs ++ wordBytes (v.rd HNG_TAP_LOST)
      ++ leBytes 1 (v.index + 16 * v.f HNG_TAP_CTRL HNG_TAP_CTRL_STAGE)))) := by
  subst hv hu hl
  exact if_neg (by rw [hen, hact, hraw]; decide)

/-- Settles O41, by the happenings of a link. -/
theorem weftLinkStates : Obligations.WeftLinkStates := by
  unfold Obligations.WeftLinkStates
  intro s u v l
  refine ⟨fun found hon hst hu hv => exec_terminationDetect hon hst hu hv, fun ctle hon hst hraw hu => exec_linkTrainingDone hon hst hraw hu,
    fun k lock bad stuff hk hon hst hraw hu => exec_blockLock hk hon hst hraw hu,
    fun count skew hon hraw hu => ⟨exec_alignReceive_align hon hraw hu, exec_alignReceive_deskew hon hraw hu⟩,
    exec_linkBringupTimeout, exec_linkLockLoss, exec_rawtapActive, exec_capxSend,
    fun capx0 capx1 hon hst hraw hu hv => exec_capxPairReceive hon hst hraw hu hv,
    fun block hon hlo hhi hraw => ⟨exec_controlBlockReceive_bad hon hlo hhi hraw, fun hcrc htype h7 => ?_, fun hcrc htype h7 => ?_⟩,
    fun fill h => ⟨fun hfull hoff => ?_, fun hlow hset => ?_⟩, fun t h => ?_, fun k => exec_idleFreeze, exec_keepaliveSend,
    fun b n rest hl htap hact hraw hb hu => exec_tapItemSend hl htap hact hraw hb hu, exec_tapMark⟩
  · rw [exec_controlBlockReceive_good hon hlo hhi hraw hcrc (by rw [htype]; decide) h7, if_pos htype]
  · have hother : ¬ leAt block 0 1 = 0x51 := by omega
    rw [exec_controlBlockReceive_good hon hlo hhi hraw hcrc (by rw [htype]; decide) h7, if_neg hother, if_pos htype]
  · rw [exec_xoff h, if_pos ⟨hfull, by rw [hoff]; rfl⟩]
  · have hnot : ¬ (40 ≤ fill ∧ (!s.fb (WFL_STATUS l) WFL_STATUS_RX_XOFF) = true) := by omega
    rw [exec_xoff h, if_neg hnot, if_pos ⟨hlow, hset⟩]
  · change execXoffHeldLong l s = _
    rw [execXoffHeldLong, h]

end Sys2Proof
end


section
/-! The messages between devices (O42), and the cascade's clocks and hinge calibration (O43). -/

namespace Sys2Proof

open Machine Machine.Reg

variable {s t u v w : State} {l src dst : Nat} {hdr body : List Byte}

/-! ### Messages (R397, R410, R412–R415, R417, R419, R421) -/

section
variable (h : receives s l = true) {m : Msg}
include h

theorem receive_open : ¬ (!s.linkActive l || s.rawTap l || decide (4 ≤ l)) = true := by
  obtain ⟨hlt, hact, hraw⟩ := receives_iff.1 h
  rw [hact, hraw, decide_eq_false (Nat.not_le.2 hlt)]
  decide

/-- A message with a good CRC has its effect once it has been passed on and counted. -/
theorem State.receive_good (hm : m.crcOk = true) (act : State → State) : s.receive l m act = act (arrived s l m) :=
  (if_neg (receive_open h)).trans (if_neg (by rw [hm]; decide))

/-- A message with a bad CRC has been passed on, and counts. -/
theorem State.receive_bad (hm : m.crcOk = false) (act : State → State) :
    s.receive l m act = (passedOn s l m).addSat (WFL_CNT_A l) WFL_CNT_A_CRC 1 :=
  (if_neg (receive_open h)).trans (if_pos (by rw [hm]; rfl))

theorem State.next_receive_good (hm : m.crcOk = true) (hu : u = arrived s l m) (act : State → State) :
    (.next (s.receive l m act) : Host.Outcome State Fault Refusal) = .next (act u) := by
  rw [State.receive_good h hm, hu]

theorem State.next_receive_bad (hm : m.crcOk = false) {act : State → State} (hu : u = passedOn s l m) :
    (.next (s.receive l m act) : Host.Outcome State Fault Refusal) = .next (u.addSat (WFL_CNT_A l) WFL_CNT_A_CRC 1) := by
  rw [State.receive_bad h hm, hu]

theorem exec_frame_obeyed {counts : List (Nat × Bool)} (hu : u = arrived s l ⟨2, src, dst, hdr, body, true⟩) (hhead : u.fromHead l = true)
    (hcounts : counts = (List.range (body.length / 2)).map (fun i => (leAt body (2 * i) 2 % 256, leAt body (2 * i) 2 / 256 % 2 == 1))) :
    exec (.frame l src dst hdr body true) s = .next
      (State.sendStatus { u with cas := { u.cas with held := some (leAt hdr 0 4, leAt hdr 4 4, counts), ack := leAt hdr 0 4 } }) := by
  subst hcounts hu
  exact congrArg Host.Outcome.next ((State.receive_good h rfl _).trans (if_neg (by rw [hhead]; decide)))

theorem exec_status_noted {x : Member} (hu : u = arrived s l ⟨3, src, dst, hdr, body, true⟩) (hhead : u.toHead l = true) (hlo : 1 ≤ src)
    (hhi : src < 8) (hx : x = { seen := u.tm.now, tableId := leAt hdr 0 4, ack := leAt hdr 4 4, word := leAt body 0 4 })
    (hv : v = ((u.noteMember src x (body.drop 4)).noteRefusal src x.word).noteAck src x) :
    exec (.status l src dst hdr body true) s = .next
      (if bit x.word 15 && !u.memberBit src 15 then v.raiseLink 6 0 0 0 src else v).readyCheck := by
  have hmember : ¬ (src = 0 ∨ 8 ≤ src) := by omega
  subst hv hx hu
  refine congrArg Host.Outcome.next ((State.receive_good h rfl _).trans (if_neg ?_))
  rw [hhead, decide_eq_false hmember]
  decide

section
variable (hu : u = arrived s l ⟨5, src, dst, hdr, body, true⟩) (hhead : u.fromHead l = true) (hdst : dst = u.index)
include hu hhead hdst

/-- A read request for this member whose checks pass answers with the bytes of the window. -/
theorem exec_readReq_granted (hc : firstBad (spanChecks (leAt hdr 0 4) (leAt hdr 4 4) 20 ++ u.readChecks (leAt hdr 0 4) (leAt hdr 4 4)) = none) :
    exec (.readReq l src dst hdr body true) s = .next ((u.winRead (leAt hdr 0 4) (leAt hdr 4 4)).2.sendMsg 0
      ⟨6, (u.winRead (leAt hdr 0 4) (leAt hdr 4 4)).2.index, 0, leBytes 2 stOk ++ leBytes 2 0 ++ zeros 4,
        (u.winRead (leAt hdr 0 4) (leAt hdr 4 4)).1, true⟩) := by
  refine congrArg Host.Outcome.next ((State.receive_good h rfl _).trans ?_)
  rw [← hu, if_neg (by rw [hhead, hdst, bne_self_eq_false]; decide)]
  dsimp only
  rw [hc]

/-- A read request for this member answers with the first check that fails. -/
theorem exec_readReq_refused {c : Check}
    (hc : firstBad (spanChecks (leAt hdr 0 4) (leAt hdr 4 4) 20 ++ u.readChecks (leAt hdr 0 4) (leAt hdr 4 4)) = some c) :
    exec (.readReq l src dst hdr body true) s = .next
      (u.sendMsg 0 ⟨6, u.index, 0, leBytes 2 c.status ++ leBytes 2 c.detail ++ zeros 4, [], true⟩) := by
  refine congrArg Host.Outcome.next ((State.receive_good h rfl _).trans ?_)
  rw [← hu, if_neg (by rw [hhead, hdst, bne_self_eq_false]; decide)]
  dsimp only
  rw [hc]

end

theorem exec_readRsp_awaited {q : Req} {rest : List (Req × Nat × Nat)} (hu : u = arrived s l ⟨6, src, dst, hdr, body, true⟩)
    (hhead : u.toHead l = true) (hread : takeRead src u.cas.reads = some (q, rest)) (hv : v = { u with cas := { u.cas with reads := rest } }) :
    exec (.readRsp l src dst hdr body true) s = .next
      (if leAt hdr 0 2 = stOk then v.replyOk q 0x0203 body else v.reply q 0x0203 (leAt hdr 0 2) (leAt hdr 2 2)) := by
  subst hv
  refine congrArg Host.Outcome.next ((State.receive_good h rfl _).trans ?_)
  rw [← hu, if_neg (by rw [hhead]; decide), hread]

theorem exec_hcal_adopted {ts : List Nat} {till : Nat} (hu : u = arrived s l ⟨7, src, dst, hdr, body, true⟩) (hhead : u.fromHead l = true)
    (hts : ts = (List.range 32).map (fun k => leAt body (8 * k) 8)) (hv : v = u.setF HNG_LAT HNG_LAT_LAT (leAt hdr 0 2))
    (htill : till = v.tm.now + (diff48 (ts.getLastD 0) (u.casTime u.tbs)).toNat + 50 * tickUs) :
    exec (.hcal l src dst hdr body true) s = .next
      { v with cas := { v.cas with hcalTimes := ts, hcalSync := [], hcalTrig := [], hcalUntil := till } } := by
  subst htill hv hts hu
  exact congrArg Host.Outcome.next ((State.receive_good h rfl _).trans (if_neg (by rw [hhead]; decide)))

end

/-- Settles O42, by the class of the message and its CRC. -/
theorem cascadeMessages : Obligations.CascadeMessages := by
  unfold Obligations.CascadeMessages
  intro s u l src dst hdr body h
  exact ⟨fun hu => State.next_receive_good h rfl hu _, fun counts hu hhead hcounts => exec_frame_obeyed h hu hhead hcounts,
    fun x v hu hhead hlo hhi hx hv => exec_status_noted h hu hhead hlo hhi hx hv, fun hu => State.next_receive_good h rfl hu _,
    fun c hu hhead hdst => ⟨exec_readReq_granted h hu hhead hdst, exec_readReq_refused h hu hhead hdst⟩,
    fun q rest v hu hhead hread hv => exec_readRsp_awaited h hu hhead hread hv,
    fun ts v till hu hhead hts hv htill => exec_hcal_adopted h hu hhead hts hv htill,
    State.next_receive_bad h rfl, State.next_receive_bad h rfl, State.next_receive_bad h rfl, State.next_receive_bad h rfl,
    State.next_receive_bad h rfl, State.next_receive_bad h rfl, State.next_receive_bad h rfl⟩

/-! ### The cascade's clocks (R412, R413, R418, R421) -/

theorem exec_memberUnreachable {m : Nat} {x : Member} (hx : s.member m = some x) (hreach : bit (s.f HNG_CAS_STAT HNG_CAS_STAT_REACH) m = true)
    (hu : u = s.at_ (x.seen + 20 * tickMs))
    (hv : v = u.setF HNG_CAS_STAT HNG_CAS_STAT_REACH (s.f HNG_CAS_STAT HNG_CAS_STAT_REACH - 2 ^ m)) :
    exec (.memberUnreachable m) s = .next (State.awaitCheck
      { v with cas := { v.cas with thr := Sp.del v.cas.thr m, headroom := Sp.del v.cas.headroom m } }).readyCheck := by
  subst hv hu
  change execMemberUnreachable m s = _
  rw [execMemberUnreachable, hx]
  exact if_neg (by rw [hreach]; decide)

theorem exec_frameAckTimeout {e : Nat} {acks late : List Nat} (hawait : s.cas.await = some (e, acks)) (hu : u = s.at_ e)
    (hlate : late = u.reachable.filter (fun m => !acks.contains m)) (hv : v = { u with cas := { u.cas with await := none } }) :
    exec .frameAckTimeout s = .next
      (((v.setF HNG_CAS_STAT HNG_CAS_STAT_LAG (bitsOf late)).addSat HNG_CNT HNG_CNT_LATE 1).forEach late
        (fun s m => s.raiseLink 5 0 0 0 m)) := by
  subst hv hlate hu
  change execFrameAckTimeout s = _
  rw [execFrameAckTimeout, hawait]

theorem exec_timeReq_received (hact : s.linkActive l = true) (hraw : s.rawTap l = false) (hlt : l < 4) {stamp : List Byte}
    (hstamp : stamp = leBytes 6 (s.casTime s.tbs)) :
    exec (.timeReq true l) s = .next (s.sendBlock l (ctlBlock 0x71 (stamp ++ stamp))) := by
  have hgo : (s.linkActive l && !s.rawTap l && decide (l < 4)) = true := by
    rw [hact, hraw, decide_eq_true hlt]
    rfl
  subst hstamp
  change execTimeReq true l s = _
  rw [execTimeReq, if_pos rfl, if_pos hgo]

theorem exec_timeReq_sent (hmember : s.isMember = true) (hact : s.linkActive 0 = true) (hu : u = s.at_ (s.cas.reqAt + tickMs))
    (hv : v = { u with cas := { u.cas with reqAt := u.tm.now, t1 := some (u.tbs % 2 ^ 48) } }) :
    exec (.timeReq false l) s = .next (v.sendBlock 0 (ctlBlock 0x70 (leBytes 6 (u.tbs % 2 ^ 48)))) := by
  have hgo : ¬ (!s.isMember || !s.linkActive 0) = true := by
    rw [hmember, hact]
    decide
  subst hv hu
  change execTimeReq false l s = _
  rw [execTimeReq, if_neg Bool.false_ne_true, if_neg hgo]

theorem exec_timeRsp {t1 t2 t3 t4 : Nat} (ht1 : s.cas.t1 = some t1) (hmember : s.isMember = true) (hact : s.linkActive 0 = true)
    (hu : u = s.at_ (s.tm.now + (t4 - s.tbs))) :
    exec (.timeRsp t2 t3 t4) s = .next (u.casUpdate t1 (diff48 t2 t1 - (diff48 t4 t1 - diff48 t3 t2).tdiv 2)) := by
  subst hu
  change execTimeRsp t2 t3 t4 s = _
  rw [execTimeRsp, ht1]
  exact if_neg (by rw [hmember, hact]; decide)

/-! ### Hinge calibration (R419, R429) -/

theorem exec_hingeCalibrationStart {ts : List Nat} (hhead : s.isHead = true) (hdue : s.cas.hcalDue = true) (hnone : s.cas.hcalTimes = [])
    (hd : s.dev = .idle ∨ s.dev = .primed) (hall : ∀ m ∈ s.expected, s.reachable.contains m = true ∧ s.memberBit m 8 = true)
    (hts : ts = (List.range 32).map (fun k => (s.tbs + 100 * tickUs + k * 10 * tickUs) % 2 ^ 64))
    (hu : u = { s with cas := { s.cas with hcalDue := false, hcalTimes := ts, hcalSync := [], hcalTrig := [],
                                           hcalUntil := s.tm.now + 460 * tickUs } }) :
    exec .hingeCalibrationStart s = .next
      (u.sendDown ⟨7, 0, 0, leBytes 2 (u.f HNG_LAT HNG_LAT_LAT) ++ zeros 6, ts.flatMap (leBytes 8), true⟩) := by
  have hstate : (s.dev == .idle || s.dev == .primed) = true := by rwa [Bool.or_eq_true, beq_iff_eq, beq_iff_eq]
  have hmembers : s.expected.all (fun m => s.reachable.contains m && s.memberBit m 8) = true := by
    rw [List.all_eq_true]
    intro m hm
    rw [Bool.and_eq_true]
    exact hall m hm
  subst hu hts
  exact if_neg (by rw [hhead, hdue, hnone, hstate, hmembers]; decide)

/-- Whether the stamps of a hinge calibration fail it: too few, too wide a spread, or too little latency. -/
def hingeFails (u : State) (sync trig : Int × Int) : Bool :=
  u.cas.hcalSync.length != 16 || u.cas.hcalTrig.length != 16 || decide (64 < sync.2) || decide (64 < trig.2)
    || decide ((u.f HNG_LAT HNG_LAT_LAT : Int) - sync.1 < 1024)

theorem hingeFails_iff {sync trig : Int × Int} : hingeFails u sync trig = true ↔
    u.cas.hcalSync.length ≠ 16 ∨ u.cas.hcalTrig.length ≠ 16 ∨ 64 < sync.2 ∨ 64 < trig.2
      ∨ (u.f HNG_LAT HNG_LAT_LAT : Int) - sync.1 < 1024 := by
  simp only [hingeFails, Bool.or_eq_true, bne_iff_ne, decide_eq_true_eq, or_assoc]

section
variable {sync trig : Int × Int} (hrun : s.cas.hcalTimes ≠ []) (hu : u = s.at_ s.cas.hcalUntil)
  (hsync : sync = meanSpread (u.hcalDiffs u.cas.hcalSync (u.cas.hcalTimes.take 16)))
  (htrig : trig = meanSpread (u.hcalDiffs u.cas.hcalTrig (u.cas.hcalTimes.drop 16)))
  (hv : v = { u with cas := { u.cas with hcalTimes := [], hcalSync := [], hcalTrig := [] } })
include hrun hu hsync htrig hv

theorem exec_hingeCalibrationEnd_fails (hfail : hingeFails u sync trig = true)
    (hw : w = (v.setF HNG_CAS_STAT HNG_CAS_STAT_HCAL_FAIL 1).addSat HNG_CNT2 HNG_CNT2_HCAL_FAILS 1) :
    exec .hingeCalibrationEnd s = .next (if w.isHead then w.raiseLink 6 0 0 0 0 else w) := by
  subst hw hv htrig hsync hu
  exact (if_neg (by rwa [List.isEmpty_iff])).trans (if_pos hfail)

theorem exec_hingeCalibrationEnd_loads (hok : hingeFails u sync trig = false) (hs0 : 0 ≤ sync.1) (hs1 : sync.1 < 65536)
    (ht0 : 0 ≤ trig.1) (ht1 : trig.1 < 65536)
    (hw : w = ((((v.openNat HNG_COMP).2.setF HNG_COMP HNG_COMP_SYNC_DLY sync.1.toNat).setF HNG_COMP HNG_COMP_TRIG_DLY
      trig.1.toNat).setF HNG_CAS_STAT HNG_CAS_STAT_HCAL_DONE 1).setF HNG_CAS_STAT HNG_CAS_STAT_HCAL_FAIL 0) :
    exec .hingeCalibrationEnd s = .next (if u.fb HNG_CAS_STAT HNG_CAS_STAT_HCAL_DONE then w.readyCheck else w.sendStatus.readyCheck) := by
  have hloads : exec .hingeCalibrationEnd s = .next (if u.fb HNG_CAS_STAT HNG_CAS_STAT_HCAL_DONE
      then (((((v.openNat HNG_COMP).2.setF HNG_COMP HNG_COMP_SYNC_DLY (if 0 ≤ sync.1 ∧ sync.1 < 65536 then sync.1.toNat
        else (v.openNat HNG_COMP).1)).setF HNG_COMP HNG_COMP_TRIG_DLY (if 0 ≤ trig.1 ∧ trig.1 < 65536 then trig.1.toNat
        else (v.openNat HNG_COMP).1)).setF HNG_CAS_STAT HNG_CAS_STAT_HCAL_DONE 1).setF HNG_CAS_STAT HNG_CAS_STAT_HCAL_FAIL 0).readyCheck
      else (((((v.openNat HNG_COMP).2.setF HNG_COMP HNG_COMP_SYNC_DLY (if 0 ≤ sync.1 ∧ sync.1 < 65536 then sync.1.toNat
        else (v.openNat HNG_COMP).1)).setF HNG_COMP HNG_COMP_TRIG_DLY (if 0 ≤ trig.1 ∧ trig.1 < 65536 then trig.1.toNat
        else (v.openNat HNG_COMP).1)).setF HNG_CAS_STAT HNG_CAS_STAT_HCAL_DONE 1).setF HNG_CAS_STAT
        HNG_CAS_STAT_HCAL_FAIL 0).sendStatus.readyCheck) := by
    subst hv htrig hsync hu
    exact (if_neg (by rwa [List.isEmpty_iff])).trans (if_neg (ne_true_of_eq_false hok))
  have hsin : 0 ≤ sync.1 ∧ sync.1 < 65536 := ⟨hs0, hs1⟩
  have htin : 0 ≤ trig.1 ∧ trig.1 < 65536 := ⟨ht0, ht1⟩
  simp only [hloads, if_pos hsin, if_pos htin, ← hw]

end

/-- Settles O43, by the cascade's clocks and the course of a hinge calibration. -/
theorem cascadeTimesAndCalibration : Obligations.CascadeTimesAndCalibration := by
  unfold Obligations.CascadeTimesAndCalibration
  intro s u v w
  refine ⟨fun hmember hact => if_neg (by rw [hmember, hact]; decide), fun m x hx hreach hu hv => exec_memberUnreachable hx hreach hu hv,
    fun t acks late hawait hu hlate hv => exec_frameAckTimeout hawait hu hlate hv, fun q m t rest hreads hu => ?_,
    fun l t hact hraw hlt ht => exec_timeReq_received hact hraw hlt ht, fun l => exec_timeReq_sent,
    fun t1 t2 t3 t4 ht1 hmember hact hu => exec_timeRsp ht1 hmember hact hu,
    fun ts hhead hdue hnone hd hall hts hu => exec_hingeCalibrationStart hhead hdue hnone hd hall hts hu,
    fun sync trig hrun hu hsync htrig hv => ⟨fun hfail => exec_hingeCalibrationEnd_fails hrun hu hsync htrig hv (hingeFails_iff.2 hfail),
      fun hls hlt hss hst hlat => exec_hingeCalibrationEnd_loads hrun hu hsync htrig hv ?_⟩⟩
  · subst hu
    change execRemoteReadTimeout s = _
    rw [execRemoteReadTimeout, hreads]
  · rw [← Bool.not_eq_true, hingeFails_iff]
    omega

end Sys2Proof
end


section
/-! The supply and the reset pins (O45), and the clocks (O46). -/

namespace Sys2Proof

open Machine Machine.Reg

variable {s t u v w : State}

/-! ### Supply and reset pins (R66 rows 1, 3 and 5, R304, R485, R486, R489, R490, R530) -/

/-- What powers a device that is off and not held off by heat: its supply and PORST_N. -/
theorem State.powerOn_of_ready {rst : Nat} (hoff : t.boot.off = true) (hth : t.boot.thermalOff = false) (hvin : t.boot.vinOk = true)
    (hpor : t.pin.porstN = true) (hv : v = { t with thm := { t.thm with onAt := t.tm.now } }) : t.powerOn rst = v.enterBoot 0x01 rst := by
  subst hv
  exact if_pos (by rw [hoff, hth, hvin, hpor]; rfl)

theorem State.powerOn_of_not_ready {rst : Nat}
    (h : t.boot.off = false ∨ t.boot.thermalOff = true ∨ t.boot.vinOk = false ∨ t.pin.porstN = false) : t.powerOn rst = t := by
  refine if_neg ?_
  rcases h with h | h | h | h <;> simp [h]

theorem exec_vinValid {mv : Nat} (hmv : 5700 < mv)
    (hu : u = { s with pin := { s.pin with vinMv := mv }, boot := { s.boot with vinOk := true } }) :
    exec (.vinValid mv) s = .next (u.powerOn 1) := by
  subst hu
  exact if_neg (Nat.not_le.2 hmv)

theorem exec_porstRise (hu : u = { s with pin := { s.pin with porstN := true } }) : exec .porstRise s = .next (u.powerOn 2) := by
  subst hu
  rfl

/-- A happening that needs the auxiliary supply: the device is on, or only held off by heat. -/
theorem aux_powered (h : s.boot.off = false ∨ s.boot.thermalOff = true) : ¬ (s.boot.off && !s.boot.thermalOff) = true := by
  rcases h with h | h <;> simp [h]

/-- Settles O45, pin by pin. -/
theorem supplyAndResetPins : Obligations.SupplyAndResetPins := by
  unfold Obligations.SupplyAndResetPins
  intro s u v
  refine ⟨fun mv hmv hu => ⟨fun hoff hth hpor hv => ?_, fun hno => ?_⟩, fun hu => by subst hu; rfl, fun mv hmv hok => ?_,
    fun haux => if_neg (aux_powered haux), fun hu => by subst hu; rfl, fun hu => ⟨fun hoff hth hvin hv => ?_, fun hno => ?_⟩,
    fun hu => ⟨fun hoff => ?_, fun hon => ?_⟩, rfl, fun hon hu => ?_⟩
  · rw [exec_vinValid hmv hu, State.powerOn_of_ready (v := v) (by rw [hu]; exact hoff) (by rw [hu]; exact hth) (by rw [hu])
      (by rw [hu]; exact hpor) hv]
  · have hstays : u.boot.off = false ∨ u.boot.thermalOff = true ∨ u.boot.vinOk = false ∨ u.pin.porstN = false := by
      rw [hu]
      exact hno.imp_right (Or.imp_right .inr)
    rw [exec_vinValid hmv hu, State.powerOn_of_not_ready hstays]
  · have hover : ¬ (mv ≤ 40000 ∨ (!s.boot.vinOk) = true) := by
      rw [hok]
      simpa using hmv
    exact if_neg hover
  · rw [exec_porstRise hu, State.powerOn_of_ready (v := v) (by rw [hu]; exact hoff) (by rw [hu]; exact hth) (by rw [hu]; exact hvin)
      (by rw [hu]) hv]
  · have hstays : u.boot.off = false ∨ u.boot.thermalOff = true ∨ u.boot.vinOk = false ∨ u.pin.porstN = false := by
      rw [hu]
      exact hno.imp_right (Or.imp_right .inl)
    rw [exec_porstRise hu, State.powerOn_of_not_ready hstays]
  · subst hu
    exact if_pos hoff
  · subst hu
    exact if_neg (ne_true_of_eq_false hon)
  · subst hu
    exact if_neg (ne_true_of_eq_false hon)

/-! ### Clocks (R24, R66 row 12, R244, R304, R369, R488) -/

section
variable (hoff : s.boot.off = false)
include hoff

theorem exec_pllLockLoss_t (ht : s.fb CLK_STAT CLK_STAT_T_LOCK = true) (hh : s.fb CLK_STAT CLK_STAT_H_LOCK = true)
    (hu : u = (((s.setF CLK_STAT CLK_STAT_T_LOCK 0).setF CLK_STAT CLK_STAT_T_LOST 1).addSat CLK_CNT CLK_CNT_T_LOSS 1).dllLost)
    (hv : v = { u with boot := { u.boot with pllLostAt := some (u.boot.pllLostAt.getD u.tm.now) } }) :
    exec (.pllLockLoss false true false false) s = .next (v.latch [6]) := by
  have hT : s.pllT = true := by rw [State.pllT, ht, hh]; rfl
  change execPllLockLoss false true false false s = _
  simp only [execPllLockLoss, hoff, ht, hT, Bool.or_false, Bool.true_and, Bool.false_and, Bool.not_true, Bool.or_self, Bool.false_eq_true,
    if_false, if_true, ← hu]
  subst hv
  cases u.boot.pllLostAt <;> rfl

theorem exec_pllLockLoss_h (ht : s.fb CLK_STAT CLK_STAT_T_LOCK = true) (hh : s.fb CLK_STAT CLK_STAT_H_LOCK = true)
    (hu : u = (((s.setF CLK_STAT CLK_STAT_H_LOCK 0).setF CLK_STAT CLK_STAT_H_LOST 1).addSat CLK_CNT CLK_CNT_T_LOSS 1).dllLost)
    (hv : v = { u with boot := { u.boot with pllLostAt := some (u.boot.pllLostAt.getD u.tm.now) } }) :
    exec (.pllLockLoss false false true false) s = .next (v.latch [6]) := by
  have hT : s.pllT = true := by rw [State.pllT, ht, hh]; rfl
  change execPllLockLoss false false true false s = _
  simp only [execPllLockLoss, hoff, hh, hT, Bool.or_false, Bool.true_and, Bool.false_and, Bool.not_true, Bool.or_true, Bool.or_self,
    Bool.false_eq_true, if_false, if_true, ← hu]
  subst hv
  cases u.boot.pllLostAt <;> rfl

theorem exec_pllLockLoss_c (hc : s.fb CLK_STAT CLK_STAT_C_LOCK = true)
    (hu : u = ((s.sinksFreeze.setF CLK_STAT CLK_STAT_C_LOCK 0).setF CLK_STAT CLK_STAT_C_LOST 1).addSat CLK_CNT CLK_CNT_C_LOSS 1)
    (hv : v = { u with boot := { u.boot with pllLostAt := some (u.boot.pllLostAt.getD u.tm.now) } }) :
    exec (.pllLockLoss false false false true) s = .next (v.latch [6]) := by
  have hC : s.pllC = true := hc
  change execPllLockLoss false false false true s = _
  simp only [execPllLockLoss, hoff, hC, Bool.or_false, Bool.true_and, Bool.false_and, Bool.not_true, Bool.or_true, Bool.or_self,
    Bool.false_eq_true, if_false, if_true, ← hu]
  subst hv
  cases u.boot.pllLostAt <;> rfl

section
variable {e : Nat} (hlost : s.boot.pllLostAt = some e)
  (hu : u = { s.setF CLK_STAT CLK_STAT_REF_OK 1 with pin := { s.pin with refclk := true } })
include hlost hu

theorem exec_pllLockRegain_t (hT : s.pllT = false) (hv : v = (u.setF CLK_STAT CLK_STAT_T_LOCK 1).setF TIM_STATUS TIM_STATUS_TBS_GAP 1)
    (hlock : (u.setF CLK_STAT CLK_STAT_T_LOCK 1).pllT = true) (hcore : (u.setF CLK_STAT CLK_STAT_T_LOCK 1).coreOn = true)
    (hvT : v.pllT = true) (hvC : v.pllC = true) :
    exec (.pllLockRegain true false false) s = .next { v with boot := { v.boot with pllLostAt := none } } := by
  change execPllLockRegain true false false s = _
  simp only [execPllLockRegain, hoff, hlost, Option.isNone_some, Bool.or_self, Bool.false_eq_true, if_false, if_true, ← hu, hT, hlock, hcore,
    Bool.not_false, Bool.and_self, ← hv, Bool.false_and, hvT, hvC]

theorem exec_pllLockRegain_c (hT : s.pllT = true) (huC : u.pllC = false)
    (hv : v = { u.setF CLK_STAT CLK_STAT_C_LOCK 1 with srv := { u.srv with sinks := [], frozen := false } }) (hvT : v.pllT = true)
    (hvC : v.pllC = true) :
    exec (.pllLockRegain false false true) s = .next { v with boot := { v.boot with pllLostAt := none } } := by
  change execPllLockRegain false false true s = _
  simp only [execPllLockRegain, hoff, hlost, Option.isNone_some, Bool.or_self, Bool.false_eq_true, if_false, if_true, ← hu, hT, huC,
    Bool.not_true, Bool.not_false, Bool.and_false, Bool.false_and, Bool.and_self, ← hv, hvT, hvC]

end
end

/-- Settles O46, by the PLL that loses or regains lock, and the timeout. -/
theorem clockEvents : Obligations.ClockEvents := by
  unfold Obligations.ClockEvents
  intro s u v hoff
  refine ⟨exec_pllLockLoss_t hoff, exec_pllLockLoss_h hoff, exec_pllLockLoss_c hoff,
    fun t hlost hT hu hv hlock hcore hvT hvC => exec_pllLockRegain_t hoff hlost hu hT hv hlock hcore hvT hvC,
    fun t hlost hT hu huC hv hvT hvC => exec_pllLockRegain_c hoff hlost hu hT huC hv hvT hvC, fun t hlost hdev => ?_⟩
  change execPllLockTimeout s = _
  rw [execPllLockTimeout, hlost]
  exact if_pos hdev

end Sys2Proof
end


section
/-! The stages of BOOT (O47), and the clocks of the thermal unit and its log (O48). -/

namespace Sys2Proof

open Machine Machine.Reg

variable {s t u v w : State}

/-! ### Stages of BOOT (R369, R403, R478, R495, R496, R500, R502, R503) -/

/-- A stage's own happening is not passed over. -/
theorem stage_open {n : Nat} (h : s.atStage n = true) : ¬ (!s.atStage n) = true := by
  rw [h]
  decide

theorem stage_open_or {m n : Nat} (h : s.atStage m = true ∨ s.atStage n = true) : ¬ (!(s.atStage m || s.atStage n)) = true := by
  rw [← Bool.or_eq_true] at h
  rw [h]
  decide

theorem exec_fuseRead {hgId : Nat} (h : s.atStage 1 = true)
    (hu : u = { s with boot := { s.boot with shadows := s.boot.fuses }, pin := { s.pin with hgId := hgId % 8 } })
    (hv : v = (u.setF HNG_ID HNG_ID_INDEX hgId).setF PMU_FUSE PMU_FUSE_CRC_OK (b2n s.boot.fuses.crcGood))
    (hw : w = if s.f PMU_BOOT PMU_BOOT_RST_CAUSE = 1 ∨ s.f PMU_BOOT PMU_BOOT_RST_CAUSE = 2 then v.loadPd00 else v) :
    exec (.fuseRead hgId) s = .next (w.stage (if w.boot.fuses.crcGood then 2 else 0xE0)) := by
  subst hw hv hu
  refine (if_neg (stage_open h)).trans ?_
  simp only [Bool.or_eq_true, beq_iff_eq]

theorem exec_clockLock_locks {x : Nat × Nat} (h : s.atStage 2 = true ∨ s.atStage 0xE1 = true)
    (hu : u = s.forEach [CLK_STAT_REF_OK, CLK_STAT_C_LOCK, CLK_STAT_H_LOCK, CLK_STAT_T_LOCK] (fun s f => s.setF CLK_STAT f 1))
    (hx : x = (if u.tm.tblStarted then u.tm.tbl else 0, if u.tm.tbsStarted then u.tm.tbs else 0))
    (hv : v = { u with tm := { u.tm with tbl := x.1, tblStarted := true, tbs := x.2, tbsStarted := true } })
    (hw : w = { v with boot := { v.boot with pllLostAt := none }, pin := { v.pin with refclk := true } }) :
    exec (.clockLock true) s = .next (w.stage (if u.atStage 2 then 3 else 2)) := by
  subst hw hv hx hu
  change execClockLock true s = _
  rw [execClockLock, if_neg (stage_open_or h), if_neg (by decide)]

theorem exec_slotCheck {readErr : Bool} {slot c : Nat} (h : s.atStage 4 = true ∨ s.atStage 5 = true) (hslot : slot = s.stageSlot)
    (hc : c = s.slotCode slot readErr) (hu : u = (s.noteCheck slot c).setF GLB_BOOT (errFld slot) c) :
    exec (.slotCheck readErr) s = if c = 1 then .next (u.bootSlot slot (s.f GLB_BOOT (errFld (1 - slot)) != 0))
      else if s.f GLB_BOOT (errFld (1 - slot)) != 0 then .next (u.bootFail 0xF0) else .next (u.stage (5 - slot)) := by
  subst hu hc hslot
  exact if_neg (stage_open_or h)

theorem exec_fuseProgramming (h : s.atStage 6 = true) : exec .fuseProgramming s = match s.sectionBytes 0xF0 with
    | none => .next (s.stage 7)
    | some d => if s.pin.vinMv < 9000 then .next ((s.setF GLB_BOOT GLB_BOOT_FUSE_SKIP 1).stage 7)
      else .next ((s.fuseProgram d).stage 7) :=
  if_neg (stage_open h)

theorem exec_configApply (h : s.atStage 10 = true) (hu : u = s.applyKeys.applyCascade.applyPtps.applyIdent.applyInit)
    (hv : v = u.forEach ((List.range 10).filter (fun d => decide (2 ≤ d) && u.domOn d)) State.markStale)
    (hw : w = (v.thrTimer v.thm.hot).historyCheck) : exec .configApply s = .next ((w.stage 0x0F).goto .idle 0x10) := by
  change execConfigApply s = _
  rw [execConfigApply, if_neg (stage_open h), hw, hv, hu]

/-- Settles O47, stage by stage. -/
theorem bootStages : Obligations.BootStages := by
  unfold Obligations.BootStages
  intro s u v w
  refine ⟨fun hgId h hu hv hw => exec_fuseRead h hu hv hw, fun h => if_neg (stage_open_or h),
    fun x h hu hx hv hw => exec_clockLock_locks h hu hx hv hw, fun density h hu => ?_,
    fun readErr slot c h hslot hc hu => ⟨fun hok => ?_, fun hbad hfirst => ?_, fun hbad hsecond => ?_⟩, fun h hnone => ?_,
    fun d h hsome => ⟨fun hlow => ?_, fun hhigh => ?_⟩, fun l h hl => ?_, fun h => ⟨?_, fun hu => ?_⟩, fun h => ⟨?_, ?_⟩,
    fun h hu hv hw => exec_configApply h hu hv hw⟩
  · subst hu
    exact if_neg (stage_open h)
  · rw [exec_slotCheck h hslot hc hu, if_pos hok]
  · rw [exec_slotCheck h hslot hc hu, if_neg hbad, hfirst]
    rfl
  · rw [exec_slotCheck h hslot hc hu, if_neg hbad, if_pos (bne_iff_ne.2 hsecond)]
  · rw [exec_fuseProgramming h, hnone]
  · rw [exec_fuseProgramming h, hsome]
    exact if_pos hlow
  · rw [exec_fuseProgramming h, hsome]
    exact if_neg (Nat.not_lt.2 hhigh)
  · subst hl
    exact if_neg (stage_open h)
  · change execMbist false s = _
    rw [execMbist, if_neg (stage_open h)]
    rfl
  · subst hu
    change execMbist true s = _
    rw [execMbist, if_neg (stage_open h)]
    rfl
  · change execLbist true s = _
    rw [execLbist, if_neg (stage_open h)]
    rfl
  · change execLbist false s = _
    rw [execLbist, if_neg (stage_open h)]
    rfl

/-! ### Thermal unit and log (R471, R476, R481) -/

theorem exec_tempSensorReading {i : Nat} {temp : Int} (hi : i < 12) (haux : s.boot.off = false ∨ s.boot.thermalOff = true)
    (hu : u = s.setF (THM_TS i) THM_TS_TEMP (ux 16 (satS 16 temp)))
    (hv : v = { u with thm := { u.thm with sensorAt := Sp.ins u.thm.sensorAt i u.tm.now } }) :
    exec (.tempSensorReading i temp) s = .next (v.setTj.noteConds s).thermalLevels := by
  have hgo : ¬ (12 ≤ i ∨ (s.boot.off && !s.boot.thermalOff) = true) := not_or.2 ⟨Nat.not_le.2 hi, aux_powered haux⟩
  subst hv hu
  exact if_neg hgo

/-- A throttle step in a state that runs commands: THR falls in the heat, rises where it is cool again, and stays between. -/
theorem exec_throttleStep {thr : Nat} (hrun : runsCommands s.dev = true) (hu : u = s.at_ (s.thm.thrAt + 250 * tickMs))
    (hthr : thr = u.f THM_STATE THM_STATE_THR) (hv : v = u.thrTimer u.thm.hot) :
    exec .throttleStep s = if v.throttleLim ≤ v.tj ∧ 0 < thr then .next (v.setThr (thr - 1))
      else if v.tj ≤ v.throttleLim - 80 ∧ thr < 8 then .next (v.setThr (thr + 1))
      else .next v := by
  subst hv hthr hu
  exact if_neg (by rw [hrun]; decide)

theorem exec_nvlogWrite {body : List Byte} {rest : List (List Byte)} {recent : List Nat}
    (haux : s.boot.off = false ∨ s.boot.thermalOff = true) (hqueue : s.thm.queue = body :: rest)
    (hrecent : recent = s.thm.writes.filter (fun t => decide (s.tm.now < t + tickS)))
    (hu : u = { s with thm := { s.thm with queue := rest, writes := recent } }) :
    exec .nvlogWrite s = .next (if 16 ≤ recent.length ∧ (leAt body 0 1 = nvTrip ∨ leAt body 0 1 = nvFault)
      then (u.addSat THM_NVLOG THM_NVLOG_SUPPR 1).nvSync else (u.nvStore body).nvSync) := by
  subst hu hrecent
  refine (if_neg (aux_powered haux)).trans (congrArg Host.Outcome.next ?_)
  rw [State.nvWriteHead, hqueue]

/-- Settles O48, by the thermal unit's three clocks. -/
theorem thermalAndLogClocks : Obligations.ThermalAndLogClocks := by
  unfold Obligations.ThermalAndLogClocks
  intro s u v
  refine ⟨fun i temp hi haux hu hv => exec_tempSensorReading hi haux hu hv,
    fun thr hrun hu hthr hv => ⟨fun hhot hpos => ?_, fun hcool hlt => ?_, fun hlo hhi => ?_⟩,
    fun body rest recent haux hqueue hrecent hu => ⟨fun hroom => ?_, fun hfull htype => ?_⟩⟩
  · rw [exec_throttleStep hrun hu hthr hv, if_pos ⟨hhot, hpos⟩]
  · have hnot : ¬ (v.throttleLim ≤ v.tj ∧ 0 < thr) := by omega
    rw [exec_throttleStep hrun hu hthr hv, if_neg hnot, if_pos ⟨hcool, hlt⟩]
  · have hnothot : ¬ (v.throttleLim ≤ v.tj ∧ 0 < thr) := by omega
    have hnotcool : ¬ (v.tj ≤ v.throttleLim - 80 ∧ thr < 8) := by omega
    rw [exec_throttleStep hrun hu hthr hv, if_neg hnothot, if_neg hnotcool]
  · have hwrites : ¬ (16 ≤ recent.length ∧ (leAt body 0 1 = nvTrip ∨ leAt body 0 1 = nvFault)) := by
      rintro ⟨hfull, htype⟩
      rcases hroom with hlt | ⟨htrip, hfault⟩
      · omega
      · exact htype.elim htrip hfault
    rw [exec_nvlogWrite haux hqueue hrecent hu, if_neg hwrites]
  · rw [exec_nvlogWrite haux hqueue hrecent hu, if_pos ⟨hfull, htype⟩]

end Sys2Proof
end
